-- ==== Sys2Proof/Word.lean ====
section
/-! DEFINITION. The plain value types of the model: bytes, words and sparse tables. -/

namespace Sys2Proof

/-- One byte (R4: multi-byte fields are little-endian lists of these). -/
abbrev Byte := BitVec 8

/-- A 32-bit word: an operand register (R224), an accumulator word (R88), a binary32 value (R69). -/
abbrev Word := BitVec 32

/-- A sparse table by number, rising keys, no entry equal to the table's default. -/
abbrev Tab (α : Type) := List (Nat × α)

end Sys2Proof
end

