-- ==== Sys2Proof/Syntax.lean ====
section
/-! DEFINITION. The commands of spec/opcode_table.json, one constructor per row, and the data they carry.
The table gives no fields, so the operands are what the row's rules say the event brings from outside. -/

namespace Sys2Proof

/-! ### Names shared by commands and state -/

/-- Status codes, Table 0-5 (R10). -/
inductive Status where
  | ok | accepted | staged | busy | noResource | deadlineUnmet | slotReferenced | streamInUse
  | badField | badState | badRange | metadataFault | tritCode
  | poisoned | tainted | fenced | preempted | cancelled
  | violation | authFail | notPermitted
  deriving DecidableEq, Repr

/-- Who reaches a register or issues a change: ORIGIN kinds of Table 17-8 (R414). VF numbers are 1-8. -/
inductive Origin where
  | pf0 | vf (k : Fin 9) | relay (m : Fin 64) | mgmt | firmware | bootImage
  deriving DecidableEq, Repr

/-- Unit kinds of Table 19-1 (UKIND). -/
inductive UKind where
  | tile | scoreRow | channel | expander | edgeLink | port | core | soInst | computeDie | none
  deriving DecidableEq, Repr

/-- One fenceable unit, coded as Table 19-1 codes UKIND, DIE and UNIT. -/
structure UnitId where
  kind : UKind
  die  : Nat
  unit : Nat
  deriving DecidableEq, Repr

/-- Envelopes, Table 22-1 (R505). -/
inductive Envelope where
  | air | immersion | liquid
  deriving DecidableEq, Repr

/-- Roles, Table 13-3 (R330). -/
inductive Role where
  | mixed | prompt | generate | cache
  deriving DecidableEq, Repr

/-- Region classes, Table 10-3. -/
inductive MemClass where
  | w | s | a
  deriving DecidableEq, Repr

/-- Region owners (R248). -/
inductive Owner where
  | part (n : Fin 8) | shared | module
  deriving DecidableEq, Repr

/-- The fields of a region that a record or a CONFIG gives (Table 10-1), sizes in GiB. -/
structure RegionDef where
  cls    : MemClass
  spread : Bool
  die    : Nat
  owner  : Owner
  base   : Nat
  size   : Nat
  pool   : Nat
  deriving DecidableEq, Repr

/-! ### Tile instruction operands (chapters 4 to 9) -/

/-- A class field of an instruction, as encoded: a constant, or an operand register (R218). -/
inductive Opd where
  | imm (v : Nat)
  | reg (r : Fin 256)
  deriving DecidableEq, Repr

/-- One declared range (Table 9-4): first granule, granule count − 1, WRITE when `write`. -/
structure RangeDecl where
  first : Opd
  cntm1 : Opd
  write : Bool
  deriving DecidableEq, Repr

/-- A range set (Table 9-3): the declared ranges and the arrival count waited for. -/
structure RangeSet where
  ranges : List RangeDecl
  await  : Option (Fin 8 × Nat)
  deriving DecidableEq, Repr

/-- The set of an instruction that declares no range (RSET 0x3FF, Table 9-1). -/
def RangeSet.none : RangeSet := ⟨[], Option.none⟩

/-- TBUILD operands (Table 9-6). -/
structure TbuildArgs where
  src     : Opd
  ngroups : Opd
  ncols   : Opd
  fmt     : Nat
  buf     : Fin 2
  deriving DecidableEq, Repr

/-- TLOOK operands (Table 9-6): `feedExp` selects EXP, whose expander or whose store granule is `feed`. -/
structure TlookArgs where
  feed    : Opd
  nrows   : Opd
  acmBase : Opd
  amode   : Nat
  buf     : Fin 2
  feedExp : Bool
  fmt     : Nat
  ngroups : Opd
  ncols   : Nat
  deriving DecidableEq, Repr

/-- What the array's checks met at a row entry or a read (Table 4-7): hardware errors come from outside. -/
inductive ArrayErr where
  | clean | tableParity | acmCorrected | acmUncorrected
  deriving DecidableEq, Repr

/-- What reading the tile's store meets (R189, R198, Table 8-4): a single- or a double-bit error in a word of granule `g`,
or a double-bit error in the data of a cached line, or in its tag in the tag array. -/
inductive StoreErr where
  | clean | single (g : Nat) | double (g : Nat) | cache (line : Nat) | cacheTag (line : Nat)
  deriving DecidableEq, Repr

/-- DRAIN operands (Table 9-7). -/
structure DrainArgs where
  acmBase : Opd
  nrows   : Opd
  ncols   : Nat
  outFmt  : Nat
  wmode   : Nat
  waddr   : Opd
  ascale  : Option Nat
  dst     : Opd
  stride  : Nat
  clear   : Bool
  deriving DecidableEq, Repr

/-- ATTN.QK and ATTN.PV operands (Table 9-8). -/
structure AttnArgs where
  rows  : Opd
  sbuf  : Fin 2
  nkeys : Opd
  posr  : Fin 256
  hwc   : Nat
  feed  : Nat
  addr  : Opd
  maddr : Opd
  deriving DecidableEq, Repr

/-- VEC operands (Table 9-9). -/
structure VecArgs where
  a     : Opd
  b     : Opd
  d     : Opd
  n     : Opd
  ncols : Nat
  func  : Nat
  fin   : Nat
  fout  : Nat
  aux   : Nat
  deriving DecidableEq, Repr

/-- RNG.DRAW operands (Table 9-12). -/
structure RngArgs where
  d       : Opd
  nblk    : Opd
  domain  : Fin 4
  colr    : Fin 256
  streamr : Fin 256
  ctrr    : Fin 256
  deriving DecidableEq, Repr

/-- BAND.SELECT operands (Table 9-11). -/
structure SelectArgs where
  src   : Opd
  b     : Nat
  nsm1  : Opd
  ncols : Nat
  sum   : Bool
  layer : Opd
  group : Opd
  set   : Fin 8
  dst   : Nat
  deriving DecidableEq, Repr

/-- BAND.APPLY operands (Table 9-11). -/
structure ApplyArgs where
  recGran : Opd
  makeup  : Bool
  b       : Nat
  nsm1    : Opd
  layer   : Opd
  group   : Opd
  set     : Fin 8
  vwin    : Fin 8
  npeer   : Nat
  feedExp : Fin 4
  deriving DecidableEq, Repr

/-- BAND.AUDIT operands (Table 9-11). -/
structure AuditArgs where
  haddr : Opd
  naud  : Opd
  ncols : Nat
  dst   : Opd
  thrr  : Fin 256
  pbr   : Fin 256
  idr   : Fin 256
  set   : Fin 8
  deriving DecidableEq, Repr

/-- MOVE.LOAD and MOVE.STORE operands (Table 9-5), memory address in 64 B units. -/
structure MoveArgs where
  laddr : Opd
  maddr : Opd
  lenm1 : Opd
  cache : Bool
  inv   : Bool
  deriving DecidableEq, Repr

/-- Directions of a neighbour port, and the mover (R199, Table 8-3). -/
inductive Port where
  | n | e | s | w | mover
  deriving DecidableEq, Repr

/-- MOVE.PUT and MOVE.GET operands (Table 9-5): `via` is the tile index reached through the mover. -/
structure PutArgs where
  laddr : Opd
  raddr : Opd
  lenm1 : Opd
  dir   : Port
  via   : Option (Fin 64)
  deriving DecidableEq, Repr

/-- MOVE.SEND operands (Table 9-5). -/
structure SendArgs where
  laddr  : Opd
  raddr  : Opd
  lenm1  : Opd
  tgt    : Opd
  remote : Option (Fin 64)
  vc     : Nat
  deriving DecidableEq, Repr

/-- WIN.OPEN operands (Tables 8-3, 9-13): `src` is the mask N 1, E 2, S 4, W 8, MOVER 16; `dir` 1 IN, 2 OUT, 3 BOTH. -/
structure WinArgs where
  id   : Fin 8
  base : Opd
  len  : Opd
  src  : Nat
  dir  : Nat
  deriving DecidableEq, Repr

/-! ### Memory and expander events -/

/-- Who asks the memory controller (R249, R252). -/
inductive Requester where
  | tile (t : Fin 1024) | vf (k : Fin 9) | pf0 | expander (d : Fin 16) (e : Fin 4)
  | loader | repair | migration | firmware | scrub
  deriving DecidableEq, Repr

/-- What a line's check bytes showed (Table 10-3); `silent`: the channel returned no data at all (R267). -/
inductive LineErr where
  | clean | corrected | uncorrectable | silent
  deriving DecidableEq, Repr

/-- What the test of a memory channel read (R464): its data, an uncorrectable line, or no data at all (R267). -/
inductive ChanRead where
  | data | uncorrectable | silent
  deriving DecidableEq, Repr

/-- One line read or written (R245, R252): module address line × 64; `data` are the 64 bytes a write carries. -/
structure MemAccess where
  who   : Requester
  line  : Nat
  data  : Option (List Byte)
  err   : LineErr
  deriving DecidableEq, Repr

/-- A code-table record (Table 11-3): `lens` is one length per symbol, `checkOk` says CHECK matches. -/
structure CodeTable where
  kindByte : Nat
  gen      : Nat
  reserved : Bool
  checkOk  : Bool
  lens     : List Nat
  deriving DecidableEq, Repr

/-! ### Bundles, programs, adapters (chapter 12) -/

/-- A tensor directory entry (Table 12-2) with what the bundle's tensor data hold for it: its blocks as (length byte,
stored bytes of the 2 KiB place) and its scales; `dest` is a block number, `data` the place of its first block in the tensor data section, in 2 KiB units. -/
structure Tensor where
  layer   : Nat
  kind    : Nat
  expert  : Nat
  rows    : Nat
  cols    : Nat
  planes  : Nat
  fmt     : Nat
  scaleForm : Nat
  codeSlot : Nat
  codeGen : Nat
  data    : Nat
  dest    : Nat
  blocks  : List (Nat × List Byte)
  scales  : List Word
  deriving DecidableEq, Repr

/-- The passes of a LOOP of a tile's image at the worst, for `s` selection sets and `P` pages of the longest stream:
fixed + perSet × s + perPage × P (R372): its count comes from the section, which firmware writes. -/
structure LoopBound where
  tile    : Nat
  index   : Nat
  fixed   : Nat
  perSet  : Nat
  perPage : Nat
  deriving DecidableEq, Repr

/-- What a PAGES entry reads: entry `entry` of feed list `list` (die × 128 + list) streams the pages of a layer and KV head
(R286, R338). -/
structure PageList where
  list   : Nat
  entry  : Nat
  layer  : Nat
  kvHead : Nat
  deriving DecidableEq, Repr

/-- KINDs of a feed entry (Table 11-1). -/
inductive FeedKind where
  | run (n : Nat)
  | bands (b nchunk : Nat) (redo : Bool)
  | gather (b recblk nrows : Nat)
  | pages (secw pgb lag : Nat)
  deriving DecidableEq, Repr

/-- A feed entry (Table 11-1); `fifo` is 0 TLA, 1 EXP_A, 2 EXP_B. -/
structure FeedEntry where
  kind  : FeedKind
  fifo  : Fin 3
  codeSlot : Nat
  codeGen  : Nat
  set   : Nat
  rcp   : List Nat
  base  : Nat
  layer : Nat
  group : Nat
  deriving DecidableEq, Repr

/-- A division entry (Table 19-6). -/
structure DivEntry where
  wunit  : Nat
  home   : Nat
  kind   : Nat
  nwords : Nat
  turns  : Nat
  feed   : Nat
  group  : Nat
  scr    : Nat
  deriving DecidableEq, Repr

/-- A refusal found in an image or a feed table at load (R238, R275): status and where. -/
structure ImageFault where
  status : Status
  tile   : Nat
  index  : Nat
  offset : Nat
  deriving DecidableEq, Repr

/-- Where a program's placement puts the pages of one (layer, KV head): page index i goes to `dies` cyclically (R343). -/
structure Place where
  layer  : Nat
  kvHead : Nat
  dies   : List Nat
  deriving DecidableEq, Repr

/-- A step-program image as stored (Table 9-17), and the tile IDs it is the image of. -/
structure TileImage where
  tiles : List Nat
  bytes : List Byte
  deriving DecidableEq, Repr

/-- The step-program part of a load (R237, R274, R372): one image per tile, and its tables; `feeds` holds
the stored feed lists by die × 128 + list and `divs` the stored division tables by die; `loops` bounds the images' LOOPs; `nsel`
names the section words that carry a layer's selection count, as (word, layer, B) (R168), `pageLists` the layer and KV head each
PAGES entry streams (R338), and `adapterAt`, `treesAt` and `movesAt` the first word of each tile's adapter entries, candidate
trees and moves, as (tile, word) (R302, R321, R347). -/
structure ProgramImage where
  images     : List TileImage
  feeds      : List (Nat × List Byte)
  divs       : List (Nat × List Byte)
  loops      : List LoopBound
  placement  : List Place
  nsel       : List (Nat × Nat × Nat)
  pageLists  : List PageList := []
  adapterAt  : List (Nat × Nat) := []
  treesAt    : List (Nat × Nat) := []
  movesAt    : List (Nat × Nat) := []
  deriving DecidableEq, Repr

/-- Band parameters of a layer (Table 7-1): AGG 0 MAX, 1 SUM; POLICY 0 NOTE, 1 MAKEUP, 2 STRICT; `pbias` is PBIAS, one
FP32 value per band; PA and PB are the layer's tensors of KIND 9 and 10. -/
structure BandParams where
  sparse : Nat
  dens   : Nat
  agg    : Nat
  policy : Nat
  miss   : Word
  rp     : Nat
  pbias  : List Word
  deriving DecidableEq, Repr

/-- The parameters of one layer: the ε of its norms (R146) and its band parameters. -/
structure LayerRec where
  layer : Nat
  eps   : Word
  band  : BandParams
  deriving DecidableEq, Repr

/-- A MoE layer record (Table 12-5): POLICY 0 REROUTE, 1 DROP; `place` is each expert's place, its alternate after it:
0–1023 a tile set of this module, 1024 + m module m. -/
structure MoeRec where
  layer  : Nat
  nexp   : Nat
  topr   : Nat
  rmax   : Nat
  cap    : Nat
  policy : Nat
  place  : List (Nat × Option Nat)
  deriving DecidableEq, Repr

/-- The layer parameters and MoE tables of a bundle (sections 2 and 5), with CHUNK, the context limit and HW of its model. -/
structure LayerParams where
  chunk     : Nat
  ctxLimit  : Nat
  hw        : Nat
  layers    : List LayerRec
  moe       : List MoeRec
  deriving DecidableEq, Repr

/-- What a bundle image says (Table 12-1): `checkOk` that CHECK matches, `reserved` that every reserved field is zero and
every section stands; `dataAt` is the offset of section 6, the tensor data. -/
structure Bundle where
  id        : Nat
  version   : Nat
  base      : Option (Nat × Nat)
  shared    : Bool
  mirror    : Bool
  moe       : Bool
  stochastic : Bool
  page4k    : Nat
  nlayers   : Nat
  dModel    : Nat
  vocab     : Nat
  codes     : List (Nat × CodeTable)
  kvSlot    : Nat
  kvGen     : Nat
  checkOk   : Bool
  reserved  : Bool
  dataAt    : Nat
  tensors   : List Tensor
  params    : LayerParams
  program   : ProgramImage
  deriving DecidableEq, Repr

/-- A bundle image in host memory, byte for byte, with what its sections 2 to 5 spell: layer parameters, MoE records,
step-program images and feed tables. -/
structure BundleImage where
  bytes   : List Byte
  params  : LayerParams
  program : ProgramImage
  deriving DecidableEq, Repr

/-- An adapter record (Table 12-4), byte for byte. -/
structure AdapterImage where
  data : List Byte
  deriving DecidableEq, Repr

/-! ### Commands (chapter 17) -/

/-- A descriptor's carrier and header (Tables 17-1, 17-2): the function, the ring it came from (none: the mailbox),
its ring index, the offset of the first reserved byte that is not zero, if any, the front module that relayed it (R400),
if any, and, where PART does not name the ring's own partition (R406), that partition. -/
structure Src where
  fn       : Fin 9
  part     : Fin 8
  ctx      : Fin 32
  ring     : Option (Fin 5)
  ridx     : Nat
  tag      : Nat
  slot     : Nat
  reserved : Option Nat
  front    : Option (Fin 64)
  via      : Option (Fin 8) := none
  deriving DecidableEq, Repr

/-- A candidate node (R320, R408); `q` is a binary32 pattern. -/
structure Node where
  parent : Option Nat
  token  : Nat
  q      : Word
  deriving DecidableEq, Repr

/-- A candidate tree (R320). -/
structure Tree where
  basePos : Nat
  nodes   : List Node
  deriving DecidableEq, Repr

/-- SUBMIT arguments (Table 17-3). -/
structure SubmitArgs where
  seeded    : Bool
  replay    : Bool
  noPrefix  : Bool
  bundle    : Nat
  adapter   : Option Nat
  substream : Nat
  temp      : Word
  topP      : Word
  topK      : Nat
  spec      : Nat
  nstop     : Nat
  maxNew    : Nat
  nprompt   : Nat
  ttft      : Nat
  itl       : Nat
  ntree     : Nat
  block     : Nat
  deriving DecidableEq, Repr

/-- A SUBMIT's request block (R408). -/
structure ReqBlock where
  seed   : Nat
  stops  : List Nat
  prompt : List Nat
  tree   : Option Tree
  deriving DecidableEq, Repr

/-- A fetched descriptor as the taken list keeps it: command code, tag, slot, context. -/
structure Fetched where
  cmd  : Nat
  tag  : Nat
  slot : Nat
  ctx  : Nat
  deriving DecidableEq, Repr

/-- What a DMA read was for (Table 16-11). -/
inductive DmaPurpose where
  | descriptors (part : Fin 8) (ring : Fin 5)
  | load (part : Fin 8)
  | swapRestore (slot : Nat)
  | command (x : Src)
  deriving DecidableEq, Repr

/-- How a DMA read failed (R399). -/
inductive DmaStatus where
  | ur | ca | ep | timeout
  deriving DecidableEq, Repr

/-- A DMA read of host memory that failed: its address and its completion status (R399). -/
structure DmaFail where
  addr : Nat
  st   : DmaStatus
  deriving DecidableEq, Repr

/-- A code table's record read from host memory (R281): its address, and its bytes where the read did not fail. -/
structure CodeRead where
  addr : Nat
  data : DmaFail ⊕ List Byte
  deriving DecidableEq, Repr

/-- What SPECULATE names (R320): base position, node count and address of its tree, and the nodes read there. -/
structure TreeRead where
  basePos : Nat
  nnodes  : Nat
  addr    : Nat
  nodes   : DmaFail ⊕ List Byte
  deriving DecidableEq, Repr

/-- A completion (Tables 17-5, 17-6); `detail` is bytes 24-31 as a little-endian number. -/
structure Cpl where
  tag    : Nat
  time   : Nat
  origin : Nat
  status : Status
  kind   : Nat
  slot   : Nat
  detail : Nat
  deriving DecidableEq, Repr

/-- A token output or dead-letter record (Table 17-7). -/
structure OutRec where
  tag    : Nat
  time   : Nat
  origin : Nat
  status : Status
  flags  : Nat
  slot   : Nat
  token  : Nat
  pos    : Nat
  deriving DecidableEq, Repr

/-! ### Links (chapter 18) -/

/-- What a RELAY packet carries (R400, R401): a register access and its answer, a descriptor with its command code, a
mailbox response of a function of the receiving front module, a completion or a token of ring set `part`. -/
inductive RelayBody where
  | access (off width : Nat) (value : Option Nat)
  | reply (off value : Nat)
  | command (x : Src) (cmd : Nat)
  | mboxReply (fn : Fin 9) (c : Cpl)
  | completion (part : Fin 8) (c : Cpl)
  | token (part : Fin 8) (r : OutRec)
  deriving DecidableEq, Repr

/-- What a link control flit carries (R427); IDENT, NAK and FENCE act in rows of their own. -/
inductive LinkCtl where
  | ident | nak | fence
  | credits (vc : Fin 4) (h : Bool) (n : Nat)
  | width (w : Nat)
  | sleepEntry
  | unknown
  deriving DecidableEq, Repr

/-- A flit as received (Table 18-2): its header, the numbers of its symbols in error, and what it carries where it is a link
control flit. -/
structure Flit where
  vc     : Fin 4
  stop   : Bool
  clsH   : Bool
  last   : Bool
  fkind  : Nat
  seq    : Nat
  ackSeq : Nat
  crVc   : Fin 4
  crH    : Bool
  crN    : Nat
  errs   : List Nat
  ctl    : LinkCtl
  deriving DecidableEq, Repr

/-- A packet header (Table 18-4), the port and buffer class it came on, and whether its CRC holds. -/
structure Packet where
  dmod   : Nat
  smod   : Nat
  port   : Fin 24
  vc     : Fin 4
  first  : Bool
  lastp  : Bool
  stored : Bool
  dtile  : Nat
  flow   : Nat
  pseq   : Nat
  dgran  : Nat
  moff   : Nat
  mlen   : Nat
  crcOk  : Bool
  data   : List Byte
  clsH   : Bool := false
  deriving DecidableEq, Repr

/-- Which message of a page copy a PAGE packet belongs to (R333, R334, R356; notes/assumptions/74.md): the pages, a request for a
set, an offer with CODE, LAYER and KVHEAD of each page, and the receiver's answers: it holds the code table, or it takes the
pages decoded. -/
inductive PageMsg where
  | data
  | ask
  | offer (pages : List (Nat × Nat × Nat))
  | go
  | raw
  deriving DecidableEq, Repr

/-- A request's tracker as a handoff carries it (R332): its place at the front module (R400), what it asked for, the
versions it binds, its tokens so far, its page sets, and the code table they are sealed with; `front` is the module whose
ring set it came through. -/
structure Tracker where
  front    : Fin 64
  tag      : Nat
  ring     : Fin 5
  ridx     : Nat
  lc       : Bool
  args     : SubmitArgs
  stops    : List Nat
  seed     : Nat
  key      : List Word
  version  : Nat
  adapter  : Option (Nat × Nat)
  tokens   : List Nat
  sets     : Nat
  kvSlot   : Nat
  kvGen    : Nat
  deriving DecidableEq, Repr

/-- Reasons of a QUENCH (R437). -/
inductive Quench where
  | cancelled | refused | abandoned | fenced
  deriving DecidableEq, Repr

/-- Cases of Table 18-6. -/
inductive ProtoCase where
  | credit | seqWindow | header | length | kindVc | stopHeld
  deriving DecidableEq, Repr

/-! ### Boot, images (chapter 20) -/

/-- A configuration record's body (Table 20-5). -/
inductive ConfBody where
  | envelope (env thr : Envelope)
  | host (minMode : Nat) (front : Bool)
  | group (id topo count : Nat) (master : Bool)
  | route (dst primary alt via : Nat)
  | region (n : Nat) (r : RegionDef)
  | partition (n : Fin 8) (dies nctx quota : Nat) (role : Role) (so poolPage poolMeta colBudget treeNodes : Nat)
  | vfBind (k : Fin 9) (part : Fin 8) (module : Nat) (remote : Bool)
  | roleTable (p : Fin 8) (targets : List (Nat × Nat))
  | field (off width value mask : Nat)
  | fenceMin (n : Nat)
  deriving DecidableEq, Repr

/-- A configuration record (R479). -/
structure ConfRec where
  mod  : Nat
  body : ConfBody
  deriving DecidableEq, Repr

/-! ### Security, management, power events -/

/-- The two SPDM transports (R500, R501). -/
inductive Transport where
  | doe | mctp
  deriving DecidableEq, Repr

/-- Sideband inputs, coded as Table 19-18 codes them. -/
inductive SideInput where
  | pwrEn | perst | throttle | gsync | modId | mgmt
  deriving DecidableEq, Repr

/-- A wake source (Table 19-18, WAKE). -/
inductive WakeSource where
  | sleepReg | mgmtCmd | doorbell (fn : Fin 9) | mbx (fn : Fin 9) | group (m : Fin 64) | scrub
  deriving DecidableEq, Repr

/-- Turns completed in one window by a unit's four sensing stages: the main-loop stages of the cells at group-row 0 or 31
and column 0 or 63 (R31). -/
structure Stages where
  c0x0   : Nat
  c0x63  : Nat
  c31x0  : Nat
  c31x63 : Nat
  deriving DecidableEq, Repr

/-- SPDM requests (R500). -/
inductive Spdm where
  | getVersion | getCapabilities | negotiate (algOk : Bool) | getDigests | getCertificate (slot : Nat)
  | challenge (slot nonce : Nat) | getMeasurements (index nonce : Nat) | other (code : Nat)
  deriving DecidableEq, Repr

/-! ### The commands -/

/-- One constructor per row of spec/opcode_table.json, in the table's order. -/
inductive Instr where
  -- pace and timebase (02)
  | paceWindowEnd (die : Fin 20) (turns : List Stages)
  | paceLowClear (p : Fin 8)
  | voltageSettled (die : Fin 20)
  | timeWord
  | tmbNowLowRead (rd : Origin)
  -- trit lookup array (04)
  | tbuild (t : Fin 1024) (rs : RangeSet) (a : TbuildArgs)
  | tbuildComplete (t : Fin 1024) (err : StoreErr := .clean)
  | tlook (t : Fin 1024) (rs : RangeSet) (a : TlookArgs)
  | tlookRowEntry (t : Fin 1024) (err : ArrayErr) (st : StoreErr := .clean)
  | tlookRetire (t : Fin 1024)
  | drain (t : Fin 1024) (rs : RangeSet) (a : DrainArgs) (err : ArrayErr)
  | drainRetire (t : Fin 1024) (err : StoreErr := .clean)
  -- attention engine (05)
  | attnQk (t : Fin 1024) (rs : RangeSet) (a : AttnArgs)
  | keyJoin (t : Fin 1024) (tag : Nat) (parity : Option (Fin 32)) (err : StoreErr := .clean)
  | attnQkRetire (t : Fin 1024) (tag : Nat)
  | attnSoftInit (t : Fin 1024) (rs : RangeSet) (rows addr : Opd) (gang : Bool)
  | attnSoftBlock (t : Fin 1024) (rs : RangeSet) (rows : Opd) (sbuf : Fin 2)
  | attnSoftExport (t : Fin 1024) (rs : RangeSet) (rows addr : Opd)
  | attnPv (t : Fin 1024) (rs : RangeSet) (a : AttnArgs)
  | attnPvRetire (t : Fin 1024) (tag : Nat) (parity : Option (Fin 32)) (err : StoreErr := .clean)
  | aeFeedTimeout (t : Fin 1024) (tag : Nat)
  -- vector unit and random generator (06)
  | vecOp (t : Fin 1024) (rs : RangeSet) (a : VecArgs)
  | vecXred (t : Fin 1024) (rs : RangeSet) (a : VecArgs)
  | vecRed (t : Fin 1024) (rs : RangeSet) (a : VecArgs)
  | vecMerge (t : Fin 1024) (rs : RangeSet) (a : VecArgs)
  | vecNorm (t : Fin 1024) (rs : RangeSet) (a : VecArgs)
  | vecRope (t : Fin 1024) (rs : RangeSet) (a : VecArgs)
  | vecQuant (t : Fin 1024) (rs : RangeSet) (a : VecArgs)
  | vecTopk (t : Fin 1024) (rs : RangeSet) (a : VecArgs)
  | vecSample (t : Fin 1024) (rs : RangeSet) (a : VecArgs)
  | vecRetire (t : Fin 1024) (parity : Bool) (err : StoreErr := .clean)
  | vecRedTimeout (t : Fin 1024)
  | rngDraw (t : Fin 1024) (rs : RangeSet) (a : RngArgs)
  -- bands (07)
  | bandSelect (t : Fin 1024) (rs : RangeSet) (a : SelectArgs)
  | bandApply (t : Fin 1024) (rs : RangeSet) (a : ApplyArgs)
  | bandGroupVerdict (t : Fin 1024) (peers : List (Fin 1024)) (writer : Fin 1024)
  | bandAudit (t : Fin 1024) (rs : RangeSet) (a : AuditArgs)
  | strictLayerVerdict (p : Fin 8) (step layer : Nat) (set : Fin 8)
  | bandVerdictTimeout (t : Fin 1024)
  -- tile store and mover (08)
  | moveLoad (t : Fin 1024) (rs : RangeSet) (a : MoveArgs)
  | moveStore (t : Fin 1024) (rs : RangeSet) (a : MoveArgs)
  | movePut (t : Fin 1024) (rs : RangeSet) (a : PutArgs)
  | moveGet (t : Fin 1024) (rs : RangeSet) (a : PutArgs)
  | moveSend (t : Fin 1024) (rs : RangeSet) (a : SendArgs)
  | moveRetire (t : Fin 1024) (tag : Nat) (err : StoreErr := .clean) (lines : List LineErr := [])
  | cacheFillArrive (t : Fin 1024) (tag line : Nat) (errs : List LineErr)
  | winOpen (t : Fin 1024) (a : WinArgs) (rs : RangeSet := RangeSet.none)
  | winClose (t : Fin 1024) (id : Fin 8) (rs : RangeSet := RangeSet.none)
  | winCloseRetire (t : Fin 1024) (id : Fin 8)
  | putArrive (t : Fin 1024) (src : Port) (writer : Fin 1024) (gran : Nat) (data : List Byte)
  | getArrive (t : Fin 1024) (src : Port) (reader : Fin 1024) (gran len : Nat)
  | dieSendArrive (t : Fin 1024) (writer : Fin 1024) (gran : Nat) (data : List Byte) (vec : Bool) (route : Bool := false)
  | arrivalTimeout (t : Fin 1024)
  -- control processor (09)
  | syncWait (t : Fin 1024) (rs : RangeSet) (blocks : BitVec 6)
  | syncBar (t : Fin 1024) (rs : RangeSet) (blocks : BitVec 6) (bar : Fin 64)
  | barrierRelease (t : Fin 1024) (bar : Fin 64)
  | syncTimeout (t : Fin 1024) (bar : Fin 64)
  | syncEnd (t : Fin 1024) (rs : RangeSet)
  | endNotice (t : Fin 1024)
  | stageLoad (t : Fin 1024) (secoff : Opd) (nm1 : Fin 256) (first : Fin 256) (rs : RangeSet := RangeSet.none)
  | stageLoop (t : Fin 1024) (target : Nat) (cntr stepr : Fin 256) (stride : BitVec 16) (rs : RangeSet := RangeSet.none)
  | issueLimit (t : Fin 1024)
  | abandonNotice (t : Fin 1024)
  | stepAbandonComplete (p : Fin 8)
  | pbPrefetchDone (t : Fin 1024) (errs : List LineErr)
  | pbPrefetchTimeout (t : Fin 1024)
  | switchStopNotice (t : Fin 1024)
  -- serving (13, 14)
  | stepBoundary (p : Fin 8)
  | stepCompose (p : Fin 8)
  | slotRelease (slot : Fin 65536)
  | handoffRetryTimer (slot : Fin 65536)
  | swapRecordWritten (p : Fin 8) (page : Nat)
  | readmit (slot : Fin 65536)
  | restorePage (slot : Fin 65536) (data : DmaFail ⊕ List Byte)
  -- expander and memory (10, 11)
  | lengthByteArrive (d : Fin 16) (e : Fin 4) (l : Fin 32)
  | blockDecode (d : Fin 16) (e : Fin 4) (l : Fin 32) (errs : List LineErr)
  | blockForward (d : Fin 16) (e : Fin 4) (l : Fin 32)
  | bandListArrive (d : Fin 16) (e : Fin 4) (layer group : Nat) (set : Fin 8) (copies : List (List Nat))
  | expListTimeout (d : Fin 16) (e : Fin 4) (l : Fin 32)
  | tlookFeedTimeout (t : Fin 1024)
  | sealComplete (p : Fin 8) (page : Nat)
  | memoryAccess (a : MemAccess)
  | patrolScrubStep (ch : Fin 512) (line : Nat) (err : LineErr)
  | migrationBucketDone (ch : Fin 512) (spread : Bool) (bucket : Nat) (poisoned : List Nat)
  | migrationEnd (ch : Fin 512)
  -- loads (11, 12)
  | loadBundle (x : Src) (addr len : Nat) (b : BundleImage)
  | bundleCommit (p : Fin 8)
  | loadProgram (x : Src) (addr len : Nat) (bundle : Nat) (pr : ProgramImage)
  | unloadBundle (x : Src) (bundle : Nat)
  | unloadProgram (x : Src) (bundle : Nat)
  | loadAdapter (x : Src) (addr len : Nat) (a : AdapterImage)
  | adapterCommit (p : Fin 8) (adapter : Nat)
  | deleteAdapter (x : Src) (bundle adapter : Nat)
  | loadCode (x : Src) (die : Fin 16) (slot : Fin 16) (rec : CodeRead)
  -- contexts and admission (15)
  | sliceExpiry (p : Fin 8)
  | contextSwitch (p : Fin 8)
  | switchQuiesceDone (p : Fin 8)
  | switchSaveDone (p : Fin 8)
  | switchRestoreDone (p : Fin 8)
  | quiesceTimeout (p : Fin 8)
  | readmission (p : Fin 8)
  -- host interface (16)
  | linkTrained (speed width : Nat) (flit : Bool)
  | hostLinkReset (perst : Bool)
  | vfFlr (k : Fin 9)
  | pf0Flr
  | vfEnableClear
  | bar4Access (off len : Nat) (data : Option (List Byte)) (ep : Bool) (errs : List LineErr)
  | tlpError (fn : Fin 9) (unsupported : Bool)
  | doorbellWrite (fn : Fin 9) (p : Fin 8) (r : Fin 5) (value : BitVec 32)
  | pauseEnd (fn : Fin 9)
  | ringFetch (p : Fin 8) (r : Fin 5) (descs : List Fetched)
  | dmaReadComplete (why : DmaPurpose) (bad : Option DmaFail)
  | outputBatchWrite (p : Fin 8) (r : Fin 5)
  | msixModerationTimer (p : Fin 8) (r : Fin 5)
  | mbxDbWrite (fn : Fin 9) (value : BitVec 32) (width : Nat)
  | relayAccess (rd : Origin) (off width : Nat) (value : Option Nat)
  | relayTimeout (module : Fin 64)
  | registerWrite (o : Origin) (bar off width value : Nat)
  -- commands (17)
  | submit (x : Src) (a : SubmitArgs) (blk : DmaFail ⊕ List Byte)
  | speculate (x : Src) (tree : TreeRead)
  | cancel (x : Src)
  | cancelAll (x : Src)
  | ringAttach (x : Src) (ring : Fin 5) (log2 base wb start modCount modTime : Nat)
  | ringAttachKeep (x : Src) (ring : Fin 5) (log2 base wb modCount modTime : Nat)
  | ringDetach (x : Src) (ring : Fin 5)
  | ringPause (x : Src) (ring : Fin 5)
  | ringResume (x : Src) (ring : Fin 5)
  | config (x : Src) (off width value mask : Nat)
  | contextCreate (x : Src)
  | contextDelete (x : Src)
  | swapArea (x : Src) (addr size : Nat)
  | swapAreaUnregister (x : Src)
  | readJournal (x : Src) (count start addr : Nat)
  | readLedger (x : Src) (count start addr : Nat)
  | readDlq (x : Src) (count addr : Nat)
  | readStepRecords (x : Src) (count start addr : Nat)
  | readErrors (x : Src) (count start addr : Nat)
  | dlqAck (x : Src) (n : Nat)
  | journalWrite (p : Fin 8) (n : Nat)
  | ledgerSelWrite (o : Origin) (seq : Nat)
  -- links (18)
  | flitReceive (p : Fin 24) (f : Flit)
  | nakReceive (p : Fin 24) (seq : Nat)
  | identReceive (p : Fin 24) (module peerPort group topo : Nat)
  | fenceReceive (p : Fin 24)
  | sendPacketReceive (k : Packet) (vec : Bool)
  | relayPacketReceive (k : Packet) (b : RelayBody)
  | handoffPacketReceive (k : Packet) (p : Fin 8) (tr : Tracker)
  | handoffAckReceive (slot : Fin 65536) (accepted : Bool) (st : Status)
  | pagePacketReceive (k : Packet) (p : Fin 8) (hash : Nat) (msg : PageMsg := .data)
  | weightPacketReceive (k : Packet) (ask : Option (Nat × Nat × Nat)) (block : Nat)
  | expertPacketReceive (k : Packet) (route : Bool)
  | ackReceive (flow pseq : Nat)
  | ackTimer (smod flow : Nat)
  | resendTimer (flow pseq : Nat)
  | quenchReceive (flow : Nat) (why : Quench)
  | timeExchange
  | timeReceive (peer : Fin 64) (hops : Nat) (t1 t2 t3 t4 : Nat)
  | routeReceive (dst : Fin 64) (reachable : Bool)
  | wakeMessage (peer : Fin 64)
  | laneErrorWindow (p : Fin 24) (lane : Fin 8) (corrected symbols : Nat)
  | laneDrop (p : Fin 24) (lane : Fin 8)
  | portDown (p : Fin 24)
  | retrainAttempt (p : Fin 24) (trained : Bool)
  | lnkRetrainWrite (o : Origin) (p : Fin 24)
  | linkLayerReset (p : Fin 24) (why : ProtoCase)
  | stopTimeout (p : Fin 24)
  | masterTimeout
  | sleepPacketTimeout (flow : Nat)
  -- faults and tests (19)
  | errorRecordWrite (n : Nat)
  | countAgeOut (u : UnitId)
  | ceRateHour (u : UnitId) (count : Nat)
  | suspectTimeout (u : UnitId)
  | ftRotation
  | ftOverdue (t : Fin 1024)
  | testGapOpen (p : Fin 8) (t : Fin 1024)
  | ftSessionDone (t : Fin 1024) (tileOk : Bool) (badRows : List (Fin 32)) (expOk : Bool)
  | channelTestDone (ch : Fin 512) (found : ChanRead) (stuck : Nat)
  | coreTestDone (u : UnitId) (pass : Bool)
  | unitFence (u : UnitId)
  | rebalanceDone (u : UnitId)
  | fenceListWrite
  | rasUnfenceGo (o : Origin) (u : UnitId)
  | repairAttemptResult (block : Nat) (source : Fin 3) (host : Option (Nat × List Byte))
  | edgeLinkTimeout (d : Fin 16) (dir : Fin 4) (parity : Bool := false)
  | coreWatchdog (xd : Fin 4) (core : Fin 8) (inSo : Bool)
  -- boot (20)
  | bootRomStart (fast : Bool)
  | modidSample (first : List (BitVec 6)) (further : List (BitVec 6))
  | imageVerified
  | stacksTrained (failed : List (Fin 16))
  | firmwareRun
  | runTimeout
  | imgWriteGo (o : Origin) (img : DmaFail ⊕ List Byte)
  | imageWriteDone (readBack : Bool)
  | fwActGo (o : Origin)
  | fwLoadDone
  | coreBankSwitch (c : Fin 36)
  | activationConfirm
  | reboot (o : Origin)
  -- security (21)
  | secCommitGo (o : Origin)
  | secRevokeGo (o : Origin) (k : Fin 8)
  | fuseBlowDone (good : Bool) (blown : Nat)
  | getVersion (tr : Transport)
  | getCapabilities (tr : Transport)
  | negotiateAlgorithms (tr : Transport) (algOk : Bool)
  | getDigests (tr : Transport)
  | getCertificate (tr : Transport) (slot : Nat)
  | challenge (tr : Transport) (slot : Nat) (nonce : Nat)
  | getMeasurements (tr : Transport) (index nonce : Nat)
  | spdmUnsupported (tr : Transport) (code : Nat)
  | doeAbort (tr : Transport)
  | rngHealthFail
  | jtagInstruction (ir : Nat)
  -- power (22)
  | powerGrantTick (mv ma10 p1 p10 : Nat) (dieW : List Nat)
  | thermalVlimitTick (die : Fin 20) (north south : List Int) (io : Int)
  | sensorFail (t : Fin 1024)
  | thermalTrip (die : Fin 20)
  | throttleAssert
  | throttleDeassert
  | throttleHoldEnd
  | throttleStuckTimer
  | supplyOutOfRange (mv : Nat)
  | supplyRestored (mv : Nat)
  | supplyShutoff
  | sleepRequest (o : Origin)
  | sleepEntered
  | wakeRequest (o : Origin)
  | wakeComplete
  | scrubWake
  -- sideband and management (23)
  | pwrEnAssert
  | pwrEnDeassert
  | sideInputGlitch (w : SideInput)
  | perstStuckTimeout
  | gsyncEdge (offsetNs : Int)
  | gsyncMissing
  | modidPinChange (pins : BitVec 6)
  | i3cDaa (addr : BitVec 7)
  | mctpPacket (req : Spdm)
  | mgmtRead (off : Nat)
  | mgmtWrite (off value : Nat)
  | mgmtImageData (off : Nat) (data : List Byte)
  | mgmtBadByte (b : Byte)
  | perstDeassert
  | standbyPowerUp
  -- rows added at the table's end
  | busMasterEnableChange (fn : Fin 9) (on : Bool)
  | vfEnableSet (n : Nat)
  | attnSoftRetire (t : Fin 1024) (tag : Nat) (parity : Option (Fin 32) := none) (err : StoreErr := .clean)
  | rngDrawRetire (t : Fin 1024)
  | wideRegisterLowRead (rd : Origin) (off : Nat)
  | rngHealthPass
  deriving DecidableEq, Repr

end Sys2Proof
end

