-- ==== Sys2Proof/Machine/Tab.lean ====
section
/-! DEFINITION. Sparse tables in one canonical form: keys strictly rising, no entry equal to the default.
Every numbered file of the machine (tiles, pages, regions) and every byte memory is one of these. -/

namespace Sys2Proof.Machine

/-- The entry of `k`, or the default where none is listed. -/
def tabGet {α : Type} (t : Tab α) (k : Nat) (d : α) : α :=
  match t with
  | [] => d
  | (j, v) :: r => if j = k then v else tabGet r k d

/-- Remove every entry of `k`. -/
def tabDel {α : Type} (t : Tab α) (k : Nat) : Tab α := t.filter fun e => e.1 != k

/-- Write `v` at `k`: keys stay rising, and writing the default removes the entry. -/
def tabSet {α : Type} [DecidableEq α] (t : Tab α) (k : Nat) (v : α) (d : α) : Tab α :=
  match t with
  | [] => if v = d then [] else [(k, v)]
  | (j, w) :: r =>
    if j < k then (j, w) :: tabSet r k v d
    else if j = k then (if v = d then tabDel r k else (k, v) :: r)
    else if v = d then (j, w) :: tabDel r k else (k, v) :: (j, w) :: r

/-- Apply `f` to the entry of `k`. -/
def tabMod {α : Type} [DecidableEq α] (t : Tab α) (k : Nat) (d : α) (f : α → α) : Tab α :=
  tabSet t k (f (tabGet t k d)) d

/-- Keys at or above `lo` are strictly rising and no entry equals the default. -/
def tabWfFrom {α : Type} [DecidableEq α] (d : α) : Nat → Tab α → Bool
  | _, [] => true
  | lo, (j, v) :: r => decide (lo ≤ j) && decide (v ≠ d) && tabWfFrom d (j + 1) r

/-- The canonical form of a table. -/
def tabWf {α : Type} [DecidableEq α] (d : α) (t : Tab α) : Bool := tabWfFrom d 0 t

/-- Write a run of values from `k` on. -/
def tabSetRun {α : Type} [DecidableEq α] (t : Tab α) (k : Nat) (vs : List α) (d : α) : Tab α :=
  match vs with
  | [] => t
  | v :: r => tabSetRun (tabSet t k v d) (k + 1) r d

/-- Read `n` values from `k` on. -/
def tabGetRun {α : Type} (t : Tab α) (k n : Nat) (d : α) : List α :=
  (List.range n).map fun i => tabGet t (k + i) d

/-- The keys of a table. -/
def tabKeys {α : Type} (t : Tab α) : List Nat := t.map Prod.fst

/-- Byte memories: cells of (address, byte), unlisted addresses read zero (notes/assumptions/2.md, DESIGN CHOICE). -/
abbrev Memory := List Host.Cell

/-- What an unlisted address reads as. -/
def Memory.unlisted : Byte := 0

/-- The canonical form of a byte memory. -/
def Memory.wf (m : Memory) : Bool := tabWf Memory.unlisted m

/-- One byte read. -/
def Memory.read (m : Memory) (a : Nat) : Byte := tabGet m a Memory.unlisted

/-- One byte write. -/
def Memory.write (m : Memory) (a : Nat) (b : Byte) : Memory := tabSet m a b Memory.unlisted

/-- `n` bytes from `a`, lowest address first. -/
def Memory.readRun (m : Memory) (a n : Nat) : List Byte := tabGetRun m a n Memory.unlisted

/-- Write bytes from `a` on. -/
def Memory.writeRun (m : Memory) (a : Nat) (bs : List Byte) : Memory := tabSetRun m a bs Memory.unlisted

/-- The number that little-endian bytes spell (R4). -/
def leNat : List Byte → Nat
  | [] => 0
  | b :: r => b.toNat + 256 * leNat r

/-- `n` little-endian bytes of a number (R4). -/
def leBytes : Nat → Nat → List Byte
  | 0, _ => []
  | n + 1, v => BitVec.ofNat 8 v :: leBytes n (v / 256)

/-- Saturating addition to a counter of `w` bits. -/
def satAdd (w : Nat) (c n : Nat) : Nat := min (c + n) (2 ^ w - 1)

/-- `n` rounded up to the next multiple division: ⌈a / b⌉. -/
def ceilDiv (a b : Nat) : Nat := (a + b - 1) / b

/-- Replace or drop by a test, in a list of things with identities. -/
def listUpd {α : Type} (p : α → Bool) (f : α → α) (l : List α) : List α :=
  l.map fun x => if p x then f x else x

end Sys2Proof.Machine
end

