-- ==== Sys2Proof/Machine/Ecc.lean ====
section
/-! DEFINITION. Parity of table words and the check bits of accumulator words (R77, R88). -/

namespace Sys2Proof.Machine

/-- The parity of a number below 2⁶⁴. -/
def parityOf (n : Nat) : Nat :=
  let a := n ^^^ n / 2 ^ 32
  let b := a ^^^ a / 2 ^ 16
  let c := b ^^^ b / 2 ^ 8
  let d := c ^^^ c / 2 ^ 4
  let e := d ^^^ d / 2 ^ 2
  (e ^^^ e / 2) % 2

/-! ### Table words (R77) -/

/-- A table word with its parity bit on top, even over the 17 bits (notes/assumptions/72.md). -/
def parWord (w : BitVec 16) : BitVec 17 := BitVec.ofNat 17 (w.toNat + 2 ^ 16 * parityOf w.toNat)

/-- The 16 bits of a stored table word. -/
def wordOf (w : BitVec 17) : BitVec 16 := w.setWidth 16

/-- Whether a stored table word fails its parity. -/
def parBad (w : BitVec 17) : Bool := parityOf w.toNat != 0

/-! ### Accumulator words (R88) -/

/-- Places of the 32 data bits in the code word: the numbers from 3 that are no power of two. -/
def eccPlaces : List Nat := (List.range' 3 36).filter fun p => p != 2 ^ Nat.log2 p

/-- The data bits that check bit `j` covers: those whose place has bit `j`. -/
def eccMask (j : Nat) : Nat := (eccPlaces.zipIdx.map fun e => if e.1.testBit j then 2 ^ e.2 else 0).sum

/-- The six check bits of a word's single-error-correcting code, bit 0 lowest. -/
def eccSix (w : Nat) : Nat := ((List.range 6).map fun j => 2 ^ j * parityOf (w &&& eccMask j)).sum

/-- The 7 check bits of a word: the six, and the parity of data and check bits, which tells a double error from a single one
(notes/assumptions/72.md). -/
def eccBits (w : Nat) : Nat := eccSix w + 64 * parityOf (w ^^^ eccSix w * 2 ^ 32)

/-- An accumulator word with its check bits above it. -/
def acmEnc (w : Word) : BitVec 39 := BitVec.ofNat 39 (w.toNat + 2 ^ 32 * eccBits w.toNat)

/-- What reading a stored accumulator word gives: the data, a single-bit error corrected, and what its check met. -/
def acmDec (v : BitVec 39) : Word × ArrayErr :=
  let w := v.toNat % 2 ^ 32
  let syn := eccSix w ^^^ v.toNat / 2 ^ 32 % 64
  if parityOf v.toNat = 0 then (BitVec.ofNat 32 w, if syn = 0 then .clean else .acmUncorrected)
  else match eccPlaces.findIdx? (· == syn) with
    | some i => (BitVec.ofNat 32 (w ^^^ 2 ^ i), .acmCorrected)
    | none => (BitVec.ofNat 32 w, .acmCorrected)

/-- The worse of two findings of the array's checks. -/
def worseErr : ArrayErr → ArrayErr → ArrayErr
  | .clean, e => e
  | .acmCorrected, .acmUncorrected => .acmUncorrected
  | e, _ => e

end Sys2Proof.Machine
end

