-- ==== Sys2Proof/Machine/TileWord.lean ====
section
/-! DEFINITION. The 128-bit instruction word, range-set records and step-program images as stored (R216 to R223, R237,
R238): what a word spells, and which constants no image may hold. -/

namespace Sys2Proof.Machine

/-! ### Fields of a word -/

/-- Bits `lo` to `hi` of a word. -/
def bitsAt (w lo hi : Nat) : Nat := w / 2 ^ lo % 2 ^ (hi + 1 - lo)

/-- Whether bits `lo` to `hi` are zero. -/
def bitsZero (w lo hi : Nat) : Bool := bitsAt w lo hi == 0

/-- Class field F`n` in bits `lo` to `hi`: a register when its IND bit is set, whose number's high bits must be zero
(R218). -/
def fieldAt (w n lo hi : Nat) : Option Opd :=
  let v := bitsAt w lo hi
  if (bitsAt w 18 21).testBit n then (if v < 256 then some (.reg (Fin.ofNat 256 v)) else none) else some (.imm v)

/-- Whether IND names only the fields a class lets be indirect: those of `mask` (R218). -/
def indOk (w mask : Nat) : Bool := (List.range 4).all fun n => !(bitsAt w 18 21).testBit n || mask.testBit n

/-- A register number in bits `lo` to `lo + 7`. -/
def regField (w lo : Nat) : Fin 256 := Fin.ofNat 256 (bitsAt w lo (lo + 7))

/-- One bit. -/
def bitAt (w i : Nat) : Bool := w.testBit i

/-! ### Range sets (R219, Tables 9-3, 9-4) -/

/-- A range word; none when a reserved bit, or the register field of a constant, is not zero. -/
def rangeWord (v : Nat) : Option RangeDecl :=
  let ok := bitsZero v 35 39 && bitsZero v 56 63 && (bitAt v 33 || bitsZero v 40 47) && (bitAt v 34 || bitsZero v 48 55)
  if ok then
    some ⟨if bitAt v 33 then .reg (regField v 40) else .imm (bitsAt v 0 15),
          if bitAt v 34 then .reg (regField v 48) else .imm (bitsAt v 16 31), bitAt v 32⟩
  else none

/-- A range-set record of 64 B as a number (Table 9-3). -/
def rangeSetOf (r : Nat) : Option RangeSet :=
  let n := bitsAt r 0 2
  let await := bitAt r 3
  let ok := bitsZero r 7 7 && bitsZero r 28 63 && (await || (bitsZero r 4 6 && bitsZero r 8 27)) &&
    ((List.range 7).all fun i => decide (i < n) || bitsZero r (64 + 64 * i) (127 + 64 * i))
  if ok then
    ((List.range n).mapM fun i => rangeWord (bitsAt r (64 + 64 * i) (127 + 64 * i))).map fun rs =>
      ⟨rs, if await then some (Fin.ofNat 8 (bitsAt r 4 6), bitsAt r 8 27) else none⟩
  else none

/-! ### Class formats (R222, R223, Tables 9-5 to 9-14) -/

/-- MOVE.LOAD and MOVE.STORE. -/
def moveWord (w : Nat) : Option MoveArgs :=
  if bitsZero w 101 127 && indOk w 7 then do
    let l ← fieldAt w 0 32 47
    let m ← fieldAt w 1 48 82
    let n ← fieldAt w 2 83 98
    some ⟨l, m, n, bitAt w 99, bitAt w 100⟩
  else none

/-- The side a DIR names. -/
def dirPort (d : Nat) : Port := match d with | 0 => .n | 1 => .e | 2 => .s | _ => .w

/-- MOVE.PUT and MOVE.GET; VIA is for PUT only, and DIR or TGT is zero where it is not used. -/
def putWord (w : Nat) (put : Bool) : Option PutArgs :=
  let via := bitAt w 80
  if bitsZero w 87 127 && indOk w 7 && (if via then put && bitsZero w 78 79 else bitsZero w 81 86) then do
    let l ← fieldAt w 0 32 47
    let r ← fieldAt w 1 48 63
    let n ← fieldAt w 2 64 77
    some ⟨l, r, n, if via then .mover else dirPort (bitsAt w 78 79), if via then some (Fin.ofNat 64 (bitsAt w 81 86)) else none⟩
  else none

/-- MOVE.SEND. -/
def sendWord (w : Nat) : Option SendArgs :=
  let remote := bitAt w 88
  if bitsZero w 97 127 && indOk w 15 && (remote || bitsZero w 89 94) then do
    let l ← fieldAt w 0 32 47
    let r ← fieldAt w 1 48 63
    let n ← fieldAt w 2 64 77
    let g ← fieldAt w 3 78 87
    some ⟨l, r, n, g, if remote then some (Fin.ofNat 64 (bitsAt w 89 94)) else none, bitsAt w 95 96⟩
  else none

/-- TBUILD. -/
def tbuildWord (w : Nat) : Option TbuildArgs :=
  if bitsZero w 69 127 && indOk w 7 then do
    let a ← fieldAt w 0 32 47
    let g ← fieldAt w 1 48 55
    let c ← fieldAt w 2 56 63
    some ⟨a, g, c, bitsAt w 64 67, Fin.ofNat 2 (bitsAt w 68 68)⟩
  else none

/-- TLOOK. -/
def tlookWord (w : Nat) : Option TlookArgs :=
  if bitsZero w 96 127 && indOk w 15 then do
    let f ← fieldAt w 0 32 47
    let r ← fieldAt w 1 48 59
    let b ← fieldAt w 2 60 71
    let g ← fieldAt w 3 80 87
    some ⟨f, r, b, bitsAt w 72 73, Fin.ofNat 2 (bitsAt w 74 74), bitAt w 75, bitsAt w 76 79, g, bitsAt w 88 95⟩
  else none

/-- DRAIN. -/
def drainWord (w : Nat) : Option DrainArgs :=
  if indOk w 15 then do
    let b ← fieldAt w 0 32 43
    let r ← fieldAt w 1 44 55
    let d ← fieldAt w 2 103 118
    let a ← fieldAt w 3 70 85
    some ⟨b, r, bitsAt w 56 63, bitsAt w 64 67, bitsAt w 68 69, a, if bitAt w 86 then some (bitsAt w 87 102) else none, d,
          bitsAt w 119 126, bitAt w 127⟩
  else none

/-- ATTN.QK and ATTN.PV. -/
def attnWord (w : Nat) : Option AttnArgs :=
  if bitsZero w 120 127 && indOk w 15 then do
    let r ← fieldAt w 0 32 63
    let n ← fieldAt w 1 65 72
    let a ← fieldAt w 2 88 103
    let m ← fieldAt w 3 104 119
    some ⟨r, Fin.ofNat 2 (bitsAt w 64 64), n, regField w 73, bitsAt w 81 85, bitsAt w 86 87, a, m⟩
  else none

/-- VEC. -/
def vecWord (w : Nat) : Option VecArgs :=
  if indOk w 15 then do
    let a ← fieldAt w 0 32 47
    let b ← fieldAt w 1 48 63
    let d ← fieldAt w 2 64 79
    let n ← fieldAt w 3 80 95
    some ⟨a, b, d, n, bitsAt w 96 103, bitsAt w 104 111, bitsAt w 112 115, bitsAt w 116 119, bitsAt w 120 127⟩
  else none

/-- BAND.SELECT. -/
def selectWord (w : Nat) : Option SelectArgs :=
  if bitsZero w 124 127 && indOk w 15 then do
    let a ← fieldAt w 0 32 47
    let n ← fieldAt w 1 56 63
    let l ← fieldAt w 2 73 88
    let g ← fieldAt w 3 89 104
    some ⟨a, bitsAt w 48 55 + 1, n, bitsAt w 64 71, bitAt w 72, l, g, Fin.ofNat 8 (bitsAt w 105 107), bitsAt w 108 123⟩
  else none

/-- BAND.APPLY. -/
def applyWord (w : Nat) : Option ApplyArgs :=
  if bitsZero w 109 127 && indOk w 15 then do
    let a ← fieldAt w 0 32 47
    let n ← fieldAt w 1 57 64
    let l ← fieldAt w 2 65 80
    let g ← fieldAt w 3 81 96
    some ⟨a, bitAt w 48, bitsAt w 49 56 + 1, n, l, g, Fin.ofNat 8 (bitsAt w 97 99), Fin.ofNat 8 (bitsAt w 100 102),
          bitsAt w 103 106 + 1, Fin.ofNat 4 (bitsAt w 107 108)⟩
  else none

/-- BAND.AUDIT. -/
def auditWord (w : Nat) : Option AuditArgs :=
  if bitsZero w 107 127 && indOk w 7 then do
    let h ← fieldAt w 0 32 47
    let n ← fieldAt w 1 48 55
    let d ← fieldAt w 2 64 79
    some ⟨h, n, bitsAt w 56 63, d, regField w 80, regField w 88, regField w 96, Fin.ofNat 8 (bitsAt w 104 106)⟩
  else none

/-- RNG.DRAW. -/
def rngWord (w : Nat) : Option RngArgs :=
  if bitsZero w 82 127 && indOk w 3 then do
    let d ← fieldAt w 0 32 47
    let n ← fieldAt w 1 48 55
    some ⟨d, n, Fin.ofNat 4 (bitsAt w 56 57), regField w 58, regField w 66, regField w 74⟩
  else none

/-- WIN.OPEN. -/
def winWord (w : Nat) : Option WinArgs :=
  if bitsZero w 73 127 && indOk w 3 then do
    let b ← fieldAt w 0 35 50
    let l ← fieldAt w 1 51 65
    some ⟨Fin.ofNat 8 (bitsAt w 32 34), b, l, bitsAt w 66 70, bitsAt w 71 72⟩
  else none

/-- What a word of tile `t` spells, its range set being `rs`; none for a reserved opcode, a reserved bit that is not zero
or an IND bit that names no indirect field (R216 to R218). -/
def tileWord (t : Fin 1024) (rs : RangeSet) (w : Nat) : Option Instr :=
  if !bitsZero w 22 31 then none
  else match bitsAt w 0 7 with
  | 0x00 => (moveWord w).map fun a => .moveLoad t rs a
  | 0x01 => (moveWord w).map fun a => .moveStore t rs a
  | 0x02 => (putWord w true).map fun a => .movePut t rs a
  | 0x03 => (putWord w false).map fun a => .moveGet t rs a
  | 0x04 => (sendWord w).map fun a => .moveSend t rs a
  | 0x10 => (tbuildWord w).map fun a => .tbuild t rs a
  | 0x20 => (tlookWord w).map fun a => .tlook t rs a
  | 0x30 => (drainWord w).map fun a => .drain t rs a .clean
  | 0x40 => (attnWord w).map fun a => .attnQk t rs a
  | 0x50 => if bitsZero w 80 80 && bitsZero w 82 127 && indOk w 3 then do
      let r ← fieldAt w 0 32 63
      let a ← fieldAt w 1 64 79
      some (.attnSoftInit t rs r a (bitAt w 81))
    else none
  | 0x51 => if bitsZero w 64 79 && bitsZero w 81 127 && indOk w 1 then
      (fieldAt w 0 32 63).map fun r => .attnSoftBlock t rs r (Fin.ofNat 2 (bitsAt w 80 80))
    else none
  | 0x52 => if bitsZero w 80 127 && indOk w 3 then do
      let r ← fieldAt w 0 32 63
      let a ← fieldAt w 1 64 79
      some (.attnSoftExport t rs r a)
    else none
  | 0x60 => (attnWord w).map fun a => .attnPv t rs a
  | 0x70 => (vecWord w).map fun a => .vecOp t rs a
  | 0x71 => (vecWord w).map fun a => .vecXred t rs a
  | 0x72 => (vecWord w).map fun a => .vecRed t rs a
  | 0x73 => (vecWord w).map fun a => .vecMerge t rs a
  | 0x74 => (vecWord w).map fun a => .vecNorm t rs a
  | 0x75 => (vecWord w).map fun a => .vecRope t rs a
  | 0x76 => (vecWord w).map fun a => .vecQuant t rs a
  | 0x77 => (vecWord w).map fun a => .vecTopk t rs a
  | 0x78 => (vecWord w).map fun a => .vecSample t rs a
  | 0x80 => (selectWord w).map fun a => .bandSelect t rs a
  | 0x81 => (applyWord w).map fun a => .bandApply t rs a
  | 0x82 => (auditWord w).map fun a => .bandAudit t rs a
  | 0x90 => (rngWord w).map fun a => .rngDraw t rs a
  | 0xA0 => if bitsZero w 37 127 && indOk w 0 then some (.syncWait t rs (BitVec.ofNat 6 (bitsAt w 32 36))) else none
  | 0xA1 => if bitsZero w 37 39 && bitsZero w 46 127 && indOk w 0 then
      some (.syncBar t rs (BitVec.ofNat 6 (bitsAt w 32 36)) (Fin.ofNat 64 (bitsAt w 40 45)))
    else none
  | 0xA2 => if bitsZero w 32 127 && indOk w 0 then some (.syncEnd t rs) else none
  | 0xB0 => (winWord w).map fun a => .winOpen t a rs
  | 0xB1 => if bitsZero w 35 127 && indOk w 0 then some (.winClose t (Fin.ofNat 8 (bitsAt w 32 34)) rs) else none
  | 0xC0 => if bitsZero w 60 127 && indOk w 1 then
      (fieldAt w 0 32 43).map fun o => .stageLoad t o (regField w 44) (regField w 52) rs
    else none
  | 0xC1 => if bitsZero w 78 127 && indOk w 0 then
      some (.stageLoop t (bitsAt w 32 45) (regField w 46) (regField w 54) (BitVec.ofNat 16 (bitsAt w 62 77)) rs)
    else none
  | _ => none

/-! ### Constants no image may hold (R50, R90, R104, R222, R223, R238) -/

/-- A status and the word's bit where the field it is about begins, unless a condition holds (R5, R104, R238). -/
def needs (st : Status) (b : Nat) (ok : Bool) : Option (Status × Nat) := if ok then none else some (st, b)

/-- A constant outside its range (R238); a register is looked at when the instruction issues. -/
def immIn (lo hi b : Nat) : Opd → Option (Status × Nat)
  | .imm v => needs .badRange b (decide (lo ≤ v) && decide (v ≤ hi))
  | .reg _ => none

/-- A constant pair of a start and a count whose end passes a limit. -/
def immEnd (top b : Nat) (a n : Opd) : Option (Status × Nat) :=
  match a, n with
  | .imm x, .imm y => needs .badRange b (decide (x + y ≤ top))
  | _, _ => none

/-- A field that must hold zero. -/
def mustZero (b : Nat) (o : Opd) : Option (Status × Nat) := needs .badField b (o == .imm 0)

/-- The first of some findings. -/
def firstBad (l : List (Option (Status × Nat))) : Option (Status × Nat) := l.findSome? id

/-- A format code: reserved ones are BAD_FIELD (R50), others outside `lo` to `hi` BAD_RANGE. -/
def fmtIn (lo hi b f : Nat) : Option (Status × Nat) :=
  firstBad [needs .badField b (decide (f < 7)), needs .badRange b (decide (lo ≤ f) && decide (f ≤ hi))]

/-- Width in bytes of a format code. -/
def codeWidth (f : Nat) : Nat := match f with | 3 => 2 | 4 => 4 | 5 => 4 | _ => 1

/-- The FUNC values of a VEC opcode (Table 9-10). -/
def funcOk (opc func : Nat) : Bool :=
  match opc with
  | 0x70 => decide (func ≤ 0x0B) || (decide (0x10 ≤ func) && decide (func ≤ 0x14))
  | 0x71 | 0x72 => decide (func ≤ 2)
  | 0x73 | 0x78 => func == 0
  | 0x74 | 0x76 => decide (func ≤ 3)
  | _ => decide (func ≤ 1)

/-- The AUX values of a VEC opcode (Table 9-10). -/
def auxBad (opc func aux : Nat) : Option (Status × Nat) :=
  match opc with
  | 0x70 => if func = 9 then none
      else if func = 6 then needs .badField 120 (decide (aux ≤ 3)) else needs .badField 120 (aux == 0)
  | 0x71 => needs .badRange 120 (decide (aux < 255))
  | 0x72 | 0x73 => needs .badRange 120 (decide (1 ≤ aux) && decide (aux ≤ 8))
  | 0x74 => if func < 2 then needs .badField 120 (aux == 0) else none
  | 0x76 => none
  | _ => needs .badField 120 (aux == 0)

/-- Constants of a VEC word. -/
def vecBad (opc : Nat) (a : VecArgs) : Option (Status × Nat) :=
  firstBad [fmtIn 0 5 112 a.fin, fmtIn 0 5 116 a.fout, needs .badField 104 (funcOk opc a.func),
    auxBad opc a.func a.aux, immIn 1 65535 80 a.n,
    if opc = 0x73 then needs .badField 96 (a.ncols == 0) else needs .badRange 96 (decide (1 ≤ a.ncols) && decide (a.ncols ≤ 64))]

/-- Constants of an ATTN.QK or ATTN.PV word. -/
def attnBad (pv : Bool) (a : AttnArgs) : Option (Status × Nat) :=
  firstBad [needs .badField 81 ((decide (1 ≤ a.hwc) && decide (a.hwc ≤ 8)) || a.hwc == 16), needs .badField 86 (decide (a.feed < 3)),
    if pv then needs .badField 73 (a.posr.val == 0) else none, if a.feed = 0 then none else mustZero 88 a.addr, immIn 1 64 65 a.nkeys]

/-- Constants of a MOVE.PUT or MOVE.GET word. -/
def putBad (t : Nat) (a : PutArgs) : Option (Status × Nat) :=
  let side := match a.dir with
    | .n => decide (8 ≤ t % 64)
    | .e => t % 8 != 7
    | .s => decide (t % 64 < 56)
    | .w => t % 8 != 0
    | .mover => true
  needs .badRange 78 side

/-- What is wrong with an instruction's constants, if anything, and the bit where the field begins: BAD_FIELD for a reserved
code, or a field that must be zero, BAD_RANGE for a value outside its range. CACHE on a MOVE.STORE is the tile's to refuse
(R196). -/
def wordBadAt : Instr → Option (Status × Nat)
  | .movePut t _ a | .moveGet t _ a => putBad t.val a
  | .moveSend _ _ a => needs .badField 95 (a.vc != 0)
  | .tbuild _ _ a => firstBad [fmtIn 0 3 64 a.fmt, immIn 1 32 48 a.ngroups, immIn 1 64 56 a.ncols]
  | .tlook _ _ a => firstBad [needs .badField 72 (a.amode != 3), needs .badField 76 (decide (a.fmt < 7)), immIn 1 2048 48 a.nrows,
      immIn 0 2047 60 a.acmBase, immEnd 2048 48 a.acmBase a.nrows, if a.feedExp then immIn 0 3 32 a.feed else none]
  | .drain _ _ a _ => firstBad [needs .badField 64 (decide (1 ≤ a.outFmt) && decide (a.outFmt ≤ 5)), needs .badField 68 (a.wmode != 3),
      if a.outFmt = 5 then firstBad [needs .badField 68 (a.wmode == 0), needs .badField 86 a.ascale.isNone] else none,
      if a.wmode = 0 then mustZero 70 a.waddr else none, immIn 0 2047 32 a.acmBase, immIn 1 2048 44 a.nrows,
      immEnd 2048 44 a.acmBase a.nrows, needs .badRange 56 (decide (1 ≤ a.ncols) && decide (a.ncols ≤ 64)),
      needs .badRange 119 (decide (1 ≤ a.stride) && decide (a.ncols * codeWidth a.outFmt ≤ a.stride * 64))]
  | .attnQk _ _ a => attnBad false a
  | .attnPv _ _ a => attnBad true a
  | .vecOp _ _ a => vecBad 0x70 a
  | .vecXred _ _ a => vecBad 0x71 a
  | .vecRed _ _ a => vecBad 0x72 a
  | .vecMerge _ _ a => vecBad 0x73 a
  | .vecNorm _ _ a => vecBad 0x74 a
  | .vecRope _ _ a => vecBad 0x75 a
  | .vecQuant _ _ a => vecBad 0x76 a
  | .vecTopk _ _ a => vecBad 0x77 a
  | .vecSample _ _ a => vecBad 0x78 a
  | .rngDraw _ _ a => firstBad [immIn 1 255 48 a.nblk, if a.domain.val = 2 then needs .badField 58 (a.colr.val == 0) else none]
  | .bandSelect _ _ a => firstBad [immIn 0 (a.b - 1) 56 a.nsm1, needs .badRange 64 (decide (1 ≤ a.ncols) && decide (a.ncols ≤ 64))]
  | .bandApply _ _ a => firstBad [if a.makeup then mustZero 57 a.nsm1 else immIn 0 (a.b - 1) 57 a.nsm1]
  | .bandAudit _ _ a => needs .badRange 56 (decide (1 ≤ a.ncols) && decide (a.ncols ≤ 64))
  | .syncWait _ _ b | .syncBar _ _ b _ => needs .badField 37 (decide (b.toNat < 32))
  | .winOpen _ a _ => firstBad [needs .badRange 66 (a.src % 32 != 0), needs .badField 71 (decide (1 ≤ a.dir) && decide (a.dir ≤ 3)),
      immIn 1 16384 51 a.len]
  | .stageLoad _ _ n f _ => needs .badRange 52 (decide (f.val + n.val + 1 ≤ 256))
  | _ => none

/-- What is wrong with an instruction's constants, if anything. -/
def wordBad (i : Instr) : Option Status := (wordBadAt i).map Prod.fst

/-- Constants that pass the image's scratch limit, in granules: those of a WIN.OPEN's window (Table 8-3, R238). -/
def limitBad (top : Nat) : Instr → Option (Status × Nat)
  | .winOpen _ a _ => immEnd top 35 a.base a.len
  | _ => none

/-- What is wrong with a range set's constants under a scratch limit in granules, and in which of its words (R211, R219,
R238). -/
def rangesBad (top : Nat) (rs : RangeSet) : Option (Status × Nat) :=
  firstBad ((rs.await.map fun a => needs .badRange 1 (decide (1 ≤ a.2))).toList ++ rs.ranges.zipIdx.map fun r =>
    let b := 8 + 8 * r.2
    match r.1.first, r.1.cntm1 with
    | .imm f, .imm c => needs .badRange b (decide (f + c < top))
    | .imm f, .reg _ => needs .badRange b (decide (f < top))
    | .reg _, .imm c => needs .badRange (b + 2) (decide (c < top))
    | .reg _, .reg _ => none)

/-! ### Where a word that spells no instruction goes wrong (R5, R238) -/

/-- The class fields of an opcode as (lowest bit, highest bit, n of F`n`), 4 for a field that cannot be indirect (Tables 9-5 to
9-14); none for a reserved opcode. -/
def layoutOf (opc : Nat) : Option (List (Nat × Nat × Nat)) :=
  match opc with
  | 0x00 | 0x01 => some [(32, 47, 0), (48, 82, 1), (83, 98, 2), (99, 99, 4), (100, 100, 4)]
  | 0x02 | 0x03 => some [(32, 47, 0), (48, 63, 1), (64, 77, 2), (78, 79, 4), (80, 80, 4), (81, 86, 4)]
  | 0x04 => some [(32, 47, 0), (48, 63, 1), (64, 77, 2), (78, 87, 3), (88, 88, 4), (89, 94, 4), (95, 96, 4)]
  | 0x10 => some [(32, 47, 0), (48, 55, 1), (56, 63, 2), (64, 67, 4), (68, 68, 4)]
  | 0x20 => some [(32, 47, 0), (48, 59, 1), (60, 71, 2), (72, 79, 4), (80, 87, 3), (88, 95, 4)]
  | 0x30 => some [(32, 43, 0), (44, 55, 1), (56, 69, 4), (70, 85, 3), (86, 102, 4), (103, 118, 2), (119, 127, 4)]
  | 0x40 | 0x60 => some [(32, 63, 0), (64, 64, 4), (65, 72, 1), (73, 87, 4), (88, 103, 2), (104, 119, 3)]
  | 0x50 => some [(32, 63, 0), (64, 79, 1), (81, 81, 4)]
  | 0x51 => some [(32, 63, 0), (80, 80, 4)]
  | 0x52 => some [(32, 63, 0), (64, 79, 1)]
  | 0x70 | 0x71 | 0x72 | 0x73 | 0x74 | 0x75 | 0x76 | 0x77 | 0x78 =>
    some [(32, 47, 0), (48, 63, 1), (64, 79, 2), (80, 95, 3), (96, 127, 4)]
  | 0x80 => some [(32, 47, 0), (48, 55, 4), (56, 63, 1), (64, 72, 4), (73, 88, 2), (89, 104, 3), (105, 123, 4)]
  | 0x81 => some [(32, 47, 0), (48, 56, 4), (57, 64, 1), (65, 80, 2), (81, 96, 3), (97, 108, 4)]
  | 0x82 => some [(32, 47, 0), (48, 55, 1), (56, 63, 4), (64, 79, 2), (80, 106, 4)]
  | 0x90 => some [(32, 47, 0), (48, 55, 1), (56, 81, 4)]
  | 0xA0 => some [(32, 36, 4)]
  | 0xA1 => some [(32, 36, 4), (40, 45, 4)]
  | 0xA2 => some []
  | 0xB0 => some [(32, 34, 4), (35, 50, 0), (51, 65, 1), (66, 72, 4)]
  | 0xB1 => some [(32, 34, 4)]
  | 0xC0 => some [(32, 43, 0), (44, 59, 4)]
  | 0xC1 => some [(32, 77, 4)]
  | _ => none

/-- The bits of a word that its opcode gives no meaning, or that make an indirect field's register number too large. -/
def strayBits (w : Nat) (fs : List (Nat × Nat × Nat)) : List Nat :=
  (List.range' 22 10 ++ List.range' 32 96).filter fun b => w.testBit b &&
    match fs.find? fun f => decide (f.1 ≤ b) && decide (b ≤ f.2.1) with
    | some f => (bitsAt w 18 21).testBit f.2.2 && decide (f.1 + 8 ≤ b)
    | none => decide (22 ≤ b)

/-- The first bit where a word that spells no instruction goes wrong: a reserved opcode, an IND bit of no field, a stray bit,
else the field that another one wants zero (R216 to R218, Table 9-5). -/
def badBit (w : Nat) : Nat :=
  match layoutOf (bitsAt w 0 7) with
  | none => 0
  | some fs =>
    let ind := (List.range 4).filter fun n => (bitsAt w 18 21).testBit n && !fs.any fun f => f.2.2 == n
    match ind.map (· + 18) ++ strayBits w fs with
    | b :: _ => b
    | [] => match bitsAt w 0 7 with
      | 0x02 => if bitAt w 80 then 78 else 81
      | 0x03 => if bitAt w 80 then 80 else 81
      | 0x04 => 89
      | _ => 32

/-! ### Images (R237) -/

/-- A number of `n` bytes at an offset of an image. -/
def imgNat (img : List Byte) (off n : Nat) : Nat := leNat ((img.drop off).take n)

/-- VERSION of an image. -/
def imgVersion (img : List Byte) : Nat := imgNat img 0 4

/-- NINSTR of an image. -/
def imgCount (img : List Byte) : Nat := imgNat img 4 2

/-- NRSETS of an image. -/
def imgSets (img : List Byte) : Nat := imgNat img 6 2

/-- CACHE_BANKS of an image. -/
def imgBanks (img : List Byte) : Nat := imgNat img 8 1

/-- The byte offset of instruction `i`. -/
def instrOff (i : Nat) : Nat := 320 + 16 * i

/-- The word of instruction `i`. -/
def imgWord (img : List Byte) (i : Nat) : Nat := imgNat img (instrOff i) 16

/-- Range set `r` of an image: none declared for 0x3FF (Table 9-1). -/
def imgRset (img : List Byte) (r : Nat) : Option RangeSet :=
  if r = 0x3FF then some ⟨[], none⟩
  else if imgSets img ≤ r then none
  else rangeSetOf (imgNat img (instrOff (imgCount img) + 64 * r) 64)

/-- Instruction `i` of tile `t`'s image. -/
def imgInstr (t : Fin 1024) (img : List Byte) (i : Nat) : Option Instr :=
  if imgCount img ≤ i then none
  else (imgRset img (bitsAt (imgWord img i) 8 17)).bind fun rs => tileWord t rs (imgWord img i)

/-- The entry of barrier `b` in an image's barrier table (Table 9-17); zero for an unused one. -/
def imgBarrier (img : List Byte) (b : Nat) : Nat := imgNat img (64 + 4 * b) 4

/-- The participants a barrier entry counts. -/
def barCount (v : Nat) : Nat := bitsAt v 0 9 + 1

/-- The home tile a barrier entry names. -/
def barHome (v : Nat) : Nat := bitsAt v 16 25

/-- The image of tile `t` in a program. -/
def imageFor (pr : ProgramImage) (t : Nat) : Option (List Byte) :=
  (pr.images.find? fun i => i.tiles.contains t).map TileImage.bytes

/-- The VERSION of a program's images (R296). -/
def progVersion (pr : ProgramImage) : Nat := (pr.images.head?.map fun i => imgVersion i.bytes).getD 0

/-- The scratch limit of tile `t` under a program, granules (R190). -/
def progScratch (pr : ProgramImage) (t : Nat) : Nat := (16 - ((imageFor pr t).map imgBanks).getD 0) * 4096

end Sys2Proof.Machine
end

