-- ==== Sys2Proof/Machine/Feed.lean ====
section
/-! DEFINITION. Feed tables as stored: 32-byte entries of feed lists (R274, R275, Table 11-1). -/

namespace Sys2Proof.Machine

/-- The field at bytes `o` to `o + n − 1` of an entry. -/
def feedNat (b : List Byte) (o n : Nat) : Nat := leNat ((b.drop o).take n)

/-- KIND 0 ends a list. -/
def feedEnds (b : List Byte) : Bool := feedNat b 0 1 == 0

/-- Whether an entry is of a KIND that has a selection set: BANDS or GATHER. -/
def feedHasSet (b : List Byte) : Bool := feedNat b 0 1 == 2 || feedNat b 0 1 == 3

/-- What N, ID and REDO say of an entry's KIND. -/
def feedKind (b : List Byte) : FeedKind :=
  let n := feedNat b 16 4
  match feedNat b 0 1 with
  | 2 => .bands (bitsAt n 0 7) (bitsAt n 8 19) (bitsAt (feedNat b 1 1) 5 5 == 1)
  | 3 => .gather (bitsAt n 0 7) (bitsAt n 8 15) (bitsAt n 16 27)
  | 4 => .pages (bitsAt n 0 11) (bitsAt n 12 19) (bitsAt (feedNat b 20 4) 0 1)
  | _ => .run n

/-- An entry's NRCP. -/
def feedCount (b : List Byte) : Nat := bitsAt (feedNat b 1 1) 2 4 + 1

/-- An entry. -/
def feedEntry (b : List Byte) : FeedEntry :=
  let id := feedNat b 20 4
  { kind := feedKind b, fifo := Fin.ofNat 3 (bitsAt (feedNat b 1 1) 0 1), codeSlot := bitsAt (feedNat b 2 1) 0 3,
    codeGen := bitsAt (feedNat b 2 1) 4 7, set := bitsAt (feedNat b 3 1) 0 2,
    rcp := (List.range (feedCount b)).map fun i => feedNat b (4 + i) 1, base := bitsAt (feedNat b 12 4) 0 29,
    layer := if feedHasSet b then bitsAt id 0 15 else 0, group := if feedHasSet b then bitsAt id 16 31 else 0 }

/-- The offset of the first reserved field or value of an entry, if any. -/
def feedReserved (b : List Byte) : Option Nat :=
  let k := feedNat b 0 1
  let d := feedNat b 1 1
  let n := feedNat b 16 4
  let id := feedNat b 20 4
  let bad (o : Nat) (ok : Bool) : List Nat := if ok then [] else [o]
  (bad 0 (decide (k ≤ 4)) ++ bad 1 (bitsAt d 0 1 != 3 && (k == 2 || bitsAt d 5 5 == 0) && bitsZero d 6 7) ++
    bad 3 (if feedHasSet b then decide (feedNat b 3 1 < 8) else feedNat b 3 1 == 0) ++
    bad 4 (feedNat b (4 + feedCount b) (8 - feedCount b) == 0) ++ bad 12 (bitsZero (feedNat b 12 4) 30 31) ++
    bad 16 (match k with
      | 0 => true
      | 1 => decide (1 ≤ n) && decide (n ≤ 2 ^ 20)
      | 2 | 4 => bitsZero n 20 31
      | _ => bitsZero n 28 31) ++
    bad 20 (match k with
      | 0 | 2 | 3 => true
      | 4 => bitsZero id 2 31
      | _ => id == 0) ++ bad 24 (feedNat b 24 8 == 0)).head?

/-- The entries of a stored list, up to its END. -/
def feedWords (bs : List Byte) : List (List Byte) :=
  ((List.range (bs.length / 32)).map fun i => (bs.drop (32 * i)).take 32).takeWhile fun b => !feedEnds b

/-- The END entry of a stored list, if it has one, with its place. -/
def feedEnd (bs : List Byte) : Option (List Byte × Nat) :=
  let n := (feedWords bs).length
  if n < bs.length / 32 then some ((bs.drop (32 * n)).take 32, n) else none

/-- A feed list (R274). -/
def feedList (bs : List Byte) : List FeedEntry := (feedWords bs).map feedEntry

/-! ### Division tables (R466, Table 19-6) -/

/-- A division entry as stored. -/
def divEntry (b : List Byte) : DivEntry :=
  { wunit := feedNat b 0 4, home := feedNat b 4 2, kind := feedNat b 6 1, nwords := feedNat b 7 1, turns := feedNat b 8 4,
    feed := feedNat b 12 2, group := feedNat b 14 2, scr := feedNat b 16 4 }

/-- The entries of a stored division table, as bytes. -/
def divWords (bs : List Byte) : List (List Byte) := (List.range (bs.length / 32)).map fun i => (bs.drop (32 * i)).take 32

/-- A division table (R466). -/
def divTable (bs : List Byte) : List DivEntry := (divWords bs).map divEntry

/-- The offset of the first reserved value or field of a division entry, if any (R5). -/
def divReserved (b : List Byte) : Option Nat :=
  if 3 < feedNat b 6 1 then some 6 else if feedNat b 20 12 ≠ 0 then some 20 else none

/-- Whether a division entry's HOME names a tile of the die and its NWORDS is 1 to 255. -/
def divInRange (b : List Byte) : Bool := decide (feedNat b 4 2 < 64) && decide (1 ≤ feedNat b 7 1)

end Sys2Proof.Machine
end

