-- ==== Sys2Proof/Config.lean ====
section
/-! DEFINITION. What each part fixes and every value the spec leaves open: constants with no body. -/

namespace Sys2Proof

/-- The n-th free word the machine draws (notes/assumptions/6.md): counters in State choose n. -/
opaque Config.freeWord : Nat → Word

/-- The n-th free choice, for the order of float sums (R69, notes/assumptions/7.md) and other open orders. -/
opaque Config.freePick : Nat → Nat

/-- STEPPING of this part (Table 20-10, notes/assumptions/8.md). -/
opaque Config.stepping : BitVec 8

/-- SERIAL of this part (Table 20-10). -/
opaque Config.serial : BitVec 32

/-- The n-th 32-byte draw of the entropy source (R155, R501). -/
opaque Config.entropy : Nat → List Word

/-- Whether the 64 bytes of an ECDSA P-256 signature over a SHA-256 digest verify under image-signing key KEY_ID, whose public
key the boot ROM holds (R478, R480, R493). -/
opaque Config.verifySig : Nat → List Byte → List Byte → Bool

/-- A signature the module makes over a transcript digest with a key (R494, R500). -/
opaque Config.sign : Nat → Nat → Nat

/-- The digest that stands for a list of numbers, where the spec hashes byte strings the model does not hold. -/
opaque Config.digest : List Nat → Nat

/-- The boot ROM's measurement (R498 index 1). -/
opaque Config.romMeasure : Nat

/-- The device certificate fused in this part (R493). -/
opaque Config.deviceCert : Nat

/-- The public key of a P-256 private scalar (R494). -/
opaque Config.pubKey : Nat → Nat

/-- The 256-bit unique device secret fused in this part (Table 21-1). -/
opaque Config.uds : List Byte

/-- Bytes 52-59 of an error record whose DETAIL layout no rule gives, from the record code and its fields. -/
opaque Config.detailBytes : Nat → List Nat → List Byte

/-- Latest bound in turns of a tile instruction whose size an operand register gives: what the loader and admission count there,
no rule says (notes/assumptions/63.md). -/
opaque Config.latestTurns : Instr → Nat

/-- Turns of the slowest lane of a VEC.TOPK or VEC.SAMPLE, by opcode and elements, which no table gives
(notes/assumptions/63.md). -/
opaque Config.sampleTurns : Nat → Nat → Nat

/-- Score rows that work unit `wunit` of a program version takes, which a division entry does not give (R466,
notes/assumptions/62.md). -/
opaque Config.unitRows : Nat → Nat → Nat

/-- What the class S block at a module block number holds outside every POOL, as (kind, partition, index):
kind 2 slot tracker, 3 prefix-tree node, 4 log entry, 5 context save area, else nothing (R471). -/
opaque Config.sContents : Nat → Nat × Nat × Nat

/-- The first token of the vocabulary slice a tile's logits hold under a program version (R158): no operand of TOPK
names it (notes/assumptions/9.md). -/
opaque Config.vocabBase : Nat → Nat → Nat

/-- The selection set, K (0) or V (1), and KV head that a VEC.QUANT of a tile serves, by version, register value and
destination: no operand names them (notes/assumptions/20.md). -/
opaque Config.kvServed : Nat → Nat → Word → Nat → Nat × Nat × Nat

/-- What a die's timebase follower reads beside XD0's count, as an offset from −16 ns, at a count (R46). -/
opaque Config.followerErr : Nat → Nat → Fin 33

/-- The lowest key position a row attends under the model's sliding window (R122), by program version and position; a model
without one attends from 0. -/
opaque Config.windowLow : Nat → Nat → Nat

/-- The columns of a step whose values lie in a class A line (R256), by program version and line: the program's own placement,
which no field of the image states; none for a line whose contents carry no column. -/
opaque Config.aColumns : Nat → Nat → List Nat

/-- Where a step's parameter block lies in its partition's class A memory, in lines from the region's start, by partition and
step number (R240). -/
opaque Config.blockPlace : Nat → Nat → Nat

/-- The bytes a DMA read of host memory gives where the command does not carry them, by draw, address and length. -/
opaque Config.hostData : Nat → Nat → Nat → List Byte

/-- Whether another module's partition is a CACHE partition (R334, R356): its role stands in that module's image. -/
opaque Config.remoteCache : Nat → Nat → Bool

/-- Whether another module's GENERATE partition can take an LC request's decode (R331): what its own admission would answer is not
known here; by module, partition and draw. -/
opaque Config.remoteFits : Nat → Nat → Nat → Bool

/-- Words of a tile's section, by program version, step number and tile (R240). -/
opaque Config.sectionLen : Nat → Nat → Nat → Nat

/-- Words of a tile's section, which the sorting office forms for the step program (R224, R240), by version, step number,
tile, the facts the spec has it list there (R302, R321, R347), and index. -/
opaque Config.sectionWord : Nat → Nat → Nat → List Nat → Nat → Word

/-- The score a MoE layer's router gives a column for an expert (R304), by program version, step number, layer, column and
expert: the values of a tensor product, in scratch where the program put them. -/
opaque Config.routerScore : Nat → Nat → Nat → Nat → Nat → Word

/-- The free bits of the exponential of a gate (R145, R304), by program version, step number, layer, column and rank. -/
opaque Config.routerBits : Nat → Nat → Nat → Nat → Nat → Word

/-- The reciprocal temperature a model folds into its queries (R115), by program version. -/
opaque Config.queryTemp : Nat → Word

/-- KIND of a WAKE message (R517), which Table 18-5 does not name (notes/assumptions/60.md). -/
opaque Config.wakeKind : Nat

end Sys2Proof
end

