-- ==== Sys2Proof/Machine/Fp.lean ====
section
/-! DEFINITION. Number formats and IEEE 754 binary32 arithmetic (chapter 3; R143, R145), over exact integers. -/

namespace Sys2Proof.Machine

/-- A float value: NaN, an infinity, or ± m × 2^e. -/
inductive Fv where
  | nan
  | inf (neg : Bool)
  | fin (neg : Bool) (m : Nat) (e : Int)
  deriving DecidableEq, Repr

/-- 2^n for an integer n, as a numerator and a denominator. -/
def pow2z (n : Int) : Nat × Nat := if n ≥ 0 then (2 ^ n.toNat, 1) else (1, 2 ^ (-n).toNat)

/-- The quiet NaN the module writes. -/
def fpNaN : Word := 0x7FC00000

/-- A signed infinity. -/
def fpInf (neg : Bool) : Word := if neg then 0xFF800000 else 0x7F800000

/-- A signed zero. -/
def fpZero (neg : Bool) : Word := if neg then 0x80000000 else 0

/-- The value of a binary32 pattern. -/
def fpVal (w : Word) : Fv :=
  let n := w.toNat
  let neg := decide (n ≥ 2 ^ 31)
  let ex : Nat := n / 2 ^ 23 % 256
  let fr : Nat := n % 2 ^ 23
  if ex = 255 then (if fr = 0 then .inf neg else .nan)
  else if ex = 0 then .fin neg fr (-149)
  else .fin neg (2 ^ 23 + fr) ((ex : Int) - 150)

/-- m / 2^k rounded half to even. -/
def shrRne (m k : Nat) : Nat :=
  let q := m / 2 ^ k
  let r := m % 2 ^ k
  if k = 0 then m
  else if 2 * r > 2 ^ k ∨ (2 * r = 2 ^ k ∧ q % 2 = 1) then q + 1 else q

/-- ± m × 2^e rounded to binary32, to nearest even, subnormals kept (R69, R143). -/
def fpRound (neg : Bool) (m : Nat) (e : Int) : Word :=
  if m = 0 then fpZero neg
  else
    let top : Int := e + Nat.log2 m
    let q : Int := max (top - 23) (-149)
    let mant := if q ≤ e then m * 2 ^ (e - q).toNat else shrRne m (q - e).toNat
    let bits := (q + 149).toNat * 2 ^ 23 + mant
    if bits ≥ 0x7F800000 then fpInf neg
    else BitVec.ofNat 32 (if neg then 2 ^ 31 + bits else bits)

/-- An integer to binary32. -/
def fpOfInt (z : Int) : Word := fpRound (decide (z < 0)) z.natAbs 0

/-- IEEE 754 addition. -/
def fpAdd (a b : Word) : Word :=
  match fpVal a, fpVal b with
  | .nan, _ => fpNaN
  | _, .nan => fpNaN
  | .inf s, .inf t => if s = t then fpInf s else fpNaN
  | .inf s, _ => fpInf s
  | _, .inf t => fpInf t
  | .fin s m e, .fin t n f =>
    let g := min e f
    let x : Int := (m : Int) * 2 ^ (e - g).toNat
    let y : Int := (n : Int) * 2 ^ (f - g).toNat
    let z := (if s then -x else x) + (if t then -y else y)
    if z = 0 then fpZero (s && t) else fpRound (decide (z < 0)) z.natAbs g

/-- Change of sign. -/
def fpNeg (a : Word) : Word := a ^^^ 0x80000000

/-- Absolute value. -/
def fpAbs (a : Word) : Word := a &&& 0x7FFFFFFF

/-- IEEE 754 subtraction. -/
def fpSub (a b : Word) : Word := fpAdd a (fpNeg b)

/-- IEEE 754 multiplication, rounded once. -/
def fpMul (a b : Word) : Word :=
  match fpVal a, fpVal b with
  | .nan, _ => fpNaN
  | _, .nan => fpNaN
  | .inf s, .inf t => fpInf (s != t)
  | .inf s, .fin t n _ => if n = 0 then fpNaN else fpInf (s != t)
  | .fin s m _, .inf t => if m = 0 then fpNaN else fpInf (s != t)
  | .fin s m e, .fin t n f => fpRound (s != t) (m * n) (e + f)

/-- IEEE 754 division, rounded once. -/
def fpDiv (a b : Word) : Word :=
  match fpVal a, fpVal b with
  | .nan, _ => fpNaN
  | _, .nan => fpNaN
  | .inf _, .inf _ => fpNaN
  | .inf s, .fin t _ _ => fpInf (s != t)
  | .fin s _ _, .inf t => fpZero (s != t)
  | .fin s m e, .fin t n f =>
    if n = 0 then (if m = 0 then fpNaN else fpInf (s != t))
    else
      let q := m * 2 ^ 64 / n
      let r := m * 2 ^ 64 % n
      fpRound (s != t) (2 * q + (if r = 0 then 0 else 1)) (e - f - 65)

/-- RCP, correctly rounded (R145). -/
def fpRcp (a : Word) : Word := fpDiv 0x3F800000 a

/-- x × 2^n, exact unless the result leaves the normal range (R143 SHIFT). -/
def fpScale (a : Word) (n : Int) : Word :=
  match fpVal a with
  | .nan => fpNaN
  | .inf s => fpInf s
  | .fin s m e => fpRound s m (e + n)

/-- A key that orders non-NaN patterns, -0 below +0. -/
def fpKey (a : Word) : Int :=
  let n := a.toNat
  if n ≥ 2 ^ 31 then -((n - 2 ^ 31 : Nat) : Int) - 1 else n

/-- NaN test. -/
def fpIsNaN (a : Word) : Bool := match fpVal a with | .nan => true | _ => false

/-- Non-finite test (R67). -/
def fpNonfinite (a : Word) : Bool := match fpVal a with | .fin .. => false | _ => true

/-- Zero test, either sign. -/
def fpIsZero (a : Word) : Bool := fpAbs a == 0

/-- a < b, false with a NaN; zeros are equal. -/
def fpLt (a b : Word) : Bool :=
  !fpIsNaN a && !fpIsNaN b && !(fpIsZero a && fpIsZero b) && decide (fpKey a < fpKey b)

/-- a = b, false with a NaN; zeros are equal. -/
def fpEq (a b : Word) : Bool := !fpIsNaN a && !fpIsNaN b && (a == b || (fpIsZero a && fpIsZero b))

/-- Minimum; a NaN propagates (R67). -/
def fpMin (a b : Word) : Word := if fpIsNaN a || fpIsNaN b then fpNaN else if fpKey a ≤ fpKey b then a else b

/-- Maximum; a NaN propagates (R67). -/
def fpMax (a b : Word) : Word := if fpIsNaN a || fpIsNaN b then fpNaN else if fpKey a ≥ fpKey b then a else b

/-- Numerator and denominator of the nearest even integer to ± n / d. -/
def divRne (n d : Nat) : Nat :=
  let q := n / d
  let r := n % d
  if 2 * r > d ∨ (2 * r = d ∧ q % 2 = 1) then q + 1 else q

/-- The nearest integer, half to even; none for NaN and infinities. -/
def fpRoundInt (a : Word) : Option Int :=
  match fpVal a with
  | .fin s m e =>
    let v : Nat := if e ≥ 0 then m * 2 ^ e.toNat else divRne m (2 ^ (-e).toNat)
    some (if s then -(v : Int) else v)
  | _ => none

/-- The floor; none for NaN and infinities. -/
def fpFloor (a : Word) : Option Int :=
  match fpVal a with
  | .fin s m e =>
    let z : Int := if s then -(m : Int) else m
    some (if e ≥ 0 then z * 2 ^ e.toNat else z / (2 ^ (-e).toNat : Nat))
  | _ => none

/-- The ceiling; none for NaN and infinities. -/
def fpCeil (a : Word) : Option Int := (fpFloor (fpNeg a)).map fun z => -z

/-- ⌊log₂|x|⌋ of a finite non-zero value. -/
def fpExpo (a : Word) : Int :=
  match fpVal a with
  | .fin _ m e => e + Nat.log2 m
  | _ => 0

/-! ### Narrow formats (R64 to R66) -/

/-- Value of an E4M3 byte. -/
def e4m3ToF (b : Nat) : Word :=
  let neg := decide (b ≥ 128)
  let ex : Nat := b / 8 % 16
  let fr : Nat := b % 8
  if ex = 15 ∧ fr = 7 then fpNaN
  else if ex = 0 then fpRound neg fr (-9) else fpRound neg (8 + fr) ((ex : Int) - 10)

/-- Value of an E5M2 byte. -/
def e5m2ToF (b : Nat) : Word :=
  let neg := decide (b ≥ 128)
  let ex : Nat := b / 4 % 32
  let fr : Nat := b % 4
  if ex = 31 then (if fr = 0 then fpInf neg else fpNaN)
  else if ex = 0 then fpRound neg fr (-16) else fpRound neg (4 + fr) ((ex : Int) - 17)

/-- Magnitude code of a small float with `p` fraction bits and least exponent `lo`, saturating at `top`. -/
def smallCode (p : Nat) (lo : Int) (top : Nat) (m : Nat) (e : Int) : Nat :=
  if m = 0 then 0
  else
    let q : Int := max (e + Nat.log2 m - p) lo
    let mant := if q ≤ e then m * 2 ^ (e - q).toNat else shrRne m (q - e).toNat
    min top ((q - lo).toNat * 2 ^ p + mant)

/-- A value to E4M3: nearest even, saturating at 448; NaN and infinities to the NaN code of sign 0 (R66; the code and the
sign notes/assumptions/23.md). -/
def vToE4m3 : Fv → Nat
  | .nan => 0x7F
  | .inf _ => 0x7F
  | .fin s m e => (if s then 128 else 0) + smallCode 3 (-9) 0x7E m e

/-- Conversion to E4M3 (R66). -/
def fToE4m3 (a : Word) : Nat := vToE4m3 (fpVal a)

/-- A value to E5M2: nearest even, saturating at 57,344; infinities and NaN kept, a NaN as one code (R66; the code and the
sign notes/assumptions/23.md). -/
def vToE5m2 : Fv → Nat
  | .nan => 0x7F
  | .inf s => (if s then 128 else 0) + 0x7C
  | .fin s m e => (if s then 128 else 0) + smallCode 2 (-16) 0x7B m e

/-- Conversion to E5M2 (R66). -/
def fToE5m2 (a : Word) : Nat := vToE5m2 (fpVal a)

/-- A value to BF16: rounded once, to nearest even, infinities kept, a NaN as one code (R66; the code and the sign
notes/assumptions/23.md). -/
def vToBf16 : Fv → Nat
  | .nan => 0x7FC0
  | .inf s => (if s then 2 ^ 15 else 0) + 0x7F80
  | .fin s m e => (if s then 2 ^ 15 else 0) + smallCode 7 (-133) 0x7F80 m e

/-- Conversion to BF16 (R66). -/
def fToBf16 (a : Word) : Nat := vToBf16 (fpVal a)

/-- Value of a BF16 pattern (R65). -/
def bf16ToF (h : Nat) : Word := BitVec.ofNat 32 (h % 2 ^ 16 * 2 ^ 16)

/-- Two's complement reading of the low `w` bits. -/
def sInt (w n : Nat) : Int := if n % 2 ^ w ≥ 2 ^ (w - 1) then (n % 2 ^ w : Nat) - (2 ^ w : Nat) else (n % 2 ^ w : Nat)

/-- Bytes of a format code, Table 3-1 (R50). -/
def fmtWidth (f : Nat) : Nat := if f = 3 then 2 else if f = 4 ∨ f = 5 then 4 else 1

/-- Value of an element in a format, as binary32; integers convert exactly or to nearest even. -/
def fmtToF (f raw : Nat) : Word :=
  match f with
  | 0 => fpOfInt (sInt 8 raw)
  | 1 => e4m3ToF raw
  | 2 => e5m2ToF raw
  | 3 => bf16ToF raw
  | 5 => fpOfInt (sInt 32 raw)
  | _ => BitVec.ofNat 32 raw

/-- A binary32 value in a format; an integer out of range or a NaN takes `free` (no rule gives it). -/
def fToFmt (f : Nat) (a free : Word) : Nat :=
  match f with
  | 0 => match fpRoundInt a with
    | some z => if -128 ≤ z ∧ z ≤ 127 then (z % 256).toNat else free.toNat % 256
    | none => free.toNat % 256
  | 1 => fToE4m3 a
  | 2 => fToE5m2 a
  | 3 => fToBf16 a
  | 5 => match fpRoundInt a with
    | some z => if -(2 ^ 31) ≤ z ∧ z < 2 ^ 31 then (z % 2 ^ 32).toNat else free.toNat
    | none => free.toNat
  | _ => a.toNat

/-- An element of an integer format, as its exact value; none for a float format. -/
def intOf (f raw : Nat) : Option Int :=
  if f = 0 then some (sInt 8 raw) else if f = 5 then some (sInt 32 raw) else none

/-- An exact integer in a format, rounded once (R143); one an integer format does not hold takes `free`. -/
def intToFmt (f : Nat) (z : Int) (free : Word) : Nat :=
  let v : Fv := .fin (decide (z < 0)) z.natAbs 0
  match f with
  | 0 => if -128 ≤ z ∧ z ≤ 127 then (z % 256).toNat else free.toNat % 256
  | 1 => vToE4m3 v
  | 2 => vToE5m2 v
  | 3 => vToBf16 v
  | 5 => (z % 2 ^ 32).toNat
  | _ => (fpOfInt z).toNat

/-- An element carried from one format to another: unchanged where they agree, an integer rounded once. -/
def carryFmt (fin fout raw : Nat) (free : Word) : Nat :=
  if fin = fout then raw
  else match intOf fin raw with
    | some z => intToFmt fout z free
    | none => fToFmt fout (fmtToF fin raw) free

/-! ### Functions with a stated accuracy (R145): any value inside the stated bound -/

/-- Integer square root, by bits. -/
def isqrtBits : Nat → Nat → Nat → Nat
  | 0, _, r => r
  | k + 1, n, r => let t := r + 2 ^ k; isqrtBits k n (if t * t ≤ n then t else r)

/-- ⌊√n⌋ for n below 2^(2w). -/
def isqrtW (w n : Nat) : Nat := isqrtBits w n 0

/-- The free value where it satisfies the stated bound, otherwise the fallback, which does. -/
def boundPick (ok : Word → Bool) (free fallback : Word) : Word := if ok free then free else fallback

/-- |w − v × 2^k| ≤ b × 2^k for a finite w. -/
def fpNear (w : Word) (v k : Int) (b : Nat) : Bool :=
  match fpVal w with
  | .fin s m e =>
    let z : Int := if s then -(m : Int) else m
    let (n, d) := pow2z (e - k)
    decide ((z * n - v * d).natAbs ≤ b * d)
  | _ => false

/-- Whether `w` lies within 2^u of 1/√x for x = m × 2^e: (w − 2^u)² x ≤ 1 ≤ (w + 2^u)² x. -/
def nearRsqrt (m : Nat) (e u : Int) (w : Word) : Bool :=
  match fpVal w with
  | .fin false mw ew =>
    let q := min ew u
    let (wn, _) := pow2z (ew - q)
    let (un, _) := pow2z (u - q)
    let (n, d) := pow2z (2 * q + e)
    let lo := mw * wn - un
    let hi := mw * wn + un
    decide (lo ≤ 0 ∨ lo * lo * m * n ≤ d) && decide ((d : Int) ≤ hi * hi * m * n)
  | _ => false

/-- RSQRT (R145): any binary32 within 1 ulp of the exact value, whose binade is that of the value rounded down. -/
def fpRsqrt (a free : Word) : Word :=
  match fpVal a with
  | .nan => fpNaN
  | .inf true => fpNaN
  | .inf false => 0
  | .fin s m e =>
    if m = 0 then fpInf s
    else if s then fpNaN
    else
      let e2 : Int := if e % 2 = 0 then e else e - 1
      let m2 := if e % 2 = 0 then m else 2 * m
      let r := isqrtW 80 (2 ^ 150 / m2)
      let z := fpRound false (r - r % 2 ^ (Nat.log2 r - 23)) (-75 - e2 / 2)
      boundPick (nearRsqrt m e (fpExpo z - 23)) free z

/-- 2^(n / 2^k) × 2^60 for 0 ≤ n < 2^k, by square roots; `c` is 2^(2^-i) × 2^60. -/
def exp2Frac : Nat → Nat → Nat → Nat → Nat
  | 0, _, _, p => p
  | k + 1, n, c, p =>
    let c' := isqrtW 62 (c * 2 ^ 60)
    exp2Frac k n c' (if n / 2 ^ k % 2 = 1 then p * c' / 2 ^ 60 else p)

/-- EXP2, within 2 ulp of 2^x (R145); exact results of special inputs. `p` is 2^x to 39 bits past the last of its
significand, and the bound is 2 ulp less 2⁻³⁶ of one. -/
def fpExp2 (a free : Word) : Word :=
  match fpVal a with
  | .nan => fpNaN
  | .inf true => 0
  | .inf false => fpInf false
  | .fin s m e =>
    let z : Int := if s then -(m : Int) else m
    let n : Int := if e + 40 ≥ 0 then z * 2 ^ (min (e + 40).toNat 60) else z / (2 ^ (-(e + 40)).toNat : Nat)
    let k := n / 2 ^ 40
    let p := exp2Frac 40 (n % 2 ^ 40).toNat (2 ^ 61) (2 ^ 60)
    let ulp := 2 ^ (max (k - 23) (-149) - (k - 60)).toNat
    if k ≥ 128 then fpInf false
    else if k < -200 then 0
    else boundPick (fun w => fpNear w p (k - 60) (2 * ulp - 2 ^ 24)) free (fpRound false p (k - 60))

/-- Fraction bits of log₂ of c / 2^60 in [1, 2). -/
def log2Frac : Nat → Nat → Nat → Nat
  | 0, _, acc => acc
  | k + 1, c, acc =>
    let d := c * c / 2 ^ 60
    if d ≥ 2 ^ 61 then log2Frac k (d / 2) (2 * acc + 1) else log2Frac k d (2 * acc)

/-- LOG2, absolute error within 2⁻²² (R145), correctly rounded where no other binary32 lies so near (notes/assumptions/53.md). -/
def fpLog2 (a free : Word) : Word :=
  match fpVal a with
  | .nan => fpNaN
  | .inf true => fpNaN
  | .inf false => fpInf false
  | .fin s m e =>
    if m = 0 then fpInf true
    else if s then fpNaN
    else
      let l := Nat.log2 m
      let v : Int := (e + l) * 2 ^ 40 + (log2Frac 40 (m * 2 ^ 60 / 2 ^ l) 0 : Nat)
      let z := fpRound (decide (v < 0)) v.natAbs (-40)
      boundPick (fun w => fpNear w v (-40) (2 ^ 18 - 4)) free z

/-- The Taylor series of sine at `x` / 2^48, in units of 2⁻⁴⁸: terms left, next index, term, sum. -/
def sinTerms : Nat → Nat → Int → Int → Int → Int
  | 0, _, _, _, acc => acc
  | k + 1, i, x2, t, acc =>
    let t' := -(t * x2 / 2 ^ 48) / ((2 * i) * (2 * i + 1) : Nat)
    sinTerms k (i + 1) x2 t' (acc + t')

/-- sin of a phase in units of 2⁻³² turn, in units of 2⁻⁴⁸. -/
def sinFix (phase : Nat) : Int :=
  let p : Int := phase % 2 ^ 32
  let q : Int := if p ≥ 2 ^ 31 then p - 2 ^ 32 else p
  let r : Int := if q > 2 ^ 30 then 2 ^ 31 - q else if q < -(2 ^ 30) then -(2 ^ 31) - q else q
  let x := r * 1768559438007110 / 2 ^ 32
  sinTerms 14 1 (x * x / 2 ^ 48) x x

/-- Sine of a phase, absolute error within 2⁻²⁰ (R145, R147). -/
def fpSin (phase : Nat) (free : Word) : Word :=
  let v := sinFix phase
  boundPick (fun w => fpNear w v (-48) (2 ^ 28 - 2 ^ 10)) free (fpRound (decide (v < 0)) v.natAbs (-48))

/-- Cosine of a phase. -/
def fpCos (phase : Nat) (free : Word) : Word := fpSin (phase + 2 ^ 30) free

end Sys2Proof.Machine
end

