-- ==== Sys2Proof/Machine/Bounds.lean ====
section
/-! DEFINITION. Latest issue and block bounds of a tile's instructions (Tables 4-2, 5-8, 6-1, 6-2, 7-9, 8-2, 9-16, 10-2; R83, R102,
R137, R142, R192, R200, R290). -/

namespace Sys2Proof.Machine

/-- What a bound is taken at: the floor pace in turns per µs, the turns a block of 2,048 bytes takes on its lane at least, the
weight rows counted where NROWS is a register, and the turns before a stream's first byte. -/
structure BoundAt where
  floor : Nat
  block : Nat
  rows  : Nat
  first : Nat

/-- Turns before an expander stream's first byte: 900 ns and 10 turns (R290). -/
def feedFirst (floor : Nat) : Nat := ceilDiv (900 * floor) 1000 + 10

/-- What QBOUND takes its bounds at: every feed at its worst-case rate, 64 turns a block (R290, R367). -/
def queueAt (floor : Nat) : BoundAt := ⟨floor, 64, 2048, feedFirst floor⟩

/-- A constant operand. -/
def constOf : Opd → Option Nat
  | .imm v => some v
  | .reg _ => none

/-- Turns of a stream of `bytes` bytes from an expander: each block at the lane's rate, or the consumer's own turns `c` for its
2,048 bytes where those are more (R290). -/
def streamTurns (e : BoundAt) (bytes c : Nat) : Nat := e.first + ceilDiv bytes 2048 * max e.block c

/-- A TBUILD: 2 turns past its last byte, 122 or 32 past its first, its reads taking every second grant of slot 0 (R83, R99). -/
def tbuildTurns (a : TbuildArgs) : Option Nat :=
  match constOf a.ngroups, constOf a.ncols with
  | some g, some c =>
    some (max (2 * ceilDiv (5 * fmtWidth a.fmt * g * c) 64 + 2) (2 + if a.fmt = 0 then 122 else 32))
  | _, _ => none

/-- A TLOOK: a row a turn in integer mode and two in float mode, at its feed's rate, and the retire delay (Tables 4-2, 4-6). -/
def tlookTurns (e : BoundAt) (a : TlookArgs) : Nat :=
  let n := (constOf a.nrows).getD e.rows
  let per := if a.fmt = 0 then 1 else 2
  (if a.feedExp then streamTurns e (32 * n) (64 * per) else n * per + 2) + if a.fmt = 0 then 34 else 66

/-- A DRAIN: 4 turns a scaled row, 1 a row of INT32, and the grants of slot 0 that a STORE feed leaves, every second one, for the
row's granules (R99, R102). -/
def drainTurns (a : DrainArgs) : Option Nat :=
  (constOf a.nrows).map fun n =>
    n * max (if a.outFmt = 5 then 1 else 4) (2 * ceilDiv (a.ncols * fmtWidth a.outFmt) 64)

/-- An ATTN.QK: 4 digits a key element, so 5 turns a key and one for the block; 38 turns more for fewer than 10 keys (R137). -/
def qkTurns (e : BoundAt) (a : AttnArgs) : Nat :=
  let n := (constOf a.nkeys).getD 64
  let w := 16 * a.hwc
  (if a.feed = 0 then 5 * n else streamTurns e (n * w) (5 * ceilDiv 2048 (max 1 w))) + 1 +
    if n < 10 then (if a.hwc = 16 then 39 else 38) else 0

/-- An ATTN.PV: a turn a key, beside what its stream takes (R137, R290). -/
def pvTurns (e : BoundAt) (a : AttnArgs) : Nat :=
  let n := (constOf a.nkeys).getD 64
  let w := 16 * a.hwc
  (if a.feed = 0 then n else streamTurns e (n * w) (ceilDiv 2048 (max 1 w))) + 4

/-- Rows a row mask names; all 32 where it comes from a register. -/
def maskRows (o : Opd) : Nat :=
  match o with
  | .imm v => ((List.range 32).filter v.testBit).length
  | .reg _ => 32

/-- Turns of one element of a VEC.OP (Tables 6-1, 6-2). -/
def opTurns (func : Nat) : Nat :=
  match func with
  | 0x0A => 8 | 0x0B => 9 | 0x10 => 45 | 0x11 => 51 | 0x12 | 0x13 => 19 | 0x14 => 6
  | _ => 1

/-- Turns of the slowest lane of a VEC instruction of `n` elements, as the sum of its parts' worst turns (Tables 6-1, 6-2, R146,
R147, R149 to R153); TOPK and SAMPLE, whose parts the spec does not give, are free (notes/assumptions/63.md). -/
def laneTurns (opc n : Nat) (a : VecArgs) : Nat :=
  match opc with
  | 0x70 => n * opTurns a.func
  | 0x71 => n * 6
  | 0x72 => n * a.aux
  | 0x73 => ceilDiv n 64 * ((a.aux - 1) * (1 + 128 * 9) + 45 + 128 * 8)
  | 0x74 => if a.func < 2 then n * (9 + a.func) else 45 + 8 + 1 + 51 + n * 18
  | 0x75 => ceilDiv n 2 * 40
  | 0x76 => n * 18 + 45
  | _ => Sys2Proof.Config.sampleTurns opc n

/-- A VEC instruction: the slowest lane or its bytes at 64 a turn, and 4 turns (R142). -/
def vecTurns (opc : Nat) (a : VecArgs) : Option Nat :=
  (constOf a.n).map fun n =>
    max (laneTurns opc n a) (ceilDiv (n * a.ncols * (2 * fmtWidth a.fin + fmtWidth a.fout)) 64) + 4

/-- Turns of the mover's slot for `n` granules: 7 grants in every 8 turns (R192). -/
def slot3Turns (n : Nat) : Nat := ceilDiv (8 * n) 7

/-- Turns of a send's path: 12 a die hop, six hops at most on the grid (R13, Table 10-2). -/
def hopTurns : Nat := 72

/-- The block bound of an instruction in turns, none where the operand that sets its size is a register. -/
def blockBound (e : BoundAt) : Instr → Option Nat
  | .tbuild _ _ a => tbuildTurns a
  | .tlook _ _ a => some (tlookTurns e a)
  | .drain _ _ a _ => drainTurns a
  | .attnQk _ _ a => some (qkTurns e a)
  | .attnPv _ _ a => some (pvTurns e a)
  | .attnSoftInit _ _ m _ _ => some (2 * 5 * maskRows m + 2)
  | .attnSoftBlock .. => some 27
  | .attnSoftExport _ _ m _ => some (2 * 9 * maskRows m + 1)
  | .vecOp _ _ a => vecTurns 0x70 a
  | .vecXred _ _ a => vecTurns 0x71 a
  | .vecRed _ _ a => vecTurns 0x72 a
  | .vecMerge _ _ a => vecTurns 0x73 a
  | .vecNorm _ _ a => vecTurns 0x74 a
  | .vecRope _ _ a => vecTurns 0x75 a
  | .vecQuant _ _ a => vecTurns 0x76 a
  | .vecTopk _ _ a => vecTurns 0x77 a
  | .vecSample _ _ a => vecTurns 0x78 a
  | .rngDraw _ _ a => (constOf a.nblk).map (8 * ·)
  | .bandSelect _ _ a => some (8 * a.b + 32)
  | .bandApply .. => some (16 + 64)
  | .bandAudit _ _ a => (constOf a.naud).map fun n => 64 * n + 32
  | .moveLoad _ _ a | .moveStore _ _ a => (constOf a.lenm1).map fun n => slot3Turns (n + 1) + 4 + hopTurns
  | .movePut _ _ a | .moveGet _ _ a => (constOf a.lenm1).map fun n => 2 * (n + 1) + 4
  | .moveSend _ _ a => (constOf a.lenm1).map fun n => slot3Turns (n + 1) + hopTurns
  | .winClose .. => some 1
  | _ => some 0

/-- The memory latency in an instruction's bound, in ns (Table 10-2). -/
def memLatency : Instr → Nat
  | .moveLoad .. | .moveStore .. => 450
  | _ => 0

/-- The block bound of an instruction in turns; free where a register sets its size (notes/assumptions/63.md). -/
def boundTurns (e : BoundAt) (i : Instr) : Nat := (blockBound e i).getD (Sys2Proof.Config.latestTurns i)

/-- Latest bound of an instruction in turns, its memory latency at the floor pace, with every feed at its worst-case rate
(R367). -/
def latestOf (floor : Nat) (i : Instr) : Nat := boundTurns (queueAt floor) i + ceilDiv (memLatency i * floor) 1000

/-- Latest issue of an instruction after the one before it, held by the scoreboard at most (Table 9-16). -/
def issueTurns : Instr → Nat
  | .stageLoad _ _ nm1 _ _ => 1 + ceilDiv (nm1.val + 1) 8
  | .syncBar .. | .syncEnd .. => 160
  | .stageLoop .. | .syncWait .. => 1
  | _ => 2

/-- Bytes an instruction moves to or from module memory, with its first byte's address where that is a constant. -/
def memMoved : Instr → Option (Option Nat × Nat)
  | .moveLoad _ _ a | .moveStore _ _ a => (constOf a.lenm1).map fun n => ((constOf a.maddr).map (· * 64), (n + 1) * 64)
  | _ => none

end Sys2Proof.Machine
end

