-- ==== Sys2Proof/Machine/Crypto.lean ====
section
/-! DEFINITION. CRC-32, SHA-256, HKDF and the ChaCha20 block (R154, R155, R169, R317, R452). -/

namespace Sys2Proof.Machine

/-- One bit of CRC-32, reflected. -/
def crcBit (c : Word) : Word := if c &&& 1 = 1 then (c >>> 1) ^^^ 0xEDB88320 else c >>> 1

/-- Repeat a function. -/
def repeatN {α : Type} (f : α → α) : Nat → α → α
  | 0, a => a
  | n + 1, a => repeatN f n (f a)

/-- CRC-32, IEEE 802.3 polynomial. -/
def crc32 (bs : List Byte) : Word :=
  (bs.foldl (fun c b => repeatN crcBit 8 (c ^^^ b.setWidth 32)) 0xFFFFFFFF) ^^^ 0xFFFFFFFF

/-- Rotate left. -/
def rotl (w : Word) (n : Nat) : Word := (w <<< n) ||| (w >>> (32 - n))

/-- Rotate right. -/
def rotr (w : Word) (n : Nat) : Word := (w >>> n) ||| (w <<< (32 - n))

/-- The largest `r` below `2 ^ b` above a partial root whose `k`-th power does not exceed `n`, bit by bit. -/
def rootFrom (k n : Nat) : Nat → Nat → Nat
  | 0, r => r
  | b + 1, r => rootFrom k n b (if (r + 2 ^ b) ^ k ≤ n then r + 2 ^ b else r)

/-- The first 32 bits of the fraction of the `k`-th root of `p`. -/
def rootFrac (k p : Nat) : Word := BitVec.ofNat 32 (rootFrom k (p * 2 ^ (32 * k)) 40 0)

/-- The primes below 312: there are 64. -/
def smallPrimes : List Nat :=
  (List.range 312).filter fun n => decide (2 ≤ n) && (List.range 18).all fun d => decide (d < 2) || decide (n ≤ d) || n % d != 0

/-- SHA-256's 64 round constants: the cube roots of the first primes. -/
def shaK : List Word := smallPrimes.map (rootFrac 3)

/-- SHA-256's initial hash: the square roots of the first eight. -/
def shaH0 : List Word := (smallPrimes.take 8).map (rootFrac 2)

/-- The exclusive or of a word's rotations. -/
def turns (w : Word) (ns : List Nat) : Word := (ns.map (rotr w)).foldl (· ^^^ ·) 0

/-- The message schedule, newest word first. -/
def shaSched : Nat → List Word → List Word
  | 0, w => w
  | n + 1, w =>
    let old (k : Nat) : Word := w.getD (k - 1) 0
    shaSched n ((old 16 + old 7 + (turns (old 15) [7, 18] ^^^ old 15 >>> 3) + (turns (old 2) [17, 19] ^^^ old 2 >>> 10)) :: w)

/-- One SHA-256 round on the eight working words. -/
def shaRound (h : List Word) (kw : Word) : List Word :=
  let v (i : Nat) : Word := h.getD i 0
  let choose := v 6 ^^^ (v 4 &&& (v 5 ^^^ v 6))
  let most := (v 0 &&& v 1) ||| (v 2 &&& (v 0 ||| v 1))
  let add := kw + choose + turns (v 4) [6, 11, 25] + v 7
  [add + most + turns (v 0) [2, 13, 22]] ++ h.take 3 ++ [v 3 + add] ++ (h.drop 4).take 3

/-- Big-endian words of a byte string. -/
def beWords : List Byte → List Word
  | a :: b :: c :: d :: r =>
    ((a.setWidth 32 <<< 24) ||| (b.setWidth 32 <<< 16) ||| (c.setWidth 32 <<< 8) ||| d.setWidth 32) :: beWords r
  | _ => []

/-- Big-endian bytes of a word. -/
def beBytes (w : Word) : List Byte :=
  [(w >>> 24).setWidth 8, (w >>> 16).setWidth 8, (w >>> 8).setWidth 8, w.setWidth 8]

/-- Little-endian words of a byte string. -/
def leWords : List Byte → List Word
  | a :: b :: c :: d :: r =>
    ((d.setWidth 32 <<< 24) ||| (c.setWidth 32 <<< 16) ||| (b.setWidth 32 <<< 8) ||| a.setWidth 32) :: leWords r
  | _ => []

/-- Little-endian bytes of words. -/
def wordsLe (ws : List Word) : List Byte := ws.flatMap fun w => leBytes 4 w.toNat

/-- One SHA-256 block of 16 words. -/
def shaBlock (h : List Word) (blk : List Word) : List Word :=
  let w := (shaSched 48 blk.reverse).reverse
  let h' := ((shaK.zip w).map fun p => p.1 + p.2).foldl shaRound h
  (h.zip h').map fun p => p.1 + p.2

/-- Blocks of `n` words, with fuel. -/
def chunksOf {α : Type} (n : Nat) : Nat → List α → List (List α)
  | 0, _ => []
  | k + 1, l => if l.isEmpty then [] else l.take n :: chunksOf n k (l.drop n)

/-- SHA-256. -/
def sha256 (m : List Byte) : List Byte :=
  let padLen := (119 - m.length % 64) % 64
  let p := m ++ [0x80] ++ List.replicate padLen 0 ++ (leBytes 8 (8 * m.length)).reverse
  let bs := chunksOf 16 (p.length / 64 + 1) (beWords p)
  (bs.foldl shaBlock shaH0).flatMap beBytes

/-- HMAC-SHA-256. -/
def hmacSha256 (key msg : List Byte) : List Byte :=
  let k := if key.length > 64 then sha256 key else key
  let k := k ++ List.replicate (64 - k.length) 0
  sha256 ((k.map (· ^^^ 0x5C)) ++ sha256 ((k.map (· ^^^ 0x36)) ++ msg))

/-- HKDF-SHA-256 (RFC 5869) with a salt and 48 bytes of output (R494). -/
def hkdf48 (salt ikm info : List Byte) : List Byte :=
  let prk := hmacSha256 salt ikm
  let t1 := hmacSha256 prk (info ++ [1])
  (t1 ++ hmacSha256 prk (t1 ++ info ++ [2])).take 48

/-- HKDF-SHA-256 with an empty salt and 32 bytes of output (R155), as little-endian words. -/
def hkdf (ikm info : List Byte) : List Word :=
  leWords (hmacSha256 (hmacSha256 (List.replicate 32 0) ikm) (info ++ [1]))

/-- Write at a list position. -/
def setAt {α : Type} (l : List α) (i : Nat) (v : α) : List α := l.take i ++ v :: l.drop (i + 1)

/-- ChaCha quarter round on positions. -/
def chaQuarter (a b c d : Nat) (s : List Word) : List Word :=
  let x := s.getD a 0 + s.getD b 0
  let w := rotl (s.getD d 0 ^^^ x) 16
  let y := s.getD c 0 + w
  let z := rotl (s.getD b 0 ^^^ y) 12
  let x' := x + z
  let w' := rotl (w ^^^ x') 8
  let y' := y + w'
  let z' := rotl (z ^^^ y') 7
  setAt (setAt (setAt (setAt s a x') b z') c y') d w'

/-- ChaCha double round. -/
def chaDouble (s : List Word) : List Word :=
  chaQuarter 3 4 9 14 (chaQuarter 2 7 8 13 (chaQuarter 1 6 11 12 (chaQuarter 0 5 10 15
    (chaQuarter 3 7 11 15 (chaQuarter 2 6 10 14 (chaQuarter 1 5 9 13 (chaQuarter 0 4 8 12 s)))))))

/-- The ChaCha20 block of RFC 8439 with the inputs of R154: 16 words. -/
def chachaBlock (key : List Word) (domain stream counter : Nat) : List Word :=
  let s := [0x61707865, 0x3320646e, 0x79622d32, 0x6b206574] ++ (key ++ List.replicate 8 0).take 8 ++
    [BitVec.ofNat 32 counter, BitVec.ofNat 32 domain, BitVec.ofNat 32 stream, BitVec.ofNat 32 (counter / 2 ^ 32)]
  (s.zip (repeatN chaDouble 10 s)).map fun p => p.1 + p.2

/-- Word `i` of a block. -/
def chachaWord (key : List Word) (domain stream counter i : Nat) : Word :=
  (chachaBlock key domain stream counter).getD i 0

/-- A request's device-derived key (R155). -/
def deviceKey (secret : List Word) (slot admits : Nat) : List Word :=
  hkdf (wordsLe secret) (leBytes 2 slot ++ leBytes 4 admits)

/-- A host-seeded request's key (R155). -/
def seedKey (seed substream : Nat) : List Word := hkdf (leBytes 8 seed) (leBytes 2 substream)

/-- The partition's audit key (R155): info is the ASCII bytes "audit". -/
def auditKey (secret : List Word) : List Word := hkdf (wordsLe secret) [0x61, 0x75, 0x64, 0x69, 0x74]

end Sys2Proof.Machine
end

