-- ==== Sys2Proof/Machine/Codes.lean ====
section
/-! DEFINITION. Status codes (Table 0-5) and error-record codes with their severities (R452, R454, R552). -/

namespace Sys2Proof.Machine

/-- Record codes: Table 19-2 (R454), Table 20-9 (R491), R503, R520, R541. -/
inductive RecCode where
  | tileStall | paceLow | tritCode | nonfinite | accSat | tlaParity | acmCe | acmUe | tlaRange 
  | tlaState | tlaType | tlaFeed | kvCount | aeParity | aeFeed | aeRange | aeState | vecParity 
  | sampleNonfinite | rngDup | vecRedTimeout | vecRange | bandMeta | sparseForm | bandRange 
  | letterboxRefused | tsCe | tsUe | tsCacheUe | tsCacheClass | tsWindow | tsArrivalTimeout 
  | tsUndeclared | tsRange | spLoad | spBank | spRange | spRunaway | syncTimeout | pbCheck | movePerm 
  | memUnmapped | memPerm | memCe | memCeStuck | memACrc | memPoison | memPoisonFull | memLoad 
  | memMigrate | expSlot | expTable | expGen | expDecode | expList | loadHdr | loadPlace | loadBlock 
  | loadBase | loadDma | loadPoison | loadBusy | loadState | adapterLoad | adapterSpace | loadMoe 
  | moeMeta | srvNoSlot | srvStaleTag | srvSubmit | srvRole | specTree | specStale | outRingFull 
  | dlqOverwrite | kvHandoff | kvReserve | kvDefer | kvPreempt | kvSwap | partBusy | partField 
  | switchAbandon | admRefuse | admSuspended | admLate | hifTlp | hifField | hifDoorbell | hifMailbox 
  | hifPoisonedTlp | hifDma | hifPause | hifLinkLow | hifRelayTimeout | cmdFormat | cmdPerm | cmdRead 
  | cmdRing | cmdSwap | lnkMiswire | lnkDown | lnkWidth | lnkProto | lnkReroute | lnkFlowFail 
  | unitSuspect | ftResult | ftOverdue | unitFence | unitUnfence | rebalance | edgeLink | coreFault 
  | taint | repair | repairFail | bootSlow | bootSlotBad | bootFallback | bootDie | bootConfig 
  | bootNotReady | fenceList | imgWrite | imgVerify | fwActFail | secCommit | secRevoke | secFuse 
  | secSpdm | secRng | secDebug | secAlias | thermalHigh | thermalTrip | sensorFail | supplyRange 
  | pwrOverBudget | throttle | sleepEnter | wake | sideGlitch | sideToggle | sideStuck | sideModid 
  | gsyncFallback | gsyncLock | mgmtRefused 
  deriving DecidableEq, Repr

/-- The TYPE number of a record code (R454). -/
def recNumber : RecCode → Nat
  | .tileStall => 0x0101
  | .paceLow => 0x0102
  | .tritCode => 0x0201
  | .nonfinite => 0x0202
  | .accSat => 0x0203
  | .tlaParity => 0x0204
  | .acmCe => 0x0205
  | .acmUe => 0x0206
  | .tlaRange => 0x0207
  | .tlaState => 0x0208
  | .tlaType => 0x0209
  | .tlaFeed => 0x020A
  | .kvCount => 0x0301
  | .aeParity => 0x0302
  | .aeFeed => 0x0303
  | .aeRange => 0x0304
  | .aeState => 0x0305
  | .vecParity => 0x0401
  | .sampleNonfinite => 0x0402
  | .rngDup => 0x0403
  | .vecRedTimeout => 0x0404
  | .vecRange => 0x0405
  | .bandMeta => 0x0406
  | .sparseForm => 0x0407
  | .bandRange => 0x0408
  | .letterboxRefused => 0x0501
  | .tsCe => 0x0502
  | .tsUe => 0x0503
  | .tsCacheUe => 0x0504
  | .tsCacheClass => 0x0505
  | .tsWindow => 0x0506
  | .tsArrivalTimeout => 0x0507
  | .tsUndeclared => 0x0508
  | .tsRange => 0x0509
  | .spLoad => 0x0601
  | .spBank => 0x0602
  | .spRange => 0x0603
  | .spRunaway => 0x0604
  | .syncTimeout => 0x0605
  | .pbCheck => 0x0606
  | .movePerm => 0x0607
  | .memUnmapped => 0x0701
  | .memPerm => 0x0702
  | .memCe => 0x0703
  | .memCeStuck => 0x0704
  | .memACrc => 0x0705
  | .memPoison => 0x0706
  | .memPoisonFull => 0x0707
  | .memLoad => 0x0708
  | .memMigrate => 0x0709
  | .expSlot => 0x0801
  | .expTable => 0x0802
  | .expGen => 0x0803
  | .expDecode => 0x0804
  | .expList => 0x0805
  | .loadHdr => 0x0901
  | .loadPlace => 0x0902
  | .loadBlock => 0x0903
  | .loadBase => 0x0904
  | .loadDma => 0x0905
  | .loadPoison => 0x0906
  | .loadBusy => 0x0907
  | .loadState => 0x0908
  | .adapterLoad => 0x0909
  | .adapterSpace => 0x090A
  | .loadMoe => 0x090B
  | .moeMeta => 0x090C
  | .srvNoSlot => 0x0A01
  | .srvStaleTag => 0x0A02
  | .srvSubmit => 0x0A03
  | .srvRole => 0x0A04
  | .specTree => 0x0A05
  | .specStale => 0x0A06
  | .outRingFull => 0x0A07
  | .dlqOverwrite => 0x0A08
  | .kvHandoff => 0x0A09
  | .kvReserve => 0x0A0A
  | .kvDefer => 0x0A0B
  | .kvPreempt => 0x0A0C
  | .kvSwap => 0x0A0D
  | .partBusy => 0x0B01
  | .partField => 0x0B02
  | .switchAbandon => 0x0B03
  | .admRefuse => 0x0B04
  | .admSuspended => 0x0B05
  | .admLate => 0x0B06
  | .hifTlp => 0x0C01
  | .hifField => 0x0C02
  | .hifDoorbell => 0x0C03
  | .hifMailbox => 0x0C04
  | .hifPoisonedTlp => 0x0C05
  | .hifDma => 0x0C06
  | .hifPause => 0x0C07
  | .hifLinkLow => 0x0C08
  | .hifRelayTimeout => 0x0C09
  | .cmdFormat => 0x0C0A
  | .cmdPerm => 0x0C0B
  | .cmdRead => 0x0C0C
  | .cmdRing => 0x0C0D
  | .cmdSwap => 0x0C0E
  | .lnkMiswire => 0x0D01
  | .lnkDown => 0x0D02
  | .lnkWidth => 0x0D03
  | .lnkProto => 0x0D04
  | .lnkReroute => 0x0D05
  | .lnkFlowFail => 0x0D06
  | .unitSuspect => 0x0E01
  | .ftResult => 0x0E02
  | .ftOverdue => 0x0E03
  | .unitFence => 0x0E04
  | .unitUnfence => 0x0E05
  | .rebalance => 0x0E06
  | .edgeLink => 0x0E07
  | .coreFault => 0x0E08
  | .taint => 0x0E09
  | .repair => 0x0E0A
  | .repairFail => 0x0E0B
  | .bootSlow => 0x0F01
  | .bootSlotBad => 0x0F02
  | .bootFallback => 0x0F03
  | .bootDie => 0x0F04
  | .bootConfig => 0x0F05
  | .bootNotReady => 0x0F06
  | .fenceList => 0x0F07
  | .imgWrite => 0x0F08
  | .imgVerify => 0x0F09
  | .fwActFail => 0x0F0A
  | .secCommit => 0x1001
  | .secRevoke => 0x1002
  | .secFuse => 0x1003
  | .secSpdm => 0x1004
  | .secRng => 0x1005
  | .secDebug => 0x1006
  | .secAlias => 0x1007
  | .thermalHigh => 0x1101
  | .thermalTrip => 0x1102
  | .sensorFail => 0x1103
  | .supplyRange => 0x1104
  | .pwrOverBudget => 0x1105
  | .throttle => 0x1106
  | .sleepEnter => 0x1107
  | .wake => 0x1108
  | .sideGlitch => 0x1201
  | .sideToggle => 0x1202
  | .sideStuck => 0x1203
  | .sideModid => 0x1204
  | .gsyncFallback => 0x1205
  | .gsyncLock => 0x1206
  | .mgmtRefused => 0x1207

/-- The SEV of a record code in Table 19-17, before the two exceptions of R552. -/
def recSevBase : RecCode → Nat
  | .acmCe | .kvCount | .tsCe | .memCe => 0
  | .tileStall | .tritCode | .tlaParity | .acmUe | .tlaFeed | .aeParity | .aeFeed | .vecParity 
  | .vecRedTimeout | .bandMeta | .sparseForm | .tsUe | .tsCacheUe | .tsArrivalTimeout 
  | .syncTimeout | .pbCheck | .memCeStuck | .memACrc | .expList | .moeMeta | .kvSwap | .edgeLink 
  | .coreFault | .repair => 1
  | .memPoison | .memPoisonFull | .expGen | .expDecode | .loadPoison | .admLate | .rebalance 
  | .taint | .repairFail | .bootSlotBad | .bootDie | .bootConfig | .fenceList | .fwActFail 
  | .secFuse | .secRng | .thermalTrip | .sensorFail => 2
  | .tlaRange | .tlaState | .tlaType | .aeRange | .aeState | .vecRange | .bandRange 
  | .letterboxRefused | .tsCacheClass | .tsWindow | .tsUndeclared | .tsRange | .spRange 
  | .spRunaway | .movePerm => 3
  | .rngDup | .spLoad | .spBank | .memUnmapped | .memPerm | .memLoad | .expSlot | .expTable 
  | .loadHdr | .loadPlace | .loadBlock | .loadBase | .loadDma | .loadBusy | .loadState 
  | .adapterLoad | .adapterSpace | .loadMoe | .srvNoSlot | .srvStaleTag | .srvSubmit | .srvRole 
  | .specTree | .specStale | .partBusy | .partField | .hifTlp | .hifField | .hifDoorbell 
  | .hifMailbox | .hifPoisonedTlp | .hifDma | .hifPause | .cmdFormat | .cmdPerm | .cmdRead 
  | .cmdRing | .cmdSwap | .bootNotReady | .imgVerify | .secSpdm | .secDebug | .sideGlitch 
  | .sideToggle | .sideStuck | .sideModid | .mgmtRefused => 4
  | .hifLinkLow | .hifRelayTimeout | .lnkMiswire | .lnkDown | .lnkWidth | .lnkProto | .lnkReroute 
  | .lnkFlowFail | .gsyncFallback => 5
  | .paceLow | .unitSuspect | .ftResult | .unitFence | .unitUnfence => 6
  | .nonfinite | .accSat | .sampleNonfinite | .memMigrate | .outRingFull | .dlqOverwrite 
  | .kvHandoff | .kvReserve | .kvDefer | .kvPreempt | .switchAbandon | .admRefuse | .admSuspended 
  | .ftOverdue | .bootSlow | .bootFallback | .imgWrite | .secCommit | .secRevoke | .secAlias 
  | .thermalHigh | .supplyRange | .pwrOverBudget | .throttle | .sleepEnter | .wake | .gsyncLock => 7

/-- The number of a status code, Table 0-5 (R10). -/
def statusNumber : Status → Nat
  | .ok => 0x00
  | .accepted => 0x01
  | .staged => 0x02
  | .busy => 0x10
  | .noResource => 0x11
  | .deadlineUnmet => 0x12
  | .slotReferenced => 0x13
  | .streamInUse => 0x14
  | .badField => 0x20
  | .badState => 0x21
  | .badRange => 0x22
  | .metadataFault => 0x23
  | .tritCode => 0x24
  | .poisoned => 0x30
  | .tainted => 0x31
  | .fenced => 0x32
  | .preempted => 0x33
  | .cancelled => 0x34
  | .violation => 0x40
  | .authFail => 0x41
  | .notPermitted => 0x42

/-- The class of a status: its high nibble (R11). -/
def statusClass (s : Status) : Nat := statusNumber s / 16

/-- SEV as written: RECOVERED codes go to 2 when the status is of class 2, 3 or 4; MEM_UNMAPPED and MEM_PERM go to 3
when the refused requester is a tile or an expander (R552). -/
def recSev (c : RecCode) (st : Status) (fromTileOrExpander : Bool) : Nat :=
  match c with
  | .memUnmapped | .memPerm => if fromTileOrExpander then 3 else 4
  | _ => if recSevBase c = 1 ∧ 2 ≤ statusClass st ∧ statusClass st ≤ 4 then 2 else recSevBase c

end Sys2Proof.Machine
end

