-- ==== Sys2Proof/Machine/LogState.lean ====
section
/-! DEFINITION. Records, journals, ledger and what the block sends out (chapters 16, 17, 19). -/

namespace Sys2Proof.Machine

/-- An error record (Table 19-1); `detail` lists the fields the record's rule names, in its order. -/
structure ErrRec where
  seq    : Nat
  time   : Nat
  code   : RecCode
  sev    : Nat
  status : Status
  unit   : UnitId
  block  : Option Nat
  opc    : Nat
  part   : Nat
  event  : Nat
  step   : Nat
  temp   : Int
  volt   : Nat
  pace   : Nat
  count  : Nat
  ustate : Nat
  detail : List Nat
  deriving DecidableEq, Repr

/-- A change-ledger entry (Table 17-10); OBJ and ACT are the table's numbers. -/
structure LedgerEntry where
  seq    : Nat
  time   : Nat
  origin : Nat
  obj    : Nat
  act    : Nat
  status : Status
  part   : Nat
  width  : Nat
  target : Nat
  old    : Nat
  new    : Nat
  step   : Nat
  deriving DecidableEq, Repr

/-- A journal entry (Table 17-9); KIND is the table's number. -/
structure JEntry where
  seq    : Nat
  tag    : Nat
  time   : Nat
  origin : Nat
  kind   : Nat
  status : Status
  cmd    : Nat
  src    : Nat
  ctx    : Nat
  slot   : Nat
  ridx   : Nat
  detail : Nat
  deriving DecidableEq, Repr

/-- Counters of a step record that tiles add to (Table 13-4). -/
structure Counters where
  nonfinite : Nat
  accSat    : Nat
  kvCount   : Nat
  metaFaults : Nat
  denseLayers : Nat
  adapterDefer : Nat
  bandsComputed : Nat
  bandsAudited : Nat
  missFound : Nat
  missMadeUp : Nat
  missLost : Nat
  moeRouted : Nat
  moeRerouted : Nat
  moeDropped : Nat
  prefixBlocks : Nat
  prefixSkip : Nat
  specDiscard : Nat
  deriving DecidableEq, Repr

/-- All counters zero. -/
def Counters.zero : Counters := ⟨0, 0, 0, 0, 0, 0, 0, 0, 0, 0, 0, 0, 0, 0, 0, 0, 0⟩

/-- A step record (Table 13-4). -/
structure StepRec where
  step    : Nat
  version : Nat
  ncols   : Nat
  nsets   : Nat
  flags   : Nat
  tStart  : Nat
  tEnd    : Nat
  ndecode : Nat
  nprefill : Nat
  nspec   : Nat
  nemit   : Nat
  specAccepted : Nat
  event   : Nat
  cnt     : Counters
  deriving DecidableEq, Repr

/-- One journal (R415, R417): written entries oldest first, and the queue awaiting the write. -/
structure Journal where
  head    : Nat
  entries : List JEntry
  queue   : List JEntry
  deriving DecidableEq, Repr

/-- An empty journal. -/
def Journal.init : Journal := ⟨0, [], []⟩

/-- The LOG block and the error ring (R415-R424, R453). `lost` names entries in poisoned blocks (R418, R471) as
(log, index): logs 0-7 the journals by SEQ mod 2²⁰, 8 the ledger by SEQ mod 65,536, 9 the error ring by SEQ mod 262,144,
16 + p the step-record rings and 24 + p the dead-letter queues by ring index. -/
structure Log where
  ledgerHead : Nat
  ledger     : List LedgerEntry
  ledgerSel  : Nat
  journals   : Tab Journal
  errSeq     : Nat
  errRing    : List ErrRec
  errQueue   : List ErrRec
  dropped    : Nat
  lost       : List (Nat × Nat)
  deriving DecidableEq, Repr

/-- The LOG block at reset. -/
def Log.init : Log := ⟨0, [], 0, [], 0, [], [], 0, []⟩

/-- How a read of the host or the management port completes. -/
inductive ReadReply where
  | data (v : Nat) | bytes (bs : List Byte) | ep | ur | written | discarded | nack
  deriving DecidableEq, Repr

/-- What goes out of the block (notes/assumptions/5.md): bus transactions, oldest first in State.out. -/
inductive Out where
  | hostWrite (fn : Nat) (addr : Nat) (bytes : List Byte)
  | hostRead (fn : Nat) (addr len : Nat)
  | msix (fn vec : Nat)
  | reply (rd : Origin) (off : Nat) (r : ReadReply)
  | packet (port : Nat) (dst vc : Nat) (kind : Nat) (body : List Nat)
  | control (port : Nat) (kind : Nat) (body : List Nat)
  | spdm (tr : Transport) (code : Nat) (body : List Nat)
  | doeError
  | mgmt (body : List Byte)
  | i3c (addr : Nat) (body : List Nat)
  | relayed (module vc ring : Nat) (bytes : List Byte)
  deriving DecidableEq, Repr

end Sys2Proof.Machine
end

