-- ==== Sys2Proof/Machine/TileState.lean ====
section
/-! DEFINITION. State of one tile (chapters 4 to 9). -/

namespace Sys2Proof.Machine

/-- Blocks that take instructions from a queue (Table 9-15). -/
inductive Blk where
  | tla | ae | vec | rng | mover
  deriving DecidableEq, Repr

/-- An issued instruction with its class fields resolved (R218) and the operand registers it reads, as they stood at its
issue (R224): `ra` and `rb` of a VEC are those AUX names, `step` is r255. -/
inductive Op where
  | tbuild (src ngroups ncols fmt : Nat) (buf : Nat)
  | tlook (feed nrows acmBase amode buf : Nat) (exp : Bool) (fmt ngroups ncols : Nat)
  | drain (acmBase nrows ncols outFmt wmode waddr : Nat) (ascale : Option Nat) (dst stride : Nat) (clear : Bool)
      (err : ArrayErr)
  | qk (rows : Nat) (sbuf nkeys pos0 hwc feed addr maddr : Nat)
  | pv (rows : Nat) (sbuf nkeys hwc feed addr maddr : Nat)
  | softInit (rows addr : Nat) (gang : Bool)
  | softBlock (rows sbuf : Nat)
  | softExport (rows addr : Nat)
  | vec (opc a b d n ncols func fin fout aux : Nat) (ra rb : Word)
  | bandSelect (src b nsel ncols : Nat) (sum : Bool) (layer group set dst step : Nat)
  | bandApply (recGran : Nat) (makeup : Bool) (b nsel layer group set vwin npeer feedExp : Nat)
  | bandAudit (haddr naud ncols dst : Nat) (thr pb idr : Nat) (set step : Nat)
  | rng (d nblk domain col stream ctr : Nat)
  | load (laddr maddr len : Nat) (cache inv : Bool)
  | store (laddr maddr len : Nat) (inv : Bool)
  | put (laddr raddr len : Nat) (dir : Port) (via : Option Nat)
  | getm (laddr raddr len : Nat) (dir : Port)
  | send (laddr raddr len tgt : Nat) (remote : Option Nat) (vc : Nat)
  deriving DecidableEq, Repr

/-- The block an operation runs on (Table 9-2). -/
def Op.blk : Op → Blk
  | .tbuild .. | .tlook .. | .drain .. => .tla
  | .qk .. | .pv .. | .softInit .. | .softBlock .. | .softExport .. => .ae
  | .vec .. | .bandSelect .. | .bandApply .. | .bandAudit .. => .vec
  | .rng .. => .rng
  | .load .. | .store .. | .put .. | .getm .. | .send .. => .mover

/-- The opcode of an operation (Table 9-2). -/
def Op.opc : Op → Nat
  | .load .. => 0x00 | .store .. => 0x01 | .put .. => 0x02 | .getm .. => 0x03 | .send .. => 0x04
  | .tbuild .. => 0x10 | .tlook .. => 0x20 | .drain .. => 0x30 | .qk .. => 0x40
  | .softInit .. => 0x50 | .softBlock .. => 0x51 | .softExport .. => 0x52 | .pv .. => 0x60
  | .vec o .. => o | .bandSelect .. => 0x80 | .bandApply .. => 0x81 | .bandAudit .. => 0x82 | .rng .. => 0x90

/-- A range in force: first granule, granules, WRITE. -/
structure Rng where
  first : Nat
  count : Nat
  write : Bool
  deriving DecidableEq, Repr

/-- An instruction in flight (R209, R229, R230); `prog` counts rows entered, keys joined or granules left, `fed` the keys
whose partials every lane of a QK has delivered (R118), `waits` names lines or verdicts still missing. -/
structure Infl where
  tag     : Nat
  idx     : Nat
  op      : Op
  ranges  : List Rng
  await   : Option (Nat × Nat)
  started : Bool
  prog    : Nat
  fed     : Nat
  waits   : List Nat
  faulted : Bool
  deriving DecidableEq, Repr

/-- Control-processor states, Table 9-21. -/
inductive CpSt where
  | idle | run | held | abandoning | saved | fieldTest
  deriving DecidableEq, Repr

/-- The code of a control-processor state. -/
def CpSt.code : CpSt → Nat
  | .idle => 0 | .run => 1 | .held => 2 | .abandoning => 3 | .saved => 4 | .fieldTest => 5

/-- A table-buffer tag (R78). -/
structure BufTag where
  built   : Bool
  fmt     : Nat
  ngroups : Nat
  ncols   : Nat
  deriving DecidableEq, Repr

/-- A buffer that no TBUILD has filled. -/
def BufTag.init : BufTag := ⟨false, 0, 0, 0⟩

/-- Accumulator row TYPE, Table 4-3. -/
inductive AcmTy where
  | empty | int32 | fp32
  deriving DecidableEq, Repr

/-- An accumulator row (R88, R89): TYPE, SAT and the words by column, each with its 7 check bits above it. -/
structure AcmRow where
  ty    : AcmTy
  sat   : Bool
  words : Tab (BitVec 39)
  deriving DecidableEq, Repr

/-- An EMPTY accumulator row. -/
def AcmRow.init : AcmRow := ⟨.empty, false, []⟩

/-- States of a score buffer (R129). -/
inductive BufSt where
  | empty | scored | logp
  deriving DecidableEq, Repr

/-- A score buffer (R109, R120, R121): entries and masks by key, Δ, the BLOCK order number. -/
structure ScoreBuf where
  st    : BufSt
  ents  : Tab Word
  mask  : Tab Bool
  nkeys : Nat
  delta : Nat
  order : Nat
  deriving DecidableEq, Repr

/-- An EMPTY score buffer. -/
def ScoreBuf.init : ScoreBuf := ⟨.empty, [], [], 0, 0, 0⟩

/-- A skew entry (R119): the key it collects, which lanes have delivered, and their partials. -/
structure Skew where
  tag   : Nat
  lanes : Nat
  parts : Tab Int
  deriving DecidableEq, Repr

/-- A score row (R109, R114); `m = none` is NONE; `skew` its skew entries in use (R119). -/
structure Row where
  q        : Tab (BitVec 16)
  qexp     : Int
  posLo    : Nat
  posHi    : Nat
  treeBase : Nat
  anc      : Nat
  gang     : Bool
  inited   : Bool
  m        : Option Word
  l        : Word
  acc      : Tab Word
  nf       : Bool
  buf0     : ScoreBuf
  buf1     : ScoreBuf
  blocks   : Nat
  pvs      : Nat
  skew     : List Skew
  deriving DecidableEq, Repr

/-- A score row at reset and after R131. -/
def Row.init : Row :=
  ⟨[], 0, 0, 0, 0, 0, false, false, none, 0, [], false, ScoreBuf.init, ScoreBuf.init, 0, 0, []⟩

/-- A letterbox window (Tables 8-3, 8-9); `pend` counts accepted puts and started gets unfinished, `retiring` says that a
WIN.CLOSE of it is in flight, `board` the ranges that WIN.CLOSE declares (R209, R219). -/
structure Win where
  base    : Nat
  len     : Nat
  opened  : Bool
  src     : Nat
  dir     : Nat
  arrived : Nat
  pend    : Nat
  closing : Bool
  retiring : Bool
  board   : List Rng
  deriving DecidableEq, Repr

/-- A window never opened. -/
def Win.init : Win := ⟨0, 0, false, 0, 0, 0, 0, false, false, []⟩

/-- A cache line (R195): line number and contents as filled. -/
structure CLine where
  line : Nat
  data : List Byte
  deriving DecidableEq, Repr

/-- What a tile holds of one band record (R169-R179): `audited` once its AUDIT is written, `joined` once the layer's
verdict is known. -/
structure BandSt where
  layer  : Nat
  group  : Nat
  set    : Nat
  makeup : Bool
  pass   : Bool
  crc    : Word
  list   : List Nat
  audit  : List Nat
  b      : Nat
  nsel   : Nat
  feedExp : Nat
  npeer  : Nat
  verdict : Option Bool
  misses : List Nat
  policy : Nat
  dense  : Bool
  audited : Bool
  joined : Bool
  deriving DecidableEq, Repr

/-- What a tile prefetched of a parameter block (R240, R241): STEP, VERSION, whether CHECK matches, the offset of
the first reserved byte that is not zero, and its section. -/
structure Section where
  step     : Nat
  version  : Nat
  checkOk  : Bool
  reserved : Option Nat
  words    : List Word
  deriving DecidableEq, Repr

/-- A byte in a feed FIFO: the expander it is from, the lane that delivered it, the block it was decoded from (R57, R97,
R366). -/
structure FeedByte where
  exp  : Nat
  lane : Nat
  blk  : Nat
  byte : Byte
  deriving DecidableEq, Repr

/-- One tile. `held` is the instruction held at issue, which no later one passes (R228); `syncBoard` the ranges of a SYNC
that waits; `noticed` that an abandonment notice has come and the tile issues up to its next SYNC (R235); `rowsOut` the
score rows out of service when the step began (R113). `waitBlocks`, `waitBar`, `waitCount` and `waitEnd` say what a SYNC
waits for (R232 to R234), `stopped` that a context switch stopped issue (R242), `abandonOn` that an abandonment notice is
due (R235); a table word carries its parity bit on top (R77); `acmCe` counts corrected
ACM errors (Table 4-7). -/
structure Tile where
  pc        : Nat
  bank      : Nat
  st        : CpSt
  hold      : Nat
  version   : Nat
  issued    : Nat
  lastIdx   : Nat
  regs      : Tab Word
  sec       : Option Section
  secNext   : Option Section
  bankVer   : Tab Nat
  inflight  : List Infl
  tags      : Tab BufTag
  tables    : Tab (List (BitVec 17))
  acm       : Tab AcmRow
  rows      : Tab Row
  tlaFifo   : List FeedByte
  fifoA     : List FeedByte
  fifoB     : List FeedByte
  lanes     : Tab Word
  store     : Memory
  poison    : List Nat
  cacheBanks : Nat
  cache     : Tab (List CLine)
  wins      : Tab Win
  refused   : Nat
  ce        : Nat
  ue        : Nat
  acmCe     : Nat
  hits      : Nat
  misses    : Nat
  bars      : Tab (List Nat)
  waitBar   : Option Nat
  waitBlocks : Option Nat
  waitCount : Option (Nat × Nat)
  waitEnd   : Bool
  bands     : List BandSt
  recOnce   : List (Nat × Nat)
  faulted   : Bool
  ended     : Bool
  endRange  : Option Rng
  abandonOn : Bool
  noticed   : Bool
  stopped   : Bool
  held      : Option Instr
  syncBoard : List Rng
  rowsOut   : List Nat
  deriving DecidableEq, Repr

/-- A tile at reset (Tables 8-6 to 8-9, 9-21). -/
def Tile.init : Tile :=
  { pc := 0, bank := 0, st := .idle, hold := 0, version := 0, issued := 0, lastIdx := 0, regs := [], sec := none,
    secNext := none, bankVer := [], inflight := [], tags := [], tables := [], acm := [], rows := [], tlaFifo := [],
    fifoA := [], fifoB := [], lanes := [], store := [], poison := [], cacheBanks := 0, cache := [], wins := [],
    refused := 0, ce := 0, ue := 0, acmCe := 0, hits := 0, misses := 0, bars := [], waitBar := none, waitBlocks := none,
    waitCount := none, waitEnd := false, bands := [], recOnce := [], faulted := false, ended := false, endRange := none,
    abandonOn := false, noticed := false, stopped := false, held := none, syncBoard := [], rowsOut := [] }

end Sys2Proof.Machine
end

