-- ==== Sys2Proof/Machine/Image.lean ====
section
/-! DEFINITION. The loader's checks of a step program's images (R233, R237, R238). -/

namespace Sys2Proof.Machine

/-- A finding of the loader at a byte offset. -/
def faultAt (st : Status) (t i off : Nat) (ok : Bool) : Option ImageFault := if ok then none else some ⟨st, t, i, off⟩

/-- The first of some findings. -/
def firstFault (l : List (Option ImageFault)) : Option ImageFault := l.findSome? id

/-- Size, counts, CHECK and reserved bytes of an image (R237): CHECK is taken over the image with its own field zero. -/
def headerFault (t : Nat) (img : List Byte) : Option ImageFault :=
  let n := imgCount img
  let r := imgSets img
  let zeroed := img.take 12 ++ [0, 0, 0, 0] ++ img.drop 16
  firstFault [faultAt .badRange t 0 0 (decide (img.length ≤ 262144) && decide (320 ≤ img.length)),
    faultAt .badRange t 0 4 (decide (1 ≤ n) && decide (n ≤ 12272)), faultAt .badRange t 0 6 (decide (r ≤ 1023)),
    faultAt .badRange t 0 8 (decide (imgBanks img ≤ 8)), faultAt .badRange t 0 0 (img.length == instrOff n + 64 * r),
    faultAt .badField t 0 12 (imgNat img 12 4 == (crc32 zeroed).toNat),
    faultAt .badField t 0 9 (imgNat img 9 3 == 0), faultAt .badField t 0 16 (imgNat img 16 48 == 0),
    firstFault ((List.range 64).map fun b => faultAt .badField t 0 (64 + 4 * b)
      (bitsZero (imgBarrier img b) 10 15 && bitsZero (imgBarrier img b) 26 31))]

/-- Where the last instruction stands and what it must be (R234). -/
def endFault (t i n : Nat) (x : Instr) : Option ImageFault :=
  let isEnd := match x with
    | .syncEnd .. => true
    | _ => false
  faultAt .badField t i (instrOff i) (isEnd == (i + 1 == n))

/-- The range set an instruction carries. -/
def setOf : Instr → RangeSet
  | .moveLoad _ r _ | .moveStore _ r _ | .movePut _ r _ | .moveGet _ r _ | .moveSend _ r _ | .tbuild _ r _ | .tlook _ r _
  | .drain _ r _ _ | .attnQk _ r _ | .attnPv _ r _ | .attnSoftInit _ r _ _ _ | .attnSoftBlock _ r _ _
  | .attnSoftExport _ r _ _ | .vecOp _ r _ | .vecXred _ r _ | .vecRed _ r _ | .vecMerge _ r _ | .vecNorm _ r _
  | .vecRope _ r _ | .vecQuant _ r _ | .vecTopk _ r _ | .vecSample _ r _ | .rngDraw _ r _ | .bandSelect _ r _
  | .bandApply _ r _ | .bandAudit _ r _ | .syncWait _ r _ | .syncBar _ r _ _ | .syncEnd _ r | .winOpen _ _ r | .winClose _ _ r
  | .stageLoad _ _ _ _ r | .stageLoop _ _ _ _ _ r => r
  | _ => ⟨[], none⟩

/-- The block that executes an instruction, as the number of its instructions whose bounds QBOUND adds up: its queue's depth,
and the four transfers of the mover that progress together (Table 9-15, R367). -/
def queueOf : Instr → Option (Blk × Nat)
  | .tbuild .. | .tlook .. | .drain .. => some (.tla, 16)
  | .attnQk .. | .attnPv .. | .attnSoftInit .. | .attnSoftBlock .. | .attnSoftExport .. => some (.ae, 16)
  | .vecOp .. | .vecXred .. | .vecRed .. | .vecMerge .. | .vecNorm .. | .vecRope .. | .vecQuant .. | .vecTopk .. | .vecSample ..
  | .bandSelect .. | .bandApply .. | .bandAudit .. => some (.vec, 16)
  | .rngDraw .. => some (.rng, 8)
  | .moveLoad .. | .moveStore .. | .movePut .. | .moveGet .. | .moveSend .. => some (.mover, 4)
  | _ => none

/-- QBOUND of a tile's instructions at a floor pace: the largest total, over one block, of the Latest bounds of as many of its
longest instructions as its queue holds (R367). -/
def qboundOf (floor : Nat) (is : List Instr) : Nat :=
  ([Blk.tla, .ae, .vec, .rng, .mover].map fun b =>
    let mine := is.filterMap fun i => match queueOf i with
      | some (c, n) => if c = b then some (n, latestOf floor i) else none
      | none => none
    let longest := (mine.map Prod.snd).mergeSort fun x y => decide (y ≤ x)
    (longest.take ((mine.head?.map Prod.fst).getD 0)).sum).foldl max 0

/-- The byte offset of range set `r` of an image. -/
def setOff (img : List Byte) (r : Nat) : Nat := instrOff (imgCount img) + 64 * r

/-- The first byte of a range set, by its number, that a reserved bit or a stray register number makes wrong (Tables 9-3,
9-4). -/
def setBadByte (v : Nat) : Nat :=
  let n := bitsAt v 0 2
  if !bitsZero v 7 7 then 0
  else if !bitAt v 3 && !bitsZero v 4 6 then 0
  else if !bitAt v 3 && !bitsZero v 8 27 then 1
  else if !bitsZero v 28 63 then 3
  else match (List.range 7).find? fun i =>
      if i < n then (rangeWord (bitsAt v (64 + 64 * i) (127 + 64 * i))).isNone else !bitsZero v (64 + 64 * i) (127 + 64 * i) with
    | some i => 8 + 8 * i
    | none => 0

/-- Range set `r` of an image (R219, R238), for instruction `i`. -/
def setFault (t : Nat) (img : List Byte) (i r : Nat) : Option ImageFault :=
  let v := imgNat img (setOff img r) 64
  match rangeSetOf v with
  | none => some ⟨.badField, t, i, setOff img r + setBadByte v⟩
  | some rs => (rangesBad ((16 - imgBanks img) * 4096) rs).map fun e => ⟨e.1, t, i, setOff img r + e.2⟩

/-- Instruction `i` of an image (R238): its range-set index, its reserved bits and codes, its constants, its range set, its
place; the offset is that of the field at fault (R5, R104). -/
def instrFault (t : Fin 1024) (img : List Byte) (i : Nat) : Option ImageFault :=
  let off := instrOff i
  let w := imgWord img i
  let r := bitsAt w 8 17
  let top := (16 - imgBanks img) * 4096
  let at' (e : Status × Nat) : ImageFault := ⟨e.1, t.val, i, off + e.2 / 8⟩
  if r ≠ 0x3FF ∧ imgSets img ≤ r then some ⟨.badRange, t.val, i, off + 1⟩
  else match tileWord t RangeSet.none w with
    | none => some ⟨.badField, t.val, i, off + badBit w / 8⟩
    | some x =>
      firstFault [(wordBadAt x).map at', (limitBad top x).map at',
        if r = 0x3FF then none else setFault t.val img i r, endFault t.val i (imgCount img) x]

/-- The range sets of an image that no instruction names, checked like the others (R219, R238); the record's instruction is
then NINSTR (notes/assumptions/35.md). -/
def setsFault (img : List Byte) (t : Nat) : Option ImageFault :=
  firstFault (((List.range (imgSets img)).filter fun r =>
    !(List.range (imgCount img)).any fun i => bitsAt (imgWord img i) 8 17 == r).map fun r => setFault t img (imgCount img) r)

/-- The LOOPs of an image, as (TARGET, own index). -/
def loopsOf (t : Fin 1024) (img : List Byte) : List (Nat × Nat) :=
  (List.range (imgCount img)).filterMap fun i => match imgInstr t img i with
    | some (.stageLoop _ g ..) => some (g, i)
    | _ => none

/-- A LOOP whose TARGET is above its index, or whose body overlaps an earlier one's without nesting (R238). -/
def loopFault (t : Fin 1024) (img : List Byte) : Option ImageFault :=
  let ls := loopsOf t img
  firstFault (ls.map fun l => faultAt .badRange t.val l.2 (instrOff l.2)
    (decide (l.1 ≤ l.2) && ls.all fun k => !(decide (k.2 < l.2) && decide (k.1 < l.1) && decide (l.1 ≤ k.2))))

/-- Every check of one tile's image. -/
def tileFault (img : List Byte) (t : Nat) : Option ImageFault :=
  firstFault [headerFault t img, firstFault ((List.range (imgCount img)).map (instrFault (Fin.ofNat 1024 t) img)),
    setsFault img t, loopFault (Fin.ofNat 1024 t) img]

/-- Whether a tile's image takes part in barrier `b`: it has an entry, or a SYNC.BAR that names it. -/
def barUser (t : Nat) (img : List Byte) (b : Nat) : Bool :=
  imgBarrier img b != 0 || (List.range (imgCount img)).any fun i => match imgInstr (Fin.ofNat 1024 t) img i with
    | some (.syncBar _ _ _ c) => c.val == b
    | _ => false

/-- The tiles whose images take part in barrier `b`, with their entries for it. -/
def barUsers (pr : ProgramImage) (b : Nat) : List (Nat × Nat) :=
  pr.images.flatMap fun g => (g.tiles.filter fun t => barUser t g.bytes b).map fun t => (t, imgBarrier g.bytes b)

/-- A barrier whose entries disagree across the images (R233). -/
def barrierFault (pr : ProgramImage) : Option ImageFault :=
  firstFault ((List.range 64).map fun b => match barUsers pr b with
    | [] => none
    | (_, v) :: r => firstFault (r.map fun e => faultAt .badField e.1 0 (64 + 4 * b) (e.2 == v)))

/-- The first reason to refuse a step program for a partition's tiles: an image for each, every check of each, one VERSION,
barriers that agree (R237, R238). -/
def programFault (pr : ProgramImage) (tiles : List Nat) : Option ImageFault :=
  firstFault (tiles.map (fun t => faultAt .badRange t 0 0 (imageFor pr t).isSome) ++
    pr.images.flatMap (fun g => g.tiles.map (tileFault g.bytes)) ++
    pr.images.map (fun g => faultAt .badField (g.tiles.headD 0) 0 0 (imgVersion g.bytes == progVersion pr)) ++ [barrierFault pr])

end Sys2Proof.Machine
end

