-- ==== Sys2Proof/Machine/MemState.lean ====
section
/-! DEFINITION. State of module memory and of the expanders (chapters 10 and 11). -/

namespace Sys2Proof.Machine

/-- A region (Tables 10-1, 10-9); OWNER 0-7 P0-P7, 8 SHARED, 9 MODULE; sizes in GiB, `withdrawn` in 2 MiB units. -/
structure Region where
  valid  : Bool
  cls    : MemClass
  spread : Bool
  die    : Nat
  owner  : Nat
  base   : Nat
  size   : Nat
  pool   : Nat
  withdrawn : Nat
  deriving DecidableEq, Repr

/-- A region at reset. -/
def Region.init : Region := ⟨false, .w, false, 0, 0, 0, 0, 0, 0⟩

/-- Migration states of a bucket (R266). -/
inductive BucketSt where
  | old | copying | new
  deriving DecidableEq, Repr

/-- One bucket on its way to another channel (R263, R266). -/
structure BucketMove where
  spread : Bool
  bucket : Nat
  dst    : Nat
  st     : BucketSt
  deriving DecidableEq, Repr

/-- A migration (R266, R268): source channel (die × 32 + channel), buckets left, poisoned count, running or waiting. -/
structure Migration where
  src      : Nat
  moves    : List BucketMove
  copied   : Nat
  poisoned : Nat
  running  : Bool
  deriving DecidableEq, Repr

/-- Module memory (R245-R268) and the MEM counters. Channels are numbered die × 32 + channel. `poison` holds the poisoned
blocks, `badLine` the line of each whose channel's table holds it, `surplus` those held by the control cores (R260), `fresh`
the lines of poisoned blocks rewritten since (R259); `ceLines` the lines written back after a correction and not read since
(R255); `aRepeat` the class A failures whose step is to run again, as (partition, step, channel) (R256); `silent` the channels that return no data (R267); `gone` the mirror copies withdrawn, as runs of blocks (R264);
`cursor` each channel's next line to scrub, `passDone` the channels that have had all their lines in the pass and
`passMoved` the buckets migrated during it, as (spread, die, bucket) (R261);
`fwRead` what firmware's last access returned (R258). -/
structure Mem where
  bytes    : Memory
  lens     : Tab Nat
  regions  : Tab Region
  lmap     : Tab (Option Nat)
  smap     : Tab (Option Nat)
  migs     : List Migration
  poison   : List Nat
  badLine  : Tab Nat
  surplus  : List Nat
  fresh    : List Nat
  silent   : List Nat
  gone     : List (Nat × Nat)
  aFailed  : List Nat
  ceLines  : List Nat
  aRepeat  : List (Nat × Nat × Nat)
  ceHour   : List (Nat × Nat)
  ce       : Nat
  ue       : Nat
  aCrc     : Nat
  passes   : Nat
  lastPass : Nat
  passFrom : Nat
  passDone : List Nat
  passMoved : List (Bool × Nat × Nat)
  cursor   : Tab Nat
  fwRead   : Option Status
  deriving DecidableEq, Repr

/-- Memory at reset: nothing listed, no region. -/
def Mem.init : Mem :=
  { bytes := [], lens := [], regions := [], lmap := [], smap := [], migs := [], poison := [], badLine := [],
    surplus := [], fresh := [], silent := [], gone := [],
    aFailed := [], ceLines := [], aRepeat := [], ceHour := [], ce := 0, ue := 0, aCrc := 0, passes := 0,
    lastPass := 0, passFrom := 0, passDone := [], passMoved := [], cursor := [], fwRead := none }

/-- One block of a feed entry: its number and how many of its decoded bytes the entry passes on. -/
structure FeedItem where
  blk  : Nat
  take : Nat
  deriving DecidableEq, Repr

/-- What a lane forwarded: the number of the entry in its list, the entry and the expander whose list it is of, the block's
share, and the bytes of the entry forwarded before it. -/
structure Sent where
  idx  : Nat
  ent  : FeedEntry
  home : Nat
  item : FeedItem
  off  : Nat
  deriving DecidableEq, Repr

/-- An expander lane (R272-R286): entries left (current first), blocks of the current entry whose length byte is
awaited, blocks whose stored bytes are awaited with their length bytes, decoded places; a decoded byte carries the number of its
block (R57). `home` names, for each entry left, the expander whose list it is of: another's after a fence (R467). A GATHER holds
in `gather` the bytes at hand of each band record it decodes in lockstep, from output row `row` of k-chunk `chunk` on, of `nrec`
records in all (R285). `idx` counts the entries delivered, `done` the bytes of the current one forwarded; `sent` is what was
forwarded last, as far as a recipient's FIFO can still hold it, and `skip` how many bytes each recipient, a tile of the die,
discards of what comes (R366). -/
structure Lane where
  list    : List FeedEntry
  home    : List Nat
  todo    : List FeedItem
  opened  : Bool
  reads   : List (FeedItem × Nat)
  gather  : List (List (Nat × Byte))
  chunk   : Nat
  row     : Nat
  nrec    : Nat
  places  : List (List (Nat × Byte))
  idx     : Nat
  done    : Nat
  sent    : List Sent
  skip    : List (Nat × Nat)
  deriving DecidableEq, Repr

/-- An idle lane. -/
def Lane.init : Lane := ⟨[], [], [], false, [], [], 0, 0, 0, [], 0, 0, [], []⟩

/-- Band lists received by an expander (R284, R285): the bands BANDS entries emit, the list GATHER entries use once it
is known, and whether REDO entries emit. -/
structure BandList where
  die    : Nat
  exp    : Nat
  layer  : Nat
  group  : Nat
  set    : Nat
  list   : List Nat
  gatherList : Option (List Nat)
  redo   : Bool
  deriving DecidableEq, Repr

/-- The expanders: lanes by ((die × 4 + expander) × 32 + lane), and received lists. -/
structure Exps where
  lanes  : Tab Lane
  lists  : List BandList
  deriving DecidableEq, Repr

/-- The expanders at reset. -/
def Exps.init : Exps := ⟨[], []⟩

end Sys2Proof.Machine
end

