-- ==== Sys2Proof/Machine/PortState.lean ====
section
/-! DEFINITION. State of the host interface, of Mirist and of the fault machinery (chapters 16, 18, 19). -/

namespace Sys2Proof.Machine

/-! ### Host interface -/

/-- Ring states, Table 16-7. -/
inductive RingSt where
  | detached | active | paused | haltedViolation | haltedDma
  deriving DecidableEq, Repr

/-- The code of a ring state. -/
def RingSt.code : RingSt → Nat
  | .detached => 0 | .active => 1 | .paused => 2 | .haltedViolation => 3 | .haltedDma => 4

/-- A ring (R391-R398, Table 16-14): `kept3`/`kept4` are entries written and not acknowledged (R419). -/
structure Ring where
  db      : Nat
  st      : RingSt
  pidx    : Nat
  cidx    : Nat
  log2    : Nat
  owner   : Nat
  base    : Nat
  wb      : Nat
  modCount : Nat
  modTime : Nat
  unsig   : Nat
  unsigFrom : Nat
  kept3   : List Cpl
  kept4   : List OutRec
  latched : Option Nat
  deriving DecidableEq, Repr

/-- A ring at reset. -/
def Ring.init : Ring := ⟨0, .detached, 0, 0, 0, 0, 0, 0, 0, 0, 0, 0, [], [], none⟩

/-- A command taken from a ring or a mailbox whose execution is waited for (R416). -/
structure Taken where
  fn    : Nat
  part  : Nat
  ring  : Nat
  ridx  : Nat
  tag   : Nat
  cmd   : Nat
  jseq  : Nat
  time  : Nat
  deriving DecidableEq, Repr

/-- A function's host-facing state: mailbox (Table 16-9), violations (R403), MSI-X (R398), bus mastering; `msix`
keeps the 32-bit words of the MSI-X table but for the mask bits, by vector × 4 + word, and `mbxWord` the 64 B of MBX_CMD,
byte 0 lowest. -/
structure Fn where
  mbxBusy : Bool
  mbxDone : Bool
  mbxSeq  : Nat
  mbxWord : Nat
  mbxResp : Option Cpl
  viol    : Nat
  pauses  : Nat
  paused  : Bool
  pauseEnd : Nat
  suppressed : Nat
  recent  : List Nat
  cplDrop : Nat
  bme     : Bool
  masked  : List Nat
  pba     : List Nat
  msix    : Tab Nat
  bar4Size : Nat
  deriving DecidableEq, Repr

/-- A function at reset: mailbox idle, every vector masked (PCIe), bus mastering clear. -/
def Fn.init : Fn :=
  { mbxBusy := false, mbxDone := false, mbxSeq := 0, mbxWord := 0, mbxResp := none, viol := 0,
    pauses := 0, paused := false, pauseEnd := 0, suppressed := 0, recent := [], cplDrop := 0, bme := false,
    masked := [0, 1, 2, 3, 4, 5, 6, 7], pba := [], msix := [], bar4Size := 1 }

/-- The header of the descriptor in MBX_CMD (Table 17-1). -/
def mbxFetched (x : Fn) : Fetched :=
  ⟨x.mbxWord % 2 ^ 16, x.mbxWord / 2 ^ 32 % 2 ^ 64, x.mbxWord / 2 ^ 96 % 2 ^ 32, x.mbxWord / 2 ^ 19 % 32⟩

/-- A VF binding (Table 16-19). -/
structure VfBind where
  part   : Nat
  module : Nat
  remote : Bool
  deriving DecidableEq, Repr

/-- The host interface: link (Table 16-15), functions, rings (partition × 8 + ring), commands taken. -/
structure Hif where
  speed    : Nat
  width    : Nat
  flit     : Bool
  belowMin : Bool
  minMode  : Nat
  bar4Base : Nat
  relayMod : Nat
  front    : Bool
  numVfs   : Nat
  binds    : Tab VfBind
  relayTab : List (Nat × Nat × Nat)
  fns      : Tab Fn
  rings    : Tab Ring
  taken    : List Taken
  hostUp   : Bool
  deriving DecidableEq, Repr

/-- The host interface at reset. -/
def Hif.init : Hif :=
  { speed := 0, width := 0, flit := false, belowMin := false, minMode := 0, bar4Base := 0, relayMod := 0,
    front := false, numVfs := 0, binds := [], relayTab := [], fns := [], rings := [], taken := [], hostUp := false }

/-! ### Unit states, tests, repairs -/

/-- Unit states, Table 19-3 (R456). -/
inductive USt where
  | inService | suspect | testing | fenced
  deriving DecidableEq, Repr

/-- The code of a unit state. -/
def USt.code : USt → Nat
  | .inService => 0 | .suspect => 1 | .testing => 2 | .fenced => 3

/-- A unit away from its reset condition: state, event times in the window, suspicion and last pass times. -/
structure UnitRec where
  unit   : UnitId
  st     : USt
  events : List Nat
  since  : Nat
  passed : Option Nat
  deriving DecidableEq, Repr

/-- A repair in progress (R470): block, class W, next source 0 mirror, 1 peer, 2 host; the stored form (length byte, bytes)
that a peer's packets have brought. -/
structure Repair where
  block  : Nat
  source : Nat
  asked  : Nat
  copy   : Option (Nat × List Byte)
  deriving DecidableEq, Repr

/-- The RAS block (Tables 19-9 to 19-15) and what the rules of chapter 19 remember; `unfSel` is the unit last written to
RAS_UNFENCE, `overdue` the tiles whose session is more than 1 h late. -/
structure Ras where
  units    : List UnitRec
  alert    : Bool
  events   : Nat
  alertSev : Nat
  windows  : Tab (Nat × Nat)
  nextTile : Nat
  overdue  : List Nat
  sessions : Nat
  test     : Option UnitId
  scheduled : List Nat
  repairs  : List Repair
  rebal    : List UnitId
  listDirty : Bool
  faultRep : List (Nat × Nat × Nat)
  coreOf   : Tab (Option Nat)
  unfSel   : UnitId
  deriving DecidableEq, Repr

/-- RAS at reset. -/
def Ras.init : Ras :=
  { units := [], alert := false, events := 0, alertSev := 2, windows := [], nextTile := 0, overdue := [],
    sessions := 0, test := none, scheduled := [], repairs := [], rebal := [], listDirty := false, faultRep := [], coreOf := [], unfSel := ⟨.tile, 0, 0⟩ }

end Sys2Proof.Machine
end

