-- ==== Sys2Proof/Machine/ServeState.lean ====
section
/-! DEFINITION. State of bundles, programs, adapters, slots, pages, steps and partitions (chapters 12 to 15). -/

namespace Sys2Proof.Machine

/-! ### Bundles, programs, adapters -/

/-- One CMP_BUNDLE entry (Table 12-6) with the bundle it stands for and what service needs of it. -/
structure BundleEnt where
  valid    : Bool
  loading  : Bool
  current  : Bool
  mirrored : Bool
  poisoned : Bool
  part     : Nat
  ctx      : Nat
  addr     : Nat
  digest   : Nat
  img      : Bundle
  deriving DecidableEq, Repr

/-- One resident step-program version (R237-R239, R296). `bankOf` is its bank; `bound` is the table in force (R372),
`homes` the tiles that units moved to, as (die, WUNIT, tile index) (R466). -/
structure Prog where
  part     : Nat
  ctx      : Nat
  bundle   : Nat
  bver     : Nat
  version  : Nat
  bank     : Nat
  current  : Bool
  loading  : Bool
  faulty   : Bool
  cannotRun : Bool
  img      : ProgramImage
  homes    : List (Nat × Nat × Nat)
  deriving DecidableEq, Repr

/-- One resident adapter version (R301) and where its record lies. -/
structure Adapter where
  part     : Nat
  ctx      : Nat
  bundle   : Nat
  id       : Nat
  version  : Nat
  bytes    : Nat
  addr     : Nat
  current  : Bool
  loading  : Bool
  poisoned : Bool
  deriving DecidableEq, Repr

/-- A code-table slot of a die (R279, R280, Table 11-6): KIND, generation and LEN table. -/
structure CodeSlot where
  loaded : Bool
  trit   : Bool
  gen    : Nat
  lens   : List Nat
  deriving DecidableEq, Repr

/-- A code-table slot at reset. -/
def CodeSlot.init : CodeSlot := ⟨false, false, 0, []⟩

/-- The load running in a partition (R293): the command that asked and what it installs. -/
structure Load where
  src     : Src
  cmd     : Nat
  bundle  : Nat
  version : Nat
  pver    : Nat
  adapter : Option Nat
  deriving DecidableEq, Repr

/-- The CMP block: bundles, programs, adapters, code slots, loads by partition. -/
structure Cmp where
  bundles  : Tab (Option BundleEnt)
  progs    : List Prog
  adapters : List Adapter
  slots    : Tab CodeSlot
  loads    : Tab (Option Load)
  deriving DecidableEq, Repr

/-- The CMP block at reset. -/
def Cmp.init : Cmp := ⟨[], [], [], [], []⟩

/-! ### Slots -/

/-- Slot states, Table 13-1 (R308). -/
inductive SlotSt where
  | free | admitting | prefill | decode | preempted | handoff | closing
  deriving DecidableEq, Repr

/-- The code of a slot state. -/
def SlotSt.code : SlotSt → Nat
  | .free => 0 | .admitting => 1 | .prefill => 2 | .decode => 3 | .preempted => 4 | .handoff => 5 | .closing => 6

/-- A pending candidate tree and the command that carried it, `none` when its SUBMIT did (R320). -/
structure PTree where
  tree : Tree
  cmd  : Option Src
  deriving DecidableEq, Repr

/-- A request tracker (R307-R316, R349-R355, R370); `matched` and `skipped` are the prefix-tree blocks its first chunk's
step record counts (R318, R334, R345). `cancel` holds the CANCEL that waits for the slot's step, none for CANCEL with
ALL. While a handoff arrives, `target` is its source module and flow. `moves` are the (from, to) key positions whose entries the
next step that reads the sequence compacts (R347). -/
structure Slot where
  st       : SlotSt
  back     : SlotSt
  part     : Nat
  ctx      : Nat
  lc       : Bool
  lost     : Bool
  admits   : Nat
  tag      : Nat
  origin   : Nat
  ring     : Nat
  ridx     : Nat
  bundle   : Nat
  bver     : Nat
  pver     : Nat
  adapter  : Option (Nat × Nat)
  seeded   : Bool
  noPrefix : Bool
  seed     : Nat
  substream : Nat
  temp     : Word
  topP     : Word
  topK     : Nat
  spec     : Nat
  stops    : List Nat
  maxNew   : Nat
  tokens   : List Nat
  nprompt  : Nat
  filled   : Nat
  delivered : Nat
  ttft     : Nat
  itl      : Nat
  accTime  : Nat
  admTime  : Nat
  lastWrite : Nat
  matched  : Nat
  skipped  : Nat
  lastCol  : Nat
  tree     : Option PTree
  sets     : List (List Nat)
  reserved : Nat
  hold     : List OutRec
  heldAdm  : Option Cpl
  heldFin  : Option Cpl
  heldNote : Option Cpl
  recompute : Bool
  preAt    : Nat
  doomed   : Bool
  swapped  : List Nat
  toRestore : List Nat
  cancel   : Option (Option Src)
  stop     : Nat
  endSt    : Status
  finDone  : Bool
  excused  : Bool
  target   : Option (Nat × Nat)
  tried    : List (Nat × Nat)
  retryAt  : Option Nat
  events   : List Nat
  note     : Option Nat
  key      : List Word
  moves    : List (Nat × Nat)
  deriving DecidableEq, Repr

/-- A FREE slot. -/
def Slot.init : Slot :=
  ⟨.free, .free, 0, 0, false, false, 0, 0, 0, 0, 0, 0, 0, 0, none, false, false, 0, 0, 0, 0, 0, 0, [], 0, [], 0, 0, 0,
   0, 0, 0, 0, 0, 0, 0, 0, none, [], 0, [], none, none, none, false, 0, false, [], [], none, 0, .ok, false, false,
   none, [], none, [], none, [], []⟩

/-! ### Pages -/

/-- Page states, Table 14-2. -/
inductive PageSt where
  | free | open_ | sealing | sealed
  deriving DecidableEq, Repr

/-- A page descriptor (Table 14-2); `raw` is a page another module sent decoded, which holds no code table (R333). -/
structure Page where
  st       : PageSt
  ntok     : Nat
  refs     : Nat
  code     : Nat
  poisoned : Bool
  tree     : Bool
  cand     : Bool
  layer    : Nat
  kvHead   : Nat
  writer   : Option Nat
  sealAfter : Bool
  raw      : Bool
  deriving DecidableEq, Repr

/-- A FREE page. -/
def Page.init : Page := ⟨.free, 0, 0, 0, false, false, false, 0, 0, none, false, false⟩

/-- A prefix-tree node (R317): chain hash, tokens, page set, parent's hash, time of its last match, remote set. -/
structure PNode where
  hash    : Nat
  tokens  : List Nat
  pages   : List Nat
  parent  : Option Nat
  ctx     : Nat
  matched : Nat
  remote  : Option (Nat × Nat)
  deriving DecidableEq, Repr

/-- A swap record in the host's swap area (R352): the slot, the place of its page (set index, place in the set), the
descriptor, the record's size, and the die whose expanders sealed it (R280); its bytes lie with the host. -/
structure SwapRec where
  slot : Nat
  idx  : Nat
  place : Nat
  page : Page
  bytes : Nat
  die  : Nat
  deriving DecidableEq, Repr

/-! ### Steps -/

/-- Column kinds (R311, R316, R321): 0 decode, 1 prefill, 2 candidate, 3 padding. -/
inductive ColKind where
  | decode | prefill | cand | pad
  deriving DecidableEq, Repr

/-- One column of a step. -/
structure Column where
  kind   : ColKind
  slot   : Nat
  pos    : Nat
  keyPos : Nat
  token  : Nat
  emit   : Bool
  node   : Option Nat
  deriving DecidableEq, Repr

/-- An emission record (Table 13-2). -/
structure Emission where
  col       : Nat
  token     : Nat
  accNode   : Option Nat
  nonfinite : Bool
  deriving DecidableEq, Repr

/-- Why a step is abandoned (R24, R106, R235, R236): the status its requests end with when it is not re-run, the first and
the latest event code, whether it re-runs once, what a recurrence on the re-run ends them with, whether its successor is a new
step, the columns whose requests end where not all do (R256), whether its requests are told of it (the report of R24), and whether it
runs again even where it is a re-run already (R367). -/
structure Abandon where
  status : Status
  event  : Nat
  rerun  : Bool
  again  : Option Status
  replaced : Bool
  latest : Nat
  only   : Option (List Nat)
  tell   : Bool
  always : Bool
  deriving DecidableEq, Repr

/-- A composed or executing step (R21, R311, R335); `trees` are the candidate trees its slots verify (R321), `reports` the
ABANDONED reports of its tiles, each with the index of the last instruction issued (R235), `block` the line its parameter
block begins at, `facts` what its sections list (R240, R302, R321, R347). -/
structure Step where
  num     : Nat
  ctx     : Nat
  version : Nat
  bundle  : Nat
  cols    : List Column
  rerun   : Bool
  tStart  : Nat
  suspended : Bool
  event   : Nat
  cnt     : Counters
  emissions : List Emission
  ended   : List Nat
  why     : Option Abandon
  taint   : Option Nat
  sLim    : Option Nat
  trees   : List (Nat × Tree)
  reports : List (Nat × Nat)
  block   : Nat
  facts   : List Nat
  deriving DecidableEq, Repr

/-! ### Contexts and partitions -/

/-- Context states, Table 15-5. -/
inductive CtxSt where
  | empty | ready | running | saving | restoring | saved
  deriving DecidableEq, Repr

/-- The code of a context state. -/
def CtxSt.code : CtxSt → Nat
  | .empty => 0 | .ready => 1 | .running => 2 | .saving => 3 | .restoring => 4 | .saved => 5

/-- One context of a partition (Table 15-5); `held` is the step saved with it, `image` its tiles as the context save
area holds them (R242), `lanes` and `lists` its lanes' restart points (R366). -/
structure Ctx where
  slice    : Nat
  st       : CtxSt
  switches : Nat
  held     : Option Step
  betweenSteps : Bool
  image    : List (Nat × Tile)
  lanes    : List (Nat × Lane)
  lists    : List BandList
  deriving DecidableEq, Repr

/-- A context at reset. -/
def Ctx.init : Ctx := ⟨10, .empty, 0, none, false, [], [], []⟩

/-- Stages of a context switch (R366). -/
inductive SwitchSt where
  | idle | quiesce | save | restore
  deriving DecidableEq, Repr

/-- A staged STEP value waiting for its boundary (R23, R485). -/
structure Staged where
  reg    : Nat
  field  : Nat
  value  : Nat
  entry  : LedgerEntry
  deriving DecidableEq, Repr

/-- A declared event waiting for its re-admission (R378-R381). -/
structure Declared where
  first  : Nat
  latest : Nat
  deriving DecidableEq, Repr

/-- A partition (chapters 13 to 15). Page keys are region number × 2³² + page number; `rhold` are token records of a
relayed ring set that came while its ring had no room (R400); `barPoint` how many instructions its tiles had issued when a barrier
of all of them was last released with a switch due (R365); `deferAt` is the number of the step that KV_DEFER was last written for
(R358). -/
structure Part where
  dies     : Nat
  valid    : Bool
  nctx     : Nat
  running  : Nat
  ctxs     : Tab Ctx
  quota    : Nat
  role     : Role
  soInst   : Nat
  treeNodes : Nat
  colBudget : Nat
  poolPage : Nat
  poolMeta : Nat
  secret   : List Word
  stepNext : Nat
  stepRecs : List StepRec
  stepHead : Nat
  stepLast : Nat
  dlq      : List OutRec
  dlqBase  : Nat
  dlqLost  : Nat
  dlqFull  : Bool
  sLim     : Option Nat
  suspended : Bool
  f2       : Bool
  event    : Nat
  refused  : Nat
  beTrim   : Nat
  missed   : Nat
  preemptions : Nat
  swapArea : Option (Nat × Nat)
  swapUsed : Nat
  swaps    : List SwapRec
  pages    : Tab Page
  nodes    : List PNode
  exec     : Option Step
  composed : Option Step
  rerunStep : Option Step
  switchSt : SwitchSt
  switchDue : Bool
  incoming : Nat
  staged   : List Staged
  declared : Option Declared
  stopWhy  : List Nat
  lastVer  : Nat
  gap      : Option Nat
  gapTook  : Bool
  targets  : List (Nat × Nat)
  hold     : List Cpl
  rhold    : List OutRec
  outFull  : Bool
  barPoint : Option Nat
  paceLow  : Bool
  deferAt  : Nat
  deriving DecidableEq, Repr

/-- A partition at reset (Tables 13-6, 14-6, 15-3, 15-4). -/
def Part.init : Part :=
  { dies := 0, valid := false, nctx := 0, running := 0, ctxs := [], quota := 0, role := .mixed, soInst := 0,
    treeNodes := 0, colBudget := 0x40, poolPage := 0, poolMeta := 0, secret := [], stepNext := 1, stepRecs := [],
    stepHead := 0, stepLast := 0, dlq := [], dlqBase := 0, dlqLost := 0, dlqFull := false, sLim := none, suspended := false,
    f2 := false, event := 0, refused := 0, beTrim := 0, missed := 0, preemptions := 0, swapArea := none,
    swapUsed := 0, swaps := [], pages := [], nodes := [], exec := none, composed := none, rerunStep := none,
    switchSt := .idle, switchDue := false, incoming := 0, staged := [], declared := none, stopWhy := [],
    lastVer := 0, gap := none, gapTook := false, targets := [], hold := [], rhold := [], outFull := false, barPoint := none, paceLow := false, deferAt := 0 }

end Sys2Proof.Machine
end

