-- ==== Sys2Proof/Machine/SysState.lean ====
section
/-! DEFINITION. State of the timebase, power, Mirist, boot, security and sideband blocks (chapters 2, 18, 20 to 23). -/

namespace Sys2Proof.Machine

/-- The timebase (R45-R48, Tables 2-10, 2-11). `frac` is the fraction of a ns in 10⁻⁹, `followers` the count each die's
follower took last from XD0. -/
structure Tmb where
  now     : Nat
  frac    : Nat
  ratePpb : Int
  source  : Nat
  locked  : Bool
  offset  : Int
  followers : Tab Nat
  halfLatch : List (Origin × Nat)
  deriving DecidableEq, Repr

/-- The timebase at reset. -/
def Tmb.init : Tmb := ⟨0, 0, 0, 0, false, 0, [], []⟩

/-- A die's power state (Tables 2-9, 22-10, R36, R510-R512); voltages in mV, paces in Mturn/s, temperatures in
0.25 °C. `vBase` is the v_limit of R511 and `drop` what R512 takes from it; `keepTarget` and `keepBase` are the power
manager's values while the throttle envelope is in force (Table 2-4). -/
structure DiePwr where
  powered  : Bool
  paceMin  : Nat
  paceMean : Nat
  vcore    : Nat
  vset     : Nat
  target   : Nat
  vBase    : Nat
  drop     : Nat
  tMax     : Int
  tMean    : Int
  hotTile  : Nat
  grantW   : Nat
  powerW   : Nat
  thermHigh : Bool
  goodRun  : Nat
  keepTarget : Nat
  keepBase : Nat
  deriving DecidableEq, Repr

/-- A die that is off. -/
def DiePwr.init : DiePwr := ⟨false, 0, 0, 0, 0, 0, 0, 0, 0, 0, 0, 0, 0, false, 0, 0, 0⟩

/-- A tile's or an XD core's sensing stages: their counts of the last window, its pace, the run of windows without a turn,
whether the delay lines are at Reduced; its junction sensor's own reading in 0.25 °C, since when it differs from its
neighbours', whether it has failed (R31-R33, R42, R508, R509). Tile t is number t, core c of XD x 1024 + 8x + c. -/
structure TileSense where
  stages  : Stages
  pace    : Nat
  zeroRun : Nat
  reset   : Bool
  sensorBad : Bool
  reduced : Bool
  temp    : Int
  offFrom : Option Nat
  deriving DecidableEq, Repr

/-- Sensing stages at reset. -/
def TileSense.init : TileSense := ⟨⟨0, 0, 0, 0⟩, 0, 0, false, false, false, 0, none⟩

/-- Sleep states, Table 22-8. -/
inductive SleepSt where
  | awake | entering | asleep | waking
  deriving DecidableEq, Repr

/-- The PWR block. `bindFrom` is when a throttle's values took force, none without one (R514); `parked` are QUIESCE
writes that wait for the wake, as offset, width, value and mask (R551). -/
structure Pwr where
  envelope   : Envelope
  throttleEnv : Envelope
  lowWindows : Nat
  stalls     : Nat
  dies       : Tab DiePwr
  sense      : Tab TileSense
  vin        : Nat
  iin        : Nat
  p1         : Nat
  p10        : Nat
  supply     : Nat
  overBudget : Nat
  overRun    : Bool
  thermEvents : Nat
  bindFrom   : Option Nat
  sleep      : SleepSt
  sleepStatus : Status
  wakePend   : Option WakeSource
  selfWake   : Bool
  parked     : List (Nat × Nat × Nat × Nat)
  deriving DecidableEq, Repr

/-- The PWR block at reset. -/
def Pwr.init : Pwr :=
  { envelope := .air, throttleEnv := .air, lowWindows := 0, stalls := 0, dies := [], sense := [],
    vin := 0, iin := 0, p1 := 0, p10 := 0, supply := 0, overBudget := 0, overRun := false, thermEvents := 0,
    bindFrom := none, sleep := .awake, sleepStatus := .ok, wakePend := none, selfWake := false, parked := [] }

/-! ### Mirist (chapter 18) -/

/-- Port states, Table 18-9. -/
inductive PortSt where
  | down | training | up | sleep | miswire | fenced | fencedByPeer
  deriving DecidableEq, Repr

/-- The code of a port state. -/
def PortSt.code : PortSt → Nat
  | .down => 0 | .training => 1 | .up => 2 | .sleep => 3 | .miswire => 4 | .fenced => 5 | .fencedByPeer => 6

/-- One virtual channel of a port (R430): credits held for sending, packets sent, flits of the packet being received, and the
flits that each class of the receive buffer holds. -/
structure PortVc where
  credL : Nat
  credH : Nat
  pkts  : Nat
  run   : Nat
  heldL : Nat
  heldH : Nat
  deriving DecidableEq, Repr

/-- A virtual channel at reset. -/
def PortVc.init : PortVc := ⟨0, 0, 0, 0, 0, 0⟩

/-- A Mirist port (R425 to R431, Tables 18-9 to 18-12). `retry` holds the SEQs sent and not acknowledged, `burst` the
times of recent replays, `laneCe` the corrected symbols of the millisecond from `ceFrom`, `wakeSent` whether a WAKE message
went out on it since the peer sleeps. -/
structure LnkPort where
  st       : PortSt
  width    : Nat
  lanesOk  : Nat
  peerMod  : Nat
  peerPort : Nat
  stopRx   : Bool
  stopTx   : Bool
  ceSymbols : Nat
  retries  : Nat
  llResets : Nat
  downs    : Nat
  pktCrc   : Nat
  quenchDrop : Nat
  vcs      : Tab PortVc
  txSeq    : Nat
  retry    : List Nat
  rxSeq    : Nat
  lastReset : Option Nat
  burst    : List Nat
  laneCe   : Tab Nat
  ceFrom   : Nat
  wakeSent : Bool
  deriving DecidableEq, Repr

/-- A port at reset. -/
def LnkPort.init : LnkPort :=
  { st := .down, width := 0, lanesOk := 0, peerMod := 0, peerPort := 0, stopRx := false, stopTx := false,
    ceSymbols := 0, retries := 0, llResets := 0, downs := 0, pktCrc := 0, quenchDrop := 0, vcs := [], txSeq := 0,
    retry := [], rxSeq := 0, lastReset := none, burst := [], laneCe := [], ceFrom := 0, wakeSent := false }

/-- A route (Table 18-14). -/
structure Route where
  primary   : Nat
  alt       : Nat
  via       : Nat
  reachable : Bool
  onAlt     : Bool
  deriving DecidableEq, Repr

/-- A route at reset. -/
def Route.init : Route := ⟨0, 0, 0, false, false⟩

/-- The operation a flow carries (R437); a spill begins with an offer and its `data` follow (R356). -/
inductive FlowOp where
  | send (tile tag : Nat)
  | handoff (slot : Nat)
  | page (part hash : Nat)
  | serve (part hash : Nat)
  | spill (part hash : Nat) (data : Bool)
  | weight (block : Nat)
  | relay
  | reply
  deriving DecidableEq, Repr

/-- A packet a source keeps until it is acknowledged (R435): `at` is its last transmission, none while it waits. -/
structure TxPkt where
  pseq  : Nat
  flits : Nat
  sentAt : Option Nat
  tries : Nat
  port  : Nat
  deriving DecidableEq, Repr

/-- A flow at its source (R435). -/
structure TxFlow where
  flow : Nat
  dst  : Nat
  vc   : Nat
  kind : Nat
  op   : FlowOp
  pkts : List TxPkt
  deriving DecidableEq, Repr

/-- What a packet brings beside its header, by kind (Table 18-5); a WEIGHT request names the bundle version and its digest
(R470). -/
inductive PktBody where
  | send (vec : Bool)
  | expert (route : Bool)
  | handoff (part : Nat) (tr : Tracker)
  | page (part hash : Nat) (msg : PageMsg)
  | weight (ask : Option (Nat × Nat × Nat)) (block : Nat)
  | relay (b : RelayBody)
  deriving DecidableEq, Repr

/-- A flow at its destination (R435): next PSEQ, deliveries not acknowledged and the oldest's time, packets ahead. -/
structure RxFlow where
  smod  : Nat
  flow  : Nat
  next  : Nat
  unacked : Nat
  since : Nat
  ahead : List (Packet × PktBody)
  quenched : Bool
  keys : List Nat
  deriving DecidableEq, Repr

/-- A relayed read waiting for its answer (R401). -/
structure RelayRead where
  who    : Origin
  module : Nat
  off    : Nat
  width  : Nat
  since  : Nat
  deriving DecidableEq, Repr

/-- A packet of another module on its way through this one (R439): header fields, its kind, flits, and the channel it
takes. -/
structure Transit where
  hdr   : Packet
  kind  : Nat
  flits : Nat
  deriving DecidableEq, Repr

/-- Mirist: ports, group registers (Tables 18-13, 18-14), flows, and what the group timebase keeps (R448). -/
structure Lnk where
  modNum  : Nat
  topo    : Nat
  modules : Nat
  groupId : Nat
  master  : Nat
  masters : List Nat
  ports   : Tab LnkPort
  routes  : Tab Route
  tx      : List TxFlow
  nextFlow : Nat
  rx      : List RxFlow
  relays  : List RelayRead
  transit : List Transit
  hops    : List (Nat × Nat)
  deriving DecidableEq, Repr

/-- Mirist at reset. -/
def Lnk.init : Lnk :=
  { modNum := 0, topo := 0, modules := 0, groupId := 0, master := 0, masters := [], ports := [], routes := [], tx := [],
    nextFlow := 0, rx := [], relays := [], transit := [], hops := [] }

/-! ### Boot and images (chapter 20) -/

/-- A selector record (Table 20-2): slot states 0 EMPTY, 1 VALID, 2 TRIAL, 3 BAD. -/
structure Selector where
  seq    : Nat
  stA    : Nat
  stB    : Nat
  active : Nat
  genA   : Nat
  genB   : Nat
  deriving DecidableEq, Repr

/-- The configuration flash (Table 20-1), as bytes: two selector copies, two image slots, two fence-list copies; an erased
area is empty. -/
structure Flash where
  sel0  : List Byte
  sel1  : List Byte
  imgA  : List Byte
  imgB  : List Byte
  list0 : List Byte
  list1 : List Byte
  deriving DecidableEq, Repr

/-- A blank flash (notes/assumptions/10.md). -/
def Flash.blank : Flash := ⟨[], [], [], [], [], []⟩

/-- Boot states, Table 20-11. -/
inductive BootSt where
  | rom | config | run | recovery
  deriving DecidableEq, Repr

/-- The code of a boot state. -/
def BootSt.code : BootSt → Nat
  | .rom => 0 | .config => 1 | .run => 2 | .recovery => 3

/-- Activation stages, Table 20-15. -/
inductive ActSt where
  | idle | verify | load | switch | config | done | reverted
  deriving DecidableEq, Repr

/-- The code of an activation stage. -/
def ActSt.code : ActSt → Nat
  | .idle => 0 | .verify => 1 | .load => 2 | .switch => 3 | .config => 4 | .done => 5 | .reverted => 6

/-- The GLB block, the flash and what boot, image writes and activation keep (R475 to R492). `fw` is the image whose
firmware runs, `conf` the image whose configuration applies, `applied` once it did; units 0-31 are cores, 32-35 instances. -/
structure Boot where
  st       : BootSt
  flash    : Flash
  bootFrom : Nat
  presented : Bool
  slot     : Nat
  tried    : Bool
  fallback : Bool
  confPend : Bool
  bootMs   : Nat
  applied  : Bool
  fw       : Option (List Byte)
  conf     : Option (List Byte)
  imgAddr  : Nat
  imgLen   : Nat
  imgSt    : Nat
  imgStatus : Nat
  progress : Nat
  writing  : Option (List Byte)
  byMgmt   : Bool
  staging  : Memory
  actSt    : ActSt
  actStatus : Nat
  actOld   : Option (List Byte)
  switched : List Nat
  switchAt : Nat
  deriving DecidableEq, Repr

/-- Boot at reset. -/
def Boot.init : Boot :=
  { st := .rom, flash := Flash.blank, bootFrom := 0, presented := false, slot := 0, tried := false, fallback := false,
    confPend := false, bootMs := 0, applied := false, fw := none, conf := none, imgAddr := 0, imgLen := 0, imgSt := 0,
    imgStatus := 0, progress := 0, writing := none, byMgmt := false, staging := [], actSt := .idle, actStatus := 0,
    actOld := none, switched := [], switchAt := 0 }

/-! ### Security (chapter 21) -/

/-- A fuse operation in progress (R496, R497). -/
inductive FuseOp where
  | commit (ctr svn : Nat)
  | revoke (key : Nat)
  deriving DecidableEq, Repr

/-- One transport's SPDM connection (R501): 0 nothing, 1 version, 2 capabilities, 3 negotiated; the digest of its
transcript; the response not yet taken. -/
structure Conn where
  stage : Nat
  log   : Nat
  resp  : Option (Nat × List Nat)
  deriving DecidableEq, Repr

/-- A connection at reset. -/
def Conn.init : Conn := ⟨0, 0, none⟩

/-- The SEC block, the fuses and the SPDM responder (R493 to R504). -/
structure Sec where
  debugLock : Bool
  revoked  : Nat
  ctrs     : Tab Nat
  rngOk    : Bool
  draws    : Nat
  aliasReady : Bool
  aliasNow : Nat
  aliasOld : Nat
  measGen  : Nat
  commitSt : Nat
  commitStatus : Nat
  revokeSt : Nat
  revokeStatus : Nat
  revokeKey : Nat
  fuse     : Option FuseOp
  fuseBy   : Origin
  doe      : Conn
  mctp     : Conn
  lastDebug : Option Nat
  deriving DecidableEq, Repr

/-- Security at reset: DEBUG_LOCK blown at manufacture, no counter advanced (notes/assumptions/10.md). -/
def Sec.init : Sec :=
  { debugLock := true, revoked := 0, ctrs := [], rngOk := false, draws := 0, aliasReady := false, aliasNow := 0,
    aliasOld := 0, measGen := 0, commitSt := 0, commitStatus := 0, revokeSt := 0, revokeStatus := 0, revokeKey := 0, fuse := none,
    fuseBy := .pf0, doe := Conn.init, mctp := Conn.init, lastDebug := none }

/-! ### Sideband (chapter 23) -/

/-- The SIDE block and the sideband inputs (R526, R533 to R542). `standby` is the standby domain, `mainOn` PWR_GOOD. -/
structure Side where
  standby  : Bool
  mainOn   : Bool
  pwrEn    : Bool
  perst    : Bool
  perstAt  : Nat
  perstStuck : Bool
  thrPin   : Bool
  throttle : Bool
  thrAt    : Nat
  held     : Bool
  stuck    : Bool
  stuckAt  : Nat
  edges    : List Nat
  lastEdge : Nat
  gsyncLock : Bool
  gsyncRun : Nat
  gsyncLast : List Bool
  modId    : Nat
  modPins  : Nat
  sampled  : Bool
  stuckS   : Nat
  holdMs   : Nat
  counts   : Tab Nat
  glitchAt : Tab Nat
  dynAddr  : Nat
  assigned : Bool
  deriving DecidableEq, Repr

/-- Sideband as the control island leaves reset: both domains on, PWR_EN recognised, SIDE_THROTTLE_CFG at its reset. -/
def Side.init : Side :=
  { standby := true, mainOn := true, pwrEn := true, perst := false, perstAt := 0, perstStuck := false, thrPin := false,
    throttle := false, thrAt := 0, held := false, stuck := false, stuckAt := 0, edges := [], lastEdge := 0,
    gsyncLock := false, gsyncRun := 0, gsyncLast := [], modId := 0, modPins := 0, sampled := false, stuckS := 10, holdMs := 10, counts := [], glitchAt := [], dynAddr := 0, assigned := false }

end Sys2Proof.Machine
end

