-- ==== Sys2Proof/Machine/State.lean ====
section
/-! DEFINITION. The whole state of the module, its value at reset, and the reasons a step can stop. -/

namespace Sys2Proof.Machine

/-- A latched register of a reader (R547): the register's offset and its whole value. -/
structure Latch where
  who   : Origin
  off   : Nat
  value : Nat
  deriving DecidableEq, Repr

/-- The module's state, block by block; `halves` are lower halves of 64-bit registers whose
upper halves have not been written (R389); `free`, `out` and `pending` are the model's own. -/
structure State where
  tmb     : Tmb
  latches : List Latch
  halves  : List Latch
  pwr     : Pwr
  tiles   : Tab Tile
  mem     : Mem
  exps    : Exps
  cmp     : Cmp
  parts   : Tab Part
  slots   : Tab Slot
  hif     : Hif
  log     : Log
  lnk     : Lnk
  ras     : Ras
  boot    : Boot
  sec     : Sec
  side    : Side
  free    : Nat
  out     : List Out
  pending : List Instr
  deriving DecidableEq, Repr

/-- Why a step stops with a fault. -/
inductive Fault where
  /-- Raised by no command: every access the spec calls absent answers by the rule that names it (R247, R389).
  Safe: it only could make a claim unprovable. -/
  | noSuchPlace
  deriving DecidableEq, Repr

/-- Why a step has no meaning. -/
inductive Refusal where
  /-- Raised by an arm of `exec` whose command has no meaning yet; the string is the table's mnemonic. Safe. -/
  | notModelled (mnemonic : String)
  deriving DecidableEq, Repr

/-- The outcome type of the module's step. -/
abbrev Res := Host.Outcome State Fault Refusal

/-- The module right after the XD0 control island leaves power-on reset (R544). -/
def State.reset : State :=
  { tmb := Tmb.init, latches := [], halves := [], pwr := Pwr.init, tiles := [], mem := Mem.init, exps := Exps.init, cmp := Cmp.init,
    parts := [], slots := [], hif := Hif.init, log := Log.init, lnk := Lnk.init, ras := Ras.init, boot := Boot.init,
    sec := Sec.init, side := Side.init, free := 0, out := [], pending := [] }

end Sys2Proof.Machine
end

