-- ==== Sys2Proof/Machine/Ops.lean ====
section
/-! DEFINITION. The named operations over State: numbered files, records, ledger, journal, events, rings. -/

namespace Sys2Proof.Machine

/-! ### Numbered files -/

/-- Tile `t`. -/
def tileOf (s : State) (t : Nat) : Tile := tabGet s.tiles t Tile.init
/-- Write tile `t`. -/
def setTile (s : State) (t : Nat) (x : Tile) : State := { s with tiles := tabSet s.tiles t x Tile.init }
/-- Change tile `t`. -/
def modTile (s : State) (t : Nat) (f : Tile → Tile) : State := setTile s t (f (tileOf s t))
/-- Partition `p`. -/
def partOf (s : State) (p : Nat) : Part := tabGet s.parts p Part.init
/-- Write partition `p`. -/
def setPart (s : State) (p : Nat) (x : Part) : State := { s with parts := tabSet s.parts p x Part.init }
/-- Change partition `p`. -/
def modPart (s : State) (p : Nat) (f : Part → Part) : State := setPart s p (f (partOf s p))
/-- Slot `n`. -/
def slotOf (s : State) (n : Nat) : Slot := tabGet s.slots n Slot.init
/-- Write slot `n`. -/
def setSlot (s : State) (n : Nat) (x : Slot) : State := { s with slots := tabSet s.slots n x Slot.init }
/-- Change slot `n`. -/
def modSlot (s : State) (n : Nat) (f : Slot → Slot) : State := setSlot s n (f (slotOf s n))
/-- Power state of die `d`. -/
def dieOf (s : State) (d : Nat) : DiePwr := tabGet s.pwr.dies d DiePwr.init
/-- Change the power state of die `d`. -/
def modDie (s : State) (d : Nat) (f : DiePwr → DiePwr) : State :=
  { s with pwr := { s.pwr with dies := tabSet s.pwr.dies d (f (dieOf s d)) DiePwr.init } }
/-- Context `c` of a partition. -/
def ctxOf (x : Part) (c : Nat) : Ctx := tabGet x.ctxs c Ctx.init
/-- Change a context of a partition. -/
def modCtx (x : Part) (c : Nat) (f : Ctx → Ctx) : Part := { x with ctxs := tabMod x.ctxs c Ctx.init f }
/-- Function `f`: 0 PF0, k VF k. -/
def fnOf (s : State) (f : Nat) : Fn := tabGet s.hif.fns f Fn.init
/-- Change function `f`. -/
def modFn (s : State) (f : Nat) (g : Fn → Fn) : State :=
  { s with hif := { s.hif with fns := tabSet s.hif.fns f (g (fnOf s f)) Fn.init } }
/-- Ring `r` of partition `p`. -/
def ringOf (s : State) (p r : Nat) : Ring := tabGet s.hif.rings (p * 8 + r) Ring.init
/-- Change a ring. -/
def modRing (s : State) (p r : Nat) (g : Ring → Ring) : State :=
  { s with hif := { s.hif with rings := tabSet s.hif.rings (p * 8 + r) (g (ringOf s p r)) Ring.init } }
/-- Journal of partition `p`. -/
def journalOf (s : State) (p : Nat) : Journal := tabGet s.log.journals p Journal.init

/-- Fold a state over the partitions 0-7. -/
def forParts (s : State) (f : State → Nat → State) : State := (List.range 8).foldl f s

/-- The present time. -/
def nowNs (s : State) : Nat := s.tmb.now

/-- The time on die `d`: XD0's count, or its follower's reading within ±16 ns of it (R46). -/
def timeOf (s : State) (d : Nat) : Nat :=
  if d = 16 then s.tmb.now
  else tabGet s.tmb.followers d 0 + (Sys2Proof.Config.followerErr d s.tmb.now).val - 16

/-- The time on the XD die whose sorting office instance serves partition `p`, which writes its journal, completions and
output records (R414). -/
def soTime (s : State) (p : Nat) : Nat := timeOf s (16 + (partOf s p).soInst)

/-- Every follower takes XD0's count (R46). -/
def syncFollowers (s : State) : State :=
  let fs := (List.range 20).foldl (fun t d => tabSet t d s.tmb.now 0) s.tmb.followers
  { s with tmb := { s.tmb with followers := fs } }

/-- Append to what goes out of the block. -/
def emit (s : State) (o : Out) : State := { s with out := s.out ++ [o] }

/-- Draw `n` free values: the counter before, and the state after. -/
def drawFree (s : State) (n : Nat) : Nat × State := (s.free, { s with free := s.free + n })

/-! ### Dies, partitions, tiles -/

/-- The dies of a partition. -/
def diesOf (x : Part) : List Nat := (List.range 16).filter fun d => x.dies.testBit d

/-- The partition that holds a compute die (R25). -/
def partOfDie (s : State) (d : Nat) : Option Nat :=
  (List.range 8).find? fun p => (partOf s p).valid && (partOf s p).dies.testBit d

/-- The partition that holds a tile. -/
def partOfTile (s : State) (t : Nat) : Option Nat := partOfDie s (t / 64)

/-- The record of a unit away from its reset condition. -/
def unitRec (s : State) (u : UnitId) : UnitRec :=
  (s.ras.units.find? fun r => r.unit == u).getD ⟨u, .inService, [], 0, none⟩

/-- The state of a unit (R456). -/
def unitSt (s : State) (u : UnitId) : USt := (unitRec s u).st

/-- Write a unit's record; a record at its reset condition is not listed. -/
def setUnit (s : State) (r : UnitRec) : State :=
  let rest := s.ras.units.filter fun x => x.unit != r.unit
  let plain := r == ⟨r.unit, .inService, [], 0, none⟩
  { s with ras := { s.ras with units := if plain then rest else rest ++ [r] } }

/-- The unit of tile `t`. -/
def tileUnit (t : Nat) : UnitId := ⟨.tile, t / 64, t % 64⟩
/-- The unit of a compute die. -/
def dieUnit (d : Nat) : UnitId := ⟨.computeDie, d, 0⟩
/-- The unit of channel `c` (die × 32 + channel). -/
def chanUnit (c : Nat) : UnitId := ⟨.channel, c / 32, c % 32⟩
/-- The unit of a score row of tile `t`. -/
def rowUnit (t r : Nat) : UnitId := ⟨.scoreRow, t / 64, (t % 64) * 32 + r⟩
/-- The unit of an expander. -/
def expUnit (d e : Nat) : UnitId := ⟨.expander, d, e⟩
/-- No unit. -/
def noUnit : UnitId := ⟨.none, 0xFF, 0⟩

/-- Whether a unit is fenced. -/
def isFenced (s : State) (u : UnitId) : Bool := unitSt s u == .fenced

/-- Whether tile `t` is in service: neither it nor its die fenced, and not in a test (R32, R456). -/
def tileInService (s : State) (t : Nat) : Bool :=
  !isFenced s (dieUnit (t / 64)) && !isFenced s (tileUnit t) && unitSt s (tileUnit t) != .testing

/-- The neighbour of a tile in a direction, on its die (R199): rows are 8 tiles, north towards lower rows. -/
def neighbour (t : Nat) : Port → Option Nat
  | .n => if t % 64 < 8 then none else some (t - 8)
  | .e => if t % 8 = 7 then none else some (t + 1)
  | .s => if 56 ≤ t % 64 then none else some (t + 8)
  | .w => if t % 8 = 0 then none else some (t - 1)
  | .mover => none

/-- Window `w` of a tile. -/
def winOf (x : Tile) (w : Nat) : Win := tabGet x.wins w Win.init

/-- Instructions issued and not retired (Table 9-21): those in flight, a SYNC that waits, WIN.CLOSEs that have not
retired. -/
def issuedCount (x : Tile) : Nat :=
  x.inflight.length + (if x.waitBlocks.isSome || x.waitBar.isSome then 1 else 0) +
    ((List.range 8).filter fun w => (winOf x w).retiring).length

/-- The tiles of a partition that are not fenced, in ascending tile ID. -/
def tilesOf (s : State) (p : Nat) : List Nat :=
  (diesOf (partOf s p)).flatMap fun d => ((List.range 64).map (d * 64 + ·)).filter fun t =>
    !isFenced s (tileUnit t) && !isFenced s (dieUnit d)

/-- Every partition that exists. -/
def livePartitions (s : State) : List Nat := (List.range 8).filter fun p => (partOf s p).valid

/-! ### Records -/

/-- What a record's own rule gives (R452); the rest is the machine's. -/
structure ErrArgs where
  status : Status := .ok
  unit   : UnitId := noUnit
  block  : Option Nat := none
  opc    : Nat := 0xFF
  part   : Nat := 8
  event  : Nat := 0
  step   : Nat := 0
  detail : List Nat := []
  fromTile : Bool := false

/-- Events of a unit still inside its counting window (R457). -/
def unitWindow (s : State) (u : UnitId) : Nat × Nat :=
  let k := match u.kind with
    | .tile => 0 | .scoreRow => 1 | .channel => 2 | .expander => 3 | .edgeLink => 4 | .port => 5 | .core => 6
    | .soInst => 7 | .computeDie => 8 | .none => 15
  tabGet s.ras.windows k (3, 24)

/-- The die whose temperature, voltage and pace a record gives, 0xFF none: an XD die that no unit kind names stands as
UKIND 15 with its DIE (Table 19-1). -/
def recDie (u : UnitId) : Nat := u.die

/-- The die where a record's event occurs, whose follower dates it (R46): the unit's, else the XD die that serves the
partition, else XD0 (notes/assumptions/39.md). -/
def eventDie (s : State) (a : ErrArgs) : Nat :=
  if recDie a.unit ≠ 0xFF then recDie a.unit else if a.part < 8 then 16 + (partOf s a.part).soInst else 16

/-- The unit whose record `u` gives the pace: a tile's own, otherwise PACE_MIN of the die (Table 19-1). -/
def recPace (s : State) (u : UnitId) : Nat :=
  match u.kind with
  | .tile => (tabGet s.pwr.sense (u.die * 64 + u.unit) TileSense.init).pace
  | _ => if recDie u = 0xFF then 0 else (dieOf s (recDie u)).paceMin

/-- An entry of a log is written whole: it is no longer lost (R417, R471). -/
def unlose (s : State) (log i : Nat) : State :=
  { s with log := { s.log with lost := s.log.lost.filter fun e => e != (log, i) } }

/-- Fire an MSI-X vector: masked, it sets its pending bit (R398). -/
def fire (s : State) (f v : Nat) : State :=
  if (fnOf s f).masked.contains v then
    modFn s f fun x => { x with pba := if x.pba.contains v then x.pba else x.pba ++ [v] }
  else emit s (.msix f v)

/-- Write one record into the ring: SEQ, ALERT, PF0 vector 5, the In-Band Interrupt (R453, R455, R538). -/
def writeErr (s : State) (e : ErrRec) : State :=
  let ring := s.log.errRing ++ [{ e with seq := s.log.errSeq + 1 }]
  let s := unlose s 9 ((s.log.errSeq + 1) % 262144)
  let s1 := { s with log := { s.log with errSeq := s.log.errSeq + 1, errRing := ring.drop (ring.length - 262144) } }
  if e.sev < s.ras.alertSev then s1
  else
    let s2 := fire { s1 with ras := { s1.ras with alert := true } } 0 5
    if s.side.assigned then emit s2 (.i3c s.side.dynAddr []) else s2

/-- The writer drains `n` queued records in order (R453). -/
def drainErrs (n : Nat) (s : State) : State :=
  (s.log.errQueue.take n).foldl writeErr { s with log := { s.log with errQueue := s.log.errQueue.drop n } }

/-- The writer catches up before a status goes out: each record stands in the ring before the status it accompanies is
posted (R12). -/
def flushErrs (s : State) : State := drainErrs s.log.errQueue.length s

/-- Put a record at the end of the writer's queue. -/
def queueErr (s : State) (e : ErrRec) : State := { s with log := { s.log with errQueue := s.log.errQueue ++ [e] } }

/-- How many records the writer writes to make room for one more: the queue holds 4,096 (R453). -/
def errExcess (s : State) : Nat := s.log.errQueue.length - 4095

/-- Put an error record in the writer's queue (R452, R453, R552); SEQ is given when it is written. A full queue drops a
record of SEV 0 or 7; any other waits for room, which the writer makes by writing the oldest (notes/assumptions/48.md). -/
def pushErr (s : State) (c : RecCode) (a : ErrArgs) : State :=
  let r := unitRec s a.unit
  let d0 := recDie a.unit
  let d := if d0 = 0xFF then DiePwr.init else dieOf s d0
  let e : ErrRec :=
    { seq := 0, time := timeOf s (eventDie s a), code := c, sev := recSev c a.status a.fromTile, status := a.status, unit := a.unit,
      block := a.block, opc := a.opc, part := a.part, event := a.event, step := a.step, temp := d.tMax,
      volt := d.vcore, pace := recPace s a.unit, count := min 255 r.events.length, ustate := r.st.code,
      detail := a.detail }
  if 4096 ≤ s.log.errQueue.length ∧ (e.sev = 0 ∨ e.sev = 7) then
    { s with log := { s.log with dropped := satAdd 16 s.log.dropped 1 } }
  else queueErr (drainErrs (errExcess s) s) e

/-- The step a partition executes, as a record names it: 0 when none. -/
def execNum (s : State) (p : Nat) : Nat := ((partOf s p).exec.map Step.num).getD 0

/-- A record about tile `t` in its partition's step. -/
def tileErr (s : State) (t : Nat) (c : RecCode) (st : Status) (opc : Nat) (detail : List Nat) : State :=
  let p := (partOfTile s t).getD 8
  pushErr s c { status := st, unit := tileUnit t, opc := opc, part := p, step := execNum s p, detail := detail,
                fromTile := true }

/-- A record written once per tile, step and key (R57, R67, R68). -/
def tileErrOnce (s : State) (t : Nat) (c : RecCode) (opc key : Nat) (detail : List Nat) : State :=
  let x := tileOf s t
  if x.recOnce.contains (recNumber c, key) then s
  else tileErr (setTile s t { x with recOnce := x.recOnce ++ [(recNumber c, key)] }) t c .ok opc detail

/-! ### Ledger and journal -/

/-- An ORIGIN number (Table 17-8) written by this module. -/
def originNum (m : Nat) : Origin → Nat
  | .pf0 => m
  | .vf k => 0x1000 + k.val * 64 + m
  | .relay n => 0x2000 + n.val * 64 + m
  | .mgmt => 0x3000 + m
  | .firmware => 0x4000 + m
  | .bootImage => 0x5000 + m

/-- The origin of a function's commands. -/
def fnOrigin (f : Nat) : Origin := if f = 0 then .pf0 else .vf (Fin.ofNat 9 f)

/-- This module's number in its group. -/
def modNum (s : State) : Nat := s.lnk.modNum

/-- What a ledger entry's own rule gives. -/
structure LedgerArgs where
  obj    : Nat
  act    : Nat := 0
  status : Status := .ok
  part   : Nat := 8
  width  : Nat := 0
  target : Nat := 0
  old    : Nat := 0
  new    : Nat := 0
  step   : Nat := 0

/-- The ledger entry that would be written now. -/
def ledgerEntry (s : State) (o : Origin) (a : LedgerArgs) : LedgerEntry :=
  { seq := s.log.ledgerHead + 1, time := nowNs s, origin := originNum (modNum s) o, obj := a.obj, act := a.act,
    status := a.status, part := a.part, width := a.width, target := a.target, old := a.old, new := a.new,
    step := a.step }

/-- Write a ledger entry (R420, R422): the newest 65,536 are kept. -/
def pushLedger (s : State) (e : LedgerEntry) : State :=
  let s := unlose s 8 (e.seq % 65536)
  let l := s.log.ledger ++ [e]
  { s with log := { s.log with ledgerHead := s.log.ledgerHead + 1, ledger := l.drop (l.length - 65536) } }

/-- Write a ledger entry for an origin. -/
def ledger (s : State) (o : Origin) (a : LedgerArgs) : State := pushLedger s (ledgerEntry s o a)

/-- A command's place in the journal: partition, tag, origin, command code, source ring, context, slot, ring index. -/
structure JSrc where
  part   : Nat
  tag    : Nat
  origin : Nat
  cmd    : Nat
  src    : Nat
  ctx    : Nat
  slot   : Nat
  ridx   : Nat

/-- The journal writer moves the oldest `n` queued entries into the ring of 2²⁰ entries (R415, R417); an entry in a poisoned
block is rewritten whole (R418). -/
def journalDrain (s : State) (p n : Nat) : State :=
  let j := journalOf s p
  let es := j.queue.take n
  let all := j.entries ++ es
  let k : Journal := { head := j.head + es.length, entries := all.drop (all.length - 2 ^ 20), queue := j.queue.drop n }
  let s1 := es.foldl (fun s e => unlose s p (e.seq % 2 ^ 20)) s
  { s1 with log := { s1.log with journals := tabSet s1.log.journals p k Journal.init } }

/-- How many entries the journal writer writes to make room for one more: the queue holds 65,536 (R417). -/
def journalExcess (s : State) (p : Nat) : Nat := (journalOf s p).queue.length - 65535

/-- Queue a journal entry (R415-R417): its sequence number follows the newest queued one. The queue holds 65,536; where it is
full the writer writes the oldest first. -/
def journal (s0 : State) (j : JSrc) (kind : Nat) (st : Status) (detail : Nat) : State :=
  let s := journalDrain s0 j.part (journalExcess s0 j.part)
  let x := journalOf s j.part
  let e : JEntry :=
    { seq := x.head + x.queue.length + 1, tag := j.tag, time := soTime s j.part, origin := j.origin, kind := kind,
      status := st, cmd := j.cmd, src := j.src, ctx := j.ctx, slot := j.slot, ridx := j.ridx % 2 ^ 32,
      detail := detail }
  let js := tabSet s.log.journals j.part { x with queue := x.queue ++ [e] } Journal.init
  { s with log := { s.log with journals := js } }

/-- The sequence number the next journal entry of a partition takes. -/
def nextJSeq (s : State) (p : Nat) : Nat := (journalOf s p).head + (journalOf s p).queue.length + 1

/-- The width of a write that starts an action: 8 bytes by the management port, else the register's 4 (R539, Table 17-10). -/
def goWidth (o : Origin) : Nat := if o = .mgmt then 8 else 4

/-! ### Functions, interrupts, violations -/

/-- The function that drives a partition (R386): its VF where enabled and bound locally, otherwise PF0. -/
def vfBind (s : State) (k : Nat) : VfBind := tabGet s.hif.binds k ⟨k - 1, 0, false⟩

/-- The driver of ring set `p`: that of partition `p`, or of a remote partition `p` where no local one exists (R400). -/
def driverOf (s : State) (p : Nat) : Nat :=
  ((List.range 8).map (· + 1)).find? (fun k => k ≤ s.hif.numVfs && (vfBind s k).part == p &&
    (vfBind s k).remote != (partOf s p).valid) |>.getD 0

/-- The module a ring set is relayed to: its driver is a VF bound to a remote partition (R400). -/
def relayTo (s : State) (p : Nat) : Option Nat :=
  let f := driverOf s p
  if f ≠ 0 ∧ (vfBind s f).remote then some (vfBind s f).module else none

/-- A function's partition: none for PF0. -/
def fnPart (s : State) (f : Nat) : Option Nat := if f = 0 then none else some (vfBind s f).part

/-- Put a ring into a state; the change enters the ledger (R420). -/
def setRingSt (s : State) (p r : Nat) (st : RingSt) : State :=
  let old := (ringOf s p r).st
  let s1 := modRing s p r fun x => { x with st := st }
  if old = st then s1
  else ledger s1 .firmware { obj := 6, part := p, target := p * 8 + r, old := old.code, new := st.code }

/-- Put a ring into a state and fire vector 3 of its owner (R398). -/
def ringTo (s : State) (p r : Nat) (st : RingSt) : State := fire (setRingSt s p r st) (ringOf s p r).owner 3

/-- The rings of a function. -/
def fnRings (s : State) (f : Nat) : List (Nat × Nat) :=
  (List.range 40).filterMap fun i =>
    let x := ringOf s (i / 5) (i % 5)
    if x.st != .detached && x.owner == f then some (i / 5, i % 5) else none

/-- Begin the pause of R403. -/
def pauseFn (s : State) (f : Nat) : State :=
  let s1 := (fnRings s f).foldl (fun s r =>
    if (ringOf s r.1 r.2).st == .active then ringTo s r.1 r.2 .paused else s) s
  let s2 := modFn s1 f fun x =>
    { x with paused := true, pauses := satAdd 16 x.pauses 1, pauseEnd := nowNs s + 1000000000, suppressed := 0 }
  pushErr s2 .hifPause { status := .violation, detail := [f, 0] }

/-- Count a violation of function `f`, writing its record unless the function is paused (R402, R403). -/
def violate (s : State) (f : Nat) (rec : State → State) : State :=
  let x := fnOf s f
  let now := nowNs s
  let count (x : Fn) : Fn :=
    let r := x.recent ++ [now]
    { x with viol := satAdd 32 x.viol 1, recent := r.drop (r.length - 64) }
  if x.paused then modFn s f fun x => { count x with suppressed := x.suppressed + 1 }
  else
    let hit := x.recent.length ≥ 64 && decide (now - (x.recent.getD (x.recent.length - 64) 0) < 1000000000)
    let s1 := modFn (rec s) f count
    if hit then pauseFn s1 f else s1

/-! ### Output rings and completions -/

/-- Whether an output ring may be written now (Table 16-7, R399). -/
def ringWritable (s : State) (p r : Nat) : Bool :=
  let x := ringOf s p r
  (x.st == .active || x.st == .paused) && (fnOf s x.owner).bme

/-- Entries an output ring holds. -/
def ringUsed (x : Ring) : Nat := (x.pidx + 2 ^ 32 - x.cidx) % 2 ^ 32

/-- Whether an output ring has room. -/
def ringRoom (s : State) (p r : Nat) : Bool :=
  ringWritable s p r && decide (ringUsed (ringOf s p r) < 2 ^ (ringOf s p r).log2)

/-- Bytes of a completion (Table 17-5). -/
def cplBytes (c : Cpl) : List Byte :=
  leBytes 8 c.tag ++ leBytes 8 c.time ++ leBytes 2 c.origin ++ leBytes 1 (statusNumber c.status) ++ leBytes 1 c.kind ++
    leBytes 4 c.slot ++ leBytes 8 c.detail

/-- Bytes of a token output record (Table 17-7). -/
def outBytes (r : OutRec) : List Byte :=
  leBytes 8 r.tag ++ leBytes 8 r.time ++ leBytes 2 r.origin ++ leBytes 1 (statusNumber r.status) ++ leBytes 1 r.flags ++
    leBytes 4 r.slot ++ leBytes 4 r.token ++ leBytes 4 r.pos

/-- Write one entry of an output ring: the entry goes out at its slot and P rises (R392, R395). -/
def ringPut (s : State) (p r : Nat) (bytes : List Byte) (keep : Ring → Ring) : State :=
  let x := ringOf s p r
  let s1 := emit s (.hostWrite x.owner (x.base + (x.pidx % 2 ^ x.log2) * 32) bytes)
  modRing s1 p r fun x =>
    { keep x with pidx := (x.pidx + 1) % 2 ^ 32, unsig := x.unsig + 1,
                  unsigFrom := if x.unsig = 0 then nowNs s else x.unsigFrom }

/-- Write a completion into ring 3. -/
def cplPut (s : State) (p : Nat) (c : Cpl) : State :=
  ringPut (flushErrs s) p 3 (cplBytes c) fun x => { x with kept3 := x.kept3 ++ [c] }

/-- Write a token record into ring 4. -/
def outPut (s : State) (p : Nat) (r : OutRec) : State :=
  ringPut (flushErrs s) p 4 (outBytes r) fun x => { x with kept4 := x.kept4 ++ [r] }

/-- Whether any completion waits in a partition's hold. -/
def cplWaiting (s : State) (p : Nat) : Bool :=
  !(partOf s p).hold.isEmpty ||
    s.slots.any fun e => e.2.part == p && (e.2.heldAdm.isSome || e.2.heldFin.isSome || e.2.heldNote.isSome)

/-- Post a completion of a command that concerns no slot: to the ring, or to the command part of the hold (R394). -/
def postCmdCpl (s : State) (p : Nat) (c : Cpl) : State :=
  if ringRoom s p 3 && !cplWaiting s p then cplPut s p c
  else modPart s p fun x => { x with hold := x.hold ++ [c] }

/-- The front module of a relayed request (R400), from its origin. -/
def frontOf (x : Slot) : Option Nat := if x.origin / 4096 = 2 then some (x.origin / 64 % 64) else none

/-- The channel of a request's traffic (Table 16-12). -/
def relayVc (x : Slot) : Nat := if x.lc then 1 else 2

/-- Relay an entry of ring `ring`, 5 the mailbox, to module `m`: one packet of a flow on VC1 or VC2, or a VC0 message
(Table 16-12); the records it goes with stand before it (R12). -/
def relayOut (s : State) (m vc ring : Nat) (bytes : List Byte) : State :=
  let s1 := emit (flushErrs s) (.relayed m vc ring bytes)
  if vc = 0 ∨ m = s.lnk.modNum then s1
  else
    let f : TxFlow := ⟨s1.lnk.nextFlow, m, vc, 2, .relay, [⟨0, 1, none, 0, 24⟩]⟩
    { s1 with lnk := { s1.lnk with tx := s1.lnk.tx ++ [f], nextFlow := s1.lnk.nextFlow + 1 } }

/-- Post a completion of a slot: over the relay, to the ring, or to the slot part of the hold (R394, R400). -/
def postSlotCpl (s : State) (n : Nat) (c : Cpl) : State :=
  let x := slotOf s n
  if let some m := frontOf x then relayOut s m (relayVc x) 3 (cplBytes c)
  else if ringRoom s x.part 3 && !cplWaiting s x.part then cplPut s x.part c
  else match c.kind with
    | 2 => setSlot s n { x with heldAdm := some c }
    | 1 => setSlot s n { x with heldFin := some c }
    | _ =>
      let s1 := setSlot s n { x with heldNote := some c }
      if x.heldNote.isSome then
        modFn s1 (ringOf s x.part 3).owner fun f => { f with cplDrop := satAdd 32 f.cplDrop 1 }
      else s1

/-- A refusal that a status register shows: its record is written before the status stands there (R12). -/
def refuseReg (s : State) (c : RecCode) (a : ErrArgs) (show_ : State → State) : State := show_ (flushErrs (pushErr s c a))

/-! ### Declared events (R378) -/

/-- Declare an event for some partitions: suspend their promise, keep first and latest codes (R378, R381). -/
def declareEvent (s : State) (code : Nat) (ps : List Nat) : State :=
  let mark (e : Step) : Step := { e with suspended := true, event := code }
  let s1 := ps.foldl (fun s p => modPart s p fun x =>
    { x with suspended := true, event := code,
             declared := some ⟨(x.declared.map Declared.first).getD code, code⟩,
             exec := x.exec.map mark, composed := x.composed.map mark, rerunStep := x.rerunStep.map mark,
             ctxs := x.ctxs.map fun c => (c.1, { c.2 with held := c.2.held.map mark }) }) s
  let sl := s1.slots.map fun e =>
    if ps.contains e.2.part && e.2.lc && e.2.st != .free then (e.1, { e.2 with excused := true }) else e
  let s2 := { s1 with slots := sl }
  if 1 ≤ code ∧ code ≤ 0x21 then { s2 with ras := { s2.ras with events := satAdd 16 s2.ras.events 1 } } else s2

/-! ### Abandoning a step (R24, R235) -/

/-- Send the abandon notice of a partition's step to its tiles; a second event keeps the first cause, and both codes are
kept (R236). -/
def abandonStep (s : State) (p : Nat) (a : Abandon) : State :=
  match (partOf s p).exec with
  | none => s
  | some e =>
    let why := match e.why with
      | none => a
      | some b => { b with event := if b.event = 0 then a.event else b.event,
                           latest := if b.event = 0 ∨ a.event = 0 then b.latest else a.event,
                           tell := b.tell || a.tell, always := b.always && a.always, rerun := b.rerun && a.rerun, replaced := b.replaced || a.replaced,
                           status := if b.rerun then a.status else b.status }
    let s1 := modPart s p fun x => { x with exec := some { e with why := some why } }
    (tilesOf s p).foldl (fun s t => modTile s t fun x => { x with abandonOn := true }) s1

/-- A re-runnable fault of a tile: abandon the step, re-run once (R24, R106). -/
def rerunFault (s : State) (t : Nat) (again : Option Status) : State :=
  match partOfTile s t with
  | none => s
  | some p => abandonStep s p ⟨.ok, 0, true, again, false, 0, none, false, false⟩

/-- Something a tile waited for did not come: the step is abandoned and re-run once, its requests told (R24, R208). -/
def waitFault (s : State) (t : Nat) : State :=
  match partOfTile s t with
  | none => s
  | some p => abandonStep s p ⟨.ok, 0, true, none, false, 0, none, true, false⟩

/-- Whether the step a tile runs is a re-run. -/
def inRerun (s : State) (t : Nat) : Bool :=
  match partOfTile s t with
  | none => false
  | some p => ((partOf s p).exec.map Step.rerun).getD false

/-- Mark a step-program version of a partition faulty (R106). -/
def markFaulty (s : State) (p ver : Nat) : State :=
  let gs := listUpd (fun g : Prog => g.part == p && g.version == ver) (fun g => { g with faulty := true }) s.cmp.progs
  { s with cmp := { s.cmp with progs := gs } }

/-- A program fault of a tile (R106, R235): its record, the version marked faulty, the step abandoned without re-run. -/
def progFault (s : State) (t : Nat) (c : RecCode) (st : Status) (opc : Nat) (detail : List Nat) : State :=
  let s1 := tileErr s t c st opc detail
  let s2 := modTile s1 t fun x => { x with faulted := true }
  match partOfTile s t with
  | none => s2
  | some p => abandonStep (markFaulty s2 p (tileOf s t).version) p ⟨st, 0, false, none, false, 0, none, false, false⟩

/-- A program fault whose record another tile has written: no re-run, the version faulty (R106, R204). -/
def moveFault (s : State) (t : Nat) (st : Status) : State :=
  let s1 := modTile s t fun x => { x with faulted := true }
  match partOfTile s1 t with
  | none => s1
  | some p => abandonStep (markFaulty s1 p (tileOf s1 t).version) p ⟨st, 0, false, none, false, 0, none, false, false⟩

/-- Add to the executing step's counters (R335). -/
def modCounters (s : State) (t : Nat) (f : Counters → Counters) : State :=
  match partOfTile s t with
  | none => s
  | some p => modPart s p fun x => { x with exec := x.exec.map fun e => { e with cnt := f e.cnt } }

/-- Count non-finite values of a tile, with one NONFINITE record per tile and step (R67). -/
def countNonfinite (s : State) (t opc n : Nat) : State :=
  if n = 0 then s
  else tileErrOnce (modCounters s t fun c => { c with nonfinite := satAdd 16 c.nonfinite n }) t .nonfinite opc 0 [t, n]

end Sys2Proof.Machine
end

