-- ==== Sys2Proof/Machine/ServeOps.lean ====
section
/-! DEFINITION. Shared operations of serving: commands taken and answered, pages and pools, the end of a request. -/

namespace Sys2Proof.Machine

/-! ### Commands taken and answered (R396, R406, R410, R416) -/

/-- The journal source number: ring 0-4, or 5 for the mailbox. -/
def srcNum (x : Src) : Nat := (x.ring.map Fin.val).getD 5

/-- The origin of a command: its function, or the front module that relayed it (R400). -/
def srcOrigin (x : Src) : Origin :=
  match x.front with
  | some m => .relay m
  | none => fnOrigin x.fn.val

/-- Who a taken command is held for: its function, or 16 + its front module. -/
def srcFn (x : Src) : Nat :=
  match x.front with
  | some m => 16 + m.val
  | none => x.fn.val

/-- Whether a command came from PF0 of this module. -/
def fromPf0 (x : Src) : Bool := x.front.isNone && x.fn.val == 0

/-- Count a violation of a command's function; a relayed function's counts at its front module (R400). -/
def violateSrc (s : State) (x : Src) (rec' : State → State) : State :=
  if x.front.isSome then rec' s else violate s x.fn.val rec'

/-- The status number of a failed read in its record. -/
def dmaNum : DmaStatus → Nat | .ur => 1 | .ca => 2 | .ep => 3 | .timeout => 4

/-- The HIF_DMA record of a failed read: the function, the address and the completion status (R399). -/
def dmaRecord (f p : Nat) (d : DmaFail) (s : State) : State :=
  pushErr s .hifDma { status := .violation, part := p, detail := [f, d.addr, dmaNum d.st] }

/-- Record and count a failed DMA read of function `f`. -/
def dmaFailed (s : State) (f p : Nat) (d : DmaFail) : State := violate s f (dmaRecord f p d)

/-- Record and count a failed read of data a descriptor names, where its rings stand here (R399, R400). -/
def dmaFailedFor (s : State) (x : Src) (d : DmaFail) : State :=
  if x.front.isSome then s else dmaFailed s x.fn x.part d

/-- The channel a command came on: control ring and mailbox VC0, LC VC1, BE VC2 (Table 16-12). -/
def srcVc (x : Src) : Nat := (x.ring.map Fin.val).getD 0

/-- A command's place in the journal. -/
def jsrcOf (s : State) (x : Src) (cmd : Nat) : JSrc :=
  { part := x.part.val, tag := x.tag, origin := originNum (modNum s) (srcOrigin x), cmd := cmd, src := srcNum x,
    ctx := x.ctx.val, slot := x.slot, ridx := if x.ring.isNone then 0 else x.ridx }

/-- A taken command: the state, the sequence number of its ACCEPTED entry and that entry's time. -/
structure TakenCmd where
  s    : State
  jseq : Nat
  time : Nat

/-- A command as its taker holds it: in the ring's partition, or a VF's own, whatever partition the descriptor names (R406). -/
def takerOf (s : State) (x : Src) : Src :=
  match x.via with
  | some p => { x with part := p }
  | none => match (if x.front.isSome then none else fnPart s x.fn) with
    | some p => { x with part := Fin.ofNat 8 p }
    | none => x

/-- Take a command: use the entry its fetch wrote, or write ACCEPTED now (R416). -/
def takeCmd (s : State) (x : Src) (cmd : Nat) : TakenCmd :=
  let m (k : Taken) : Bool :=
    k.fn == srcFn x && k.ring == srcNum x && k.tag == x.tag && k.cmd == cmd && (x.ring.isNone || k.part == x.part.val)
  match s.hif.taken.find? m with
  | some k => ⟨{ s with hif := { s.hif with taken := s.hif.taken.erase k } }, k.jseq, k.time⟩
  | none => ⟨journal s (jsrcOf s x cmd) 0 .accepted 0, nextJSeq s x.part.val, soTime s x.part.val⟩

/-- A completion of a command. -/
def mkCpl (s : State) (x : Src) (kind : Nat) (st : Status) (detail : Nat) : Cpl :=
  { tag := x.tag, time := soTime s x.part.val, origin := originNum (modNum s) (srcOrigin x), status := st, kind := kind,
    slot := x.slot, detail := detail }

/-- Answer in the mailbox: MBX_RESP, BUSY clear, DONE set, SEQ + 1, vector 0 (R396). A command whose function was reset while
it ran finds the mailbox idle, and its outcome is in the journal only (R387). -/
def mbxAnswer (s : State) (f : Nat) (c : Cpl) : State :=
  if !(fnOf s f).mbxBusy then s else
  let s1 := modFn (flushErrs s) f fun x =>
    { x with mbxBusy := false, mbxDone := true, mbxSeq := (x.mbxSeq + 1) % 65536, mbxResp := some c }
  fire s1 f 0

/-- Post a command's completion in its ring set, here or at its front module. -/
def postFor (s : State) (x : Src) (c : Cpl) : State :=
  match x.front with
  | some m => relayOut s m.val (srcVc x) 3 (cplBytes c)
  | none => postCmdCpl s x.part.val c

/-- Answer a command by the way it came: the mailbox, or the completion ring of its ring set. -/
def answer (s : State) (x : Src) (c : Cpl) : State :=
  if x.ring.isNone then
    match x.front with
    | some m => relayOut s m.val 0 5 (cplBytes c)
    | none => mbxAnswer s x.fn.val c
  else postFor s x c

/-- DETAIL of a FINAL completion (Table 17-6). -/
def finalDetail (cmd stop result : Nat) : Nat := cmd + stop * 2 ^ 16 + result * 2 ^ 32

/-- Whether a status ends a command COMPLETED (R416). -/
def isDone (st : Status) : Bool := st == .ok || st == .staged

/-- A command's execution begins: its STARTED entry (R416). -/
def startCmd (s : State) (x : Src) (cmd : Nat) : State := journal s (jsrcOf s x cmd) 1 .ok 0

/-- A command's execution ends: COMPLETED or FAILED, then FINAL (R409, R416). -/
def endCmd (s : State) (x : Src) (cmd : Nat) (st : Status) (result : Nat) : State :=
  let d := finalDetail cmd 0 result
  let s1 := journal s (jsrcOf s x cmd) (if isDone st then 2 else 3) st d
  answer s1 x (mkCpl s1 x 1 st d)

/-- End a command at once: STARTED unless refused, then its end. -/
def finishCmd (s : State) (x : Src) (cmd : Nat) (st : Status) (result : Nat) : State :=
  endCmd (if isDone st then startCmd s x cmd else s) x cmd st result

/-- Refuse a command: its record, then the journal entry, then the completion (R12, R409). -/
def refuseCmd (s : State) (x : Src) (cmd : Nat) (st : Status) (c : RecCode) (detail : List Nat) : State :=
  finishCmd (pushErr s c { status := st, part := x.part.val, detail := [x.fn.val, cmd] ++ detail }) x cmd st 0

/-- Whether Table 17-2 has a command code. -/
def cmdKnown (c : Nat) : Bool :=
  [1, 2, 3, 0x10, 0x11, 0x12, 0x13, 0x20, 0x21, 0x22, 0x23, 0x24, 0x25, 0x30, 0x31, 0x32, 0x40, 0x41].contains c

/-- Take and refuse a descriptor whose code Table 17-2 does not have (R406). -/
def refuseUnknown (s : State) (x : Src) (cmd : Nat) : State :=
  let y := takerOf s x
  refuseCmd (takeCmd s y cmd).s y cmd .badField .cmdFormat [0]

/-- The time of a command's ACCEPTED entry, by its number (R416). -/
def acceptedAt (s : State) (p jseq : Nat) : Nat :=
  (((journalOf s p).entries ++ (journalOf s p).queue).find? fun e => e.seq == jseq).elim (soTime s p) JEntry.time

/-- Answer ACCEPTED for a command that runs on: STARTED is written, the completion mirrors the ACCEPTED entry: its postmark and
its number (R410, Table 17-6). -/
def acceptCmd (s : State) (x : Src) (cmd jseq : Nat) : State :=
  answer (startCmd s x cmd) x { mkCpl s x 0 .accepted jseq with time := acceptedAt s x.part.val jseq }

/-- The end of a command that was ACCEPTED: the entry, then FINAL in the completion ring. -/
def finishLater (s : State) (x : Src) (cmd : Nat) (st : Status) (result : Nat) : State :=
  let d := finalDetail cmd 0 result
  let s1 := journal s (jsrcOf s x cmd) (if isDone st then 2 else 3) st d
  postFor s1 x (mkCpl s1 x 1 st d)

/-! ### Pages and pools (chapter 14) -/

/-- Page `k` of a partition. -/
def pageOf (x : Part) (k : Nat) : Page := tabGet x.pages k Page.init
/-- Change a page. -/
def modPage (x : Part) (k : Nat) (f : Page → Page) : Part := { x with pages := tabMod x.pages k Page.init f }

/-- The key that stands for a page whose contents lie in a swap record (R352). -/
def noPage : Nat := 2 ^ 64

/-- Whether a page is shared (R345). -/
def isShared (g : Page) : Bool := decide (1 < g.refs) || g.tree

/-- Clear TREE on pages no node names any more. -/
def untree (x : Part) (ks : List Nat) : Part :=
  ks.foldl (fun x k => if x.nodes.any fun nd => nd.pages.contains k then x
    else if (pageOf x k).st == .free then x else modPage x k fun g => { g with tree := false }) x

/-- Drop a slot's sets of pages whose keys are listed, keeping the rest. -/
def dropKeys (sets : List (List Nat)) (ks : List Nat) : List (List Nat) := sets.map fun ps => ps.filter fun k => !ks.contains k

/-- A region. -/
def regionOf (s : State) (n : Nat) : Region := tabGet s.mem.regions n Region.init

/-- The pool regions of a partition (R340). -/
def poolsOf (s : State) (p : Nat) : List Nat :=
  (tabKeys s.mem.regions).filter fun n =>
    let r := regionOf s n
    r.valid && r.cls == .s && r.owner == p && decide (0 < r.pool)

/-- GiB in bytes. -/
def gib : Nat := 2 ^ 30

/-- Pages a POOL holds: N (R340). -/
def poolN (s : State) (p n : Nat) : Nat :=
  let x := partOf s p
  let unit := x.poolPage * 4096 + x.poolMeta * 2048
  if unit = 0 then 0 else (regionOf s n).pool * gib / unit

/-- Pages of a POOL below its withdrawn part (R264, R340). -/
def poolLimit (s : State) (p n : Nat) : Nat :=
  let r := regionOf s n
  let x := partOf s p
  let area := r.pool * gib - poolN s p n * x.poolMeta * 2048
  let keep := area - r.withdrawn * 2 ^ 21
  if x.poolPage = 0 then 0 else min (poolN s p n) (keep / (x.poolPage * 4096))

/-- The POOL a die's pages come from: LOCAL to it, otherwise SPREAD (R343). -/
def poolFor (s : State) (p d : Nat) : Option Nat :=
  let ps := poolsOf s p
  match ps.find? fun n => !(regionOf s n).spread && (regionOf s n).die == d with
  | some n => some n
  | none => ps.find? fun n => (regionOf s n).spread

/-- The key of page `i` of pool region `n`. -/
def pageKey (n i : Nat) : Nat := n * 2 ^ 32 + i

/-- The pages of a pool in use. -/
def poolUsed (x : Part) (n : Nat) : List Nat :=
  (x.pages.filter fun e => e.1 / 2 ^ 32 == n && e.2.st != .free).map fun e => e.1 % 2 ^ 32

/-- The least number from `n` on that a rising list skips. -/
def lowestFree : List Nat → Nat → Nat
  | [], n => n
  | k :: r, n => if k < n then lowestFree r n else if k = n then lowestFree r (n + 1) else n

/-- Module address of a page's first byte (R340). -/
def pageAddr (s : State) (p k : Nat) : Nat :=
  let n := k / 2 ^ 32
  let r := regionOf s n
  let x := partOf s p
  (r.base + r.size - r.pool) * gib + poolN s p n * x.poolMeta * 2048 + (k % 2 ^ 32) * x.poolPage * 4096

/-- Allocate the lowest free page of a pool (R343). -/
def allocPage (s : State) (p n : Nat) (layer kvHead writer : Nat) : Option (State × Nat) :=
  let x := partOf s p
  let i := lowestFree (poolUsed x n) 0
  if i < poolLimit s p n then
    let k := pageKey n i
    some (setPart s p (modPage x k fun _ =>
      { Page.init with st := .open_, refs := 1, layer := layer, kvHead := kvHead, writer := some writer }), k)
  else none

/-- The die of a place for page index `i`. -/
def placeDie (pl : Place) (i : Nat) : Nat := if pl.dies.isEmpty then 0 else pl.dies.getD (i % pl.dies.length) 0

/-- Drop one reference of a page; at none it frees, a SEALING page when its seal ends (R342, R345). -/
def dropRef (x : Part) (k : Nat) : Part :=
  let g := pageOf x k
  if g.refs ≤ 1 then
    if g.st == .sealing then modPage x k fun g => { g with refs := 0, writer := none }
    else modPage x k fun _ => Page.init
  else modPage x k fun g => { g with refs := g.refs - 1 }

/-- Allocate a page set of a request: one page per place (R343, R349); none when a pool is short. -/
def allocSet (s : State) (p : Nat) (pls : List Place) (i writer : Nat) : Option (State × List Nat) :=
  pls.foldl (fun acc pl => match acc with
    | none => none
    | some (s1, ks) =>
      match poolFor s1 p (placeDie pl i) with
      | none => none
      | some n => (allocPage s1 p n pl.layer pl.kvHead writer).map fun r => (r.1, ks ++ [r.2])) (some (s, []))

/-- Pages that sets `is` need of pool `n`. -/
def needOf (s : State) (p : Nat) (pls : List Place) (is : List Nat) (n : Nat) : Nat :=
  (is.map fun i => (pls.filter fun pl => poolFor s p (placeDie pl i) == some n).length).sum

/-- The program a slot binds. -/
def progOf (s : State) (p ver : Nat) : Option Prog := s.cmp.progs.find? fun g => g.part == p && g.version == ver

/-- The placement a slot's version names. -/
def placesOf (s : State) (p ver : Nat) : List Place := ((progOf s p ver).map fun g => g.img.placement).getD []

/-- Page sets a request may come to hold: prompt, new tokens and 16 candidates (R349). -/
def setsOf (x : Slot) : Nat := ceilDiv (x.nprompt + x.maxNew + 16) 64

/-- The page indexes a slot still reserves: from its first missing set on, then those of sets it took from the prefix tree,
which R349 does not subtract. -/
def reservedIdx (x : Slot) : List Nat :=
  ((List.range (setsOf x - x.sets.length)).map (· + x.sets.length) ++ List.range x.sets.length).take x.reserved

/-- The CMP_BUNDLE entry of a bundle version of a partition. -/
def bundleOf (s : State) (p ctx id ver : Nat) : Option BundleEnt :=
  (s.cmp.bundles.filterMap Prod.snd).find? fun b =>
    b.valid && b.part == p && b.ctx == ctx && b.img.id == id && b.img.version == ver

/-- The bundle a slot binds. -/
def slotBundle (s : State) (x : Slot) : Option BundleEnt := bundleOf s x.part x.ctx x.bundle x.bver

/-- The live slots of a partition, ascending. -/
def slotsOf (s : State) (p : Nat) : List Nat :=
  (s.slots.filter fun e => e.2.part == p && e.2.st != .free).map Prod.fst

/-- Whether a request is live LC (R370, R379). -/
def isLc (x : Slot) : Bool := x.lc && !x.lost && x.st != .free && x.st != .closing

/-- An LC request of another partition as it will stand in partition `p` of this module, its reserved target (R331): in
DECODE, under the current program version there; none where that partition does not hold its bundle version. -/
def viewIn (s : State) (p : Nat) (x : Slot) : Option Slot :=
  (s.cmp.progs.find? fun g => g.part == p && g.bundle == x.bundle && g.bver == x.bver && g.current && !g.loading).map fun g =>
    { x with part := p, ctx := g.ctx, pver := g.version, st := .decode, sets := [], reserved := setsOf x, target := none }

/-- The LC requests that have a reservation in partition `p` and have not arrived (R331). -/
def promisedTo (s : State) (p : Nat) : List (Nat × Slot) :=
  (s.slots.filter fun e => isLc e.2 && e.2.st != .admitting && e.2.part != p && e.2.target == some (s.lnk.modNum, p) &&
    !(s.slots.any fun a => a.2.part == p && a.2.st == .admitting && a.2.tag == e.2.tag && a.2.ridx == e.2.ridx)).filterMap fun e =>
      (viewIn s p e.2).map fun v => (e.1, v)

/-- Pages of pool `n` that LC reservations still hold, those of requests still to come among them. -/
def poolReserved (s : State) (p n : Nat) : Nat :=
  ((slotsOf s p).map fun k =>
    let x := slotOf s k
    if isLc x then needOf s p (placesOf s p x.pver) (reservedIdx x) n else 0).sum +
    ((promisedTo s p).map fun y => needOf s p (placesOf s p y.2.pver) (reservedIdx y.2) n).sum

/-- Free pages of a pool, reservations included. -/
def poolFree (s : State) (p n : Nat) : Nat := poolLimit s p n - (poolUsed (partOf s p) n).length

/-- Give back every page reference of a slot (R348) and what is left of its reservation (R349). -/
def releasePages (s : State) (n : Nat) : State :=
  let x := slotOf s n
  let s1 := modPart s x.part fun q =>
    { x.sets.flatten.foldl dropRef q with
      swaps := q.swaps.filter fun r => r.slot != n,
      swapUsed := q.swapUsed - ((q.swaps.filter fun r => r.slot == n).map SwapRec.bytes).sum }
  setSlot s1 n { x with sets := [], reserved := 0, swapped := [], toRestore := [] }

/-! ### Dead letters (R328) -/

/-- Put a record in the dead-letter queue; full, it overwrites the oldest. -/
def toDlq (s : State) (p : Nat) (r : OutRec) : State :=
  let x := partOf s p
  let s := unlose s (24 + p) ((x.dlqBase + x.dlq.length) % 4096)
  if x.dlq.length ≥ 4096 then
    let s1 := setPart s p { x with dlq := x.dlq.drop 1 ++ [r], dlqBase := x.dlqBase + 1, dlqLost := satAdd 16 x.dlqLost 1, dlqFull := true }
    if x.dlqFull then s1 else pushErr s1 .dlqOverwrite { part := p }
  else
    let s1 := setPart s p { x with dlq := x.dlq ++ [r] }
    if x.dlq.isEmpty then fire s1 (driverOf s p) 4 else s1

/-! ### The end of a request (R308, R325, R411) -/

/-- The records a slot holds go to the dead-letter queue with a status (R328, R329). -/
def dropHold (s : State) (n : Nat) (st : Status) : State :=
  let x := slotOf s n
  x.hold.foldl (fun s r => toDlq s x.part { r with status := st, time := soTime s x.part }) (modSlot s n fun x => { x with hold := [] })

/-- A slot's journal place. -/
def slotSrc (x : Slot) (n : Nat) : JSrc :=
  { part := x.part, tag := x.tag, origin := x.origin, cmd := 1, src := x.ring, ctx := x.ctx, slot := n, ridx := x.ridx }

/-- A completion of a slot. -/
def slotCpl (s : State) (x : Slot) (n kind : Nat) (st : Status) (detail : Nat) (firmware : Bool) : Cpl :=
  { tag := x.tag, time := soTime s x.part, origin := if firmware then originNum (modNum s) .firmware else x.origin,
    status := st, kind := kind, slot := n, detail := detail }

/-- Post FINAL of a closing slot once its records are all written (R411). -/
def postFinal (s : State) (n : Nat) : State :=
  let x := slotOf s n
  if x.st == .closing && !x.finDone && x.hold.isEmpty then
    let d := finalDetail 1 x.stop x.delivered
    let s1 := journal s (slotSrc x n) (if x.stop ≤ 2 then 2 else 3) x.endSt d
    postSlotCpl (setSlot s1 n { x with finDone := true }) n (slotCpl s1 x n 1 x.endSt d false)
  else s

/-- End a pending tree's command (R320): a status and the nodes accepted. -/
def endTree (s : State) (n : Nat) (st : Status) (result : Nat) : State :=
  let x := slotOf s n
  match x.tree with
  | none => s
  | some t =>
    let s1 := setSlot s n { x with tree := none }
    match t.cmd with
    | none => s1
    | some c =>
      let s2 := if st == .badState then
        pushErr s1 .specStale { status := .badState, part := x.part, detail := [n, t.tree.basePos] } else s1
      let d := finalDetail 2 0 result
      let s3 := journal s2 (jsrcOf s2 c 2) (if isDone st then 2 else 3) st d
      postFor s3 c (mkCpl s3 c 1 st d)

/-- A stale tree is discarded (R320): the command that carried it ends; a SUBMIT's tree has its record only. -/
def staleTree (s : State) (n : Nat) : State :=
  match (slotOf s n).tree with
  | some ⟨t, none⟩ =>
    pushErr (endTree s n .badState 0) .specStale { status := .badState, part := (slotOf s n).part, detail := [n, t.basePos] }
  | _ => endTree s n .badState 0

/-- The CANCEL commands that wait for a slot's end complete OK (R329, R423). -/
def endCancel (s : State) (n : Nat) : State :=
  let x := slotOf s n
  match x.cancel with
  | none => s
  | some none => setSlot s n { x with cancel := none }
  | some (some c) => finishLater (setSlot s n { x with cancel := none }) c 3 .ok 0

/-- Close a request (R325): CLOSING, pages back, its tree and its CANCEL ended, FINAL once its records are written; after a
cancellation or a terminal fault those it holds go to the dead-letter queue (R328). -/
def closeSlot (s : State) (n stop : Nat) (st : Status) : State :=
  let x := slotOf s n
  if x.st == .free || x.st == .closing then s
  else
    let s1 := endTree s n .badState 0
    let s2 := modSlot s1 n fun x => { x with st := .closing, stop := stop, endSt := st }
    let s3 := if 4 ≤ stop then dropHold s2 n st else s2
    postFinal (endCancel (releasePages s3 n) n) n

/-- Close every request of a list with a terminal fault's status. -/
def closeSlots (s : State) (ns : List Nat) (st : Status) : State := ns.foldl (fun s n => closeSlot s n 5 st) s

/-- The slots with a column in a step. -/
def stepSlots (e : Step) : List Nat := (e.cols.map Column.slot).eraseDups

/-! ### Chain hashes (R317) -/

/-- The chain hash of block `i` of a sequence (R317), as a little-endian number. -/
def chainHash (x : Slot) : Nat → List Byte
  | i =>
    let rec go : Nat → List Byte
      | 0 => List.replicate 32 0
      | k + 1 =>
        let ids := leBytes 4 x.bundle ++ leBytes 4 x.bver ++ (match x.adapter with
          | some a => leBytes 4 a.1 ++ leBytes 4 a.2
          | none => List.replicate 8 0xFF)
        sha256 (go k ++ ids ++ ((x.tokens.drop (k * 64)).take 64).flatMap (leBytes 4))
    go (i + 1)

end Sys2Proof.Machine
end

