-- ==== Sys2Proof/Machine/MemOps.lean ====
section
/-! DEFINITION. Shared operations of module memory: regions, length bytes, interleave, reads and writes (chapter 10). -/

namespace Sys2Proof.Machine

/-- The 2 KiB block of an address. -/
def blockOf (a : Nat) : Nat := a / 2048

/-- Whether a block lies in a withdrawn mirror copy (R264, R299). -/
def isGone (s : State) (b : Nat) : Bool := s.mem.gone.any fun r => decide (r.1 ≤ b) && decide (b < r.1 + r.2)

/-- The valid region that holds a module address, withdrawn ranges excepted (R247, R264). -/
def regionAt (s : State) (a : Nat) : Option Nat :=
  if isGone s (blockOf a) then none
  else (tabKeys s.mem.regions).find? fun n =>
    let r := regionOf s n
    r.valid && decide (r.base * gib ≤ a) && decide (a + r.withdrawn * 2 ^ 21 < (r.base + r.size) * gib)

/-- Whether an address lies in the length table at the start of a W or S region (R277). -/
def inLenTable (r : Region) (a : Nat) : Bool :=
  r.cls != .a && decide (r.base * gib ≤ a) && decide (a < r.base * gib + r.size * gib / 2048)

/-- The block whose length byte lies at an address of a length table (R277). -/
def lenBlock (r : Region) (a : Nat) : Nat := blockOf (r.base * gib) + (a - r.base * gib)

/-- The length byte of a block; 0xFF when its region was created (R277). -/
def lenOf (s : State) (b : Nat) : Nat := tabGet s.mem.lens b 0xFF

/-- Set the length byte of a block. -/
def setLen (s : State) (b l : Nat) : State :=
  { s with mem := { s.mem with lens := tabSet s.mem.lens b l 0xFF } }

/-- One byte of module memory, length bytes among them. -/
def memByte (s : State) (a : Nat) : Byte :=
  match regionAt s a with
  | some n => if inLenTable (regionOf s n) a then BitVec.ofNat 8 (lenOf s (lenBlock (regionOf s n) a))
              else s.mem.bytes.read a
  | none => s.mem.bytes.read a

/-- `n` bytes of module memory. -/
def memRead (s : State) (a n : Nat) : List Byte := (List.range n).map fun i => memByte s (a + i)

/-- Write one byte; a byte of a length table sets the length byte it stands for. -/
def memPut (s : State) (a : Nat) (b : Byte) : State :=
  match regionAt s a with
  | some n =>
    if inLenTable (regionOf s n) a then setLen s (lenBlock (regionOf s n) a) b.toNat
    else { s with mem := { s.mem with bytes := s.mem.bytes.write a b } }
  | none => { s with mem := { s.mem with bytes := s.mem.bytes.write a b } }

/-- Write bytes one after another. -/
def memPutRun : State → Nat → List Byte → State
  | s, _, [] => s
  | s, a, b :: r => memPutRun (memPut s a b) (a + 1) r

/-- The blocks that `n` bytes from `a` touch. -/
def blocksOf (a n : Nat) : List Nat := if n = 0 then [] else (List.range (blockOf (a + n - 1) - blockOf a + 1)).map (· + blockOf a)

/-- The place of a LOCAL unit's bucket (R250). -/
def localBucket (off : Nat) : Nat :=
  let u := off / 256
  (u % 4096) ^^^ (u / 4096 % 4096) ^^^ (u / 2 ^ 24 % 32)

/-- The place of a SPREAD unit's bucket (R250). -/
def spreadBucket (off : Nat) : Nat :=
  let u := off / 4096
  (u % 65536) ^^^ (u / 65536 % 8192)

/-- The die of a SPREAD bucket before any fence moves it (R250). -/
def bucketDie (b : Nat) : Nat := b % 16

/-- The channel of a LOCAL bucket of die `d`, as die × 32 + channel. -/
def lmapOf (s : State) (d b : Nat) : Nat := (tabGet s.mem.lmap (d * 4096 + b) none).getD (d * 32 + b % 32)

/-- The channel of a SPREAD bucket, as die × 32 + channel. -/
def smapOf (s : State) (b : Nat) : Nat := (tabGet s.mem.smap b none).getD (bucketDie b * 32 + b / 16 % 32)

/-- The channel an address of a region is read from: the source while its bucket migrates (R250, R266). -/
def chanOf (s : State) (n a : Nat) : Nat :=
  let r := regionOf s n
  let off := a - r.base * gib
  let b := if r.spread then spreadBucket off else localBucket off
  let c := if r.spread then smapOf s b else lmapOf s r.die b
  let src := s.mem.migs.find? fun m => m.moves.any fun v =>
    v.spread == r.spread && v.bucket == b && v.dst == c && v.st != .new
  (src.map Migration.src).getD c

/-- The memory controller of a channel (die × 32 + channel), and the number of the die's expander it shares (R245). -/
def ctrlOf (c : Nat) : Nat := c % 32 / 8

/-- The expander that serves a channel (R245). -/
def chanExp (c : Nat) : UnitId := expUnit (c / 32) (ctrlOf c)

/-- Whether a block reads as poisoned: marked (R257), or in the stack of a fenced compute die, which has left the module
(R468). -/
def isPoisoned (s : State) (b : Nat) : Bool :=
  s.mem.poison.contains b ||
    match regionAt s (b * 2048) with
    | some n => (regionOf s n).cls != .a && isFenced s (dieUnit (chanOf s n (b * 2048) / 32))
    | none => false

/-- Whether a class A line fails its check: marked (R256, R267), or in the stack of a fenced compute die (R468). -/
def isFailed (s : State) (l : Nat) : Bool :=
  s.mem.aFailed.contains l ||
    match regionAt s (l * 64) with
    | some n => (regionOf s n).cls == .a && isFenced s (dieUnit (chanOf s n (l * 64) / 32))
    | none => false

/-- The channel whose table holds a poisoned block: that of the line that failed (R260). -/
def tableOf (s : State) (b : Nat) : Option Nat :=
  let a := tabGet s.mem.badLine b (b * 32) * 64
  (regionAt s a).map fun n => chanOf s n a

/-- Poisoned blocks in a channel's table (R260). -/
def tableCount (s : State) (c : Nat) : Nat :=
  (s.mem.poison.filter fun b => !s.mem.surplus.contains b && tableOf s b == some c).length

/-- A surplus mark returns to its channel's table once that has room or the channel is fenced (R260). -/
def drainSurplus (s : State) : State :=
  s.mem.surplus.foldl (fun s b =>
    let free := match tableOf s b with
      | some c => isFenced s (chanUnit c) || decide (tableCount s c < 1024)
      | none => true
    if free then { s with mem := { s.mem with surplus := s.mem.surplus.erase b } } else s) s

/-- Clear the poison of blocks (R259). -/
def clearPoison (s : State) (bs : List Nat) : State :=
  if bs.isEmpty then s
  else
    let m := s.mem
    drainSurplus { s with mem := { m with poison := m.poison.filter (fun b => !bs.contains b),
                                          surplus := m.surplus.filter (fun b => !bs.contains b),
                                          badLine := bs.foldl (fun t b => tabSet t b 0 0) m.badLine,
                                          fresh := m.fresh.filter (fun l => !bs.contains (l / 32)) } }

/-- The lines that `n` bytes from `a` touch. -/
def linesOf (a n : Nat) : List Nat := if n = 0 then [] else (List.range ((a + n - 1) / 64 - a / 64 + 1)).map (· + a / 64)

/-- The lines that `n` bytes from `a` cover wholly. -/
def wholeLines (a n : Nat) : List Nat := (linesOf a n).filter fun l => decide (a ≤ l * 64) && decide (l * 64 + 64 ≤ a + n)

/-- Lines get fresh check bytes (R254, R259): class A lines heal (R256), a correction's write-back is superseded, and a
poisoned block with all 32 lines rewritten is whole. -/
def freshLines (s : State) (ls : List Nat) : State :=
  let m := s.mem
  let hit := ls.filter fun l => m.poison.contains (l / 32) && !m.fresh.contains l
  let s1 := { s with mem := { m with aFailed := m.aFailed.filter (fun l => !ls.contains l),
                                     ceLines := m.ceLines.filter (fun l => !ls.contains l), fresh := m.fresh ++ hit } }
  clearPoison s1 ((hit.map (· / 32)).eraseDups.filter fun b => (List.range 32).all fun k => s1.mem.fresh.contains (b * 32 + k))

/-- A write by anyone but loader, encoder, repair and migration: the bytes, length bytes of the blocks to 0xFF (R277),
fresh check bytes of the lines it covers. -/
def memWrite (s : State) (a : Nat) (bs : List Byte) : State :=
  let s1 := memPutRun s a bs
  let s2 := (blocksOf a bs.length).foldl (fun s b =>
    match regionAt s (b * 2048) with
    | some n => if inLenTable (regionOf s n) (b * 2048) || (regionOf s n).cls == .a then s else setLen s b 0xFF
    | none => s) s1
  freshLines s2 (wholeLines a bs.length)

/-- The partitions that map a region: all for SHARED, the owner otherwise (R469). -/
def mappers (s : State) (r : Region) : List Nat :=
  if r.owner < 8 then [r.owner] else if r.owner = 8 then livePartitions s else []

/-- Whether a requester partition may read a region (R249). -/
def mayRead (r : Region) (p : Nat) : Bool := r.owner == p || r.owner == 8

/-- Whether a partition may write a region: its own, not class W (R249). -/
def mayWrite (r : Region) (p : Nat) : Bool := r.owner == p && r.cls != .w

/-- Pages of a partition whose bytes or metadata lie in a block of a POOL. -/
def pageInBlock (s : State) (p b : Nat) : List Nat :=
  (partOf s p).pages.filterMap fun e =>
    let a := pageAddr s p e.1
    if e.2.st != .free && decide (a ≤ b * 2048) && decide (b * 2048 < a + (partOf s p).poolPage * 4096) then some e.1 else none

/-- Blocks queued in a lane (R280): from the read of their length byte until their last byte is forwarded. -/
def laneQueued (x : Lane) : Nat := x.reads.length + ((x.gather.flatten ++ x.places.flatten).map Prod.fst).eraseDups.length

/-- Blocks queued under a code-table slot of die `d` (R280). -/
def slotQueued (s : State) (d slot : Nat) : Nat :=
  ((s.exps.lanes.filter fun e => e.1 / 128 == d && (e.2.list.head?.map FeedEntry.codeSlot) == some slot).map fun e =>
    laneQueued e.2).sum

/-- Mark the executing step of a partition tainted by a class W or S event (R469). -/
def taintStep (s : State) (p event block : Nat) : State :=
  match (partOf s p).exec with
  | none => s
  | some e =>
    if e.taint.isSome then s
    else
      let s1 := modPart s p fun x => { x with exec := some { e with taint := some event, event := event } }
      pushErr s1 .taint { status := .tainted, part := p, event := event, step := e.num, block := some block }

/-- Event code of an uncorrectable error in a region. -/
def poisonEvent (r : Region) : Nat := if r.cls == .w then 0x10 else 0x11

/-- A read of a poisoned block by a partition's step taints it (R258, R469). -/
def readPoisoned (s : State) (p b : Nat) : State :=
  match regionAt s (b * 2048) with
  | some n => taintStep s p (poisonEvent (regionOf s n)) (b * 2048)
  | none => s

end Sys2Proof.Machine
end

