-- ==== Sys2Proof/Machine/Pages.lean ====
section
/-! DEFINITION. Shared pages, eviction, pre-emption and swap (R319, R345 to R355). -/

namespace Sys2Proof.Machine

/-- The private pages of a slot: named by it and not shared (R352). -/
def privatePages (s : State) (n : Nat) : List Nat :=
  let x := slotOf s n
  x.sets.flatten.filter fun k => k != noPage && !isShared (pageOf (partOf s x.part) k)

/-- Private pages of a slot in one POOL. -/
def privateIn (s : State) (n pool : Nat) : Nat := ((privatePages s n).filter fun k => k / 2 ^ 32 == pool).length

/-- Bytes of a block in stored form (R436): its length byte and (L + 1) × 8 bytes, or 2,048. -/
def storedBytes (s : State) (b : Nat) : Nat := 1 + (if lenOf s b = 0xFF then 2048 else (lenOf s b + 1) * 8)

/-- Blocks in stored form (R436): a length byte L each, then (L + 1) × 8 bytes, or 2,048. -/
def storedBlocks : Nat → List Byte → List (Nat × List Byte)
  | 0, _ => []
  | _, [] => []
  | f + 1, l :: r =>
    let n := if l.toNat = 0xFF then 2048 else (l.toNat + 1) * 8
    (l.toNat, r.take n) :: storedBlocks f (r.drop n)

/-- KV heads per page of a partition's bundle with head width `hw` (R337). -/
def headsOf (s : State) (p hw : Nat) : Nat := if hw = 0 then (partOf s p).poolMeta else (partOf s p).poolPage * 4096 / (128 * hw)

/-- KV heads per page of a slot's bundle. -/
def slotHeads (s : State) (n : Nat) : Nat :=
  headsOf s (slotOf s n).part (((slotBundle s (slotOf s n)).map fun b => b.img.params.hw).getD 0)

/-- Bytes of the swap record of a page with `h` metadata blocks (R352). -/
def swapBytes (s : State) (p h k : Nat) : Nat :=
  let x := partOf s p
  let raw := x.poolPage * 4096
  let body := if (pageOf x k).st == .sealed then
      ((List.range (raw / 2048)).map fun i => storedBytes s (blockOf (pageAddr s p k) + i)).sum
    else raw
  16 + h * 2048 + body + 4

/-- Whether swap can be used now (R353, R385). -/
def swapUsable (s : State) (p : Nat) : Bool := (partOf s p).swapArea.isSome && !s.hif.belowMin && s.hif.hostUp

/-- The swap area in use: what lies there and what is on its way (R352, R353). -/
def refreshSwap (s : State) (p : Nat) : State :=
  let due := ((slotsOf s p).flatMap fun n => (slotOf s n).swapped.map (swapBytes s p (slotHeads s n))).sum
  modPart s p fun q => { q with swapUsed := (q.swaps.map SwapRec.bytes).sum + due }

/-- The pages of a slot whose contents are lost or whose place is: poisoned, or in a pool's withdrawn range (R351, R358). -/
def lostPages (s : State) (n : Nat) : List Nat :=
  let x := slotOf s n
  x.sets.flatten.filter fun k => k != noPage &&
    ((pageOf (partOf s x.part) k).poisoned || decide (poolLimit s x.part (k / 2 ^ 32) ≤ k % 2 ^ 32))

/-- A pre-empted slot loses the pages `ks` that it still names: it becomes a recompute slot without a host copy (R351, R353). -/
def forgetSwap (s : State) (n : Nat) (ks : List Nat) : State :=
  let x := slotOf s n
  let gone := (privatePages s n ++ x.sets.flatten.filter ks.contains).eraseDups
  let s1 := modPart s x.part fun q => gone.foldl dropRef { q with swaps := q.swaps.filter fun r => r.slot != n }
  refreshSwap (modSlot s1 n fun x => { x with
    sets := dropKeys x.sets (noPage :: gone), swapped := [], toRestore := [], recompute := true, filled := 0, moves := [] }) x.part

/-- Pre-empt a slot (R352, R353): PREEMPTED, its record and STATE completion, its private pages to swap or freed; a slot chosen to
recompute gives up the pages it lost too (R358). -/
def preempt (s : State) (n : Nat) : State :=
  let x := slotOf s n
  let ks := if x.recompute then (privatePages s n ++ lostPages s n).eraseDups else privatePages s n
  let need := (ks.map (swapBytes s x.part (slotHeads s n))).sum
  let size := ((partOf s x.part).swapArea.map Prod.snd).getD 0
  let swap := !x.recompute && swapUsable s x.part && decide ((partOf s x.part).swapUsed + need ≤ size)
  let q := partOf s x.part
  let q1 := { q with preemptions := satAdd 32 q.preemptions 1,
                     swapUsed := if swap then q.swapUsed + need else q.swapUsed }
  let q2 := if swap then q1 else ks.foldl dropRef q1
  let s1 := setPart s x.part q2
  let s2 := setSlot s1 n
    { x with st := .preempted, back := x.st, preAt := nowNs s, doomed := false, recompute := !swap,
             swapped := if swap then ks else [], sets := if swap then x.sets else dropKeys x.sets ks,
             filled := if swap then x.filled else 0, moves := if swap then x.moves else [], events := if x.lc then x.events else [] }
  let s3 := pushErr s2 .kvPreempt { status := .preempted, part := x.part, detail := [n, if swap then 0 else 1] }
  let d := 4 + (if swap then 0 else 1) * 256 + x.delivered * 2 ^ 32
  let s4 := journal s3 (slotSrc (slotOf s3 n) n) 5 .preempted d
  postSlotCpl s4 n (slotCpl s4 (slotOf s4 n) n 5 .preempted d true)

/-- Since when a slot waits: the last boundary at which it had a column, or its admission (R311, R351). -/
def idleFrom (x : Slot) : Nat := max x.lastCol x.admTime

/-- Slots that can be victims for a pool, longest idle first, then more private pages, then the higher number (R351). -/
def victims (s : State) (p pool : Nat) (busy : List Nat) (lcToo : Bool) : List Nat :=
  let ok := (slotsOf s p).filter fun n =>
    let x := slotOf s n
    !busy.contains n && (isLc x == lcToo) && decide (0 < privateIn s n pool) &&
      (x.st == .prefill || x.st == .decode) && !x.doomed
  let before (a b : Nat) : Bool :=
    let la := idleFrom (slotOf s a)
    let lb := idleFrom (slotOf s b)
    if la ≠ lb then decide (la < lb)
    else if privateIn s a pool ≠ privateIn s b pool then decide (privateIn s b pool < privateIn s a pool)
    else decide (b ≤ a)
  ok.mergeSort before

/-- Whether a slot has a column in the running or the composed step. -/
def inSteps (s : State) (n : Nat) : Bool :=
  let q := partOf s (slotOf s n).part
  (q.exec.toList ++ q.composed.toList).any fun e => (stepSlots e).contains n

/-- Choose a victim: it enters PREEMPTED at the first boundary after which it has no composed column (R352). -/
def doom (s : State) (n : Nat) : State := modSlot s n fun x => { x with doomed := true }

/-- Choose a slot whose pages are lost: it enters PREEMPTED as a recompute slot (R353, R357, R358). -/
def doomLost (s : State) (n : Nat) : State := modSlot s n fun x => { x with doomed := true, recompute := true }

/-- Pre-empt every doomed slot with no column in a step. -/
def preemptDoomed (s : State) (p : Nat) : State :=
  ((slotsOf s p).filter fun n => (slotOf s n).doomed && !inSteps s n &&
    ((slotOf s n).st == .prefill || (slotOf s n).st == .decode)).foldl preempt s

/-- Pre-empt the doomed slots at once where no step runs: the boundary they wait for has passed (R352). -/
def preemptIdle (s : State) (p : Nat) : State := if (partOf s p).exec.isNone then preemptDoomed s p else s

/-- Whether a node's pages are on their way to a CACHE partition (R356). -/
def isSpilling (nd : PNode) : Bool := nd.remote.isSome && !nd.pages.isEmpty

/-- Whether a node may be evicted: no child, no live request references its pages (R319), and they are not on their way out. -/
def evictable (s : State) (p : Nat) (nd : PNode) : Bool :=
  let q := partOf s p
  !isSpilling nd && !(q.nodes.any fun m => m.parent == some nd.hash) &&
    !((slotsOf s p).any fun n => (slotOf s n).sets.any fun ps => ps.any nd.pages.contains)

/-- The least recently matched evictable node that satisfies a test. -/
def evictChoice (s : State) (p : Nat) (ok : PNode → Bool) : Option PNode :=
  ((partOf s p).nodes.filter fun nd => ok nd && evictable s p nd).foldl (fun acc nd => match acc with
    | none => some nd
    | some m => if nd.matched < m.matched then some nd else some m) none

/-- Remove a node and its references. -/
def removeNode (s : State) (p : Nat) (nd : PNode) : State :=
  modPart s p fun x => untree (nd.pages.foldl dropRef { x with nodes := x.nodes.erase nd }) nd.pages

/-- Whether a target of a role table is a CACHE partition: on this module by its role; what role another module's partition has is
not known here (notes/assumptions/18.md). -/
def isCache (s : State) (t : Nat × Nat) : Bool :=
  if t.1 = s.lnk.modNum then (partOf s t.2).role == .cache else Sys2Proof.Config.remoteCache t.1 t.2

/-- The CACHE partition a partition spills to: the first its role table names (R356). -/
def cacheTarget (s : State) (p : Nat) : Option (Nat × Nat) := (partOf s p).targets.find? (isCache s)

end Sys2Proof.Machine
end

