-- ==== Sys2Proof/Machine/Fence.lean ====
section
/-! DEFINITION. Unit counts, suspicion and fences, what a fence takes with it, and poison (R24, R257-R269, R309,
R456-R472). -/

namespace Sys2Proof.Machine

/-! ### States of units (R456 to R458) -/

/-- Change a unit's state: its record of SEV 6 and a ledger entry of OBJ 9 (R456). -/
def unitTo (s : State) (u : UnitId) (st : USt) (c : RecCode) (event : Nat) (detail : List Nat) : State :=
  let r := unitRec s u
  let r' := { r with st := st, since := nowNs s,
                     events := if st == .inService then [] else r.events,
                     passed := if st == .inService then some (nowNs s) else r.passed }
  let s1 := pushErr (setUnit s r') c { unit := u, event := event, detail := detail }
  ledger s1 .firmware { obj := 9, target := 0, old := r.st.code, new := st.code }

/-- Die of a unit, for RAS maps. -/
def unitDies (u : UnitId) : List Nat := if u.die < 16 then [u.die] else []

/-! ### Channels (R263 to R268) -/

/-- LOCAL bucket counts of the channels of die `d`. -/
def localCounts (s : State) (d : Nat) : List Nat :=
  (List.range 32).map fun c => ((List.range 4096).filter fun b => lmapOf s d b == d * 32 + c).length

/-- SPREAD bucket counts of all channels. -/
def spreadCount (s : State) (c : Nat) : Nat := ((List.range 65536).filter fun b => smapOf s b == c).length

/-- Whether channel `c` (die × 32 + channel) takes work. -/
def chanOk (s : State) (c : Nat) : Bool :=
  !isFenced s (chanUnit c) && !isFenced s (dieUnit (c / 32))

/-- The position of the least count among usable channels, the first of equals. -/
def leastOf (cs : List (Nat × Nat)) : Option Nat :=
  (cs.foldl (fun acc x => match acc with
    | none => some x
    | some y => if x.2 < y.2 then some x else some y) none).map Prod.fst

/-- Reassign buckets one by one, each to the channel with the fewest (R263): moves and new counts. -/
def assignBuckets (spread : Bool) : List Nat → List (Nat × Nat) → List BucketMove
  | [], _ => []
  | b :: r, cs =>
    match leastOf cs with
    | none => []
    | some c => ⟨spread, b, c, .old⟩ :: assignBuckets spread r (cs.map fun x => if x.1 = c then (c, x.2 + 1) else x)

/-- The buckets of a channel that is fenced or to be, and where they go (R263). -/
def planMoves (s : State) (c : Nat) : List BucketMove :=
  let d := c / 32
  let lc := localCounts s d
  let locals := (List.range 4096).filter fun b => lmapOf s d b == c
  let ok (x : Nat) : Bool := chanOk s x && x != c
  let dst := ((List.range 32).map fun i => (d * 32 + i, lc.getD i 0)).filter fun x => ok x.1
  let sp := (List.range 65536).filter fun b => smapOf s b == c
  let sdst := ((List.range 512).filter ok).map fun x => (x, spreadCount s x)
  assignBuckets false locals dst ++ assignBuckets true sp sdst

/-- Put moves into the maps. -/
def applyMoves (s : State) (d : Nat) (ms : List BucketMove) : State :=
  let lm := ms.foldl (fun t m => if m.spread then t else tabSet t (d * 4096 + m.bucket) (some m.dst) none) s.mem.lmap
  let sm := ms.foldl (fun t m => if m.spread then tabSet t m.bucket (some m.dst) none else t) s.mem.smap
  { s with mem := { s.mem with lmap := lm, smap := sm } }

/-- The valid regions. -/
def validRegions (s : State) : List Nat := (tabKeys s.mem.regions).filter fun n => (regionOf s n).valid

/-- Bytes of a region that have backing: less its withdrawn top and the mirror copies withdrawn from it (R264). -/
def backed (s : State) (n : Nat) : Nat :=
  let r := regionOf s n
  let cut := (s.mem.gone.filter fun g => decide (r.base * gib ≤ g.1 * 2048) && decide (g.1 * 2048 < (r.base + r.size) * gib)).map
    fun g => g.2 * 2048
  r.size * gib - r.withdrawn * 2 ^ 21 - cut.sum

/-- A channel's load in bytes: its buckets' shares of the regions it serves (R264). -/
def chanLoad (s : State) (c : Nat) : Nat :=
  let d := c / 32
  let lb := (localCounts s d).getD (c % 32) 0
  let sb := spreadCount s c
  ((validRegions s).map fun n =>
    let r := regionOf s n
    if r.spread then backed s n * sb / 65536 else if r.die = d then backed s n * lb / 4096 else 0).sum

/-- Non-withdrawable bytes of a die (R265). -/
def dieFixed (s : State) (d : Nat) : Nat :=
  ((validRegions s).map fun n =>
    let r := regionOf s n
    let keep := (r.size - r.pool) * gib
    if r.spread then keep / 16 else if r.die = d then keep else 0).sum

/-- Effective capacity of a die: 4 GiB × 4,096 / Bmax (R265). -/
def dieCapacity (s : State) (d : Nat) : Nat :=
  let m := (localCounts s d).foldl max 1
  4 * gib * 4096 / m

/-- Pools that can give capacity for die `d`, in the order of R264. -/
def withdrawOrder (s : State) (d : Nat) : List Nat :=
  let ps := (validRegions s).filter fun n => (regionOf s n).cls == .s && decide (0 < (regionOf s n).pool)
  let loc := ps.filter fun n => !(regionOf s n).spread && (regionOf s n).die == d
  let byPart := (List.range 10).reverse.flatMap fun o => loc.filter fun n => (regionOf s n).owner == o
  byPart ++ ps.filter fun n => (regionOf s n).spread

/-- Size of one withdrawal of a region in 2 MiB units: 2 MiB LOCAL, 256 MiB SPREAD (R264). -/
def withdrawStep (r : Region) : Nat := if r.spread then 128 else 1

/-- Pages of a pool at or above a page number. -/
def pagesAbove (s : State) (p n lim : Nat) : List Nat := (poolUsed (partOf s p) n).filter fun i => decide (lim ≤ i)

/-- Free a page's holders: every node with a page among `ks` is dropped and every sequence with one is to be pre-empted, to
recompute where the pages are `lost` or another sequence shares one; a slot that is PREEMPTED already gives them up
(R264, R351, R358). -/
def evictPages (s : State) (p : Nat) (ks : List Nat) (lost : Bool) : State :=
  let s1 := modPart s p fun x =>
    let gone := x.nodes.filter fun nd => nd.pages.any ks.contains
    untree ((gone.flatMap PNode.pages).foldl dropRef { x with nodes := x.nodes.filter fun nd => !nd.pages.any ks.contains })
      (gone.flatMap PNode.pages)
  (slotsOf s1 p).foldl (fun s n =>
    let x := slotOf s n
    let mine := x.sets.flatten.filter ks.contains
    if mine.isEmpty || x.st == .closing then s
    else if x.st == .preempted then forgetSwap s n ks
    else if lost || mine.any fun k => isShared (pageOf (partOf s p) k) then doomLost s n
    else doom s n) s1

/-- Withdraw one more range from region `n` (R264). -/
def withdrawOne (s : State) (n : Nat) : State :=
  let r := regionOf s n
  let r' := { r with withdrawn := r.withdrawn + withdrawStep r }
  let s1 := { s with mem := { s.mem with regions := tabSet s.mem.regions n r' Region.init } }
  let lim := poolLimit s1 r.owner n
  preemptIdle (evictPages s1 r.owner ((pagesAbove s1 r.owner n lim).map (pageKey n)) false) r.owner

/-- Whether region `n` can give one more range, holding only free pages when `freeOnly`. -/
def canWithdraw (s : State) (n : Nat) (freeOnly : Bool) : Bool :=
  let r := regionOf s n
  let r' := { r with withdrawn := r.withdrawn + withdrawStep r }
  let s1 := { s with mem := { s.mem with regions := tabSet s.mem.regions n r' Region.init } }
  decide ((r.withdrawn + withdrawStep r) * 2 ^ 21 ≤ r.pool * gib) &&
    (!freeOnly || (pagesAbove s r.owner n (poolLimit s1 r.owner n)).isEmpty)

/-! ### Mirror copies (R299) -/

/-- Blocks a tensor takes: its own and those its scales run into. -/
def tensorBlocks (t : Tensor) : Nat := t.blocks.length + ceilDiv (4 * t.scales.length) 2048

/-- The W region that holds a block and that partition `p` may load: its own, or SHARED for a SHARED bundle. -/
def loadRegion (s : State) (p : Nat) (shared : Bool) (b : Nat) : Option Nat :=
  (validRegions s).find? fun n =>
    let r := regionOf s n
    r.cls == .w && r.owner == (if shared then 8 else p) && decide (r.base * gib ≤ b * 2048) &&
      decide (b * 2048 < (r.base + r.size) * gib)

/-- The die whose stack holds a block of a region: DIE, or for a SPREAD region that of the block's bucket, before any fence
moves it (R250, notes/assumptions/64.md). -/
def blockDie (r : Region) (b : Nat) : Nat := if r.spread then bucketDie (spreadBucket (b * 2048 - r.base * gib)) else r.die

/-- The mirror block of a block (R299): the same offset of the W region of the same owner LOCAL to die d + 8. -/
def mirrorOf (s : State) (p : Nat) (shared : Bool) (b : Nat) : Option Nat :=
  (loadRegion s p shared b).bind fun n =>
    let r := regionOf s n
    ((validRegions s).find? fun m =>
      let q := regionOf s m
      q.cls == .w && q.owner == r.owner && !q.spread && q.die == (blockDie r b + 8) % 16).map fun m =>
        (regionOf s m).base * gib / 2048 + (b - r.base * gib / 2048)

/-- The mirror copies of a tensor, as (primary block, mirror block, blocks): one run for a LOCAL region, one for each block of a
SPREAD one (R299). -/
def tensorMirrors (s : State) (p : Nat) (shared : Bool) (t : Tensor) : List (Nat × Nat × Nat) :=
  let runs (b n : Nat) : List (Nat × Nat × Nat) := ((mirrorOf s p shared b).map fun m => (b, m, n)).toList
  if (loadRegion s p shared t.dest).any fun n => (regionOf s n).spread then
    (List.range (tensorBlocks t)).flatMap fun i => runs (t.dest + i) 1
  else runs t.dest (tensorBlocks t)

/-- The mirror copies of a bundle version, as (primary block, mirror block, blocks). -/
def mirrorRuns (s : State) (e : BundleEnt) : List (Nat × Nat × Nat) :=
  if !e.img.mirror then [] else e.img.tensors.flatMap (tensorMirrors s e.part e.img.shared)

/-- Every bundle entry. -/
def bundleEnts (s : State) : List BundleEnt := s.cmp.bundles.filterMap Prod.snd

/-- Mirror copies held in a die's stack and not withdrawn (R264, R299). -/
def mirrorsOn (s : State) (d : Nat) : List (Nat × Nat) :=
  (bundleEnts s).flatMap fun e => (mirrorRuns s e).filterMap fun r =>
    match regionAt s (r.2.1 * 2048) with
    | some n => if !(regionOf s n).spread && (regionOf s n).die == d then some r.2 else none
    | none => none

/-- A repair ends for a block: composition resumes for the partitions that map it once no repair of theirs is left. -/
def endRepair (s : State) (b : Nat) : State :=
  let s1 := { s with ras := { s.ras with repairs := s.ras.repairs.filter fun r => r.block != b } }
  match regionAt s1 (b * 2048) with
  | none => s1
  | some n => (mappers s1 (regionOf s1 n)).foldl (fun s p => modPart s p fun q => { q with stopWhy := q.stopWhy.erase 0x10 }) s1

/-- Withdraw a mirror copy (R264, R299): its range has no backing from here on, and no repair of its blocks goes on. -/
def withdrawMirror (s : State) (r : Nat × Nat) : State :=
  let due := (s.ras.repairs.map Repair.block).filter fun b => decide (r.1 ≤ b) && decide (b < r.1 + r.2)
  due.foldl endRepair { s with mem := { s.mem with gone := s.mem.gone ++ [r] } }

/-- Whether a die has a channel in service above 4 GiB (R264). -/
def dieOver (s : State) (d : Nat) : Bool :=
  (List.range 32).any fun i => chanOk s (d * 32 + i) && decide (4 * gib < chanLoad s (d * 32 + i))

/-- The first pass of R264: free ranges, from the first pool in the order whose top range holds only free pages. -/
def withdrawFree : Nat → State → Nat → State
  | 0, s, _ => s
  | f + 1, s, d =>
    if !dieOver s d then s
    else match (withdrawOrder s d).find? fun n => canWithdraw s n true with
      | some n => withdrawFree f (withdrawOne s n) d
      | none => s

/-- The second pass of R264: the top range of each pool of `ps` in turn, then round again through the order. -/
def withdrawUsed : Nat → State → Nat → List Nat → State
  | 0, s, _, _ => s
  | f + 1, s, d, ps =>
    if !dieOver s d then s
    else match ps with
      | n :: r => withdrawUsed f (if canWithdraw s n false then withdrawOne s n else s) d r
      | [] => match (withdrawOrder s d).filter fun n => canWithdraw s n false with
        | [] => s
        | qs => withdrawUsed f s d qs

/-- The third pass of R264: the mirror copies in the die's stack. -/
def withdrawMirrors : Nat → State → Nat → State
  | 0, s, _ => s
  | f + 1, s, d =>
    if !dieOver s d then s
    else match (mirrorsOn s d).head? with
      | some r => withdrawMirrors f (withdrawMirror s r) d
      | none => s

/-- Withdraw capacity until every channel of the die fits 4 GiB, in the three passes of R264; a die has no more ranges than the
steps allowed. -/
def withdrawFor (s : State) (d : Nat) : State :=
  withdrawMirrors 1048576 (withdrawUsed 1048576 (withdrawFree 1048576 s d) d (withdrawOrder s d)) d

/-- Withdraw what a remap asks for: on the fenced channel's die, then on every die that took SPREAD buckets (R264). -/
def withdrawAll (s : State) (d : Nat) : State := (d :: (List.range 16).filter (· != d)).foldl withdrawFor s

/-- Partitions with a region on a channel's die, or any SPREAD region (Table 15-2, 0x0003). -/
def chanParts (s : State) (c : Nat) : List Nat :=
  (livePartitions s).filter fun p => (validRegions s).any fun n =>
    let r := regionOf s n
    (mappers s r).contains p && (r.spread || r.die == c / 32)

/-- Stop composition of partitions until an event's work is done (R467, R469). -/
def stopParts (s : State) (ps : List Nat) (why : Nat) : State :=
  ps.foldl (fun s p => modPart s p fun x => { x with stopWhy := x.stopWhy ++ [why] }) s

/-- Event code of a fence by unit kind (Table 19-4). -/
def fenceEvent : UKind → Nat
  | .tile => 1 | .scoreRow => 2 | .channel => 3 | .expander => 4 | .computeDie => 5 | .core => 6 | .soInst => 7
  | .edgeLink => 0x20 | .port => 0x21 | .none => 0

/-- What a partition waits for after a unit's fence: that unit's rebalance (R467, Table 15-2). -/
def stopCode (u : UnitId) : Nat := fenceEvent u.kind + 2 ^ 8 * (u.die + 2 ^ 8 * (u.unit + 1))

/-- Withdraw a composed step that has not started (R469); its pages stay with their slots. -/
def dropComposed (s : State) (ps : List Nat) : State :=
  ps.foldl (fun s p => modPart s p fun x => { x with composed := none }) s

/-- An abandonment for a fence or a lost link: recomposed as a new step (R24, R315). -/
def fenceAbandon (event : Nat) : Abandon := ⟨.fenced, event, true, none, true, 0, none, true, false⟩

/-- Abandon the steps of partitions for an event. -/
def abandonParts (s : State) (ps : List Nat) (event : Nat) : State :=
  ps.foldl (fun s p => abandonStep s p (fenceAbandon event)) s

/-! ### Links and cores -/

/-- Row and column of a compute die (R13). -/
def dieRow (d : Nat) : Nat := d / 4
/-- Column of a compute die. -/
def dieCol (d : Nat) : Nat := d % 4

/-- Steps of one move along a row or a column: the links crossed, as (die, direction N 0, E 1, S 2, W 3) (R15). -/
def lineLinks (alongRow : Bool) (fixed : Nat) (a b : Nat) : List (Nat × Nat) :=
  if a ≤ b then (List.range (b - a)).map fun i =>
    if alongRow then (fixed * 4 + a + i, 1) else ((a + i) * 4 + fixed, 2)
  else (List.range (a - b)).map fun i =>
    if alongRow then (fixed * 4 + a - i, 3) else ((a - i) * 4 + fixed, 0)

/-- Links of the row-first path between two compute dies, or of the column-first one (R15, R467). -/
def pathLinks (rowFirst : Bool) (x y : Nat) : List (Nat × Nat) :=
  if rowFirst then lineLinks true (dieRow x) (dieCol x) (dieCol y) ++ lineLinks false (dieCol y) (dieRow x) (dieRow y)
  else lineLinks false (dieCol x) (dieRow x) (dieRow y) ++ lineLinks true (dieRow y) (dieCol x) (dieCol y)

/-- The compute-die end of endpoint `i` of XD die `x` (0-3): XD0 north, XD1 east, XD2 south, XD3 west (R13, R14). -/
def xdLink (x i : Nat) : Nat × Nat :=
  match x with
  | 0 => (i, 0)
  | 1 => (4 * i + 3, 1)
  | 2 => (12 + i, 2)
  | _ => (4 * i, 3)

/-- The other end of an edge link, as (die, direction): the neighbouring compute die, the XD die on the package edge with
its endpoint 0-3, or for an XD die's endpoint the compute die it reaches (R13, R14). -/
def linkOther (d dir : Nat) : Nat × Nat :=
  if 16 ≤ d then xdLink (d - 16) dir
  else match dir with
    | 0 => if dieRow d = 0 then (16, dieCol d) else (d - 4, 2)
    | 1 => if dieCol d = 3 then (17, dieRow d) else (d + 1, 3)
    | 2 => if dieRow d = 3 then (18, dieCol d) else (d + 4, 0)
    | _ => if dieCol d = 0 then (19, dieRow d) else (d - 1, 1)

/-- Whether a link is fenced, seen from either end. -/
def linkFenced (s : State) (d dir : Nat) : Bool :=
  isFenced s ⟨.edgeLink, d, dir⟩ || isFenced s ⟨.edgeLink, (linkOther d dir).1, (linkOther d dir).2⟩

/-- How far endpoint `i` of XD die `x` lies from compute die `d`: its offset along the package edge (R15). -/
def xdOffset (x d i : Nat) : Nat :=
  let c := if x % 2 = 0 then dieCol d else dieRow d
  if i ≤ c then c - i else i - c

/-- The endpoint where traffic from XD die `x` to compute die `d` enters: the nearest of those that `ok` admits, the lower
of equals (R15, R467). -/
def xdEntry (ok : Nat → Bool) (x d : Nat) : Option Nat :=
  ((List.range 4).filter ok).foldl (fun a i => match a with
    | none => some i
    | some j => if xdOffset x d i < xdOffset x d j then some i else some j) none

/-- Links of the path from XD die `x` (0-3) to compute die `d`: in at its entry, then row first or column first (R15,
R467); none when no entry is in service. -/
def xdPath (ok : Nat → Bool) (rowFirst : Bool) (x d : Nat) : List (Nat × Nat) :=
  match xdEntry ok x d with
  | none => []
  | some i => xdLink x i :: pathLinks rowFirst (xdLink x i).1 d

/-- Whether two dies are joined in row-first or column-first order over links in service. -/
def joined (s : State) (x y : Nat) : Bool :=
  (pathLinks true x y).all (fun l => !linkFenced s l.1 l.2) || (pathLinks false x y).all (fun l => !linkFenced s l.1 l.2)

/-- Whether an edge link of XD die `x` is in service. -/
def xdLinkOk (s : State) (x i : Nat) : Bool := !linkFenced s (xdLink x i).1 (xdLink x i).2

/-- Compute dies a partition's traffic reaches: its own, and those whose stacks hold a region it maps. -/
def reachDies (s : State) (p : Nat) : List Nat :=
  (List.range 16).filter fun d => (partOf s p).dies.testBit d || (validRegions s).any fun n =>
    let r := regionOf s n
    (mappers s r).contains p && (r.spread || r.die == d)

/-- XD dies (0-3) whose Mirist ports carry packets that tiles of a partition send: six ports a die (Table 18-9). -/
def portXds (s : State) (p : Nat) : List Nat :=
  (s.lnk.tx.flatMap fun f => match f.op with
    | .send t _ => if partOfTile s t == some p then f.pkts.map fun k => k.port / 6 else []
    | _ => []).filter (decide <| · < 4)

/-- XD dies by whose ports the partners of a partition's sends answer: the ways to the modules that packets come from, for a
partition that sends (R441). -/
def peerXds (s : State) (p : Nat) : List Nat :=
  if (portXds s p).isEmpty then []
  else (s.lnk.rx.map fun r => (tabGet s.lnk.routes r.smod Route.init).primary / 6).filter (decide <| · < 4)

/-- The links a partition's traffic crosses, each by either end: the paths between its dies and those it reaches, and the
paths from the XD dies its traffic enters by: XD0, which carries the host's, its sorting office's, and those whose ports carry
its packets. The way out to an XD die takes the links of the way in (R15, Table 15-2, notes/assumptions/68.md). -/
def crossesLink (s : State) (p : Nat) (l : Nat × Nat) : Bool :=
  let on (ls : List (Nat × Nat)) : Bool := ls.contains l || ls.contains (linkOther l.1 l.2)
  let ds := reachDies s p
  (diesOf (partOf s p)).any (fun x => ds.any fun y => on (pathLinks true x y) || on (pathLinks true y x)) ||
    ([0, (partOf s p).soInst] ++ portXds s p ++ peerXds s p).any fun x => ds.any fun y => on (xdPath (xdLinkOk s x) true x y)

/-- Partitions whose traffic crosses a link (Table 15-2, 0x0020). -/
def linkParts (s : State) (d dir : Nat) : List Nat := (livePartitions s).filter fun p => crossesLink s p (d, dir)

/-- The core that tracks a slot (R309). -/
def coreOf (s : State) (n : Nat) : Nat := (tabGet s.ras.coreOf n none).getD (n % 32)

/-- The unit of a core of the pool. -/
def coreUnit (c : Nat) : UnitId := ⟨.core, 16 + c / 8, c % 8⟩

/-- Cores in service, ascending. -/
def liveCores (s : State) : List Nat :=
  (List.range 32).filter fun c => !isFenced s (coreUnit c) && unitSt s (coreUnit c) != .testing

/-- Live slots a core tracks. -/
def coreLoad (s : State) (c : Nat) : Nat := (s.slots.filter fun e => e.2.st != .free && coreOf s e.1 == c).length

/-- Hand a slot to the least-loaded core in service (R309). -/
def handSlot (s : State) (n : Nat) : State :=
  match leastOf ((liveCores s).map fun c => (c, coreLoad s c)) with
  | none => s
  | some c => { s with ras := { s.ras with coreOf := tabSet s.ras.coreOf n (some c) none } }

/-- A slot that a submission takes has a core in service (R309). -/
def trackedBy (s : State) (n : Nat) : State := if (liveCores s).contains (coreOf s n) then s else handSlot s n

/-- With every core in service again, core s mod 32 tracks slot s (R309). -/
def homeCores (s : State) : State :=
  if (liveCores s).length = 32 then { s with ras := { s.ras with coreOf := [] } } else s

/-- Hand every live slot of a core over, ascending (R309). -/
def handCore (s : State) (c : Nat) : State :=
  ((s.slots.filter fun e => e.2.st != .free && coreOf s e.1 == c).map Prod.fst).foldl handSlot s

/-! ### Poison (R257, R260, R469) -/

/-- An adapter version whose data a block held: marked poisoned, its bound requests complete with POISONED (R471). -/
def poisonAdapter (s : State) (hit : Adapter) : State :=
  let as := s.cmp.adapters.map fun a => if a == hit then { a with poisoned := true, current := false } else a
  let s1 := { s with cmp := { s.cmp with adapters := as } }
  closeSlots s1 ((slotsOf s1 hit.part).filter fun n => (slotOf s1 n).adapter == some (hit.id, hit.version)) .poisoned

/-- The adapter versions whose data block `b` holds. -/
def adaptersIn (s : State) (b : Nat) : List Adapter :=
  s.cmp.adapters.filter fun a => decide (a.addr / 2048 ≤ b) && decide (b * 2048 < a.addr + a.bytes)

/-- What a class S block held, when it is neither a page of a POOL nor adapter data (R471). -/
def poisonContents (s : State) (b : Nat) : State :=
  let (k, p, i) := Sys2Proof.Config.sContents b
  match k with
  | 2 => if (slotOf s i).st == SlotSt.free then s else closeSlot s i 5 .poisoned
  | 3 => modPart s p fun x =>
      let gone := x.nodes.getD i ⟨0, [], [], none, 0, 0, none⟩
      untree (gone.pages.foldl dropRef { x with nodes := x.nodes.erase gone }) gone.pages
  | 4 => { s with log := { s.log with lost := s.log.lost ++ [(p, i)] } }
  | 5 => modPart s p fun x => modCtx x i fun c => { c with betweenSteps := true }
  | _ => s

/-- Holders of poisoned pages recompute (R358, R471): POISONED is set and each holder becomes a recompute slot. -/
def poisonPages (s : State) (p b : Nat) : State :=
  let ks := pageInBlock s p b
  let as := adaptersIn s b
  if !as.isEmpty then as.foldl poisonAdapter s
  else if ks.isEmpty then poisonContents s b
  else
    let s1 := modPart s p fun x => ks.foldl (fun x k => modPage x k fun g => { g with poisoned := true }) x
    preemptIdle (evictPages s1 p ks true) p

/-- Who met an uncorrectable line: the table's reader number and the unit it names (Table 19-18). -/
structure Reader where
  num  : Nat
  unit : Nat

/-- Invalidate cached lines of a block in every tile of the partitions that map it (R198). -/
def dropCached (s : State) (b : Nat) : State :=
  let drop (x : Tile) : Tile :=
    let c := x.cache.map fun c => (c.1, c.2.filter fun l => decide (l.line * 128 / 2048 ≠ b))
    { x with cache := c.filter fun c => !c.2.isEmpty }
  { s with tiles := s.tiles.map fun e => (e.1, drop e.2) }

/-- The step that follows a poisoning (R469, R470): composition stopped, composed steps withdrawn, the event declared; a
class S block's contents are handled, a class W block is to be repaired. -/
def afterPoison (s : State) (r : Region) (b : Nat) : State :=
  let ps := mappers s r
  let s1 := declareEvent (dropComposed (stopParts s ps (poisonEvent r)) ps) (poisonEvent r) ps
  if r.cls == .s then
    ps.foldl (fun s p => modPart s p fun x => { x with stopWhy := x.stopWhy.erase (poisonEvent r) }) (poisonPages s1 r.owner b)
  else { s1 with ras := { s1.ras with repairs := s1.ras.repairs ++ [⟨b, 0, 0, none⟩] } }

/-- Whether a channel in service has its poison table full (R260). -/
def tableFull (s : State) (c : Nat) : Bool := !isFenced s (chanUnit c) && decide (1024 ≤ tableCount s c)

/-- Poison the block of a W or S line for channel `c`, which the record names and which counts the event (R257, R260): the
mark, cached lines dropped (R198), UE, MEM_POISON, MEM_POISON_FULL where the table is full, then what follows. -/
def poisonLine (s : State) (line c : Nat) (rd : Reader) : State :=
  let b := line / 32
  match regionAt s (line * 64) with
  | none => s
  | some n =>
    let r := regionOf s n
    if r.cls == .a || s.mem.poison.contains b then s
    else
      let t := chanOf s n (line * 64)
      let full := tableFull s t
      let m := { s.mem with poison := s.mem.poison ++ [b], badLine := tabSet s.mem.badLine b line 0,
                            ue := satAdd 16 s.mem.ue 1, surplus := if full then s.mem.surplus ++ [b] else s.mem.surplus }
      let s1 := dropCached { s with mem := m } b
      let u := unitRec s1 (chanUnit c)
      let s2 := setUnit s1 { u with events := u.events ++ [nowNs s1] }
      let s3 := pushErr s2 .memPoison { status := .poisoned, unit := chanUnit c, block := some (b * 2048),
                                        part := if r.owner < 8 then r.owner else 8, event := poisonEvent r,
                                        detail := [n, rd.num, rd.unit] }
      let s4 := if full then pushErr s3 .memPoisonFull { unit := chanUnit t, block := some (b * 2048) } else s3
      afterPoison s4 r b

/-! ### Fences -/

/-- The bundle versions that place data on a die, as (partition, bundle, version), those built on them too (R468). -/
def dieBundles (s : State) (d : Nat) : List (Nat × Nat × Nat) :=
  let onDie (b : Nat) : Bool := match regionAt s (b * 2048) with
    | some n => !(regionOf s n).spread && (regionOf s n).die == d
    | none => false
  let bs := s.cmp.bundles.filterMap fun e => e.2
  let hit := bs.filter fun b => b.img.tensors.any fun t => onDie t.dest
  let on (b : BundleEnt) : Bool := hit.contains b || hit.any fun h => b.img.base == some (h.img.id, h.digest)
  (bs.filter on).map fun b => (b.part, b.img.id, b.img.version)

/-- Live slots whose bound versions place work or data on a die (R468). -/
def dieSlots (s : State) (d : Nat) : List Nat :=
  let ks := dieBundles s d
  (s.slots.filter fun e => e.2.st != .free && (partOfDie s d == some e.2.part ||
    ks.contains (e.2.part, e.2.bundle, e.2.bver))).map Prod.fst

/-- The program versions that place work or data on a fenced die run no more, until the host loads others (R468). -/
def dieProgs (s : State) (d : Nat) : State :=
  let ks := dieBundles s d
  let gs := s.cmp.progs.map fun g =>
    if partOfDie s d == some g.part || ks.contains (g.part, g.bundle, g.bver) then { g with cannotRun := true } else g
  { s with cmp := { s.cmp with progs := gs } }

/-- A tile taken out of service: reset, with what it counts since reset kept (Table 8-10). -/
def fencedTile (x : Tile) : Tile :=
  { Tile.init with refused := x.refused, ce := x.ce, ue := x.ue, hits := x.hits, misses := x.misses }

/-- Fence a compute die (R468): its tiles take no work, its stack leaves the module with it. -/
def fenceDie (s : State) (d : Nat) : State :=
  if isFenced s (dieUnit d) then s
  else
    let s1 := unitTo s (dieUnit d) .fenced .unitFence 5 []
    let ps := (partOfDie s d).toList
    let s2 := dieProgs (closeSlots s1 (dieSlots s1 d) .fenced) d
    let s3 := abandonParts (declareEvent s2 5 ps) ps 5
    let s4 := stopParts s3 ps (stopCode (dieUnit d))
    let s5 := (List.range 64).foldl (fun s t => modTile s (d * 64 + t) fencedTile) s4
    { s5 with ras := { s5.ras with listDirty := true, rebal := s5.ras.rebal ++ [dieUnit d] } }

/-- The lines of a region on a channel, for the classes `ok` takes, outside withdrawn ranges. -/
def linesOn (s : State) (c : Nat) (ok : MemClass → Bool) : List Nat :=
  (validRegions s).flatMap fun n =>
    let r := regionOf s n
    if ok r.cls && (r.spread || r.die == c / 32) then
      ((List.range (r.size * gib / 64 - r.withdrawn * 2 ^ 15)).map (r.base * gib / 64 + ·)).filter fun l =>
        !isGone s (l / 32) && chanOf s n (l * 64) == c
    else []

/-- A channel that returns no data (R267): the W and S blocks with a line on it poisoned, its class A lines failed. -/
def loseLines (s : State) (c : Nat) (ls as' : List Nat) : State :=
  let s1 := ls.foldl (fun s l => poisonLine s l c ⟨5, 0⟩) s
  { s1 with mem := { s1.mem with aFailed := s1.mem.aFailed ++ as'.filter (fun l => !s1.mem.aFailed.contains l) } }

/-- Whether fencing a channel would leave its die's content above its capacity, so that the die is fenced instead (R265). -/
def overFence (s : State) (c : Nat) : Bool :=
  let s1 := applyMoves s (c / 32) (planMoves s c)
  decide (dieCapacity s1 (c / 32) < dieFixed s1 (c / 32))

/-- A bucket still on its way to channel `c`, which is fenced, goes back to its source's list with the place `ms` gives it
(R268). -/
def replan (c : Nat) (ms : List BucketMove) (g : Migration) : Migration :=
  { g with moves := g.moves.map fun v =>
      if v.dst == c && v.st != .new then
        (ms.find? fun w => w.spread == v.spread && w.bucket == v.bucket).getD v
      else v }

/-- Whether a migration still has a bucket on its way to channel `c`. -/
def onWay (s : State) (c : Nat) (m : BucketMove) : Bool :=
  s.mem.migs.any fun g => (m.spread || g.src / 32 == c / 32) && g.moves.any fun v =>
    v.dst == c && v.st != .new && v.spread == m.spread && v.bucket == m.bucket

/-- The first bucket still OLD begins its copy. -/
def nextBucket : List BucketMove → List BucketMove
  | [] => []
  | m :: r => match m.st with
    | .old => { m with st := .copying } :: r
    | .copying => m :: r
    | .new => m :: nextBucket r

/-- A migration that runs has a bucket in COPYING (R266). -/
def startCopy (g : Migration) : Migration := if g.running then { g with moves := nextBucket g.moves } else g

/-- What fencing a channel does to placement and capacity (R263, R264, R266 to R268): the maps, what is withdrawn, a silent
channel's lines, the buckets on their way to it planned again, and its own migration. -/
def fenceChannel (s0 : State) (c : Nat) : State :=
  let d := c / 32
  let dead := s0.mem.silent.contains c
  let ms := planMoves s0 c
  let own := ms.filter fun m => !onWay s0 c m
  let running := s0.mem.migs.any fun m => m.running && m.src / 32 == d
  let new : Migration := ⟨c, own, 0, 0, !running⟩
  let migs := (s0.mem.migs.map (replan c ms) ++ (if dead then [] else [new])).map startCopy
  let s1 := applyMoves s0 d ms
  let s2 := drainSurplus (withdrawAll { s1 with mem := { s1.mem with migs := migs } } d)
  if dead then loseLines s2 c (linesOn s0 c (· != .a)) (linesOn s0 c (· == .a)) else s2

/-- The lowest-numbered sorting office instance in service. -/
def liveSo (s : State) : Option Nat := (List.range 4).find? fun x => !isFenced s ⟨.soInst, 16 + x, 0⟩

/-- The partitions a unit's fence reaches (Table 15-2). -/
def fenceParts (s : State) (u : UnitId) : List Nat :=
  match u.kind with
  | .tile | .scoreRow | .expander | .computeDie => (partOfDie s u.die).toList
  | .channel => chanParts s (u.die * 32 + u.unit)
  | .core => livePartitions s
  | .soInst => (livePartitions s).filter fun p => (partOf s p).soInst == u.die - 16
  | .edgeLink => linkParts s u.die u.unit
  | _ => []

/-- Fence one unit (R24, R456, R463 to R468): its state and records, the event, the step abandoned, capacity and work
moved; composition of the partitions it reaches waits for the rebalance where R466 and R467 say so. A channel whose die would
no longer hold its content takes the die with it instead (R265). -/
def fenceOne (s : State) (u : UnitId) : State :=
  if isFenced s u then s
  else if u.kind = .computeDie then fenceDie s u.die
  else if u.kind = .channel && overFence s (u.die * 32 + u.unit) then fenceDie s u.die
  else
    let ev := fenceEvent u.kind
    let ps := fenceParts s u
    let s1 := unitTo s u .fenced .unitFence ev []
    let s1' := { s1 with ras := { s1.ras with listDirty := true } }
    let s2 := if u.kind = .port then s1' else declareEvent s1' ev ps
    match u.kind with
    | .tile =>
      let s3 := stopParts (abandonParts s2 ps ev) ps (stopCode u)
      let s4 := { s3 with ras := { s3.ras with rebal := s3.ras.rebal ++ [u] } }
      let n := ((List.range 64).filter fun t => isFenced s4 ⟨.tile, u.die, t⟩).length
      let s5 := modTile s4 (u.die * 64 + u.unit) fencedTile
      if 16 < n then fenceDie s5 u.die else s5
    | .scoreRow | .expander =>
      let s3 := stopParts (abandonParts s2 ps ev) ps (stopCode u)
      { s3 with ras := { s3.ras with rebal := s3.ras.rebal ++ [u] } }
    | .channel => fenceChannel (abandonParts s2 ps ev) (u.die * 32 + u.unit)
    | .core => handCore s2 ((u.die - 16) * 8 + u.unit)
    | .soInst =>
      let s3 := match liveSo s2 with
        | some x => ps.foldl (fun s p => modPart s p fun q => { q with soInst := x }) s2
        | none => s2
      let s4 := stopParts s3 ps (stopCode u)
      { s4 with ras := { s4.ras with rebal := s4.ras.rebal ++ [u] } }
    | .edgeLink =>
      let s3 := stopParts (abandonParts s2 ps ev) ps (stopCode u)
      let s4 := { s3 with ras := { s3.ras with rebal := s3.ras.rebal ++ [u] } }
      let cut := ps.flatMap fun p => (diesOf (partOf s4 p)).filter fun y =>
        (diesOf (partOf s4 p)).any fun x => decide (x < y) && !joined s4 x y
      cut.foldl fenceDie s4
    | _ => s2

/-- Whether a kind of unit has a test (Table 19-4). -/
def hasTest : UKind → Bool
  | .edgeLink | .port | .computeDie => false
  | _ => true

/-- Whether a unit passed its test within the last 24 h, so that it is fenced without another (R458). -/
def passedLately (s : State) (u : UnitId) : Bool :=
  match (unitRec s u).passed with
  | some t => decide (nowNs s < t + 24 * 3600000000000)
  | none => false

/-- The channels whose poison table a fence found full (R260): those of the surplus marks it added. -/
def newlyFull (s s' : State) : List Nat :=
  ((s'.mem.surplus.filter fun b => !s.mem.surplus.contains b).filterMap (tableOf s')).eraseDups

/-- A unit in service becomes SUSPECT by `fence`, which fences it at once within 24 h of a pass, or where its kind has no test
(R457, R458). -/
def suspectBy (fence : State → UnitId → State) (s : State) (u : UnitId) : State :=
  if unitSt s u != .inService then s
  else if passedLately s u || !hasTest u.kind then fence s u
  else unitTo s u .suspect .unitSuspect 0 []

/-- Fence a unit; the channels whose tables the lost lines fill become suspect, and may be fenced in their turn (R260). -/
def fenceDeep : Nat → State → UnitId → State
  | 0, s, u => fenceOne s u
  | f + 1, s, u =>
    let s1 := fenceOne s u
    (newlyFull s s1).foldl (fun s c => suspectBy (fenceDeep f) s (chanUnit c)) s1

/-- Fence a unit and what its fence brings with it; no more than the 512 channels can follow one another. -/
def fenceUnit (s : State) (u : UnitId) : State := fenceDeep 512 s u

/-- A unit in service becomes SUSPECT, or is fenced at once (R457, R458). -/
def makeSuspect (s : State) (u : UnitId) : State := suspectBy fenceUnit s u

/-- Judge a unit's count: over the threshold it is SUSPECT, or fenced (R457, R458). -/
def judgeUnit (s : State) (u : UnitId) : State :=
  let r := unitRec s u
  let (thresh, hours) := unitWindow s u
  let live := r.events.filter fun t => decide (nowNs s < t + hours * 3600000000000)
  let s1 := setUnit s { r with events := live }
  if decide (live.length ≤ thresh) then s1 else makeSuspect s1 u

/-- Count one event against a unit (R457): the event, its record, then the judgement. -/
def countFault (s : State) (u : UnitId) (rec : State → State) : State :=
  let r := unitRec s u
  judgeUnit (rec (setUnit s { r with events := r.events ++ [nowNs s] })) u

/-- Poison the block of a line that failed correction (R257), judged against its channel's count (R457). -/
def poisonBlock (s : State) (line : Nat) (rd : Reader) : State :=
  match regionAt s (line * 64) with
  | none => s
  | some n =>
    let c := chanOf s n (line * 64)
    if (regionOf s n).cls == .a || s.mem.poison.contains (line / 32) then s
    else
      let s1 := poisonLine s line c rd
      judgeUnit (if tableFull s c then makeSuspect s1 (chanUnit c) else s1) (chanUnit c)

/-! ### What patrol scrub covers (R261) -/

/-- Whether patrol scrub reads a region: class W or S (R261). -/
def scrubs (s : State) (n : Nat) : Bool := (regionOf s n).valid && (regionOf s n).cls != .a

/-- Whether the 256 B unit `u` holds allocated W or S lines of channel `c`. -/
def unitOn (s : State) (c u : Nat) : Bool :=
  match regionAt s (u * 256) with
  | some n => scrubs s n && chanOf s n (u * 256) == c
  | none => false

/-- The units of W and S regions in address order, as each region's first unit and how many it has. -/
def scrubRuns (s : State) : List (Nat × Nat) :=
  (((validRegions s).filter (scrubs s)).map (regionOf s)).mergeSort (fun x y => decide (x.base ≤ y.base)) |>.map
    fun r => (r.base * 2 ^ 22, r.size * 2 ^ 22)

/-- Whether a unit's lines were migrated during the pass, and so count as scrubbed (R261). -/
def unitMoved (s : State) (u : Nat) : Bool :=
  match regionAt s (u * 256) with
  | some n =>
    let r := regionOf s n
    let off := u * 256 - r.base * gib
    s.mem.passMoved.contains (r.spread, if r.spread then 0 else r.die, if r.spread then spreadBucket off else localBucket off)
  | none => false

/-- Lines of a 256 B unit that the pass has read: all where its channel has had all its lines or they were migrated, else those
behind the cursor. -/
def unitDone (s : State) (u : Nat) : Nat :=
  match regionAt s (u * 256) with
  | none => 0
  | some n =>
    let c := chanOf s n (u * 256)
    if s.mem.passDone.contains c || unitMoved s u then 4 else min 4 (tabGet s.mem.cursor c 0 - 4 * u)

/-- Lines the pass has read (R261). -/
def scrubbedLines (s : State) : Nat :=
  ((scrubRuns s).map fun r => ((List.range r.2).map fun i => unitDone s (r.1 + i)).sum).sum

/-! ### Tile sessions (R42, R460) -/

/-- Put a tile's delay lines at Reduced, or back at Normal (R42). -/
def setReduced (s : State) (t : Nat) (on : Bool) : State :=
  { s with pwr := { s.pwr with sense := tabMod s.pwr.sense t TileSense.init fun x => { x with reduced := on } } }

/-- End a session: the tile restored and at Normal, its gap closed, the session counted (R460, R462). -/
def endSession (s : State) (t : Nat) : State :=
  let s1 := setReduced (modTile s t fun x => { x with st := .idle }) t false
  let s2 := { s1 with ras := { s1.ras with test := none, sessions := satAdd 32 s1.ras.sessions 1 } }
  forParts s2 fun s p => modPart s p fun q => { q with gap := if q.gap = some t then none else q.gap }

end Sys2Proof.Machine
end

