-- ==== Sys2Proof/Machine/PowerOps.lean ====
section
/-! DEFINITION. Envelopes, the throttle, targets and limits, sleep and power loss (R35 to R37, R505 to R519, R554). -/

namespace Sys2Proof.Machine

/-! ### Envelopes (Tables 2-3, 22-1) -/

/-- Floor pace of an envelope, Mturn/s. -/
def envFloor : Envelope → Nat | .air => 1100 | .immersion => 1600 | .liquid => 1800
/-- Minimum regulator target, Mturn/s. -/
def envMinTarget : Envelope → Nat | .air => 1133 | .immersion => 1648 | .liquid => 1854
/-- Screening voltage, mV. -/
def envScreen : Envelope → Nat | .air => 660 | .immersion => 760 | .liquid => 820
/-- Input power budget, W. -/
def envBudget : Envelope → Nat | .air => 1100 | .immersion => 1900 | .liquid => 2600
/-- TJ_MAX, °C. -/
def envTj : Envelope → Int | .air => 100 | .immersion => 95 | .liquid => 90
/-- The code of an envelope (Table 22-6). -/
def envCode : Envelope → Nat | .air => 0 | .immersion => 1 | .liquid => 2

/-- Whether the throttle envelope is in force: THROTTLE_N, or the supply out of range (R514). -/
def throttleOn (s : State) : Bool := s.side.throttle || s.pwr.supply != 0

/-- The envelope whose floor, target and budget are in force (R514). -/
def envNow (s : State) : Envelope := if throttleOn s then s.pwr.throttleEnv else s.pwr.envelope

/-- The floor pace in force. -/
def floorNow (s : State) : Nat := envFloor (envNow s)

/-- The floor count of turns in one window: 1.8 Gturn/s gives 1,843 (R38). -/
def floorCount (s : State) : Nat := floorNow s * 1024 / 1000

/-- v_limit of a die: R511's value less what R512 takes. -/
def vLimitOf (x : DiePwr) : Nat := x.vBase - x.drop

/-- Bring every die's target and v_limit to the envelope in force; XD dies keep 900 mV (R514, R554). -/
def applyEnvelope (s : State) : State :=
  (List.range 20).foldl (fun s d => modDie s d fun x =>
    if !x.powered then x
    else { x with target := envMinTarget (envNow s), vBase := if d < 16 then envScreen (envNow s) else 900 }) s

/-- Keep each die's target and v_limit as the power manager set them (Table 2-4). -/
def keepTargets (s : State) : State :=
  (List.range 20).foldl (fun s d => modDie s d fun x => { x with keepTarget := x.target, keepBase := x.vBase }) s

/-- Give the power manager's values back, never below the envelope's minimum target and screening voltage (Table 2-4). -/
def restoreTargets (s : State) : State :=
  (List.range 16).foldl (fun s d => modDie s d fun x =>
    { x with target := if x.powered then max x.keepTarget x.target else x.target,
             vBase := if x.powered then max x.keepBase x.vBase else x.vBase, keepTarget := 0, keepBase := 0 }) s

/-- The first cause of a throttle begins: values in force at once, the means bind later (R514). -/
def throttleBegin (s : State) : State :=
  let s1 := applyEnvelope (keepTargets s)
  { s1 with pwr := { s1.pwr with bindFrom := some (nowNs s) } }

/-- The last cause ends: the envelope's values return, targets to the power manager's (R514, Table 2-4). -/
def throttleEnd (s : State) : State :=
  let s1 := restoreTargets (applyEnvelope s)
  { s1 with pwr := { s1.pwr with bindFrom := none } }

/-! ### Typical pace (Table 2-2) and the voltage plan (R511) -/

/-- Typical pace at 550 + 50 i mV, Mturn/s (Table 2-2). -/
def paceTab : List Nat := [850, 1100, 1350, 1580, 1800, 2000, 2180, 2340]

/-- Fifty times the typical pace at `v` mV, interpolated linearly between the bracketing entries. -/
def pace50 (v : Nat) : Nat :=
  let v' := max 550 (min v 900)
  let i := min 6 ((v' - 550) / 50)
  let a := paceTab.getD i 0
  let b := paceTab.getD (i + 1) 0
  50 * a + (b - a) * (v' - 550 - 50 * i)

/-- Whether the predicted power at `v` does not exceed the grant: P × (V / V_meas)² × T(V) / T(V_meas) ≤ grant. -/
def planFits (p vm v grant : Nat) : Bool := decide (p * v * v * pace50 v ≤ grant * vm * vm * pace50 vm)

/-- V_P: the highest 5 mV step from 550 to 900 mV whose predicted power fits, 550 when none does (R511). -/
def planV (p vm grant : Nat) : Nat :=
  (((List.range 71).map fun i => 550 + 5 * i).reverse.find? fun v => planFits p vm v grant).getD 550

/-! ### Idle partitions, powered dies -/

/-- Whether a partition has a step executing or composed. -/
def partBusy (x : Part) : Bool := x.exec.isSome || x.composed.isSome

/-- The state of a context (Table 15-5): the running one is RUNNING while it has a step executing, composed or to run again, and
READY between (notes/assumptions/32.md). -/
def ctxState (x : Part) (c : Nat) : CtxSt :=
  if (ctxOf x c).st == .running && !partBusy x && x.rerunStep.isNone then .ready else (ctxOf x c).st

/-- Whether a context is RUNNING, SAVING or RESTORING (R361). -/
def ctxActive (x : Part) (c : Nat) : Bool :=
  ctxState x c == .running || ctxState x c == .saving || ctxState x c == .restoring

/-- Whether a partition is quiescent: every slot FREE and none of its contexts RUNNING, SAVING or RESTORING (R361). -/
def quiescent (s : State) (p : Nat) : Bool :=
  (slotsOf s p).isEmpty && !partBusy (partOf s p) && !(List.range 32).any (ctxActive (partOf s p))

/-- Whether a compute die is active: its partition has a step executing or composed (R510). -/
def dieActive (s : State) (d : Nat) : Bool :=
  match partOfDie s d with
  | some p => partBusy (partOf s p)
  | none => false

/-- Power a die up at the minimum target of the envelope in force; the regulator starts from 550 mV, the least it sets
(notes/assumptions/1.md). -/
def powerUp (s : State) (d : Nat) : State :=
  modDie s d fun x =>
    { x with powered := true, target := envMinTarget (envNow s), vBase := if d < 16 then envScreen (envNow s) else 900,
             vcore := if x.vcore = 0 then 550 else x.vcore, vset := if x.vset = 0 then 550 else x.vset }

/-- Power a die down: its registers read 0 (Tables 2-9, 22-10). -/
def powerDown (s : State) (d : Nat) : State :=
  modDie s d fun x => { DiePwr.init with tMax := x.tMax, drop := x.drop }

/-! ### Loss of power (R513, R526, R544) -/

/-- Loss of the control-island rail: every register at its reset value; flash, fuses and the standby domain stay. -/
def powerLoss (s : State) : State :=
  let side := { Side.init with standby := s.side.standby, mainOn := false, pwrEn := s.side.pwrEn,
                               thrPin := s.side.thrPin, modPins := s.side.modPins, perst := s.side.perst,
                               lastEdge := 0 }
  { State.reset with boot := { Boot.init with flash := s.boot.flash },
                     sec := { Sec.init with revoked := s.sec.revoked, ctrs := s.sec.ctrs,
                                            debugLock := s.sec.debugLock, draws := s.sec.draws },
                     side := side, free := s.free, out := s.out, pending := s.pending }

/-- What the XD0 control island keeps when every other rail is lost or rebooted (Table 24-1). -/
def keepIsland (s : State) : State :=
  let led := s.log.ledger.drop (s.log.ledger.length - 1024)
  let ring := s.log.errRing.drop (s.log.errRing.length - 256)
  let jl : Log := { s.log with journals := [], lost := [], ledger := led, errRing := ring }
  let hif := { s.hif with rings := [], taken := [] }
  let ras := { s.ras with coreOf := [], repairs := [], rebal := [] }
  { s with boot := { s.boot with staging := [] }, tiles := [], mem := Mem.init, exps := Exps.init, cmp := Cmp.init, parts := [], slots := [],
           lnk := { Lnk.init with modNum := s.lnk.modNum }, log := jl, hif := hif, ras := ras }

/-! ### Sleep and wake (R516 to R518) -/

/-- Whether every partition is idle for sleep (R516). -/
def canSleep (s : State) : Bool :=
  s.slots.all (fun e => e.2.st == .free) && (List.range 8).all fun p => !partBusy (partOf s p)

/-- The source number of a WAKE record and its two fields (Table 19-18). -/
def wakeDetail : WakeSource → List Nat
  | .sleepReg => [0, 0, 0] | .mgmtCmd => [1, 0, 0] | .doorbell f => [2, f.val, 0] | .mbx f => [3, f.val, 0]
  | .group m => [4, 0, m.val] | .scrub => [5, 0, 0]

/-- A wake source acts: asleep it begins the wake, while entering it is remembered (R517, R519). -/
def wakeUp (s : State) (w : WakeSource) : State :=
  match s.pwr.sleep with
  | .asleep =>
    pushErr { s with pwr := { s.pwr with sleep := .waking, wakePend := none } } .wake { detail := wakeDetail w }
  | .entering => { s with pwr := { s.pwr with wakePend := some (s.pwr.wakePend.getD w) } }
  | _ => s

/-! ### Time (R45 to R47) -/

/-- Advance the timebase by `n` ns of oscillator time at the present rate. -/
def tick (s : State) (n : Nat) : State :=
  let z : Int := n * (1000000000 + s.tmb.ratePpb) + s.tmb.frac
  let t := z.toNat
  { s with tmb := { s.tmb with now := s.tmb.now + t / 1000000000, frac := t % 1000000000 } }

/-- Discipline toward an offset in ns, positive when this module is behind (R47): a forward jump beyond 10 µs with
its ledger entry; ahead, −100 ppm; behind by less, a free rate up to +100 ppm (notes/assumptions/6.md). -/
def discipline (s : State) (source : Nat) (off : Int) : State :=
  let t0 := { s.tmb with source := source, offset := off, locked := decide (-100 ≤ off ∧ off ≤ 100) }
  if off > 10000 then
    let s1 := syncFollowers { s with tmb := { t0 with now := s.tmb.now + off.toNat, ratePpb := 0 } }
    ledger s1 .firmware { obj := 7, old := s.tmb.now, new := s.tmb.now + off.toNat }
  else if off < 0 then { s with tmb := { t0 with ratePpb := -100000 } }
  else if off = 0 then { s with tmb := { t0 with ratePpb := 0 } }
  else
    let r := Sys2Proof.Config.freePick s.free % 100001
    { s with tmb := { t0 with ratePpb := r }, free := s.free + 1 }

end Sys2Proof.Machine
end

