-- ==== Sys2Proof/Machine/Admit.lean ====
section
/-! DEFINITION. Admission of latency-critical requests (R370 to R375, R349, R379 to R381); times in ns. -/

namespace Sys2Proof.Machine

/-- CHUNK of a slot's model, at most COLBUDGET (R316); 64 where its bundle is gone. -/
def chunkOf (s : State) (x : Slot) : Nat :=
  min (((slotBundle s x).map fun b => b.img.params.chunk).getD 64) (partOf s x.part).colBudget

/-- Columns a live LC request books (R371). -/
def bookedOf (s : State) (x : Slot) : Nat :=
  let st := if x.st == .preempted then x.back else x.st
  if st == .decode || st == .handoff then 1 + x.spec else chunkOf s x

/-! ### Booked memory rates (R251, R269), in MB/s -/

/-- Dies a migration writes into while it runs: every die that receives a bucket of it, copied or not (R269). -/
def writesInto (m : Migration) : List Nat := if m.running then (m.moves.map fun v => v.dst / 32).eraseDups else []

/-- The class S region that holds a partition's journal: its lowest (R415). -/
def journalRegion (s : State) (p : Nat) : Option Nat := (validRegions s).find? fun n => (regionOf s n).cls == .s && (regionOf s n).owner == p

/-- The standing bookings of journal writers, 1 GB/s each, on die `d`, or on SPREAD memory for 16 (R417). -/
def journalBooked (s : State) (d : Nat) : Nat :=
  1000 * ((livePartitions s).filter fun p => (journalRegion s p).any fun n =>
    (if (regionOf s n).spread then 16 else (regionOf s n).die) == d).length

/-- The booked LOCAL rate of a die: 250 GB/s × 4,096 / Bmax, less 64 GB/s for each migration writing into it (R251, R269),
16 GB/s for a channel test on it (R464) and the journals it holds (R417). -/
def localRate (s : State) (d : Nat) : Nat :=
  let bmax := (localCounts s d).foldl max 1
  let test := match s.ras.test with
    | some u => if u.kind = .channel ∧ u.die = d then 16000 else 0
    | none => 0
  250000 * 4096 / bmax - 64000 * (s.mem.migs.filter fun m => (writesInto m).contains d).length - test - journalBooked s d

/-- The booked SPREAD rate: 250 GB/s × 65,536 / the largest bucket count, capped by an edge link (R251, Table 1-5), less the
journals it holds (R417). -/
def spreadRate (s : State) : Nat :=
  min 2000000 (250000 * 65536 / ((List.range 512).map (spreadCount s)).foldl max 1) - journalBooked s 16

/-- Nanoseconds of a number of turns at the floor in force. -/
def turnsNs (s : State) (n : Nat) : Nat := ceilDiv (n * 1000) (floorNow s)

/-! ### Lane streams (R290) -/

/-- The lanes of a die whose expanders are in service. -/
def lanesIn (s : State) (d : Nat) : Nat := 32 * ((List.range 4).filter fun e => !isFenced s (expUnit d e)).length

/-- The feed lists of a die that hold an entry. -/
def dieLists (g : Prog) (d : Nat) : List (List FeedEntry) :=
  ((g.img.feeds.filter fun f => f.1 / 128 == d).map fun f => feedList f.2).filter fun l => !l.isEmpty

/-- Whether an entry of a die's lists reads a SPREAD region; a PAGES entry reads the pool its die draws from (R343). -/
def entrySpread (s : State) (p d : Nat) (f : FeedEntry) : Bool :=
  (match f.kind with
    | .pages .. => poolFor s p d
    | _ => regionAt s (f.base * 2048)).any fun n => (regionOf s n).spread

/-- Turns a block takes at its lane: 64, stretched where the lanes that stream at once ask together for more than the booked rate
of the memory they name (R251, R290), and for each further list its lane runs in turn after a fence (R467). -/
def blockTurns (s : State) (g : Prog) (d : Nat) : Nat :=
  let n := max 1 (lanesIn s d)
  let loc := (dieLists g d).filter fun l => l.any fun f => !entrySpread s g.part d f
  let wide := (diesOf (partOf s g.part)).flatMap fun k => (dieLists g k).filter fun l => l.any (entrySpread s g.part k)
  let t (k rate : Nat) : Nat := ceilDiv (64 * 32 * k * floorNow s) (max 1 rate)
  max 1 (ceilDiv (dieLists g d).length n) * max 64 (max (t (min n loc.length) (localRate s d)) (t wide.length (spreadRate s)))

/-! ### Bands (R180) -/

/-- N_SEL of a layer over B bands (R168). -/
def nselOf (p : BandParams) (b : Nat) : Nat := max 1 (ceilDiv (p.dens * b) 256)

/-- Bands admission counts in a layer, as (gate and up, down) (Table 7-5); a dense layer counts B of each. -/
def bandCounts (p : BandParams) (b : Nat) : Nat × Nat :=
  let n := nselOf p b
  let a := ceilDiv (b - n) 16
  if p.sparse = 0 then (b, b)
  else match p.policy with
    | 0 => (max b (n + a), max b n)
    | 1 => (max b (n + a), max b (n + ceilDiv b 32))
    | _ => (n + a + b, b)

/-- The band parameters of a layer of a version's bundle; none is dense. -/
def bandParams (s : State) (g : Prog) (layer : Nat) : BandParams :=
  let rec' := (bundleOf s g.part g.ctx g.bundle g.bver).bind fun e => e.img.params.layers.find? fun l => l.layer == layer
  (rec'.map LayerRec.band).getD ⟨0, 256, 0, 0, 0, 16, []⟩

/-- The feed entries that reach tile `t`. -/
def tileEntries (g : Prog) (t : Nat) : List FeedEntry := ((dieLists g (t / 64)).flatten).filter fun f => f.rcp.contains (t % 64)

/-- Weight rows counted for a TLOOK of tile `t` whose NROWS the section gives: 64 for each band that Table 7-5 counts, or a GATHER
entry's NROWS; all it may name where no such entry feeds the tile. -/
def bandRows (s : State) (g : Prog) (t : Nat) : Nat :=
  let ns := (tileEntries g t).filterMap fun f => match f.kind with
    | .bands b .. => some (64 * (bandCounts (bandParams s g f.layer) b).1)
    | .gather _ _ nr => some nr
    | _ => none
  if ns.isEmpty then 2048 else min 2048 (ns.foldl max 0)

/-- Turns of the STRICT layer verdicts of one selection set (Table 7-9). -/
def strictTurns (s : State) (g : Prog) (t : Nat) : Nat :=
  256 * ((((tileEntries g t).filterMap fun f => match f.kind with
    | .bands .. => some f.layer
    | _ => none).eraseDups).filter fun l => (bandParams s g l).sparse == 1 && (bandParams s g l).policy == 2).length

/-! ### A version's step bound (R372) -/

/-- Passes of a LOOP at the worst; one where the program states none. -/
def loopPasses (g : Prog) (t i sets pages : Nat) : Nat :=
  match g.img.loops.find? fun l => l.tile == t && l.index == i with
  | some l => l.fixed + l.perSet * sets + l.perPage * pages
  | none => 1

/-- Executions of instruction `i` of a tile's image: the passes of the LOOPs around it. -/
def passesOf (g : Prog) (t : Nat) (img : List Byte) (i sets pages : Nat) : Nat :=
  (((loopsOf (Fin.ofNat 1024 t) img).filter fun l => decide (l.1 ≤ i) && decide (i ≤ l.2)).map fun l =>
    loopPasses g t l.2 sets pages).foldl (· * ·) 1

/-- The instructions of tile `t`, with how often a step executes each. -/
def tileRuns (g : Prog) (t sets pages : Nat) : List (Instr × Nat) :=
  match imageFor g.img t with
  | none => []
  | some img => (List.range (imgCount img)).filterMap fun i =>
      (imgInstr (Fin.ofNat 1024 t) img i).map fun x => (x, passesOf g t img i sets pages)

/-- The division entries of a die. -/
def divsOf (g : Prog) (d : Nat) : List DivEntry :=
  ((g.img.divs.find? fun x => x.1 == d).map fun x => divTable x.2).getD []

/-- TURNS of the work units that a fence moved to tile `t` (R466). -/
def movedTurns (g : Prog) (t : Nat) : Nat :=
  (((divsOf g (t / 64)).filter fun u => g.homes.contains (t / 64, u.wunit, t % 64)).map DivEntry.turns).sum

/-- What tile `t` takes in a step of `sets` sets whose longest stream attends `pages` pages, in turns and in memory nanoseconds:
every instruction's Latest issue and block bound, each of its feed entries' first byte, the STRICT verdicts and the units moved to
it (R102, R137, R180, R231, R290, R372). -/
def tileTime (s : State) (g : Prog) (t sets pages : Nat) : Nat × Nat :=
  let e : BoundAt := ⟨floorNow s, blockTurns s g (t / 64), bandRows s g t, 0⟩
  let rs := tileRuns g t sets pages
  ((rs.map fun x => (issueTurns x.1 + boundTurns e x.1) * x.2).sum + (tileEntries g t).length * feedFirst (floorNow s) +
    sets * strictTurns s g t + movedTurns g t, (rs.map fun x => memLatency x.1 * x.2).sum)

/-- What the tiles of a version move to and from module memory in a step, as (die, bytes), 16 for a SPREAD region or an address
that only the section gives (R251). -/
def trafficOf (s : State) (g : Prog) (ts : List Nat) (sets pages : Nat) : List (Nat × Nat) :=
  let moved := ts.flatMap fun t => (tileRuns g t sets pages).filterMap fun x => (memMoved x.1).map fun m =>
    let at' := match m.1.bind (regionAt s) with
      | some n => if (regionOf s n).spread then 16 else (regionOf s n).die
      | none => 16
    (at', m.2 * x.2)
  (List.range 17).filterMap fun d =>
    let n := ((moved.filter fun m => m.1 == d).map Prod.snd).sum
    if n = 0 then none else some (d, n)

/-- Nanoseconds the busiest memory takes for what the tiles move (R251). -/
def trafficNs (s : State) (ts : List (Nat × Nat)) : Nat :=
  (ts.map fun t => ceilDiv (t.2 * 1000) (max 1 (if t.1 < 16 then localRate s t.1 else spreadRate s))).foldl max 0

/-- The MoE records of the bundle a program version serves (R303). -/
def moeRecs (s : State) (p ver : Nat) : List MoeRec :=
  match progOf s p ver with
  | none => []
  | some g => ((s.cmp.bundles.filterMap Prod.snd).filter fun b =>
      b.part == p && b.img.id == g.bundle && b.img.version == g.bver && b.img.moe).flatMap fun b => b.img.params.moe

/-- The selection sets counted at tile `t`: an expert's tile runs CAP columns in each of its layers (R305). -/
def setsAt (s : State) (g : Prog) (t sets : Nat) : Nat :=
  ((moeRecs s g.part g.version).filter fun m => m.place.any fun e => e.1 == t || e.2 == some t).foldl
    (fun n m => max n (ceilDiv m.cap 64)) sets

/-- The tiles of a version that take work. -/
def liveTiles (s : State) (g : Prog) : List Nat :=
  (diesOf (partOf s g.part)).flatMap fun d => ((List.range 64).map (d * 64 + ·)).filter (tileInService s)

/-- S(s, P) of a version in ns at the fence map, the floor and the booked rates in force (R372): its value at P = 0 is
T0(s) + TLIN(s), and what a page adds is TPAGE(s). -/
def progNs (s : State) (g : Prog) (sets pages : Nat) : Nat :=
  let ts := liveTiles s g
  (ts.map fun t => let x := tileTime s g t (setsAt s g t sets) pages; turnsNs s x.1 + x.2).foldl max 0 + trafficNs s (trafficOf s g ts sets pages)

/-- The KIND 1 work units of a version, each with its die, in the order of the key ranges they take (R374, R466). -/
def keyUnits (s : State) (g : Prog) : List (Nat × DivEntry) :=
  (diesOf (partOf s g.part)).flatMap fun d => ((divsOf g d).filter fun u => u.kind == 1).map fun u => (d, u)

/-- Turns by which a version's KIND 1 work units divide each KV head's keys over its tile streams, head by head, as their division
entries name them (R374, R466); one stream where there is none. -/
def streamShares (s : State) (g : Prog) : List (List Nat) :=
  let us := (keyUnits s g).map Prod.snd
  let heads := (us.map DivEntry.group).eraseDups
  if us.isEmpty then [[1]] else heads.map fun h => (us.filter fun u => u.group == h).map DivEntry.turns

/-- The keys, from and up to, that stream `i` takes of `keys` keys in contiguous ranges in the proportions `ws` (R374). -/
def keyRange (ws : List Nat) (keys i : Nat) : Nat × Nat :=
  let total := max 1 ws.sum
  ((ws.take i).sum * keys / total, (ws.take (i + 1)).sum * keys / total)

/-- Pages a range of keys spans. -/
def pagesIn (r : Nat × Nat) : Nat := if r.1 < r.2 then (r.2 - 1) / 64 - r.1 / 64 + 1 else 0

/-- Pages each stream of a division spans (R374). -/
def spansOf (ws : List Nat) (keys : Nat) : List Nat := (List.range ws.length).map fun i => pagesIn (keyRange ws keys i)

/-- Pages the longest tile stream of a version spans for a sequence of `keys` keys (R374). -/
def streamPages (s : State) (p ver keys : Nat) : Nat :=
  match progOf s p ver with
  | none => 0
  | some g => ((streamShares s g).flatMap fun ws => spansOf ws keys).foldl max 0

/-- The keys R374 counts for a request. -/
def lcKeys (x : Slot) : Nat := x.nprompt + x.maxNew + 16

/-- Contexts a partition holds. -/
def ctxsOf (x : Part) : List Nat := (x.ctxs.filter fun e => e.2.st != .empty).map Prod.fst

/-- G of a request's context (R373): zero with one context. -/
def gTerm (x : Part) (c : Nat) : Nat :=
  let cs := ctxsOf x
  if cs.length ≤ 1 then 0
  else ((cs.filter (· != c)).map fun d => (ctxOf x d).slice * 1000000).sum + 400000 * cs.length

/-- F (R373): 2 while the live requests bind two step-program versions. -/
def fFactor (s : State) (p : Nat) (extra : List Nat) : Nat :=
  let vs := (((slotsOf s p).filter fun n => (slotOf s n).st != .closing).map fun n => (slotOf s n).pver) ++ extra
  if vs.eraseDups.length ≤ 1 then 1 else 2

/-- S_LIM over some LC requests (R373); none when there is none. -/
def sLimOf (s : State) (p f : Nat) (xs : List Slot) : Option Nat :=
  xs.foldl (fun acc x =>
    let v := (x.itl * 1000 - gTerm (partOf s p) x.ctx) / f
    some (match acc with
      | none => v
      | some a => min a v)) none

/-- The live LC requests of a partition. -/
def lcSlots (s : State) (p : Nat) : List Nat := (slotsOf s p).filter fun n => isLc (slotOf s n)

/-- The step limit in force. -/
def partSLim (s : State) (p : Nat) : Option Nat := sLimOf s p (fFactor s p []) ((lcSlots s p).map (slotOf s))

/-- L_OLD (R374): the limits under which the running and the composed step were composed. -/
def lOld (s : State) (p : Nat) : Nat :=
  let q := partOf s p
  ((q.exec.toList ++ q.composed.toList).map fun e => e.sLim.getD 0).foldl max 0

/-- Rounds of the other contexts (R374, g). -/
def gRounds (x : Part) (c n f sLim : Nat) : Nat :=
  if (ctxsOf x).length ≤ 1 then 0
  else
    let sl := (ctxOf x c).slice * 1000000
    if sLim < sl then min (n * f) (1 + n * f * sLim / (sl - sLim)) else n * f

/-- Pools a request's sets touch, with the pages needed of each (R343, R349). -/
def poolNeeds (s : State) (p ver : Nat) (is : List Nat) : List (Nat × Nat) :=
  (poolsOf s p).filterMap fun n =>
    let k := needOf s p (placesOf s p ver) is n
    if k = 0 then none else some (n, k)

/-- Whether every place of a version has a pool. -/
def placesServed (s : State) (p ver : Nat) (is : List Nat) : Bool :=
  (placesOf s p ver).all fun pl => is.all fun i => (poolFor s p (placeDie pl i)).isSome

/-- Pages of a pool that BE sequences hold alone. -/
def bePages (s : State) (p n : Nat) : Nat :=
  (((slotsOf s p).filter fun k => !isLc (slotOf s k)).map fun k => privateIn s k n).sum

/-- Pages short in each pool once reservations are counted. -/
def shortIn (s : State) (p ver : Nat) (is : List Nat) : List (Nat × Nat) :=
  (poolNeeds s p ver is).filterMap fun x =>
    let free := poolFree s p x.1 - poolReserved s p x.1
    if x.2 ≤ free then none else some (x.1, x.2 - free)

/-- Whether free pages and BE pages together cover a reservation (R349). -/
def canReserve (s : State) (p ver : Nat) (is : List Nat) : Bool :=
  placesServed s p ver is && (shortIn s p ver is).all fun x => decide (x.2 ≤ bePages s p x.1)

/-- Pages of a pool on their way out: those of nodes being spilled, of slots chosen as victims, and of pre-empted slots whose
records are still to be written. -/
def leaving (s : State) (p pool : Nat) : Nat :=
  let q := partOf s p
  let mine (ks : List Nat) : Nat := (ks.filter fun k => k / 2 ^ 32 == pool).length
  (((q.nodes.filter isSpilling).map fun nd => mine (nd.pages.filter fun k => decide ((pageOf q k).refs ≤ 1))).sum) +
    ((slotsOf s p).map fun n => if (slotOf s n).doomed then privateIn s n pool else mine (slotOf s n).swapped).sum

/-- Choose victims, in order, until they give `n` pages of a pool (R351). -/
def doomFor (s : State) (pool n : Nat) (vs : List Nat) : State :=
  (vs.foldl (fun (acc : State × Nat) v => if acc.2 = 0 then acc else (doom acc.1 v, acc.2 - privateIn acc.1 v pool)) (s, n)).1

/-- Displace BE sequences until each pool's shortage is met by what leaves it: doom them in the order of R351. -/
def displace (s : State) (p : Nat) (short : List (Nat × Nat)) : State :=
  short.foldl (fun s k => doomFor s k.1 (k.2 - leaving s p k.1) (victims s p k.1 [] false)) s

/-- Payload rate in MB/s of a PCIe mode by its MIN_MODE code (Tables 16-1, 16-15). -/
def modeRate (n : Nat) : Nat := [0, 13800, 27500, 30000, 55000, 60000, 60000, 120000, 120000, 240000].getD n 0

/-- The swap rate that admission books, in MB/s: 100 GB/s, or half the payload rate of the image's minimum mode where that is less
(R352, R385); an image that names no minimum leaves 100 GB/s. -/
def swapRate (s : State) : Nat := if s.hif.minMode = 0 then 100000 else min 100000 (modeRate s.hif.minMode / 2)

/-- Swap-out time at the booked rate of the sequences that meeting a shortage displaces: all their private pages go (R349, R352). -/
def displaceNs (s : State) (p : Nat) (short : List (Nat × Nat)) : Nat :=
  let t := displace s p short
  let out := (slotsOf s p).filter fun n => (slotOf t n).doomed && !(slotOf s n).doomed
  if swapUsable s p then
    ceilDiv ((out.map fun n => ((privatePages s n).map (swapBytes s p (slotHeads s n))).sum).sum * 1000) (swapRate s)
  else 0

/-- A copy on write of one page set, 32 B per turn per lane of 128 lanes a die (R346). -/
def cowNs (s : State) (p ver : Nat) : Nat :=
  let q := partOf s p
  let per := ceilDiv (placesOf s p ver).length (128 * max 1 (diesOf q).length)
  ceilDiv (per * (q.poolPage * 4096 + q.poolMeta * 2048) / 32 * 1000) (floorNow s)

/-- Data rate of a port in MB/s by width (Table 18-1). -/
def widthRate (w : Nat) : Nat := if w = 8 then 189060 else if w = 4 then 94530 else if w = 2 then 47270 else if w = 1 then 23630 else 0

/-- A port. -/
def portOf (s : State) (p : Nat) : LnkPort := tabGet s.lnk.ports p LnkPort.init

/-- The ports of a set that are up. -/
def upPorts (s : State) (set : Nat) : List Nat :=
  (List.range 24).filter fun p => set.testBit p && (portOf s p).st == .up

/-- A route. -/
def routeOf (s : State) (d : Nat) : Route := tabGet s.lnk.routes d Route.init

/-- The ports of a set that carry flits: up, or in sleep with VC0 only (R447). -/
def livePorts (s : State) (set : Nat) : List Nat :=
  (List.range 24).filter fun p => set.testBit p && ((portOf s p).st == .up || (portOf s p).st == .sleep)

/-- The set a packet to `d` takes now: the primary one while any port of it serves, otherwise the alternate (R439). -/
def pathSet (s : State) (d : Nat) : Nat :=
  let r := routeOf s d
  if (livePorts s r.primary).isEmpty then r.alt else r.primary

/-- Coordinate of a module in a dimension of the torus (R438). -/
def torusCoord (m dim : Nat) : Nat := m / 4 ^ dim % 4

/-- The modules of the group: this one and those the image routes to. -/
def groupMods (s : State) : List Nat :=
  (List.range 64).filter fun d => d == s.lnk.modNum || (routeOf s d).primary != 0

/-- Extent of a dimension of the torus. -/
def torusExtent (s : State) (dim : Nat) : Nat := ((groupMods s).map fun m => torusCoord m dim + 1).foldl max 1

/-- Hops of the path to a module (R438, R439). -/
def hopsTo (s : State) (d : Nat) : Nat :=
  if s.lnk.topo = 2 then
    max 1 (((List.range 3).map fun k =>
      let n := torusExtent s k
      let a := torusCoord s.lnk.modNum k
      let b := torusCoord d k
      min ((a + n - b) % n) ((b + n - a) % n)).sum)
  else if (routeOf s d).onAlt then 2 else 1

/-- Flit time of a port in ps by width (Table 18-1). -/
def flitPs (w : Nat) : Nat := 10240 / max 1 w

/-- The projected time of `b` bytes to module `d` on VC3 or VC1 by the first hop's set (R446); the flit time is that of the
narrowest port of the set. -/
def crossNs (s : State) (d vc b : Nat) : Nat :=
  let ps := upPorts s (pathSet s d)
  let hops := hopsTo s d
  let rate := (ps.map fun p => widthRate (portOf s p).width).sum * (if vc = 1 then 10 else 2) / 16
  let flit := (ps.map fun p => flitPs (portOf s p).width).foldl max 0
  hops * 10350 + ceilDiv (16 * hops * flit) 1000 + (if rate = 0 then 0 else ceilDiv (b * 1000) rate)

/-- What a version's remote experts add to a step at the worst case: for each, CAP columns' dense records to its module and back
(R182, R305, R446). -/
def expertNs (s : State) (g : Prog) : Nat :=
  let width := ((bundleOf s g.part g.ctx g.bundle g.bver).map fun b => 4 * b.img.dModel).getD 0
  ((moeRecs s g.part g.version).flatMap fun m => (m.place.filter fun e => decide (1024 ≤ e.1)).map fun e =>
    2 * crossNs s (e.1 - 1024) 1 (m.cap * (16 + width))).sum

/-- S(s, P) of a version of a partition, at 1 to 8 selection sets (R372). -/
def boundNs (s : State) (p ver sets pages : Nat) : Nat :=
  match progOf s p ver with
  | none => 0
  | some g => progNs s g (min 8 (max 1 sets)) pages + expertNs s g

/-- X of R374 for a request: displaced swap-out, copies from a CACHE module, the copy on write of a fully matched
prompt, a core hand-over after a fence, a PROMPT partition's handoff with its target's first step, and a relayed request's two VC1
crossings, its descriptor's and its token's (R400). -/
def xTerm (s : State) (x : Slot) (disp : Nat) : Nat :=
  let q := partOf s x.part
  let full := decide (0 < x.filled) && decide (x.nprompt ≤ x.filled + 1)
  let bytes := (q.poolPage * 4096 + q.poolMeta * 2048) * (placesOf s x.part x.pver).length
  let remote := if x.st == .preempted then 0 else (x.sets.filter fun ps => ps.contains noPage).length
  let cache := if remote = 0 then 0 else
    ((q.targets.filter (isCache s)).map fun t => crossNs s t.1 3 (remote * bytes)).foldl max 0
  let core := if (List.range 32).any fun c => isFenced s (coreUnit c) then 50000 else 0
  let hand := match q.role, x.target with
    | .prompt, some t => crossNs s t.1 3 (ceilDiv x.nprompt 64 * bytes) + x.itl * 1000
    | _, _ => 0
  let relay := match frontOf x with
    | some m => crossNs s m 1 64 + crossNs s m 1 32
    | none => 0
  relay + disp + cache + (if full then cowNs s x.part x.pver else 0) + core + hand

/-- The outcome of the tests of R374. -/
structure Verdict where
  test : Nat
  sLc  : Nat
  sLim : Option Nat
  ttft : Nat
  intv : Nat

/-- The projected TTFT of a request in PREFILL (R374 test 3). -/
def projTtft (s : State) (x : Slot) (f sLim disp : Nat) : Nat :=
  let n := max 1 (ceilDiv (x.nprompt - x.filled) (max 1 (chunkOf s x)))
  let q := partOf s x.part
  50000 + 2 * lOld s x.part + n * f * sLim + xTerm s x disp + gRounds q x.ctx n f sLim * gTerm q x.ctx

/-- Tests 1 to 3 of R374 for a request among those already counted; each test counts the request itself. -/
def testLc (s : State) (p : Nat) (kept : List Slot) (x : Slot) (disp : Nat) : Verdict :=
  let all := kept ++ [x]
  let booked := (all.map (bookedOf s)).sum
  let adapters := (all.filterMap Slot.adapter).eraseDups.length
  let f := fFactor s p [x.pver]
  let lim := sLimOf s p f all
  let l := lim.getD 0
  let vers := (all.map Slot.pver).eraseDups
  let pages := (all.map fun y => streamPages s p y.pver (lcKeys y)).foldl max 0
  let sLc := (vers.map fun v => boundNs s p v (ceilDiv booked 64) pages).foldl max 0
  let intv := f * l + gTerm (partOf s p) x.ctx
  if (partOf s p).colBudget < booked || 32 < adapters then ⟨1, sLc, lim, 0, intv⟩
  else if l < sLc then ⟨2, sLc, lim, 0, intv⟩
  else
    let pre := all.filter fun y => let st := if y.st == .preempted then y.back else y.st
      (st == .prefill || st == .admitting) && decide (y.delivered = 0)
    let late := pre.any fun y =>
      decide (y.accTime + y.ttft * 1000 < nowNs s + projTtft s y f l (if y == x then disp else 0))
    ⟨if late then 3 else 0, sLc, lim, projTtft s x f l disp, intv⟩

/-- Whether a GENERATE partition of this module can take an LC request's decode: its version, the tests of R374, its pages
(R331). -/
def decodeFits (s : State) (p : Nat) (x : Slot) : Bool :=
  (viewIn s p x).any fun v => (partOf s p).role == .generate &&
    (testLc s p ((lcSlots s p).map (slotOf s) ++ (promisedTo s p).map Prod.snd) v 0).test == 0 && canReserve s p v.pver (List.range (setsOf v))

/-- The targets an LC request of a PROMPT partition may reserve (R331); what another module's partition could take is not
known here, so it is a free value of draw `k` (log 18). -/
def reserveTargets (s : State) (k : Nat) (x : Slot) : List (Nat × Nat) :=
  (partOf s x.part).targets.filter fun t =>
    if t.1 = s.lnk.modNum then decodeFits s t.2 x
    else (routeOf s t.1).reachable && !Sys2Proof.Config.remoteCache t.1 t.2 && Sys2Proof.Config.remoteFits t.1 t.2 k

/-- S_LIM as PART_ADM codes it (Table 15-4), from ns. -/
def sLimCode (l : Option Nat) : Nat :=
  match l with
  | none => 0xFFFFFFFF
  | some v => min (v / 1000) 0xFFFFFFFE

/-- An ADM_REFUSE record (Table 19-18). -/
def admRefuse (s : State) (p n : Nat) (v : Verdict) : State :=
  let s1 := modPart s p fun q => { q with refused := satAdd 16 q.refused 1 }
  let t := if v.test = 3 then min (v.ttft / 1000) 0xFFFFFFFF else 0
  pushErr s1 .admRefuse { status := .deadlineUnmet, part := p, block := some (min (v.sLc / 1000) 0xFFFFFFFE + sLimCode v.sLim * 2 ^ 32),
                          detail := [n, v.test, 0, t] }

/-- Recompute S_LIM and F2 of a partition (R313, R373). -/
def refreshAdm (s : State) (p : Nat) : State :=
  let l := partSLim s p
  let f := fFactor s p []
  modPart s p fun q => { q with sLim := l, f2 := f == 2 }

/-! ### Re-admission (R379 to R381) -/

/-- Notice DETAIL (Table 17-6). -/
def noticeDetail (first latest ttft intv : Nat) : Nat :=
  first % 256 + latest % 256 * 2 ^ 8 + min ttft 0xFFFFFF * 2 ^ 16 + min intv 0xFFFFFF * 2 ^ 40

/-- Post one notice of a slot: journal NOTICE, then the completion. -/
def postNotice (s : State) (n kind : Nat) (st : Status) (d : Nat) : State :=
  let s1 := journal s (slotSrc (slotOf s n) n) 4 st d
  postSlotCpl s1 n (slotCpl s1 (slotOf s1 n) n kind st d true)

/-- Whether a partition's declared events still wait for their work: repair or rebalance, PACE_LOW, the supply. -/
def eventsOpen (s : State) (p : Nat) : Bool :=
  let q := partOf s p
  !q.stopWhy.isEmpty || s.pwr.supply != 0

/-- Requests in the order of R379: admission time, then slot number. -/
def readmitOrder (s : State) (p : Nat) : List Nat :=
  (lcSlots s p).mergeSort fun a b =>
    let ta := (slotOf s a).admTime
    let tb := (slotOf s b).admTime
    if ta = tb then decide (a ≤ b) else decide (ta < tb)

/-- Whether the reservations of the kept requests and of one more fit the free and BE pages of every pool (R349). -/
def keptFits (s : State) (p : Nat) (all : List Slot) : Bool :=
  (poolsOf s p).all fun n =>
    let need := (all.map fun x => needOf s p (placesOf s p x.pver) (reservedIdx x) n).sum
    decide (need ≤ poolFree s p n + bePages s p n)

/-- What the reservations of some requests lack of the free pages of each pool: BE sequences give way for it (R349). -/
def keptShort (s : State) (p : Nat) (all : List Slot) : List (Nat × Nat) :=
  (poolsOf s p).filterMap fun n =>
    let need := (all.map fun x => needOf s p (placesOf s p x.pver) (reservedIdx x) n).sum
    if need ≤ poolFree s p n then none else some (n, need - poolFree s p n)

/-- One request's verdict: HOLDS keeps it, LOST makes it BE for life. -/
def verdictOne (d : Declared) (acc : State × List Slot) (n : Nat) : State × List Slot :=
  let (s, kept) := acc
  let x := slotOf s n
  let v := testLc s x.part kept x (displaceNs s x.part (keptShort s x.part (kept ++ [x])))
  if v.test = 0 && keptFits s x.part (kept ++ [x]) then
    let t := if x.delivered = 0 then ceilDiv v.ttft 1000 else 0
    (postNotice s n 3 .ok (noticeDetail d.first d.latest t (ceilDiv v.intv 1000)), kept ++ [x])
  else
    let s1 := setSlot s n { x with lost := true, reserved := 0 }
    (postNotice s1 n 3 .deadlineUnmet (noticeDetail d.first d.latest 0 0), kept)

/-- A handoff reserved in a partition that re-admission runs over (R381): kept there, else moved to another permitted target,
else LOST. -/
def verdictPromised (p : Nat) (d : Declared) (acc : State × List Slot) (v : Nat × Slot) : State × List Slot :=
  let (s, kept) := acc
  if (testLc s p kept v.2 (displaceNs s p (keptShort s p (kept ++ [v.2])))).test = 0 && keptFits s p (kept ++ [v.2]) then (s, kept ++ [v.2])
  else
    let (k, s0) := drawFree s 1
    let x := slotOf s0 v.1
    match (reserveTargets s0 k x).find? (· != (s0.lnk.modNum, p)) with
    | some t => (modSlot s0 v.1 fun x => { x with target := some t }, kept)
    | none =>
      let s1 := modSlot s0 v.1 fun x => { x with lost := true, reserved := 0, target := none }
      (postNotice s1 v.1 3 .deadlineUnmet (noticeDetail d.first d.latest 0 0), kept)

/-- Victims while reservations exceed a pool: BE slots, then the LOST requests, then LC slots (R351, R381). -/
def shedFor (s : State) (p : Nat) : State :=
  (poolsOf s p).foldl (fun s n =>
    let be := victims s p n [] false
    doomFor s n (poolReserved s p n - poolFree s p n - leaving s p n)
      (be.filter (fun v => !(slotOf s v).lost) ++ be.filter (fun v => (slotOf s v).lost) ++ victims s p n [] true)) s

/-- Run re-admission over a partition (R379 to R381): under PACE_LOW every request receives NOTICE_SUSPENDED and keeps
its place; otherwise verdicts, notices, S_LIM over the kept, and the promise again. -/
def runReadmission (s : State) (p : Nat) (d : Declared) : State :=
  if (partOf s p).paceLow then
    (readmitOrder s p).foldl (fun s n =>
      if (slotOf s n).note == some d.latest then s
      else postNotice (modSlot s n fun x => { x with note := some d.latest }) n 4 .ok (noticeDetail d.first d.latest 0 0)) s
  else
    let own := (readmitOrder s p).foldl (verdictOne d) (s, [])
    let s1 := ((promisedTo own.1 p).foldl (verdictPromised p d) own).1
    let s2 := shedFor s1 p
    let s3 := refreshAdm s2 p
    let s4 := modPart s3 p fun q => { q with suspended := false, declared := none }
    { s4 with slots := s4.slots.map fun e => if e.2.part == p then (e.1, { e.2 with note := none }) else e }

end Sys2Proof.Machine
end

