-- ==== Sys2Proof/Machine/Power.lean ====
section
/-! DEFINITION. Power, throttle, thermal limits, supply and sleep commands (chapter 22). -/

namespace Sys2Proof.Machine

/-- The budget check of R507: one excess a run, counted and recorded at its first evaluation; after a throttle begins the 1 ms limit
binds from 2 ms on, the 10 ms limit from 10 ms on (R514). -/
def budgetCheck (s : State) (p1 p10 : Nat) : State :=
  let b := envBudget (envNow s)
  let binds (ms : Nat) : Bool := s.pwr.bindFrom.all fun t => decide (t + ms * 1000000 ≤ nowNs s)
  let over10 := binds 10 && decide (b < p10)
  let over1 := binds 2 && decide (105 * b < 100 * p1)
  let hit := over10 || over1
  let s1 := { s with pwr := { s.pwr with overRun := hit } }
  if hit && !s.pwr.overRun then
    pushErr { s1 with pwr := { s1.pwr with overBudget := satAdd 16 s1.pwr.overBudget 1 } } .pwrOverBudget
      { detail := [p1, p10] }
  else s1

/-- One die's voltage plan for a grant in 0.1 W (R511), or the idle setting of R510. -/
def planDie (s : State) (d grant : Nat) : State :=
  let mt := envMinTarget (envNow s)
  let sc := envScreen (envNow s)
  modDie s d fun x =>
    if !x.powered then x
    else if !dieActive s d then { x with grantW := 0, target := mt, vBase := sc }
    else
      let vm := max 550 x.vcore
      let vp := planV x.powerW vm grant
      let t := x.paceMin * pace50 vp / pace50 vm
      { x with grantW := grant / 10, target := max t mt, vBase := max vp sc }

/-- POWER_GRANT_TICK (R507, R510, R511): the input readings, the budget check, the grants and each die's plan. `dieW`
is each compute die's core power over the last ms in 0.1 W; `p1` and `p10` are in W. -/
def execPowerGrantTick (mv ma10 p1 p10 : Nat) (dieW : List Nat) (s : State) : Res :=
  if !s.side.mainOn then .next s
  else
    let s2 := budgetCheck { s with pwr := { s.pwr with vin := mv, iin := ma10, p1 := p1, p10 := p10 } } p1 p10
    let on := (List.range 16).filter fun d => (dieOf s2 d).powered
    let s3 := on.foldl (fun s d => modDie s d fun x => { x with powerW := dieW.getD d 0 }) s2
    let act := on.filter (dieActive s3)
    let core := (on.map fun d => dieW.getD d 0).sum
    let idle := ((on.filter fun d => !dieActive s3 d).map fun d => dieW.getD d 0).sum
    let non := p1 * 10 - core
    let grant := if act.isEmpty then 0 else (envBudget (envNow s3) * 10 - non - idle) / act.length
    .next (on.foldl (fun s d => planDie s d grant) s3)

/-! ### Junction sensors (R508, R509) -/

/-- A tile's junction sensor. -/
def tempOf (s : State) (t : Nat) : TileSense := tabGet s.pwr.sense t TileSense.init

/-- The own readings of a tile's mesh neighbours in service. -/
def nearTemps (s : State) (t : Nat) : List Int :=
  (([Port.n, .e, .s, .w].filterMap (neighbour t)).filter (tileInService s)).map fun u => (tempOf s u).temp

/-- The hottest of some readings. -/
def hottest : List Int → Int
  | [] => 0
  | a :: r => r.foldl max a

/-- The reading used for a tile: its own, or for a failed sensor the hottest neighbour's plus 5 °C (R509). -/
def tempUsed (s : State) (t : Nat) : Int :=
  if (tempOf s t).sensorBad && !(nearTemps s t).isEmpty then hottest (nearTemps s t) + 20 else (tempOf s t).temp

/-- Whether a tile's reading differs from its neighbours' mean by more than 10 °C (R509). -/
def tempOff (s : State) (t : Nat) : Bool :=
  let ns := nearTemps s t
  let k : Int := ns.length
  let gap := (tempOf s t).temp * k - ns.sum
  !ns.isEmpty && (decide (40 * k < gap) || decide (gap < -(40 * k)))

/-- The readings of a compute die's 64 sensors by tile index (R17): its rows 0-3, then its rows 4-7. -/
def dieTemps (north south : List Int) : List Int := (List.range 32).map (north.getD · 0) ++ (List.range 32).map (south.getD · 0)

/-- Take the readings of compute die `d`'s 64 sensors, and note since when each is off (R508, R509). -/
def takeTemps (s : State) (d : Nat) (temps : List Int) : State :=
  let put (s : State) (i : Nat) (f : TileSense → TileSense) : State :=
    { s with pwr := { s.pwr with sense := tabMod s.pwr.sense (d * 64 + i) TileSense.init f } }
  let s1 := (List.range 64).foldl (fun s i => put s i fun x => { x with temp := temps.getD i 0 }) s
  (List.range 64).foldl (fun s i => put s i fun x =>
    { x with offFrom := if tempOff s1 (d * 64 + i) then some (x.offFrom.getD (nowNs s)) else none }) s1

/-- THERMAL_VLIMIT_TICK (R508, R512): the readings of a die's sensors in 0.25 °C, those of tile rows 0-3 and of rows 4-7 of a
compute die (each row by row, R17), or `io`, the one of an XD die; above TJ_MAX
a compute die's v_limit falls 10 mV, and it rises 5 mV once the hottest reads TJ_MAX − 3 °C or less. TMEAN rounds down
(notes/assumptions/11.md). -/
def execThermalVlimitTick (die : Fin 20) (north south : List Int) (io : Int) (s : State) : Res :=
  if !s.side.mainOn then .next s
  else
    let d := die.val
    let s0 := if d < 16 then takeTemps s d (dieTemps north south) else s
    let used := if d < 16 then (List.range 64).map fun i => tempUsed s0 (d * 64 + i) else [io]
    let tmax := hottest used
    let hot := if d < 16 then used.findIdx (· == tmax) else 0
    let tj := envTj s.pwr.envelope * 4
    let x := dieOf s d
    let drop := if 16 ≤ d then 0 else if tmax > tj then x.drop + 10 else if tmax ≤ tj - 12 then x.drop - 5 else x.drop
    let s1 := modDie s0 d fun x =>
      { x with tMax := tmax, tMean := used.sum.fdiv used.length, hotTile := hot, drop := min drop 900,
               thermHigh := decide (tmax > tj) }
    if tmax > tj && !x.thermHigh then
      let u : UnitId := if d < 16 then ⟨.tile, d, hot⟩ else ⟨.none, d, 0⟩
      .next (pushErr { s1 with pwr := { s1.pwr with thermEvents := satAdd 16 s1.pwr.thermEvents 1 } } .thermalHigh
        { unit := u, detail := [d] })
    else .next s1

/-- SENSOR_FAIL (R509): a reading off its neighbours' mean by more than 10 °C for 10 s; from then on the hottest neighbour plus
5 °C stands for the sensor, until the next boot. -/
def execSensorFail (t : Fin 1024) (s : State) : Res :=
  let x := tempOf s t
  if !s.side.mainOn || x.sensorBad || !(x.offFrom.any fun a => decide (a + 10000000000 ≤ nowNs s)) then .next s
  else
    let sn := tabMod s.pwr.sense t.val TileSense.init fun x => { x with sensorBad := true }
    .next (pushErr { s with pwr := { s.pwr with sense := sn } } .sensorFail { unit := tileUnit t.val, detail := [t.val] })

/-- A record put straight into the SRAM copy, where module memory is lost (R513). -/
def errNow (s : State) (c : RecCode) (a : ErrArgs) : State :=
  let s1 := pushErr { s with log := { s.log with errQueue := [] } } c a
  let es := s1.log.errQueue.map fun e => { e with seq := s1.log.errSeq + 1 }
  let ring := s1.log.errRing ++ es
  { s1 with log := { s1.log with errRing := ring.drop (ring.length - 256), errSeq := s1.log.errSeq + es.length,
                                 errQueue := [] } }

/-- THERMAL_TRIP (R513): an XD0 sensor removes all power; any other leaves the control island in RECOVERY. -/
def execThermalTrip (die : Fin 20) (s : State) : Res :=
  if !s.side.mainOn then .next s
  else if die.val = 16 then .next (powerLoss s)
  else
    let s1 := modDie s die.val fun x => { x with tMax := max x.tMax 500 }
    let u : UnitId := if die.val < 16 then dieUnit die.val else ⟨.none, die.val, 0⟩
    let s2 := errNow s1 .thermalTrip { unit := u, detail := [die.val] }
    let s3 := (List.range 20).foldl powerDown (keepIsland s2)
    let s4 := { s3 with ras := { s3.ras with alert := true } }
    .next { s4 with boot := { s4.boot with st := .recovery }, pwr := { s4.pwr with sleep := .awake },
                    hif := { s4.hif with numVfs := 0 } }

/-- Times of filtered THROTTLE_N edges in the last 2 ms, this one included (R534). -/
def edgesNow (s : State) : List Nat := (s.side.edges.filter fun t => decide (nowNs s < t + 2000000)) ++ [nowNs s]

/-- A record and the event of one filtered edge, whether or not the values in force change (R514). -/
def throttleEvent (s : State) (code : Nat) : State :=
  declareEvent (pushErr s .throttle { event := code, detail := [code] }) code (livePartitions s)

/-- THROTTLE_N becomes a cause (R514). -/
def throttleSet (s : State) : State :=
  let had := throttleOn s
  let s1 := { s with side := { s.side with throttle := true, thrAt := if s.side.throttle then s.side.thrAt else nowNs s } }
  if had then s1 else throttleBegin s1

/-- THROTTLE_N ceases to be a cause (R514). -/
def throttleClear (s : State) : State :=
  let s1 := { s with side := { s.side with throttle := false, stuck := false, stuckAt := 0 } }
  if throttleOn s && !throttleOn s1 then throttleEnd s1 else s1

/-- The toggle hold of R534 begins: as asserted, 0x0031 if the input was deasserted until this edge. -/
def toggleBegin (s : State) (was : Bool) : State :=
  let c := tabMod s.side.counts 3 0 fun n => satAdd 16 n 1
  let s1 := { s with side := { s.side with held := true, counts := c } }
  let s2 := throttleSet (pushErr s1 .sideToggle { detail := [2] })
  if was then s2 else throttleEvent s2 0x31

/-- A filtered edge of THROTTLE_N to a level. -/
def throttleEdge (s : State) (level : Bool) : State :=
  let was := s.side.thrPin
  let es := edgesNow s
  let s1 := { s with side := { s.side with thrPin := level, edges := es, lastEdge := nowNs s } }
  if s.side.held then s1
  else if es.length > 8 then toggleBegin s1 was
  else if level then throttleEvent (throttleSet s1) 0x31
  else throttleEvent (throttleClear s1) 0x32

/-- THROTTLE_ASSERT (R514, R534); with the main domain off the standby domain's filter alone follows the pin (R526). -/
def execThrottleAssert (s : State) : Res :=
  if !s.side.standby || s.side.thrPin then .next s
  else .next (if s.side.mainOn then throttleEdge s true else { s with side := { s.side with thrPin := true } })

/-- THROTTLE_DEASSERT (R514, R534). -/
def execThrottleDeassert (s : State) : Res :=
  if !s.side.standby || !s.side.thrPin then .next s
  else .next (if s.side.mainOn then throttleEdge s false else { s with side := { s.side with thrPin := false } })

/-- THROTTLE_HOLD_END (R534): no filtered edge for HOLD_MS ends the hold and the pin's level applies. -/
def execThrottleHoldEnd (s : State) : Res :=
  if s.side.held && decide (s.side.lastEdge + s.side.holdMs * 1000000 ≤ nowNs s) then
    let s1 := { s with side := { s.side with held := false, edges := [] } }
    .next (if s.side.thrPin then s1 else throttleEvent (throttleClear s1) 0x32)
  else .next s

/-- THROTTLE_STUCK_TIMER (R534): beyond STUCK_S, and every hour after, a SIDE_STUCK record. -/
def execThrottleStuckTimer (s : State) : Res :=
  let due := if s.side.stuck then s.side.stuckAt + 3600000000000 else s.side.thrAt + s.side.stuckS * 1000000000
  if s.side.throttle && decide (due < nowNs s) then
    .next (pushErr { s with side := { s.side with stuck := true, stuckAt := nowNs s } } .sideStuck { detail := [2] })
  else .next s

/-- SUPPLY_OUT_OF_RANGE (R515): a 1 ms mean outside 40-60 V applies the throttle envelope and declares 0x0033. -/
def execSupplyOutOfRange (mv : Nat) (s : State) : Res :=
  if !s.side.mainOn || (decide (40000 ≤ mv) && decide (mv ≤ 60000)) then .next s
  else
    let code := if mv < 40000 then 1 else 2
    let s1 := { s with pwr := { s.pwr with supply := code, vin := mv } }
    if s.pwr.supply ≠ 0 then .next s1
    else
      let s2 := if throttleOn s then s1 else throttleBegin s1
      let s3 := pushErr s2 .supplyRange { event := 0x33, detail := [mv] }
      .next (declareEvent s3 0x33 (livePartitions s3))

/-- SUPPLY_RESTORED (R515): 41-59 V for 100 ms; re-admission of 0x0033 may then run. -/
def execSupplyRestored (mv : Nat) (s : State) : Res :=
  if s.pwr.supply = 0 || decide (mv < 41000) || decide (59000 < mv) then .next s
  else
    let s1 := { s with pwr := { s.pwr with supply := 0, vin := mv } }
    let s2 := if s.side.throttle then s1 else throttleEnd s1
    .next (pushErr s2 .supplyRange { detail := [mv] })

/-- SUPPLY_SHUTOFF (R515): below 36 V or above 64 V the power stage shuts off, a power loss of both domains. -/
def execSupplyShutoff (s : State) : Res :=
  let s1 := powerLoss s
  .next { s1 with side := { s1.side with standby := false } }

/-- Whether an origin may write PWR_SLEEP (Table 24-6): PF0, the relay window, the management port. -/
def regOrigin (o : Origin) : Bool :=
  match o with
  | .pf0 | .relay _ | .mgmt => true
  | _ => false

/-- The ledger entry of a write to PWR_SLEEP. -/
def sleepLedger (s : State) (o : Origin) (v : Nat) (act : Nat) (st : Status) : State :=
  let s1 := { s with pwr := { s.pwr with sleepStatus := st } }
  ledger s1 o { obj := 0, act := act, status := st, width := goWidth o, target := 0x10020, new := v }

/-- A SLEEP request (R516). -/
def sleepAsk (s : State) (o : Origin) : State :=
  match s.pwr.sleep with
  | .awake =>
    if canSleep s then
      let s1 := { s with pwr := { s.pwr with sleep := .entering } }
      sleepLedger s1 o 1 0 .ok
    else sleepLedger s o 1 5 .busy
  | .entering | .asleep => sleepLedger s o 1 0 .ok
  | .waking => sleepLedger s o 1 5 .busy

/-- A WAKE request (R516, R517). -/
def wakeAsk (s : State) (o : Origin) : State :=
  wakeUp (sleepLedger s o 2 0 .ok) (if o = .mgmt then .mgmtCmd else .sleepReg)

/-- SLEEP_REQUEST (R516). -/
def execSleepRequest (o : Origin) (s : State) : Res :=
  if !s.side.mainOn || !regOrigin o || s.boot.st = .recovery then .next s else .next (sleepAsk s o)

/-- WAKE_REQUEST (R516, R517). -/
def execWakeRequest (o : Origin) (s : State) : Res :=
  if !s.side.mainOn || !regOrigin o || s.boot.st = .recovery then .next s else .next (wakeAsk s o)

/-- SCRUB_WAKE (R518): asleep, a channel's pass about to overrun 24 h wakes the module for the pass. -/
def execScrubWake (s : State) : Res :=
  if s.pwr.sleep = .asleep then .next (wakeUp { s with pwr := { s.pwr with selfWake := true } } .scrub) else .next s

end Sys2Proof.Machine
end

