-- ==== Sys2Proof/Machine/BundleImg.lean ====
section
/-! DEFINITION. Bundles and code-table records as stored (R279, R292, Tables 11-3, 12-1, 12-2). -/

namespace Sys2Proof.Machine

/-- `n` bytes at `o`. -/
def slice (b : List Byte) (o n : Nat) : List Byte := (b.drop o).take n

/-- `n` bytes at `o`, as a number. -/
def sliceNat (b : List Byte) (o n : Nat) : Nat := leNat (slice b o n)

/-- Whether `n` bytes at `o` are zero. -/
def sliceZero (b : List Byte) (o n : Nat) : Bool := (slice b o n).all (· == 0)

/-- A code-table record (Table 11-3). -/
def codeTableOf (r : List Byte) : CodeTable :=
  { kindByte := sliceNat r 0 1, gen := bitsAt (sliceNat r 1 1) 0 3, reserved := bitsZero (sliceNat r 1 1) 4 7 && sliceZero r 2 2,
    checkOk := sliceNat r 4 4 == (crc32 (slice r 8 128)).toNat,
    lens := (slice r 8 128).flatMap fun b => [b.toNat % 16, b.toNat / 16] }

/-- Offset and length of section `k` of a bundle. -/
def sectionAt (b : List Byte) (k : Nat) : Nat × Nat := (sliceNat b (64 + 8 * k) 4, sliceNat b (68 + 8 * k) 4)

/-- The bytes of section `k`. -/
def sectionBytes (b : List Byte) (k : Nat) : List Byte := slice b (sectionAt b k).1 (sectionAt b k).2

/-- A tensor of a bundle, from its directory entry and the tensor data (Table 12-2): NBLOCKS places, their length bytes after
them, and its scales. -/
def tensorOf32 (d data : List Byte) : Tensor :=
  let form := sliceNat d 3 1
  let at' := sliceNat d 16 4 * 2048
  let n := sliceNat d 20 4
  let one := bitsAt form 6 6
  { layer := sliceNat d 0 2, kind := sliceNat d 2 1, fmt := bitsAt form 0 3, planes := bitsAt form 4 5, scaleForm := one,
    rows := sliceNat d 4 4, cols := sliceNat d 8 4, expert := sliceNat d 12 2, codeSlot := bitsAt (sliceNat d 14 1) 0 3,
    codeGen := bitsAt (sliceNat d 14 1) 4 7, data := sliceNat d 16 4, dest := bitsAt (sliceNat d 24 4) 0 29,
    blocks := (List.range n).map fun i => (sliceNat data (at' + 2048 * n + i) 1, slice data (at' + 2048 * i) 2048),
    scales := (List.range (if one = 1 then 1 else sliceNat d 4 4)).map fun i => BitVec.ofNat 32 (sliceNat data (sliceNat d 28 4 + 4 * i) 4) }

/-- Directory entry `i`. -/
def dirEntry (b : List Byte) (i : Nat) : List Byte := slice (sectionBytes b 0) (32 * i) 32

/-- Code-table entry `i`: an 8-byte prefix and a record. -/
def codeEntry (b : List Byte) (i : Nat) : List Byte := slice (sectionBytes b 1) (144 * i) 144

/-- Whether a directory entry's reserved fields are zero and its data lie in the tensor data section. -/
def entryStands (b : List Byte) (i : Nat) : Bool :=
  let d := dirEntry b i
  let t := tensorOf32 d []
  let len := (sectionAt b 6).2
  bitsZero (sliceNat d 3 1) 7 7 && sliceZero d 15 1 && bitsZero (sliceNat d 24 4) 30 31 &&
    decide (t.data * 2048 + t.blocks.length * 2049 ≤ len) && decide (sliceNat d 28 4 + 4 * t.scales.length ≤ len)

/-- Whether every reserved field of a bundle is zero, its sections are 2 KiB-aligned and lie in it, and its counts fit
them. -/
def bundleStands (b : List Byte) : Bool :=
  bitsZero (sliceNat b 44 1) 3 7 && sliceZero b 60 4 && sliceZero b 120 8 && sliceZero b 128 120 && sliceZero b 252 4 &&
    (sliceNat b 8 4 != 0xFFFFFFFF || sliceZero b 12 32) &&
    ((List.range 7).all fun k => let s := sectionAt b k; s.2 == 0 || s.1 % 2048 == 0 && decide (s.1 + s.2 ≤ b.length)) &&
    decide (32 * sliceNat b 56 2 ≤ (sectionAt b 0).2) && decide (144 * sliceNat b 58 1 ≤ (sectionAt b 1).2) &&
    ((List.range (sliceNat b 58 1)).all fun i => sliceZero (codeEntry b i) 1 7) &&
    (List.range (sliceNat b 56 2)).all (entryStands b)

/-- Whether section `k` is absent: its length is zero (R292). -/
def absent (b : List Byte) (k : Nat) : Bool := (sectionAt b k).2 == 0

/-- The layer parameters and MoE records of a bundle's sections 2 and 5; those of an absent section are none. -/
def paramsRead (b : List Byte) (p : LayerParams) : LayerParams :=
  { p with layers := if absent b 2 then [] else p.layers, moe := if absent b 5 then [] else p.moe }

/-- The step-program images and feed tables of a bundle's sections 3 and 4; those of an absent section are none. -/
def programRead (b : List Byte) (g : ProgramImage) : ProgramImage :=
  { g with images := if absent b 3 then [] else g.images, feeds := if absent b 4 then [] else g.feeds }

/-- A bundle from its image; sections 2 to 5, for which the spec gives no byte layout but for what they contain, come read, and
hold nothing where absent. -/
def bundleRead (g : BundleImage) : Bundle :=
  let b := g.bytes
  { id := sliceNat b 0 4, version := sliceNat b 4 4,
    base := if sliceNat b 8 4 = 0xFFFFFFFF then none else some (sliceNat b 8 4, sliceNat b 12 32),
    shared := (sliceNat b 44 1).testBit 0, mirror := (sliceNat b 44 1).testBit 1, moe := (sliceNat b 44 1).testBit 2,
    stochastic := (sliceNat b 45 1).testBit 0, page4k := bitsAt (sliceNat b 45 1) 1 7, nlayers := sliceNat b 46 2,
    dModel := sliceNat b 48 4, vocab := sliceNat b 52 4,
    codes := (List.range (sliceNat b 58 1)).map fun i => (sliceNat (codeEntry b i) 0 1, codeTableOf (slice (codeEntry b i) 8 136)),
    kvSlot := bitsAt (sliceNat b 59 1) 0 3, kvGen := bitsAt (sliceNat b 59 1) 4 7,
    checkOk := sliceNat b 248 4 == (crc32 (slice b 0 248)).toNat, reserved := bundleStands b, dataAt := (sectionAt b 6).1,
    tensors := (List.range (sliceNat b 56 2)).map fun i => tensorOf32 (dirEntry b i) (sectionBytes b 6),
    params := paramsRead b g.params, program := programRead b g.program }

end Sys2Proof.Machine
end

