-- ==== Sys2Proof/Machine/Records.lean ====
section
/-! DEFINITION. Byte layouts of the records the module writes to host memory and shows in registers (R410 to R420,
R452, R553). -/

namespace Sys2Proof.Machine

/-- Bytes 0-59 followed by the CRC-32 CHECK of Tables 17-9, 17-10 and 19-1. -/
def withCheck (bs : List Byte) : List Byte := bs ++ leBytes 4 (crc32 bs).toNat

/-- A journal entry (Table 17-9). -/
def jBytes (e : JEntry) : List Byte :=
  withCheck (leBytes 8 e.seq ++ leBytes 8 e.tag ++ leBytes 8 e.time ++ leBytes 2 e.origin ++ leBytes 1 e.kind ++
    leBytes 1 (statusNumber e.status) ++ leBytes 2 e.cmd ++ leBytes 1 e.src ++ leBytes 1 e.ctx ++ leBytes 4 e.slot ++
    leBytes 4 e.ridx ++ leBytes 8 e.detail ++ leBytes 12 0)

/-- An entry of a poisoned block as R418 copies it: SEQ, KIND 15, all else zero. -/
def jLostBytes (seq : Nat) : List Byte := leBytes 8 seq ++ leBytes 18 0 ++ leBytes 1 15 ++ leBytes 37 0

/-- A change-ledger entry (Table 17-10). -/
def ledgerBytes (e : LedgerEntry) : List Byte :=
  withCheck (leBytes 8 e.seq ++ leBytes 8 e.time ++ leBytes 2 e.origin ++ leBytes 1 e.obj ++ leBytes 1 e.act ++
    leBytes 1 (statusNumber e.status) ++ leBytes 1 e.part ++ leBytes 2 e.width ++ leBytes 4 e.target ++
    leBytes 8 e.old ++ leBytes 8 e.new ++ leBytes 8 e.step ++ leBytes 8 0)

/-- The UKIND number (Table 19-1). -/
def ukindNum : UKind → Nat
  | .tile => 0 | .scoreRow => 1 | .channel => 2 | .expander => 3 | .edgeLink => 4 | .port => 5 | .core => 6
  | .soInst => 7 | .computeDie => 8 | .none => 15

/-- The unit kind of a UKIND number. -/
def ukindOf (n : Nat) : UKind :=
  match n with
  | 0 => .tile | 1 => .scoreRow | 2 => .channel | 3 => .expander | 4 => .edgeLink | 5 => .port | 6 => .core
  | 7 => .soInst | 8 => .computeDie | _ => .none

/-- Widths in bytes of the DETAIL fields Table 19-18 fixes, by record; none for every other record. -/
def detailWidths : RecCode → Option (List Nat)
  | .memPoison => some [1, 1, 2]
  | .memMigrate => some [4, 4]
  | .admRefuse | .admLate => some [2, 1, 1, 4]
  | .wake => some [1, 1, 1]
  | .sideGlitch | .sideToggle | .sideStuck => some [1]
  | .sideModid => some [1, 1, 1, 1]
  | .gsyncFallback | .gsyncLock => some [1, 1]
  | .mgmtRefused => some [1, 1, 2, 4]
  | _ => none

/-- Bytes 52-59: the table's layout, or the part's own (notes/assumptions/13.md). -/
def detailOf (e : ErrRec) : List Byte :=
  let bs := match detailWidths e.code with
    | some ws => (ws.zip e.detail).flatMap fun x => leBytes x.1 x.2
    | none => Sys2Proof.Config.detailBytes (recNumber e.code) e.detail
  (bs ++ leBytes 8 0).take 8

/-- A signed number in 16 bits. -/
def sBytes2 (z : Int) : List Byte := leBytes 2 (z % 65536).toNat

/-- An error record (Table 19-1). -/
def errBytes (e : ErrRec) : List Byte :=
  withCheck (leBytes 8 e.seq ++ leBytes 8 e.time ++ leBytes 2 (recNumber e.code) ++ leBytes 1 e.sev ++
    leBytes 1 (statusNumber e.status) ++ leBytes 1 (ukindNum e.unit.kind) ++ leBytes 1 e.unit.die ++
    leBytes 2 e.unit.unit ++ leBytes 8 (e.block.getD (2 ^ 64 - 1)) ++ leBytes 1 e.opc ++ leBytes 1 e.part ++
    leBytes 2 e.event ++ leBytes 8 e.step ++ sBytes2 e.temp ++ leBytes 2 e.volt ++ leBytes 2 e.pace ++
    leBytes 1 e.count ++ leBytes 1 e.ustate ++ detailOf e)

/-- A step record (Table 13-4). -/
def stepBytes (r : StepRec) : List Byte :=
  let c := r.cnt
  let w2 (n : Nat) := leBytes 2 (min n 65535)
  let w4 (n : Nat) := leBytes 4 (min n (2 ^ 32 - 1))
  withCheck (leBytes 8 r.step ++ leBytes 4 r.version ++ w2 r.ncols ++ leBytes 1 r.nsets ++ leBytes 1 r.flags ++
    leBytes 8 r.tStart ++ leBytes 8 r.tEnd ++ w2 r.ndecode ++ w2 r.nprefill ++ w2 r.nspec ++ w2 r.nemit ++
    w2 r.specAccepted ++ leBytes 2 r.event ++ w2 c.nonfinite ++ w2 c.accSat ++ w2 c.kvCount ++ w2 c.metaFaults ++
    w2 c.denseLayers ++ w2 c.adapterDefer ++ w4 c.bandsComputed ++ w4 c.bandsAudited ++ w4 c.missFound ++
    w4 c.missMadeUp ++ w4 c.missLost ++ w4 c.moeRouted ++ w4 c.moeRerouted ++ w4 c.moeDropped ++ w4 c.prefixBlocks ++
    w2 c.prefixSkip ++ w2 c.specDiscard ++ leBytes 28 0)

end Sys2Proof.Machine
end

