-- ==== Sys2Proof/Machine/Pollis.lean ====
section
/-! DEFINITION. What the configuration flash holds, as bytes: selector records, fence lists, Pollis images and their
configuration records (R476 to R480, Tables 20-2 to 20-5). -/

namespace Sys2Proof.Machine

/-! ### Selector records and fence lists (R476, R477) -/

/-- A selector record with its CHECK (Table 20-2). -/
def selBytes (e : Selector) : List Byte :=
  let b := leBytes 8 e.seq ++ leBytes 1 e.stA ++ leBytes 1 e.stB ++ leBytes 1 e.active ++ [0] ++ leBytes 4 e.genA ++
    leBytes 4 e.genB ++ leBytes 8 0
  b ++ leBytes 4 (crc32 b).toNat

/-- The record of a selector copy, none when its CHECK does not match (R476). -/
def selOf (b : List Byte) : Option Selector :=
  if b.length < 32 ∨ sliceNat b 28 4 ≠ (crc32 (slice b 0 28)).toNat then none
  else some ⟨sliceNat b 0 8, sliceNat b 8 1, sliceNat b 9 1, sliceNat b 10 1, sliceNat b 12 4, sliceNat b 16 4⟩

/-- Entries a fence-list copy holds (R477). -/
def listCap : Nat := 8188

/-- A fence-list copy: header with its CRC, then 8-byte entries (R477). -/
def listBytes (seq : Nat) (us : List UnitId) : List Byte :=
  let es := us.take listCap
  let h := leBytes 8 seq ++ leBytes 4 es.length ++ leBytes 16 0
  let d := es.flatMap fun u => leBytes 1 (ukindNum u.kind) ++ leBytes 1 u.die ++ leBytes 2 u.unit ++ leBytes 4 0
  h ++ leBytes 4 (crc32 (h ++ d)).toNat ++ d

/-- A fence-list copy as (SEQ, units), none when its CRC does not match (R477). -/
def listOf (b : List Byte) : Option (Nat × List UnitId) :=
  let n := sliceNat b 8 4
  let d := slice b 32 (8 * n)
  if b.length < 32 + 8 * n ∨ listCap < n ∨ sliceNat b 28 4 ≠ (crc32 (slice b 0 28 ++ d)).toNat then none
  else some (sliceNat b 0 8, (List.range n).map fun i =>
    ⟨ukindOf (sliceNat d (8 * i) 1), sliceNat d (8 * i + 1) 1, sliceNat d (8 * i + 2) 2⟩)

/-! ### Image headers (R478, Table 20-4) -/

/-- KEY_ID. -/
def polKey (i : List Byte) : Nat := sliceNat i 6 1
/-- CTR. -/
def polCtr (i : List Byte) : Nat := sliceNat i 7 1
/-- LENGTH. -/
def polLen (i : List Byte) : Nat := sliceNat i 8 4
/-- IMG_VERSION. -/
def polVer (i : List Byte) : Nat := sliceNat i 12 4
/-- SVN. -/
def polSvn (i : List Byte) : Nat := sliceNat i 16 4
/-- TRK_FMT. -/
def polTrk (i : List Byte) : Nat := sliceNat i 20 4
/-- Offset and length of section `k`. -/
def polAt (i : List Byte) (k : Nat) : Nat × Nat := (sliceNat i (24 + 8 * k) 4, sliceNat i (28 + 8 * k) 4)
/-- The bytes of section `k`. -/
def polSection (i : List Byte) (k : Nat) : List Byte := slice i (polAt i k).1 (polAt i k).2

/-- Whether the header's fields are those of Table 20-4, its reserved ones zero, its sections 4 KiB-aligned and before the
signature. -/
def polHeader (i : List Byte) : Bool :=
  sliceNat i 0 4 == 0x534C4C50 && sliceNat i 4 2 == 1 && decide (polKey i < 8) && decide (polCtr i < 64) &&
    decide (polSvn i < 64) && sliceZero i 64 192 && decide (320 ≤ polLen i) && decide (i.length = polLen i) &&
    (List.range 5).all fun k => (polAt i k).2 == 0 || (decide (256 ≤ (polAt i k).1) && (polAt i k).1 % 4096 == 0 &&
      decide ((polAt i k).1 + (polAt i k).2 + 64 ≤ polLen i))

/-- Whether the signature over bytes 0 to LENGTH − 65 verifies under KEY_ID (R478). -/
def polSigned (i : List Byte) : Bool :=
  Sys2Proof.Config.verifySig (polKey i) (sha256 (i.take (polLen i - 64))) (slice i (polLen i - 64) 64)

/-! ### Configuration records (R479, Table 20-5) -/

/-- The records of a configuration section, each with its header; none when it does not divide into records. -/
def recSplit : Nat → List Byte → Option (List (List Byte))
  | 0, b => if b.isEmpty then some [] else none
  | n + 1, b =>
    let l := sliceNat b 2 2
    if b.isEmpty then some []
    else if l % 8 ≠ 0 ∨ b.length < 8 + l then none
    else (recSplit n (b.drop (8 + l))).map (b.take (8 + l) :: ·)

/-- An envelope's code (Table 20-5). -/
def envOf (n : Nat) : Option Envelope := match n with | 0 => some .air | 1 => some .immersion | 2 => some .liquid | _ => none

/-- The class of a MEM_REGION CLASS code (Table 10-9). -/
def classOf (n : Nat) : Option MemClass := match n with | 0 => some .w | 1 => some .s | 2 => some .a | _ => none

/-- The owner of a MEM_REGION OWNER code. -/
def ownerOf (n : Nat) : Option Owner :=
  if n < 8 then some (.part (Fin.ofNat 8 n)) else if n = 8 then some .shared else if n = 9 then some .module else none

/-- The role of a ROLE code (Table 13-6). -/
def roleOf (n : Nat) : Role := match n % 4 with | 0 => .mixed | 1 => .prompt | 2 => .generate | _ => .cache

/-- Keep a value when a condition holds. -/
def onlyIf {α : Type} (c : Bool) (x : Option α) : Option α := if c then x else none

/-- A REGION body, as MEM_REGION bits [63:0] with VALID set. -/
def regionBody (n v : Nat) : Option ConfBody :=
  match classOf (bitsAt v 1 2), ownerOf (bitsAt v 8 11) with
  | some c, some o => onlyIf (bitsAt v 0 0 == 1 && bitsZero v 12 15 && bitsZero v 27 31 && bitsZero v 56 63)
      (some (.region n ⟨c, bitsAt v 3 3 == 1, bitsAt v 4 7, o, bitsAt v 16 26, bitsAt v 32 43, bitsAt v 44 55⟩))
  | _, _ => none

/-- A PARTITION body: PART_CFG with VALID set, SRV_PART, SRV_POOL, COLBUDGET, TREE_NODES; what their registers report of
the running machine is not read. -/
def partBody (n : Nat) (b : List Byte) : Option ConfBody :=
  let c := sliceNat b 0 8
  let v := sliceNat b 8 8
  let g := sliceNat b 16 4
  onlyIf (decide (n < 8) && bitsAt c 16 16 == 1 && bitsZero c 17 19 && bitsZero c 31 31 && bitsZero c 44 63 && bitsZero v 17 31 &&
      bitsZero v 53 63 && bitsZero g 14 31 && sliceZero b 22 2 && sliceZero b 28 4)
    (some (.partition (Fin.ofNat 8 n) (bitsAt c 0 15) (bitsAt c 20 25) (bitsAt v 0 16) (roleOf (bitsAt v 49 50)) (bitsAt v 51 52)
      (bitsAt g 0 6) (bitsAt g 7 13) (sliceNat b 20 2) (sliceNat b 24 4)))

/-- The body of a record of KIND `k` and INDEX `n`; none where Table 20-5 gives it no such body. -/
def recBody (k n : Nat) (b : List Byte) : Option ConfBody :=
  let v := sliceNat b 0 8
  let one := decide (b.length = 8)
  match k with
  | 1 => match envOf (bitsAt v 0 7), envOf (bitsAt v 8 15) with
    | some e, some t => onlyIf (one && n == 0 && bitsZero v 16 63) (some (.envelope e t))
    | _, _ => none
  | 2 => onlyIf (one && n == 0 && bitsZero v 9 63) (some (.host (bitsAt v 0 7) (bitsAt v 8 8 == 1)))
  | 3 => onlyIf (one && n == 0 && bitsZero v 49 63)
      (some (.group (bitsAt v 0 31) (bitsAt v 32 39) (bitsAt v 40 47) (bitsAt v 48 48 == 1)))
  | 4 => onlyIf (one && bitsZero v 56 63) (some (.route n (bitsAt v 0 23) (bitsAt v 24 47) (bitsAt v 48 53)))
  | 5 => onlyIf one (regionBody n v)
  | 6 => onlyIf (decide (b.length = 32)) (partBody n b)
  | 7 => onlyIf (one && decide (1 ≤ n) && decide (n ≤ 8) && bitsZero v 10 63)
      (some (.vfBind (Fin.ofNat 9 n) (Fin.ofNat 8 (bitsAt v 0 2)) (bitsAt v 3 8) (bitsAt v 9 9 == 1)))
  | 8 =>
    let ts := (List.range (b.length / 2)).map fun i => sliceNat b (2 * i) 2
    onlyIf (decide (n < 8) && decide (b.length ≤ 32) && ts.all fun t => bitsZero t 6 7 && bitsZero t 11 15)
      (some (.roleTable (Fin.ofNat 8 n) (ts.map fun t => (bitsAt t 0 5, bitsAt t 8 10))))
  | 9 => onlyIf (decide (b.length = 24) && n == 0 && sliceZero b 5 3)
      (some (.field (sliceNat b 0 4) (sliceNat b 4 1) (sliceNat b 8 8) (sliceNat b 16 8)))
  | 10 => onlyIf (one && n == 0 && bitsZero v 8 63) (some (.fenceMin (bitsAt v 0 7)))
  | _ => none

/-- A configuration record (R479). -/
def recOf (r : List Byte) : Option ConfRec :=
  onlyIf (sliceZero r 7 1) ((recBody (sliceNat r 0 2) (sliceNat r 4 2) (r.drop 8)).map fun b => ⟨sliceNat r 6 1, b⟩)

/-- Every element a list of options holds; none when one is absent. -/
def allSome {α : Type} : List (Option α) → Option (List α)
  | [] => some []
  | none :: _ => none
  | some x :: r => (allSome r).map (x :: ·)

/-- The configuration records of an image, none when its section does not hold records alone. -/
def imgRecs (i : List Byte) : Option (List ConfRec) :=
  let b := polSection i 2
  (recSplit (b.length / 8 + 1) b).bind fun rs => allSome (rs.map recOf)

end Sys2Proof.Machine
end

