-- ==== Sys2Proof/Machine/Regs.lean ====
section
/-! DEFINITION. The register map as it reads (chapter 24): every register of PF0 BAR0, the tile windows, the ring pages
and VF BAR0, with its value in force, and the latches of wide registers. -/

namespace Sys2Proof.Machine

/-- A register: its first byte's offset, its bytes, its value. -/
structure Reg where
  off   : Nat
  bytes : Nat
  val   : Nat

/-- Fields packed from bit 0 up, each (width, value), every value cut to its width. -/
def pack : List (Nat × Nat) → Nat
  | [] => 0
  | (w, v) :: r => v % 2 ^ w + 2 ^ w * pack r

/-- The index of the instance of an array of registers that an offset lies in. -/
def inArr (x base stride n bytes : Nat) : Option Nat :=
  if base ≤ x ∧ x < base + stride * n ∧ (x - base) % stride < bytes then some ((x - base) / stride) else none

/-- One bit of a Bool. -/
def bit (b : Bool) : Nat := if b then 1 else 0

/-- The mask of the numbers below `n` that satisfy a test. -/
def maskOf (n : Nat) (f : Nat → Bool) : Nat := ((List.range n).filter f).foldl (fun a i => a + 2 ^ i) 0

/-- A signed number in a field of `w` bits. -/
def sField (w : Nat) (z : Int) : Nat := (z % (2 ^ w : Nat)).toNat

/-! ### GLB, PWR, TMB -/

/-- The selector copy in use: the valid one with the higher SEQ (R476). -/
def selNow (f : Flash) : Option Selector :=
  match selOf f.sel0, selOf f.sel1 with
  | some a, some b => some (if a.seq < b.seq then b else a)
  | some a, none => some a
  | none, b => b

/-- The selector in force; with no valid copy both slots count as TRIAL with GEN 0 (R476). -/
def selOr (f : Flash) : Selector := (selNow f).getD ⟨0, 2, 2, 0, 0, 0⟩

/-- GLB_SLOT n (Table 20-12). -/
def glbSlot (s : State) (n : Nat) : Nat :=
  let e := (selNow s.boot.flash).getD ⟨0, 0, 0, 2, 0, 0⟩
  pack [(2, if n = 0 then e.stA else e.stB), (1, bit (e.active == n)), (29, 0), (32, if n = 0 then e.genA else e.genB)]

/-- The GLB block (Tables 20-10 to 20-16). -/
def regGlb (s : State) (x : Nat) : Option Reg :=
  let b := s.boot
  if x < 0x08 then some ⟨0, 8, pack [(16, 0x14), (8, Sys2Proof.Config.stepping.toNat), (6, s.side.modId), (2, 0),
                                      (32, Sys2Proof.Config.serial.toNat)]⟩
  else if x < 0x10 then some ⟨8, 8, pack [(3, b.st.code), (1, b.slot), (1, bit b.fallback), (1, bit b.confPend), (10, 0),
      (16, b.bootMs), (32, (b.fw.map polVer).getD 0)]⟩
  else if x < 0x20 then some ⟨x / 8 * 8, 8, glbSlot s ((x - 0x10) / 8)⟩
  else if x < 0x28 then some ⟨0x20, 8, b.imgAddr⟩
  else if x < 0x2C then some ⟨0x28, 4, b.imgLen⟩
  else if 0x30 ≤ x ∧ x < 0x34 then some ⟨0x30, 4, 0⟩
  else if 0x38 ≤ x ∧ x < 0x3C then some ⟨0x38, 4, pack [(2, b.imgSt), (6, 0), (8, b.imgStatus), (8, b.progress)]⟩
  else if 0x40 ≤ x ∧ x < 0x44 then some ⟨0x40, 4, pack [(1, 0), (3, b.actSt.code), (4, 0), (8, b.actStatus)]⟩
  else if 0x48 ≤ x ∧ x < 0x4C then some ⟨0x48, 4, 0⟩
  else none

/-- The PWR block (Tables 2-7 to 2-9, 22-6 to 22-10). -/
def regPwr (s : State) (x : Nat) : Option Reg :=
  let p := s.pwr
  match inArr x 0x10100 8 20 8, inArr x 0x10200 8 20 8 with
  | some n, _ =>
    let d := dieOf s n
    some ⟨0x10100 + n * 8, 8, if !d.powered then 0 else
      pack [(16, d.paceMin), (16, d.paceMean), (12, d.vcore), (4, 0), (12, d.target)]⟩
  | none, some n =>
    let d := dieOf s n
    some ⟨0x10200 + n * 8, 8, if !d.powered then 0 else
      pack [(16, sField 16 d.tMax), (16, sField 16 d.tMean), (6, d.hotTile), (10, 0), (12, d.grantW)]⟩
  | none, none =>
    if 0x10000 ≤ x ∧ x < 0x10004 then some ⟨0x10000, 4, pack [(2, envCode p.envelope), (2, envCode p.throttleEnv),
        (12, envBudget (envNow s)), (8, (envTj p.envelope).toNat)]⟩
    else if 0x10008 ≤ x ∧ x < 0x1000C then some ⟨0x10008, 4, pack [(12, floorNow s), (12, envFloor p.envelope),
        (1, bit s.side.throttle), (1, bit ((List.range 8).any fun n => (partOf s n).paceLow))]⟩
    else if 0x10010 ≤ x ∧ x < 0x10014 then some ⟨0x10010, 4, pack [(16, p.lowWindows), (16, p.stalls)]⟩
    else if 0x10018 ≤ x ∧ x < 0x10020 then some ⟨0x10018, 8, pack [(16, p.vin), (16, p.iin), (16, p.p1), (16, p.p10)]⟩
    else if 0x10020 ≤ x ∧ x < 0x10024 then
      let st := match p.sleep with | .awake => 0 | .entering => 1 | .asleep => 2 | .waking => 3
      some ⟨0x10020, 4, pack [(2, 0), (2, st), (8, statusNumber p.sleepStatus)]⟩
    else if 0x10028 ≤ x ∧ x < 0x10030 then some ⟨0x10028, 8, pack [(2, p.supply),
        (1, bit ((List.range 20).any fun n => (dieOf s n).thermHigh)), (13, 0), (16, p.overBudget), (16, p.thermEvents)]⟩
    else none

/-- The TMB block (Tables 2-10, 2-11); RATE_ADJ counts 0.01 ppm. -/
def regTmb (s : State) (x : Nat) : Option Reg :=
  if 0x20000 ≤ x ∧ x < 0x20008 then some ⟨0x20000, 8, s.tmb.now % 2 ^ 64⟩
  else if 0x20008 ≤ x ∧ x < 0x2000C then some ⟨0x20008, 4, pack [(2, s.tmb.source), (1, bit s.tmb.locked), (13, 0),
      (16, sField 16 (s.tmb.ratePpb / 10))]⟩
  else none

/-! ### HIF, PART, SRV, MEM, CMP -/

/-- A completion as a number, byte 0 lowest. -/
def cplNum (c : Cpl) : Nat := leNat (cplBytes c)

/-- The mailbox of a function at a base (Table 16-9). -/
def regMbx (s : State) (f base x : Nat) : Option Reg :=
  let m := fnOf s f
  if base ≤ x ∧ x < base + 0x40 then
    some ⟨base, 64, m.mbxWord⟩
  else if base + 0x40 ≤ x ∧ x < base + 0x44 then some ⟨base + 0x40, 4, 0⟩
  else if base + 0x48 ≤ x ∧ x < base + 0x4C then some ⟨base + 0x48, 4, pack [(1, bit m.mbxBusy), (1, bit m.mbxDone), (14, 0), (16, m.mbxSeq)]⟩
  else if base + 0x60 ≤ x ∧ x < base + 0x80 then some ⟨base + 0x60, 32, (m.mbxResp.map cplNum).getD 0⟩
  else none

/-- The MSI-X structures of a function: the mask bit of each vector's control word, and the PBA (R398). -/
def regMsix (s : State) (f tab pba x : Nat) : Option Reg :=
  let m := fnOf s f
  match inArr x tab 16 8 16 with
  | some v => some ⟨tab + v * 16, 16, pack [(32, tabGet m.msix (v * 4) 0), (32, tabGet m.msix (v * 4 + 1) 0),
      (32, tabGet m.msix (v * 4 + 2) 0), (1, bit (m.masked.contains v))]⟩
  | none => if pba ≤ x ∧ x < pba + 8 then some ⟨pba, 8, maskOf 8 m.pba.contains⟩ else none

/-- The HIF block (Tables 16-9, 16-15 to 16-19). -/
def regHif (s : State) (x : Nat) : Option Reg :=
  let h := s.hif
  match inArr x 0x30100 16 9 16, inArr x 0x30200 8 8 4 with
  | some f, _ =>
    let m := fnOf s f
    some ⟨0x30100 + f * 16, 16, pack [(32, m.viol), (16, m.pauses), (1, bit m.paused), (15, 0), (32, m.cplDrop)]⟩
  | none, some i =>
    let b := vfBind s (i + 1)
    let on := decide (i + 1 ≤ h.numVfs) && (b.remote || (partOf s b.part).valid)
    some ⟨0x30200 + i * 8, 4, pack [(3, b.part), (6, if b.remote then b.module else s.lnk.modNum), (1, bit b.remote), (1, bit on)]⟩
  | none, none =>
    if 0x30000 ≤ x ∧ x < 0x30004 then some ⟨0x30000, 4, pack [(3, h.speed), (5, h.width), (1, bit h.flit),
        (1, bit h.belowMin), (4, h.minMode)]⟩
    else if 0x30010 ≤ x ∧ x < 0x30014 then some ⟨0x30010, 4, pack [(11, h.bar4Base)]⟩
    else if 0x30018 ≤ x ∧ x < 0x3001C then some ⟨0x30018, 4, pack [(6, h.relayMod),
        (1, bit (routeOf s h.relayMod).reachable), (1, bit h.front)]⟩
    else match regMbx s 0 0x31000 x with
      | some r => some r
      | none => regMsix s 0 0x38000 0x39000 x

/-- PART_CFG's value (Table 15-3). -/
def partCfg (s : State) (n : Nat) : Nat :=
  let p := partOf s n
  let mine := (validRegions s).filter fun r => (regionOf s r).owner == n
  let share := (mine.map fun r => (regionOf s r).size * 512 - (regionOf s r).withdrawn).sum / 512
  pack [(16, p.dies), (1, bit p.valid), (3, 0), (6, p.nctx), (5, p.running), (1, 0), (12, share)]

/-- PART_ADM's value (Table 15-4). -/
def partAdm (s : State) (n : Nat) : Nat :=
  let p := partOf s n
  let lc := lcSlots s n
  pack [(32, sLimCode p.sLim), (16, lc.length), (10, (lc.map fun k => bookedOf s (slotOf s k)).sum), (1, bit p.suspended),
        (1, bit p.f2), (4, 0), (16, p.event), (16, p.refused), (16, p.beTrim), (16, p.missed)]

/-- The code of a role (Table 13-6). -/
def roleCode : Role → Nat | .mixed => 0 | .prompt => 1 | .generate => 2 | .cache => 3

/-- SRV_PART's value (Table 13-6). -/
def srvPart (s : State) (n : Nat) : Nat :=
  let p := partOf s n
  pack [(17, p.quota), (15, 0), (17, (slotsOf s n).length), (2, roleCode p.role), (2, p.soInst), (11, 0), (64, p.stepLast),
        (12, p.stepHead), (20, p.treeNodes), (16, p.dlq.length), (16, p.dlqLost), (10, p.colBudget)]

/-- SRV_POOL's value (Table 14-6). -/
def srvPool (s : State) (n : Nat) : Nat :=
  let p := partOf s n
  let ps := poolsOf s n
  let free := (ps.map (poolFree s n)).sum
  let rsv := (ps.map (poolReserved s n)).sum
  let pre := (slotsOf s n).filter fun k => (slotOf s k).st == .preempted
  let swapFree := ((p.swapArea.map Prod.snd).getD 0 - p.swapUsed) / 2 ^ 20
  pack [(7, p.poolPage), (7, p.poolMeta), (18, 0), (32, (ps.map (poolLimit s n)).sum), (32, free - rsv), (32, rsv),
        (32, (p.pages.filter fun e => e.2.st != .free && isShared e.2).length), (16, pre.length),
        (16, (pre.filter fun k => (slotOf s k).recompute).length), (32, p.preemptions), (32, min swapFree (2 ^ 32 - 1))]

/-- The PART block. -/
def regPart (s : State) (x : Nat) : Option Reg :=
  match inArr x 0x40000 0x40 8 8, inArr x 0x40010 0x40 8 16, inArr x 0x41000 0x10 256 8 with
  | some n, _, _ => some ⟨0x40000 + n * 0x40, 8, partCfg s n⟩
  | none, some n, _ => some ⟨0x40010 + n * 0x40, 16, partAdm s n⟩
  | none, none, some i =>
    let c := ctxOf (partOf s (i / 32)) (i % 32)
    some ⟨0x41000 + i * 0x10, 8, pack [(10, c.slice), (3, (ctxState (partOf s (i / 32)) (i % 32)).code), (19, 0), (32, c.switches)]⟩
  | none, none, none => none

/-- The SRV block. -/
def regSrv (s : State) (x : Nat) : Option Reg :=
  match inArr x 0x50100 0x20 8 32, inArr x 0x50400 0x20 8 32 with
  | some n, _ => some ⟨0x50100 + n * 0x20, 32, srvPart s n⟩
  | none, some n => some ⟨0x50400 + n * 0x20, 32, srvPool s n⟩
  | none, none =>
    if 0x50000 ≤ x ∧ x < 0x50004 then
      let run := s.boot.st == .run
      let up := if run then maskOf 4 fun i => unitSt s ⟨.soInst, 16 + i, 0⟩ == .inService || unitSt s ⟨.soInst, 16 + i, 0⟩ == .suspect else 0
      let cores := if run then (liveCores s).length else 0
      some ⟨0x50000, 4, pack [(4, up), (6, cores), (17, (s.slots.filter fun e => e.2.st != .free).length)]⟩
    else none

/-- The code of a memory class. -/
def classCode : MemClass → Nat | .w => 0 | .s => 1 | .a => 2

/-- Blocks of a region withdrawn with mirror copies (R264). -/
def goneIn (s : State) (r : Region) : Nat :=
  ((s.mem.gone.filter fun g => decide (r.base * 2 ^ 19 ≤ g.1) && decide (g.1 < (r.base + r.size) * 2 ^ 19)).map Prod.snd).sum

/-- MEM_REGION's value (Table 10-9): WITHDRAWN counts ranges of the POOL and mirror copies, those in 2 MiB units rounded up
(notes/assumptions/51.md). -/
def memRegion (s : State) (r : Region) : Nat :=
  pack [(1, bit r.valid), (2, classCode r.cls), (1, bit r.spread), (4, r.die), (4, r.owner), (4, 0), (11, r.base), (5, 0),
        (12, r.size), (12, r.pool), (8, 0), (20, r.withdrawn + ceilDiv (goneIn s r) 1024)]

/-- Capacity in service in MiB: of each die in service 4 GiB × 4,096 / Bmax, 128 GiB at 128 buckets a channel (R265). -/
def effectiveMib (s : State) : Nat :=
  ((List.range 16).map fun d => if isFenced s (dieUnit d) then 0 else dieCapacity s d / 2 ^ 20).sum

/-- The MEM block. -/
def regMem (s : State) (x : Nat) : Option Reg :=
  let m := s.mem
  match inArr x 0x60100 8 16 8, inArr x 0x61000 16 256 16 with
  | some d, _ =>
    let fen := maskOf 32 fun c => isFenced s ⟨.channel, d, c⟩
    let mig := maskOf 32 fun c => m.migs.any fun g => g.src == d * 32 + c && g.running
    some ⟨0x60100 + d * 8, 8, pack [(32, fen), (32, mig)]⟩
  | none, some n => some ⟨0x61000 + n * 16, 16, memRegion s (regionOf s n)⟩
  | none, none =>
    if 0x60000 ≤ x ∧ x < 0x60004 then
      let ch := ((List.range 512).filter fun c => !isFenced s (chanUnit c)).length
      some ⟨0x60000, 4, pack [(10, ch), (1, bit (m.migs.any Migration.running)), (9, (validRegions s).length)]⟩
    else if 0x60008 ≤ x ∧ x < 0x60010 then
      let wd := ((tabKeys s.mem.regions).map fun n => (regionOf s n).withdrawn).sum * 2 + (s.mem.gone.map Prod.snd).sum / 512
      some ⟨0x60008, 8, pack [(32, effectiveMib s), (32, wd)]⟩
    else if 0x60010 ≤ x ∧ x < 0x60018 then
      let lines := ((validRegions s).map fun n => if (regionOf s n).cls == .a then 0 else backed s n / 64).sum
      let done := scrubbedLines s
      some ⟨0x60010, 8, pack [(16, m.passes), (8, if lines = 0 then 0 else min 255 (done * 256 / lines)), (8, 0), (16, m.lastPass)]⟩
    else if 0x60018 ≤ x ∧ x < 0x60020 then some ⟨0x60018, 8, pack [(24, m.ce), (16, m.ue), (16, m.aCrc)]⟩
    else none

/-- Code-table slot `k` of die `d`. -/
def codeSlotOf (s : State) (d k : Nat) : CodeSlot := tabGet s.cmp.slots (d * 16 + k) CodeSlot.init

/-- Step-program versions whose feed table on die `d` names a code-table slot (R280). -/
def slotVersions (s : State) (d k gen : Nat) : Nat :=
  (s.cmp.progs.filter fun g => !g.loading && g.img.feeds.any fun f => f.1 / 128 == d &&
    (feedList f.2).any fun x => x.codeSlot == k && x.codeGen == gen).length

/-- The die whose expanders encode the pages of pool region `n`: its own, or the first of the partition's dies for a
SPREAD pool (R287). -/
def sealDie (s : State) (p n : Nat) : Nat :=
  let r := regionOf s n
  if r.spread then (diesOf (partOf s p)).headD 0 else r.die

/-- Sealed and sealing pages encoded with a slot of die `d`, those swapped out among them (R280, R342). -/
def slotPages (s : State) (d k gen : Nat) : Nat :=
  ((List.range 8).map fun p =>
    let q := partOf s p
    let hit (g : Page) : Bool := (g.st == .sealed || g.st == .sealing) && !g.raw && g.code == k + 16 * gen
    (q.pages.filter fun e => hit e.2 && sealDie s p (e.1 / 2 ^ 32) == d).length +
      (q.swaps.filter fun r => hit r.page && r.die == d).length).sum

/-- Requests that bind a bundle version. -/
def bundleRefs (s : State) (b : BundleEnt) : Nat :=
  (s.slots.filter fun e => e.2.st != .free && e.2.st != .closing && e.2.part == b.part && e.2.ctx == b.ctx &&
    e.2.bundle == b.img.id && e.2.bver == b.img.version).length

/-- The CMP block. -/
def regCmp (s : State) (x : Nat) : Option Reg :=
  match inArr x 0x71000 8 256 8, inArr x 0x72000 16 32 16 with
  | some i, _ =>
    let c := codeSlotOf s (i / 16) (i % 16)
    some ⟨0x71000 + i * 8, 8, if !c.loaded then 0 else
      pack [(1, 1), (1, bit !c.trit), (2, 0), (4, c.gen), (16, slotQueued s (i / 16) (i % 16)), (8, slotVersions s (i / 16) (i % 16) c.gen),
            (32, slotPages s (i / 16) (i % 16) c.gen)]⟩
  | none, some n =>
    match tabGet s.cmp.bundles n none with
    | none => some ⟨0x72000 + n * 16, 16, 0⟩
    | some b =>
      let users := (s.cmp.bundles.filterMap Prod.snd).filter fun c => c.valid && (c.img.base.map Prod.fst) == some b.img.id
      let parts := if b.img.shared then maskOf 8 fun p => users.any fun c => c.part == p else 0
      some ⟨0x72000 + n * 16, 16, pack [(1, bit b.valid), (1, bit b.img.shared), (1, bit b.loading), (1, bit b.current),
        (1, bit b.mirrored), (3, 0), (4, if b.img.shared then 8 else b.part), (4, 0), (16, min 65535 (bundleRefs s b)),
        (32, b.img.id), (32, b.img.version), (8, parts)]⟩
  | none, none => none

/-! ### LNK, RAS, SEC, LOG, SIDE -/

/-- A virtual channel of a port. -/
def vcOf (p : LnkPort) (v : Nat) : PortVc := tabGet p.vcs v PortVc.init

/-- The LNK block (Tables 18-9 to 18-14). -/
def regLnk (s : State) (x : Nat) : Option Reg :=
  if 0x80000 ≤ x ∧ x < 0x86000 then
    let n := (x - 0x80000) / 0x400
    let y := (x - 0x80000) % 0x400
    let b := 0x80000 + n * 0x400
    let p := portOf s n
    if y < 8 then some ⟨b, 8, pack [(3, p.st.code), (4, if p.st == .up then p.width else 0), (8, p.lanesOk), (6, p.peerMod),
        (5, p.peerPort), (1, bit p.stopRx), (1, bit p.stopTx)]⟩
    else if y < 0xC then some ⟨b + 8, 4, 0⟩
    else if 0x10 ≤ y ∧ y < 0x20 then some ⟨b + 0x10, 16, pack [(32, p.ceSymbols), (32, p.retries), (16, p.llResets),
        (16, p.downs), (16, p.pktCrc), (16, p.quenchDrop)]⟩
    else if 0x20 ≤ y ∧ y < 0x40 then
      let v := vcOf p ((y - 0x20) / 8)
      some ⟨b + y / 8 * 8, 8, pack [(16, v.credL), (16, v.credH), (32, v.pkts)]⟩
    else none
  else if 0x88000 ≤ x ∧ x < 0x88008 then
    let l := s.lnk
    some ⟨0x88000, 8, pack [(6, l.modNum), (2, l.topo), (6, l.master), (1, bit (l.topo != 0 && l.master == l.modNum)),
      (7, l.modules), (10, 0), (32, l.groupId)]⟩
  else match inArr x 0x88100 8 64 8 with
    | some d =>
      let r := routeOf s d
      some ⟨0x88100 + d * 8, 8, pack [(24, r.primary), (24, r.alt), (6, r.via), (1, bit r.reachable), (1, bit r.onAlt)]⟩
    | none => none

/-- The RAS block (Tables 19-9 to 19-15). -/
def regRas (s : State) (x : Nat) : Option Reg :=
  match inArr x 0x90040 8 8 4, inArr x 0x90100 16 16 16 with
  | some k, _ =>
    let w := tabGet s.ras.windows k (3, 24)
    some ⟨0x90040 + k * 8, 4, pack [(8, w.1), (8, w.2)]⟩
  | none, some d =>
    some ⟨0x90100 + d * 16, 16, pack [(64, maskOf 64 fun t => isFenced s ⟨.tile, d, t⟩),
      (4, maskOf 4 fun e => isFenced s ⟨.expander, d, e⟩), (4, maskOf 4 fun e => linkFenced s d e), (1, bit (isFenced s (dieUnit d)))]⟩
  | none, none =>
    if 0x90000 ≤ x ∧ x < 0x90008 then
      let sus := (s.ras.units.filter fun u => u.st == .suspect || u.st == .testing).length
      some ⟨0x90000, 8, pack [(1, bit s.ras.alert), (1, bit !s.ras.repairs.isEmpty), (1, bit s.ras.test.isSome), (13, 0),
        (16, sus), (16, s.log.dropped), (16, s.ras.events)]⟩
    else if 0x90008 ≤ x ∧ x < 0x90010 then some ⟨0x90008, 8, s.log.errSeq⟩
    else if 0x90010 ≤ x ∧ x < 0x90014 then some ⟨0x90010, 4, pack [(3, s.ras.alertSev)]⟩
    else if 0x90018 ≤ x ∧ x < 0x90020 then some ⟨0x90018, 8, pack [(10, s.ras.nextTile), (6, 0), (16, s.ras.overdue.length), (32, s.ras.sessions)]⟩
    else if 0x90200 ≤ x ∧ x < 0x90208 then
      some ⟨0x90200, 8, pack [(32, maskOf 32 fun c => isFenced s (coreUnit c)), (4, maskOf 4 fun i => isFenced s ⟨.soInst, 16 + i, 0⟩)]⟩
    else if 0x90208 ≤ x ∧ x < 0x9020C then some ⟨0x90208, 4, 0⟩
    else none

/-- KEY_ID of the ACTIVE image, once the module runs (Table 21-6). -/
def activeKey (s : State) : Nat :=
  let f := s.boot.flash
  if s.boot.st == .run then polKey (if (selOr f).active = 0 then f.imgA else f.imgB) else 0

/-- The SEC block (Tables 21-6 to 21-9). -/
def regSec (s : State) (x : Nat) : Option Reg :=
  let c := s.sec
  match inArr x 0xA0100 4 64 4 with
  | some n => some ⟨0xA0100 + n * 4, 4, pack [(6, tabGet c.ctrs n 0)]⟩
  | none =>
    if 0xA0000 ≤ x ∧ x < 0xA0008 then some ⟨0xA0000, 8, pack [(1, bit c.debugLock), (1, bit c.rngOk), (1, bit c.aliasReady),
        (5, 0), (8, c.revoked), (3, activeKey s), (13, 0), (32, c.measGen)]⟩
    else if 0xA0010 ≤ x ∧ x < 0xA0014 then some ⟨0xA0010, 4, pack [(1, 0), (2, c.commitSt), (5, 0), (8, c.commitStatus)]⟩
    else if 0xA0018 ≤ x ∧ x < 0xA001C then some ⟨0xA0018, 4, pack [(4, 0), (2, c.revokeSt), (2, 0), (8, c.revokeStatus)]⟩
    else none

/-- The SRAM ledger entry LOG_LEDGER_DATA shows: among the newest 1,024, otherwise zero (R424). -/
def ledgerShown (s : State) : Nat :=
  let l := s.log
  if l.ledgerSel = 0 || l.ledgerSel + 1024 ≤ l.ledgerHead then 0
  else match l.ledger.find? fun e => e.seq == l.ledgerSel with
    | some e => leNat (ledgerBytes e)
    | none => 0

/-- The LOG block (Tables 17-12 to 17-15). -/
def regLog (s : State) (x : Nat) : Option Reg :=
  match inArr x 0xB0100 0x20 8 32 with
  | some n =>
    let j := journalOf s n
    let old := if j.head = 0 then 0 else j.head + 1 - min j.head (2 ^ 20)
    some ⟨0xB0100 + n * 0x20, 32, pack [(64, j.head), (64, old), (17, j.queue.length), (1, bit (decide (32768 < j.queue.length)))]⟩
  | none =>
    if 0xB0000 ≤ x ∧ x < 0xB0008 then some ⟨0xB0000, 8, s.log.ledgerHead⟩
    else if 0xB0008 ≤ x ∧ x < 0xB0010 then some ⟨0xB0008, 8, s.log.ledgerSel⟩
    else if 0xB0040 ≤ x ∧ x < 0xB0080 then some ⟨0xB0040, 64, ledgerShown s⟩
    else none

/-- Whether the module holds output that awaits a host (R537). -/
def holdsOutput (s : State) : Bool :=
  (List.range 8).any fun p =>
    let q := partOf s p
    q.valid && (cplWaiting s p || !q.dlq.isEmpty || !(ringOf s p 3).kept3.isEmpty || !(ringOf s p 4).kept4.isEmpty ||
      (slotsOf s p).any fun n => !(slotOf s n).hold.isEmpty)

/-- FAULT_N driven low (R537). -/
def faultOut (s : State) : Bool := s.boot.st == .recovery

/-- WAKE_N driven low (R537). -/
def wakeOut (s : State) : Bool := s.side.perst && holdsOutput s

/-- One SIDE_COUNT field. -/
def sideCount (s : State) (i : Nat) : Nat := tabGet s.side.counts i 0

/-- The SIDE block (Tables 23-9 to 23-12). -/
def regSide (s : State) (x : Nat) : Option Reg :=
  let d := s.side
  if 0xC0000 ≤ x ∧ x < 0xC0008 then some ⟨0xC0000, 8, pack [(1, bit d.perst), (1, bit d.pwrEn), (1, bit d.throttle),
      (1, bit d.held), (1, bit d.stuck), (1, bit d.gsyncLock), (6, d.modId), (6, d.modPins), (1, bit s.ras.alert),
      (1, bit (faultOut s)), (1, bit (wakeOut s))]⟩
  else if 0xC0008 ≤ x ∧ x < 0xC000C then some ⟨0xC0008, 4, pack [(8, d.stuckS), (8, d.holdMs)]⟩
  else if 0xC0010 ≤ x ∧ x < 0xC0020 then some ⟨0xC0010, 16, pack ((List.range 8).map fun i => (16, sideCount s i))⟩
  else if 0xC0020 ≤ x ∧ x < 0xC0024 then some ⟨0xC0020, 4, pack [(7, d.dynAddr), (1, bit d.assigned), (7, 0x40 + d.modId % 32)]⟩
  else none

/-! ### Tile windows -/

/-- TILE_RAS (Table 19-16). -/
def tileRas (s : State) (t : Nat) : Nat :=
  let u := unitRec s (tileUnit t)
  let st := if isFenced s (dieUnit (t / 64)) then 3 else u.st.code
  pack [(32, maskOf 32 fun r => isFenced s (rowUnit t r)), (2, st), (8, min 255 u.events.length)]

/-- A register of tile `t`'s window at window offset `y` (Tables 8-6 to 8-9, 9-21, 19-16). -/
def tileReg (s : State) (t y : Nat) : Option Reg :=
  let x := tileOf s t
  if y < 8 then some ⟨0, 8, pack [(14, x.pc), (1, x.bank), (1, 0), (3, x.st.code), (5, 0), (4, x.hold), (4, 0),
      (9, issuedCount x), (7, 0), (16, x.version)]⟩
  else if 0x100 ≤ y ∧ y < 0x104 then some ⟨0x100, 4, pack [(4, x.cacheBanks), (5, 16 - x.cacheBanks), (7, 0),
      (8, maskOf 8 fun n => (tabGet x.wins n Win.init).opened)]⟩
  else if 0x108 ≤ y ∧ y < 0x110 then some ⟨0x108, 8, pack [(16, x.refused), (16, x.ce), (16, x.ue)]⟩
  else if 0x110 ≤ y ∧ y < 0x118 then some ⟨0x110, 8, pack [(32, x.hits), (32, x.misses)]⟩
  else if 0x200 ≤ y ∧ y < 0x208 then some ⟨0x200, 8, tileRas s t⟩
  else match inArr y 0x140 8 8 8 with
    | some n =>
      let w := tabGet x.wins n Win.init
      some ⟨0x140 + n * 8, 8, pack [(16, w.base), (15, w.len), (1, bit w.opened), (5, w.src), (2, w.dir), (1, 0), (20, w.arrived)]⟩
    | none => none

/-- The tile windows; a fenced tile's, a fenced die's or a die's that is off read zero but for TILE_RAS (R545). -/
def regTile (s : State) (x : Nat) : Option Reg :=
  if 0x1000000 ≤ x ∧ x < 0x2000000 then
    let t := (x - 0x1000000) / 0x4000
    let b := 0x1000000 + t * 0x4000
    let dark := isFenced s (tileUnit t) || isFenced s (dieUnit (t / 64)) || s.pwr.sleep == .asleep ||
      s.pwr.sleep == .waking
    (tileReg s t (x - b)).map fun r => { r with off := r.off + b, val := if dark && r.off != 0x200 then 0 else r.val }
  else none

/-! ### The whole map -/

/-- The register of PF0 BAR0 that holds the byte at an offset (Table 24-2, Table 24-3), as boot leaves it: in RECOVERY
every block but GLB reads zero (R483). -/
def regAt (s : State) (x : Nat) : Option Reg :=
  let r := if x < 0x10000 then regGlb s x
    else if x < 0x20000 then regPwr s x
    else if x < 0x30000 then regTmb s x
    else if x < 0x40000 then regHif s x
    else if x < 0x50000 then regPart s x
    else if x < 0x60000 then regSrv s x
    else if x < 0x70000 then regMem s x
    else if x < 0x80000 then regCmp s x
    else if x < 0x90000 then regLnk s x
    else if x < 0xA0000 then regRas s x
    else if x < 0xB0000 then regSec s x
    else if x < 0xC0000 then regLog s x
    else if x < 0xD0000 then regSide s x
    else regTile s x
  if s.boot.st == .recovery && decide (0x10000 ≤ x) then r.map fun r => { r with val := 0 } else r

/-- VF BAR0 of VF k (Table 24-5): the mailbox, the copies and the MSI-X structures. -/
def vfRegAt (s : State) (k x : Nat) : Option Reg :=
  let p := (vfBind s k).part
  if 0x1000 ≤ x ∧ x < 0x1008 then some ⟨0x1000, 8, partCfg s p⟩
  else if 0x1010 ≤ x ∧ x < 0x1020 then some ⟨0x1010, 16, partAdm s p⟩
  else if 0x1020 ≤ x ∧ x < 0x1040 then some ⟨0x1020, 32, srvPart s p⟩
  else if 0x1040 ≤ x ∧ x < 0x1060 then some ⟨0x1040, 32, srvPool s p⟩
  else match regMbx s k 0 x with
    | some r => some r
    | none => regMsix s k 0x8000 0x9000 x

/-- A ring page register (Table 24-4): ring r of a partition at its page offset. -/
def ringRegAt (s : State) (p x : Nat) : Option Reg :=
  let r := x / 0x1000
  let b := r * 0x1000
  let g := ringOf s p r
  if 5 ≤ r then none
  else if x < b + 4 then some ⟨b, 4, g.latched.getD g.db⟩
  else if b + 8 ≤ x ∧ x < b + 12 then some ⟨b + 8, 4, g.st.code⟩
  else if b + 0x10 ≤ x ∧ x < b + 0x18 then some ⟨b + 0x10, 8, pack [(32, g.pidx), (32, g.cidx)]⟩
  else if b + 0x18 ≤ x ∧ x < b + 0x1C then some ⟨b + 0x18, 4, pack [(5, if g.st == .detached then 0 else g.log2), (4, g.owner)]⟩
  else none

/-- The map an origin reads: a VF its own BAR0, every other reader PF0 BAR0. -/
def regFor (s : State) (rd : Origin) (x : Nat) : Option Reg :=
  match rd with
  | .vf k => if k.val = 0 then regAt s x else vfRegAt s k.val x
  | _ => regAt s x

/-- The latched value a reader sees of a wide register, if it has latched that one (R547). -/
def latched (s : State) (rd : Origin) (r : Reg) : Nat :=
  if r.bytes ≤ 8 then r.val
  else match s.latches.find? fun l => l.who == rd && l.off == r.off with
    | some l => l.value
    | none => r.val

/-- One byte of a read; an offset with no register reads zero (R389). The high half of TMB_NOW is the latched one. -/
def readByte (s : State) (rd : Origin) (x : Nat) : Byte :=
  match regFor s rd x with
  | none => 0
  | some r => BitVec.ofNat 8 (latched s rd r / 2 ^ (8 * (x - r.off)))

/-- Latch a wide register for a reader; one latch a reader (R547). -/
def latchReg (s : State) (rd : Origin) (r : Reg) : State :=
  { s with latches := ⟨rd, r.off, r.val⟩ :: s.latches.filter fun l => l.who != rd }

/-- Whether a read from `x` takes the lowest word of a wide register. -/
def lowWord (s : State) (rd : Origin) (x : Nat) : Option Reg :=
  match regFor s rd x with
  | some r => if 8 < r.bytes && x == r.off then some r else none
  | none => none

/-- Whether a reader sees the timebase: it has PF0's registers, and the module is not in RECOVERY, where offsets from
0x10000 up read zero (R483). -/
def timeShown (s : State) (rd : Origin) : Bool :=
  s.boot.st != .recovery && (match rd with
    | .vf k => k.val == 0
    | _ => true)

/-- A read of `n` bytes: the latch it makes, then its value (R389, R547, R548). -/
def readReg (s : State) (rd : Origin) (x n : Nat) : State × Nat :=
  let s1 := match lowWord s rd x with
    | some r => latchReg s rd r
    | none => s
  let half := s1.tmb.halfLatch.find? fun h => h.1 == rd
  if x = 0x20000 ∧ n = 4 ∧ timeShown s rd then
    let h := (rd, s1.tmb.now / 2 ^ 32) :: s1.tmb.halfLatch.filter fun e => e.1 != rd
    ({ s1 with tmb := { s1.tmb with halfLatch := h } }, s1.tmb.now % 2 ^ 32)
  else match decide (x = 0x20004 ∧ n = 4 ∧ timeShown s rd), half with
    | true, some h =>
      ({ s1 with tmb := { s1.tmb with halfLatch := s1.tmb.halfLatch.filter fun e => e.1 != rd } }, h.2)
    | _, _ => (s1, leNat ((List.range n).map fun i => readByte s1 rd (x + i)))

end Sys2Proof.Machine
end

