-- ==== Sys2Proof/Machine/Fields.lean ====
section
/-! DEFINITION. Writable fields (Table 24-6): where they lie, who writes them, their staging, ranges and effect. -/

namespace Sys2Proof.Machine

/-- Staging classes, Table 20-6. -/
inductive Stage where
  | live | step | quiesce | boot
  deriving DecidableEq, Repr

/-- The fields of a region register. -/
inductive RField where
  | valid | cls | spread | die | owner | base | size | pool
  deriving DecidableEq, Repr

/-- The fields of Table 24-6. -/
inductive Fld where
  | imgAddr | imgLen | imgGo | fwGo | reboot | sleep | wake
  | dies (p : Nat) | slice (p c : Nat)
  | quota (p : Nat) | role (p : Nat) | soInst (p : Nat) | colBudget (p : Nat)
  | poolPage (p : Nat) | poolMeta (p : Nat)
  | region (n : Nat) (f : RField)
  | bar4Base | relayMod
  | bindPart (k : Nat) | bindModule (k : Nat) | bindRemote (k : Nat)
  | retrain (p : Nat)
  | alertSev | alert | thresh (k : Nat) | hours (k : Nat)
  | unfKind | unfDie | unfUnit | unfGo
  | commitGo | revKey | revGo | ledgerSel | stuckS | holdMs
  deriving DecidableEq, Repr

/-- A field's place: the offset of the 32- or 64-bit word that holds it, that word's bytes, its lowest bit, its width. -/
structure FPos where
  off  : Nat
  word : Nat
  lo   : Nat
  w    : Nat

/-- Place of a region field within MEM_REGION (Table 10-9). -/
def rfPos : RField → Nat × Nat
  | .valid => (0, 1) | .cls => (1, 2) | .spread => (3, 1) | .die => (4, 4) | .owner => (8, 4) | .base => (16, 11)
  | .size => (32, 12) | .pool => (44, 12)

/-- Where a field lies. -/
def fldPos : Fld → FPos
  | .imgAddr => ⟨0x20, 8, 0, 64⟩ | .imgLen => ⟨0x28, 4, 0, 25⟩ | .imgGo => ⟨0x30, 4, 0, 1⟩ | .fwGo => ⟨0x40, 4, 0, 1⟩
  | .reboot => ⟨0x48, 4, 0, 1⟩ | .sleep => ⟨0x10020, 4, 0, 1⟩ | .wake => ⟨0x10020, 4, 1, 1⟩
  | .dies p => ⟨0x40000 + p * 0x40, 8, 0, 16⟩ | .slice p c => ⟨0x41000 + p * 0x200 + c * 0x10, 8, 0, 10⟩
  | .quota p => ⟨0x50100 + p * 0x20, 8, 0, 17⟩ | .role p => ⟨0x50100 + p * 0x20, 8, 49, 2⟩
  | .soInst p => ⟨0x50100 + p * 0x20, 8, 51, 2⟩ | .colBudget p => ⟨0x50118 + p * 0x20, 8, 0, 10⟩
  | .poolPage p => ⟨0x50400 + p * 0x20, 8, 0, 7⟩ | .poolMeta p => ⟨0x50400 + p * 0x20, 8, 7, 7⟩
  | .region n f => ⟨0x61000 + n * 0x10, 8, (rfPos f).1, (rfPos f).2⟩
  | .bar4Base => ⟨0x30010, 4, 0, 11⟩ | .relayMod => ⟨0x30018, 4, 0, 6⟩
  | .bindPart k => ⟨0x30200 + (k - 1) * 8, 4, 0, 3⟩ | .bindModule k => ⟨0x30200 + (k - 1) * 8, 4, 3, 6⟩
  | .bindRemote k => ⟨0x30200 + (k - 1) * 8, 4, 9, 1⟩
  | .retrain p => ⟨0x80008 + p * 0x400, 4, 0, 1⟩
  | .alertSev => ⟨0x90010, 4, 0, 3⟩ | .alert => ⟨0x90000, 8, 0, 1⟩
  | .thresh k => ⟨0x90040 + k * 8, 4, 0, 8⟩ | .hours k => ⟨0x90040 + k * 8, 4, 8, 8⟩
  | .unfKind => ⟨0x90208, 4, 0, 4⟩ | .unfDie => ⟨0x90208, 4, 4, 5⟩ | .unfUnit => ⟨0x90208, 4, 9, 16⟩
  | .unfGo => ⟨0x90208, 4, 25, 1⟩
  | .commitGo => ⟨0xA0010, 4, 0, 1⟩ | .revKey => ⟨0xA0018, 4, 0, 3⟩ | .revGo => ⟨0xA0018, 4, 3, 1⟩
  | .ledgerSel => ⟨0xB0008, 8, 0, 64⟩ | .stuckS => ⟨0xC0008, 4, 0, 8⟩ | .holdMs => ⟨0xC0008, 4, 8, 8⟩

/-- A field's staging class (Table 24-6). -/
def fldStage : Fld → Stage
  | .slice .. | .colBudget _ => .step
  | .dies _ | .quota _ | .role _ | .soInst _ | .poolPage _ | .poolMeta _ | .region .. | .bindPart _ | .bindModule _
  | .bindRemote _ => .quiesce
  | _ => .live

/-- Whether a register write by PF0 or the relay window may write a field. -/
def fldReg : Fld → Bool
  | .dies _ | .quota _ | .role _ | .soInst _ | .colBudget _ | .poolPage _ | .poolMeta _ | .region .. | .bindPart _
  | .bindModule _ | .bindRemote _ => false
  | _ => true

/-- Whether CONFIG from PF0 may write a field. -/
def fldCfg : Fld → Bool
  | .alert | .ledgerSel => false
  | _ => true

/-- Whether CONFIG from the partition's VF may write a field. -/
def fldVf : Fld → Bool
  | .slice .. | .colBudget _ => true
  | _ => false

/-- Whether the management port may write a field (R539). -/
def fldMgmt : Fld → Bool
  | .imgLen | .imgGo | .fwGo | .sleep | .wake | .commitGo | .revKey | .revGo | .ledgerSel | .stuckS | .holdMs => true
  | _ => false

/-- The partition a field belongs to. -/
def fldPart : Fld → Option Nat
  | .dies p | .slice p _ | .quota p | .role p | .soInst p | .colBudget p | .poolPage p | .poolMeta p => some p
  | _ => none

/-- The fields in the word that an offset addresses. -/
def fldsAt (x : Nat) : List Fld :=
  match inArr x 0x40000 0x40 8 8, inArr x 0x41000 0x10 256 8, inArr x 0x50100 0x20 8 8, inArr x 0x50118 0x20 8 8,
        inArr x 0x50400 0x20 8 8, inArr x 0x61000 0x10 256 8 with
  | some p, _, _, _, _, _ => [.dies p]
  | _, some i, _, _, _, _ => [.slice (i / 32) (i % 32)]
  | _, _, some p, _, _, _ => [.quota p, .role p, .soInst p]
  | _, _, _, some p, _, _ => [.colBudget p]
  | _, _, _, _, some p, _ => [.poolPage p, .poolMeta p]
  | _, _, _, _, _, some n => [.valid, .cls, .spread, .die, .owner, .base, .size, .pool].map (Fld.region n)
  | none, none, none, none, none, none =>
    match inArr x 0x30200 8 8 4, inArr x 0x80008 0x400 24 4, inArr x 0x90040 8 8 4 with
    | some i, _, _ => [.bindPart (i + 1), .bindModule (i + 1), .bindRemote (i + 1)]
    | none, some p, _ => [.retrain p]
    | none, none, some k => [.thresh k, .hours k]
    | none, none, none =>
      [Fld.imgAddr, .imgLen, .imgGo, .fwGo, .reboot, .sleep, .wake, .bar4Base, .relayMod, .alertSev, .alert, .unfKind, .unfDie,
       .unfUnit, .unfGo, .commitGo, .revKey, .revGo, .ledgerSel, .stuckS, .holdMs].filter fun f =>
        decide ((fldPos f).off ≤ x) && decide (x < (fldPos f).off + (fldPos f).word)

/-- Bits of the addressed word that a field covers, for a write of `width` bytes at `x`. -/
def fldMask (f : Fld) (x width : Nat) : Nat :=
  let p := fldPos f
  (2 ^ p.w - 1) * 2 ^ p.lo / 2 ^ (8 * (x - p.off)) % 2 ^ (8 * width)

/-- The one field whose bits hold every set bit of a mask (R550 check 2). -/
def fldFor (x width mask : Nat) : Option Fld :=
  if mask = 0 then none
  else (fldsAt x).find? fun f =>
    decide (x + width ≤ (fldPos f).off + (fldPos f).word) && decide (mask &&& fldMask f x width = mask)

/-- The value a field holds now; write-only fields read zero. -/
def fldGet (s : State) (f : Fld) : Nat :=
  let p := fldPos f
  match regAt s p.off with
  | none => 0
  | some r => r.val / 2 ^ (8 * (p.off - r.off) + p.lo) % 2 ^ p.w

/-- The field value a masked write makes. -/
def fldNew (s : State) (f : Fld) (x value mask : Nat) : Nat :=
  let p := fldPos f
  let sh := 8 * (x - p.off)
  let old := fldGet s f * 2 ^ p.lo
  let word := (old &&& (2 ^ 64 - 1 - mask * 2 ^ sh % 2 ^ 64)) ||| (value &&& mask) * 2 ^ sh
  word / 2 ^ p.lo % 2 ^ p.w

/-! ### Regions (R247 to R249, R265) -/

/-- A region with one field replaced. -/
def rfSet (r : Region) (f : RField) (v : Nat) : Region :=
  match f with
  | .valid => { r with valid := v = 1 }
  | .cls => { r with cls := if v = 0 then .w else if v = 1 then .s else .a }
  | .spread => { r with spread := v = 1 }
  | .die => { r with die := v }
  | .owner => { r with owner := v }
  | .base => { r with base := v }
  | .size => { r with size := v }
  | .pool => { r with pool := v }

/-- Whether R248 and R249 allow a region's fields. -/
def regionFieldsOk (r : Region) : Bool :=
  decide (r.owner < 10) && (r.owner != 8 || r.cls == .w) && (r.cls == .s || r.pool == 0) && decide (r.pool ≤ r.size) &&
    (!r.spread || r.die == 0) && decide (r.die < 16)

/-- Put a region into a state. -/
def setRegion (s : State) (n : Nat) (r : Region) : State :=
  { s with mem := { s.mem with regions := tabSet s.mem.regions n r Region.init } }

/-- Whether no die's content that cannot be withdrawn exceeds 96 GiB (R265). -/
def contentFits (s : State) : Bool := (List.range 16).all fun d => decide (dieFixed s d ≤ 96 * gib)

/-- Whether the valid regions lie as they must: sizes, no overlap, the address space, the capacity in service (R247, R248). -/
def regionsLie (s : State) : Bool :=
  let rs := (validRegions s).map (regionOf s)
  rs.all (fun r => decide (1 ≤ r.size) && decide (r.size ≤ if r.spread then 2048 else 128) && decide (r.base + r.size ≤ 2048)) &&
    ((validRegions s).all fun a => (validRegions s).all fun b =>
      decide (b ≤ a) || decide ((regionOf s a).base + (regionOf s a).size ≤ (regionOf s b).base) ||
        decide ((regionOf s b).base + (regionOf s b).size ≤ (regionOf s a).base)) &&
    decide ((rs.map fun r => r.size * 1024 - r.withdrawn * 2).sum ≤ effectiveMib s)

/-- Whether the valid regions stand (R247, R248, R265). -/
def regionsStand (s : State) : Bool := regionsLie s && contentFits s

/-- What happens to memory when a region is created: its length bytes read 0xFF (R277). -/
def freshLens (s : State) (r : Region) : State :=
  let lo := r.base * gib / 2048
  let hi := (r.base + r.size) * gib / 2048
  { s with mem := { s.mem with lens := s.mem.lens.filter fun e => decide (e.1 < lo) || decide (hi ≤ e.1) } }

/-! ### Partitions -/

/-- Draw a partition secret (R155, R501): the state after, and the secret. -/
def drawSecret (s : State) : State × List Word :=
  ({ s with sec := { s.sec with draws := s.sec.draws + 1 } }, Sys2Proof.Config.entropy s.sec.draws)

/-- A partition without a die does not exist: its fields stay, all else goes (R360, R550). -/
def diePart (x : Part) : Part :=
  { Part.init with quota := x.quota, role := x.role, soInst := x.soInst, colBudget := x.colBudget, poolPage := x.poolPage,
                   poolMeta := x.poolMeta, treeNodes := x.treeNodes }

/-- Give a partition its dies: 0 deletes it, a first set creates it with its secret (R550); one that loses its last die to it is
deleted too, since a partition has at least one (R360). -/
def setDies (s : State) (p d : Nat) : State :=
  let others := forParts s fun s q => if q = p then s else modPart s q fun x =>
    let left := maskOf 16 fun i => x.dies.testBit i && !d.testBit i
    if x.valid && left == 0 then diePart x else { x with dies := left }
  if d = 0 then modPart others p diePart
  else if (partOf others p).valid then modPart others p fun x => { x with dies := d }
  else
    let (s1, k) := drawSecret others
    modPart s1 p fun x => { x with dies := d, valid := true, secret := k }

/-- Change a VF binding. -/
def modBind (s : State) (k : Nat) (f : VfBind → VfBind) : State :=
  { s with hif := { s.hif with binds := tabSet s.hif.binds k (f (vfBind s k)) ⟨k - 1, 0, false⟩ } }

/-- Change the counting window of a unit kind. -/
def modWindow (s : State) (k : Nat) (f : Nat × Nat → Nat × Nat) : State :=
  { s with ras := { s.ras with windows := tabMod s.ras.windows k (3, 24) f } }

/-! ### Ranges and effect -/

/-- Whether a resident bundle of a partition contradicts its pool fields (R340). -/
def poolBroken (s : State) (p page pm : Nat) : Bool :=
  (s.cmp.bundles.filterMap Prod.snd).any fun b =>
    b.valid && b.part == p && !b.img.shared && b.img.page4k != 0 &&
      (b.img.page4k != page || decide (pm < b.img.page4k * 4096 / (128 * max 1 b.img.params.hw)))

/-- The refusal of a value outside a field's range (Table 24-6), none when it lies within. -/
def fldRange (s : State) (f : Fld) (v : Nat) : Option (Status × RecCode) :=
  match f with
  | .imgAddr => if v % 4096 = 0 then none else some (.badRange, .hifField)
  | .imgLen => if v ≤ 24 * 2 ^ 20 then none else some (.badRange, .hifField)
  | .slice _ _ => if 10 ≤ v ∧ v ≤ 1000 then none else some (.badRange, .partField)
  | .quota p =>
    let sum := ((List.range 8).map fun q => if q = p then v else (partOf s q).quota).sum
    if sum ≤ 65536 then none else some (.badRange, .partField)
  | .colBudget _ => if v % 64 = 0 ∧ 64 ≤ v ∧ v ≤ 512 then none else some (.badField, .partField)
  | .poolPage p =>
    if ¬(1 ≤ v ∧ v ≤ 64) then some (.badRange, .partField)
    else if poolBroken s p v (partOf s p).poolMeta then some (.badField, .partField) else none
  | .poolMeta p =>
    if ¬(1 ≤ v ∧ v ≤ 64) then some (.badRange, .partField)
    else if poolBroken s p (partOf s p).poolPage v then some (.badField, .partField) else none
  | .region n g =>
    let r := rfSet (regionOf s n) g v
    let bad := (g == .cls && v == 3) || (g == .owner && decide (10 ≤ v)) ||
      ((r.valid || g == .owner || g == .pool || g == .cls) && r.valid && !regionFieldsOk r)
    if bad then some (.badField, .cmdFormat)
    else if r.valid && !regionsStand (setRegion s n r) then some (.badRange, .memLoad) else none
  | .bar4Base => if v % max 1 (fnOf s 0).bar4Size = 0 then none else some (.badRange, .hifField)
  | .bindModule k =>
    let b := vfBind s k
    if b.remote && !(s.hif.relayTab.contains (k, v, b.part)) then some (.badField, .cmdFormat) else none
  | .bindRemote k =>
    let b := vfBind s k
    if v = 1 && !(s.hif.relayTab.contains (k, b.module, b.part)) then some (.badField, .cmdFormat) else none
  | .bindPart k =>
    let b := vfBind s k
    if b.remote && !(s.hif.relayTab.contains (k, b.module, v)) then some (.badField, .cmdFormat) else none
  | .thresh _ => if 1 ≤ v ∧ v ≤ 255 then none else some (.badRange, .hifField)
  | .hours _ => if 1 ≤ v ∧ v ≤ 168 then none else some (.badRange, .hifField)
  | .stuckS => if 1 ≤ v ∧ v ≤ 255 then none else some (.badRange, .hifField)
  | .holdMs => if 10 ≤ v ∧ v ≤ 100 then none else some (.badRange, .hifField)
  | _ => none

/-- The partitions whose quiescence a QUIESCE field asks for (Table 24-6, R486). -/
def fldQuiet (s : State) (f : Fld) (v : Nat) : List Nat :=
  match f with
  | .dies p => ((List.range 8).filter fun q => q == p || ((partOf s q).dies &&& v) != 0).filter fun q => (partOf s q).valid
  | .region n g =>
    let o := (regionOf s n).owner
    let o' := if g == .owner then v else o
    (List.range 8).filter fun q => q == o || q == o' || decide (8 ≤ o) || decide (8 ≤ o')
  | .bindPart k => [(vfBind s k).part, v]
  | .bindModule k | .bindRemote k => [(vfBind s k).part]
  | g => (fldPart g).toList

/-- Whether R361 lets a QUIESCE change through: slots FREE, no context RUNNING, SAVING or RESTORING but an idle one. -/
def quietFor (s : State) (ps : List Nat) : Bool := ps.all fun p => quiescent s p

/-- Apply a value to a field: fields that only start an action are left to their commands. -/
def fldSet (s : State) (f : Fld) (v : Nat) : State :=
  match f with
  | .imgAddr => { s with boot := { s.boot with imgAddr := v } }
  | .imgLen => { s with boot := { s.boot with imgLen := v } }
  | .dies p => setDies s p v
  | .slice p c => modPart s p fun x => modCtx x c fun k => { k with slice := v }
  | .quota p => modPart s p fun x => { x with quota := v }
  | .role p => modPart s p fun x => { x with role := roleOf v }
  | .soInst p => modPart s p fun x => { x with soInst := v }
  | .colBudget p => modPart s p fun x => { x with colBudget := v }
  | .poolPage p => modPart s p fun x => { x with poolPage := v }
  | .poolMeta p => modPart s p fun x => { x with poolMeta := v }
  | .region n g =>
    let r := rfSet (regionOf s n) g v
    let s1 := if g = .valid ∧ v = 1 then freshLens s r else s
    setRegion s1 n r
  | .bar4Base => { s with hif := { s.hif with bar4Base := v } }
  | .relayMod => { s with hif := { s.hif with relayMod := v } }
  | .bindPart k => modBind s k fun b => { b with part := v }
  | .bindModule k => modBind s k fun b => { b with module := v }
  | .bindRemote k => modBind s k fun b => { b with remote := v = 1 }
  | .alertSev => { s with ras := { s.ras with alertSev := v } }
  | .alert => if v = 1 then { s with ras := { s.ras with alert := false } } else s
  | .thresh k => modWindow s k fun w => (v, w.2)
  | .hours k => modWindow s k fun w => (w.1, v)
  | .ledgerSel => { s with log := { s.log with ledgerSel := v } }
  | .unfKind => { s with ras := { s.ras with unfSel := { s.ras.unfSel with kind := ukindOf v } } }
  | .unfDie => { s with ras := { s.ras with unfSel := { s.ras.unfSel with die := v } } }
  | .unfUnit => { s with ras := { s.ras with unfSel := { s.ras.unfSel with unit := v } } }
  | .revKey => { s with sec := { s.sec with revokeKey := v } }
  | .stuckS => { s with side := { s.side with stuckS := v } }
  | .holdMs => { s with side := { s.side with holdMs := v } }
  | _ => s

/-! ### Staging (R23, R485, R486) -/

/-- Whether an entry of a partition's staged list is the same field. -/
def sameStaged (f : Fld) (g : Staged) : Bool := g.reg == (fldPos f).off && g.field == (fldPos f).lo

/-- Stage a STEP value: an older one of the field is superseded (R23, R421). -/
def stageStep (s : State) (o : Origin) (f : Fld) (p v : Nat) (a : LedgerArgs) : State :=
  let old := (partOf s p).staged.filter (sameStaged f)
  let s1 := old.foldl (fun s g => pushLedger s { g.entry with seq := s.log.ledgerHead + 1, time := nowNs s, act := 4 }) s
  let e := ledgerEntry s1 o { a with act := 2, status := .staged }
  let s2 := pushLedger s1 e
  modPart s2 p fun x =>
    { x with staged := (x.staged.filter fun g => !sameStaged f g) ++ [⟨(fldPos f).off, (fldPos f).lo, v, e⟩] }

/-- Whether a STEP change applies at once: no step executing, held by a switch or composed, awake, and no earlier change still
staged (R23, R486). -/
def stepIdle (s : State) (p : Nat) : Bool :=
  let x := partOf s p
  !partBusy x && x.staged.isEmpty && !(x.ctxs.any fun c => c.2.held.isSome) && s.pwr.sleep == .awake

/-- Apply every staged change of a partition, with its APPLIED entry (R23). -/
def applyStaged (s : State) (p step : Nat) : State :=
  let gs := (partOf s p).staged
  let s1 := modPart s p fun x => { x with staged := [] }
  gs.foldl (fun s g =>
    match (fldsAt g.reg).find? fun f => (fldPos f).lo == g.field with
    | none => s
    | some f =>
      let s2 := fldSet s f g.value
      pushLedger s2 { g.entry with seq := s2.log.ledgerHead + 1, time := nowNs s2, act := 3, status := .ok, step := step }) s1

end Sys2Proof.Machine
end

