-- ==== Sys2Proof/Machine/Sec.lean ====
section
/-! DEFINITION. Flash selector, identity, anti-rollback, measurements, SPDM, debug lock (R476, R493 to R504). -/

namespace Sys2Proof.Machine

/-! ### The selector and the slots (R475, R476) -/

/-- Write a selector record: the copy not in use takes it, with SEQ + 1 (R476). -/
def writeSel (s : State) (e : Selector) : State :=
  let f := s.boot.flash
  let n := ((selNow f).map Selector.seq).getD 0 + 1
  let b := selBytes { e with seq := n }
  let zero := match selOf f.sel0, selOf f.sel1 with
    | some a, some b => decide (b.seq ≤ a.seq)
    | some _, none => true
    | none, _ => false
  let f' := if zero then { f with sel1 := b } else { f with sel0 := b }
  { s with boot := { s.boot with flash := f' } }

/-- The state code of slot `n` in a selector. -/
def selSt (e : Selector) (n : Nat) : Nat := if n = 0 then e.stA else e.stB

/-- The generation of slot `n`. -/
def selGen (e : Selector) (n : Nat) : Nat := if n = 0 then e.genA else e.genB

/-- A selector with slot `n` in a state. -/
def selSet (e : Selector) (n st : Nat) : Selector := if n = 0 then { e with stA := st } else { e with stB := st }

/-- A selector with slot `n` at a generation. -/
def selSetGen (e : Selector) (n g : Nat) : Selector := if n = 0 then { e with genA := g } else { e with genB := g }

/-- Set the state of a slot in the selector. -/
def slotTo (s : State) (n st : Nat) : State := writeSel s (selSet (selOr s.boot.flash) n st)

/-- The image in a slot of the flash. -/
def slotImg (s : State) (n : Nat) : Option (List Byte) :=
  let b := if n = 0 then s.boot.flash.imgA else s.boot.flash.imgB
  if b.isEmpty then none else some b

/-- Put an image into a slot of the flash, or erase the slot. -/
def putImg (s : State) (n : Nat) (i : List Byte) : State :=
  let f := s.boot.flash
  { s with boot := { s.boot with flash := if n = 0 then { f with imgA := i } else { f with imgB := i } } }

/-- The ACTIVE image (R476). -/
def activeImg (s : State) : Option (List Byte) := slotImg s (selOr s.boot.flash).active

/-- Mark BAD every slot whose image satisfies a test (R496, R497). -/
def badSlots (s : State) (f : List Byte → Bool) : State :=
  (List.range 2).foldl (fun s n => match slotImg s n with
    | some i => if f i && selSt (selOr s.boot.flash) n != 3 then slotTo s n 3 else s
    | none => s) s

/-! ### Measurements (R498, R499) -/

/-- The image the report measures: the new firmware's indices change at activation DONE (Table 21-3). -/
def measImg (s : State) : Option (List Byte) :=
  match s.boot.actOld with
  | some i => some i
  | none => s.boot.fw

/-- The firmware measurement of an image: SHA-256 of its section 0 with SVN and IMG_VERSION after it (index 2,
notes/assumptions/61.md). -/
def fwMeasure (i : List Byte) : List Byte := sha256 (polSection i 0 ++ leBytes 4 (polSvn i) ++ leBytes 4 (polVer i))

/-- Counter CTR n (Table 21-1). -/
def ctrOf (s : State) (n : Nat) : Nat := tabGet s.sec.ctrs n 0

/-- Measurement `i`, none when it has no content (Table 21-3). -/
def measure (s : State) (i : Nat) : Option Nat :=
  let f (g : List Byte → List Byte) : Option Nat := (measImg s).map fun i => leNat (g i)
  if i = 1 then some Sys2Proof.Config.romMeasure
  else if i = 2 then f fwMeasure
  else if i = 3 then f fun g => sha256 (polSection g 1)
  else if i = 4 then f fun g => sha256 (polSection g 2)
  else if i = 5 then f fun g => sha256 (polSection g 3 ++ polSection g 4)
  else if i = 6 then f fun g => sha256 (g.take 256)
  else if i = 7 then some (leNat (sha256 (leBytes 1 s.sec.revoked ++ ((List.range 64).flatMap fun n => leBytes 1 (ctrOf s n)) ++
    leBytes 7 (bit s.sec.debugLock))))
  else if i = 8 then some s.sec.measGen
  else if 16 ≤ i ∧ i < 48 then
    match tabGet s.cmp.bundles (i - 16) none with
    | some b => if b.valid && b.img.shared then some b.digest else none
    | none => none
  else none

/-- The indices a report holds. -/
def measIdx (s : State) : List Nat := (List.range 48).filter fun i => (measure s i).isSome

/-- MEAS_GEN counts a change (index 8). -/
def bumpMeas (s : State) : State := { s with sec := { s.sec with measGen := s.sec.measGen + 1 } }

/-- The order n of the P-256 group (FIPS 186, notes/assumptions/61.md). -/
def p256Order : Nat := 0xFFFFFFFF00000000FFFFFFFFFFFFFFFFBCE6FAADA7179E84F3B9CAC2FC632551

/-- A private scalar from 384 bits c of key material: (c mod (n − 1)) + 1 (Table 21-2). -/
def keyScalar (c : List Byte) : Nat := leNat c.reverse % (p256Order - 1) + 1

/-- The device identity key, derived with info YT20-DIK (Table 21-2). -/
def identityKey : Nat :=
  keyScalar (hkdf48 (List.replicate 32 0) Sys2Proof.Config.uds [0x59, 0x54, 0x32, 0x30, 0x2D, 0x44, 0x49, 0x4B])

/-- The alias key of a firmware measurement: the same derivation with that as salt and info YT20-ALIAS (Table 21-2). -/
def aliasKey (m : List Byte) : Nat :=
  keyScalar (hkdf48 m Sys2Proof.Config.uds [0x59, 0x54, 0x32, 0x30, 0x2D, 0x41, 0x4C, 0x49, 0x41, 0x53])

/-- Derive the alias key of a firmware and issue its certificate (R494, R495, R503). -/
def deriveAlias (s : State) (i : List Byte) : State :=
  let m := fwMeasure i
  let s1 := { s with sec := { s.sec with aliasOld := s.sec.aliasNow, aliasNow := aliasKey m, aliasReady := true } }
  pushErr s1 .secAlias { detail := [leNat m, s.sec.measGen] }

/-- The key that franks now: the running firmware's, until its successor's cores have switched (R494, R495). -/
def frankKey (s : State) : Nat :=
  match s.boot.actSt with
  | .load | .switch => s.sec.aliasOld
  | _ => s.sec.aliasNow

/-! ### Commit and revoke (R496, R497, Table 21-4) -/

/-- Whether an activation is under way. -/
def activating (s : State) : Bool :=
  match s.boot.actSt with
  | .verify | .load | .switch | .config => true
  | _ => false

/-- Whether an image write, an activation, a commit or a revoke runs. -/
def secBusy (s : State) : Bool := s.boot.imgSt == 1 || activating s || s.sec.fuse.isSome

/-- A ledger entry of a write to a register of this module. -/
def regLedger (s : State) (o : Origin) (off v : Nat) (st : Status) : State :=
  ledger s o { obj := 0, act := if st == .ok then 0 else 5, status := st, width := goWidth o, target := off, new := v }

/-- The state of SEC_COMMIT. -/
def setCommit (s : State) (st : Nat) (x : Status) : State :=
  { s with sec := { s.sec with commitSt := st, commitStatus := statusNumber x } }

/-- The state of SEC_REVOKE. -/
def setRevoke (s : State) (st : Nat) (x : Status) : State :=
  { s with sec := { s.sec with revokeSt := st, revokeStatus := statusNumber x } }

/-- Refuse a GO of SEC_COMMIT. -/
def commitNo (s : State) (o : Origin) (st : Status) (c : RecCode) : State :=
  refuseReg (regLedger s o 0xA0010 1 st) c { status := st } fun s =>
    if s.sec.commitSt = 1 then { s with sec := { s.sec with commitStatus := statusNumber st } } else setCommit s 3 st

/-- GO of SEC_COMMIT: why it is refused, or the fuses to blow (R496). -/
def commitGo (s : State) (o : Origin) : State :=
  match o with
  | .vf _ => commitNo s o .notPermitted .cmdPerm
  | _ =>
    if secBusy s then commitNo s o .busy .secCommit
    else match s.boot.st, activeImg s with
      | .run, some i =>
        let s1 := regLedger s o 0xA0010 1 .ok
        if polSvn i ≤ ctrOf s (polCtr i) then
          ledger (setCommit s1 2 .ok) o { obj := 8, old := ctrOf s (polCtr i), new := ctrOf s (polCtr i) }
        else
          let s2 := setCommit s1 1 .accepted
          { s2 with sec := { s2.sec with fuse := some (.commit (polCtr i) (polSvn i)), fuseBy := o } }
      | _, _ => commitNo s o .badState .secCommit

/-- SEC_COMMIT_GO (R496). -/
def execSecCommitGo (o : Origin) (s : State) : Res := .next (if s.side.mainOn then commitGo s o else s)

/-- Refuse a GO of SEC_REVOKE. -/
def revokeNo (s : State) (o : Origin) (k : Nat) (st : Status) (c : RecCode) : State :=
  refuseReg (regLedger s o 0xA0018 (k + 8) st) c { status := st } fun s =>
    if s.sec.revokeSt = 1 then { s with sec := { s.sec with revokeStatus := statusNumber st } } else setRevoke s 3 st

/-- GO of SEC_REVOKE with KEY_ID `k` (R497). -/
def revokeGo (s : State) (o : Origin) (k : Nat) : State :=
  match o with
  | .vf _ => revokeNo s o k .notPermitted .cmdPerm
  | _ =>
    if secBusy s then revokeNo s o k .busy .secRevoke
    else match s.boot.st, activeImg s with
      | .run, some i =>
        if polKey i ≤ k then revokeNo s o k .badState .secRevoke
        else
          let s1 := regLedger s o 0xA0018 (k + 8) .ok
          if s.sec.revoked.testBit k then ledger (setRevoke s1 2 .ok) o { obj := 8, old := k, new := k }
          else
            let s2 := setRevoke s1 1 .accepted
            { s2 with sec := { s2.sec with fuse := some (.revoke k), fuseBy := o } }
      | _, _ => revokeNo s o k .badState .secRevoke

/-- SEC_REVOKE_GO (R497). -/
def execSecRevokeGo (o : Origin) (k : Fin 8) (s : State) : Res := .next (if s.side.mainOn then revokeGo s o k.val else s)

/-- The end of a commit: the counter reads as the fuses read, and slots below it are BAD (R496). -/
def commitEnd (s : State) (c svn : Nat) (good : Bool) (blown : Nat) : State :=
  let old := ctrOf s c
  let v := if good then svn else max old (min blown (svn - 1))
  let s1 := { s with sec := { s.sec with fuse := none, ctrs := tabSet s.sec.ctrs c v 0 } }
  let s2 := if v = old then s1 else bumpMeas s1
  if good then
    let s3 := badSlots s2 fun i => polCtr i == c && decide (polSvn i < svn)
    let s4 := pushErr (setCommit s3 2 .ok) .secCommit { detail := [c, v] }
    ledger s4 s.sec.fuseBy { obj := 8, old := old, new := v }
  else pushErr (setCommit s2 3 .badState) .secFuse { status := .badState, detail := [c, v] }

/-- The end of a revoke (R497). -/
def revokeEnd (s : State) (k : Nat) (good : Bool) : State :=
  let s1 := { s with sec := { s.sec with fuse := none } }
  if good then
    let s2 := bumpMeas { s1 with sec := { s1.sec with revoked := s1.sec.revoked ||| 2 ^ k } }
    let s3 := badSlots s2 fun i => polKey i == k
    let s4 := pushErr (setRevoke s3 2 .ok) .secRevoke { detail := [k] }
    ledger s4 s.sec.fuseBy { obj := 8, old := k, new := k }
  else pushErr (setRevoke s1 3 .badState) .secFuse { status := .badState, detail := [k] }

/-- FUSE_BLOW_DONE (R496, R497): `blown` is the count of fuses that read back blown when the read-back fails. -/
def execFuseBlowDone (good : Bool) (blown : Nat) (s : State) : Res :=
  match s.sec.fuse with
  | none => .next s
  | some (.commit c v) => .next (commitEnd s c v good blown)
  | some (.revoke k) => .next (revokeEnd s k good)

/-! ### SPDM (R500, R501); message codes as DSP0274 gives them (notes/assumptions/17.md, PRESUMED) -/

/-- A transport's connection. -/
def connOf (s : State) (t : Transport) : Conn := match t with | .doe => s.sec.doe | .mctp => s.sec.mctp

/-- Write a transport's connection. -/
def setConn (s : State) (t : Transport) (c : Conn) : State :=
  match t with
  | .doe => { s with sec := { s.sec with doe := c } }
  | .mctp => { s with sec := { s.sec with mctp := c } }

/-- Answer a request: the response enters the transport and, for a request the connection took, its transcript. -/
def spdmSay (s : State) (t : Transport) (code : Nat) (body : List Nat) (stage : Nat) (req : List Nat) : State :=
  let c := connOf s t
  let d := Sys2Proof.Config.digest (c.log :: req ++ [code] ++ body)
  emit (setConn s t { c with stage := stage, log := d, resp := some (code, body) }) (.spdm t code body)

/-- An ERROR response: the connection is unchanged but for the response it holds. -/
def spdmErr (s : State) (t : Transport) (e : Nat) : State :=
  emit (setConn s t { connOf s t with resp := some (0x7F, [e]) }) (.spdm t 0x7F [e])

/-- Guard a request: before RUN it meets Busy, out of its connection's order UnexpectedRequest. -/
def spdmGuard (s : State) (t : Transport) (need : Nat) (f : State → State) : State :=
  if !s.side.standby || !s.side.mainOn then s
  else if s.boot.st ≠ .run then spdmErr s t 3
  else if (connOf s t).stage < need then spdmErr s t 4
  else f s

/-- GET_VERSION: a new connection, versions 1.2 and 1.3. -/
def getVersion (s : State) (t : Transport) : State :=
  spdmGuard s t 0 fun s => spdmSay (setConn s t Conn.init) t 0x04 [0x12, 0x13] 1 [0x84]

/-- GET_CAPABILITIES: CTExponent 14, flags CERT_CAP, CHAL_CAP, MEAS_CAP with signature. -/
def getCaps (s : State) (t : Transport) : State := spdmGuard s t 1 fun s => spdmSay s t 0x61 [14, 0x16] 2 [0xE1]

/-- NEGOTIATE_ALGORITHMS: P-256 and SHA-256; no common algorithm is an error with an SEC_SPDM record. -/
def negotiate (s : State) (t : Transport) (ok : Bool) : State :=
  spdmGuard s t 2 fun s =>
    if ok then spdmSay s t 0x63 [0x10, 1] 3 [0xE3] else pushErr (spdmErr s t 1) .secSpdm { detail := [0xE3] }

/-- What the alias certificate carries: its public key and measurement indices 1 and 2 (Table 21-2). -/
def aliasCert (s : State) : List Nat := [Sys2Proof.Config.pubKey (frankKey s), (measure s 1).getD 0, (measure s 2).getD 0]

/-- The certificate chain of slot 0: root and device CA with the DIK, then the alias certificate, signed by the DIK (R495). -/
def certChain (s : State) : List Nat :=
  [Sys2Proof.Config.deviceCert, Sys2Proof.Config.pubKey identityKey] ++ aliasCert s ++
    [Sys2Proof.Config.sign identityKey (Sys2Proof.Config.digest (aliasCert s))]

/-- GET_DIGESTS: the digest of slot 0's chain. -/
def getDigests (s : State) (t : Transport) : State :=
  spdmGuard s t 3 fun s => spdmSay s t 0x01 [1, Sys2Proof.Config.digest (certChain s)] 3 [0x81]

/-- GET_CERTIFICATE: slot 0 only. -/
def getCert (s : State) (t : Transport) (slot : Nat) : State :=
  spdmGuard s t 3 fun s => if slot = 0 then spdmSay s t 0x02 (0 :: certChain s) 3 [0x82, slot] else spdmErr s t 1

/-- Draw a response nonce from the entropy source (R501). -/
def drawNonce (s : State) : State × List Nat :=
  ({ s with sec := { s.sec with draws := s.sec.draws + 1 } }, (Sys2Proof.Config.entropy s.sec.draws).map BitVec.toNat)

/-- A signed response: the nonce drawn, the body, and the alias key's signature over the transcript. -/
def spdmSigned (s : State) (t : Transport) (code : Nat) (req body : List Nat) : State :=
  if !s.sec.rngOk then spdmErr s t 5
  else
    let (s1, n) := drawNonce s
    let b := body ++ n
    let sig := Sys2Proof.Config.sign (frankKey s) (Sys2Proof.Config.digest ((connOf s t).log :: req ++ b))
    spdmSay s1 t code (b ++ [sig]) 3 req

/-- CHALLENGE: a signed answer over every measurement. -/
def challenge (s : State) (t : Transport) (slot nonce : Nat) : State :=
  spdmGuard s t 3 fun s =>
    if slot = 0 then
      let all := Sys2Proof.Config.digest ((measIdx s).flatMap fun i => [i, (measure s i).getD 0])
      spdmSigned s t 0x03 [0x83, slot, nonce] [Sys2Proof.Config.digest (certChain s), all]
    else spdmErr s t 1

/-- A measurement block: index, value, and for a bundle its BUNDLE_ID and VERSION as manifest. -/
def measBlock (s : State) (i : Nat) : List Nat :=
  match measure s i with
  | none => []
  | some v =>
    let m := match tabGet s.cmp.bundles (i - 16) none with
      | some b => if 16 ≤ i then [b.img.id, b.img.version] else []
      | none => []
    i :: v :: m

/-- GET_MEASUREMENTS: index 0 the number of indices, 0xFF all of one snapshot, otherwise one (R498, R499). -/
def getMeas (s : State) (t : Transport) (index nonce : Nat) : State :=
  spdmGuard s t 3 fun s =>
    let body := if index = 0 then [(measIdx s).length] else if index = 0xFF then (measIdx s).flatMap (measBlock s)
      else measBlock s index
    if body.isEmpty then spdmErr s t 1 else spdmSigned s t 0x60 [0xE0, index, nonce] body

/-- Any other request: UnsupportedRequest and an SEC_SPDM record (R500). -/
def spdmOther (s : State) (t : Transport) (code : Nat) : State :=
  spdmGuard s t 0 fun s => pushErr (spdmErr s t 7) .secSpdm { detail := [code] }

/-- GET_VERSION (R500, R501). -/
def execGetVersion (t : Transport) (s : State) : Res := .next (getVersion s t)
/-- GET_CAPABILITIES (R500, R501). -/
def execGetCapabilities (t : Transport) (s : State) : Res := .next (getCaps s t)
/-- NEGOTIATE_ALGORITHMS (R500, R501). -/
def execNegotiateAlgorithms (t : Transport) (ok : Bool) (s : State) : Res := .next (negotiate s t ok)
/-- GET_DIGESTS (R500, R501). -/
def execGetDigests (t : Transport) (s : State) : Res := .next (getDigests s t)
/-- GET_CERTIFICATE (R495, R500). -/
def execGetCertificate (t : Transport) (slot : Nat) (s : State) : Res := .next (getCert s t slot)
/-- CHALLENGE (R500, R501). -/
def execChallenge (t : Transport) (slot nonce : Nat) (s : State) : Res := .next (challenge s t slot nonce)
/-- GET_MEASUREMENTS (R498 to R501). -/
def execGetMeasurements (t : Transport) (index nonce : Nat) (s : State) : Res := .next (getMeas s t index nonce)
/-- SPDM_UNSUPPORTED (R500). -/
def execSpdmUnsupported (t : Transport) (code : Nat) (s : State) : Res := .next (spdmOther s t code)

/-- A request by its decoded form, as MCTP delivers it. -/
def spdmAsk (s : State) (t : Transport) (q : Spdm) : State :=
  match q with
  | .getVersion => getVersion s t
  | .getCapabilities => getCaps s t
  | .negotiate ok => negotiate s t ok
  | .getDigests => getDigests s t
  | .getCertificate n => getCert s t n
  | .challenge k n => challenge s t k n
  | .getMeasurements i n => getMeas s t i n
  | .other c => spdmOther s t c

/-- DOE_ABORT (R501): that transport's request in progress is discarded, the other transport's is not. -/
def execDoeAbort (t : Transport) (s : State) : Res :=
  match t with
  | .doe => .next (setConn s .doe { s.sec.doe with resp := none })
  | .mctp => .next s

/-! ### Entropy and the debug lock (R501, R502) -/

/-- RNG_HEALTH_FAIL (R501). -/
def execRngHealthFail (s : State) : Res :=
  if !s.side.mainOn then .next s
  else .next (pushErr { s with sec := { s.sec with rngOk := false } } .secRng {})

/-- RNG_HEALTH_PASS (R501). -/
def execRngHealthPass (s : State) : Res :=
  if !s.side.mainOn then .next s else .next { s with sec := { s.sec with rngOk := true } }

/-- JTAG_INSTRUCTION (R502): 0 IDCODE, 1 BYPASS; a locked TAP acts on any other as BYPASS, with at most one SEC_DEBUG
record a second. -/
def execJtagInstruction (ir : Nat) (s : State) : Res :=
  if !s.side.mainOn || !s.sec.debugLock || decide (ir ≤ 1) then .next s
  else
    let quiet := match s.sec.lastDebug with
      | some t => decide (nowNs s < t + 1000000000)
      | none => false
    if quiet then .next s
    else .next (pushErr { s with sec := { s.sec with lastDebug := some (nowNs s) } } .secDebug { detail := [ir] })

end Sys2Proof.Machine
end

