-- ==== Sys2Proof/Machine/Boot.lean ====
section
/-! DEFINITION. Boot, image checks, configuration records, image writes, live activation, reboot (chapter 20). -/

namespace Sys2Proof.Machine

/-! ### Records of an image (R479, R480) -/

/-- KIND of a record body (Table 20-5). -/
def recKind : ConfBody → Nat
  | .envelope .. => 1 | .host .. => 2 | .group .. => 3 | .route .. => 4 | .region .. => 5 | .partition .. => 6
  | .vfBind .. => 7 | .roleTable .. => 8 | .field .. => 9 | .fenceMin .. => 10

/-- INDEX of a record; FIELD records are told apart by their field. -/
def recIndex : ConfBody → Nat
  | .route d .. => d | .region n _ => n | .partition n .. => n.val | .vfBind k .. => k.val | .roleTable p _ => p.val
  | .field off _ _ mask => off * 2 ^ 64 + mask | _ => 0

/-- Whether `a` is overridden by a record with module `m` of the same KIND and INDEX. -/
def overridden (rs : List ConfRec) (m : Nat) (a : ConfRec) : Bool :=
  a.mod == 0xFF && rs.any fun b => b.mod == m && recKind b.body == recKind a.body && recIndex b.body == recIndex a.body

/-- The records module `m` applies, in KIND order (R479, R481). -/
def recsFor (i : List Byte) (m : Nat) : List ConfBody :=
  let rs := (imgRecs i).getD []
  let mine := (rs.filter fun r => (r.mod == m || r.mod == 0xFF) && !overridden rs m r).map ConfRec.body
  (List.range 11).flatMap fun k => mine.filter fun b => recKind b == k

/-- The owner number of a region record. -/
def ownerNum : Owner → Nat
  | .part n => n.val | .shared => 8 | .module => 9

/-- A region as its record gives it, VALID set. -/
def recRegion (r : RegionDef) : Region := ⟨true, r.cls, r.spread, r.die, ownerNum r.owner, r.base, r.size, r.pool, 0⟩

/-- Whether a record passes the ranges of its defining chapter (R480). -/
def recOk (s : State) : ConfBody → Bool
  | .envelope e t => decide (envCode t ≤ envCode e)
  | .host m _ => decide (m ≤ 9)
  | .group id topo n _ => decide (id < 2 ^ 32) && decide (topo ≤ 2) && decide (1 ≤ n) && decide (n ≤ 64)
  | .route d a b v => decide (d < 64) && decide (a < 2 ^ 24) && decide (b < 2 ^ 24) && decide (v < 64)
  | .region n r => decide (n < 256) && regionFieldsOk (recRegion r)
  | .partition _ dies nctx quota _ so pg pm cb tn =>
    decide (dies < 65536) && decide (nctx ≤ 32) && decide (quota ≤ 65536) && decide (so < 4) && decide (1 ≤ pg) &&
      decide (pg ≤ 64) && decide (1 ≤ pm) && decide (pm ≤ 64) && cb % 64 == 0 && decide (64 ≤ cb) && decide (cb ≤ 512) &&
      decide (tn ≤ 1048575)
  | .vfBind k _ m _ => k.val != 0 && decide (m < 64)
  | .roleTable _ ts => decide (ts.length ≤ 16) && ts.all fun t => decide (t.1 < 64) && decide (t.2 < 8)
  | .field off w v m =>
    match fldFor off w m with
    | some f => fldCfg f && (w == 4 || w == 8) && (fldRange s f (fldNew s f off v m)).isNone
    | none => false
  | .fenceMin n => n == 16

/-- Whether no element of a list repeats. -/
def noRepeat (l : List Nat) : Bool := decide (l.eraseDups.length = l.length)

/-- A fresh machine whose regions are those of some records. -/
def recsRegions (s : State) (rs : List ConfBody) : State :=
  let regs := rs.filterMap fun b => match b with
    | .region n r => some (n, recRegion r)
    | _ => none
  { s with ras := Ras.init, mem := { Mem.init with regions := regs.foldl (fun t e => tabSet t e.1 e.2 Region.init) [] } }

/-- Whether the records of one module stand together: regions, disjoint dies, quotas, one VF a partition (R480). -/
def recsStand (s : State) (rs : List ConfBody) : Bool :=
  let dies := rs.flatMap fun b => match b with
    | .partition _ d .. => (List.range 16).filter d.testBit
    | _ => []
  let quota : Nat := (rs.map fun (b : ConfBody) => match b with
    | .partition _ _ _ q .. => q
    | _ => (0 : Nat)).sum
  let binds := rs.filterMap fun b => match b with
    | .vfBind _ p m r => some (if r then (m + 1) * 8 + p.val else p.val)
    | _ => none
  regionsLie (recsRegions s rs) && noRepeat dies && decide (quota ≤ 65536) && noRepeat binds

/-- Check an image under R480: none when valid, otherwise the status Table 20-7 gives the case. -/
def imageStatus (s : State) (i : List Byte) : Option Status :=
  let good := polHeader i && (match imgRecs i with
    | none => false
    | some rs => rs.all fun r => recOk s r.body && (decide (r.mod < 64) || r.mod == 0xFF)) &&
    (List.range 64).all fun m => recsStand s (recsFor i m)
  if 24 * 2 ^ 20 < polLen i then some .badRange
  else if !good then some .badField
  else if !(List.range 64).all fun m => contentFits (recsRegions s (recsFor i m)) then some .badRange
  else if s.sec.revoked.testBit (polKey i) || decide (polSvn i < ctrOf s (polCtr i)) || !polSigned i then some .authFail
  else none

/-- The record of an image that is not valid: MEM_LOAD for content above 96 GiB (R265, Table 10-4), else IMG_VERIFY (Table 20-7). -/
def imageCode (i : List Byte) (st : Status) : RecCode := if st == .badRange && decide (polLen i ≤ 24 * 2 ^ 20) then .memLoad else .imgVerify

/-! ### The link against its minimum mode (R385, Table 16-15) -/

/-- A PCIe mode's place in ascending payload rate (Table 16-15). -/
def modeRank (speed width : Nat) : Nat :=
  match speed, width with
  | 5, 4 => 1 | 5, 8 => 2 | 6, 4 => 3 | 5, 16 => 4 | 6, 8 => 5 | 7, 4 => 6 | 6, 16 => 7 | 7, 8 => 8 | 7, 16 => 9
  | _, _ => 0

/-- Check the trained mode against MIN_MODE (R385): where its payload rate is lower, HIF_LINK_LOW and ALERT_N. -/
def checkMode (s : State) : State :=
  let low := s.hif.speed != 0 && decide (modeRate (modeRank s.hif.speed s.hif.width) < modeRate s.hif.minMode)
  let s1 := { s with hif := { s.hif with belowMin := low } }
  if low then
    let s2 := { s1 with ras := { s1.ras with alert := true } }
    pushErr s2 .hifLinkLow { detail := [s.hif.speed, s.hif.width, s.hif.minMode] }
  else s1

/-! ### Applying records (R481, R482) -/

/-- The modules an image marks TIME_MASTER (R448). -/
def mastersOf (i : List Byte) : List Nat :=
  (List.range 64).filter fun m => (recsFor i m).any fun b => match b with
    | .group _ _ _ t => t
    | _ => false

/-- Whether module `m` can be reached; a module reaches itself. -/
def canReach (s : State) (m : Nat) : Bool := m == s.lnk.modNum || (routeOf s m).reachable

/-- The group's time master: the lowest reachable TIME_MASTER (R448). -/
def pickMaster (s : State) : State :=
  { s with lnk := { s.lnk with master := (s.lnk.masters.find? (canReach s)).getD 0 } }

/-- Put a partition's record in force: its secret is drawn as it is created (R155, R550). -/
def applyPart (s : State) (p dies nctx quota : Nat) (role : Role) (so pg pm cb tn : Nat) : State :=
  let s1 := setDies s p dies
  let cs := (List.range nctx).foldl (fun t c =>
    tabSet t c { Ctx.init with st := if c = 0 then .running else .ready } Ctx.init) []
  let so' := if isFenced s ⟨.soInst, 16 + so, 0⟩ then (liveSo s).getD so else so
  modPart s1 p fun x => { x with nctx := nctx, ctxs := cs, running := 0, quota := quota, role := role, soInst := so',
                                 poolPage := pg, poolMeta := pm, colBudget := cb, treeNodes := tn }

/-- Ledger fields of a record: OBJ and target. -/
def recTarget : ConfBody → Nat × Nat × Nat
  | .envelope .. => (0, 0x10000, 8) | .host .. => (0, 0x30000, 8) | .group .. => (0, 0x88000, 8)
  | .route d .. => (0, 0x88100 + d * 8, 8) | .region n _ => (5, 0x61000 + n * 16, 8)
  | .partition n .. => (5, 0x40000 + n.val * 0x40, n.val) | .vfBind k .. => (0, 0x30200 + (k.val - 1) * 8, 8)
  | .roleTable p _ => (5, 0, p.val) | .field off .. => (0, off, 8) | .fenceMin _ => (0, 0, 8)

/-- The value a record's register holds. -/
def recValue (s : State) (b : ConfBody) : Nat :=
  let t := recTarget b
  if t.2.1 = 0 then 0 else ((regAt s t.2.1).map fun r => r.val % 2 ^ 64).getD 0

/-- Put one record in force. -/
def putRec (s : State) (b : ConfBody) : State :=
  match b with
  | .envelope e t => { s with pwr := { s.pwr with envelope := e, throttleEnv := t } }
  | .host m f => checkMode { s with hif := { s.hif with minMode := m, front := f } }
  | .group id topo n _ => { s with lnk := { s.lnk with groupId := id, topo := topo, modules := n } }
  | .route d a c v =>
    let r := { routeOf s d with primary := a, alt := c, via := v }
    { s with lnk := { s.lnk with routes := tabSet s.lnk.routes d r Route.init } }
  | .region n r => setRegion (freshLens s (recRegion r)) n (recRegion r)
  | .partition p d n q ro so pg pm cb tn => applyPart s p.val d n q ro so pg pm cb tn
  | .vfBind k p m r =>
    let s1 := modBind s k.val fun _ => ⟨p.val, m, r⟩
    if r then { s1 with hif := { s1.hif with relayTab := s1.hif.relayTab ++ [(k.val, m, p.val)] } } else s1
  | .roleTable p ts => modPart s p.val fun x => { x with targets := ts }
  | .field off w v m =>
    match fldFor off w m with
    | some f => fldSet s f (fldNew s f off v m)
    | none => s
  | .fenceMin _ => s

/-- Apply one record with its change-ledger entry of origin boot image (R481 step 5). -/
def applyRec (s : State) (b : ConfBody) : State :=
  let old := recValue s b
  let s1 := putRec s b
  let t := recTarget b
  ledger s1 .bootImage { obj := t.1, part := t.2.2, target := t.2.1, old := old, new := recValue s1 b }

/-! ### Boot (R481 to R484) -/

/-- The slot the ROM takes first (R481 step 1). -/
def chooseSlot (e : Selector) : Option Nat :=
  if e.stA = 2 then some 0
  else if e.stB = 2 then some 1
  else if e.stA = 1 ∧ e.stB = 1 then some (if e.genA < e.genB then 1 else 0)
  else if e.stA = 1 then some 0
  else if e.stB = 1 then some 1
  else none

/-- Enter RECOVERY (R483): compute dies off, VFs absent. -/
def toRecovery (s : State) : State :=
  let s1 := (List.range 16).foldl powerDown s
  { s1 with boot := { s1.boot with st := .recovery }, hif := { s1.hif with numVfs := 0 } }

/-- BOOT_ROM_START (R475, R481 steps 1 and 3, R483): `fast` is 8D-8D-8D mode. -/
def execBootRomStart (fast : Bool) (s : State) : Res :=
  if !s.side.mainOn || s.boot.st ≠ .rom || s.boot.presented then .next s
  else
    let s1 := if fast then s else pushErr s .bootSlow {}
    let sn := (tabKeys s1.pwr.sense).foldl (fun t k => tabMod t k TileSense.init fun x => { x with sensorBad := false }) s1.pwr.sense
    let s2 := { s1 with sec := { s1.sec with rngOk := true }, pwr := { s1.pwr with sense := sn } }
    match chooseSlot (selOr s2.boot.flash) with
    | some n => .next { s2 with boot := { s2.boot with presented := true, slot := n, tried := false } }
    | none => .next (toRecovery { s2 with boot := { s2.boot with presented := true } })

/-- A slot that fails: BAD, BOOT_SLOT_BAD, then the other slot where it is VALID or TRIAL and not tried (R481, R483). -/
def slotFails (s : State) (st : Status) : State :=
  let n := s.boot.slot
  let s1 := pushErr (slotTo s n 3) .bootSlotBad { status := st, detail := [n] }
  let other := selSt (selOr s1.boot.flash) (1 - n)
  if !s.boot.tried && (other = 1 || other = 2) then
    { s1 with boot := { s1.boot with st := .rom, slot := 1 - n, tried := true } }
  else toRecovery s1

/-- IMAGE_VERIFIED (R480, R481 step 2, R495): the read image is checked; valid, its alias key is derived. -/
def execImageVerified (s : State) : Res :=
  if !s.side.mainOn || s.boot.st ≠ .rom || !s.boot.presented then .next s
  else match slotImg s s.boot.slot with
    | none => .next (slotFails s .badField)
    | some i =>
      match imageStatus s i with
      | some st => .next (slotFails s st)
      | none =>
        let b := { s.boot with st := .config, fw := some i, conf := some i, fallback := s.boot.tried, confPend := false }
        let s1 := deriveAlias { s with boot := b } i
        .next (if s.boot.tried then pushErr s1 .bootFallback { detail := [s.boot.slot] } else s1)

/-- The fence-list copy in force, as (SEQ, units) (R477). -/
def fenceCopy (f : Flash) : Option (Nat × List UnitId) :=
  match listOf f.list0, listOf f.list1 with
  | some a, some b => some (if a.1 < b.1 then b else a)
  | some a, none => some a
  | none, b => b

/-- Fence a unit at boot, before any memory or partition exists: its state, a channel's buckets, a port. -/
def bootFence (s : State) (u : UnitId) : State :=
  let s1 := if isFenced s u then s else unitTo s u .fenced .unitFence (fenceEvent u.kind) []
  match u.kind with
  | .channel => applyMoves s1 u.die (planMoves s1 (u.die * 32 + u.unit))
  | .port =>
    let n := u.unit
    let x := { portOf s1 n with st := .fenced }
    { s1 with lnk := { s1.lnk with ports := tabSet s1.lnk.ports n x LnkPort.init } }
  | .tile =>
    let n := ((List.range 64).filter fun t => isFenced s1 ⟨.tile, u.die, t⟩).length
    if 16 < n && !isFenced s1 (dieUnit u.die) then unitTo s1 (dieUnit u.die) .fenced .unitFence 5 [] else s1
  | _ => s1

/-- Whether a partition's record cannot stand after the fences (R482): no die left, or R265 broken where it owns. -/
def partLost (s : State) (p : Nat) : Bool :=
  let x := partOf s p
  let gone := (diesOf x).all fun d => isFenced s (dieUnit d)
  let over' := (List.range 16).any fun d => decide (dieCapacity s d < dieFixed s d) &&
    (validRegions s).any fun n => (regionOf s n).owner == p && ((regionOf s n).spread || (regionOf s n).die == d)
  gone || over'

/-- Leave absent every partition that cannot stand, with BOOT_CONFIG (R482). -/
def dropLost (s : State) : State :=
  forParts s fun s p =>
    if (partOf s p).valid && partLost s p then
      pushErr (modPart s p fun x => { x with valid := false }) .bootConfig { part := p, detail := [p] }
    else s

/-- Ports that are down begin to train, each sending its IDENT (R426, R481 step 5). -/
def trainPorts (s : State) : State :=
  (List.range 24).foldl (fun s p =>
    let x := tabGet s.lnk.ports p LnkPort.init
    if x.st == .down then
      emit { s with lnk := { s.lnk with ports := tabSet s.lnk.ports p { x with st := .training } LnkPort.init } }
        (.control p 1 [s.lnk.modNum, p, s.lnk.groupId, s.lnk.topo])
    else s) s

/-- The image's envelope record, applied before any compute die powers (R481 step 4). -/
def applyEnv (s : State) (rs : List ConfBody) : State := (rs.filter fun b => recKind b == 1).foldl applyRec s

/-- Power the dies, fencing those that fail power or training (R481 step 4, R482). -/
def powerDies (s : State) (failed : List (Fin 16)) : State :=
  let s1 := (List.range 20).foldl (fun s d => if failed.any (·.val == d) then s else powerUp s d) s
  failed.foldl (fun s d =>
    if isFenced s (dieUnit d.val) then s
    else pushErr (unitTo s (dieUnit d.val) .fenced .unitFence 5 []) .bootDie { unit := dieUnit d.val, detail := [d.val] }) s1

/-- Apply the fence list (R477, R481 step 5). -/
def applyList (s : State) : State :=
  match fenceCopy s.boot.flash with
  | some c => c.2.foldl bootFence s
  | none => pushErr s .fenceList {}

/-- STACKS_TRAINED (R481 steps 4 and 5, R482): envelope, dies, fence list, regions, then the other records in KIND
order; `failed` names the compute dies that fail power or training. -/
def execStacksTrained (failed : List (Fin 16)) (s : State) : Res :=
  match s.boot.st, s.boot.applied, s.boot.conf with
  | .config, false, some i =>
    if !s.side.mainOn then .next s
    else
      let rs := recsFor i s.side.modId
      let s0 := { s with lnk := { s.lnk with modNum := s.side.modId, masters := mastersOf i }, hif := { s.hif with relayTab := [] } }
      let s1 := applyList (powerDies (applyEnv s0 rs) failed)
      let s2 := (rs.filter fun b => recKind b == 5).foldl applyRec s1
      let s3 := (rs.filter fun b => recKind b != 5 && recKind b != 1).foldl applyRec s2
      let s4 := dropLost s3
      let s5 := withdrawAll s4 0
      let s6 := pickMaster (trainPorts s5)
      .next { s6 with boot := { s6.boot with applied := true },
                      ras := { s6.ras with listDirty := !failed.isEmpty } }
  | _, _, _ => .next s

/-- FIRMWARE_RUN (R481 step 6): STATE reads RUN and the booted slot is VALID and ACTIVE. -/
def execFirmwareRun (s : State) : Res :=
  if !s.side.mainOn || s.boot.st ≠ .config || !s.boot.applied then .next s
  else
    let ms := min 65535 ((nowNs s - s.boot.bootFrom) / 1000000)
    let e := { selSet (selOr s.boot.flash) s.boot.slot 1 with active := s.boot.slot }
    let s1 := { s with boot := { s.boot with st := .run, bootMs := ms } }
    .next (if selNow s.boot.flash = some e then s1 else writeSel s1 e)

/-- RUN_TIMEOUT (R483): RUN not set within 1 s of step 6 marks the slot BAD and tries the other slot once. -/
def execRunTimeout (s : State) : Res :=
  if !s.side.mainOn || s.boot.st ≠ .config || !s.boot.applied then .next s
  else
    let s1 := keepIsland { s with boot := { s.boot with applied := false, fw := none, conf := none } }
    .next (slotFails ((List.range 16).foldl powerDown s1) .badState)

/-! ### Writing an image (R487, Table 20-7) -/

/-- GLB_IMG_STATUS. -/
def imgOut (s : State) (state : Nat) (st : Status) : State :=
  { s with boot := { s.boot with imgSt := state, imgStatus := statusNumber st } }

/-- End an image GO with a failure and its record. -/
def imgFail (s : State) (st : Status) (c : RecCode) : State :=
  refuseReg s c { status := st } fun s => imgOut s (if s.boot.imgSt = 1 then 1 else 3) st

/-- Whether the running firmware's trackers suit an image (R487). -/
def trackersOk (s : State) (i : List Byte) : Bool :=
  match s.boot.fw with
  | some f => polTrk i == polTrk f || polTrk i == polTrk f + 1
  | none => true

/-- `n` bytes, zeros after those given. -/
def fitTo (n : Nat) (b : List Byte) : List Byte := b.take n ++ List.replicate (n - b.length) 0

/-- The image in the staging area of the management port (R539). -/
def stagedImg (s : State) : List Byte := s.boot.staging.readRun 0 s.boot.imgLen

/-- The checks and the start of an image write. -/
def imgWrite (s : State) (o : Origin) (img : DmaFail ⊕ List Byte) : State :=
  if s.boot.imgSt = 1 || activating s then imgFail s .busy .imgWrite
  else
    let s0 := if o = .mgmt then s else emit s (.hostRead 0 s.boot.imgAddr s.boot.imgLen)
    match img with
    | .inl d => imgOut (flushErrs (dmaFailed s0 0 8 d)) (if s.boot.imgSt = 1 then 1 else 3) .violation
    | .inr b =>
      let i := fitTo s.boot.imgLen b
      if polLen i ≠ s.boot.imgLen then imgFail s0 .badRange .imgVerify
      else match imageStatus s0 i with
        | some st => imgFail s0 st (imageCode i st)
        | none =>
          if !trackersOk s0 i then imgFail s0 .badField .imgVerify
          else
            let n := 1 - (selOr s.boot.flash).active
            let s1 := putImg (slotTo s0 n 0) n []
            { s1 with boot := { s1.boot with imgSt := 1, imgStatus := statusNumber .accepted, progress := 0,
                                             writing := some i, byMgmt := o == .mgmt } }

/-- IMG_WRITE_GO (R487, Table 20-7): `img` is what the DMA read gives, or the read that failed; a GO of the management port
reads its image from the staging area instead (R539). -/
def execImgWriteGo (o : Origin) (img : DmaFail ⊕ List Byte) (s : State) : Res :=
  if !s.side.mainOn || !regOrigin o then .next s
  else .next (imgWrite (regLedger s o 0x30 1 .ok) o (if o = .mgmt then .inr (stagedImg s) else img))

/-- IMAGE_WRITE_DONE (R487): read back, the slot is TRIAL with the ACTIVE slot's GEN + 1, or BAD. -/
def execImageWriteDone (readBack : Bool) (s : State) : Res :=
  match s.boot.writing with
  | none => .next s
  | some i =>
    let e := selOr s.boot.flash
    let n := 1 - e.active
    let s0 := { s with boot := { s.boot with writing := none, progress := 255 } }
    if readBack then
      let s1 := writeSel (putImg s0 n i) (selSetGen (selSet e n 2) n (selGen e e.active + 1))
      let s2 := pushErr (imgOut s1 2 .ok) .imgWrite { detail := [n] }
      .next (ledger s2 (if s.boot.byMgmt then .mgmt else .pf0) { obj := 8, new := polVer i })
    else
      .next (refuseReg (slotTo s0 n 3) .imgWrite { status := .badState, detail := [n] } fun s => imgOut s 3 .badState)

/-! ### Live activation (R488 to R490) -/

/-- Set the activation stage and its status. -/
def actOut (s : State) (st : ActSt) (x : Status) : State :=
  { s with boot := { s.boot with actSt := st, actStatus := statusNumber x } }

/-- The slot in TRIAL, if any. -/
def trialSlot (s : State) : Option Nat :=
  let e := selOr s.boot.flash
  if e.stA = 2 then some 0 else if e.stB = 2 then some 1 else none

/-- An ignored GO of GLB_FW_ACT (Table 20-8). -/
def actNo (s : State) (st : Status) : State :=
  refuseReg s .imgWrite { status := st } fun s => { s with boot := { s.boot with actStatus := statusNumber st } }

/-- GO of GLB_FW_ACT (R488 stage 1): the TRIAL slot is read again and checked; its alias key is derived. -/
def fwAct (s : State) (o : Origin) : State :=
  let s0 := regLedger s o 0x40 1 .ok
  if s.boot.imgSt = 1 || activating s || s.pwr.sleep != .awake then actNo s0 .busy
  else if s.boot.st ≠ .run then actNo s0 .badState
  else match trialSlot s with
    | none => actNo s0 .badState
    | some n =>
      match slotImg s n with
      | none => actNo s0 .badState
      | some i =>
        match imageStatus s0 i with
        | some st => refuseReg s0 (imageCode i st) { status := st } fun s => actOut s .idle st
        | none =>
          if !trackersOk s0 i then refuseReg s0 .imgVerify { status := .badField } fun s => actOut s .idle .badField
          else deriveAlias (actOut { s0 with boot := { s0.boot with switched := [] } } .load .accepted) i

/-- FW_ACT_GO (R488). -/
def execFwActGo (o : Origin) (s : State) : Res :=
  if !s.side.mainOn || !regOrigin o then .next s else .next (fwAct s o)

/-- FW_LOAD_DONE (R488 stage 2). -/
def execFwLoadDone (s : State) : Res :=
  if s.boot.actSt = .load then .next { s with boot := { s.boot with actSt := .switch } } else .next s

/-- Whether a core (0-31) or an instance (32-35) takes part in the switch. -/
def switchUnit (c : Nat) : UnitId := if c < 32 then coreUnit c else ⟨.soInst, 16 + (c - 32), 0⟩

/-- One field of the new configuration against the running one (R488 stage 4). -/
def actField (s : State) (f : Fld) (v : Nat) : State :=
  let old := fldGet s f
  if old = v then s
  else
    let a : LedgerArgs := { obj := 0, part := (fldPart f).getD 8, target := (fldPos f).off,
                            old := old, new := v }
    match fldStage f with
    | .live => ledger (fldSet s f v) .firmware a
    | .step =>
      let p := (fldPart f).getD 0
      if stepIdle s p then ledger (fldSet s f v) .firmware { a with act := 3 } else stageStep s .firmware f p v a
    | .quiesce =>
      if quietFor s (fldQuiet s f v) && (fldRange s f v).isNone then ledger (fldSet s f v) .firmware a
      else
        let s1 := ledger s .firmware { a with act := 5, status := .busy }
        { s1 with boot := { s1.boot with confPend := true } }
    | .boot => { s with boot := { s.boot with confPend := true } }

/-- Keep a BOOT difference: CONFIG_PENDING (R488 stage 4). -/
def actKeep (s : State) (differs : Bool) : State :=
  if differs then { s with boot := { s.boot with confPend := true } } else s

/-- A field of a partition that no register writes, by its class QUIESCE (R488 stage 4): `apply` where the partition is quiescent,
else kept with a REFUSED entry. -/
def actQuiesce (s : State) (p target old new : Nat) (ok : Bool) (apply : State → State) : State :=
  if old = new then s
  else
    let a : LedgerArgs := { obj := 5, part := p, target := target, old := old, new := new }
    if quiescent s p && ok then ledger (apply s) .firmware a
    else actKeep (ledger s .firmware { a with act := 5, status := .busy }) true

/-- Evict nodes until a partition's tree holds at most `n` (R319). -/
def trimTree (p n : Nat) : Nat → State → State
  | 0, s => s
  | f + 1, s =>
    if (partOf s p).nodes.length ≤ n then s
    else match evictChoice s p fun _ => true with
      | none => s
      | some nd => trimTree p n f (removeNode s p nd)

/-- Contexts 0 to `n` - 1 are defined: those that exist stay, others become READY, those above go (R361). -/
def setNctx (s : State) (p n : Nat) : State :=
  modPart s p fun q =>
    let q1 := (List.range 32).foldl (fun q c =>
      if n ≤ c then modCtx q c fun _ => Ctx.init
      else if (ctxOf q c).st == .empty then modCtx q c fun k => { k with st := .ready } else q) q
    if (ctxOf q1 q1.running).st == .empty && 0 < n then modCtx { q1 with nctx := n, running := 0 } 0 fun k => { k with st := .running }
    else { q1 with nctx := n }

/-- Whether nothing is loaded in a partition's contexts from number `n` on. -/
def ctxsFree (s : State) (p n : Nat) : Bool :=
  (s.cmp.bundles.all fun e => e.2.all fun b => !(b.part == p && decide (n ≤ b.ctx))) &&
    (s.cmp.progs.all fun g => !(g.part == p && decide (n ≤ g.ctx))) && s.cmp.adapters.all fun a => !(a.part == p && decide (n ≤ a.ctx))

/-- A region of the new configuration, taken whole where its partitions are quiescent. -/
def actRegion (s : State) (n : Nat) (r : Region) : State :=
  let old := regionOf s n
  let r := { r with withdrawn := old.withdrawn }
  if old = r then s
  else
    let a : LedgerArgs := { obj := 5, target := 0x61000 + n * 16, old := memRegion s old, new := memRegion s r }
    if quietFor s (fldQuiet s (.region n .owner) r.owner) && regionsStand (setRegion s n r) then
      ledger (setRegion (freshLens s r) n r) .firmware a
    else
      let s1 := ledger s .firmware { a with act := 5, status := .busy }
      { s1 with boot := { s1.boot with confPend := true } }

/-- A route as the ports stand now. -/
def routeNow (s : State) (r : Route) : Route :=
  let a := !(livePorts s r.primary).isEmpty
  let b := !(livePorts s r.alt).isEmpty
  { r with reachable := a || b, onAlt := !a && b }

/-- A destination's route switches to a new table's, in force for the packets that follow (R439, R488). -/
def switchRoute (s : State) (d a c v : Nat) : State :=
  { s with lnk := { s.lnk with routes := tabSet s.lnk.routes d (routeNow s { routeOf s d with primary := a, alt := c, via := v }) Route.init } }

/-- One record of the new image against the running configuration (R488 stages 3 and 4). -/
def actRec (s : State) (b : ConfBody) : State :=
  match b with
  | .envelope e t => actKeep s (s.pwr.envelope != e || s.pwr.throttleEnv != t)
  | .host m f => actKeep s (s.hif.minMode != m || s.hif.front != f)
  | .group id topo n t =>
    actKeep s (s.lnk.groupId != id || s.lnk.topo != topo || s.lnk.modules != n || s.lnk.masters.contains s.lnk.modNum != t)
  | .route d a c v => switchRoute s d a c v
  | .region n r => actRegion s n (recRegion r)
  | .partition p d n q ro so pg pm cb tn =>
    let fs : List (Fld × Nat) := [(.dies p.val, d), (.quota p.val, q), (.role p.val, roleCode ro), (.soInst p.val, so),
      (.poolPage p.val, pg), (.poolMeta p.val, pm), (.colBudget p.val, cb)]
    let x := partOf s p.val
    let s1 := fs.foldl (fun s e => actField s e.1 e.2) s
    let s2 := actQuiesce s1 p (0x40000 + p.val * 0x40) x.nctx n (ctxsFree s1 p n) fun s => setNctx s p n
    actQuiesce s2 p (0x50110 + p.val * 0x20) x.treeNodes tn true fun s =>
      trimTree p tn (partOf s p).nodes.length (modPart s p fun q => { q with treeNodes := tn })
  | .vfBind k p m r =>
    [(Fld.bindPart k.val, p.val), (.bindModule k.val, m), (.bindRemote k.val, bit r)].foldl (fun s e => actField s e.1 e.2) s
  | .roleTable p ts => actKeep s ((partOf s p.val).targets != ts)
  | .field off w v m =>
    match fldFor off w m with
    | some f => actField s f (fldNew s f off v m)
    | none => s
  | .fenceMin _ => s

/-- All cores and instances have switched: the new firmware runs, routing switches, CONFIG compares (R488). -/
def switchAll (s : State) (i : List Byte) : State :=
  let s1 := { s with boot := { s.boot with actOld := s.boot.fw, fw := some i, actSt := .config, switchAt := nowNs s } }
  (recsFor i s.lnk.modNum).foldl actRec s1

/-- CORE_BANK_SWITCH (R488 stage 3, R490): a core or instance changes bank; SWITCH waits for rebalances and repairs. -/
def execCoreBankSwitch (c : Fin 36) (s : State) : Res :=
  if s.boot.actSt ≠ .switch || !s.ras.rebal.isEmpty || !s.ras.repairs.isEmpty || s.boot.switched.contains c.val then .next s
  else
    let s1 := { s with boot := { s.boot with switched := s.boot.switched ++ [c.val], switchAt := nowNs s } }
    let all := (List.range 36).all fun u => s1.boot.switched.contains u || isFenced s1 (switchUnit u)
    match all, (trialSlot s1).bind (slotImg s1) with
    | true, some i => .next (switchAll s1 i)
    | _, _ => .next s1

/-- ACTIVATION_CONFIRM (R488 stage 5): ten seconds without a fault; the slot is VALID and ACTIVE, and the
measurements change. -/
def execActivationConfirm (s : State) : Res :=
  match s.boot.actSt, trialSlot s with
  | .config, some n =>
    if nowNs s < s.boot.switchAt + 10000000000 then .next s
    else
      let e := { selSet (selOr s.boot.flash) n 1 with active := n }
      let s1 := writeSel (actOut s .done .ok) e
      let s2 := bumpMeas { s1 with boot := { s1.boot with actOld := none, conf := s1.boot.fw, slot := n } }
      .next (ledger s2 .firmware { obj := 8, act := 3, new := (s2.boot.fw.map polVer).getD 0 })
  | _, _ => .next s

/-- Revert an activation (R489, R495): the old bank and alias key return, the slot is BAD, FW_ACT_FAIL. -/
def fwRevert (s : State) : State :=
  let s1 := match trialSlot s with
    | some n => slotTo s n 3
    | none => s
  let fw := match s.boot.actOld with
    | some i => some i
    | none => s.boot.fw
  let s2 := actOut { s1 with boot := { s1.boot with fw := fw, actOld := none } } .reverted .badState
  let s3 := bumpMeas { s2 with sec := { s2.sec with aliasNow := s2.sec.aliasOld } }
  pushErr s3 .fwActFail { status := .badState }

/-- A fault of the new firmware within 10 s of its switch reverts the activation (R489). -/
def fwFault (s : State) : State :=
  let live := s.boot.actSt == .config || (s.boot.actSt == .switch && !s.boot.switched.isEmpty)
  if live && decide (nowNs s < s.boot.switchAt + 10000000000) then fwRevert s else s

/-! ### Reboot (R492, R513) -/

/-- Whether every sensor reads below TJ_MAX − 20 °C (R513). -/
def coolEnough (s : State) : Bool := (List.range 20).all fun d => decide ((dieOf s d).tMax < (envTj s.pwr.envelope - 20) * 4)

/-- Whether REBOOT acts now: in RECOVERY once cool, otherwise only when every partition is quiescent. -/
def canReboot (s : State) : Bool :=
  if s.boot.st = .recovery then coolEnough s else (List.range 8).all (quiescent s)

/-- GLB_CTRL REBOOT: every die but the XD0 control island restarts (R492, Table 24-1). -/
def rebootNow (s : State) (o : Origin) : State :=
  if canReboot s then
    let s1 := regLedger s o 0x48 1 .ok
    let s2 := (List.range 20).foldl powerDown (keepIsland s1)
    let b := { s2.boot with st := .rom, presented := false, tried := false, applied := false, bootFrom := nowNs s,
                            fw := none, conf := none, imgSt := if s2.boot.imgSt = 1 then 3 else s2.boot.imgSt,
                            writing := none, actSt := .idle, actOld := none, switched := [], confPend := false }
    { s2 with boot := b, sec := { s2.sec with aliasReady := false },
              pwr := { s2.pwr with sleep := .awake, wakePend := none, selfWake := false, parked := [] } }
  else regLedger s o 0x48 1 .busy

/-- REBOOT (R492). -/
def execReboot (o : Origin) (s : State) : Res :=
  match o with
  | .pf0 | .relay _ => .next (if s.side.mainOn then rebootNow s o else s)
  | _ => .next s

end Sys2Proof.Machine
end

