-- ==== Sys2Proof/Machine/LnkOps.lean ====
section
/-! DEFINITION. Shared operations of Mirist: ports, credits, routes, flows, handoffs (R429 to R449, R331, R332). -/

namespace Sys2Proof.Machine

/-! ### Ports -/

/-- Change a port. -/
def modPort (s : State) (p : Nat) (f : LnkPort → LnkPort) : State :=
  { s with lnk := { s.lnk with ports := tabMod s.lnk.ports p LnkPort.init f } }

/-- The unit of a port (Table 1-3: six ports an XD die). -/
def portUnit (p : Nat) : UnitId := ⟨.port, 16 + p / 6, p⟩

/-- Size of one class of a virtual channel (Table 18-3). -/
def classSize (vc : Nat) : Nat := if vc = 0 then 32 else 160

/-- Virtual channel `v` of a port. -/
def portVc (x : LnkPort) (v : Nat) : PortVc := tabGet x.vcs v PortVc.init

/-- Change a virtual channel. -/
def modVc (x : LnkPort) (v : Nat) (f : PortVc → PortVc) : LnkPort := { x with vcs := tabMod x.vcs v PortVc.init f }

/-- Full credits on every virtual channel (R430, R444). -/
def fullCredits (x : LnkPort) : LnkPort :=
  (List.range 4).foldl (fun x v => modVc x v fun c =>
    { c with credL := classSize v, credH := classSize v, run := 0, heldL := 0, heldH := 0 }) x

/-- Whether a command of a relayed function, or what answers it, may travel on a virtual channel (Table 16-12). -/
def relayFits (b : RelayBody) (vc : Nat) : Bool :=
  match b with
  | .access .. | .reply .. | .mboxReply .. => vc == 0
  | .command x _ => vc == (x.ring.map Fin.val).getD 0
  | .completion .. => decide (vc ≤ 2)
  | .token .. => vc == 1 || vc == 2

/-- A packet of `n` flits leaves the receive buffer of a port, and its credits go back to the peer (R430). -/
def freeRx (s : State) (p vc n : Nat) (h : Bool) : State :=
  let c := portVc (portOf s p) vc
  let k := min n (if h then c.heldH else c.heldL)
  if k = 0 then s
  else emit (modPort s p fun x => modVc x vc fun c =>
    { c with heldL := if h then c.heldL else c.heldL - k, heldH := if h then c.heldH - k else c.heldH }) (.control p 3 [vc, bit h, k])

/-- Send a link control flit: it is sequenced and held for retry. Kinds: 1 IDENT, 2 NAK, 3 credit return, 4 width change, 5 FENCE. -/
def sendControl (s : State) (p kind : Nat) (body : List Nat) : State :=
  let x := portOf s p
  emit (modPort s p fun _ => { x with txSeq := (x.txSeq + 1) % 1024, retry := x.retry ++ [x.txSeq] }) (.control p kind body)

/-- The widest lane group with no dropped lane, lowest-numbered first (R441): its width. -/
def laneWidth (ok : Nat) : Nat :=
  let good (w : Nat) : Bool := (List.range (8 / w)).any fun g => (List.range w).all fun i => ok.testBit (g * w + i)
  if good 8 then 8 else if good 4 then 4 else if good 2 then 2 else if good 1 then 1 else 0

/-- First lane of the group that carries a port's flits: the lowest-numbered of its width with no dropped lane, in sleep the
lowest good lane (R425, R441). -/
def laneBase (ok w : Nat) : Nat :=
  let n := max 1 w
  (((List.range (8 / n)).find? fun g => (List.range n).all fun i => ok.testBit (g * n + i)).getD 0) * n

/-- A port begins to train: its end sends IDENT (R426). -/
def trainPort (s : State) (p : Nat) : State :=
  emit (modPort s p fun x => { x with st := .training, lanesOk := 0xFF })
    (.control p 1 [s.lnk.modNum, p, s.lnk.groupId, s.lnk.topo])

/-! ### Who uses a port or a path -/

/-- Whether a destination's traffic may take a port. -/
def usesPort (s : State) (d p : Nat) : Bool := (routeOf s d).primary.testBit p || (routeOf s d).alt.testBit p

/-- The partition an operation of a flow belongs to. -/
def opPart (s : State) (op : FlowOp) : Option Nat :=
  match op with
  | .send t _ => partOfTile s t
  | .handoff n => some (slotOf s n).part
  | .page p _ | .serve p _ | .spill p _ _ => some p
  | .weight _ | .relay | .reply => none

/-- Whether a resident bundle of a partition places an expert on a module that satisfies a test (R305). -/
def remoteExpert (s : State) (p : Nat) (f : Nat → Bool) : Bool :=
  let there (k : Nat) : Bool := decide (1024 ≤ k) && f (k - 1024)
  (s.cmp.bundles.filterMap Prod.snd).any fun b => b.valid && b.part == p &&
    b.img.params.moe.any fun m => m.place.any fun e => there e.1 || e.2.any there

/-- Partitions with a handoff, copy, relay or remote expert to a module that satisfies a test. -/
def pathParts (s : State) (f : Nat → Bool) : List Nat :=
  (livePartitions s).filter fun p =>
    (partOf s p).targets.any (fun t => f t.1) || s.lnk.tx.any (fun x => f x.dst && opPart s x.op == some p) ||
      (slotsOf s p).any (fun n => (frontOf (slotOf s n)).any f) || remoteExpert s p f

/-- Partitions whose booked traffic crosses a port. -/
def portParts (s : State) (p : Nat) : List Nat := pathParts s fun d => usesPort s d p

/-! ### Flows (R435 to R437) -/

/-- The ports a packet to `d` on a virtual channel may take now: a port in sleep carries only VC0 (R439, R447). -/
def pathPorts (s : State) (d vc : Nat) : List Nat :=
  if vc = 0 then livePorts s (pathSet s d) else upPorts s (pathSet s d)

/-- Take credits for `n` flits of class L or H, count the packet, hold the flits for retry. -/
def portSend (s : State) (p vc n : Nat) (h : Bool) : State :=
  modPort s p fun x =>
    let x1 := modVc x vc fun c =>
      { c with pkts := satAdd 32 c.pkts 1, credL := if h then c.credL else c.credL - n, credH := if h then c.credH - n else c.credH }
    { x1 with txSeq := (x.txSeq + n) % 1024, retry := x.retry ++ (List.range n).map fun i => (x.txSeq + i) % 1024 }

/-- Whether a port can take a packet: its class has the credits, and STOP does not hold new data packets (R432). -/
def portTakes (s : State) (p vc n : Nat) (h : Bool) : Bool :=
  let c := portVc (portOf s p) vc
  decide (n ≤ if h then c.credH else c.credL) && (vc == 0 || !(portOf s p).stopRx)

/-- Whether a packet from module `src` takes class H on a port (R438): in a mesh on its second hop; in a torus on the
wrap link of the port's dimension and after it in that dimension. -/
def hopH (s : State) (src p : Nat) : Bool :=
  if s.lnk.topo = 2 then
    let k := p / 8
    let a := torusCoord src k
    let b := torusCoord s.lnk.modNum k
    let c := torusCoord (portOf s p).peerMod k
    if p % 8 < 4 then decide (c < b) || decide (b < a) else decide (b < c) || decide (a < b)
  else src != s.lnk.modNum

/-- The module holds a data packet whose path sleeps: one WAKE message on VC0 (R447, R517). -/
def askWake (s : State) (d : Nat) : State :=
  match livePorts s (pathSet s d), upPorts s (pathSet s d) with
  | p :: _, [] =>
    if (portOf s p).wakeSent then s
    else emit (modPort (portSend s p 0 1 (hopH s s.lnk.modNum p)) p fun x => { x with wakeSent := true })
      (.packet p (portOf s p).peerMod 0 Sys2Proof.Config.wakeKind [])
  | _, _ => s

/-- Transmit one packet of a flow if some port of its path can take it; to this module itself at once. -/
def sendPkt (s : State) (f : TxFlow) (k : TxPkt) : State × TxPkt :=
  if f.dst = s.lnk.modNum then (emit s (.packet 24 f.dst f.vc f.kind [f.flow, k.pseq]), { k with sentAt := some (nowNs s), port := 24 })
  else match (pathPorts s f.dst f.vc).find? fun p => portTakes s p f.vc k.flits (hopH s s.lnk.modNum p) with
    | some p =>
      (emit (portSend s p f.vc k.flits (hopH s s.lnk.modNum p)) (.packet p f.dst f.vc f.kind [f.flow, k.pseq]), { k with sentAt := some (nowNs s), port := p })
    | none => (if f.vc = 0 then s else askWake s f.dst, k)

/-- Transmit what waits of one flow. -/
def pumpFlow (s : State) (f : TxFlow) : State × TxFlow :=
  let r := f.pkts.foldl (fun (acc : State × List TxPkt) k =>
    if k.sentAt.isSome then (acc.1, acc.2 ++ [k])
    else let y := sendPkt acc.1 f k
      (y.1, acc.2 ++ [y.2])) (s, [])
  (r.1, { f with pkts := r.2 })

/-- Pass one packet of another module on, or keep it waiting here (R439). -/
def passOn (s : State) (k : Transit) : State :=
  let src := k.hdr.smod
  let vc := k.hdr.vc.val
  match (pathPorts s k.hdr.dmod vc).find? fun p => portTakes s p vc k.flits (hopH s src p) with
  | some p =>
    freeRx (emit (portSend s p vc k.flits (hopH s src p)) (.packet p k.hdr.dmod vc k.kind [k.hdr.flow, k.hdr.pseq]))
      k.hdr.port vc k.flits k.hdr.clsH
  | none =>
    let s1 := { s with lnk := { s.lnk with transit := s.lnk.transit ++ [k] } }
    if vc = 0 then s1 else askWake s1 k.hdr.dmod

/-- Discard the packets passing through that a test picks; their room goes back to the peers they came from (R430). -/
def dropTransit (s : State) (f : Transit → Bool) : State :=
  (s.lnk.transit.filter f).foldl (fun s k => freeRx s k.hdr.port k.hdr.vc.val k.flits k.hdr.clsH)
    { s with lnk := { s.lnk with transit := s.lnk.transit.filter fun k => !f k } }

/-- Transmit every packet that waits: those passing through, then each flow's in flow order. -/
def pumpFlows (s0 : State) : State :=
  let s := s0.lnk.transit.foldl passOn { s0 with lnk := { s0.lnk with transit := [] } }
  let r := s.lnk.tx.foldl (fun (acc : State × List TxFlow) f =>
    let y := pumpFlow acc.1 f
    (y.1, acc.2 ++ [y.2])) (s, [])
  { r.1 with lnk := { r.1.lnk with tx := r.2 } }

/-- Flits of a packet that carries `n` data bytes (R433). -/
def flitsOf (n : Nat) : Nat := ceilDiv (n + 32) 244

/-- The packets of a message of `n` bytes. -/
def packetsOf (n : Nat) : List TxPkt :=
  (List.range (max 1 (ceilDiv n 3872))).map fun i => ⟨i, flitsOf (min 3872 (n - i * 3872)), none, 0, 24⟩

/-- Begin a flow. -/
def newFlow (s : State) (dst vc kind bytes : Nat) (op : FlowOp) : State :=
  let f : TxFlow := ⟨s.lnk.nextFlow, dst, vc, kind, op, packetsOf bytes⟩
  pumpFlows { s with lnk := { s.lnk with tx := s.lnk.tx ++ [f], nextFlow := s.lnk.nextFlow + 1 } }

/-- A one-flit message on VC0 (Table 18-3): it takes the first port of its path that is up. -/
def sendVc0 (s : State) (d kind : Nat) (body : List Nat) : State :=
  match pathPorts s d 0 with
  | p :: _ => emit (portSend s p 0 1 (hopH s s.lnk.modNum p)) (.packet p d 0 kind body)
  | [] => s

/-- Remove an instruction in flight from a tile's queue and scoreboard. -/
def dropInfl (s : State) (t tag : Nat) : State :=
  modTile s t fun x => { x with inflight := x.inflight.filter fun i => i.tag != tag }

/-! ### Handoffs (R331, R332) -/

/-- Bytes of a handoff's pages: metadata, stored blocks and length bytes, or where they go decoded whole pages (R333, R436). -/
def handoffBytes (s : State) (n : Nat) (raw : Bool) : Nat :=
  let x := slotOf s n
  let q := partOf s x.part
  ((x.sets.flatten.filter (· != noPage)).map fun k =>
    if raw then q.poolMeta * 2048 + q.poolPage * 4096 else swapBytes s x.part (slotHeads s n) k - 20).sum

/-- The targets a slot may still try: permitted, no CACHE partition, reachable, not tried. -/
def handoffTargets (s : State) (n : Nat) : List (Nat × Nat) :=
  let x := slotOf s n
  (partOf s x.part).targets.filter fun t => !isCache s t && canReach s t.1 && !x.tried.contains t

/-- Offer a slot to a target: its tracker goes first, since the receiver checks it before any page is sent (R332, R333). -/
def handoffTo (s : State) (n : Nat) (t : Nat × Nat) : State :=
  let s1 := modSlot s n fun x => { x with target := some t, tried := x.tried ++ [t], retryAt := none }
  newFlow s1 t.1 3 3 64 (.handoff n)

/-- Send the pages of a slot whose tracker its target has checked, in stored form or decoded (R333). -/
def handoffPages (s : State) (n : Nat) (raw : Bool) : State :=
  match (slotOf s n).target with
  | some t => newFlow s t.1 3 3 (handoffBytes s n raw) (.handoff n)
  | none => s

/-- Free pages of a target partition: its pools' on this module; another module's are not known here (log 18), so they are a
free value. -/
def targetFree (s : State) (t : Nat × Nat) (k : Nat) : Nat :=
  if t.1 = s.lnk.modNum then ((poolsOf s t.2).map (poolFree s t.2)).sum else Sys2Proof.Config.freePick k

/-- The target with the most free pages, ties to the lower module number, then the lower partition (R331). -/
def mostFree (s : State) (ts : List (Nat × Nat)) : Option (Nat × Nat) :=
  (((ts.zipIdx).map fun e => (targetFree s e.1 (s.free + e.2), e.1)).mergeSort fun a b =>
    decide (b.1 < a.1) || (a.1 == b.1 && (decide (a.2.1 < b.2.1) || (a.2.1 == b.2.1 && decide (a.2.2 ≤ b.2.2))))).head?.map Prod.snd

/-- Let a slot in HANDOFF wait 10 ms (R332). -/
def handoffWait (s : State) (n : Nat) : State := modSlot s n fun x => { x with retryAt := some (nowNs s + 10000000), tried := [] }

/-- Offer a slot in HANDOFF (R331, R332): an LC request to the target its reservation names, a BE request to the permitted one
with the most free pages; where none is left it waits 10 ms. -/
def handoffTry (s : State) (n : Nat) : State :=
  let x := slotOf s n
  let ts := handoffTargets s n
  match isLc x, x.target with
  | true, some t => if ts.contains t then handoffTo s n t else handoffWait s n
  | _, _ =>
    match mostFree s ts with
    | some t => handoffTo { s with free := s.free + ts.length } n t
    | none => handoffWait s n

/-! ### Copies from a CACHE partition (R334, R356) -/

/-- Whether a slot waits for the pages of the block whose chain hash is `h`, and which block it is. -/
def awaitsBlock (x : Slot) (h : Nat) : Option Nat :=
  (List.range x.sets.length).find? fun i => (x.sets.getD i []).contains noPage && x.st != .preempted && leNat (chainHash x i) == h

/-- A copy does not come: the block and those after it are unmatched for the slots that wait for it, which prefill them, counted
where the CACHE module is unreachable. -/
def copyFails (s : State) (p h : Nat) (count : Bool) : State :=
  (slotsOf s p).foldl (fun s n =>
    let x := slotOf s n
    match awaitsBlock x h with
    | none => s
    | some i =>
      let gone := (x.sets.drop i).flatten.filter (· != noPage)
      let s1 := modPart s p fun q => gone.foldl dropRef q
      modSlot s1 n fun x => { x with sets := x.sets.take i, filled := min x.filled (i * 64),
                                     matched := min x.matched i, skipped := x.skipped + (if count then 1 else 0) }) s

/-- Remove the node that names a remote set the CACHE module no longer holds (R356). -/
def dropRemote (s : State) (p h : Nat) : State :=
  modPart s p fun q => { q with nodes := q.nodes.filter fun nd => !(nd.hash == h && nd.remote.isSome) }

/-! ### The end of a flow (R435, R437) -/

/-- The node of a set whose pages are on their way to a CACHE partition (R356). -/
def spillNode (s : State) (p h : Nat) : Option PNode := (partOf s p).nodes.find? fun nd => nd.hash == h && isSpilling nd

/-- A spill has arrived whole: the node stays and names the remote set, its pages go (R356). -/
def spillDone (s : State) (p h : Nat) : State :=
  match spillNode s p h with
  | none => s
  | some nd => modPart s p fun q =>
      let up (m : PNode) : PNode := if m == nd then { m with pages := [] } else m
      untree (nd.pages.foldl dropRef { q with nodes := q.nodes.map up }) nd.pages

/-- A spill does not arrive: its node is evicted. -/
def spillFails (s : State) (p h : Nat) : State :=
  match spillNode s p h with
  | none => s
  | some nd => removeNode s p nd

/-- A CACHE partition's copy ends: the references it held on the set's pages go (R356). -/
def serveEnd (s : State) (p h : Nat) : State :=
  match (partOf s p).nodes.find? fun nd => nd.hash == h with
  | some nd => modPart s p fun q => nd.pages.foldl dropRef q
  | none => s

/-- End the operation of a flow that failed. -/
def opFailed (s : State) (op : FlowOp) : State :=
  match op with
  | .send t tag =>
    match partOfTile s t with
    | some p => abandonStep (dropInfl s t tag) p (fenceAbandon 0x21)
    | none => dropInfl s t tag
  | .handoff n => if (slotOf s n).st == .handoff then handoffTry s n else s
  | .page p h => copyFails s p h true
  | .serve p h => serveEnd s p h
  | .spill p h _ => spillFails s p h
  | .weight _ | .relay | .reply => s

/-- A flow fails: its record, then its operation's end (R435). -/
def flowFail (s : State) (flow : Nat) : State :=
  match s.lnk.tx.find? fun f => f.flow == flow with
  | none => s
  | some f =>
    let s1 := { s with lnk := { s.lnk with tx := s.lnk.tx.filter fun g => g.flow != flow } }
    opFailed (pushErr s1 .lnkFlowFail { part := (opPart s f.op).getD 8, detail := [f.dst, f.flow, f.kind] }) f.op

/-! ### Routes (R439, R440) -/

/-- No in-service path reaches a module: its flows fail, and what passes through to it is discarded (R440). -/
def lostModule (s : State) (d : Nat) : State :=
  let s1 := dropTransit s fun k => k.hdr.dmod == d
  ((s1.lnk.tx.filter fun f => f.dst == d).map TxFlow.flow).foldl flowFail s1

/-- A set's last port is lost or a module unreachable: ROUTE notices, LNK_REROUTE, event 0x0021, flows ended (R440). -/
def rerouted (s : State) (d : Nat) : State :=
  let r := routeOf s d
  let s1 := pushErr s .lnkReroute { event := 0x21, detail := [d, bit r.reachable, bit r.onAlt] }
  let s2 := (List.range 64).foldl (fun s m =>
    if m != s.lnk.modNum && (routeOf s m).reachable then sendVc0 s m 0x14 [d, bit r.reachable] else s) s1
  let ps := pathParts s2 (· == d)
  let s3 := if ps.isEmpty then s2 else declareEvent s2 0x21 ps
  if r.reachable then s3 else lostModule s3 d

/-- Bring one route to the ports as they stand. -/
def refreshRoute (s : State) (d : Nat) : State :=
  let r := routeOf s d
  let n := routeNow s r
  if n = r then s
  else
    let s1 := { s with lnk := { s.lnk with routes := tabSet s.lnk.routes d n Route.init } }
    if (r.reachable && !n.reachable) || (!r.onAlt && n.onAlt && r.reachable) then rerouted s1 d else s1

/-- Bring every route to the ports as they stand, then send what waits. -/
def refreshRoutes (s : State) : State := pumpFlows ((List.range 64).foldl refreshRoute s)

/-! ### Ports leaving and entering service (R442 to R444) -/

/-- Take a port out of service: what it has not had acknowledged waits for another port (R442). -/
def portOut (s : State) (p : Nat) (st : PortSt) : State :=
  let s1 := modPort s p fun x => { x with st := st, width := 0, retry := [], stopRx := false, stopTx := false, wakeSent := false }
  let tx := s1.lnk.tx.map fun f =>
    { f with pkts := f.pkts.map fun k => if k.port = p then { k with sentAt := none, port := 24 } else k }
  refreshRoutes { s1 with lnk := { s1.lnk with tx := tx } }

/-- A port over its count: FENCE to the peer, then the transmitter is off (R443). -/
def portFenced (s : State) (p : Nat) : State :=
  let s1 := if (portOf s p).st == .up || (portOf s p).st == .sleep then sendControl s p 5 [] else s
  let ps := portParts s1 p
  let s2 := portOut s1 p .fenced
  if ps.isEmpty then s2 else declareEvent s2 0x21 ps

/-- Count an event against a port, and fence it when the count is over (R443, R457). -/
def countPort (s : State) (p : Nat) (rec' : State → State) : State :=
  let s1 := countFault s (portUnit p) rec'
  if isFenced s1 (portUnit p) && (portOf s1 p).st != .fenced then portFenced s1 p else s1

/-- A port goes down (R442). -/
def portDown (s : State) (p : Nat) : State :=
  let s1 := portOut (modPort s p fun x => { x with downs := satAdd 16 x.downs 1 }) p .down
  countPort s1 p fun s => pushErr s .lnkDown { unit := portUnit p, detail := [p] }

/-- The number of a protocol case (Table 18-6). -/
def caseNum : ProtoCase → Nat
  | .credit => 0 | .seqWindow => 1 | .header => 2 | .length => 3 | .kindVc => 4 | .stopHeld => 5

/-- Reset a port's link layer: partial packets gone, credits full, the retry buffer replayed (R444). -/
def linkReset (s : State) (p : Nat) (why : ProtoCase) : State :=
  let x := portOf s p
  if x.st != .up && x.st != .sleep then s
  else
    let again := match x.lastReset with
      | some t => decide (nowNs s < t + 1000000000)
      | none => false
    let y := fullCredits { x with llResets := satAdd 16 x.llResets 1, retries := satAdd 32 x.retries 1,
                                  lastReset := some (nowNs s), stopRx := false }
    let s1 := modPort s p fun _ => y
    let s2 := countPort s1 p fun s => pushErr s .lnkProto { unit := portUnit p, detail := [p, caseNum why] }
    let ps := portParts s2 p
    let s3 := if again && !ps.isEmpty then declareEvent s2 0x21 ps else s2
    pumpFlows s3

/-- A port in service changes its width: LNK_WIDTH, and event 0x0021 for the partitions whose LC traffic it carries (R441). -/
def setWidth (s : State) (p w : Nat) : State :=
  let s1 := pushErr (modPort s p fun x => { x with width := w }) .lnkWidth { unit := portUnit p, detail := [p, w] }
  let ps := (portParts s1 p).filter fun q => !(lcSlots s1 q).isEmpty
  if ps.isEmpty then s1 else declareEvent s1 0x21 ps

/-- Drop a lane: the port narrows, or goes down with its last lane (R441, R442). -/
def dropLane (s : State) (p lane : Nat) : State :=
  let x := portOf s p
  if !x.lanesOk.testBit lane || (x.st != .up && x.st != .sleep) then s
  else
    let ok := x.lanesOk - 2 ^ lane
    let w := laneWidth ok
    let s1 := modPort s p fun x => { x with lanesOk := ok }
    if w = 0 then portDown s1 p
    else if w = x.width || x.st == .sleep then s1
    else setWidth (sendControl s1 p 4 [w]) p w

/-- A replay: counted, and more than 64 in 1 ms drop the lane with the most corrected symbols (R429, R441). -/
def replay (s : State) (p : Nat) : State :=
  let x := portOf s p
  let b := (x.burst.filter fun t => decide (nowNs s < t + 1000000)) ++ [nowNs s]
  let s1 := modPort s p fun x => { x with retries := satAdd 32 x.retries 1, burst := b }
  if b.length ≤ 64 then s1
  else
    let worst := (List.range 8).foldl (fun a l =>
      if x.lanesOk.testBit l && (!x.lanesOk.testBit a || decide (tabGet x.laneCe a 0 < tabGet x.laneCe l 0)) then l else a) 0
    dropLane (modPort s1 p fun x => { x with burst := [] }) p worst

end Sys2Proof.Machine
end

