-- ==== Sys2Proof/Machine/Ports.lean ====
section
/-! DEFINITION. Link-level commands of Mirist: flits, IDENT, FENCE, lanes, port states, flows' timers, time (ch. 18). -/

namespace Sys2Proof.Machine

/-- Whether a port carries flits. -/
def portLive (s : State) (p : Nat) : Bool := (portOf s p).st == .up || (portOf s p).st == .sleep

/-- Take the peer's ACKSEQ: what it covers leaves the retry buffer; none when it lies outside the window (R429). -/
def takeAck (x : LnkPort) (ack : Nat) : Option LnkPort :=
  if x.retry.contains ack then
    some { x with retry := (x.retry.dropWhile (· != ack)).drop 1 }
  else if (ack + 1) % 1024 = (x.retry.head?.getD x.txSeq) then some x
  else none

/-- Take returned credits; none when a class would exceed its size (R430, Table 18-6). -/
def takeCredits (x : LnkPort) (vc : Nat) (h : Bool) (n : Nat) : Option LnkPort :=
  let c := portVc x vc
  let v := (if h then c.credH else c.credL) + n
  if classSize vc < v then none
  else some (modVc x vc fun c => if h then { c with credH := v } else { c with credL := v })

/-- Count corrected symbols of a flit, each on the lane of its number modulo the width (R428, R441). -/
def takeErrors (now : Nat) (x : LnkPort) (f : Flit) : LnkPort :=
  let fresh := decide (x.ceFrom + 1000000 ≤ now)
  let base := if fresh then [] else x.laneCe
  let ce := f.errs.foldl (fun t i => tabMod t (laneBase x.lanesOk x.width + i % max 1 x.width) 0 (· + 1)) base
  { x with ceSymbols := satAdd 32 x.ceSymbols f.errs.length, laneCe := ce, ceFrom := if fresh then now else x.ceFrom }

/-- Discard a flit and NAK the expected SEQ (R429). -/
def nakFlit (s : State) (p : Nat) : State := sendControl s p 2 [(portOf s p).rxSeq]

/-- Bring a port back to the widest group of its lanes. -/
def portAwake (x : LnkPort) : LnkPort :=
  if x.st == .sleep then { x with st := .up, width := laneWidth x.lanesOk, wakeSent := false } else x

/-- A link control flit acts (R427): bulk credits, the peer's width change, which ends a sleep, or its sleep entry. -/
def takeControl (s : State) (p : Nat) (c : LinkCtl) : State :=
  match c with
  | .ident | .nak | .fence => s
  | .credits vc h n =>
    match takeCredits (portOf s p) vc h n with
    | some x => pumpFlows (modPort s p fun _ => x)
    | none => linkReset s p .credit
  | .width w =>
    if !([1, 2, 4, 8].contains w) then linkReset s p .header
    else if (portOf s p).st == .sleep then pumpFlows (modPort (modPort s p portAwake) p fun x => { x with width := min w x.width })
    else if (portOf s p).width = w then s
    else setWidth s p w
  | .sleepEntry => modPort s p fun x => { x with st := .sleep, width := 0, wakeSent := false }
  | .unknown => linkReset s p .header

/-- A data flit comes into the receive buffer; one beyond its class's space is the partner's violation (R430, R431). -/
def bufferFlit (s : State) (p : Nat) (f : Flit) : Option State :=
  let c := portVc (portOf s p) f.vc.val
  if classSize f.vc.val ≤ (if f.clsH then c.heldH else c.heldL) then none
  else some (modPort s p fun x => modVc x f.vc.val fun c =>
    { c with heldL := if f.clsH then c.heldL else c.heldL + 1, heldH := if f.clsH then c.heldH + 1 else c.heldH })

/-- Take a sequenced flit that arrived in order: a control flit acts, the packet under way on its VC grows or ends (R430,
R433). -/
def takeFlit (s : State) (p : Nat) (f : Flit) : State :=
  let s0 := modPort s p fun x => { x with rxSeq := (x.rxSeq + 1) % 1024 }
  if f.fkind ≠ 0 then takeControl s0 p f.ctl
  else match bufferFlit s0 p f with
  | none => linkReset s0 p .credit
  | some s1 =>
    let run := (portVc (portOf s1 p) f.vc.val).run + 1
    if f.vc.val = 0 ∧ (2 ≤ run ∨ !f.last) then linkReset s1 p .length
    else if 16 < run ∨ (run = 16 ∧ !f.last) then linkReset s1 p .length
    else modPort s1 p fun x => modVc x f.vc.val fun c => { c with run := if f.last then 0 else run }

/-- The checks of a received flit in order: errors, FKIND, STOP, ACKSEQ, credits, SEQ. -/
def flitIn (s : State) (p : Nat) (f : Flit) : State :=
  if 4 ≤ f.errs.length then nakFlit s p
  else
    let s1 := modPort s p fun x => { takeErrors (nowNs s) x f with stopRx := f.stop }
    if f.fkind = 3 then linkReset s1 p .header
    else match takeAck (portOf s1 p) f.ackSeq with
      | none => linkReset s1 p .seqWindow
      | some x =>
        match takeCredits x f.crVc.val f.crH f.crN with
        | none => linkReset s1 p .credit
        | some y =>
          let s2 := pumpFlows (modPort s1 p fun _ => y)
          let ahead := (f.seq + 1024 - y.rxSeq) % 1024
          if f.fkind = 2 then s2
          else if ahead = 0 then takeFlit s2 p f
          else if ahead < 512 then nakFlit s2 p
          else linkReset s2 p .seqWindow

/-- FLIT_RECEIVE (R427 to R432). -/
def execFlitReceive (p : Fin 24) (f : Flit) (s : State) : Res :=
  if portLive s p.val then .next (flitIn s p.val f) else .next s

/-- NAK_RECEIVE (R429): replay from the named SEQ; one not held is a protocol error. -/
def execNakReceive (p : Fin 24) (seq : Nat) (s : State) : Res :=
  if !portLive s p.val then .next s
  else
    let x := portOf s p.val
    if x.retry.contains seq then
      .next (replay (modPort s p.val fun x => { x with retry := x.retry.dropWhile (· != seq) }) p.val)
    else if seq = x.txSeq then .next (replay (modPort s p.val fun x => { x with retry := [] }) p.val)
    else .next (linkReset s p.val .seqWindow)

/-- Whether the image's table expects module `d` and its port on port `p` (R426, R438). -/
def peerOk (s : State) (p d port : Nat) : Bool :=
  let m := s.lnk.modNum
  let listed := d != m && (routeOf s d).primary.testBit p
  if s.lnk.topo = 1 then listed
  else if s.lnk.topo = 2 then
    let k := p / 8
    let a := torusCoord m k
    let b := torusCoord d k
    let n := torusExtent s k
    let same := (List.range 3).all fun i => i == k || torusCoord m i == torusCoord d i
    let step := if p % 8 < 4 then b == (a + 1) % n else a == (b + 1) % n
    listed && same && step && port == (if p % 8 < 4 then p + 4 else p - 4)
  else false

/-- IDENT_RECEIVE (R426): equal to what the image expects, the port is UP; different, it is held in MISWIRE. -/
def execIdentReceive (p : Fin 24) (module peerPort group topo : Nat) (s : State) : Res :=
  if (portOf s p.val).st ≠ .training then .next s
  else
    let ok := peerOk s p.val module peerPort && group == s.lnk.groupId && topo == s.lnk.topo
    if ok then
      let s1 := modPort s p.val fun x =>
        let lanes := if x.lanesOk = 0 then 0xFF else x.lanesOk
        fullCredits { x with st := if s.pwr.sleep == .asleep then .sleep else .up, lanesOk := lanes,
                             width := if s.pwr.sleep == .asleep then 0 else laneWidth lanes, peerMod := module,
                             peerPort := peerPort, txSeq := 0, rxSeq := 0, retry := [], burst := [] }
      let s2 := refreshRoutes s1
      .next (if (s2.lnk.masters.find? (canReach s2)).any (· < s2.lnk.master) then pickMaster s2 else s2)
    else
      let s1 := modPort s p.val fun x => { x with st := .miswire, peerMod := module, peerPort := peerPort }
      .next (pushErr s1 .lnkMiswire { unit := portUnit p.val, detail := [p.val, module, peerPort] })

/-- FENCE_RECEIVE (R443): the port is FENCED by its partner; nothing counts against it. -/
def execFenceReceive (p : Fin 24) (s : State) : Res :=
  if portLive s p.val then .next (portOut s p.val .fencedByPeer) else .next s

/-- ACK_RECEIVE (R435): cumulative; an emptied flow is done. -/
def execAckReceive (flow pseq : Nat) (s : State) : Res :=
  let tx := s.lnk.tx.map fun f => if f.flow = flow then { f with pkts := f.pkts.filter fun k => decide (pseq < k.pseq) } else f
  let s1 := { s with lnk := { s.lnk with tx := tx.filter fun f => !f.pkts.isEmpty } }
  .next ((tx.filter fun f => f.pkts.isEmpty).foldl (fun s f => match f.op with
    | .serve p h => serveEnd s p h
    | .spill p h true => spillDone s p h
    | _ => s) s1)

/-- Acknowledge a flow to its source on VC0 (R435). -/
def sendAck (s : State) (smod flow : Nat) : State :=
  match s.lnk.rx.find? fun r => r.smod == smod && r.flow == flow with
  | none => s
  | some r =>
    let rx := s.lnk.rx.map fun q => if q = r then { q with unacked := 0 } else q
    sendVc0 { s with lnk := { s.lnk with rx := rx } } smod 0x10 [flow, r.next - 1]

/-- ACK_TIMER (R435): 5 µs after the oldest unacknowledged delivery. -/
def execAckTimer (smod flow : Nat) (s : State) : Res :=
  let due := s.lnk.rx.any fun r => r.smod == smod && r.flow == flow && r.unacked != 0 && decide (r.since + 5000 ≤ nowNs s)
  .next (if due then sendAck s smod flow else s)

/-- RESEND_TIMER (R435): unacknowledged for 100 µs a packet is sent again; after its third resend the flow fails. -/
def execResendTimer (flow pseq : Nat) (s : State) : Res :=
  match (s.lnk.tx.find? fun f => f.flow == flow).bind fun f => f.pkts.find? fun k => k.pseq == pseq with
  | none => .next s
  | some k =>
    let due := match k.sentAt with
      | some t => decide (t + 100000 ≤ nowNs s)
      | none => false
    if !due then .next s
    else if 3 ≤ k.tries then .next (flowFail s flow)
    else
      let tx := s.lnk.tx.map fun f => if f.flow = flow then
        { f with pkts := f.pkts.map fun j => if j.pseq = pseq then { j with sentAt := none, tries := j.tries + 1 } else j } else f
      .next (pumpFlows { s with lnk := { s.lnk with tx := tx } })

/-- A source stops a handoff that was arriving: what it holds here is freed (R329). -/
def dropArriving (s : State) (flow : Nat) : State :=
  (s.slots.filter fun e => e.2.st == .admitting && (e.2.target.map Prod.snd) == some flow).foldl (fun s e =>
    setSlot (releasePages s e.1) e.1 { Slot.init with admits := e.2.admits }) s

/-- QUENCH_RECEIVE (R437): the flow stops, its packets go, and its operation ends by the reason. -/
def execQuenchReceive (flow : Nat) (why : Quench) (s : State) : Res :=
  match s.lnk.tx.find? fun f => f.flow == flow with
  | none => .next (if why = .cancelled then dropArriving s flow else s)
  | some f =>
    let s1 := { s with lnk := { s.lnk with tx := s.lnk.tx.filter fun g => g.flow != flow } }
    match f.op, why with
    | .send t tag, .refused => .next (moveFault (dropInfl s1 t tag) t .badRange)
    | .send t tag, _ => .next (dropInfl s1 t tag)
    | .handoff n, .cancelled => .next (modSlot s1 n fun x => { x with retryAt := none })
    | .handoff n, _ => .next (if (slotOf s1 n).st == .handoff then handoffTry s1 n else s1)
    | .serve p h, _ => .next (serveEnd s1 p h)
    | .spill p h _, _ => .next (spillFails s1 p h)
    | .page p h, _ => .next (copyFails (dropRemote s1 p h) p h false)
    | _, _ => .next s1

/-- ROUTE_RECEIVE (R440): reachability of a module. -/
def execRouteReceive (dst : Fin 64) (reachable : Bool) (s : State) : Res :=
  let r := routeOf s dst.val
  let ok := reachable && (routeNow s r).reachable
  if dst.val = s.lnk.modNum || r.reachable = ok then .next s
  else
    let s1 := { s with lnk := { s.lnk with routes := tabSet s.lnk.routes dst.val { r with reachable := ok } Route.init } }
    if ok then .next (pumpFlows s1)
    else
      let ps := pathParts s1 (· == dst.val)
      let s2 := if ps.isEmpty then s1 else declareEvent s1 0x21 ps
      .next (lostModule s2 dst.val)

/-- WAKE_MESSAGE (R517). -/
def execWakeMessage (peer : Fin 64) (s : State) : Res := .next (wakeUp s (.group peer))

/-- LANE_ERROR_WINDOW (R441): above 10⁻⁵ corrected symbols over 10 ms the lane is dropped. -/
def execLaneErrorWindow (p : Fin 24) (lane : Fin 8) (corrected symbols : Nat) (s : State) : Res :=
  .next (if symbols < corrected * 100000 then dropLane s p.val lane.val else s)

/-- LANE_DROP (R441). -/
def execLaneDrop (p : Fin 24) (lane : Fin 8) (s : State) : Res := .next (dropLane s p.val lane.val)

/-- PORT_DOWN (R442). -/
def execPortDown (p : Fin 24) (s : State) : Res :=
  match (portOf s p.val).st with
  | .up | .sleep | .training => .next (portDown s p.val)
  | _ => .next s

/-- RETRAIN_ATTEMPT (R442): once a second a down port tries; a trained PHY exchanges IDENT next. -/
def execRetrainAttempt (p : Fin 24) (trained : Bool) (s : State) : Res :=
  if (portOf s p.val).st = .down ∧ trained ∧ s.boot.applied then
    .next (trainPort s p.val)
  else .next s

/-- A RETRAIN write (R441, Table 18-10): ignored on a FENCED port; otherwise the port leaves service and trains. -/
def retrainPort (s : State) (o : Origin) (p : Nat) : State :=
  let off := 0x80008 + p * 0x400
  match (portOf s p).st with
  | .fenced | .fencedByPeer => ledger s o { obj := 0, act := 1, width := 4, target := off, new := 1 }
  | st =>
    let s1 := ledger s o { obj := 0, width := 4, target := off, new := 1 }
    trainPort (if st == .up || st == .sleep then portOut s1 p .training else s1) p

/-- LNK_RETRAIN_WRITE (R451). -/
def execLnkRetrainWrite (o : Origin) (p : Fin 24) (s : State) : Res :=
  match o with
  | .pf0 | .relay _ => .next (if s.side.mainOn && s.boot.st == .run then retrainPort s o p.val else s)
  | _ => .next s

/-- LINK_LAYER_RESET (R444, Table 18-6). -/
def execLinkLayerReset (p : Fin 24) (why : ProtoCase) (s : State) : Res := .next (linkReset s p.val why)

/-- STOP_TIMEOUT (R432): STOP held for more than 100 µs is a protocol error. -/
def execStopTimeout (p : Fin 24) (s : State) : Res :=
  .next (if (portOf s p.val).stopRx then linkReset s p.val .stopHeld else s)

/-- Whether a data packet to `d` is held because no port of its path is awake (R447). -/
def sleepHeld (s : State) (d vc : Nat) : Bool := vc != 0 && (pathPorts s d vc).isEmpty

/-- SLEEP_PACKET_TIMEOUT (R447): the flow of a packet held for 10 ms fails; one passing through is discarded here, and its flow
fails at its source (R435). -/
def execSleepPacketTimeout (flow : Nat) (s : State) : Res :=
  let s1 := dropTransit s fun k => k.hdr.flow == flow && sleepHeld s k.hdr.dmod k.hdr.vc.val
  let held := s1.lnk.tx.any fun f => f.flow == flow && (f.pkts.any fun k => k.sentAt.isNone) && sleepHeld s f.dst f.vc
  .next (if held then flowFail s1 flow else s1)

/-! ### Group time (R448, R449) -/

/-- The lowest port up to each neighbour. -/
def neighbourPorts (s : State) : List Nat :=
  (List.range 24).filter fun p => portLive s p &&
    !((List.range p).any fun q => portLive s q && (portOf s q).peerMod == (portOf s p).peerMod)

/-- TIME_EXCHANGE (R448): a TIME packet to each neighbour over one port. -/
def execTimeExchange (s : State) : Res :=
  .next ((neighbourPorts s).foldl (fun s p =>
    emit (portSend s p 0 1 false) (.packet p (portOf s p).peerMod 0 0x13 [nowNs s])) s)

/-- Whether a neighbour is the one this module follows: fewest hops from the master, the lower number of equals. -/
def follows (s : State) (m hops : Nat) : Bool :=
  s.lnk.master != s.lnk.modNum && s.lnk.hops.all fun h => h.1 == m || decide (hops < h.2) || (h.2 == hops && decide (m < h.1))

/-- TIME_RECEIVE (R448, R449, R47): the four timestamps give the offset, positive when this module is behind. -/
def execTimeReceive (peer : Fin 64) (hops t1 t2 t3 t4 : Nat) (s : State) : Res :=
  let hs := (s.lnk.hops.filter fun h => h.1 != peer.val) ++ [(peer.val, hops)]
  let s1 := { s with lnk := { s.lnk with hops := hs } }
  if s.lnk.topo = 0 || !follows s1 peer.val hops then .next s1
  else
    let off : Int := (((t2 : Int) - t1) + ((t3 : Int) - t4)) / 2
    if s.side.gsyncLock then
      let ms := (off + 500000) / 1000000
      .next (if ms = 0 then s1 else discipline s1 1 (ms * 1000000))
    else .next (discipline s1 2 off)

/-- MASTER_TIMEOUT (R449): a master unreachable for 10 ms gives way to the next by the rule. -/
def execMasterTimeout (s : State) : Res :=
  if canReach s s.lnk.master then .next s else .next (pickMaster s)

end Sys2Proof.Machine
end

