-- ==== Sys2Proof/Machine/Faults.lean ====
section
/-! DEFINITION. Records written, counting, field tests, fences, rebalances and repairs as commands (chapter 19). -/

namespace Sys2Proof.Machine

/-- ERROR_RECORD_WRITE (R453): the writer drains `n` queued records in order. -/
def execErrorRecordWrite (n : Nat) (s : State) : Res := .next (drainErrs n s)

/-! ### Counting (R457, R458) -/

/-- Whether a UnitId names a unit of the module (Table 19-1). -/
def unitExists (u : UnitId) : Bool :=
  let cd := decide (u.die < 16)
  let xd := decide (16 ≤ u.die) && decide (u.die < 20)
  match u.kind with
  | .tile => cd && decide (u.unit < 64)
  | .scoreRow => cd && decide (u.unit < 2048)
  | .channel => cd && decide (u.unit < 32)
  | .expander => cd && decide (u.unit < 4)
  | .edgeLink => cd && decide (u.unit < 4)
  | .port => decide (u.unit < 24) && u.die == 16 + u.unit / 6
  | .core => xd && decide (u.unit < 8)
  | .soInst => xd && u.unit == 0
  | .computeDie => cd && u.unit == 0
  | .none => false

/-- COUNT_AGE_OUT (R457): events past HOURS leave the count. -/
def execCountAgeOut (u : UnitId) (s : State) : Res :=
  let r := unitRec s u
  let (_, hours) := unitWindow s u
  .next (setUnit s { r with events := r.events.filter fun t => decide (nowNs s < t + hours * 3600000000000) })

/-- CE_RATE_HOUR (R457, Table 19-4): an hour over the corrected-error rate counts one event. -/
def execCeRateHour (u : UnitId) (count : Nat) (s : State) : Res :=
  let lim := match u.kind with
    | .tile => some 1000
    | .channel => some 10000
    | _ => none
  match lim with
  | some l => .next (if unitExists u && decide (l < count) then countFault s u id else s)
  | none => .next s

/-! ### Fencing -/

/-- Fence any unit by its own rule, ports by R443. -/
def fenceAny (s : State) (u : UnitId) : State :=
  let s1 := fenceUnit s u
  if u.kind = .port then portFenced s1 u.unit else s1

/-- UNIT_FENCE (R456). -/
def execUnitFence (u : UnitId) (s : State) : Res :=
  .next (if unitExists u && !isFenced s u then fenceAny s u else s)

/-- SUSPECT_TIMEOUT (R458): ten minutes without a test. -/
def execSuspectTimeout (u : UnitId) (s : State) : Res :=
  let r := unitRec s u
  if r.st = .suspect ∧ r.since + 600000000000 ≤ nowNs s then
    .next (fenceAny (pushErr s .ftResult { unit := u, detail := [3] }) u)
  else .next s

/-- FENCE_LIST_WRITE (R477): the whole list into the copy not in use. -/
def execFenceListWrite (s : State) : Res :=
  if !s.side.mainOn || !s.ras.listDirty then .next s
  else
    let f := s.boot.flash
    let us := (s.ras.units.filter fun r => r.st == .fenced).map UnitRec.unit
    let c := listBytes (((fenceCopy f).map Prod.fst).getD 0 + 1) us
    let zero := match listOf f.list0, listOf f.list1 with
      | some a, some b => decide (b.1 ≤ a.1)
      | some _, none => true
      | none, _ => false
    let f' := if zero then { f with list1 := c } else { f with list0 := c }
    .next { s with boot := { s.boot with flash := f' }, ras := { s.ras with listDirty := false } }

/-! ### Rebalancing (R466 to R468) -/

/-- What a tile carries after a rebalance: tile index, turns, section words, scratch, groups, units moved to it. -/
structure Carry where
  tile  : Nat
  turns : Nat
  words : Nat
  scr   : Nat
  groups : List Nat
  moved : List Nat
  deriving DecidableEq

/-- What the units whose homes are in `es` put on tile `t`. -/
def carryOf (es : List DivEntry) (t : Nat) : Carry :=
  let mine := es.filter fun e => e.home == t
  ⟨t, (mine.map DivEntry.turns).sum, (mine.map DivEntry.nwords).sum, (mine.map DivEntry.scr).sum,
   (mine.map DivEntry.group).filter (· != 0xFFFF), []⟩

/-- Whether a unit fits a tile (R466). -/
def carryFits (lim : Nat) (c : Carry) (e : DivEntry) : Bool :=
  decide (c.words + e.nwords ≤ 4096) && decide (c.scr + e.scr ≤ lim) && (e.group == 0xFFFF || !c.groups.contains e.group)

/-- Give one unit to the fitting tile with the lowest total TURNS, the lower index of equals. -/
def giveUnit (lim : Nat → Nat) (cs : List Carry) (e : DivEntry) : Option (List Carry) :=
  let best := (cs.filter fun c => carryFits (lim c.tile) c e).foldl (fun (a : Option Carry) c => match a with
    | none => some c
    | some b => if c.turns < b.turns then some c else some b) none
  best.map fun b => cs.map fun c => if c.tile = b.tile then
    { c with turns := c.turns + e.turns, words := c.words + e.nwords, scr := c.scr + e.scr,
             moved := c.moved ++ [e.wunit],
             groups := if e.group = 0xFFFF then c.groups else c.groups ++ [e.group] } else c

/-- Reassign the units of fenced tiles, ascending WUNIT: the carries, or the first unit that fits nowhere (R466). -/
def giveUnits (lim : Nat → Nat) : List Carry → List DivEntry → Except Nat (List Carry)
  | cs, [] => .ok cs
  | cs, e :: r => match giveUnit lim cs e with
    | none => .error e.wunit
    | some cs' => giveUnits lim cs' r

/-- The units a tile of die `d` gives up: all when it is fenced, else of its AE units, in ascending WUNIT, those that no longer
fit the rows in service (R466). -/
def evicted (s : State) (d t : Nat) (g : Prog) (es : List DivEntry) : List DivEntry :=
  let mine := (es.filter fun e => e.home == t).mergeSort fun a b => decide (a.wunit ≤ b.wunit)
  if isFenced s ⟨.tile, d, t⟩ then mine
  else
    let room := ((List.range 32).filter fun r => !isFenced s (rowUnit (d * 64 + t) r)).length
    if room = 32 then []
    else ((mine.filter fun e => e.kind == 1).foldl (fun (a : Nat × List DivEntry) e =>
      let n := Sys2Proof.Config.unitRows g.version e.wunit
      if a.1 + n ≤ room then (a.1 + n, a.2) else (a.1, a.2 ++ [e])) (0, [])).2

/-- A version's units of die `d` over its tiles in service, those given up reassigned in ascending WUNIT (R466). -/
def carriesOf (s : State) (d : Nat) (g : Prog) : Except Nat (List Carry) :=
  let es := divsOf g d
  let live := (List.range 64).filter fun t => !isFenced s ⟨.tile, d, t⟩
  let moved := ((List.range 64).flatMap fun t => evicted s d t g es).mergeSort fun a b => decide (a.wunit ≤ b.wunit)
  let keep := es.filter fun e => !moved.contains e
  giveUnits (fun t => progScratch g.img (d * 64 + t)) (live.map (carryOf keep)) moved

/-- Rebalance one version on die `d`: its units' new homes, from which its step bound follows (R372); or it cannot run. -/
def rebalProg (s : State) (d : Nat) (g : Prog) : Prog × Option Nat :=
  match carriesOf s d g with
  | .ok cs => ({ g with homes := (g.homes.filter fun h => h.1 != d) ++ cs.flatMap fun c => c.moved.map fun u => (d, u, c.tile) }, none)
  | .error u => ({ g with cannotRun := true }, some u)

/-- Rebalance a version in the machine: its units' new homes, or REBALANCE names the unit that fits nowhere and its bound requests
complete with FENCED (R466). -/
def rebalOne (p d : Nat) (s : State) (g : Prog) : State :=
  let (g', bad) := rebalProg s d g
  let s1 := { s with cmp := { s.cmp with progs := s.cmp.progs.map fun h => if h = g then g' else h } }
  match bad with
  | none => s1
  | some u =>
    let s2 := pushErr s1 .rebalance { status := .fenced, part := p, unit := dieUnit d, detail := [u, g.version] }
    closeSlots s2 ((slotsOf s2 p).filter fun n => (slotOf s2 n).pver == g.version) .fenced

/-- Rebalance every version of the partition of die `d`. -/
def rebalDie (s : State) (d : Nat) : State :=
  match partOfDie s d with
  | none => s
  | some p => (s.cmp.progs.filter fun g => g.part == p).foldl (rebalOne p d) s

/-- Whether a tile or a score row of die `d` is fenced. -/
def dieCut (s : State) (d : Nat) : Bool :=
  s.ras.units.any fun r => r.st == .fenced && r.unit.die == d && (r.unit.kind == .tile || r.unit.kind == .scoreRow)

/-- The versions a partition is loading get their units' homes on the tiles and rows in service (R466). -/
def rebalLoading (s : State) (p : Nat) : State :=
  ((diesOf (partOf s p)).filter (dieCut s)).foldl (fun s d =>
    (s.cmp.progs.filter fun g => g.part == p && g.loading).foldl (rebalOne p d) s) s

/-! ### Unfencing (R459) -/

/-- The partitions that use a unit's die. -/
def dieUsers (s : State) (d : Nat) : List Nat := if d < 16 then (partOfDie s d).toList else livePartitions s

/-- A GO of RAS_UNFENCE (R459): BUSY while a partition that uses the die is not quiescent; ports never. A tile's window
resumes at its reset values (R545), and its units come home to it (R466, notes/assumptions/51.md). -/
def unfence (s : State) (o : Origin) (u : UnitId) : State :=
  let v := ukindNum u.kind + u.die * 16 + u.unit * 512 + 2 ^ 25
  let a : LedgerArgs := { obj := 0, width := 4, target := 0x90208, new := v }
  if u.kind = .port || !isFenced s u then ledger s o { a with act := 1 }
  else if (dieUsers s u.die).all (quiescent s) then
    let ts := match u.kind with
      | .tile => [u.die * 64 + u.unit]
      | .computeDie => (List.range 64).map (u.die * 64 + ·)
      | _ => []
    let s0 := ts.foldl (fun s t => modTile s t fun _ => Tile.init) (ledger s o a)
    let s1 := homeCores (unitTo s0 u .suspect .unitUnfence 0 [])
    let s2 := if u.kind = .tile || u.kind = .scoreRow then rebalDie s1 u.die else s1
    { s2 with ras := { s2.ras with listDirty := true } }
  else ledger s o { a with act := 5, status := .busy }

/-- RAS_UNFENCE_GO (R459). -/
def execRasUnfenceGo (o : Origin) (u : UnitId) (s : State) : Res :=
  match o with
  | .pf0 | .relay _ => .next (if s.side.mainOn && s.boot.st == .run then unfence s o u else s)
  | _ => .next s

/-! ### Field tests (R460 to R465) -/

/-- The tile whose session tests a unit: its own, or for an expander the lowest tile in service of the die whose session
decodes through it (R460). -/
def testTile (s : State) (u : UnitId) : Option Nat :=
  match u.kind with
  | .tile => some (u.die * 64 + u.unit)
  | .scoreRow => some (u.die * 64 + u.unit / 32)
  | .expander => some (u.die * 64 +
      ((List.range 64).find? fun t => t % 4 == u.unit && !isFenced s ⟨.tile, u.die, t⟩).getD u.unit)
  | _ => none

/-- A SUSPECT unit's test begins: TESTING. -/
def toTesting (s : State) (u : UnitId) : State :=
  if unitSt s u == .suspect then unitTo s u .testing .unitSuspect 0 [] else s

/-- A test begins. -/
def beginTest (s : State) (u : UnitId) : State := toTesting { s with ras := { s.ras with test := some u } } u

/-- The units a session on tile `t` tests beside the tile: its score rows and expander (t mod 4) of its die (R460). -/
def sessionUnits (t : Nat) : List UnitId := (List.range 32).map (rowUnit t) ++ [expUnit (t / 64) (t % 4)]

/-- A tile session begins: the tile's state is saved, its control processor reads FIELD_TEST and its delay lines go to
Reduced, in the model until the session ends (R42, R460, notes/assumptions/49.md). -/
def beginSession (s : State) (t : Nat) : State :=
  let s0 := (sessionUnits t).foldl toTesting (beginTest s (tileUnit t))
  let s1 := setReduced (modTile s0 t fun x => { x with st := .fieldTest }) t true
  { s1 with ras := { s1.ras with scheduled := s1.ras.scheduled.erase t, overdue := s1.ras.overdue.erase t } }

/-- The projected bound of a composed step: its sets and the pages of its longest stream (R372). -/
def stepNs (s : State) (p : Nat) (e : Step) : Nat :=
  let pages := ((stepSlots e).map fun n => streamPages s p e.version (slotOf s n).tokens.length).foldl max 0
  boundNs s p e.version (ceilDiv e.cols.length 64) pages

/-- The bound of a step of a partition's LC columns alone, all of them at their booked columns (R376). -/
def lcNs (s : State) (p : Nat) : Nat :=
  let xs := (lcSlots s p).map (slotOf s)
  let pages := (xs.map fun y => streamPages s p y.pver (lcKeys y)).foldl max 0
  let cols := (xs.map (bookedOf s)).sum
  ((xs.map Slot.pver).eraseDups.map fun v => boundNs s p v (ceilDiv cols 64) pages).foldl max 0

/-- Latest of a tile session in ns, the longest gap (Table 19-5). -/
def gapNs : Nat := 1000000

/-- Whether a gap and then a step of `ns` stay within S_LIM (R462). -/
def gapRoom (s : State) (p ns : Nat) : Bool := (partSLim s p).all fun l => decide (ns + gapNs ≤ l)

/-- Whether partition `p` can open a test gap now: between a boundary and the next step's first instruction, and the next
step fits beside the gap, with its BE columns trimmed where they are in the way (R462). -/
def gapFits (s : State) (p : Nat) : Bool :=
  let q := partOf s p
  q.exec.isNone && q.gap.isNone && q.switchSt == .idle &&
    (gapRoom s p (lcNs s p) || (q.composed.map fun e => gapRoom s p (stepNs s p e)).getD false)

/-- Open a test gap for `k`, a tile or 1,024 + an instance: a composed step that does not fit beside it is withdrawn, and the
next one is composed with the gap's time taken from S_LIM (R376, R462). -/
def openGap (s : State) (p k : Nat) : State :=
  let keep := ((partOf s p).composed.map fun e => gapRoom s p (stepNs s p e)).getD false
  modPart (if keep then s else dropComposed s [p]) p fun q => { q with gap := some k, gapTook := true }

/-- The partitions a sorting office instance serves. -/
def servedBy (s : State) (x : Nat) : List Nat := (livePartitions s).filter fun p => (partOf s p).soInst == x

/-- Whether a channel's, core's or instance's test may begin: an instance's runs in one gap of every partition it serves
(R464). -/
def testReady (s : State) (u : UnitId) : Bool :=
  u.kind != .soInst || (servedBy s (u.die - 16)).all (gapFits s)

/-- Begin the test of a channel, core or instance: a core's work is handed over, an instance's partitions open a gap
(R464). -/
def beginOther (s : State) (u : UnitId) : State :=
  let s1 := beginTest s u
  match u.kind with
  | .core => handCore s1 ((u.die - 16) * 8 + u.unit)
  | .soInst => (servedBy s1 (u.die - 16)).foldl (fun s p => openGap s p (1024 + (u.die - 16))) s1
  | _ => s1

/-- FT_ROTATION (R463, R518): every 28 s, not in sleep; a SUSPECT unit's test goes ahead of the rotation. -/
def execFtRotation (s : State) : Res :=
  if s.boot.st ≠ .run || s.pwr.sleep != .awake then .next s
  else
    let sus := (s.ras.units.filter fun r => r.st == .suspect).map UnitRec.unit
    let n := s.ras.nextTile
    let ahead := (sus.filterMap (testTile s)).filter fun t => !s.ras.scheduled.contains t
    let next := if s.ras.scheduled.contains n || ahead.contains n then [] else [n]
    let due := (ahead ++ s.ras.scheduled ++ next).filter fun t => !isFenced s (tileUnit t) && !isFenced s (dieUnit (t / 64))
    let s1 := { s with ras := { s.ras with nextTile := (n + 1) % 1024, scheduled := due, overdue := s.ras.overdue.filter due.contains } }
    let others := sus.filter fun u => (testTile s u).isNone && testReady s1 u
    match s1.ras.test, others, due.find? fun t => (partOfDie s1 (t / 64)).isNone with
    | none, u :: _, _ => .next (beginOther s1 u)
    | none, [], some t => .next (beginSession s1 t)
    | _, _, _ => .next s1

/-- FT_OVERDUE (R463): a tile whose session waits is more than 1 h late, recorded once; OVERDUE counts it until it begins. -/
def execFtOverdue (t : Fin 1024) (s : State) : Res :=
  .next (if !s.ras.scheduled.contains t.val || s.ras.overdue.contains t.val || s.pwr.sleep != .awake then s
    else pushErr { s with ras := { s.ras with overdue := s.ras.overdue ++ [t.val] } } .ftOverdue
      { unit := tileUnit t.val, detail := [t.val] })

/-- TEST_GAP_OPEN (R462): between a boundary and the next step's first instruction. -/
def execTestGapOpen (p : Fin 8) (t : Fin 1024) (s : State) : Res :=
  let wanted := s.ras.scheduled.contains t.val || unitSt s (tileUnit t.val) == .suspect
  if (partOf s p.val).valid && s.pwr.sleep == .awake && partOfTile s t.val == some p.val && s.ras.test.isNone && wanted &&
      !isFenced s (tileUnit t.val) && gapFits s p.val then
    .next (openGap (beginSession s t.val) p.val t.val)
  else .next s

/-- A unit's test passed: a SUSPECT or TESTING one returns to IN_SERVICE with its count cleared (R458). -/
def unitPass (s : State) (u : UnitId) (detail : List Nat) : State :=
  match unitSt s u with
  | .suspect | .testing => homeCores (unitTo s u .inService .ftResult 0 detail)
  | _ =>
    let r := unitRec s u
    pushErr (setUnit s { r with passed := some (nowNs s), events := [] }) .ftResult { unit := u, detail := detail }

/-- What a session says of a unit it tested beside the tile: fenced on failure; a pass ends its suspicion (R461). -/
def settleUnit (s : State) (u : UnitId) (ok : Bool) (detail : List Nat) : State :=
  if !ok then fenceAny s u
  else if unitSt s u == .suspect || unitSt s u == .testing then unitPass s u detail
  else s

/-- FT_SESSION_DONE (R461): failed rows alone are fenced; a tile failing elsewhere is fenced; an expander alone is. -/
def execFtSessionDone (t : Fin 1024) (tileOk : Bool) (badRows : List (Fin 32)) (expOk : Bool) (s : State) : Res :=
  if s.ras.test ≠ some (tileUnit t.val) then .next s
  else
    let d := [bit (!tileOk), maskOf 32 fun r => badRows.any (·.val == r), bit (!expOk)]
    let s1 := endSession s t.val
    let s2 := if tileOk then unitPass s1 (tileUnit t.val) d
      else fenceAny (pushErr s1 .ftResult { unit := tileUnit t.val, detail := d }) (tileUnit t.val)
    let s3 := (List.range 32).foldl (fun s r => settleUnit s (rowUnit t.val r) (!tileOk || !badRows.any (·.val == r)) d) s2
    .next (settleUnit s3 (expUnit (t.val / 64) (t.val % 4)) (expOk || !tileOk) d)

/-- The end of a channel, core or instance test. -/
def endTest (s : State) (u : UnitId) (pass : Bool) : State :=
  let mine := s.ras.test == some u || (s.ras.test.isNone && (unitSt s u == .suspect || unitSt s u == .testing))
  if !mine then s
  else
    let s0 := forParts { s with ras := { s.ras with test := none } } fun s p => modPart s p fun q =>
      { q with gap := if u.kind = .soInst ∧ q.gap = some (1024 + (u.die - 16)) then none else q.gap }
    if pass then unitPass s0 u [0] else fenceAny (pushErr s0 .ftResult { unit := u, detail := [1] }) u

/-- Note whether a channel returned data (R267). -/
def heard (s : State) (c : Nat) (silent : Bool) : State :=
  let rest := s.mem.silent.filter (· != c)
  { s with mem := { s.mem with silent := if silent then rest ++ [c] else rest } }

/-- CHANNEL_TEST_DONE (R464): it fails on an uncorrectable line or more than 16 lines that stick, and on a channel
that returned no data at all (R267). -/
def execChannelTestDone (ch : Fin 512) (found : ChanRead) (stuck : Nat) (s : State) : Res :=
  .next (endTest (heard s ch.val (found == .silent)) (chanUnit ch.val) (found == .data && decide (stuck ≤ 16)))

/-- CORE_TEST_DONE (R464). -/
def execCoreTestDone (u : UnitId) (pass : Bool) (s : State) : Res :=
  match u.kind with
  | .core | .soInst => .next (endTest s u pass)
  | _ => .next s

/-! ### The end of a rebalance -/

/-- REBALANCE_DONE (R466, R467): the partitions it reaches compose again. -/
def execRebalanceDone (u : UnitId) (s : State) : Res :=
  if !s.ras.rebal.contains u then .next s
  else
    let s1 := { s with ras := { s.ras with rebal := s.ras.rebal.erase u } }
    let s2 := if u.kind = .tile ∨ u.kind = .scoreRow then rebalDie s1 u.die else s1
    .next (forParts s2 fun s p => modPart s p fun q => { q with stopWhy := q.stopWhy.erase (stopCode u) })

/-! ### Links and cores -/

/-- EDGE_LINK_TIMEOUT (R457, Table 19-4): no handshake for 2²⁰ turns, or with `parity` a transfer parity error. -/
def execEdgeLinkTimeout (d : Fin 16) (dir : Fin 4) (s : State) (parity : Bool := false) : Res :=
  let u : UnitId := ⟨.edgeLink, d.val, dir.val⟩
  if linkFenced s d.val dir.val then .next s
  else .next (countFault s u fun s => pushErr s .edgeLink { unit := u, detail := [d.val, dir.val, bit parity] })

/-- CORE_WATCHDOG (R457, R489): a core's or an instance's CORE_FAULT counts, and reverts a young activation. -/
def execCoreWatchdog (xd : Fin 4) (core : Fin 8) (inSo : Bool) (s : State) : Res :=
  let u : UnitId := if inSo then ⟨.soInst, 16 + xd.val, 0⟩ else ⟨.core, 16 + xd.val, core.val⟩
  if s.boot.st ≠ .run || isFenced s u then .next s
  else .next (fwFault (countFault s u fun s => pushErr s .coreFault { unit := u, detail := [xd.val, core.val] }))

end Sys2Proof.Machine
end

