-- ==== Sys2Proof/Machine/OutOps.lean ====
section
/-! DEFINITION. Output rings and holds, lines read from memory, doorbells (R326, R327, R377, R390 to R398, R254 to R258). -/

namespace Sys2Proof.Machine

/-! ### Token records (R326, R327, R377, R412) -/

/-- The bound a record is held to, as (0 TTFT or 1 ITL, µs, the time it runs from). -/
def boundOf (x : Slot) : Nat × Nat × Nat :=
  if x.delivered = 0 then (0, x.ttft, x.accTime) else (1, x.itl, x.lastWrite)

/-- Write an ADM_LATE record where an LC record came later than its bound outside a declared event (R377). -/
def lateCheck (s : State) (n : Nat) (t : Nat) : State :=
  let x := slotOf s n
  let (k, us, start) := boundOf x
  if isLc x && !x.excused && !(partOf s x.part).suspended && decide (start + us * 1000 < t) then
    let s1 := modPart s x.part fun q => { q with missed := satAdd 16 q.missed 1 }
    pushErr s1 .admLate { part := x.part, block := some us,
                          detail := [n, k, 0, min ((t - start - us * 1000) / 1000) 0xFFFFFFFF] }
  else s

/-- Note that the token ring has no room: one OUT_RING_FULL each time it fills (R327). -/
def noteFull (s : State) (p : Nat) : State :=
  if ringWritable s p 4 && !ringRoom s p 4 && !(partOf s p).outFull then
    pushErr (modPart s p fun q => { q with outFull := true }) .outRingFull { part := p }
  else s

/-- Write one token record of a slot into ring 4; `ready` is the time its bound is judged at (R370, R377). -/
def tokenWrite (s : State) (n : Nat) (r : OutRec) (ready : Nat) : State :=
  let p := (slotOf s n).part
  let s1 := lateCheck s n ready
  let s2 := noteFull (outPut s1 p { r with time := soTime s p }) p
  modSlot s2 n fun x => { x with delivered := x.delivered + 1, lastWrite := nowNs s }

/-- Whether any slot of a partition holds token records. -/
def tokensHeld (s : State) (p : Nat) : Bool := s.slots.any fun e => e.2.part == p && !e.2.hold.isEmpty

/-- Send a token record of a relayed request to its front module (R400). -/
def tokenRelay (s : State) (n m : Nat) (r : OutRec) : State :=
  let s0 := flushErrs (lateCheck s n (nowNs s))
  let s1 := relayOut s0 m (relayVc (slotOf s n)) 4 (outBytes { r with time := soTime s (slotOf s n).part })
  modSlot s1 n fun x => { x with delivered := x.delivered + 1, lastWrite := nowNs s }

/-- Output one token record: over the relay, into the ring, behind what is held, or into the slot's hold (R326, R327). -/
def tokenOut (s : State) (n : Nat) (r : OutRec) : State :=
  let p := (slotOf s n).part
  if let some m := frontOf (slotOf s n) then tokenRelay s n m r
  else if ringRoom s p 4 && !tokensHeld s p then tokenWrite s n r (nowNs s)
  else modSlot (noteFull s p) n fun x => { x with hold := x.hold ++ [{ r with time := nowNs s }] }

/-- Drain one slot's hold while the ring has room; the interval clock stopped when a record entered the hold, the TTFT clock ran
on (R327, R370). -/
def drainSlot : Nat → State → Nat → State
  | 0, s, _ => s
  | f + 1, s, n =>
    match (slotOf s n).hold with
    | [] => s
    | r :: rest =>
      if ringRoom s (slotOf s n).part 4 then
        let ready := if (slotOf s n).delivered = 0 then nowNs s else r.time
        drainSlot f (tokenWrite (modSlot s n fun x => { x with hold := rest }) n r ready) n
      else s

/-- Write held token records of a relayed ring set while its ring has room (R400). -/
def drainRelayed : Nat → State → Nat → State
  | 0, s, _ => s
  | f + 1, s, p =>
    match (partOf s p).rhold with
    | [] => s
    | r :: rest =>
      if ringRoom s p 4 then drainRelayed f (noteFull (outPut (modPart s p fun q => { q with rhold := rest }) p r) p) p else s

/-- A slot whose handoff waited for its first token's record: once the hold is empty it is due (R332). -/
def handoffDue (s : State) (n : Nat) : State :=
  modSlot s n fun x => if x.st == .handoff && x.hold.isEmpty && x.retryAt.isNone then { x with retryAt := some (nowNs s) } else x

/-- Drain the holds of a partition in ascending slot number, then post what closing slots still owe. -/
def drainTokens (s : State) (p : Nat) : State :=
  let ns := (s.slots.filter fun e => e.2.part == p && !e.2.hold.isEmpty).map Prod.fst
  let s0 := if ringRoom s p 4 then modPart s p fun q => { q with outFull := false } else s
  let s1 := drainRelayed (partOf s p).rhold.length s0 p
  ns.foldl (fun s n => handoffDue (postFinal (drainSlot 64 s n) n) n) s1

/-! ### Held completions (R394) -/

/-- The completion hold of a partition, oldest first: (slot, which) with which 0 ADMITTED, 1 notice, 2 FINAL, or the
command part as slot 65536. -/
def heldCpls (s : State) (p : Nat) : List (Nat × Nat × Cpl) :=
  let slots := s.slots.flatMap fun e => if e.2.part != p then [] else
    (e.2.heldAdm.toList.map fun c => (e.1, 0, c)) ++ (e.2.heldNote.toList.map fun c => (e.1, 1, c)) ++
      e.2.heldFin.toList.map fun c => (e.1, 2, c)
  ((partOf s p).hold.map (fun c => (65536, 3, c)) ++ slots).mergeSort fun a b => decide (a.2.2.time ≤ b.2.2.time)

/-- Take a held completion out of its hold. -/
def unhold (s : State) (p : Nat) (h : Nat × Nat × Cpl) : State :=
  match h.2.1 with
  | 0 => modSlot s h.1 fun x => { x with heldAdm := none }
  | 1 => modSlot s h.1 fun x => { x with heldNote := none }
  | 2 => modSlot s h.1 fun x => { x with heldFin := none }
  | _ => modPart s p fun q => { q with hold := q.hold.drop 1 }

/-- Write held completions, oldest first, while the ring has room. -/
def drainCpls (s : State) (p : Nat) : State :=
  (heldCpls s p).foldl (fun s h => if ringRoom s p 3 then cplPut (unhold s p h) p h.2.2 else s) s

/-- Drain an output ring's hold. -/
def drainRing (s : State) (p r : Nat) : State := if r = 3 then drainCpls s p else if r = 4 then drainTokens s p else s

/-- Index writeback of a ring: both indices (R392). -/
def writeback (s : State) (p r : Nat) : State :=
  let x := ringOf s p r
  emit s (.hostWrite x.owner x.wb (leBytes 4 x.pidx ++ leBytes 4 x.cidx))

/-- Fire a ring's moderated vector (R398): 1 completions, 2 tokens. -/
def fireRing (s : State) (p r : Nat) : State :=
  fire (modRing s p r fun x => { x with unsig := 0 }) (ringOf s p r).owner (r - 2)

/-! ### Doorbells (R393, R403) -/

/-- Whether a doorbell value passes its check. -/
def doorbellOk (x : Ring) (r v : Nat) : Bool :=
  let d (a b : Nat) : Nat := (a + 2 ^ 32 - b) % 2 ^ 32
  if r < 3 then decide (d v x.cidx ≤ 2 ^ x.log2) && decide (d v x.pidx < 2 ^ 31)
  else decide (d v x.cidx ≤ d x.pidx x.cidx)

/-- Acknowledge entries of an output ring: kept copies up to the new consumer index go (R419). -/
def ringAck (s : State) (p r v : Nat) : State :=
  let x := ringOf s p r
  let n := (v + 2 ^ 32 - x.cidx) % 2 ^ 32
  let s1 := modRing s p r fun x => { x with db := v, cidx := v, kept3 := x.kept3.drop n, kept4 := x.kept4.drop n }
  drainRing s1 p r

/-- Act on a checked doorbell: advance an index, or halt the ring (R393). -/
def doorbell (s : State) (f p r v : Nat) : State :=
  let x := ringOf s p r
  if doorbellOk x r v then
    if r < 3 then modRing s p r fun x => { x with db := v, pidx := v } else ringAck s p r v
  else
    violate (ringTo s p r .haltedViolation) f fun s =>
      pushErr s .hifDoorbell { status := .violation, part := p, detail := [f, r, v, x.pidx, x.cidx] }

/-! ### Lines (R254 to R258) -/

/-- Count a corrected line (R255): the hour's MEM_CE record, and MEM_CE_STUCK where the write-back did not hold. -/
def lineCorrected (s : State) (n a : Nat) : State :=
  let c := chanOf s n a
  let hour := nowNs s / 3600000000000
  let s1 := { s with mem := { s.mem with ce := satAdd 24 s.mem.ce 1 } }
  let s2 := if s1.mem.ceHour.contains (c, hour) then s1
    else pushErr { s1 with mem := { s1.mem with ceHour := (s1.mem.ceHour.filter fun e => e.1 != c) ++ [(c, hour)] } } .memCe
      { unit := chanUnit c, block := some (a / 2048 * 2048) }
  if s2.mem.ceLines.contains (a / 64) then
    countFault s2 (chanUnit c) fun s =>
      pushErr s .memCeStuck { unit := chanUnit c, block := some (a / 2048 * 2048), detail := [a / 64] }
  else { s2 with mem := { s2.mem with ceLines := s2.mem.ceLines ++ [a / 64] } }

/-- A class A line fails its CRC (R256): counted and marked until its producer writes it. -/
def lineACrc (s : State) (a : Nat) : State :=
  let l := a / 64
  { s with mem := { s.mem with aCrc := satAdd 16 s.mem.aCrc 1,
                               aFailed := if s.mem.aFailed.contains l then s.mem.aFailed else s.mem.aFailed ++ [l] } }

/-- What reading one line met: the state after, and 0 good, 1 class A failure, 2 poison (R254 to R258). Class A corrects
nothing. -/
def lineRead (s0 : State) (a : Nat) (err : LineErr) (rd : Reader) : State × Nat :=
  match regionAt s0 a with
  | none => (s0, 0)
  | some n =>
    let s := heard s0 (chanOf s0 n a) (err == .silent)
    if (regionOf s n).cls == .a then
      if err != .clean || isFailed s (a / 64) then (lineACrc s a, 1) else (s, 0)
    else if isPoisoned s (blockOf a) then (s, 2)
    else match err with
      | .clean => ({ s with mem := { s.mem with ceLines := s.mem.ceLines.erase (a / 64) } }, 0)
      | .corrected => (lineCorrected s n a, 0)
      | .uncorrectable | .silent => (poisonBlock s (a / 64) rd, 2)

/-- Read lines in order, one check result for each; the first that fails names the outcome and its line. -/
def linesRead (s : State) (rd : Reader) : List Nat → List LineErr → State × Nat × Nat
  | [], _ => (s, 0, 0)
  | l :: ls, es =>
    let (s1, k) := lineRead s (l * 64) (es.headD .clean) rd
    let (s2, k2, l2) := linesRead s1 rd ls es.tail
    if k = 0 then (s2, k2, l2) else (s2, k, l)

end Sys2Proof.Machine
end

