-- ==== Sys2Proof/Machine/Trit.lean ====
section
/-! DEFINITION. Trit bytes, table building, lookups, digits and the AE's log tables (chapters 3, 4, 5). -/

namespace Sys2Proof.Machine

/-- Trit i of a code (R51, R52). -/
def tritOf (code i : Nat) : Int := ((code / 3 ^ i % 3 : Nat) : Int) - 1

/-- The code used for a byte of the weight feed: 243-255 become 121 (R57). -/
def cleanCode (b : Nat) : Nat := if b > 242 then 121 else b

/-- The table entry of a code in a fold whose zero code is `z`: none for zero, else index and negation (R53, R55). -/
def foldCode (z c : Nat) : Option (Nat × Bool) :=
  if c = z then none else if c > z then some (c - z - 1, false) else some (z - 1 - c, true)

/-- State of the Gray-code walk (R79): trits, directions, sum, entries written. -/
structure Walk (α : Type) where
  t   : List Int
  d   : List Int
  s   : α
  out : List (Nat × α)

/-- Entry index of a trit vector (R79). -/
def walkIndex (t : List Int) : Nat :=
  let n := t.length
  let z := (List.range n).foldl (fun acc i => acc + (t.getD i 0 + 1) * 3 ^ i) 0
  (z - ((3 ^ n + 1) / 2 : Nat)).toNat

/-- The inner search of one walk step: the first trit not at its end, turning those that are. -/
def walkFind : Nat → Nat → List Int → List Int → Nat × List Int
  | 0, i, _, d => (i, d)
  | f + 1, i, t, d => if t.getD i 0 = d.getD i 0 then walkFind f (i + 1) t (d.set i (-(d.getD i 0))) else (i, d)

/-- One add of the walk. -/
def walkStep {α : Type} (add : α → Int → Nat → α) (w : Walk α) : Walk α :=
  let (i, d) := walkFind w.t.length 0 w.t w.d
  let di := d.getD i 0
  let t := w.t.set i (w.t.getD i 0 + di)
  let s := add w.s di i
  { t := t, d := d, s := s, out := w.out ++ [(walkIndex t, s)] }

/-- Block m of the walk (R79). -/
def walkBlock {α : Type} (add : α → Int → Nat → α) (w : Walk α) (m : Nat) : Walk α :=
  let t := w.t.set m 1
  let s := add w.s 1 m
  let d := (List.range t.length).map fun i => if i < m then -(t.getD i 0) else 0
  repeatN (walkStep add) (3 ^ m - 1) { t := t, d := d, s := s, out := w.out ++ [(walkIndex t, s)] }
where
  /-- Repeat a step. -/
  repeatN (f : Walk α → Walk α) : Nat → Walk α → Walk α
    | 0, a => a
    | n + 1, a => repeatN f n (f a)

/-- The whole walk over `n` activations from the first (R79): (index, sum) pairs in walk order. -/
def walkAll {α : Type} (add : α → Int → Nat → α) (a0 : α) (n : Nat) : List (Nat × α) :=
  let t := (List.range n).map fun i => if i = 0 then (1 : Int) else 0
  let w0 : Walk α := { t := t, d := List.replicate n 0, s := a0, out := [(walkIndex t, a0)] }
  ((List.range (n - 1)).foldl (fun w m => walkBlock add w (m + 1)) w0).out

/-- Entries 0 to n − 1 of a walk's output. -/
def walkTable {α : Type} (out : List (Nat × α)) (n : Nat) (d : α) : List α :=
  (List.range n).map fun j => ((out.find? fun p => p.1 == j).map Prod.snd).getD d

/-- The integer table of five activations (R79, R80): 121 sums. -/
def buildInt (a : List Int) : List Int :=
  walkTable (walkAll (fun s d i => s + d * a.getD i 0) (a.getD 0 0) 5) 121 0

/-- A float half-table over `n` activations, every add rounded (R80). -/
def buildFloat (a : List Word) (n m : Nat) : List Word :=
  walkTable (walkAll (fun s d i => if d > 0 then fpAdd s (a.getD i 0) else fpSub s (a.getD i 0)) (a.getD 0 (0 : Word)) n) m (0 : Word)

/-- The 121 16-bit words of a cell's integer table (Table 4-1). -/
def cellInt (a : List Int) : List (BitVec 16) := (buildInt a).map fun z => BitVec.ofInt 16 z

/-- The words of a cell's float table: 13 low entries in word pairs, then 4 high entries (Table 4-1). -/
def cellFloat (a : List Word) : List (BitVec 16) :=
  (buildFloat (a.take 3) 3 13 ++ buildFloat (a.drop 3) 2 4).flatMap fun (w : Word) => [w.setWidth 16, (w >>> 16).setWidth 16]

/-- Integer lookup of a code in a cell's table (R53, R85). -/
def lookupInt (tab : List (BitVec 16)) (code : Nat) : Int :=
  match foldCode 121 code with
  | none => 0
  | some (j, neg) => let v := (tab.getD j 0).toInt; if neg then -v else v

/-- Float entry j of a half beginning at word `b`. -/
def floatEntry (tab : List (BitVec 16)) (b j : Nat) : Word :=
  ((tab.getD (b + 2 * j + 1) 0).setWidth 32 <<< 16) ||| (tab.getD (b + 2 * j) 0).setWidth 32

/-- Add a folded float half to a running sum (R55). -/
def addHalf (tab : List (BitVec 16)) (b : Nat) (f : Option (Nat × Bool)) (s : Word) : Word :=
  match f with
  | none => s
  | some (j, neg) => if neg then fpSub s (floatEntry tab b j) else fpAdd s (floatEntry tab b j)

/-- Float lookup of a code: low half, then high half (R55, R85). -/
def lookupFloat (tab : List (BitVec 16)) (s : Word) (code : Nat) : Word :=
  addHalf tab 26 (foldCode 4 (code / 27)) (addHalf tab 0 (foldCode 13 (code % 27)) s)

/-- Saturation to INT32 and whether it struck (R68). -/
def satInt (z : Int) : Int × Bool :=
  if z > 2 ^ 31 - 1 then (2 ^ 31 - 1, true) else if z < -(2 ^ 31) then (-(2 ^ 31), true) else (z, false)

/-- Radix-4 Booth digits of an INT8 element, lowest first (R116). -/
def boothDigits (x : Int) : List Int :=
  let b (i : Int) : Int := if i < 0 then 0 else (x % 256).toNat / 2 ^ i.toNat % 2
  (List.range 4).map fun i => b (2 * i - 1) + b (2 * i) - 2 * b (2 * i + 1)

/-- Lane turns of an element: max(1, non-zero digits) (R116). -/
def digitTurns (x : Int) : Nat := max 1 ((boothDigits x).filter (· ≠ 0)).length

/-- The digit-count byte of a 16-element segment (R117). -/
def countByte (seg : List Int) : Nat :=
  let ts := seg.map digitTurns
  (ts.sum - 16) + 64 * ((ts.foldl max 1) - 1)

/-- The product of a query element and a key element by its digits (R116). -/
def digitProduct (q x : Int) : Int :=
  ((List.range 4).map fun i => q * (boothDigits x).getD i 0 * 4 ^ i).sum

/-- LV[a] = round(256 × log₂ a), a from 1 to 128 (Table 5-4), from the exact integer a^512. -/
def aeLv (a : Nat) : Nat := (Nat.log2 (a ^ 512) + 1) / 2

/-- LT[i] = round(256 × log₂(1 + i / 256)) (Table 5-4). -/
def aeLt (i : Nat) : Nat := (Nat.log2 ((256 + i) ^ 512) + 1) / 2 - 2048

/-- Greatest n below 2^24 with (2n − 1)^256 ≤ 2^(256 · 24 + f), by bits: the significand of 2^(f/256) rounded. -/
def antilogBits : Nat → Nat → Nat → Nat
  | 0, _, n => n
  | k + 1, f, n =>
    let t := n + 2 ^ k
    antilogBits k f (if (2 * t - 1) ^ 256 ≤ 2 ^ (256 * 24 + f) then t else n)

/-- A[f]: the 24-bit significand of 2^(f/256), correctly rounded (Table 5-4). -/
def aeA (f : Nat) : Nat := antilogBits 24 f 0

/-- sign × A[E mod 256] × 2^⌊E/256⌋ (R125). -/
def antilog (neg : Bool) (e : Int) : Word := fpRound neg (aeA (e % 256).toNat) (e / 256 - 23)

/-- ls of a value scale: 256 × e + LT[i], the fraction rounded to 8 bits, half to even (R125); none for zero. -/
def logScale (sv : Word) : Option Int :=
  match fpVal sv with
  | .fin _ m e =>
    if m = 0 then none
    else
      let l := Nat.log2 m
      let fr := m * 2 ^ 24 / 2 ^ l - 2 ^ 24
      let i := shrRne fr 16
      let ev : Int := e + l
      some (if i = 256 then 256 * (ev + 1) else 256 * ev + aeLt i)
  | _ => none

end Sys2Proof.Machine
end

