-- ==== Sys2Proof/Machine/Operands.lean ====
section
/-! DEFINITION. Operand forms of tile instructions, declared ranges, the scoreboard, issue and retirement
(R206 to R212, R216 to R231). -/

namespace Sys2Proof.Machine

/-! ### Operands (R218) -/

/-- An operand register. -/
def regOf (x : Tile) (r : Nat) : Word := tabGet x.regs r 0

/-- The value of a class field of `w` bits: a register above the width gives none; wide fields take two registers. -/
def fieldOf (x : Tile) (w : Nat) : Opd → Option Nat
  | .imm v => if v < 2 ^ w then some v else none
  | .reg r =>
    let v := (regOf x r).toNat + (if 32 < w then 2 ^ 32 * (regOf x (r + 1)).toNat else 0)
    if v < 2 ^ w then some v else none

/-- A field whose value must lie between bounds. -/
def fieldIn (x : Tile) (w lo hi : Nat) (o : Opd) : Option Nat :=
  (fieldOf x w o).bind fun v => if lo ≤ v ∧ v ≤ hi then some v else none

/-- Granules of the scratchpad (R190). -/
def scratchTop (x : Tile) : Nat := (16 - x.cacheBanks) * 4096

/-! ### Declared ranges (R209 to R211, R219, R220) -/

/-- A range word's range, none when it reaches the scratch limit or an indirect value does not fit (R211, R218). -/
def rangeOf (x : Tile) (d : RangeDecl) : Option Rng :=
  match fieldOf x 16 d.first, fieldOf x 16 d.cntm1 with
  | some f, some c => if f + c < scratchTop x then some ⟨f, c + 1, d.write⟩ else none
  | _, _ => none

/-- The ranges of a range set. -/
def rangesOf (x : Tile) (rs : RangeSet) : Option (List Rng) := rs.ranges.mapM (rangeOf x)

/-- Whether two ranges share a granule. -/
def overlaps (a b : Rng) : Bool := decide (a.first < b.first + b.count) && decide (b.first < a.first + a.count)

/-- Whether two ranges conflict (R210). -/
def conflicts (a b : Rng) : Bool := overlaps a b && (a.write || b.write)

/-- Change a window. -/
def modWin (x : Tile) (w : Nat) (f : Win → Win) : Tile := { x with wins := tabMod x.wins w Win.init f }

/-- The range of a window. -/
def winRng (w : Win) : Rng := ⟨w.base, w.len, true⟩

/-- Whether a declared range may touch open window `w` (R206). -/
def winAllows (x : Tile) (await : Option (Nat × Nat)) (r : Rng) (w : Nat) : Bool :=
  let v := winOf x w
  !v.opened || !overlaps (winRng v) r || (!r.write && (v.dir == 2 || (await.map Prod.fst) == some w))

/-- Whether every range of an instruction passes R206. -/
def winsAllow (x : Tile) (await : Option (Nat × Nat)) (rs : List Rng) : Bool :=
  rs.all fun r => (List.range 8).all fun w => winAllows x await r w

/-- Ranges in the scoreboard: those of instructions in flight, of a SYNC that waits and of WIN.CLOSEs that have not retired
(R209). -/
def boardOf (x : Tile) : List Rng :=
  x.inflight.flatMap Infl.ranges ++ x.syncBoard ++ (List.range 8).flatMap fun w => (winOf x w).board

/-- Whether an arrival count is reached (R220). -/
def arrived (x : Tile) : Option (Nat × Nat) → Bool
  | none => true
  | some (w, n) => decide (n ≤ (winOf x w).arrived)

/-- Whether granules `g` to `g + n − 1` lie in declared ranges, in a WRITE range when `write` (R211). -/
def declared (rs : List Rng) (write : Bool) (g n : Nat) : Bool :=
  (List.range n).all fun i => rs.any fun r =>
    (!write || r.write) && decide (r.first ≤ g + i) && decide (g + i < r.first + r.count)

/-- A store access: byte address, bytes, whether it writes. -/
structure Access where
  addr  : Nat
  len   : Nat
  write : Bool

/-- Whether an access is declared. -/
def accOk (rs : List Rng) (a : Access) : Bool :=
  a.len == 0 || declared rs a.write (a.addr / 64) ((a.addr + a.len - 1) / 64 - a.addr / 64 + 1)

/-! ### Issue (R228, R229) -/

/-- Whether a tile issues: running its partition's step, not stopped by a switch unless an abandonment is to end first
(R236), no SYNC waiting. -/
def canIssue (s : State) (t : Nat) : Bool :=
  let x := tileOf s t
  (x.st == .run || x.st == .held) && !x.faulted && !x.ended && !(x.stopped && !x.noticed) && !x.waitEnd && x.waitBlocks.isNone &&
    x.waitBar.isNone && match partOfTile s t with
      | some p => (partOf s p).exec.isSome
      | none => false

/-- Hold an instruction at issue for a cause of TILE_CP_STATUS (Table 9-21): none passes it (R228). -/
def holdAt (s : State) (t : Nat) (i : Instr) (why : Nat) : State :=
  modTile s t fun x => { x with st := .held, hold := why, held := some i }

/-- The image a tile runs: that of its version (R237). -/
def imageAt (s : State) (t : Nat) : Option (List Byte) :=
  match partOfTile s t with
  | none => none
  | some p => (progOf s p (tileOf s t).version).bind fun g => imageFor g.img t

/-- Whether `i` is the instruction a tile issues next: the one its image holds at the program counter (R216, R228), and
the one held at issue where one is. A tile whose version holds no image, which no load leaves, takes what comes. -/
def fetched (s : State) (t : Nat) (i : Instr) : Bool :=
  let x := tileOf s t
  (x.held.isNone || x.held == some i) && match imageAt s t with
    | none => true
    | some img => imgInstr (Fin.ofNat 1024 t) img x.pc == some i

/-- One more instruction issued, the next being `pc` (R224, R227). -/
def stepPc (x : Tile) (pc : Nat) : Tile :=
  { x with pc := pc % 16384, issued := x.issued + 1, lastIdx := x.pc, st := .run, hold := 0, held := none }

/-- Depth of a block's queue (Table 9-15). -/
def queueDepth : Blk → Nat
  | .tla => 16 | .ae => 16 | .vec => 16 | .rng => 8 | .mover => 32

/-- Instructions of a block in flight. -/
def blkOps (x : Tile) (b : Blk) : List Infl := x.inflight.filter fun i => i.op.blk == b

/-- ACM ranges held by the interlock (R96). -/
def acmOps (x : Tile) : Nat := (x.inflight.filter fun i => match i.op with
  | .tlook .. | .drain .. => true
  | _ => false).length

/-- The row mask of an AE instruction. -/
def aeMask : Op → Nat
  | .qk r .. => r | .pv r .. => r | .softInit r .. => r | .softBlock r _ => r | .softExport r _ => r
  | _ => 0

/-- Whether R110 holds an AE instruction: a mask that overlaps but does not equal one in flight. -/
def aeHeld (x : Tile) (m : Nat) : Bool :=
  (blkOps x .ae).any fun i => decide (aeMask i.op &&& m ≠ 0) && decide (aeMask i.op ≠ m)

/-- Why the scoreboard holds an instruction with these ranges, 0 when it does not (R210, Table 9-21). -/
def boardHold (x : Tile) (rs : List Rng) : Nat :=
  if rs.any fun r => (boardOf x).any (conflicts r) then 1
  else if 32 < (boardOf x).length + rs.length then 2
  else 0

/-- Why an instruction of a block with these ranges is held, 0 when it is not (R228, Table 9-21). -/
def holdCause (x : Tile) (op : Op) (rs : List Rng) : Nat :=
  let acm := match op with
    | .tlook .. | .drain .. => decide (16 ≤ acmOps x)
    | _ => false
  let ae := op.blk == .ae && (decide (16 ≤ (blkOps x .ae).length) || aeHeld x (aeMask op))
  if boardHold x rs ≠ 0 then boardHold x rs
  else if queueDepth op.blk ≤ ((blkOps x op.blk).filter fun i => !i.started).length then 3
  else if 256 ≤ issuedCount x then 4
  else if acm || ae then 8
  else 0

/-- The lowest tag not in flight. -/
def freeTag (x : Tile) : Nat := lowestFree ((x.inflight.map Infl.tag).mergeSort (fun a b => decide (a ≤ b))) 0

/-- What issue makes of an instruction before its ranges are looked at. -/
inductive Check where
  | go
  | hold (why : Nat)
  | fault (c : RecCode) (st : Status)
  deriving DecidableEq

/-- The issue limit (R227): a program fault. -/
def runaway (s : State) (t opc : Nat) : State := progFault s t .spRunaway .badState opc [(tileOf s t).pc]

/-- Put an instruction in flight. -/
def enter (x : Tile) (op : Op) (rs : List Rng) (await : Option (Nat × Nat)) : Tile :=
  let i : Infl := ⟨freeTag x, x.pc, op, rs, await, false, 0, 0, [], false⟩
  stepPc { x with inflight := x.inflight ++ [i] } (x.pc + 1)

/-- The arrival operand of a range set. -/
def awaitOf (rs : RangeSet) : Option (Nat × Nat) := rs.await.map fun a => (a.1.val, a.2)

/-- A range word whose register holds a value above 16 bits (R218). -/
def rangeWide (x : Tile) (rs : RangeSet) : Bool :=
  rs.ranges.any fun r => (fieldOf x 16 r.first).isNone || (fieldOf x 16 r.cntm1).isNone

/-- The checks of a range set before the scoreboard's: an indirect value too wide is the class's range fault, a range
beyond the scratch limit TS_RANGE, an open window TS_WINDOW (R206, R211, R218). -/
def rangeFault (x : Tile) (rs : RangeSet) (bad : RecCode) : Option (RecCode × Status) :=
  if rangeWide x rs then some (bad, .badRange)
  else match rangesOf x rs with
    | none => some (.tsRange, .badRange)
    | some g => if winsAllow x (awaitOf rs) g then none else some (.tsWindow, .badState)

/-- Issue an instruction `i` to a block: it is what the tile issues next, its constants stand (R50, R104), operands
resolved by `mk` (R218), the class's checks, the declared ranges and open windows (R211, R206), then the holds (R228);
the state and whether it issued. -/
def issueOp (s : State) (t : Nat) (i : Instr) (opc : Nat) (bad : RecCode) (mk : Tile → Option Op)
    (chk : Tile → Op → Check) : State × Bool :=
  let x := tileOf s t
  let fault (c : RecCode) (st : Status) : State × Bool := (progFault s t c st opc [x.pc], false)
  if !canIssue s t || !fetched s t i then (s, false)
  else if 2 ^ 24 ≤ x.issued then (runaway s t opc, false)
  else match wordBad i, mk x with
    | some st, _ => fault bad st
    | none, none => fault bad .badRange
    | none, some op =>
      match chk x op, rangeFault x (setOf i) bad with
      | .fault c st, _ => fault c st
      | .hold w, _ => (holdAt s t i w, false)
      | .go, some (c, st) => fault c st
      | .go, none =>
        let g := (rangesOf x (setOf i)).getD []
        let w := holdCause x op g
        if w = 0 then (setTile s t (enter x op g (awaitOf (setOf i))), true) else (holdAt s t i w, false)

/-- No class check. -/
def noCheck (_ : Tile) (_ : Op) : Check := .go

/-! ### In flight -/

/-- An instruction in flight by its tag. -/
def inflOf (x : Tile) (tag : Nat) : Option Infl := x.inflight.find? fun i => i.tag == tag

/-- Change an instruction in flight. -/
def modInfl (s : State) (t tag : Nat) (f : Infl → Infl) : State :=
  modTile s t fun x => { x with inflight := listUpd (fun i => i.tag == tag) f x.inflight }

/-- The instructions issued before a tag. -/
def earlier (x : Tile) (tag : Nat) : List Infl := x.inflight.takeWhile fun i => i.tag != tag

/-- An access outside the declared ranges (R211): a program fault; the instruction leaves without writing. -/
def undeclared (s : State) (t : Nat) (i : Infl) : State :=
  dropInfl (progFault s t .tsUndeclared .badRange i.op.opc [i.idx]) t i.tag

/-- Read store bytes. -/
def stRead (x : Tile) (a n : Nat) : List Byte := x.store.readRun a n

/-- Write store bytes. -/
def stWrite (x : Tile) (a : Nat) (bs : List Byte) : Tile := { x with store := x.store.writeRun a bs }

/-- A little-endian 32-bit word of the store. -/
def stWord (x : Tile) (a : Nat) : Word := BitVec.ofNat 32 (leNat (stRead x a 4))

/-- A permutation of a list by free picks (R69): each element goes to a free place among those before it. -/
def freeOrder {α : Type} : Nat → List α → List α → List α
  | _, acc, [] => acc
  | k, acc, v :: r =>
    let i := Sys2Proof.Config.freePick k % (acc.length + 1)
    freeOrder (k + 1) (acc.take i ++ v :: acc.drop i) r

/-- A free order of a list and the state that has drawn it. -/
def shuffle {α : Type} (s : State) (l : List α) : List α × State :=
  let (k, s1) := drawFree s l.length
  (freeOrder k [] l, s1)

end Sys2Proof.Machine
end

