-- ==== Sys2Proof/Machine/AeOps.lean ====
section
/-! DEFINITION. The attention engine's shared operations: rows, buffers, feeds, scores, softmax, values, records
(R109 to R134). -/

namespace Sys2Proof.Machine

/-! ### Rows (R112, R113) -/

/-- Score rows of a tile in service when its step began, ascending (R113). -/
def liveRows (s : State) (t : Nat) : List Nat := (List.range 32).filter fun r => !(tileOf s t).rowsOut.contains r

/-- Physical pairs whose two rows are in service. -/
def livePairs (s : State) (t : Nat) : List Nat :=
  (List.range 16).filter fun i => (liveRows s t).contains (2 * i) && (liveRows s t).contains (2 * i + 1)

/-- The bits of a row mask. -/
def maskBits (m : Nat) : List Nat := (List.range 32).filter m.testBit

/-- The physical row of logical row `l` (R113). -/
def physRow (s : State) (t : Nat) (gang : Bool) (l : Nat) : Option Nat :=
  if gang then ((livePairs s t)[l / 2]?).map fun i => 2 * i + l % 2 else (liveRows s t)[l]?

/-- A score row. -/
def rowAt (x : Tile) (r : Nat) : Row := tabGet x.rows r Row.init

/-- Change a score row. -/
def modRow (x : Tile) (r : Nat) (f : Row → Row) : Tile := { x with rows := tabMod x.rows r Row.init f }

/-- The physical row a mask bit names once INIT has said whether it is ganged. -/
def rowFor (s : State) (t : Nat) (x : Tile) (l : Nat) : Option Nat :=
  match physRow s t true l with
  | some r => if (rowAt x r).inited && (rowAt x r).gang then some r else physRow s t false l
  | none => physRow s t false l

/-- The physical rows a mask names. -/
def rowsFor (s : State) (t : Nat) (x : Tile) (m : Nat) : List Nat := (maskBits m).filterMap (rowFor s t x)

/-- Rows whose softmax units and buffers serve: of a ganged pair the even one (R112). -/
def softRows (x : Tile) (rs : List Nat) : List Nat := rs.filter fun r => !(rowAt x r).gang || r % 2 == 0

/-- The row whose softmax unit serves row `r`. -/
def softOf (x : Tile) (r : Nat) : Nat := if (rowAt x r).gang then r / 2 * 2 else r

/-- Score buffer `b` of a row. -/
def bufOf (r : Row) (b : Nat) : ScoreBuf := if b = 0 then r.buf0 else r.buf1

/-- Change a score buffer. -/
def modBuf (r : Row) (b : Nat) (f : ScoreBuf → ScoreBuf) : Row :=
  if b = 0 then { r with buf0 := f r.buf0 } else { r with buf1 := f r.buf1 }

/-- Head width of an HWC field (R111). -/
def headWidth (hwc : Nat) : Nat := 16 * hwc

/-! ### States to come (R129, R130) -/

/-- INIT's effect on a row's states. -/
def initRow (r : Row) (gang : Bool) : Row :=
  { r with gang := gang, inited := true, m := none, l := 0, acc := [], nf := false, buf0 := ScoreBuf.init,
           buf1 := ScoreBuf.init, blocks := 0, pvs := 0, skew := [] }

/-- What an instruction in flight will have done to its rows' states when it retires. -/
def aeAfter (s : State) (t : Nat) (x : Tile) (op : Op) : Tile :=
  match op with
  | .softInit m _ gang => ((maskBits m).filterMap (physRow s t gang)).foldl (fun x r => modRow x r fun r => initRow r gang) x
  | .qk m b n .. => (softRows x (rowsFor s t x m)).foldl (fun x r => modRow x r fun r =>
      modBuf r b fun c => { c with st := .scored, nkeys := n }) x
  | .softBlock m b => (softRows x (rowsFor s t x m)).foldl (fun x r => modRow x r fun r =>
      { modBuf r b fun c => { c with st := .logp, order := r.blocks } with blocks := r.blocks + 1 }) x
  | .pv m b .. => (softRows x (rowsFor s t x m)).foldl (fun x r => modRow x r fun r =>
      { modBuf r b fun c => { c with st := .empty } with pvs := r.pvs + 1 }) x
  | _ => x

/-- The tile as every AE instruction in flight will leave it. -/
def aeFuture (s : State) (t : Nat) (x : Tile) : Tile := ((blkOps x .ae).map Infl.op).foldl (aeAfter s t) x

/-- Whether some physical rows hold one row of a ganged pair without the other (R130). -/
def halfPair (rs : List Nat) (ganged : Nat → Bool) : Bool :=
  rs.any fun r => ganged r && !rs.contains (if r % 2 = 0 then r + 1 else r - 1)

/-- The row checks of QK and PV (R112, R113, R130). -/
def streamCheck (s : State) (t : Nat) (y : Tile) (m hwc : Nat) : Check :=
  let gang := hwc == 16
  let top := if gang then 2 * (livePairs s t).length else (liveRows s t).length
  let rs := (maskBits m).filterMap fun l => if gang then physRow s t true l else rowFor s t y l
  if (maskBits m).any fun l => decide (top ≤ l) then .fault .aeRange .badRange
  else if rs.any (fun r => !(rowAt y r).inited || (rowAt y r).gang != gang) then .fault .aeState .badState
  else if halfPair rs fun _ => gang then .fault .aeState .badState
  else .go

/-- The row checks of a SOFT: mask bits beyond the rows in service, half a ganged pair (R113, R130). -/
def softCheck (y : Tile) (m : Nat) (row : Nat → Option Nat) (gang : Option Bool) : Check :=
  let rs := (maskBits m).filterMap row
  if (maskBits m).any fun l => (row l).isNone then .fault .aeRange .badRange
  else if halfPair rs fun r => gang.getD (rowAt y r).gang then .fault .aeState .badState
  else .go

/-- The buffer checks of an AE instruction against the states to come (R129). -/
def bufCheck (s : State) (t : Nat) (x : Tile) (op : Op) : Check :=
  let y := aeFuture s t x
  match op with
  | .qk m b _ _ hwc .. =>
    match streamCheck s t y m hwc with
    | .go => if (softRows y (rowsFor s t y m)).all fun r => (bufOf (rowAt y r) b).st == .empty then .go
             else .fault .aeState .badState
    | c => c
  | .pv m b n hwc .. =>
    match streamCheck s t y m hwc with
    | .go => if (softRows y (rowsFor s t y m)).all fun r =>
                  let c := bufOf (rowAt y r) b
                  c.st == .logp && c.nkeys == n && c.order == (rowAt y r).pvs then .go
             else .fault .aeState .badState
    | c => c
  | .softBlock m b =>
    match softCheck y m (rowFor s t y) none with
    | .go => if (softRows y (rowsFor s t y m)).all fun r => (bufOf (rowAt y r) b).st == .scored then .go
             else .fault .aeState .badState
    | c => c
  | .softExport m _ => softCheck y m (rowFor s t y) none
  | .softInit m _ gang => softCheck y m (physRow s t gang) (some gang)
  | _ => .go

/-! ### Row records (R114) -/

/-- Whether the reserved bytes of a row record are zero; `hi` for the second record of a ganged pair. -/
def recReserved (x : Tile) (a : Nat) (hi : Bool) : Bool :=
  let z (o n : Nat) : Bool := (stRead x (a + o) n).all (· == 0)
  if hi then z 256 64 else z 257 3 && z 274 46

/-- The rows of an INIT in ascending logical order, with their record addresses. -/
def initRecs (s : State) (t : Nat) (m addr : Nat) (gang : Bool) : List (Nat × Nat) :=
  ((maskBits m).zipIdx).filterMap fun e => (physRow s t gang e.1).map fun r => (r, addr * 64 + e.2 * 320)

/-- Whether INIT's records pass R115. -/
def initOk (s : State) (t : Nat) (x : Tile) (m addr : Nat) (gang : Bool) : Bool :=
  (initRecs s t m addr gang).all fun e => recReserved x e.2 (gang && e.1 % 2 == 1)

/-- Load one row record (R114). -/
def loadRow (x : Tile) (gang : Bool) (e : Nat × Nat) : Tile :=
  let a := e.2
  let q : Tab (BitVec 16) := (List.range 128).foldl (fun t j => tabSet t j (BitVec.ofNat 16 (leNat (stRead x (a + 2 * j) 2))) 0) []
  let hi := gang && e.1 % 2 == 1
  modRow x e.1 fun r =>
    let r1 := { initRow r gang with q := q }
    if hi then r1
    else { r1 with qexp := sInt 8 (leNat (stRead x (a + 256) 1)), posLo := leNat (stRead x (a + 260) 4),
                   posHi := leNat (stRead x (a + 264) 4), treeBase := leNat (stRead x (a + 268) 4),
                   anc := leNat (stRead x (a + 272) 2) }

/-! ### Feeds (R132) -/

/-- The FIFO of a feed: 1 EXP_A, 2 EXP_B. -/
def aeFifo (x : Tile) (f : Nat) : List Byte := (if f = 1 then x.fifoA else x.fifoB).map FeedByte.byte

/-- The feed, keys and head width of a QK or PV. -/
def aeFeed : Op → Option (Nat × Nat × Nat × Nat)
  | .qk _ _ n _ hwc f a _ => some (f, n, headWidth hwc, a)
  | .pv _ _ n hwc f a _ => some (f, n, headWidth hwc, a)
  | _ => none

/-- The keys an instruction has drawn from its feed. -/
def keysDrawn (j : Infl) : Nat := match j.op with
  | .qk .. => j.fed
  | _ => j.prog

/-- Whether an earlier instruction still draws on an EXP FIFO. -/
def feedBusy (x : Tile) (i : Infl) (f : Nat) : Bool :=
  (earlier x i.tag).any fun j => match aeFeed j.op with
    | some (g, n, _, _) => g == f && decide (keysDrawn j < n)
    | none => false

/-- The bytes of key `n` of an instruction, when they are there; an EXP FIFO gives them up. -/
def takeKey (x : Tile) (i : Infl) (n : Nat) : Option (List Byte × Tile) :=
  match aeFeed i.op with
  | none => none
  | some (f, _, hw, a) =>
    if f = 0 then some (stRead x (a * 64 + n * hw) hw, x)
    else if feedBusy x i f || (aeFifo x f).length < hw then none
    else some ((aeFifo x f).take hw,
      if f = 1 then { x with fifoA := x.fifoA.drop hw } else { x with fifoB := x.fifoB.drop hw })

/-! ### Scores (R116, R117, R120, R122) -/

/-- Key elements as integers. -/
def keyInts (bs : List Byte) : List Int := bs.map fun b => b.toInt

/-- Whether key position `p` is excluded from a row (R122). -/
def excluded (r : Row) (p : Nat) : Bool :=
  let inTree := decide (r.treeBase ≤ p) && !(decide (p - r.treeBase < 16) && r.anc.testBit (p - r.treeBase))
  !(decide (r.posLo ≤ p) && decide (p ≤ r.posHi)) || inTree

/-- The partial that lane `j` of a row forms of a key element (R116); lanes 128 to 255 are those of a ganged pair's second
row. -/
def lanePart (x : Tile) (r j : Nat) (k : Int) : Int :=
  digitProduct (tabGet (rowAt x (r + j / 128)).q (j % 128) 0).toInt k

/-- The lanes that deliver to a row's skew entries: 128, or 256 for a ganged pair (R119). -/
def rowLanes (w : Row) : Nat := if w.gang then 256 else 128

/-- Lane `j` delivers the partial `v` of key `n` to a row's skew entry, which its first partial takes (R118, R119). -/
def takePart (w : Row) (n j : Nat) (v : Int) : Row :=
  let e := (w.skew.find? fun e => e.tag == n).getD ⟨n, 0, []⟩
  { w with skew := (w.skew.filter fun d => d.tag != n) ++ [⟨n, e.lanes ||| 2 ^ j, tabSet e.parts j v 0⟩] }

/-- Whether every lane of the row has delivered its partial of key `n` (R119, R120). -/
def keyWhole (w : Row) (n : Nat) : Bool := w.skew.any fun e => e.tag == n && e.lanes == 2 ^ rowLanes w - 1

/-- The score of a dot product (R120). -/
def scoreOf (dot : Int) (sk : Word) (qexp : Int) : Word := fpScale (fpMul (fpOfInt dot) sk) qexp

/-- Segments whose stored count byte differs from the true one (R117). -/
def badCounts (x : Tile) (meta' : Nat) (key : List Int) : List Nat :=
  (List.range (key.length / 16)).filter fun g =>
    (stRead x (meta' + 8 + g) 1) != [BitVec.ofNat 8 (countByte ((key.drop (16 * g)).take 16))]

/-- The exact sum of the partials that a row's skew entry collected for key `n` (R120). -/
def skewSum (w : Row) (n : Nat) : Int :=
  ((w.skew.find? fun e => e.tag == n).map fun e => (e.parts.map Prod.snd).sum).getD 0

/-- The score of key `n` of a row: its sum scaled (R120). -/
def rowScore (w : Row) (n : Nat) (sk : Word) : Word := scoreOf (skewSum w n) sk w.qexp

/-- The join takes a key's sum from one row's skew entry, which is then free, and writes its score and mask bit (R119,
R120). -/
def scoreRow (x : Tile) (r b n pos : Nat) (sk : Word) : Tile :=
  let v := rowScore (rowAt x r) n sk
  modRow x r fun w0 =>
    let w := { w0 with skew := w0.skew.filter fun e => e.tag != n }
    let w1 := modBuf w b fun c => { c with ents := tabSet c.ents n v 0, mask := tabSet c.mask n (excluded w pos) false }
    { w1 with nf := w.nf || fpNonfinite v || fpNonfinite sk }

/-! ### Softmax (R121) -/

/-- The LP word of a score (Table 5-3); 0x8000 is Z. -/
def lpWord (m x : Word) (masked : Bool) : Word :=
  match fpRoundInt (fpMul (fpSub m x) 0x43800000) with
  | some u => if masked || decide (16384 ≤ u) then 0x8000 else BitVec.ofNat 32 u.toNat
  | none => 0x8000

/-- Δ and m after a BLOCK over unmasked scores. -/
def blockMax (m : Option Word) (xs : List Word) : Option Word × Nat :=
  let bmax := xs.foldl fpMax 0xFF800000
  if bmax = 0xFF800000 then (m, 0)
  else
    let c := match fpCeil bmax with
      | some z => fpOfInt z
      | none => bmax
    match m with
    | none => (some c, 0)
    | some v =>
      let n := fpMax v c
      (some n, match fpRoundInt (fpSub n v) with
        | some d => d.toNat
        | none => 0)

/-- BLOCK on one row, the terms of l added in the order `ord` gives (R69, R121). -/
def blockRow (ord : List Word → List Word) (w : Row) (b : Nat) : Row :=
  let c := bufOf w b
  let es := (List.range c.nkeys).map fun n => (n, tabGet c.ents n 0, tabGet c.mask n false)
  let (m, d) := blockMax w.m ((es.filter fun e => !e.2.2).map fun e => e.2.1)
  let lps := es.map fun e => (e.1, match m with
    | some mv => lpWord mv e.2.1 e.2.2
    | none => (0x8000 : Word))
  let terms := (lps.filter fun e => e.2 != 0x8000).map fun e => antilog false (-(e.2.toNat : Int))
  let l := (ord terms).foldl fpAdd (fpScale w.l (-(d : Int)))
  let w1 := modBuf w b fun c =>
    { c with st := .logp, delta := d, order := w.blocks, ents := lps.foldl (fun t e => tabSet t e.1 e.2 0) c.ents }
  { w1 with m := m, l := l, blocks := w.blocks + 1, nf := w.nf || fpNonfinite l }

/-! ### Values (R123, R125) -/

/-- The rescale of a PV's rows by their buffers' Δ (R123). -/
def rescaleRow (x : Tile) (b r : Nat) : Tile :=
  let d := (bufOf (rowAt x (softOf x r)) b).delta
  modRow x r fun w => { w with acc := (w.acc.map fun e => (e.1, fpScale e.2 (-(d : Int)))).filter fun e => e.2 != 0 }

/-- One value element's term, none when nothing is added (R125). -/
def pvTerm (lp : Word) (ls : Option Int) (neg : Bool) (v : Int) : Option Word :=
  match ls with
  | none => none
  | some l =>
    if lp = 0x8000 ∨ v = 0 then none
    else some (antilog (neg != decide (v < 0)) (l - (lp.toNat : Int) + aeLv v.natAbs))

/-- One key's values into one row (R125). -/
def pvKey (x : Tile) (b n r : Nat) (sv : Word) (vals : List Int) : Tile :=
  let lp := tabGet (bufOf (rowAt x (softOf x r)) b).ents n 0
  let ls := logScale sv
  let neg := decide (2 ^ 31 ≤ sv.toNat)
  let vs := if (rowAt x r).gang then (if r % 2 = 0 then vals.take 128 else vals.drop 128) else vals
  modRow x r fun w =>
    let acc := (vs.zipIdx).foldl (fun t e => match pvTerm lp ls neg e.1 with
      | none => t
      | some term => tabMod t e.2 0 fun a => fpAdd a term) w.acc
    { w with acc := acc, nf := w.nf || fpNonfinite sv || acc.any fun e => fpNonfinite e.2 }

/-- Take a PV's keys as far as its feed has them: (key number, metadata address, bytes). -/
def pvTake : Nat → Tile → Infl → List (Nat × List Byte) → Tile × Infl × List (Nat × List Byte)
  | 0, x, i, acc => (x, i, acc)
  | f + 1, x, i, acc =>
    match aeFeed i.op with
    | none => (x, i, acc)
    | some (_, n, _, _) =>
      if n ≤ i.prog then (x, i, acc)
      else match takeKey x i i.prog with
        | none => (x, i, acc)
        | some (bs, y) => pvTake f y { i with prog := i.prog + 1 } (acc ++ [(i.prog, bs)])

/-- The accumulators and denominators of a tile's rows that are not finite. -/
def nfCount (x : Tile) : Nat :=
  (x.rows.map fun e => (e.2.acc.filter fun a => fpNonfinite a.2).length + (if fpNonfinite e.2.l then 1 else 0)).sum

/-- Apply the values a started PV finds in its feed, in a free order (R69); the SVs met that are not finite, and the
accumulators that become so, count in NONFINITE (Table 5-9). -/
def pvFeed (s : State) (t : Nat) (i : Infl) : State :=
  match i.op with
  | .pv m b _ _ _ _ ma =>
    let (x, j, ks) := pvTake 64 (tileOf s t) i []
    let (ord, s1) := shuffle s ks
    let y := ord.foldl (fun x k =>
      (rowsFor s1 t x m).foldl (fun x r => pvKey x b k.1 r (stWord x (ma * 64 + 32 * k.1 + 4)) (keyInts k.2)) x) x
    let y1 := { y with inflight := listUpd (fun e => e.tag == i.tag) (fun _ => j) y.inflight }
    let svs := (ks.filter fun k => fpNonfinite (stWord x (ma * 64 + 32 * k.1 + 4))).length
    countNonfinite (setTile s1 t y1) t 0x60 (svs + (nfCount y1 - nfCount (tileOf s t)))
  | _ => s

/-- The lanes of a QK's rows deliver their partials of a key, a lane past the key's elements a zero (R116, R119). -/
def depositKey (x : Tile) (rows : List Nat) (n : Nat) (key : List Int) : Tile :=
  rows.foldl (fun x r => modRow x r fun w =>
    (List.range (rowLanes w)).foldl (fun w j => takePart w n j (lanePart x r j (key.getD j 0))) w) x

/-- The stored counts of a recoded key that are wrong (R117): one KV_COUNT record per tile per step, which names the
lowest segment of the first key, and KV_COUNT of the step record. -/
def countKey (s : State) (t pos meta' : Nat) (key : List Int) : State :=
  match badCounts (tileOf s t) meta' key with
  | [] => s
  | g :: r => tileErrOnce (modCounters s t fun c => { c with kvCount := satAdd 16 c.kvCount (r.length + 1) }) t .kvCount
      0x40 0 [t, pos, g]

/-- The lanes of a started QK run on over the keys its feed has, at most 16 ahead of the join (R118), with fuel. Which lane
is ahead of which within a key is timing (notes/assumptions/12.md). -/
def qkFeed : Nat → State → Nat → Nat → State
  | 0, s, _, _ => s
  | f + 1, s, t, tag =>
    match inflOf (tileOf s t) tag with
    | none => s
    | some i =>
      match i.op with
      | .qk m _ n pos0 _ _ _ ma =>
        if n ≤ i.fed ∨ i.prog + 16 ≤ i.fed then s
        else match takeKey (tileOf s t) i i.fed with
          | none => s
          | some (bs, x) =>
            let key := keyInts bs
            let y := depositKey x (softRows x (rowsFor s t x m)) i.fed key
            let s1 := modInfl (setTile s t y) t tag fun j => { j with fed := j.fed + 1 }
            qkFeed f (countKey s1 t (pos0 + i.fed) (ma * 64 + 32 * i.fed) key) t tag
      | _ => s

/-! ### Export (R128) -/

/-- An export record (Table 5-5) of a row. -/
def exportBytes (x : Tile) (r : Nat) : List Byte :=
  let w := rowAt x r
  let h := rowAt x (softOf x r)
  let nf := w.nf || h.nf || (w.gang && (rowAt x (softOf x r + 1)).nf)
  let m := h.m.getD 0xFF800000
  let l : Word := if h.m.isNone then 0 else h.l
  let acc (j : Nat) : Word := if nf then fpNaN else if h.m.isNone then 0 else tabGet w.acc j 0
  let fl : Nat := (if nf then 1 else 0) + (if w.gang && r % 2 == 1 then 2 else 0)
  leBytes 4 (if nf then fpNaN else m).toNat ++ leBytes 4 (if nf then fpNaN else l).toNat ++ leBytes 1 fl ++
    List.replicate 55 (0 : Byte) ++ (List.range 128).flatMap fun j => leBytes 4 (acc j).toNat

/-- The store accesses of an AE instruction, metadata and STORE feeds among them. -/
def aeAccess (s : State) (t : Nat) (op : Op) : List Access :=
  match op with
  | .softInit m a g => [⟨a * 64, (initRecs s t m a g).length * 320, false⟩]
  | .softExport m a => [⟨a * 64, (maskBits m).length * 576, true⟩]
  | .qk _ _ n _ hwc f a ma | .pv _ _ n hwc f a ma =>
    (if f = 0 then [⟨a * 64, n * headWidth hwc, false⟩] else []) ++ [⟨ma * 64, n * 32, false⟩]
  | _ => []

end Sys2Proof.Machine
end

