-- ==== Sys2Proof/Machine/VecOps.lean ====
section
/-! DEFINITION. What the vector unit computes: lane operations, reductions, norms, rotations, quantizers, candidate
lists and sampling (R143 to R159, R222, R223, R320 to R323). -/

namespace Sys2Proof.Machine

/-- A VEC instruction's shape. -/
structure VecShape where
  a     : Nat
  b     : Nat
  d     : Nat
  n     : Nat
  ncols : Nat
  fin   : Nat
  fout  : Nat

/-- Raw element `e` of column `c` of an operand at granule `g` in format `f` (R222). -/
def elemRaw (x : Tile) (g ncols f e c : Nat) : Nat := leNat (stRead x (g * 64 + (e * ncols + c) * fmtWidth f) (fmtWidth f))

/-- An element as binary32. -/
def elemF (x : Tile) (g ncols f e c : Nat) : Word := fmtToF f (elemRaw x g ncols f e c)

/-- Elements 0 to n − 1 of a column. -/
def colF (x : Tile) (v : VecShape) (c : Nat) : List Word := (List.range v.n).map fun e => elemF x v.a v.ncols v.fin e c

/-- Write elements at granule `g`, row by row, from a function of element and column. -/
def putElems (x : Tile) (g n ncols f : Nat) (val : Nat → Nat → Nat) : Tile :=
  stWrite x (g * 64) ((List.range n).flatMap fun e => (List.range ncols).flatMap fun c => leBytes (fmtWidth f) (val e c))

/-- A binary32 result in the output format; an integer that does not fit takes a free value. -/
def outF (v : VecShape) (free w : Word) : Nat := fToFmt v.fout w free

/-- The free word of element (e, c) of a block of draws from `k`. -/
def freeAt (k ncols e c : Nat) : Word := Sys2Proof.Config.freeWord (k + e * ncols + c)

/-! ### Lane operations (R143 to R145, Table 9-10) -/

/-- A comparison by its AUX code: 0 EQ, 1 LT, 2 LE, 3 NE. -/
def cmpF (k : Nat) (x y : Word) : Bool :=
  match k with
  | 0 => fpEq x y
  | 1 => fpLt x y
  | 2 => fpLt x y || fpEq x y
  | _ => !fpEq x y

/-- The binary32 result of a lane operation on x and y. -/
def laneF (func aux : Nat) (x y free : Word) : Word :=
  match func with
  | 0x00 => fpAdd x y
  | 0x01 => fpSub x y
  | 0x02 => fpMin x y
  | 0x03 => fpMax x y
  | 0x04 => fpAbs x
  | 0x05 => fpNeg x
  | 0x09 => fpScale x (sInt 8 aux)
  | 0x0A => fpMul x y
  | 0x0B => let m := fpMax 0 x; fpMul m m
  | 0x10 => fpRcp x
  | 0x11 => fpRsqrt x free
  | 0x12 => fpExp2 x free
  | 0x13 => fpLog2 x free
  | _ => x

/-- A mask element that is set: its bits are not stated, only that they are not those of a clear one. -/
def maskSet (f : Nat) (free : Word) : Nat :=
  let v := free.toNat % 256 ^ fmtWidth f
  if v = 0 then 1 else v

/-- VEC.OP on one tile's operands; `k` numbers its free values. SEL takes x where the mask is not zero, and SINCOS's result
is N cosines, then N sines (notes/assumptions/53.md). -/
def vecOpRun (x : Tile) (v : VecShape) (func aux k : Nat) : Tile :=
  let y (e c : Nat) : Word := elemF x v.b v.ncols v.fin e c
  match func with
  | 0x06 => putElems x v.d v.n v.ncols v.fout fun e c =>
      if cmpF aux (elemF x v.a v.ncols v.fin e c) (y e c) then maskSet v.fout (freeAt k v.ncols e c) else 0
  | 0x07 => putElems x v.d v.n v.ncols v.fout fun e c =>
      let r := if elemRaw x v.b v.ncols v.fin e c ≠ 0 then elemRaw x v.a v.ncols v.fin e c
        else elemRaw x v.b v.ncols v.fin (v.n + e) c
      carryFmt v.fin v.fout r (freeAt k v.ncols e c)
  | 0x08 => putElems x v.d v.n v.ncols v.fout fun e c =>
      carryFmt v.fin v.fout (elemRaw x v.a v.ncols v.fin e c) (freeAt k v.ncols e c)
  | 0x14 => putElems x v.d (2 * v.n) v.ncols v.fout fun e c =>
      let ph := elemRaw x v.a v.ncols v.fin (e % v.n) c
      let fr := freeAt k v.ncols e c
      outF v fr (if e < v.n then fpCos ph fr else fpSin ph fr)
  | _ => putElems x v.d v.n v.ncols v.fout fun e c =>
      let fr := freeAt k v.ncols e c
      outF v fr (laneF func aux (elemF x v.a v.ncols v.fin e c) (y e c) fr)

/-! ### Reductions (R148 to R151) -/

/-- The operation of a reduction: 0 sum, 1 max, 2 min. -/
def redF (func : Nat) : Word → Word → Word := if func = 0 then fpAdd else if func = 1 then fpMax else fpMin

/-- The identity of a reduction (R149). -/
def redId (func : Nat) : Word := if func = 0 then 0 else if func = 1 then 0xFF800000 else 0x7F800000

/-- One level of the pairwise tree. -/
def pairUp (f : Word → Word → Word) : List Word → List Word
  | a :: b :: r => f a b :: pairUp f r
  | l => l

/-- The fixed pairwise tree over 64 lanes (R149). -/
def tree64 (f : Word → Word → Word) (l : List Word) : Word := ((List.range 6).foldl (fun l _ => pairUp f l) l).headD 0

/-- XRED (R149). -/
def xredRun (x : Tile) (v : VecShape) (func mask k : Nat) : Tile :=
  let tot (e : Nat) : Word := tree64 (redF func) ((List.range 64).map fun c =>
    if mask.testBit c && decide (c < v.ncols) then elemF x v.a v.ncols v.fin e c else redId func)
  (List.range v.n).foldl (fun y e =>
    let r := tot e
    ((List.range v.ncols).filter mask.testBit).foldl (fun y c =>
      stWrite y (v.d * 64 + (e * v.ncols + c) * fmtWidth v.fout) (leBytes (fmtWidth v.fout) (outF v (freeAt k v.ncols e c) r))) y) x

/-- RED over partials in an order (R150). -/
def redRun (x : Tile) (v : VecShape) (func : Nat) (ord : List Nat) (k : Nat) : Tile :=
  let sz := ceilDiv (v.n * v.ncols * fmtWidth v.fin) 64
  putElems x v.d v.n v.ncols v.fout fun e c =>
    match ord.map fun p => elemF x (v.a + p * sz) v.ncols v.fin e c with
    | [] => 0
    | w :: r => outF v (freeAt k v.ncols e c) (r.foldl (redF func) w)

/-- A word of an export record. -/
def recW (x : Tile) (g off : Nat) : Word := stWord x (g * 64 + off)

/-- MERGE of one row's parts (R128, R151): the 128 outputs and whether NF was met. -/
def mergeRow (x : Tile) (gs : List Nat) : List Word × Bool :=
  let nf := gs.any fun g => (stRead x (g * 64 + 8) 1).any fun b => b.toNat % 2 == 1
  let ps := gs.filter fun g => recW x g 0 != 0xFF800000
  let m := (ps.map fun g => recW x g 0).foldl fpMax 0xFF800000
  let sc (g : Nat) (w : Word) : Word := match fpRoundInt (fpSub (recW x g 0) m) with
    | some d => fpScale w d
    | none => w
  let l := match ps with
    | [] => 0
    | g :: r => r.foldl (fun a g => fpAdd a (sc g (recW x g 4))) (sc g (recW x g 4))
  let r := fpRcp l
  ((List.range 128).map fun j =>
    if nf then fpNaN
    else match ps with
      | [] => 0
      | g :: q => fpMul (q.foldl (fun a g => fpAdd a (sc g (recW x g (64 + 4 * j)))) (sc g (recW x g (64 + 4 * j)))) r, nf)

/-- MERGE (R151): parts in an order; the tile and the events counted in NONFINITE. -/
def mergeRun (x : Tile) (v : VecShape) (ord : List Nat) : Tile × Nat :=
  (List.range v.n).foldl (fun acc i =>
    let (os, nf) := mergeRow x (ord.map fun p => v.a + (p * v.n + i) * 9)
    (stWrite acc.1 ((v.d + i * 8) * 64) (os.flatMap fun w => leBytes 4 w.toNat), acc.2 + (if nf then 1 else 0))) (x, 0)

/-! ### Norms and rotations (R146, R147) -/

/-- NORM's partial sums (R146 stage 1): the sum of squares, then for LayerNorm the sum; and how many are not finite (R67). -/
def normPart (x : Tile) (v : VecShape) (layer : Bool) (k : Nat) : Tile × Nat :=
  let part (e c : Nat) : Word :=
    let xs := colF x v c
    if e = 0 then (xs.map fun a => fpMul a a).foldl fpAdd 0 else xs.foldl fpAdd 0
  let rows := if layer then 2 else 1
  (putElems x v.d rows v.ncols v.fout fun e c => outF v (freeAt k v.ncols e c) (part e c),
    ((List.range rows).map fun e => ((List.range v.ncols).filter fun c => fpNonfinite (part e c)).length).sum)

/-- NORM's application (R146 stages 3, 4) with totals at granule `tot`: the record at B holds γ, β, then ε and D. LayerNorm's
variance is the mean square less the square of the mean (notes/assumptions/53.md). -/
def normApply (x : Tile) (v : VecShape) (layer : Bool) (tot k : Nat) : Tile × Nat :=
  let wd (i : Nat) : Word := stWord x (v.b * 64 + 4 * i)
  let eps := wd (2 * v.n)
  let rd := fpRcp (wd (2 * v.n + 1))
  let res (e c : Nat) : Word :=
    let mean := if layer then fpMul (stWord x (tot * 64 + 4 * (v.ncols + c))) rd else 0
    let sq := fpMul (stWord x (tot * 64 + 4 * c)) rd
    let var := if layer then fpSub sq (fpMul mean mean) else sq
    let r := fpRsqrt (fpAdd var eps) (freeAt k v.ncols v.n c)
    let x0 := elemF x v.a v.ncols v.fin e c
    let y := fpMul (fpMul (if layer then fpSub x0 mean else x0) r) (wd e)
    if layer then fpAdd y (wd (v.n + e)) else y
  let bad := ((List.range v.n).map fun e => ((List.range v.ncols).filter fun c => fpNonfinite (res e c)).length).sum
  (putElems x v.d v.n v.ncols v.fout fun e c => outF v (freeAt k v.ncols e c) (res e c), bad)

/-- ROPE (R147): `half` pairs (i, i + N/2), otherwise (2i, 2i + 1). -/
def ropeRun (x : Tile) (v : VecShape) (half : Bool) (k : Nat) : Tile :=
  let h := v.n / 2
  putElems x v.d v.n v.ncols v.fout fun e c =>
    let i := if half then e % h else e / 2
    let lo := if half then i else 2 * i
    let hi := if half then i + h else 2 * i + 1
    let ph := (stWord x (v.b * 64 + 4 * c)).toNat * (stWord x (v.b * 64 + 256 + 4 * i)).toNat % 2 ^ 32
    let cs := fpCos ph (freeAt k v.ncols (2 * i) c)
    let sn := fpSin ph (freeAt k v.ncols (2 * i + 1) c)
    let a := elemF x v.a v.ncols v.fin lo c
    let b := elemF x v.a v.ncols v.fin hi c
    outF v (freeAt k v.ncols (v.n + e) c)
      (if e = lo then fpSub (fpMul a cs) (fpMul b sn) else fpAdd (fpMul a sn) (fpMul b cs))

/-! ### Quantizers (R72, R73, R152, R153) -/

/-- An integer limited to ± top. -/
def clampInt (top z : Int) : Int := if z > top then top else if z < -top then -top else z

/-- A rounded product clamped to ± top (R72, R73): an infinite one to its limit, a NaN a free value inside. -/
def clampOf (top : Int) (round : Word → Option Int) (free w : Word) : Int :=
  match fpVal w with
  | .inf s => if s then -top else top
  | _ => clampInt top ((round w).getD free.toInt)

/-- s and r of R72 for an amax, zero for a zero or non-finite one. -/
def quantScale (amax : Word) : Word × Option Word :=
  if fpIsZero amax || fpNonfinite amax then (0, none) else (fpDiv amax 0x42FE0000, some (fpDiv 0x42FE0000 amax))

/-- One element to INT8 by NEAREST (R72, R73). -/
def q8 (r : Option Word) (free x : Word) : Int :=
  match r with
  | none => 0
  | some r => clampOf 127 fpRoundInt free (fpMul x r)

/-- One element to INT8 by STOCHASTIC (R73); `n` is the 16-bit draw. -/
def q8s (r : Option Word) (n : Nat) (free x : Word) : Int :=
  match r with
  | none => 0
  | some r => clampOf 127 fpFloor free (fpAdd (fpMul x r) (fpScale (fpOfInt n) (-16)))

/-- The byte of an INT8. -/
def i8 (z : Int) : Byte := BitVec.ofInt 8 z

/-- QUANT INT8 (R72): TBUILD's packed block at D, then the columns' scales at the next granule. -/
def quantInt8 (x : Tile) (v : VecShape) (amax k : Nat) : Tile × Nat :=
  let am (c : Nat) : Word := stWord x (amax * 64 + 4 * c)
  let groups := ceilDiv v.n 5
  let bytes := (List.range groups).flatMap fun g => (List.range v.ncols).flatMap fun c => (List.range 5).map fun i =>
    let e := 5 * g + i
    if v.n ≤ e then (0 : Byte) else i8 (q8 (quantScale (am c)).2 (freeAt k v.ncols e c) (elemF x v.a v.ncols v.fin e c))
  let y := stWrite x (v.d * 64) bytes
  let sc := (List.range v.ncols).flatMap fun c => leBytes 4 (quantScale (am c)).1.toNat
  (stWrite y ((v.d + ceilDiv (5 * groups * v.ncols) 64) * 64) sc, ((List.range v.ncols).filter fun c => fpNonfinite (am c)).length)

/-- The largest magnitude of a column. -/
def colMax (xs : List Word) : Word := (xs.map fpAbs).foldl fpMax 0

/-- log₂(e) / √HW as binary32 (R115). -/
def queryFactor (hw : Nat) : Word := fpRound false (isqrtW 62 (2038503549 * 2 ^ 80 / (hw * 979405174))) (-40)

/-- The key positions a row attends (Table 5-1): lowest, highest, the first candidate key, the ancestors. -/
structure RowPos where
  lo   : Nat
  hi   : Nat
  base : Nat
  anc  : Nat

/-- The row records of one column's head with the largest magnitude `amax` (R152): q, QEXP, the positions, zero reserved
bytes. A non-finite amax writes QEXP 0 (notes/assumptions/53.md). -/
def queryRecs (xs : List Word) (amax : Word) (p : RowPos) (k : Nat) : List Byte × Nat :=
  let bad := fpNonfinite amax
  let qe : Int := if fpIsZero amax || bad then 0 else max (-128) (min 127 (fpExpo amax - 14))
  let q (j : Nat) : Int := match xs[j]? with
    | none => 0
    | some a => if fpIsZero amax || bad then 0 else clampOf 32767 fpRoundInt (Sys2Proof.Config.freeWord (k + j)) (fpScale a (-qe))
  let lanes (o : Nat) : List Byte := (List.range 128).flatMap fun j => leBytes 2 (BitVec.ofInt 16 (q (o + j))).toNat
  let head := [BitVec.ofInt 8 qe, 0, 0, 0] ++ leBytes 4 p.lo ++ leBytes 4 p.hi ++ leBytes 4 p.base ++ leBytes 2 p.anc ++
    List.replicate 46 (0 : Byte)
  let first := lanes 0 ++ head
  (if 128 < xs.length then first ++ lanes 128 ++ List.replicate 64 (0 : Byte) else first, if bad then 1 else 0)

/-- QUANT QUERY (R152, Table 9-10): the granule `amax` holds each column's largest magnitude before the factor, which scales
it as it scales the elements (notes/assumptions/20.md); `pos` gives a column's positions. -/
def quantQuery (x : Tile) (v : VecShape) (amax : Nat) (pos : Nat → RowPos) (k : Nat) : Tile × Nat :=
  let f := fpMul (queryFactor v.n) (Sys2Proof.Config.queryTemp x.version)
  let rs := (List.range v.ncols).map fun c =>
    queryRecs ((colF x v c).map fun a => fpMul a f) (fpMul (stWord x (amax * 64 + 4 * c)) f) (pos c) (k + c * v.n)
  (stWrite x (v.d * 64) (rs.flatMap Prod.fst), (rs.map Prod.snd).sum)

/-- QUANT KV (R73, R153, R339, R344): one head's keys or values at D, column n at n × HW, then the columns' metadata records,
with POS, VALID and CAND; `draw` gives the 16-bit draw of a column and element under STOCHASTIC, `key` a column's token position
and whether it is a candidate, none for a padding column, which writes nothing. -/
def quantKv (x : Tile) (v : VecShape) (kv : Nat) (draw : Nat → Nat → Option Nat) (key : Nat → Option (Nat × Bool)) (k : Nat) :
    Tile × Nat :=
  let base := (v.d + ceilDiv (v.n * v.ncols) 64) * 64
  let one (y : Tile) (c : Nat) : Tile :=
    match key c with
    | none => y
    | some (pos, cand) =>
      let xs := colF x v c
      let (sv, r) := quantScale (colMax xs)
      let qs := (xs.zipIdx).map fun e =>
        let fr := freeAt k v.ncols e.2 c
        match draw c e.2 with
        | some n => q8s r n fr e.1
        | none => q8 r fr e.1
      let a := base + 32 * c
      let y1 := stWrite (stWrite y (v.d * 64 + c * v.n) (qs.map i8)) (a + 4 * kv) (leBytes 4 sv.toNat)
      let y2 := stWrite y1 (a + 24) (leBytes 4 pos ++ leBytes 1 (1 + 2 * (if cand then 1 else 0)) ++ leBytes 3 0)
      if kv = 0 then stWrite y2 (a + 8) ((List.range (v.n / 16)).map fun g => BitVec.ofNat 8 (countByte ((qs.drop (16 * g)).take 16)))
      else y2
  ((List.range v.ncols).foldl one x,
    ((List.range v.ncols).filter fun c => (key c).isSome && fpNonfinite (colMax (colF x v c))).length)

/-! ### Column records and candidates (R157 to R159, Table 9-19) -/

/-- What sampling reads of a column record. -/
structure ColRec where
  slot  : Nat
  kind  : Nat
  node  : Nat
  pos   : Nat
  temp  : Word
  topK  : Nat
  topP  : Word
  emit  : Bool

/-- Column record `c` of a table at granule `g` (Table 9-19). -/
def colRec (x : Tile) (g c : Nat) : ColRec :=
  let a := g * 64 + 64 * c
  let n (o w : Nat) : Nat := leNat (stRead x (a + o) w)
  ⟨n 0 2, n 2 1, n 3 1, n 4 4, BitVec.ofNat 32 (n 8 4), n 12 2, BitVec.ofNat 32 (n 16 4), n 24 1 % 2 == 1⟩

/-- Candidates a column keeps: one for greedy decoding, TOP_K otherwise (R157). -/
def keepOf (r : ColRec) : Nat := if fpIsZero r.temp then 1 else r.topK

/-- Entries per column of a candidate list: the most any of its columns keeps. -/
def listDepth (x : Tile) (g ncols : Nat) : Nat := ((List.range ncols).map fun c => keepOf (colRec x g c)).foldl max 1

/-- A logit as it ranks: NaN as −Inf (R159). -/
def rankF (w : Word) : Word := if fpIsNaN w then 0xFF800000 else w

/-- Whether a candidate (token, logit) ranks before another: the larger logit, then the lower token (R158). -/
def ranksFirst (a b : Nat × Word) : Bool :=
  fpLt (rankF b.2) (rankF a.2) || (!fpLt (rankF a.2) (rankF b.2) && decide (a.1 ≤ b.1))

/-- The top `k` of candidates in rank order. -/
def topOf (k : Nat) (l : List (Nat × Word)) : List (Nat × Word) := (l.mergeSort ranksFirst).take k

/-- An unused entry of a candidate list. -/
def noToken : Nat := 0xFFFFFFFF

/-- Column `c` of a candidate list at granule `g` (notes/assumptions/9.md). -/
def readCands (x : Tile) (g depth ncols c : Nat) : List (Nat × Word) :=
  ((List.range depth).map fun e =>
    let a := g * 64 + (e * ncols + c) * 8
    (leNat (stRead x a 4), stWord x (a + 4))).filter fun p => p.1 != noToken

/-- Write candidate lists, one per column. -/
def writeCands (x : Tile) (g depth ncols : Nat) (ls : List (List (Nat × Word))) : Tile :=
  stWrite x (g * 64) ((List.range depth).flatMap fun e => (List.range ncols).flatMap fun c =>
    match (ls.getD c [])[e]? with
    | some p => leBytes 4 p.1 ++ leBytes 4 p.2.toNat
    | none => leBytes 4 noToken ++ leBytes 4 0)

/-- TOPK (R158 stage 1): local over N logits a column, or combining N lists. -/
def topkRun (x : Tile) (t : Nat) (v : VecShape) (combine : Bool) : Tile × Nat :=
  let depth := listDepth x v.b v.ncols
  let size := ceilDiv (depth * v.ncols * 8) 64
  let base := Sys2Proof.Config.vocabBase t x.version
  let col (c : Nat) : List (Nat × Word) :=
    if combine then (List.range v.n).flatMap fun p => readCands x (v.a + p * size) depth v.ncols c
    else (List.range v.n).map fun e => (base + e, elemF x v.a v.ncols v.fin e c)
  let ls := (List.range v.ncols).map fun c => topOf (keepOf (colRec x v.b c)) (col c)
  let bad := if combine then 0 else
    ((List.range v.ncols).map fun c => ((col c).filter fun p => fpNonfinite p.2).length).sum
  (writeCands x v.d depth v.ncols ls, bad)

/-! ### Sampling (R157 to R159, R322) -/

/-- log₂(e) as binary32. -/
def log2e : Word := 0x3FB8AA3B
/-- ln 2 as binary32. -/
def ln2 : Word := 0x3F317218

/-- A uniform variate (w + 0.5) × 2⁻³² as binary32 (R154): to nearest even, the largest binary32 below 1 where that would
be 1, for a variate lies strictly between 0 and 1 (notes/assumptions/53.md). -/
def uniform (w : Word) : Word :=
  let u := fpRound false (2 * w.toNat + 1) (-33)
  if u = 0x3F800000 then 0x3F7FFFFF else u

/-- −ln of a value by LOG2 (R145). -/
def negLn (x free : Word) : Word := fpNeg (fpMul (fpLog2 x free) ln2)

/-- The Gumbel draw g = −ln(−ln u) (R158 stage 4). -/
def gumbel (u f1 f2 : Word) : Word := negLn (negLn u f1) f2

/-- A kept candidate: token, y and probability. -/
structure Kept where
  token : Nat
  y     : Word
  p     : Word

/-- The shortest prefix whose cumulative probability reaches TOP_P (R158 stage 3). -/
def prefixOf (topP : Word) : Word → List Kept → List Kept
  | _, [] => []
  | s, k :: r =>
    let s1 := fpAdd s k.p
    k :: (if fpLt s1 topP then prefixOf topP s1 r else [])

/-- A sum of terms in a free order (R69), numbered from `k`. -/
def freeSum (k : Nat) (ws : List Word) : Word := (freeOrder k [] ws).foldl fpAdd 0

/-- The kept candidates of a column (R158 stages 2 and 3, R159); `fr` numbers EXP2's free values and the normalising sum's
order. -/
def keptOf (r : ColRec) (cs : List (Nat × Word)) (fr : Nat) : List Kept :=
  let infs := cs.filter fun c => c.2 == 0x7F800000
  if !infs.isEmpty then infs.map fun c => ⟨c.1, 0, fpDiv 0x3F800000 (fpOfInt infs.length)⟩
  else
    let rt := fpRcp r.temp
    let ys := cs.map fun c => (c.1, fpMul (rankF c.2) rt)
    let top := (ys.headD (0, 0)).2
    let es := (ys.zipIdx).map fun e => (e.1.1, e.1.2, fpExp2 (fpMul (fpSub e.1.2 top) log2e) (Sys2Proof.Config.freeWord (fr + e.2)))
    let rs := fpRcp (freeSum fr (es.map fun e => e.2.2))
    prefixOf r.topP 0 (es.map fun e => ⟨e.1, e.2.1, fpMul e.2.2 rs⟩)

/-- The kept token with the largest y + g (R158 stage 4); a token without mass is not taken. -/
def pickToken (ks : List Kept) (g : Nat → Word) : Nat :=
  let live := ks.filter fun k => !fpIsZero k.p
  match live with
  | [] => (ks.map Kept.token).headD 0
  | k :: r =>
    (r.foldl (fun (b : Nat × Word) k =>
      let v := fpAdd k.y (g k.token)
      if fpLt b.2 v || (!fpLt v b.2 && decide (k.token < b.1)) then (k.token, v) else b) (k.token, fpAdd k.y (g k.token))).1

/-- Take a token's mass away and renormalise (R322), the sum in a free order. -/
def reject (ks : List Kept) (token fr : Nat) : List Kept :=
  let z := ks.map fun k => if k.token = token then { k with p := 0 } else k
  let rs := fpRcp (freeSum fr (z.map Kept.p))
  z.map fun k => { k with p := if fpIsZero k.p then 0 else fpMul k.p rs }

/-- Try the children of a sampled column in order (R322): the accepted one, or what is left of p. -/
def tryChildren (greedy : Bool) (key : List Word) (pos : Nat) : Nat → List (Nat × Node) → List Kept → Option Nat × List Kept
  | _, [], ks => (none, ks)
  | fr, c :: r, ks =>
    if greedy then
      if ((ks.map Kept.token).head?) == some c.2.token then (some c.1, ks) else tryChildren greedy key pos fr r ks
    else
      let u := uniform (chachaWord key 3 0 ((pos + 1) * 16 + c.1) 0)
      let p := ((ks.find? fun k => k.token == c.2.token).map Kept.p).getD 0
      if fpLt u (fpDiv p c.2.q) then (some c.1, ks) else tryChildren greedy key pos (fr + 2048) r (reject ks c.2.token fr)

/-- An emission record (Table 13-2). -/
def emitBytes (token : Nat) (acc : Option Nat) (nonfinite : Bool) (col : Nat) : List Byte :=
  leBytes 4 (if acc.isSome then 0 else token % 2 ^ 18) ++ leBytes 1 (acc.getD 0xFF) ++
    leBytes 1 (if nonfinite then 3 else 1) ++ leBytes 2 col

end Sys2Proof.Machine
end

