-- ==== Sys2Proof/Machine/BandOps.lean ====
section
/-! DEFINITION. Band records, selections, audits and verdicts (R167 to R179). -/

namespace Sys2Proof.Machine

/-- A band record as its bytes stand (Table 7-2). -/
structure BandRec where
  layer : Nat
  count : Nat
  bm1   : Nat
  group : Nat
  flags : Nat
  set   : Nat
  step  : Nat
  check : Word
  head  : List Byte
  list  : List Nat
  tail  : List Byte

/-- Listed bands of a record's first bytes (COUNT and COUNT8). -/
def bandCount (bs : List Byte) : Nat := leNat ((bs.drop 2).take 1) + 256 * (leNat ((bs.drop 6).take 1) / 4 % 2)

/-- The record that some bytes begin with. -/
def bandOfBytes (bs : List Byte) : BandRec :=
  let n (o w : Nat) : Nat := leNat ((bs.drop o).take w)
  let count := bandCount bs
  ⟨n 0 2, count, n 3 1, n 4 2, n 6 1, n 7 1, n 8 4, BitVec.ofNat 32 (n 12 4), bs.take 12,
   ((bs.drop 16).take count).map BitVec.toNat,
   (bs.drop (16 + count)).take (ceilDiv (16 + count) 64 * 64 - 16 - count)⟩

/-- The record at granule `g`. -/
def bandRec (x : Tile) (g : Nat) : BandRec :=
  bandOfBytes (stRead x (g * 64) (ceilDiv (16 + bandCount (stRead x (g * 64) 8)) 64 * 64))

/-- The CRC of a record's bytes 0-11 and list. -/
def bandCrc (r : BandRec) : Word := crc32 (r.head ++ r.list.map (BitVec.ofNat 8))

/-- Bytes of a band record, padded to 64 B (R169). -/
def bandBytes (layer b group set step : Nat) (makeup dense : Bool) (list : List Nat) : List Byte :=
  let n := list.length
  let fl := (if makeup then 1 else 0) + (if dense then 2 else 0) + (if n = 256 then 4 else 0)
  let head := leBytes 2 layer ++ leBytes 1 n ++ leBytes 1 (b - 1) ++ leBytes 2 group ++ leBytes 1 fl ++ leBytes 1 set ++
    leBytes 4 step
  let ls := list.map fun i => BitVec.ofNat 8 i
  let body := head ++ leBytes 4 (crc32 (head ++ ls)).toNat ++ ls
  body ++ List.replicate (ceilDiv body.length 64 * 64 - body.length) (0 : Byte)

/-- Whether the running step of a partition takes a layer under STRICT (Table 7-1, R179). -/
def strictLayer (s : State) (p layer : Nat) : Bool :=
  ((partOf s p).exec.bind fun e => progOf s p e.version).any fun g =>
    let b := bandParams s g layer
    b.sparse == 1 && b.policy == 2

/-- The band-groups of a layer and selection set that the running version's feed entries name (Table 11-1). -/
def layerGroups (s : State) (p layer set : Nat) : List Nat :=
  match (partOf s p).exec.bind fun e => progOf s p e.version with
  | none => []
  | some g => ((g.img.feeds.flatMap fun f => feedList f.2).filterMap fun f => match f.kind with
      | .bands .. | .gather .. => if f.layer = layer ∧ f.set = set then some f.group else none
      | _ => none).eraseDups

/-- Strictly ascending. -/
def ascending : List Nat → Bool
  | a :: b :: r => decide (a < b) && ascending (b :: r)
  | _ => true

/-- The make-up budget of a group of B bands (R178). -/
def makeupBudget (b : Nat) : Nat := ceilDiv b 32

/-- What an APPLY expects. -/
structure BandWant where
  makeup : Bool
  b      : Nat
  nsel   : Nat
  layer  : Nat
  group  : Nat
  set    : Nat
  step   : Nat

/-- The first failed check of R170 by its place in the rule's list, 0 when the record passes. -/
def bandFail (r : BandRec) (w : BandWant) : Nat :=
  let dense := r.flags / 2 % 2 == 1
  let c8 := r.flags / 4 % 2 == 1
  if r.check != bandCrc r then 1
  else if (r.flags % 2 == 1) != w.makeup then 2
  else if r.layer ≠ w.layer ∨ r.group ≠ w.group ∨ r.set ≠ w.set ∨ r.step ≠ w.step then 3
  else if r.bm1 + 1 ≠ w.b then 4
  else if !w.makeup && decide (r.count ≠ w.nsel) then 5
  else if w.makeup && decide (makeupBudget w.b < r.count) then 6
  else if r.list.any fun i => decide (w.b ≤ i) then 7
  else if !ascending r.list then 8
  else if 8 ≤ r.flags ∨ (!w.makeup && dense) ∨ (c8 && decide (r.count ≠ 256)) ∨ r.tail.any (· != 0) then 9
  else 0

/-- The rotating audit of a layer and step (R175): positions of the skipped bands. -/
def auditList (s : State) (p b layer step : Nat) (sel : List Nat) : List Nat :=
  let o := (chachaWord (auditKey (partOf s p).secret) 2 layer step 0).toNat % 16
  let skipped := (List.range b).filter fun i => !sel.contains i
  ((skipped.zipIdx).filter fun e => (e.2 + o) % 16 == 0).map Prod.fst

/-- A tile's own check at the start of an APPLY (R170): what it holds until the group's verdict. -/
def applyCheck (s : State) (t : Nat) (i : Infl) : State :=
  match i.op, partOfTile s t with
  | .bandApply g makeup b nsel layer group set _ npeer fe, some p =>
    let x := tileOf s t
    let r := bandRec x g
    let step := ((partOf s p).exec.map Step.num).getD 0
    let pass := bandFail r ⟨makeup, b, nsel, layer, group, set, step % 2 ^ 32⟩ == 0
    let aud := if pass && !makeup then auditList s p b layer step r.list else []
    let e : BandSt := ⟨layer, group, set, makeup, pass, bandCrc r, r.list, aud, b, nsel, fe, npeer, none, [], 0,
      r.flags / 2 % 2 == 1, false, false⟩
    let keep := x.bands.filter fun c => !(c.layer == layer && c.group == group && c.set == set && c.makeup == makeup)
    setTile s t { x with bands := keep ++ [e] }
  | _, _ => s

/-- A band entry of a tile. -/
def bandOf (x : Tile) (layer group set : Nat) (makeup : Bool) : Option BandSt :=
  x.bands.find? fun c => c.layer == layer && c.group == group && c.set == set && c.makeup == makeup

/-- Change a band entry. -/
def modBand (s : State) (t layer group set : Nat) (makeup : Bool) (f : BandSt → BandSt) : State :=
  let is (c : BandSt) : Bool := c.layer == layer && c.group == group && c.set == set && c.makeup == makeup
  modTile s t fun x => { x with bands := listUpd is f x.bands }

/-- SELECT (R167, R168): the set scores in AGG, the N_SEL highest, ties to the lower index; NaNs counted. -/
def selectRun (x : Tile) (src b nsel ncols : Nat) (sum : Bool) : List Nat × Nat :=
  let sc (i c : Nat) : Word := stWord x (src * 64 + (i * ncols + c) * 4)
  let score (i : Nat) : Word :=
    let xs := (List.range ncols).map fun c => rankF (sc i c)
    if sum then xs.foldl fpAdd 0 else xs.foldl fpMax 0xFF800000
  let bad := ((List.range b).map fun i => ((List.range ncols).filter fun c => fpIsNaN (sc i c)).length).sum
  (((topOf nsel ((List.range b).map fun i => (i, score i))).map Prod.fst).mergeSort (fun a b => decide (a ≤ b)), bad)

/-- Peaks of audited bands (R176): (local index, peak, NaN met). -/
def auditPeaks (x : Tile) (haddr ncols : Nat) (aud : List Nat) : List (Nat × Word × Bool) :=
  (aud.zipIdx).map fun e =>
    let hs := (List.range 64).flatMap fun k => (List.range ncols).map fun c =>
      fpAbs (stWord x (haddr * 64 + ((e.2 * 64 + k) * ncols + c) * 4))
    (e.1, (hs.filter fun h => !fpIsNaN h).foldl fpMax 0, hs.any fpIsNaN)

/-- The missed bands, highest peak first, ties to the lower index (R176, R177). -/
def missList (peaks : List (Nat × Word × Bool)) (thr : Word) : List Nat :=
  let ms := peaks.filter fun e => e.2.2 || fpLt thr e.2.1
  (topOf ms.length (ms.map fun e => (e.1, if e.2.2 then 0x7F800000 else e.2.1))).map Prod.fst

/-- Store accesses of a BAND instruction. -/
def bandAccess (x : Tile) (op : Op) : List Access :=
  match op with
  | .bandSelect src b nsel ncols _ _ _ _ dst _ =>
    [⟨src * 64, b * ncols * 4, false⟩, ⟨dst * 64, ceilDiv (16 + nsel) 64 * 64, true⟩]
  | .bandApply g .. => [⟨g * 64, 16 + (bandRec x g).count, false⟩]
  | .bandAudit h n nc dst _ pb _ _ _ =>
    [⟨h * 64, n * 64 * nc * 4, false⟩, ⟨dst * 64, ceilDiv (16 + pb / 256 % 256) 64 * 64, true⟩]
  | _ => []

/-- Store accesses of a VEC instruction (Table 9-10). -/
def vecAccess (x : Tile) (op : Op) : List Access :=
  match op with
  | .vec opc a b d n nc func fin fout aux ra _ =>
    let r (g bytes : Nat) : Access := ⟨g * 64, bytes, false⟩
    let w (g bytes : Nat) : Access := ⟨g * 64, bytes, true⟩
    let nin := n * nc * fmtWidth fin
    let nout := n * nc * fmtWidth fout
    let reg := ra.toNat
    match opc with
    | 0x70 =>
      let bin := func ≤ 0x03 || func == 0x06 || func == 0x0A
      [r a nin, w d (if func = 0x14 then 2 * nout else nout)] ++
        (if bin then [r b nin] else if func = 0x07 then [r b (2 * nin)] else [])
    | 0x71 => [r a nin, w d nout]
    | 0x72 => [r a (aux * ceilDiv nin 64 * 64), w d nout]
    | 0x73 => [r a (aux * n * 576), w d (n * 512)]
    | 0x74 => if func < 2 then [r a nin, w d ((func + 1) * nc * fmtWidth fout)]
              else [r a nin, r b ((2 * n + 2) * 4), r reg ((func - 1) * nc * 4), w d nout]
    | 0x75 => [r a nin, r b (256 + n / 2 * 4), w d nout]
    | 0x76 =>
      let tail (k m : Nat) : Nat := ceilDiv k 64 * 64 + m
      if func = 0 then [r a nin, r reg (nc * 4), w d (tail (5 * ceilDiv n 5 * nc) (nc * 4))]
      else if func = 1 then [r a nin, r b 256, r reg (nc * 4), w d (nc * (if 128 < n then 640 else 320))]
      else [r a nin, r b 256, w d (tail (n * nc) (nc * 32))]
    | 0x77 =>
      let k := listDepth x b nc
      [r a (if func = 0 then nin else n * ceilDiv (k * nc * 8) 64 * 64), r b (nc * 64), w d (k * nc * 8)]
    | _ =>
      let k := listDepth x b nc
      [r a (n * ceilDiv (k * nc * 8) 64 * 64), r b (nc * 64), w d (nc * 8)]
  | _ => []

end Sys2Proof.Machine
end

