-- ==== Sys2Proof/Machine/VecRec.lean ====
section
/-! DEFINITION. Vector records on die edges and Mirist: the forms, the choice of one, the receiver's checks (R182 to R184,
Table 7-7). -/

namespace Sys2Proof.Machine

/-- A vector record as its bytes spell it: raw elements of the present units, in ascending order. -/
structure VRec where
  len   : Nat
  nnz   : Nat
  fmt   : Nat
  gran  : Nat
  col   : Nat
  scale : Nat
  bits  : List Bool
  vals  : List Nat
  deriving DecidableEq, Repr

/-- Elements of one unit: a band has 64 (R162). -/
def unitSize (gran : Nat) : Nat := if gran = 1 then 64 else 1

/-- Width in bytes of an element in a vector record's format. -/
def vecWidth (fmt : Nat) : Nat := match fmt with | 3 => 2 | 4 => 4 | _ => 1

/-- Bytes of the bitmap: one bit per unit, padded to 8 B; none in the dense form. -/
def bitmapLen (len gran : Nat) : Nat := if gran = 2 then 0 else ceilDiv (len / unitSize gran) 64 * 8

/-- Whether a raw element equals ±0. -/
def rawZero (fmt v : Nat) : Bool := v == 0 || match fmt with
  | 1 | 2 => v == 0x80
  | 3 => v == 0x8000
  | 4 => v == 0x80000000
  | _ => false

/-- The bits of a byte string, bit i of byte ⌊i/8⌋ at place i mod 8. -/
def bytesBits (bs : List Byte) : List Bool := bs.flatMap fun b => (List.range 8).map b.toNat.testBit

/-- Bits as bytes, the last padded with zeros; with fuel. -/
def bitsBytes : Nat → List Bool → List Byte
  | 0, _ => []
  | k + 1, l => if l.isEmpty then [] else
    BitVec.ofNat 8 ((List.range 8).map fun i => if l.getD i false then 2 ^ i else 0).sum :: bitsBytes k (l.drop 8)

/-- Elements in runs of `n`, with fuel. -/
def unitsOf (n : Nat) : Nat → List Nat → List (List Nat)
  | 0, _ => []
  | k + 1, l => if l.isEmpty then [] else l.take n :: unitsOf n k (l.drop n)

/-- Bytes followed by zeros to a 64 B boundary. -/
def padTo64 (bs : List Byte) : List Byte := bs ++ List.replicate (ceilDiv bs.length 64 * 64 - bs.length) (0 : Byte)

/-- The record of a vector in one form: under GRAN 0 the elements that are not ±0 are present, under GRAN 1 the bands that
hold one, under GRAN 2 all (R183). -/
def vecForm (fmt gran col scale : Nat) (els : List Nat) : List Byte :=
  let us := unitsOf (unitSize gran) els.length els
  let live (u : List Nat) : Bool := gran == 2 || u.any fun v => !rawZero fmt v
  let on := us.filter live
  let map := bitsBytes us.length (us.map live)
  let bitmap := if gran = 2 then [] else map ++ List.replicate (bitmapLen els.length gran - map.length) (0 : Byte)
  padTo64 (leBytes 4 els.length ++ leBytes 4 on.length ++ leBytes 1 fmt ++ leBytes 1 gran ++ leBytes 2 col ++
    leBytes 4 (if fmt = 0 then scale else 0) ++ bitmap ++ on.flatten.flatMap (leBytes (vecWidth fmt)))

/-- The record a sender writes: the shortest form once padded, dense on a tie, the element bitmap before the band bitmap on
a tie of the two (R183; the last point notes/assumptions/50.md). -/
def vecSend (fmt col scale : Nat) (els : List Nat) : List Byte :=
  let dense := vecForm fmt 2 col scale els
  let els0 := vecForm fmt 0 col scale els
  let best := if els0.length < dense.length then els0 else dense
  let bands := vecForm fmt 1 col scale els
  if els.length % 64 = 0 ∧ bands.length < best.length then bands else best

/-- What a payload spells as a vector record. -/
def vecParse (bs : List Byte) : VRec :=
  let n (o w : Nat) : Nat := leNat ((bs.drop o).take w)
  let len := n 0 4
  let gran := n 9 1
  let fmt := n 8 1
  let nnz := n 4 4
  let bm := bitmapLen len gran
  let count := nnz * unitSize gran
  ⟨len, nnz, fmt, gran, n 10 2, n 12 4, (bytesBits ((bs.drop 16).take bm)),
    (List.range count).map fun i => n (16 + bm + i * vecWidth fmt) (vecWidth fmt)⟩

/-- Whether a payload passes the receiver's checks (R182, R184): LEN, FMT, GRAN and COL in range and consistent, the
bitmap's popcount NNZ with no bit past the units, the length that follows, zeros after the values. -/
def vecRecOk (bs : List Byte) : Bool :=
  let n (o w : Nat) : Nat := leNat ((bs.drop o).take w)
  let len := n 0 4
  let nnz := n 4 4
  let fmt := n 8 1
  let gran := n 9 1
  let bm := bitmapLen len gran
  let bits := bytesBits ((bs.drop 16).take bm)
  let used := 16 + bm + nnz * unitSize gran * vecWidth fmt
  decide (16 ≤ bs.length) && decide (1 ≤ len) && decide (len ≤ 2 ^ 20) && decide (fmt ≤ 4) && decide (gran ≤ 2) &&
    (gran != 1 || len % 64 == 0) && decide (n 10 2 < 512) && (fmt == 0 || n 12 4 == 0) &&
    (if gran = 2 then nnz == len
     else (bits.filter id).length == nnz && (bits.drop (len / unitSize gran)).all (!·)) &&
    bs.length == ceilDiv used 64 * 64 && (bs.drop used).all (· == 0)

/-- Put present units back among omitted ones, whose elements are +0 (R183). -/
def restoreUnits (n : Nat) : List Bool → List (List Nat) → List Nat
  | [], _ => []
  | false :: r, us => List.replicate n 0 ++ restoreUnits n r us
  | true :: r, us => us.headD [] ++ restoreUnits n r us.tail

/-- The vector a receiver restores from a record (R183). -/
def vecRestore (bs : List Byte) : List Nat :=
  let r := vecParse bs
  if r.gran = 2 then r.vals
  else restoreUnits (unitSize r.gran) (r.bits.take (r.len / unitSize r.gran)) (unitsOf (unitSize r.gran) r.vals.length r.vals)

end Sys2Proof.Machine
end

