-- ==== Sys2Proof/Machine/Flow.lean ====
section
/-! DEFINITION. How instructions in flight start, retire and release what waits for them (R95, R96, R110, R129, R130,
R195 to R198, R220, R229 to R235). -/

namespace Sys2Proof.Machine

/-! ### Store accesses -/

/-- Store accesses of a TLA instruction (R81, R84, R100). -/
def tlaAccess : Op → List Access
  | .tbuild src ng nc f _ => [⟨src * 64, 5 * fmtWidth f * ng * nc, false⟩]
  | .tlook feed nr _ _ _ exp _ _ _ => if exp then [] else [⟨feed * 64, nr * 32, false⟩]
  | .drain _ nr nc f wm wa asc dst st _ _ =>
    (if wm = 0 then [] else [⟨wa * 64, if wm = 1 then 4 * nr else 4, false⟩]) ++
      (asc.toList.map fun a => ⟨a * 64, 256, false⟩) ++
      (List.range nr).map fun r => ⟨(dst + r * st) * 64, nc * fmtWidth f, true⟩
  | _ => []

/-- Store accesses of a mover or generator instruction. -/
def moveAccess : Op → List Access
  | .load l _ n _ _ | .getm l _ n _ => [⟨l * 64, n * 64, true⟩]
  | .store l _ n _ | .put l _ n _ _ | .send l _ n _ _ _ => [⟨l * 64, n * 64, false⟩]
  | .rng d n .. => [⟨d * 64, n * 64, true⟩]
  | _ => []

/-- The store accesses of an instruction. -/
def opAccess (s : State) (t : Nat) (x : Tile) (op : Op) : List Access :=
  tlaAccess op ++ moveAccess op ++ aeAccess s t op ++ bandAccess x op ++ vecAccess x op

/-! ### Starting (Table 9-15, R95, R96, R110, R129, R130) -/

/-- Whether a TLA instruction may start. -/
def tlaReady (x : Tile) (i : Infl) : Bool :=
  let es := earlier x i.tag
  match i.op with
  | .tbuild _ _ _ _ buf => !es.any fun j => match j.op with
      | .tbuild .. => true
      | .tlook _ _ _ _ b .. => b == buf
      | _ => false
  | .tlook _ _ _ _ buf .. => !es.any fun j => match j.op with
      | .tbuild _ _ _ _ b => b == buf
      | .tlook .. => !j.started
      | _ => false
  | _ => !es.any fun j => match j.op with
      | .drain .. => !j.started
      | _ => false

/-- Whether an AE instruction may start. -/
def aeReady (s : State) (t : Nat) (x : Tile) (i : Infl) : Bool :=
  let es := (earlier x i.tag).filter fun j => j.op.blk == .ae && decide (aeMask j.op &&& aeMask i.op ≠ 0)
  let undone (j : Infl) : Bool := match aeFeed j.op with
    | some (_, n, _, _) => decide (j.prog < n)
    | none => false
  let streams := (((blkOps x .ae).filter fun j => j.started && (aeFeed j.op).isSome).map fun j => aeMask j.op).eraseDups
  let room := streams.contains (aeMask i.op) || decide (streams.length < 4)
  match i.op with
  | .softInit .. => es.isEmpty
  | .softBlock _ b => !es.any fun j => match j.op with
      | .qk _ c .. => c == b
      | .softBlock .. | .softInit .. => true
      | _ => false
  | .qk m b .. => room && (!es.any fun j => undone j || match j.op with
      | .qk _ c .. | .pv _ c .. => c == b
      | .softInit .. => true
      | _ => false) && (softRows x (rowsFor s t x m)).all fun r => (bufOf (rowAt x r) b).st == .empty
  | .pv _ b .. => room && !es.any fun j => undone j || match j.op with
      | .softBlock _ c | .qk _ c .. => c == b
      | .softInit .. => true
      | _ => false
  | _ => !es.any fun j => match j.op with
      | .pv .. | .softInit .. | .softBlock .. => true
      | _ => false

/-- Whether an instruction in flight may start: its arrival operand is reached (R220) and its block's order lets it. -/
def ready (s : State) (t : Nat) (x : Tile) (i : Infl) : Bool :=
  !i.started && arrived x i.await && match i.op.blk with
    | .tla => !(x.stopped && !x.noticed) && tlaReady x i
    | .ae => aeReady s t x i
    | .vec => !(earlier x i.tag).any fun j => j.op.blk == .vec
    | .rng => !(earlier x i.tag).any fun j => j.op.blk == .rng
    | .mover => decide (((blkOps x .mover).filter fun j => j.started).length < 4) &&
        !(earlier x i.tag).any fun j => j.op.blk == .mover && !j.started

/-! ### Errors of the store (R189, Table 8-4) -/

/-- Whether a read access reaches a poisoned granule. -/
def readsPoison (x : Tile) (as : List Access) : Bool :=
  as.any fun a => !a.write && a.len != 0 &&
    x.poison.any fun g => decide (a.addr / 64 ≤ g) && decide (g ≤ (a.addr + a.len - 1) / 64)

/-- The poison marks of granules that write accesses cover whole are gone. -/
def cleanPoison (x : Tile) (as : List Access) : Tile :=
  { x with poison := x.poison.filter fun g =>
      !as.any fun a => a.write && decide (a.addr ≤ g * 64) && decide (g * 64 + 64 ≤ a.addr + a.len) }

/-- A read of a poisoned granule (Table 8-4): TS_UE, which counts against the tile (Table 19-4); in a re-run the step's requests
end with POISONED, otherwise the step is run again (notes/assumptions/52.md). -/
def poisonedRead (s : State) (t opc : Nat) : State :=
  if inRerun s t then
    let s1 := countFault s (tileUnit t) fun s => tileErr s t .tsUe .poisoned opc [t]
    match partOfTile s1 t with
    | some p => abandonStep s1 p ⟨.poisoned, 0, false, none, false, 0, none, false, false⟩
    | none => s1
  else rerunFault (countFault s (tileUnit t) fun s => tileErr s t .tsUe .ok opc [t]) t none

/-- A line dropped from a tile's cache. -/
def dropLine (x : Tile) (l : Nat) : Tile :=
  { x with cache := (x.cache.map fun e => (e.1, e.2.filter fun c => c.line != l)).filter fun e => !e.2.isEmpty }

/-- What a read of the store meets (R189, R198, Table 8-4): a single-bit error is corrected and counted, one TS_CE record a
tile and step; a double-bit error in scratch leaves a zero, poisoned granule, and the step is run again; one in the cache
drops the line, and counts as a bank's where it lies in the data (Table 8-7). -/
def storeErr (s : State) (t opc : Nat) (err : StoreErr) : State :=
  match err with
  | .clean => s
  | .single g => tileErrOnce (modTile s t fun x => { x with ce := satAdd 16 x.ce 1 }) t .tsCe opc 0 [t, g]
  | .double g =>
    let s1 := modTile s t fun x =>
      { stWrite x (g * 64) (List.replicate 64 (0 : Byte)) with ue := satAdd 16 x.ue 1,
                                                                poison := if x.poison.contains g then x.poison else x.poison ++ [g] }
    rerunFault (countFault s1 (tileUnit t) fun s => tileErr s t .tsUe .ok opc [t, g]) t none
  | .cache l => tileErr (modTile s t fun x => { dropLine x l with ue := satAdd 16 x.ue 1 }) t .tsCacheUe .ok opc [t, l]
  | .cacheTag l => tileErr (modTile s t fun x => dropLine x l) t .tsCacheUe .ok opc [t, l]

/-! ### The cache (R195 to R197) -/

/-- The set of a line. -/
def cacheSet (x : Tile) (line : Nat) : Nat := if x.cacheBanks = 0 then 0 else line % (512 * x.cacheBanks)

/-- Where a line's granules land in scratch: (store byte address, offset in the line). -/
def lineParts (laddr maddr len line : Nat) : List (Nat × Nat) :=
  (List.range 2).filterMap fun h =>
    let u := 2 * line + h
    if maddr ≤ u ∧ u < maddr + len then some ((laddr + (u - maddr)) * 64, 64 * h) else none

/-- Copy a line's granules to scratch. -/
def copyLine (x : Tile) (laddr maddr len line : Nat) (data : List Byte) : Tile :=
  (lineParts laddr maddr len line).foldl (fun x e => stWrite x e.1 ((data.drop e.2).take 64)) x

/-- Make a line the most recently used of its set, the least recently used of five leaving. -/
def cacheTouch (x : Tile) (c : CLine) : Tile :=
  if x.cacheBanks = 0 then x
  else { x with cache := tabMod x.cache (cacheSet x c.line) [] fun l => (c :: l.filter fun d => d.line != c.line).take 4 }

/-- Invalidate the cache. -/
def dropCache (x : Tile) : Tile := { x with cache := [] }

/-- The lines of a load. -/
def loadLines (maddr len : Nat) : List Nat := (List.range ((maddr + len - 1) / 2 - maddr / 2 + 1)).map (· + maddr / 2)

/-- Start a cached load: hits are copied, misses waited for (R196). -/
def startCached (x : Tile) (tag laddr maddr len : Nat) : Tile :=
  let r := (loadLines maddr len).foldl (fun (acc : Tile × List Nat) l =>
    match (tabGet acc.1.cache (cacheSet acc.1 l) []).find? fun c => c.line == l with
    | some c => ({ cacheTouch (copyLine acc.1 laddr maddr len l c.data) c with hits := satAdd 32 acc.1.hits 1 }, acc.2)
    | none => ({ acc.1 with misses := satAdd 32 acc.1.misses 1 }, acc.2 ++ [l])) (x, [])
  { r.1 with inflight := listUpd (fun i => i.tag == tag) (fun i => { i with waits := r.2 }) r.1.inflight }

/-! ### Vector records on the way (R182, R183) -/

/-- The dense form of a vector record's bytes, as it lies in scratch (R182, R183; notes/assumptions/50.md). -/
def vecDense (bs : List Byte) : List Byte :=
  let r := vecParse bs
  vecForm r.fmt 2 r.col r.scale (vecRestore bs)

/-- What a sender writes of a payload (R183): a vector record in the form shortest once padded, other bytes as they are. -/
def vecPacked (vec : Bool) (bs : List Byte) : List Byte :=
  if vec && vecRecOk bs then
    let r := vecParse bs
    vecSend r.fmt r.col r.scale (vecRestore bs)
  else bs

/-- What a receiver puts down of a payload (R183): a vector record that passes its checks restored, other bytes as they
came. -/
def vecLanded (vec : Bool) (bs : List Byte) : List Byte := if vec && vecRecOk bs then vecDense bs else bs

/-! ### Starting, continued -/

/-- The virtual channel packet kind of MOVE.SEND (Table 18-5). -/
def sendKind : Nat := 1

/-- What an instruction does when its block starts it. -/
def startOp (s0 : State) (t : Nat) (i : Infl) : State :=
  let x := tileOf s0 t
  if !(opAccess s0 t x i.op).all (accOk i.ranges) then undeclared s0 t i
  else
    let s := if readsPoison x (opAccess s0 t x i.op) then poisonedRead s0 t i.op.opc else s0
    let s1 := modInfl s t i.tag fun j => { j with started := true }
    match i.op with
    | .pv m b .. => modTile s1 t fun x => (rowsFor s t x m).foldl (fun x r => rescaleRow x b r) x
    | .bandApply .. => applyCheck s1 t i
    | .load l m n c inv => modTile s1 t fun x =>
        let x1 := if inv then dropCache x else x
        if c then startCached x1 i.tag l m n else x1
    | .store _ _ _ inv => if inv then modTile s1 t dropCache else s1
    | .send l _ n _ (some m) vc => newFlow s1 m vc sendKind (vecPacked true (stRead x (l * 64) (n * 64))).length (.send t i.tag)
    | _ => s1

/-- Start every instruction that may start, in issue order. -/
def startReady (s : State) (t : Nat) : State :=
  ((tileOf s t).inflight.map Infl.tag).foldl (fun s tag =>
    match inflOf (tileOf s t) tag with
    | some i => if ready s t (tileOf s t) i then startOp s t i else s
    | none => s) s

/-- Feed the PVs and QKs that run. -/
def feedRunning (s : State) (t : Nat) : State :=
  ((tileOf s t).inflight.map Infl.tag).foldl (fun s tag =>
    match inflOf (tileOf s t) tag with
    | some i => if i.started then qkFeed 64 (pvFeed s t i) t tag else s
    | none => s) s

/-- What may start starts, and what runs is fed; a tile that abandons its step starts nothing more, and what has started runs to
its retirement (R235 step 3). -/
def pump (s : State) (t : Nat) : State :=
  match (tileOf s t).st with
  | .run | .held => feedRunning (startReady s t) t
  | .abandoning => feedRunning s t
  | _ => s

/-! ### SYNC (R232 to R234) -/

/-- The blocks of a SYNC's mask (Table 9-13). -/
def maskBlks (m : Nat) : List Blk :=
  ([(0, Blk.tla), (1, .ae), (2, .vec), (3, .rng), (4, .mover)].filter fun e => m.testBit e.1).map Prod.snd

/-- Whether nothing of the named blocks is in flight. -/
def blksIdle (x : Tile) (m : Nat) : Bool := !x.inflight.any fun i => (maskBlks m).contains i.op.blk

/-- A barrier in the version a tile runs: the tiles whose images take part in it, the participants its entry counts, and
its home tile (Table 9-17, R233). -/
def barrierOf (s : State) (t bar : Nat) : Option (List Nat × Nat × Nat) :=
  match partOfTile s t with
  | none => none
  | some p => (progOf s p (tileOf s t).version).bind fun g => match barUsers g.img bar with
    | [] => none
    | (a, v) :: r => some ((a :: r.map Prod.fst), barCount v, barHome v)

/-- A tile's arrival at a barrier's home tile. -/
def barArrive (s : State) (t bar : Nat) : State :=
  match barrierOf s t bar with
  | none => s
  | some (_, _, home) => modTile s home fun x =>
      { x with bars := tabMod x.bars bar [] fun l => if l.contains t then l else l ++ [t] }

/-- Close the windows of an ended program; one with work accepted closes when that ends (R202, R234). -/
def closeWins (x : Tile) : Tile :=
  (List.range 8).foldl (fun x w => modWin x w fun v =>
    if !v.opened then v else if v.pend = 0 then { v with opened := false, closing := false, retiring := false, board := [] } else { v with closing := true }) x

/-- Whether every window is closed. -/
def winsClosed (x : Tile) : Bool := (List.range 8).all fun w => !(winOf x w).opened

/-- Let a waiting SYNC go on: WAIT ends, BAR sends its arrival, END closes the windows and ends the program. -/
def syncPump (s : State) (t : Nat) : State :=
  let x := tileOf s t
  match x.waitBlocks with
  | none => s
  | some m =>
    if !blksIdle x m || !arrived x x.waitCount then s
    else if x.waitEnd then
      let y := closeWins x
      setTile s t (if winsClosed y then
        { y with waitEnd := false, waitBlocks := none, waitCount := none, ended := true, st := .idle, hold := 0,
                 syncBoard := [] } else y)
    else match x.waitBar with
      | some b => barArrive (setTile s t { x with waitBlocks := none, waitCount := none }) t b
      | none => setTile s t { x with waitBlocks := none, waitCount := none, st := .run, hold := 0, syncBoard := [] }

/-! ### Abandonment (R235) -/

/-- What a tile clears of a step that ends (R78, R89, R131, R205): tags, accumulator rows, AE rows, windows. -/
def clearStep (x : Tile) : Tile :=
  let y := (List.range 8).foldl (fun x w => modWin x w fun v =>
    { v with opened := false, closing := false, retiring := false, pend := 0, board := [] }) x
  { y with tags := [], acm := [], rows := [], bands := [], inflight := [], tlaFifo := [], fifoA := [], fifoB := [] }

/-- A tile's ABANDONED report to the sorting office (R235 step 5): the index of the last instruction it issued. -/
def report (s : State) (t : Nat) : State :=
  match partOfTile s t with
  | none => s
  | some p => modPart s p fun q =>
      { q with exec := q.exec.map fun e =>
          if e.reports.any fun r => r.1 == t then e else { e with reports := e.reports ++ [(t, (tileOf s t).lastIdx)] } }

/-- The end of an abandonment at a tile once nothing is in flight (R235, steps 4 and 5); the cache goes (R197). -/
def finishAbandon (s : State) (t : Nat) : State :=
  let x := tileOf s t
  if x.st == .abandoning && x.inflight.isEmpty then report (setTile s t (dropCache (clearStep x))) t else s

/-- Whether an instruction in flight waits: not started, or on a feed or a peer verdict (R235 steps 1 and 2). -/
def waitsOn (x : Tile) (i : Infl) : Bool :=
  !i.started || match i.op with
    | .tlook _ nr _ _ _ exp .. => exp && decide (i.prog < nr)
    | .qk _ _ n _ _ f .. => f != 0 && decide (i.fed < n)
    | .pv _ _ n _ f .. => f != 0 && decide (i.prog < n)
    | .bandApply _ m _ _ l g set .. => ((bandOf x l g set m).bind BandSt.verdict).isNone
    | _ => false

/-- A tile abandons its step (R235, steps 1 to 3): waits are released, what has not started is dropped, what has started
runs to its retirement. -/
def abandonNow (s : State) (t : Nat) : State :=
  finishAbandon (modTile s t fun x =>
    { x with inflight := x.inflight.filter fun i => !waitsOn x i, st := .abandoning, hold := 0, held := none,
             waitBlocks := none, waitBar := none, waitCount := none, waitEnd := false, syncBoard := [], noticed := false }) t

/-- A noticed tile whose program faulted or ended goes on no further (R235). -/
def noticeDue (s : State) (t : Nat) : State :=
  let x := tileOf s t
  if x.noticed && (x.faulted || x.ended) then abandonNow s t else s

/-- What a tile that has an abandonment notice waited for did not come in time: the wait is released, and it abandons here
(R235 step 1, notes/assumptions/49.md). -/
def waitOut (s : State) (t : Nat) : State := if (tileOf s t).noticed then abandonNow s t else s

/-- Everything that follows a change at a tile. -/
def settle (s : State) (t : Nat) : State := finishAbandon (noticeDue (syncPump (pump s t) t) t) t

/-- Retire an instruction (R230): the granules it wrote whole are poisoned no more. -/
def retire (s : State) (t tag : Nat) : State :=
  let clean (x : Tile) : Tile := match inflOf x tag with
    | some i => cleanPoison x (opAccess s t x i.op)
    | none => x
  settle (dropInfl (modTile s t clean) t tag) t

/-- Issue and let the block take the instruction; a fault at issue ends a noticed tile's issuing (R235). -/
def issue (s : State) (t : Nat) (i : Instr) (opc : Nat) (bad : RecCode) (mk : Tile → Option Op)
    (chk : Tile → Op → Check) : State :=
  let r := issueOp s t i opc bad mk chk
  if r.2 then settle r.1 t else noticeDue r.1 t

/-- Issue an instruction `i` of the control processor (R210, R211, R218, R228): what the tile issues next, its constants, its own
check `chk`, its declared ranges and open windows, then the holds; `go` is what it does with its ranges. -/
def ctlIssue (s : State) (t : Nat) (i : Instr) (opc : Nat) (chk : Tile → Check) (go : Tile → List Rng → State) : State :=
  let x := tileOf s t
  let fault (c : RecCode) (st : Status) : State := noticeDue (progFault s t c st opc [x.pc]) t
  if !canIssue s t || !fetched s t i then s
  else if 2 ^ 24 ≤ x.issued then noticeDue (runaway s t opc) t
  else match wordBad i, chk x, rangeFault x (setOf i) .spRange with
    | some st, _, _ => fault .spRange st
    | none, .fault c st, _ => fault c st
    | none, .hold w, _ => holdAt s t i w
    | none, .go, some (c, st) => fault c st
    | none, .go, none =>
      let g := (rangesOf x (setOf i)).getD []
      if boardHold x g ≠ 0 then holdAt s t i (boardHold x g)
      else if 256 ≤ issuedCount x then holdAt s t i 4
      else go x g

/-- Issue a WIN or STAGE instruction. The control processor is its block, so an arrival operand that is not reached holds it
there, and with it every later one, as a SYNC's does (R220, notes/assumptions/55.md). -/
def ctlIssueNow (s : State) (t : Nat) (i : Instr) (opc : Nat) (chk : Tile → Check) (go : Tile → List Rng → State) : State :=
  ctlIssue s t i opc chk fun x g => if arrived x (awaitOf (setOf i)) then go x g else holdAt s t i 6

/-- The started instruction of a tag, if it satisfies a test. -/
def startedOp (s : State) (t : Nat) (ok : Infl → Bool) : Option Infl :=
  (tileOf s t).inflight.find? fun i => i.started && ok i

end Sys2Proof.Machine
end

