-- ==== Sys2Proof/Machine/Tla.lean ====
section
/-! DEFINITION. The trit lookup array: TBUILD, TLOOK and DRAIN (R76 to R108). -/

namespace Sys2Proof.Machine

/-! ### Building (R79 to R83) -/

/-- The operation of Tbuild, its operands resolved (R218); none when one is out of range. -/
def mkTbuild (a : TbuildArgs) (x : Tile) : Option Op :=
  match fieldOf x 16 a.src, fieldIn x 8 1 32 a.ngroups, fieldIn x 8 1 64 a.ncols with
  | some src, some ng, some nc => some (.tbuild src ng nc a.fmt a.buf)
  | _, _, _ => none

/-- TBUILD (R81): issue. -/
def execTbuild (t : Fin 1024) (rs : RangeSet) (a : TbuildArgs) (s : State) : Res :=
  .next (issue s t (.tbuild t rs a) 0x10 .tlaRange (mkTbuild a) noCheck)

/-- The table of cell (k, c) after a TBUILD: from its group's activations, zero at or above NGROUPS (R79 to R82); a float
table leaves the words past its 34 as they were (Table 4-1). -/
def builtCell (x : Tile) (src ng nc f k c : Nat) (old : List (BitVec 17)) : List (BitVec 17) :=
  let raw (i : Nat) : Nat := leNat (stRead x (src * 64 + ((k * nc + c) * 5 + i) * fmtWidth f) (fmtWidth f))
  if f = 0 then (if k < ng then (cellInt ((List.range 5).map fun i => sInt 8 (raw i))).map parWord else [])
  else (if k < ng then (cellFloat ((List.range 5).map fun i => fmtToF f (raw i))).map parWord else List.replicate 34 0) ++ old.drop 34

/-- The tables of a finished TBUILD: cell (k, c) of buffer `buf` under buf × 2,048 + k × 64 + c; columns at or above NCOLS
receive none (R76 to R82). -/
def builtTables (x : Tile) (src ng nc f buf : Nat) : Tab (List (BitVec 17)) :=
  (List.range 32).foldl (fun t k => (List.range nc).foldl (fun t c =>
    tabMod t (buf * 2048 + k * 64 + c) [] (builtCell x src ng nc f k c)) t) x.tables

/-- Whether an instruction in flight is a TBUILD. -/
def isTbuildOp (i : Infl) : Bool := match i.op with
  | .tbuild .. => true
  | _ => false

/-- TBUILD_COMPLETE (R83): the tables are filled and BUILT is set. -/
def execTbuildComplete (t : Fin 1024) (s : State) (err : StoreErr := .clean) : Res :=
  match startedOp s t isTbuildOp with
  | none => .next s
  | some i =>
    match i.op with
    | .tbuild src ng nc f buf =>
      let put (x : Tile) : Tile :=
        { x with tables := builtTables x src ng nc f buf, tags := tabSet x.tags buf ⟨true, f, ng, nc⟩ BufTag.init }
      .next (retire (modTile (storeErr s t 0x10 err) t put) t i.tag)
    | _ => .next s

/-! ### Lookup (R84 to R98) -/

/-- The tag a TLOOK meets: that of the latest TBUILD into its buffer still in flight, or the buffer's own (R95). -/
def tagAt (x : Tile) (buf : Nat) : BufTag :=
  (x.inflight.foldl (fun acc i => match i.op with
    | .tbuild _ ng nc f b => if b = buf then some (⟨true, f, ng, nc⟩ : BufTag) else acc
    | _ => acc) none).getD (tabGet x.tags buf BufTag.init)

/-- The operation of Tlook, its operands resolved (R218); none when one is out of range. -/
def mkTlook (a : TlookArgs) (x : Tile) : Option Op :=
  match (if a.feedExp then fieldIn x 16 0 3 a.feed else fieldOf x 16 a.feed), fieldIn x 12 1 2048 a.nrows,
      fieldIn x 12 0 2047 a.acmBase, fieldOf x 8 a.ngroups with
  | some f, some nr, some ab, some ng =>
    if ab + nr ≤ 2048 then some (.tlook f nr ab a.amode a.buf a.feedExp a.fmt ng a.ncols) else none
  | _, _, _, _ => none

/-- The checks of Tlook at issue. -/
def chkTlook (x : Tile) (op : Op) : Check :=
  match op with
  | .tlook _ _ _ _ buf _ f ng nc =>
    let g := tagAt x buf
    if g.built && decide (f < 4) && (g.fmt == 0) == (f == 0) && g.ngroups == ng && g.ncols == nc then .go else .fault .tlaState .badState
  | _ => .go

/-- TLOOK (R84, R106): issue, with the buffer tag's check. -/
def execTlook (t : Fin 1024) (rs : RangeSet) (a : TlookArgs) (s : State) : Res :=
  .next (issue s t (.tlook t rs a) 0x20 .tlaRange (mkTlook a) chkTlook)

/-- A weight row at the head of a TLOOK's feed: (source block, byte), and the tile without it. A row of the EXP feed comes
from the expander that FEED_EXP names (R97). -/
def rowBytes (x : Tile) (feed r : Nat) (exp : Bool) : Option (List (Nat × Byte) × Tile) :=
  if exp then
    let h := x.tlaFifo.take 32
    if h.length < 32 ∨ h.any (fun e => e.exp != feed) then none else some (h.map (fun e => (e.blk, e.byte)), { x with tlaFifo := x.tlaFifo.drop 32 })
  else
    let a := feed * 64 + r * 32
    some ((stRead x a 32).map fun b => (a / 2048, b), x)

/-- The partial sums of a row: column `c` (R85). -/
def rowSum (x : Tile) (buf ng f : Nat) (codes : List Nat) (c : Nat) : Word :=
  let cell (k : Nat) : List (BitVec 16) := (tabGet x.tables (buf * 2048 + k * 64 + c) []).map wordOf
  let ks := (codes.take ng).zipIdx
  if f = 0 then BitVec.ofInt 32 (ks.map fun e => lookupInt (cell e.2) e.1).sum
  else ks.foldl (fun w e => lookupFloat (cell e.2) w e.1) 0

/-- The words of a cell's table that a lookup of a code reads (Table 4-1). -/
def readWords (f code : Nat) : List Nat :=
  let pair (b : Nat) (e : Option (Nat × Bool)) : List Nat := match e with
    | some (j, _) => [b + 2 * j, b + 2 * j + 1]
    | none => []
  if f = 0 then ((foldCode 121 code).map Prod.fst).toList else pair 0 (foldCode 13 (code % 27)) ++ pair 26 (foldCode 4 (code / 27))

/-- Whether a word that a row's lookups read fails its parity (R77, Table 4-7). -/
def rowParity (x : Tile) (buf ng nc f : Nat) (codes : List Nat) : Bool :=
  (codes.take ng).zipIdx.any fun e => (List.range nc).any fun c =>
    let cell := tabGet x.tables (buf * 2048 + e.2 * 64 + c) []
    (readWords f e.1).any fun i => parBad (cell.getD i 0)

/-- What the checks of an accumulator row's first `nc` words meet when they are read (R88). -/
def acmErr (r : AcmRow) (nc : Nat) : ArrayErr :=
  if r.ty == .empty then .clean
  else (List.range nc).foldl (fun e c => worseErr e (acmDec (tabGet r.words c 0)).2) .clean

/-- One accumulator word's update by AMODE (Table 4-4), and whether it saturated (R68). -/
def accWord (int : Bool) (mode : Nat) (acc s : Word) : Word × Bool :=
  if int then
    let a := acc.toInt
    match mode with
    | 0 => (s, false)
    | 1 => let r := satInt (a + s.toInt); (BitVec.ofInt 32 r.1, r.2)
    | _ =>
      let d := satInt (2 * a)
      let r := satInt (a + d.1 + s.toInt)
      (BitVec.ofInt 32 r.1, d.2 || r.2)
  else
    match mode with
    | 0 => (s, false)
    | 1 => (fpAdd acc s, false)
    | _ => (fpAdd (fpAdd (fpAdd acc acc) acc) s, false)

/-- An accumulator row's update over the buffer's columns (R90, R91). -/
def accRow (r : AcmRow) (int : Bool) (mode : Nat) (sums : List Word) : AcmRow :=
  let ty := if int then AcmTy.int32 else .fp32
  let w := (sums.zipIdx).foldl (fun (acc : Tab (BitVec 39) × Bool) e =>
    let u := accWord int mode (if r.ty == .empty then 0 else (acmDec (tabGet acc.1 e.2 0)).1) e.1
    (tabSet acc.1 e.2 (acmEnc u.1) 0, acc.2 || u.2)) (r.words, r.sat)
  ⟨ty, w.2, w.1⟩

/-- Invalid trit codes of a row (R57, R58): the records, and the step abandoned or the block poisoned. -/
def tritCodes (s : State) (t : Nat) (exp : Option Nat) (bs : List (Nat × Byte)) : State :=
  let bad := ((bs.filter fun e => decide (242 < e.2.toNat)).map Prod.fst).eraseDups
  bad.foldl (fun s b =>
    match exp with
    | none =>
      let s1 := tileErrOnce s t .tritCode 0x20 (2 * b + 1) [t, b]
      let s2 := match partOfTile s1 t with
        | some p => markFaulty s1 p (tileOf s1 t).version
        | none => s1
      rerunFault s2 t (some .tritCode)
    | some e =>
      let s1 := if isPoisoned s b then s
        else poisonBlock (tileErrOnce s t .tritCode 0x20 (2 * b) [t, b * 2048]) (b * 32) ⟨1, t / 64 * 4 + e⟩
      match partOfTile s1 t with
      | some p => readPoisoned s1 p b
      | none => s1) s

/-- A hardware error met in the array (Table 4-7). -/
def arrayErr (s : State) (t opc : Nat) (err : ArrayErr) : State :=
  match err with
  | .clean => s
  | .tableParity => rerunFault (countFault s (tileUnit t) fun s => tileErr s t .tlaParity .ok opc [t]) t none
  | .acmCorrected => tileErrOnce (modTile s t fun x => { x with acmCe := satAdd 32 x.acmCe 1 }) t .acmCe opc 0 [t]
  | .acmUncorrected => rerunFault (countFault s (tileUnit t) fun s => tileErr s t .acmUe .ok opc [t]) t none

/-- The DRAINs of a list that have yet to read accumulator row `r` (R96). -/
def drainWaits (l : List Infl) (r : Nat) : Bool := l.any fun j => match j.op with
  | .drain ab nr .. => decide (ab ≤ r) && decide (r < ab + nr)
  | _ => false

/-- Whether an instruction in flight is a TLOOK with rows left. -/
def tlookLeft (i : Infl) : Bool := match i.op with
  | .tlook _ nr .. => decide (i.prog < nr)
  | _ => false

/-- TLOOK_ROW_ENTRY (R87): one row of the oldest TLOOK with rows left goes through the array. -/
def execTlookRowEntry (t : Fin 1024) (err : ArrayErr) (s : State) (st : StoreErr := .clean) : Res :=
  match startedOp s t tlookLeft with
  | none => .next s
  | some i =>
    match i.op with
    | .tlook feed _ ab mode buf exp f ng nc =>
      let row := ab + i.prog
      match rowBytes (tileOf s t) feed i.prog exp with
      | none => .next s
      | some (bs, x) =>
        if drainWaits (earlier x i.tag) row then .next s
        else
          let r := tabGet x.acm row AcmRow.init
          let clash := mode ≠ 0 ∧ r.ty ≠ .empty ∧ (r.ty = .int32) ≠ (f = 0)
          let codes := bs.map fun e => cleanCode e.2.toNat
          let r' := if clash then r else accRow r (f == 0) mode ((List.range nc).map (rowSum x buf ng f codes))
          let y := { x with acm := tabSet x.acm row r' AcmRow.init,
                            inflight := listUpd (fun j => j.tag == i.tag) (fun j => { j with prog := j.prog + 1 }) x.inflight }
          let s1 := tritCodes (setTile s t y) t (if exp then some feed else none) bs
          let s2 := if clash then progFault s1 t .tlaType .badState 0x20 [t, row, 0x20]
            else if r'.sat && !r.sat then tileErrOnce s1 t .accSat 0x20 0 [t, row] else s1
          let met := worseErr (if rowParity x buf ng nc f codes then .tableParity else err) (if mode = 0 then .clean else acmErr r nc)
          .next (settle (arrayErr (if exp then s2 else storeErr s2 t 0x20 st) t 0x20 met) t)
    | _ => .next s

/-- Whether an instruction in flight is a TLOOK whose rows have all entered. -/
def tlookDone (i : Infl) : Bool := match i.op with
  | .tlook _ nr .. => decide (nr ≤ i.prog)
  | _ => false

/-- TLOOK_RETIRE (R87): the oldest TLOOK whose rows have all entered retires. -/
def execTlookRetire (t : Fin 1024) (s : State) : Res :=
  match startedOp s t tlookDone with
  | none => .next s
  | some i => .next (retire s t i.tag)

/-! ### Drain (R100 to R103) -/

/-- The operation of Drain, its operands resolved (R218); none when one is out of range. -/
def mkDrain (a : DrainArgs) (err : ArrayErr) (x : Tile) : Option Op :=
  match fieldIn x 12 0 2047 a.acmBase, fieldIn x 12 1 2048 a.nrows, fieldOf x 16 a.waddr, fieldOf x 16 a.dst with
  | some ab, some nr, some wa, some dst =>
    if ab + nr ≤ 2048 then some (.drain ab nr a.ncols a.outFmt a.wmode wa a.ascale dst a.stride a.clear err) else none
  | _, _, _, _ => none

/-- DRAIN (R100): issue. -/
def execDrain (t : Fin 1024) (rs : RangeSet) (a : DrainArgs) (err : ArrayErr) (s : State) : Res :=
  .next (issue s t (.drain t rs a .clean) 0x30 .tlaRange (mkDrain a err) noCheck)

/-- One drained value of a row that is not EMPTY, before conversion (R70): INT32 rows are converted, then scaled twice. -/
def drainVal (r : AcmRow) (c : Nat) (sw sa : Option Word) : Word :=
  let w := (acmDec (tabGet r.words c 0)).1
  let x := if r.ty == .int32 then fpOfInt w.toInt else w
  let x1 := match sw with
    | some s => fpMul x s
    | none => x
  match sa with
  | some s => fpMul x1 s
  | none => x1

/-- The scale of a drained row, and of a column. -/
def drainScales (x : Tile) (wm wa : Nat) (asc : Option Nat) (r c : Nat) : Option Word × Option Word :=
  (if wm = 0 then none else some (stWord x (wa * 64 + if wm = 1 then 4 * r else 0)), asc.map fun a => stWord x (a * 64 + 4 * c))

/-- One row drained (R71): an EMPTY row as +0 (R100); its bytes and how many of its values are not finite; none for the clash of R101. -/
def drainRow (x : Tile) (nc f wm wa : Nat) (asc : Option Nat) (row r : Nat) : Option (List Byte × Nat) :=
  let a := tabGet x.acm row AcmRow.init
  if f = 5 then
    if a.ty = .fp32 then none
    else some ((List.range nc).flatMap fun c => leBytes 4 (if a.ty == .empty then 0 else (acmDec (tabGet a.words c 0)).1.toNat), 0)
  else
    let vs := (List.range nc).map fun c =>
      let sc := drainScales x wm wa asc r c
      if a.ty == .empty then 0 else fToFmt f (drainVal a c sc.1 sc.2) 0
    some (vs.flatMap fun v => leBytes (fmtWidth f) v, (vs.filter fun v => fpNonfinite (fmtToF f v)).length)

/-- What a DRAIN has gathered: the tile, non-finite values, flagged rows, rows refused. -/
structure Drained where
  x   : Tile
  nf  : Nat
  sat : Nat
  bad : List Nat

/-- Drain rows in ascending order (R100, R103). -/
def drainAll (x : Tile) (ab nr nc f wm wa : Nat) (asc : Option Nat) (dst st : Nat) (clear : Bool) : Drained :=
  (List.range nr).foldl (fun d r =>
    let a := tabGet d.x.acm (ab + r) AcmRow.init
    let sat := d.sat + (if a.sat then 1 else 0)
    let wipe (y : Tile) : Tile :=
      if clear then { y with acm := tabSet y.acm (ab + r) ⟨.empty, false, a.words⟩ AcmRow.init } else y
    match drainRow d.x nc f wm wa asc (ab + r) r with
    | none => ⟨wipe d.x, d.nf, sat, d.bad ++ [ab + r]⟩
    | some (bs, n) => ⟨wipe (stWrite d.x ((dst + r * st) * 64) bs), d.nf + n, sat, d.bad⟩) ⟨x, 0, 0, []⟩

/-- Whether the TLOOKs issued before a DRAIN have updated every row it reads (R96). -/
def rowsDone (x : Tile) (i : Infl) (ab nr : Nat) : Bool :=
  (earlier x i.tag).all fun j => match j.op with
    | .tlook _ n b .. => (List.range nr).all fun r => !(decide (b ≤ ab + r) && decide (ab + r < b + n)) || decide (ab + r < b + j.prog)
    | _ => true

/-- Whether an instruction in flight is a DRAIN. -/
def isDrainOp (i : Infl) : Bool := match i.op with
  | .drain .. => true
  | _ => false

/-- DRAIN_RETIRE (R101, R102): the oldest DRAIN whose rows are ready is read, converted, written and retired; each row that is
FP32 under INT32 output has its record. -/
def execDrainRetire (t : Fin 1024) (s : State) (se : StoreErr := .clean) : Res :=
  match startedOp s t isDrainOp with
  | none => .next s
  | some i =>
    match i.op with
    | .drain ab nr nc f wm wa asc dst st clear err =>
      if !rowsDone (tileOf s t) i ab nr then .next s
      else
        let d := drainAll (tileOf s t) ab nr nc f wm wa asc dst st clear
        let s1 := countNonfinite (setTile s t d.x) t 0x30 d.nf
        let s2 := if d.sat = 0 then s1
          else tileErrOnce (modCounters s1 t fun c => { c with accSat := satAdd 16 c.accSat d.sat }) t .accSat 0x30 0 [t, d.sat]
        let s3 := d.bad.foldl (fun s r => progFault s t .tlaType .badState 0x30 [t, r, 0x30]) s2
        let met := (List.range nr).foldl (fun e r => worseErr e (acmErr (tabGet (tileOf s t).acm (ab + r) AcmRow.init) nc)) err
        .next (retire (arrayErr (storeErr s3 t 0x30 se) t 0x30 met) t i.tag)
    | _ => .next s

/-! ### A silent feed (R134, Table 11-4) -/

/-- The expander whose lane feeds FIFO `f` of a tile (0 TLA, 1 EXP_A, 2 EXP_B). -/
def feederOf (s : State) (t f : Nat) : Option UnitId :=
  (s.exps.lanes.find? fun e => e.1 / 128 == t / 64 && match e.2.list.head? with
    | some en => en.fifo.val == f && en.rcp.contains (t % 64)
    | none => false).map fun e => expUnit (e.1 / 128) (e.1 / 32 % 4)

/-- A silent EXP FIFO (R134): its record, the step abandoned and run again; when it recurs the expander is counted
and made suspect. -/
def feedSilent (s : State) (t f : Nat) (c : RecCode) (opc tag : Nat) : State :=
  let s1 := tileErr s t c .ok opc [t, f, tag]
  let s2 := if inRerun s t then
      match feederOf s1 t f with
      | some u => makeSuspect (countFault s1 u id) u
      | none => s1
    else s1
  waitOut (waitFault s2 t) t

/-- Whether an instruction in flight is a TLOOK with rows left to come from its EXP FIFO. -/
def tlookFed (i : Infl) : Bool := match i.op with
  | .tlook _ nr _ _ _ exp .. => exp && decide (i.prog < nr)
  | _ => false

/-- TLOOK_FEED_TIMEOUT (Table 11-4): a TLOOK has waited 2²⁰ turns on its EXP FIFO. -/
def execTlookFeedTimeout (t : Fin 1024) (s : State) : Res :=
  match startedOp s t tlookFed with
  | none => .next s
  | some i =>
    match i.op with
    | .tlook f _ _ _ _ exp .. =>
      if (rowBytes (tileOf s t) f i.prog exp).isSome then .next s else .next (feedSilent s t 0 .tlaFeed 0x20 i.tag)
    | _ => .next s

end Sys2Proof.Machine
end

