-- ==== Sys2Proof/Machine/Ae.lean ====
section
/-! DEFINITION. The attention engine's instructions (R109 to R140). -/

namespace Sys2Proof.Machine

/-- The operands of ATTN.QK and ATTN.PV (Table 9-8). -/
structure AttnOps where
  rows  : Nat
  nkeys : Nat
  addr  : Nat
  maddr : Nat

/-- Resolve them; HWC is 1 to 8 or 16, FEED 0 to 2, and a POS register gives any position. -/
def attnOps (x : Tile) (a : AttnArgs) : Option AttnOps :=
  match fieldOf x 32 a.rows, fieldIn x 8 1 64 a.nkeys, fieldOf x 16 a.addr, fieldOf x 16 a.maddr with
  | some r, some n, some ad, some m =>
    if ((1 ≤ a.hwc ∧ a.hwc ≤ 8) ∨ a.hwc = 16) ∧ a.feed < 3 then some ⟨r, n, ad, m⟩ else none
  | _, _, _, _ => none

/-- The operation of AttnQk, its operands resolved (R218); none when one is out of range. -/
def mkAttnQk (a : AttnArgs) (x : Tile) : Option Op :=
  (attnOps x a).map fun o =>
    .qk o.rows a.sbuf o.nkeys (regOf x a.posr).toNat a.hwc a.feed o.addr o.maddr

/-- ATTN.QK (R110, R132): issue. -/
def execAttnQk (t : Fin 1024) (rs : RangeSet) (a : AttnArgs) (s : State) : Res :=
  .next (issue s t (.attnQk t rs a) 0x40 .aeRange (mkAttnQk a) (bufCheck s t))

/-- A parity error in what an AE instruction reads of score row `r` (Table 5-9), one of the rows `m` names: it counts
against the row, and the step is run again. -/
def aeParity (s : State) (t opc m : Nat) (r : Option (Fin 32)) : State :=
  match r with
  | none => s
  | some r => if (rowsFor s t (tileOf s t) m).contains r.val then
      rerunFault (countFault s (rowUnit t r) fun s => tileErr s t .aeParity .ok opc [t, r]) t none
    else s

/-- KEY_JOIN (R119, R120): the join takes the sum of a QK's next key in every row once every lane of each has delivered its
partial, and the scaler writes its scores; an SK and scores that are not finite count in NONFINITE. -/
def execKeyJoin (t : Fin 1024) (tag : Nat) (parity : Option (Fin 32)) (s : State) (err : StoreErr := .clean) : Res :=
  match startedOp s t (fun i => i.tag == tag) with
  | none => .next s
  | some i =>
    match i.op with
    | .qk m b _ pos0 _ _ _ ma =>
      let x := tileOf s t
      let rows := softRows x (rowsFor s t x m)
      if i.fed ≤ i.prog || !rows.all (fun r => keyWhole (rowAt x r) i.prog) then .next s
      else
        let sk := stWord x (ma * 64 + 32 * i.prog)
        let bad := (rows.filter fun r => fpNonfinite (rowScore (rowAt x r) i.prog sk)).length
        let y := rows.foldl (fun x r => scoreRow x r b i.prog (pos0 + i.prog) sk) x
        let s1 := modInfl (setTile s t y) t tag fun j => { j with prog := j.prog + 1 }
        let s2 := countNonfinite s1 t 0x40 (bad + if fpNonfinite sk then 1 else 0)
        .next (settle (aeParity (storeErr s2 t 0x40 err) t 0x40 m parity) t)
    | _ => .next s

/-- ATTN_QK_RETIRE (R120, R136): the buffer is SCORED. -/
def execAttnQkRetire (t : Fin 1024) (tag : Nat) (s : State) : Res :=
  match startedOp s t (fun i => i.tag == tag) with
  | none => .next s
  | some i =>
    match i.op with
    | .qk m b n .. =>
      if i.prog < n then .next s
      else
        let put (x : Tile) : Tile := (softRows x (rowsFor s t x m)).foldl (fun x r => modRow x r fun w =>
          modBuf w b fun c => { c with st := .scored, nkeys := n }) x
        .next (retire (modTile s t put) t tag)
    | _ => .next s

/-- The operation of AttnSoftInit, its operands resolved (R218); none when one is out of range. -/
def mkAttnSoftInit (rows addr : Opd) (gang : Bool) (x : Tile) : Option Op :=
  match fieldOf x 32 rows, fieldOf x 16 addr with
  | some m, some a => some (.softInit m a gang)
  | _, _ => none

/-- The checks of AttnSoftInit at issue. -/
def chkAttnSoftInit (s : State) (t : Nat) (rs : RangeSet) (x : Tile) (op : Op) : Check :=
  match op, bufCheck s t x op with
  | .softInit m a g, .go =>
    let free := match rangesOf x rs with
      | some r => arrived x (awaitOf rs) && decide (holdCause x op r = 0)
      | none => false
    if free && !initOk s t x m a g then .fault .aeState .badField else .go
  | _, c => c

/-- ATTN.SOFT INIT (R114, R115): issue; records whose reserved bytes are not zero are refused. -/
def execAttnSoftInit (t : Fin 1024) (rs : RangeSet) (rows addr : Opd) (gang : Bool) (s : State) : Res :=
  .next (issue s t (.attnSoftInit t rs rows addr gang) 0x50 .aeRange (mkAttnSoftInit rows addr gang) (chkAttnSoftInit s t rs))

/-- ATTN.SOFT BLOCK (R121, R129): issue. -/
def execAttnSoftBlock (t : Fin 1024) (rs : RangeSet) (rows : Opd) (sbuf : Fin 2) (s : State) : Res :=
  .next (issue s t (.attnSoftBlock t rs rows sbuf) 0x51 .aeRange (fun x => (fieldOf x 32 rows).map fun m => .softBlock m sbuf) (bufCheck s t))

/-- The operation of AttnSoftExport, its operands resolved (R218); none when one is out of range. -/
def mkAttnSoftExport (rows addr : Opd) (x : Tile) : Option Op :=
  match fieldOf x 32 rows, fieldOf x 16 addr with
  | some m, some a => some (.softExport m a)
  | _, _ => none

/-- ATTN.SOFT EXPORT (R127, R128): issue. -/
def execAttnSoftExport (t : Fin 1024) (rs : RangeSet) (rows addr : Opd) (s : State) : Res :=
  .next (issue s t (.attnSoftExport t rs rows addr) 0x52 .aeRange (mkAttnSoftExport rows addr) (bufCheck s t))

/-- The BLOCK of every row a mask names, the terms of each l in a free order. -/
def blockRows (s : State) (t m b : Nat) : State :=
  (softRows (tileOf s t) (rowsFor s t (tileOf s t) m)).foldl (fun s r =>
    let (k, s1) := drawFree s 64
    modTile s1 t fun x => modRow x r fun w => blockRow (freeOrder k []) w b) s

/-- The export records of a mask's rows in ascending logical order (R128). -/
def exportRows (s : State) (t : Nat) (x : Tile) (m : Nat) : List Byte := (rowsFor s t x m).flatMap (exportBytes x)

/-- ATTN_SOFT_RETIRE (R114, R121, R128): INIT loads its rows, BLOCK converts its buffer, EXPORT writes its records; BLOCK
and EXPORT read rows whose parity may fail. -/
def execAttnSoftRetire (t : Fin 1024) (tag : Nat) (s : State) (parity : Option (Fin 32) := none)
    (err : StoreErr := .clean) : Res :=
  match startedOp s t (fun i => i.tag == tag) with
  | none => .next s
  | some i =>
    match i.op with
    | .softInit m a g =>
      if !initOk s t (tileOf s t) m a g then .next (retire (progFault s t .aeState .badField 0x50 [i.idx]) t tag)
      else .next (retire (storeErr (modTile s t fun x => (initRecs s t m a g).foldl (fun x e => loadRow x g e) x) t 0x50 err) t tag)
    | .softBlock m b =>
      let s1 := blockRows s t m b
      let s2 := countNonfinite s1 t 0x51 (nfCount (tileOf s1 t) - nfCount (tileOf s t))
      .next (retire (aeParity s2 t 0x51 m parity) t tag)
    | .softExport m a =>
      let s1 := modTile s t fun x => stWrite x (a * 64) (exportRows s t x m)
      .next (retire (aeParity s1 t 0x52 m parity) t tag)
    | _ => .next s

/-- The operation of AttnPv, its operands resolved (R218); none when one is out of range. -/
def mkAttnPv (a : AttnArgs) (x : Tile) : Option Op :=
  (attnOps x a).map fun o => .pv o.rows a.sbuf o.nkeys a.hwc a.feed o.addr o.maddr

/-- ATTN.PV (R123, R125): issue. -/
def execAttnPv (t : Fin 1024) (rs : RangeSet) (a : AttnArgs) (s : State) : Res :=
  .next (issue s t (.attnPv t rs a) 0x60 .aeRange (mkAttnPv a) (bufCheck s t))

/-- ATTN_PV_RETIRE (R125): every key added, the buffer is EMPTY. -/
def execAttnPvRetire (t : Fin 1024) (tag : Nat) (parity : Option (Fin 32)) (s : State) (err : StoreErr := .clean) : Res :=
  match startedOp s t (fun i => i.tag == tag) with
  | none => .next s
  | some i =>
    match i.op with
    | .pv m b n .. =>
      if i.prog < n then .next s
      else
        let rows := softRows (tileOf s t) (rowsFor s t (tileOf s t) m)
        let put (x : Tile) : Tile := rows.foldl (fun x r => modRow x r fun w =>
          { modBuf w b fun _ => ScoreBuf.init with pvs := w.pvs + 1 }) x
        .next (retire (aeParity (storeErr (modTile s t put) t 0x60 err) t 0x60 m parity) t tag)
    | _ => .next s

/-- AE_FEED_TIMEOUT (R134): an AE instruction has waited 2²⁰ turns on its EXP FIFO. -/
def execAeFeedTimeout (t : Fin 1024) (tag : Nat) (s : State) : Res :=
  match startedOp s t (fun i => i.tag == tag) with
  | none => .next s
  | some i =>
    match aeFeed i.op with
    | some (f, n, _, _) =>
      if f = 0 ∨ n ≤ keysDrawn i ∨ i.prog + 16 ≤ keysDrawn i ∨ (takeKey (tileOf s t) i (keysDrawn i)).isSome then .next s
      else .next (feedSilent s t f .aeFeed i.op.opc tag)
    | none => .next s

end Sys2Proof.Machine
end

