-- ==== Sys2Proof/Machine/Vec.lean ====
section
/-! DEFINITION. The vector unit's and the random generator's instructions (R141 to R161). -/

namespace Sys2Proof.Machine

/-- Whether AUX names a register that holds a granule: the totals of an applied NORM, the amax of a QUANT that is no KV
(Table 9-10). -/
def auxGranule (opc func : Nat) : Bool := (opc == 0x74 && decide (2 ≤ func)) || (opc == 0x76 && decide (func < 2))

/-- A VEC instruction with its operands resolved (Tables 9-9, 9-10) and the registers AUX names as they stand (R224); an
address that a register holds is at most 65,535 (R161, R218). -/
def vecMk (opc : Nat) (a : VecArgs) (x : Tile) : Option Op :=
  if auxGranule opc a.func && decide (65536 ≤ (regOf x a.aux).toNat) then none
  else match fieldOf x 16 a.a, fieldOf x 16 a.b, fieldOf x 16 a.d, fieldIn x 16 1 65535 a.n with
  | some ga, some gb, some gd, some n =>
    some (.vec opc ga gb gd n a.ncols a.func a.fin a.fout a.aux (regOf x a.aux) (regOf x (a.aux + 1)))
  | _, _, _, _ => none

/-- The operation of VecOp, its operands resolved (R218); none when one is out of range. -/
def mkVecOp (a : VecArgs) : Tile → Option Op := vecMk 0x70 a

/-- VEC.OP (R143): issue. -/
def execVecOp (t : Fin 1024) (rs : RangeSet) (a : VecArgs) (s : State) : Res :=
  .next (issue s t (.vecOp t rs a) 0x70 .vecRange (mkVecOp a) noCheck)
/-- The operation of VecXred, its operands resolved (R218); none when one is out of range. -/
def mkVecXred (a : VecArgs) : Tile → Option Op := vecMk 0x71 a

/-- VEC.XRED (R149): issue. -/
def execVecXred (t : Fin 1024) (rs : RangeSet) (a : VecArgs) (s : State) : Res :=
  .next (issue s t (.vecXred t rs a) 0x71 .vecRange (mkVecXred a) noCheck)
/-- The operation of VecRed, its operands resolved (R218); none when one is out of range. -/
def mkVecRed (a : VecArgs) : Tile → Option Op := vecMk 0x72 a

/-- VEC.RED (R150): issue. -/
def execVecRed (t : Fin 1024) (rs : RangeSet) (a : VecArgs) (s : State) : Res :=
  .next (issue s t (.vecRed t rs a) 0x72 .vecRange (mkVecRed a) noCheck)
/-- The operation of VecMerge, its operands resolved (R218); none when one is out of range. -/
def mkVecMerge (a : VecArgs) : Tile → Option Op := vecMk 0x73 a

/-- VEC.MERGE (R151): issue. -/
def execVecMerge (t : Fin 1024) (rs : RangeSet) (a : VecArgs) (s : State) : Res :=
  .next (issue s t (.vecMerge t rs a) 0x73 .vecRange (mkVecMerge a) noCheck)
/-- The operation of VecNorm, its operands resolved (R218); none when one is out of range. -/
def mkVecNorm (a : VecArgs) : Tile → Option Op := vecMk 0x74 a

/-- VEC.NORM (R146): issue. -/
def execVecNorm (t : Fin 1024) (rs : RangeSet) (a : VecArgs) (s : State) : Res :=
  .next (issue s t (.vecNorm t rs a) 0x74 .vecRange (mkVecNorm a) noCheck)
/-- The operation of VecRope, its operands resolved (R218); none when one is out of range. -/
def mkVecRope (a : VecArgs) : Tile → Option Op := vecMk 0x75 a

/-- VEC.ROPE (R147): issue. -/
def execVecRope (t : Fin 1024) (rs : RangeSet) (a : VecArgs) (s : State) : Res :=
  .next (issue s t (.vecRope t rs a) 0x75 .vecRange (mkVecRope a) noCheck)
/-- The operation of VecQuant, its operands resolved (R218); none when one is out of range. -/
def mkVecQuant (a : VecArgs) : Tile → Option Op := vecMk 0x76 a

/-- VEC.QUANT (R72, R152, R153): issue. -/
def execVecQuant (t : Fin 1024) (rs : RangeSet) (a : VecArgs) (s : State) : Res :=
  .next (issue s t (.vecQuant t rs a) 0x76 .vecRange (mkVecQuant a) noCheck)
/-- The operation of VecTopk, its operands resolved (R218); none when one is out of range. -/
def mkVecTopk (a : VecArgs) : Tile → Option Op := vecMk 0x77 a

/-- VEC.TOPK (R158): issue. -/
def execVecTopk (t : Fin 1024) (rs : RangeSet) (a : VecArgs) (s : State) : Res :=
  .next (issue s t (.vecTopk t rs a) 0x77 .vecRange (mkVecTopk a) noCheck)
/-- The operation of VecSample, its operands resolved (R218); none when one is out of range. -/
def mkVecSample (a : VecArgs) : Tile → Option Op := vecMk 0x78 a

/-- VEC.SAMPLE (R158): issue. -/
def execVecSample (t : Fin 1024) (rs : RangeSet) (a : VecArgs) (s : State) : Res :=
  .next (issue s t (.vecSample t rs a) 0x78 .vecRange (mkVecSample a) noCheck)

/-! ### Sampling a column (R158, R159, R322) -/

/-- The step a tile runs. -/
def stepOf (s : State) (t : Nat) : Option Step := (partOfTile s t).bind fun p => (partOf s p).exec

/-- The code of a column kind (Table 9-19). -/
def kindCode : ColKind → Nat
  | .decode => 0 | .prefill => 1 | .cand => 2 | .pad => 3

/-- The index in the step of the column a record names. -/
def colIndex (e : Step) (r : ColRec) : Nat :=
  (e.cols.findIdx? fun c => c.slot == r.slot && kindCode c.kind == r.kind && c.pos == r.pos && c.node.getD 0 == r.node).getD 0

/-- The candidate nodes of a step that hang under a column (R321, R322): index and node, ascending. -/
def childrenOf (e : Step) (r : ColRec) : List (Nat × Node) :=
  let parent := if r.kind = 2 then some r.node else none
  match e.trees.find? fun t => t.1 == r.slot with
  | none => []
  | some (_, tr) =>
    ((tr.nodes.zipIdx).filter fun n => n.1.parent == parent && e.cols.any fun c => c.slot == r.slot && c.node == some n.2).map
      fun n => (n.2, n.1)

/-- One EMIT column's emission record, and whether no token could be sampled. -/
def sampleCol (s : State) (e : Step) (r : ColRec) (cs : List (Nat × Word)) (k : Nat) : List Byte × Bool :=
  let key := (slotOf s r.slot).key
  let greedy := fpIsZero r.temp
  let col := colIndex e r
  if cs.all fun c => rankF c.2 == 0xFF800000 then (emitBytes 0 none true col, true)
  else
    let kept : List Kept := if greedy then (cs.take 1).map fun c => ⟨c.1, c.2, 0x3F800000⟩ else keptOf r cs k
    let (acc, left) := tryChildren greedy key r.pos (k + 2048) (childrenOf e r) kept
    let g (v : Nat) : Word := if greedy then 0 else
      gumbel (uniform (chachaWord key 0 0 ((r.pos + 1) * 2 ^ 14 + v / 16) (v % 16)))
        (Sys2Proof.Config.freeWord (k + 1024 + 2 * v)) (Sys2Proof.Config.freeWord (k + 1025 + 2 * v))
    (emitBytes (pickToken left g) acc false col, false)

/-- SAMPLE over a tile's columns: the tile, and the slot and position of every column without a token. -/
def sampleRun (s : State) (x : Tile) (e : Step) (v : VecShape) (k : Nat) : Tile × List (Nat × Nat) :=
  let depth := listDepth x v.b v.ncols
  let size := ceilDiv (depth * v.ncols * 8) 64
  (List.range v.ncols).foldl (fun acc c =>
    let r := colRec x v.b c
    let cs := topOf (keepOf r) ((List.range v.n).flatMap fun p => readCands x (v.a + p * size) depth v.ncols c)
    let (bs, bad) := if r.emit then sampleCol s e r cs (k + c * 2 ^ 20) else (List.replicate 8 (0 : Byte), false)
    (stWrite acc.1 (v.d * 64 + 8 * c) bs, if bad then acc.2 ++ [(r.slot, r.pos)] else acc.2)) (x, [])

/-! ### Retirement -/

/-- The stochastic draw of a KV element (R74): 16 bits of domain 1 under the column's request key. -/
def kvDraw (s : State) (x : Tile) (e : Step) (v : VecShape) (layer set kv head c el : Nat) : Option Nat :=
  match e.cols[64 * set + c]? with
  | none => none
  | some col =>
    let pos := (stWord x (v.b * 64 + 4 * c)).toNat
    some ((chachaWord (slotOf s col.slot).key 1 (layer * 2 + kv) (pos * 2 ^ 16 + head * 2 ^ 8 + el) 0).toNat % 65536)

/-- A node and its ancestors, as a mask (R321), with fuel. -/
def ancMask (ns : List Node) : Nat → Nat → Nat
  | 0, _ => 0
  | f + 1, i => 2 ^ i ||| match ns[i]? with
    | some ⟨some j, _, _⟩ => ancMask ns f j
    | _ => 0

/-- The positions a query row record carries for column `c` of set `set` (Table 5-1, R122, R321): keys up to the column's
own position, which B names; a candidate's up to its own key, with its tree. -/
def rowPosOf (s : State) (t : Nat) (x : Tile) (v : VecShape) (set c : Nat) : RowPos :=
  let p := (stWord x (v.b * 64 + 4 * c)).toNat
  let lo := min p (Sys2Proof.Config.windowLow x.version p)
  let plain : RowPos := ⟨lo, p, 0xFFFFFFFF, 0⟩
  match (stepOf s t).bind fun e => (e.cols[64 * set + c]?).map fun col => (e, col) with
  | some (e, col) =>
    match col.node, e.trees.find? fun tr => tr.1 == col.slot with
    | some n, some (_, tr) => ⟨lo, tr.basePos + 1 + n, tr.basePos + 1, ancMask tr.nodes 16 n⟩
    | _, _ => plain
  | none => plain

/-- The token position of the entry that column `c` of set `set` writes, BASEPOS + d for a candidate at depth d, and whether it is
one (R321, R339, R344); none for a padding column. -/
def keyOf (s : State) (t : Nat) (x : Tile) (v : VecShape) (set c : Nat) : Option (Nat × Bool) :=
  match (stepOf s t).bind fun e => e.cols[64 * set + c]? with
  | some col => if col.kind == .pad then none else some (col.pos, col.kind == .cand)
  | none => some ((stWord x (v.b * 64 + 4 * c)).toNat, false)

/-- What a VEC instruction does when it retires (Tables 6-1, 6-2, 9-10). -/
def vecEffect (s : State) (t : Nat) (op : Op) : State :=
  match op with
  | .vec opc a b d n nc func fin fout aux ra rb =>
    let v : VecShape := ⟨a, b, d, n, nc, fin, fout⟩
    let (k, s1) := drawFree s (if opc = 0x78 then (nc + 1) * 2 ^ 20 else (2 * n + 4) * (nc + 1))
    let x := tileOf s1 t
    let put (y : Tile × Nat) : State := countNonfinite (setTile s1 t y.1) t opc y.2
    match opc with
    | 0x70 => put (vecOpRun x v func aux k, 0)
    | 0x71 => put (xredRun x v func (ra.toNat + 2 ^ 32 * rb.toNat) k, 0)
    | 0x72 =>
      let (ord, s2) := shuffle s1 (List.range aux)
      setTile s2 t (redRun x v func ord k)
    | 0x73 =>
      let (ord, s2) := shuffle s1 (List.range aux)
      let r := mergeRun x v ord
      countNonfinite (setTile s2 t r.1) t opc r.2
    | 0x74 => if func < 2 then put (normPart x v (func == 1) k)
              else put (normApply x v (func == 3) ra.toNat k)
    | 0x75 => put (ropeRun x v (func == 1) k, 0)
    | 0x76 =>
      if func = 0 then put (quantInt8 x v ra.toNat k)
      else if func = 1 then
        put (quantQuery x v ra.toNat (rowPosOf s t x v (Sys2Proof.Config.kvServed t x.version ra d).1) k)
      else
        let (set, kv, head) := Sys2Proof.Config.kvServed t x.version ra d
        let draw (c el : Nat) : Option Nat :=
          if func = 3 then (stepOf s t).bind fun e => kvDraw s x e v (ra.toNat / 65536) set (kv % 2) head c el else none
        put (quantKv x v (kv % 2) draw (keyOf s t x v set) k)
    | 0x77 => put (topkRun x t v (func == 1))
    | _ =>
      match stepOf s t with
      | none => s1
      | some e =>
        let r := sampleRun s1 x e v k
        r.2.foldl (fun s sp => tileErr s t .sampleNonfinite .badField 0x78 [sp.1, sp.2]) (setTile s1 t r.1)
  | _ => s

/-- What a BAND instruction writes when it retires: SELECT's record (R168), AUDIT's misses and record (R176 to R178). -/
def bandEffect (s : State) (t : Nat) (op : Op) : State :=
  let x := tileOf s t
  match op with
  | .bandSelect src b nsel nc sum layer group set dst step =>
    let (list, bad) := selectRun x src b nsel nc sum
    countNonfinite (setTile s t (stWrite x (dst * 64)
      (bandBytes layer b group set step false false list))) t 0x80 bad
  | .bandAudit h n nc dst thr pb idr set step =>
    let (layer, group) := (idr % 65536, idr / 65536)
    let policy := pb % 4
    let aud := (((bandOf x layer group set false).map BandSt.audit).getD []).take n
    let peaks := auditPeaks x h nc aud
    let ms := missList peaks (BitVec.ofNat 32 thr)
    let made := if policy = 1 then ms.take (pb / 256 % 256) else if policy = 2 then ms else []
    let list := if policy = 1 then made.mergeSort (fun a b => decide (a ≤ b)) else []
    let y := stWrite x (dst * 64) (bandBytes layer (pb / 65536 % 256 + 1) group set step true
      (policy == 2 && !ms.isEmpty) list)
    let s1 := modBand (setTile s t y) t layer group set false fun c =>
      { c with misses := made, policy := policy, audited := true }
    let s2 := modCounters s1 t fun c =>
      { c with missFound := satAdd 32 c.missFound ms.length, missMadeUp := satAdd 32 c.missMadeUp made.length,
               missLost := satAdd 32 c.missLost (ms.length - made.length) }
    countNonfinite s2 t 0x82 (peaks.filter fun e => e.2.2).length
  | _ => s

/-- Whether an instruction at the head of the vector unit may retire: an APPLY waits for its group's verdict (R171). -/
def vecDone (x : Tile) (op : Op) : Bool :=
  match op with
  | .bandApply _ m _ _ l g set .. => ((bandOf x l g set m).bind BandSt.verdict).isSome
  | _ => op.blk == .vec

/-- VEC_RETIRE (R142): the vector unit's instruction takes its effect and retires. -/
def execVecRetire (t : Fin 1024) (parity : Bool) (s : State) (err : StoreErr := .clean) : Res :=
  match startedOp s t (fun i => vecDone (tileOf s t) i.op) with
  | none => .next s
  | some i =>
    let s1 := storeErr (bandEffect (vecEffect s t i.op) t i.op) t i.op.opc err
    let s2 := if parity then rerunFault (countFault s1 (tileUnit t) fun s => tileErr s t .vecParity .ok i.op.opc [t]) t none else s1
    .next (retire s2 t i.tag)

/-- Whether an instruction in flight is a RED whose partials have not arrived. -/
def redWaits (x : Tile) (i : Infl) : Bool := match i.op with
  | .vec 0x72 .. => !arrived x i.await
  | _ => false

/-- VEC_RED_TIMEOUT (R161, R208): a RED's partials have not arrived for 2²⁰ turns. -/
def execVecRedTimeout (t : Fin 1024) (s : State) : Res :=
  let x := tileOf s t
  match x.inflight.find? (redWaits x) with
  | none => .next s
  | some _ => .next (waitFault (tileErr s t .vecRedTimeout .ok 0x72 [t]) t)

/-! ### The random generator (R154, R155) -/

/-- The operation of RngDraw, its operands resolved (R218); none when one is out of range. -/
def mkRngDraw (s : State) (t : Nat) (a : RngArgs) (x : Tile) : Option Op :=
  let ncols := ((stepOf s t).map fun e => e.cols.length).getD 0
  match fieldOf x 16 a.d, fieldIn x 8 1 255 a.nblk with
  | some d, some n =>
    let col := (regOf x a.colr).toNat
    let ctr := (regOf x a.ctrr).toNat + 2 ^ 32 * (regOf x (a.ctrr + 1)).toNat
    if a.domain = 2 ∨ col < ncols then some (.rng d n a.domain col (regOf x a.streamr).toNat ctr) else none
  | _, _ => none

/-- RNG.DRAW (Table 9-12): issue; the column must be one of the step's, except under domain 2. -/
def execRngDraw (t : Fin 1024) (rs : RangeSet) (a : RngArgs) (s : State) : Res :=
  .next (issue s t (.rngDraw t rs a) 0x90 .spRange (mkRngDraw s t a) noCheck)

/-- RNG_DRAW_RETIRE (R154): the blocks are written. -/
def execRngDrawRetire (t : Fin 1024) (s : State) : Res :=
  match startedOp s t (fun i => i.op.blk == .rng) with
  | none => .next s
  | some i =>
    match i.op, partOfTile s t with
    | .rng d n dom col stream ctr, some p =>
      let key := if dom = 2 then auditKey (partOf s p).secret
        else (((stepOf s t).bind fun e => e.cols[col]?).map fun c => (slotOf s c.slot).key).getD []
      let bs := (List.range n).flatMap fun j => wordsLe (chachaBlock key dom stream ((ctr + j) % 2 ^ 64))
      .next (retire (modTile s t fun x => stWrite x (d * 64) bs) t i.tag)
    | _, _ => .next s

end Sys2Proof.Machine
end

