-- ==== Sys2Proof/Machine/Bands.lean ====
section
/-! DEFINITION. The BAND instructions and the verdicts on their records (R167 to R187). -/

namespace Sys2Proof.Machine

/-- The operation of BandSelect, its operands resolved (R218); none when one is out of range. -/
def mkBandSelect (a : SelectArgs) (x : Tile) : Option Op :=
  match fieldOf x 16 a.src, fieldIn x 8 0 (a.b - 1) a.nsm1, fieldOf x 16 a.layer, fieldOf x 16 a.group with
  | some src, some n, some l, some g =>
    some (.bandSelect src a.b (n + 1) a.ncols a.sum l g a.set a.dst (regOf x 255).toNat)
  | _, _, _, _ => none

/-- BAND.SELECT (R168): issue. -/
def execBandSelect (t : Fin 1024) (rs : RangeSet) (a : SelectArgs) (s : State) : Res :=
  .next (issue s t (.bandSelect t rs a) 0x80 .bandRange (mkBandSelect a) noCheck)

/-- The operation of BandApply, its operands resolved (R218); none when one is out of range. -/
def mkBandApply (a : ApplyArgs) (x : Tile) : Option Op :=
  match fieldOf x 16 a.recGran, fieldIn x 8 0 (if a.makeup then 0 else a.b - 1) a.nsm1, fieldOf x 16 a.layer,
      fieldOf x 16 a.group with
  | some r, some n, some l, some g =>
    some (.bandApply r a.makeup a.b (if a.makeup then 0 else n + 1) l g a.set a.vwin a.npeer a.feedExp)
  | _, _, _, _ => none

/-- BAND.APPLY (R170): issue; the tile's own check is made when the vector unit starts it. -/
def execBandApply (t : Fin 1024) (rs : RangeSet) (a : ApplyArgs) (s : State) : Res :=
  .next (issue s t (.bandApply t rs a) 0x81 .bandRange (mkBandApply a) noCheck)

/-- The operation of BandAudit, its operands resolved (R218); none when one is out of range: the registers' POLICY, BUDGET
and THRESH among them (Tables 7-1, 7-8, 9-11). -/
def mkBandAudit (a : AuditArgs) (x : Tile) : Option Op :=
  match fieldOf x 16 a.haddr, fieldOf x 8 a.naud, fieldOf x 16 a.dst with
  | some h, some n, some d =>
    let pb := (regOf x a.pbr).toNat
    let thr := regOf x a.thrr
    let policyOk := pb % 4 < 3 ∧ pb / 4 % 64 = 0 ∧ pb / 2 ^ 24 = 0
    let budgetOk := pb / 256 % 256 ≤ makeupBudget (pb / 65536 % 256 + 1)
    let thrOk := !fpNonfinite thr && fpLt 0 thr
    if policyOk ∧ budgetOk ∧ thrOk then
      some (.bandAudit h n a.ncols d thr.toNat pb (regOf x a.idr).toNat a.set (regOf x 255).toNat) else none
  | _, _, _ => none

/-- The most bands an audit takes: ⌈S/16⌉ of the bands a selection of `n` among `b` skips (R175). -/
def auditMax (b n : Nat) : Nat := ceilDiv (b - n) 16

/-- NAUD lies in 0 to A_max of the selection its tile applied (Table 7-8); the whole group counts as skipped where none
was. -/
def chkBandAudit (x : Tile) (op : Op) : Check :=
  match op with
  | .bandAudit _ n _ _ _ pb idr set _ =>
    let sel := ((bandOf x (idr % 65536) (idr / 65536) set false).map BandSt.nsel).getD 0
    if n ≤ auditMax (pb / 65536 % 256 + 1) sel then .go else .fault .bandRange .badRange
  | _ => .go

/-- BAND.AUDIT (R176): issue. -/
def execBandAudit (t : Fin 1024) (rs : RangeSet) (a : AuditArgs) (s : State) : Res :=
  .next (issue s t (.bandAudit t rs a) 0x82 .bandRange (mkBandAudit a) chkBandAudit)

/-! ### Verdicts (R171, R179) -/

/-- The tiles of a partition with an entry for a record. -/
def groupTiles (s : State) (p layer group set : Nat) (makeup : Bool) : List (Nat × BandSt) :=
  (tilesOf s p).filterMap fun t => (bandOf (tileOf s t) layer group set makeup).map fun c => (t, c)

/-- Whether the group's verdict on a record has already been counted at another tile. -/
def groupCounted (s : State) (p : Nat) (e : BandSt) : Bool :=
  (groupTiles s p e.layer e.group e.set e.makeup).any fun c => c.2.verdict.isSome

/-- Whether a layer and set already run dense. -/
def denseCounted (s : State) (p layer set : Nat) : Bool :=
  (tilesOf s p).any fun t => (tileOf s t).bands.any fun c => c.layer == layer && c.set == set && c.verdict.isSome && c.dense

/-- What AUDIT left for a layer, group and set: the policy and the bands it took as made up. -/
def auditOf (s : State) (p : Nat) (e : BandSt) : Nat × List Nat :=
  match (groupTiles s p e.layer e.group e.set false).find? fun c => !c.2.misses.isEmpty || c.2.policy != 0 with
  | some (_, c) => (c.policy, c.misses)
  | none => (0, [])

/-- Whether a layer and set were computed again dense (R177, R179), so that a selection applied later runs dense at once. -/
def layerRerun (s : State) (p layer set : Nat) : Bool :=
  (tilesOf s p).any fun t => (tileOf s t).bands.any fun c =>
    c.layer == layer && c.set == set && !c.makeup && c.dense && c.verdict == some true

/-- Count a verdict once for its group (R181); a group's bands that a dense rerun has counted are not counted again. -/
def countVerdict (s : State) (t p : Nat) (e : BandSt) (pass dense : Bool) : State :=
  if groupCounted s p e then s
  else
    let (policy, made) := auditOf s p e
    let lost := if !pass && e.makeup && policy = 1 then made.length else 0
    let bands := if e.makeup || e.dense then 0 else if dense then e.b else (e.list ++ e.audit).length
    let newDense := dense && !denseCounted s p e.layer e.set
    modCounters s t fun c =>
      { c with metaFaults := satAdd 16 c.metaFaults (if pass then 0 else 1),
               denseLayers := satAdd 16 c.denseLayers (if newDense then 1 else 0),
               bandsComputed := satAdd 32 c.bandsComputed bands,
               bandsAudited := satAdd 32 c.bandsAudited (if pass && !e.makeup && !dense then e.audit.length else 0),
               missMadeUp := c.missMadeUp - lost, missLost := satAdd 32 c.missLost lost }

/-- A failed own check: BAND_META, and the writer counted when it repeats in its window (R171, Table 19-4). -/
def bandMeta (s : State) (t : Nat) (e : BandSt) (check writer : Nat) : State :=
  let (_, hours) := unitWindow s (tileUnit writer)
  let again := s.ras.faultRep.any fun f => f.1 == 0x0406 && f.2.1 == writer && decide (nowNs s < f.2.2 + hours * 3600000000000)
  let keep := s.ras.faultRep.filter fun f => !(f.1 == 0x0406 && f.2.1 == writer)
  let s1 := { s with ras := { s.ras with faultRep := keep ++ [(0x0406, writer, nowNs s)] } }
  let rec' (s : State) : State := tileErr s t .bandMeta .ok 0x81 [e.layer, e.group, e.set, check, writer]
  if again then countFault s1 (tileUnit writer) rec' else rec' s1

/-- Whether an instruction in flight is an APPLY that waits for its peers' verdicts. -/
def applyWaits (x : Tile) (i : Infl) : Bool := match i.op with
  | .bandApply _ m _ _ l g set .. => (bandOf x l g set m).any fun c => c.verdict.isNone
  | _ => false

/-- The lists the expanders of a partition hold for a layer and set that runs dense: the REDO entries emit, the down
projection takes every band (R284, R285). -/
def denseLists (s : State) (p layer set : Nat) (groups : List (Nat × Nat)) : State :=
  { s with exps := { s.exps with lists := s.exps.lists.map fun l =>
      if l.layer == layer && l.set == set && (partOf s p).dies.testBit l.die then
        let b := ((groups.find? fun g => g.1 == l.group).map Prod.snd).getD 0
        { l with gatherList := some (List.range b), redo := l.redo || decide (l.list.length < b) }
      else l } }

/-- Run a layer dense for a selection set on every band-group (R171, R177, R179): counted once, the bands of each group that does
not run dense yet computed again. -/
def layerDense (s : State) (p layer set : Nat) : State :=
  let is (c : BandSt) : Bool := c.layer == layer && c.set == set
  let es := (tilesOf s p).flatMap fun t => (tileOf s t).bands.filter fun c => is c && !c.makeup
  let groups := (es.map fun c => (c.group, c.b)).eraseDups
  let fresh := groups.filter fun g => !es.any fun c => c.group == g.1 && c.dense
  let old := denseCounted s p layer set
  let s1 := (tilesOf s p).foldl (fun s t => modTile s t fun x =>
    { x with bands := x.bands.map fun c => if is c then { c with dense := true } else c }) s
  let add (c : Counters) : Counters :=
    { c with denseLayers := satAdd 16 c.denseLayers (if old then 0 else 1),
             bandsComputed := satAdd 32 c.bandsComputed (fresh.map Prod.snd).sum }
  modPart (denseLists s1 p layer set groups) p fun q => { q with exec := q.exec.map fun e => { e with cnt := add e.cnt } }

/-- The verdict a peer has sent for a record: its pass bit and CRC, once its own check is made (R171). -/
def peerVerdict (s : State) (e : BandSt) (t : Nat) : Option (Bool × Word) :=
  (bandOf (tileOf s t) e.layer e.group e.set e.makeup).map fun c => (c.pass, c.crc)

/-- The peers' verdicts, once each has arrived through the open window VWIN, a granule each in the order of `peers`; NPEER
counts the tile itself (notes/assumptions/54.md). -/
def peerVerdicts (s : State) (t : Nat) (e : BandSt) (vwin : Nat) (peers : List (Fin 1024)) : Option (List (Bool × Word)) :=
  let ps := peers.map Fin.val
  let w := winOf (tileOf s t) vwin
  if w.opened ∧ w.dir % 2 = 1 ∧ ps.length ≤ w.len ∧ ps.length + 1 = e.npeer ∧ (t :: ps).eraseDups.length = e.npeer then
    ps.mapM (peerVerdict s e) else none

/-- The 8 bytes of a verdict (R171): the pass bit and the CRC. -/
def verdictBytes (v : Bool × Word) : List Byte := leBytes 4 (if v.1 then 1 else 0) ++ leBytes 4 v.2.toNat

/-- The verdicts land in the window, and count in ARRIVED. -/
def landVerdicts (x : Tile) (vwin : Nat) (vs : List (Bool × Word)) : Tile :=
  let y := (vs.zipIdx).foldl (fun x v => stWrite x (((winOf x vwin).base + v.2) * 64) (verdictBytes v.1)) x
  modWin y vwin fun w => { w with arrived := satAdd 20 w.arrived vs.length }

/-- BAND_GROUP_VERDICT (R171): the peers' verdicts are in; the list stands, or the group runs dense, or its make-up
list is taken as empty, or under STRICT the layer runs dense. -/
def execBandGroupVerdict (t : Fin 1024) (peers : List (Fin 1024)) (writer : Fin 1024) (s : State) : Res :=
  match startedOp s t (applyWaits (tileOf s t)), partOfTile s t with
  | some i, some p =>
    match i.op with
    | .bandApply rg m b nsel l g set vwin _ _ =>
      match bandOf (tileOf s t) l g set m with
      | none => .next s
      | some e =>
        match peerVerdicts s t e vwin peers with
        | none => .next s
        | some vs =>
          let pass := e.pass && vs.all fun v => v.1 && v.2 == e.crc
          let strict := strictLayer s p l || (auditOf s p e).1 == 2
          let again := !m && layerRerun s p l set
          let dense := if pass then again || (m && e.dense) else !m
          let s1 := countVerdict (modTile s t fun x => landVerdicts x vwin vs) t p e pass dense
          let fall (c : BandSt) : BandSt :=
            if pass && !again then { c with verdict := some true }
            else if pass then { c with verdict := some true, dense := true, audit := [], list := List.range b }
            else { c with verdict := some false, dense := dense, audit := [],
                          list := if dense then List.range b else [] }
          let s2 := modBand s1 t l g set m fall
          let want : BandWant := ⟨m, b, nsel, l, g, set, ((partOf s p).exec.map Step.num).getD 0 % 2 ^ 32⟩
          let s3 := if e.pass then s2 else bandMeta s2 t e (bandFail (bandRec (tileOf s t) rg) want) writer
          let s4 := if !pass && m && strict then layerDense s3 p l set else s3
          .next (settle s4 t)
    | _ => .next s
  | _, _ => .next s

/-- STRICT_LAYER_VERDICT (R179) of a layer of step `step`: once every band-group of the layer has audited, or runs dense already, the verdicts join;
a miss makes every group recompute dense. -/
def execStrictLayerVerdict (p : Fin 8) (step layer : Nat) (set : Fin 8) (s : State) : Res :=
  let es := (tilesOf s p).flatMap fun t => (tileOf s t).bands.filter fun c =>
    c.layer == layer && c.set == set.val && !c.makeup
  let heard (g : Nat) : Bool := es.any fun c => c.group == g && (c.audited || c.verdict == some false)
  let strict := strictLayer s p layer || es.any fun c => c.policy == 2
  let groups := (layerGroups s p layer set ++ es.map BandSt.group).eraseDups
  if (partOf s p).exec.all (fun e => e.num != step) || !strict || !groups.all heard || es.all (·.joined) then .next s
  else
    let s1 := (tilesOf s p).foldl (fun s t => modTile s t fun x =>
      { x with bands := x.bands.map fun c => if c.layer == layer && c.set == set.val then { c with joined := true } else c }) s
    .next (if es.any fun c => !c.misses.isEmpty then layerDense s1 p layer set else s1)

/-! ### Route records (R305) -/

/-- Whether a route record passes the checks of R170 as they read for it: its CRC, KIND 0, a MoE layer of the running version, no
group, a set of the step, its number, the layer's experts, and indices of experts in ascending order (notes/assumptions/73.md). -/
def routeOk (s : State) (p : Nat) (bs : List Byte) : Bool :=
  let r := bandOfBytes bs
  match (partOf s p).exec with
  | none => true
  | some e => (moeRecs s p e.version).any fun m => m.layer == r.layer && decide (r.set < ceilDiv e.cols.length 64) &&
      decide (r.count ≤ m.nexp) && bandFail r ⟨false, m.nexp, r.count, r.layer, 0, r.set, e.num % 2 ^ 32⟩ == 0

/-- A route record fails (R305): MOE_META, one re-run. -/
def expertFail (s : State) (t : Nat) : State := rerunFault (tileErr s t .moeMeta .ok 0xFF [t]) t (some .metadataFault)

/-- Check the route record of a delivery to a tile, if it carries one. -/
def checkRoute (s : State) (t : Nat) (route : Bool) (bs : List Byte) : State :=
  if route && (partOfTile s t).any (fun p => !routeOk s p bs) then expertFail s t else s

/-- BAND_VERDICT_TIMEOUT (R187): a peer's verdict has been absent for 2²⁰ turns. -/
def execBandVerdictTimeout (t : Fin 1024) (s : State) : Res :=
  match startedOp s t (applyWaits (tileOf s t)) with
  | none => .next s
  | some i =>
    match i.op with
    | .bandApply _ _ _ _ l g set .. => .next (waitFault (tileErr s t .bandMeta .ok 0x81 [l, g, set, 0, t]) t)
    | _ => .next s

end Sys2Proof.Machine
end

