-- ==== Sys2Proof/Machine/Store.lean ====
section
/-! DEFINITION. The mover, the cache and the letterbox windows (R195 to R208, R222, R249, R252, R256, R258). -/

namespace Sys2Proof.Machine

/-! ### Places -/

/-- The opposite direction. -/
def opposite : Port → Port
  | .n => .s | .e => .w | .s => .n | .w => .e | .mover => .mover

/-- The SRC bit of a source (Table 8-3). -/
def portBit : Port → Nat
  | .n => 0 | .e => 1 | .s => 2 | .w => 3 | .mover => 4

/-- The check of a MOVE's module addresses (R247, R249, R196, Table 9-20). -/
def moveCheck (s : State) (t maddr len : Nat) (store cache : Bool) : Check :=
  let lines := (List.range len).map fun i => (maddr + i) * 64
  match partOfTile s t with
  | none => .go
  | some p =>
    if lines.any fun a => (regionAt s a).isNone then .fault .memUnmapped .badRange
    else
      let rs := (lines.filterMap (regionAt s)).eraseDups.map (regionOf s)
      if !rs.all fun r => if store then mayWrite r p else mayRead r p then .fault .movePerm .notPermitted
      else if cache && (store || rs.any fun r => r.cls == .a) then .fault .tsCacheClass .badField
      else .go

/-! ### Issue (Table 9-5) -/

/-- The operation of MoveLoad, its operands resolved (R218); none when one is out of range. -/
def mkMoveLoad (a : MoveArgs) (x : Tile) : Option Op :=
  match fieldOf x 16 a.laddr, fieldOf x 35 a.maddr, fieldOf x 16 a.lenm1 with
  | some l, some m, some n => some (.load l m (n + 1) a.cache a.inv)
  | _, _, _ => none

/-- The checks of MoveLoad at issue. -/
def chkMoveLoad (s : State) (t : Nat) (_ : Tile) (op : Op) : Check :=
  match op with
  | .load _ m n c _ => moveCheck s t m n false c
  | _ => .go

/-- MOVE.LOAD (R192, R196): issue. -/
def execMoveLoad (t : Fin 1024) (rs : RangeSet) (a : MoveArgs) (s : State) : Res :=
  .next (issue s t (.moveLoad t rs a) 0x00 .spRange (mkMoveLoad a) (chkMoveLoad s t))

/-- The operation of MoveStore, its operands resolved (R218); none when one is out of range. -/
def mkMoveStore (a : MoveArgs) (x : Tile) : Option Op :=
  match fieldOf x 16 a.laddr, fieldOf x 35 a.maddr, fieldOf x 16 a.lenm1 with
  | some l, some m, some n => some (.store l m (n + 1) a.inv)
  | _, _, _ => none

/-- The checks of MoveStore at issue. -/
def chkMoveStore (s : State) (t : Nat) (a : MoveArgs) (_ : Tile) (op : Op) : Check :=
  match op with
  | .store _ m n _ => moveCheck s t m n true a.cache
  | _ => .go

/-- MOVE.STORE (R252): issue. -/
def execMoveStore (t : Fin 1024) (rs : RangeSet) (a : MoveArgs) (s : State) : Res :=
  .next (issue s t (.moveStore t rs a) 0x01 .spRange (mkMoveStore a) (chkMoveStore s t a))

/-- The operation of MovePut, its operands resolved (R218); none when one is out of range. -/
def mkMovePut (t : Nat) (a : PutArgs) (x : Tile) : Option Op :=
  match fieldOf x 16 a.laddr, fieldOf x 16 a.raddr, fieldIn x 14 0 16383 a.lenm1 with
  | some l, some r, some n =>
    if a.via.isSome || (neighbour t a.dir).isSome then some (.put l r (n + 1) a.dir (a.via.map Fin.val)) else none
  | _, _, _ => none

/-- MOVE.PUT (R201, R203): issue. -/
def execMovePut (t : Fin 1024) (rs : RangeSet) (a : PutArgs) (s : State) : Res :=
  .next (issue s t (.movePut t rs a) 0x02 .spRange (mkMovePut t a) noCheck)

/-- The operation of MoveGet, its operands resolved (R218); none when one is out of range. -/
def mkMoveGet (t : Nat) (a : PutArgs) (x : Tile) : Option Op :=
  match fieldOf x 16 a.laddr, fieldOf x 16 a.raddr, fieldIn x 14 0 16383 a.lenm1 with
  | some l, some r, some n => if (neighbour t a.dir).isSome then some (.getm l r (n + 1) a.dir) else none
  | _, _, _ => none

/-- MOVE.GET (R201): issue. -/
def execMoveGet (t : Fin 1024) (rs : RangeSet) (a : PutArgs) (s : State) : Res :=
  .next (issue s t (.moveGet t rs a) 0x03 .spRange (mkMoveGet t a) noCheck)

/-- The operation of MoveSend, its operands resolved (R218); none when one is out of range. -/
def mkMoveSend (a : SendArgs) (x : Tile) : Option Op :=
  match fieldOf x 16 a.laddr, fieldOf x 16 a.raddr, fieldIn x 14 0 16383 a.lenm1, fieldIn x 10 0 1023 a.tgt with
  | some l, some r, some n, some g =>
    if 1 ≤ a.vc ∧ a.vc ≤ 3 then some (.send l r (n + 1) g (a.remote.map Fin.val) a.vc) else none
  | _, _, _, _ => none

/-- The checks of MoveSend at issue. -/
def chkMoveSend (s : State) (t : Nat) (_ : Tile) (op : Op) : Check :=
  match op with
  | .send _ _ _ g none _ => if (partOfTile s g).isSome && partOfTile s g == partOfTile s t then .go else .fault .movePerm .notPermitted
  | .send _ _ _ _ (some m) _ => if m < s.lnk.modules ∧ m ≠ s.lnk.modNum then .go else .fault .movePerm .notPermitted
  | _ => .go

/-- MOVE.SEND (R435, Table 9-20): issue; a target outside the partition, or a module outside the group, is refused. -/
def execMoveSend (t : Fin 1024) (rs : RangeSet) (a : SendArgs) (s : State) : Res :=
  .next (issue s t (.moveSend t rs a) 0x04 .spRange (mkMoveSend a) (chkMoveSend s t))

/-! ### Windows (R202 to R207) -/

/-- The first window from `ws` that satisfies a test. -/
def findWin (x : Tile) (ok : Win → Bool) : Option Nat := (List.range 8).find? fun w => ok (winOf x w)

/-- Whether an open window contains granules `g` to `g + n − 1`. -/
def contains (w : Win) (g n : Nat) : Bool := w.opened && decide (w.base ≤ g) && decide (g + n ≤ w.base + w.len)

/-- The window that permits a put, or a get when `out` (R204, R205); none of a tile in a field test (R42). -/
def permits (x : Tile) (src : Port) (g n : Nat) (out : Bool) : Option Nat :=
  findWin x fun w => x.st != .fieldTest && contains w g n && !w.closing && w.src.testBit (portBit src) && (w.dir == 3 || w.dir == (if out then 2 else 1))

/-- The window's number in a LETTERBOX_REFUSED record: 0xF when none contains the bytes. -/
def refusedWin (x : Tile) (g n : Nat) : Nat := (findWin x fun w => contains w g n).getD 0xF

/-- Refuse a put or a get (R204): counted; where no step runs, or it is being abandoned, nothing more happens, otherwise the
record is written and the writer's MOVE retires faulted. -/
def refuseMove (s : State) (t : Nat) (src : Port) (writer gran n : Nat) (tag : Option Nat) : State :=
  let x := tileOf s t
  let s1 := setTile s t { x with refused := satAdd 16 x.refused 1 }
  let drop (s : State) : State := match tag with
    | some g => retire s writer g
    | none => s
  let live : Bool := match partOfTile s t with
    | some p => ((partOf s p).exec.map fun e => e.why.isNone).getD false
    | none => false
  if !live then drop s1
  else
    let s2 := tileErr s1 t .letterboxRefused .badRange 0xFF [t, refusedWin x gran n, portBit src, writer, gran, n]
    moveFault (drop s2) writer .badRange

/-- Whether a tile takes no traffic (R42, R199): it is fenced, its die is, or a session holds it at Reduced. -/
def portsShut (s : State) (t : Nat) : Bool :=
  isFenced s (tileUnit t) || isFenced s (dieUnit (t / 64)) || (tabGet s.pwr.sense t TileSense.init).reduced

/-- Whether a source can reach a tile at all: a mesh neighbour through the port between them, anything through the mover
(R199, R203). -/
def portReaches (t : Nat) (src : Port) (writer : Nat) : Bool := src == .mover || neighbour t src == some writer

/-- Granules written into a window count in ARRIVED, which saturates (Table 8-3). -/
def countArrived (x : Tile) (w n : Nat) : Tile := modWin x w fun v => { v with arrived := satAdd 20 v.arrived n }

/-- Mark a transfer of a writer as performed at the other side. -/
def moveDone (s : State) (t tag : Nat) : State := modInfl s t tag fun j => { j with prog := 1 }

/-- Deliver bytes into a window (R203, R204), or refuse them; granules written whole are poisoned no more. -/
def deliver (s : State) (t : Nat) (src : Port) (writer gran : Nat) (data : List Byte) (tag : Option Nat) : State × Bool :=
  let n := ceilDiv data.length 64
  match if portsShut s t || portsShut s writer then none else permits (tileOf s t) src gran n false with
  | some w =>
    let s1 := modTile s t fun x =>
      countArrived (cleanPoison (stWrite x (gran * 64) data) [⟨gran * 64, data.length, true⟩]) w n
    let s2 := match tag with
      | some g => moveDone s1 writer g
      | none => s1
    (settle s2 t, true)
  | none => (refuseMove s t src writer gran n tag, false)

/-- The put of a writer that arrives at tile `t` granule `g` (R200, R203): its tag and the bytes it carries. -/
def putOf (s : State) (t : Nat) (src : Port) (writer g : Nat) : Option (Nat × List Byte) :=
  let x := tileOf s writer
  let hit (i : Infl) : Bool := i.started && decide (i.prog = 0) && match i.op with
    | .put _ r _ d via => r == g && (match via with
        | some v => src == .mover && writer / 64 == t / 64 && v == t % 64
        | none => src == opposite d && neighbour writer d == some t)
    | _ => false
  (x.inflight.find? hit).bind fun i => match i.op with
    | .put l _ n _ _ => some (i.tag, stRead x (l * 64) (n * 64))
    | _ => none

/-- PUT_ARRIVE (R204): a put is accepted into a permitting window or refused whole. It carries what its writer's put
reads; where the state holds no such put, the bytes the event names. No put comes through a port that does not exist
(R199). -/
def execPutArrive (t : Fin 1024) (src : Port) (writer : Fin 1024) (gran : Nat) (data : List Byte) (s : State) : Res :=
  if !portReaches t src writer then .next s
  else match putOf s t src writer gran with
  | some (tag, bs) => .next (deliver s t src writer gran bs (some tag)).1
  | none => .next (deliver s t src writer gran data none).1

/-- The get of a reader that asks tile `t` for granule `g`. -/
def getOf (s : State) (t : Nat) (src : Port) (reader g len : Nat) : Option Nat :=
  ((tileOf s reader).inflight.find? fun i => i.started && decide (i.prog = 0) && match i.op with
    | .getm _ r n d => r == g && n == len && src == opposite d && neighbour reader d == some t
    | _ => false).map Infl.tag

/-- GET_ARRIVE (R204): a get is started on a permitting window or refused. -/
def execGetArrive (t : Fin 1024) (src : Port) (reader : Fin 1024) (gran len : Nat) (s : State) : Res :=
  let tag := getOf s t src reader gran len
  if !portReaches t src reader then .next s
  else match if portsShut s t || portsShut s reader then none else permits (tileOf s t) src gran len true with
  | some w =>
    match tag with
    | some g => .next (moveDone (modTile s t fun x => modWin x w fun v => { v with pend := v.pend + 1 }) reader g)
    | none => .next s
  | none => .next (refuseMove s t src reader gran len tag)

/-- A vector record that fails its checks (R184): the record, META_FAULTS, one re-run. -/
def sparseForm (s : State) (t : Nat) : State :=
  let s1 := modCounters (tileErr s t .sparseForm .ok 0xFF [t]) t fun c => { c with metaFaults := satAdd 16 c.metaFaults 1 }
  rerunFault s1 t (some .metadataFault)

/-- Check the vector record of a delivery, if it carries one (R184). -/
def checkVec (s : State) (t : Nat) (vec : Bool) (bs : List Byte) : State :=
  if !vec || vecRecOk bs then s else sparseForm s t

/-- The die send of a writer to tile `t` granule `g`. -/
def sendOf (s : State) (t writer g : Nat) : Option (Nat × List Byte) :=
  let x := tileOf s writer
  (x.inflight.find? fun i => i.started && decide (i.prog = 0) && match i.op with
    | .send _ r _ tgt none _ => r == g && tgt == t
    | _ => false).bind fun i => match i.op with
      | .send l _ n _ _ _ => some (i.tag, stRead x (l * 64) (n * 64))
      | _ => none

/-- DIE_SEND_ARRIVE (R182 to R184, R203): a die send lands through the mover in a window whose SRC includes MOVER; `vec`
says that it carries a vector, which travels in its shortest form and is checked and restored, `route` a route record (R305). -/
def execDieSendArrive (t : Fin 1024) (writer : Fin 1024) (gran : Nat) (data : List Byte) (vec : Bool) (s : State)
    (route : Bool := false) : Res :=
  let (tag, sent) := match sendOf s t writer gran with
    | some (tag, bs) => (some tag, vecPacked vec bs)
    | none => (none, data)
  let r := deliver s t .mover writer gran (vecLanded vec sent) tag
  .next (if r.2 then checkRoute (checkVec r.1 t vec sent) t route sent else r.1)

/-- The checks of a WIN.OPEN at issue (R207, R218, R221): its operands, its window's state, its place, and the wait for the
ranges in flight that its own conflicts with. -/
def chkWinOpen (a : WinArgs) (x : Tile) : Check :=
  match fieldOf x 16 a.base, fieldIn x 15 1 16384 a.len with
  | some b, some n =>
    let r : Rng := ⟨b, n, true⟩
    if (winOf x a.id).opened then .fault .tsWindow .badState
    else if scratchTop x < b + n || (findWin x fun w => w.opened && overlaps (winRng w) r).isSome then .fault .tsWindow .badRange
    else if (boardOf x).any (conflicts r) then .hold 1
    else .go
  | _, _ => .fault .spRange .badRange

/-- The window a WIN.OPEN leaves. -/
def openWin (a : WinArgs) (x : Tile) : Win :=
  ⟨(fieldOf x 16 a.base).getD 0, (fieldOf x 15 a.len).getD 0, true, a.src % 32, a.dir, 0, 0, false, false, []⟩

/-- WIN.OPEN (R202, R207): the window's fields, ARRIVED zero; it retires as it issues. -/
def execWinOpen (t : Fin 1024) (a : WinArgs) (s : State) (rs : RangeSet := RangeSet.none) : Res :=
  .next (ctlIssueNow s t (.winOpen t a rs) 0xB0 (chkWinOpen a) fun x _ =>
    setTile s t (stepPc (modWin x a.id fun _ => openWin a x) (x.pc + 1)))

/-- The check of a WIN.CLOSE at issue (R207). -/
def chkWinClose (id : Nat) (x : Tile) : Check :=
  if !(winOf x id).opened || (winOf x id).closing then .fault .tsWindow .badState else .go

/-- WIN.CLOSE (R202, R207): nothing new is accepted; its ranges stay in the scoreboard until it retires (R209). -/
def execWinClose (t : Fin 1024) (id : Fin 8) (s : State) (rs : RangeSet := RangeSet.none) : Res :=
  .next (ctlIssueNow s t (.winClose t id rs) 0xB1 (chkWinClose id) fun x g =>
    setTile s t (stepPc (modWin x id fun v => { v with closing := true, retiring := true, board := g }) (x.pc + 1)))

/-- WIN_CLOSE_RETIRE (R202): every accepted put and started get has finished; the window is closed. -/
def execWinCloseRetire (t : Fin 1024) (id : Fin 8) (s : State) : Res :=
  let w := winOf (tileOf s t) id
  if w.opened && w.closing && w.pend = 0 then
    .next (settle (modTile s t fun x => modWin x id fun v =>
      { v with opened := false, closing := false, retiring := false, board := [] }) t)
  else .next s

/-! ### Transfers end (R230, R252, R256, R258) -/

/-- The columns whose values lie in a class A line: every column of the step where the line holds a parameter block or a
record that carries none (R256). -/
def lineColumns (s : State) (p line : Nat) : List Nat :=
  match (partOf s p).exec with
  | none => []
  | some e =>
    let named := (Sys2Proof.Config.aColumns e.version line).filter fun i => decide (i < e.cols.length)
    if named.isEmpty then List.range e.cols.length else named

/-- The step's answer to a class A line that failed (R256): the record, the step abandoned and run again; on the
re-run, at the same channel, the channel is counted and the step's requests are pre-empted. -/
def aCrcFault (s : State) (t a : Nat) : State :=
  match partOfTile s t, regionAt s a with
  | some p, some n =>
    let c := chanOf s n a
    let key := (p, execNum s p, c)
    let again := inRerun s t && s.mem.aRepeat.contains key
    let cols := lineColumns s p (a / 64)
    let rec' (s : State) : State := pushErr s .memACrc
      { unit := chanUnit c, block := some (a / 2048 * 2048), part := p, step := execNum s p, detail := (a / 64) :: cols }
    if again then
      let s1 := countFault s (chanUnit c) rec'
      abandonStep { s1 with mem := { s1.mem with aRepeat := s1.mem.aRepeat.erase key } } p ⟨.preempted, 0, false, none, false, 0, some cols, false, false⟩
    else
      let s1 := rec' { s with mem := { s.mem with aRepeat := s.mem.aRepeat ++ [key] } }
      waitFault s1 t
  | _, _ => s

/-- What a load brings of one granule, `err` being what its read's check shows (R254 to R258): zeros from a poisoned block,
whose step is tainted; a failed class A line's bytes are free. -/
def loadLine (s : State) (t laddr a : Nat) (err : LineErr) : State :=
  let put (s : State) (bs : List Byte) : State := modTile s t fun x => stWrite x (laddr * 64) bs
  let (s0, k) := lineRead s a err ⟨0, t⟩
  match k with
  | 0 => put s0 (memRead s0 a 64)
  | 1 =>
    let (k, s1) := drawFree s0 16
    aCrcFault (put s1 ((List.range 16).flatMap fun i => leBytes 4 (Sys2Proof.Config.freeWord (k + i)).toNat)) t a
  | _ =>
    let s1 := put s0 (List.replicate 64 (0 : Byte))
    match partOfTile s1 t with
    | some p => readPoisoned s1 p (blockOf a)
    | none => s1

/-- What a load brings of its granules, one check result for each (R254). -/
def loadRun (s : State) (t l m n : Nat) (errs : List LineErr) : State :=
  (List.range n).foldl (fun s k => loadLine s t (l + k) ((m + k) * 64) (errs.getD k .clean)) s

/-- The end of a get: the granules come over, and the owner's window counts it finished (R200, R202); a poisoned granule of the
owner's is a read of poison there (Table 8-4). -/
def finishGet (s : State) (t tag laddr raddr n : Nat) (d : Port) : State :=
  match neighbour t d with
  | none => retire s t tag
  | some o =>
    let y := tileOf s o
    let s1 := modTile s t fun x => stWrite x (laddr * 64) (stRead y (raddr * 64) (n * 64))
    let s2 := match findWin y fun w => contains w raddr n && decide (0 < w.pend) with
      | some w => modTile s1 o fun x => modWin x w fun v => { v with pend := v.pend - 1 }
      | none => s1
    let s3 := if readsPoison y [⟨raddr * 64, n * 64, false⟩] then poisonedRead s2 o 0x03 else s2
    settle (retire s3 t tag) o

/-- The module lines a MOVE touches: first line, lines, whether it writes. -/
def moveLines : Op → Option (Nat × Nat × Bool)
  | .load _ m n _ _ => some (m, n, false)
  | .store _ m n _ => some (m, n, true)
  | _ => none

/-- Whether an earlier MOVE of the tile, still in flight, must be performed first: the two touch one line, and one of them
writes (R252). -/
def moveWaits (x : Tile) (i : Infl) : Bool := match moveLines i.op with
  | none => false
  | some (m, n, w) => (earlier x i.tag).any fun j => match moveLines j.op with
    | none => false
    | some (k, l, v) => (w || v) && decide (m < k + l) && decide (k < m + n)

/-- The lines of a cached load that an error of the cache made it drop: they are fetched again (R198). -/
def refetch (s : State) (t tag : Nat) (i : Infl) (err : StoreErr) : State :=
  match err, i.op with
  | .cache l, .load _ m n true _ | .cacheTag l, .load _ m n true _ =>
    if (loadLines m n).contains l then modInfl s t tag fun j => { j with waits := j.waits ++ [l] } else s
  | _, _ => s

/-- The tile whose store a transfer reads: the neighbour's for a get, else the mover's own. -/
def readerOf (t : Nat) (i : Infl) : Nat := match i.op with
  | .getm _ _ _ d => (neighbour t d).getD t
  | _ => t

/-- MOVE_RETIRE (R230): a transfer retires once its writes are performed: loads and gets have brought their bytes,
stores are in memory, puts and die sends have landed, a Mirist send is acknowledged. MOVEs of one tile to one line are
performed in issue order (R252). `err` is what its reads of the store meet, `lines` what those of module memory show. -/
def execMoveRetire (t : Fin 1024) (tag : Nat) (s0 : State) (err : StoreErr := .clean) (lines : List LineErr := []) : Res :=
  match startedOp s0 t (fun i => i.tag == tag && !moveWaits (tileOf s0 t) i) with
  | none => .next s0
  | some i =>
    let s := storeErr s0 (readerOf t i) i.op.opc err
    match i.op with
    | .load l m n c _ =>
      if c then (if !i.waits.isEmpty then .next s0 else match err with
        | .cache _ | .cacheTag _ => .next (refetch s t tag i err)
        | _ => .next (retire s t tag))
      else .next (retire (loadRun s t l m n lines) t tag)
    | .store l m n _ => .next (retire (memWrite s (m * 64) (stRead (tileOf s t) (l * 64) (n * 64))) t tag)
    | .put .. => if i.prog = 0 then .next s0 else .next (retire s t tag)
    | .getm l r n d => if i.prog = 0 then .next s0 else .next (finishGet s t tag l r n d)
    | .send _ _ _ _ rem _ =>
      let waiting : Bool := match rem with
        | none => i.prog == 0
        | some _ => s.lnk.tx.any fun f => f.op == .send t tag
      if waiting then .next s0 else .next (retire s t tag)
    | _ => .next s0

/-- Whether an earlier MOVE.STORE of the tile, still in flight, is to be performed before the fill of a line (R252). -/
def fillWaits (x : Tile) (i : Infl) (line : Nat) : Bool :=
  (earlier x i.tag).any fun j => match moveLines j.op with
    | some (k, l, true) => decide (2 * line < k + l) && decide (k < 2 * line + 2)
    | _ => false

/-- CACHE_FILL_ARRIVE (R196, R198): a missed line's data arrive, as the tile's earlier stores to it left them (R252); a poisoned
line installs nothing and reads as zeros. -/
def execCacheFillArrive (t : Fin 1024) (tag line : Nat) (errs : List LineErr) (s : State) : Res :=
  match startedOp s t (fun i => i.tag == tag && i.waits.contains line && !fillWaits (tileOf s t) i line) with
  | none => .next s
  | some i =>
    match i.op with
    | .load l m n true _ =>
      let (s1, r, _) := linesRead s ⟨2, t⟩ [line * 2, line * 2 + 1] errs
      let bad := decide (r ≠ 0) || decide (isPoisoned s1 (blockOf (line * 128)))
      let data := if bad then List.replicate 128 (0 : Byte) else memRead s1 (line * 128) 128
      let s2 := modTile s1 t fun x =>
        let x1 := copyLine x l m n line data
        if bad then x1 else cacheTouch x1 ⟨line, data⟩
      let s3 := modInfl s2 t tag fun j => { j with waits := j.waits.filter (· != line) }
      match partOfTile s3 t with
      | some p => .next (if bad then readPoisoned s3 p (blockOf (line * 128)) else s3)
      | none => .next s3
    | _ => .next s

/-- The record of an instruction's class whose arrival count has not changed (R208; DEDUCED for the classes the rule does
not name, notes/assumptions/55.md). -/
def arrivalCode (op : Op) : RecCode := match op with
  | .vec .. => .vecRedTimeout
  | .bandSelect .. | .bandApply .. | .bandAudit .. => .bandMeta
  | .tbuild .. | .tlook .. | .drain .. => .tlaFeed
  | .qk .. | .pv .. | .softInit .. | .softBlock .. | .softExport .. => .aeFeed
  | _ => .tsArrivalTimeout

/-- The opcode of a SYNC that waits. -/
def syncOpc (x : Tile) : Nat := if x.waitEnd then 0xA2 else if x.waitBar.isSome then 0xA1 else 0xA0

/-- The WIN or STAGE instruction held at issue for its arrival count (R220). -/
def heldCount (x : Tile) : Bool := x.hold == 6 && x.held.any fun i => !arrived x (awaitOf (setOf i))

/-- ARRIVAL_TIMEOUT (R208): an instruction's arrival count has not changed for 2²⁰ turns; its class's record. -/
def execArrivalTimeout (t : Fin 1024) (s : State) : Res :=
  let x := tileOf s t
  match x.inflight.find? fun i => !arrived x i.await with
  | some i => .next (waitOut (waitFault (tileErr s t (arrivalCode i.op) .ok i.op.opc [t]) t) t)
  | none =>
    if x.waitBlocks.isSome && !arrived x x.waitCount then
      .next (waitOut (waitFault (tileErr s t .tsArrivalTimeout .ok (syncOpc x) [t]) t) t)
    else if heldCount x then .next (waitOut (waitFault (tileErr s t .tsArrivalTimeout .ok 0xFF [t]) t) t)
    else .next s

end Sys2Proof.Machine
end

