-- ==== Sys2Proof/Machine/Cp.lean ====
section
/-! DEFINITION. The control processor: SYNC, STAGE, barriers, the parameter section, abandonment and stops at a tile
(R224 to R242). -/

namespace Sys2Proof.Machine

/-! ### SYNC (R232 to R234) -/

/-- Issue a SYNC `i` (R232 to R234): its ranges stay in the scoreboard until it retires (R209); it holds issue for named blocks
and an arrival count, with what it does when they are reached. A tile that has an abandonment notice abandons here (R235). -/
def syncIssue (s : State) (t : Nat) (i : Instr) (opc blocks : Nat) (done : Tile → Tile) : State :=
  ctlIssue s t i opc (fun _ => .go) fun x g =>
    let s1 := setTile s t (done { stepPc x (x.pc + 1) with
      st := .held, hold := 6, waitBlocks := some blocks, waitCount := awaitOf (setOf i), syncBoard := g })
    if x.noticed then abandonNow s1 t else settle s1 t

/-- SYNC.WAIT (R232). -/
def execSyncWait (t : Fin 1024) (rs : RangeSet) (blocks : BitVec 6) (s : State) : Res :=
  .next (syncIssue s t (.syncWait t rs blocks) 0xA0 blocks.toNat id)

/-- SYNC.BAR (R233). -/
def execSyncBar (t : Fin 1024) (rs : RangeSet) (blocks : BitVec 6) (bar : Fin 64) (s : State) : Res :=
  .next (syncIssue s t (.syncBar t rs blocks bar) 0xA1 blocks.toNat fun x => { x with waitBar := some bar })

/-- SYNC.END (R234): a READ range of its set is the emission range of the end notice. -/
def execSyncEnd (t : Fin 1024) (rs : RangeSet) (s : State) : Res :=
  .next (syncIssue s t (.syncEnd t rs) 0xA2 31 fun x =>
    { x with waitEnd := true, endRange := x.syncBoard.find? fun r => !r.write })

/-- Let a tile that waits at a barrier go on. -/
def freeBar (bar : Nat) (x : Tile) : Tile :=
  if x.waitBar == some bar && x.waitBlocks.isNone then { x with waitBar := none, st := .run, hold := 0, syncBoard := [] } else x

/-- Instructions that a partition's tiles have issued in their step. -/
def issuedIn (s : State) (p : Nat) : Nat := ((tilesOf s p).map fun t => (tileOf s t).issued).sum

/-- BARRIER_RELEASE (R233): the home tile has as many arrivals as its entry counts and releases the barrier; where every
tile of the partition takes part, this is a switch point (R365). -/
def execBarrierRelease (t : Fin 1024) (bar : Fin 64) (s : State) : Res :=
  match barrierOf s t bar with
  | none => .next s
  | some (ps, n, home) =>
    let here := tabGet (tileOf s t).bars bar []
    if home ≠ t.val ∨ here.length < n then .next s
    else
      let s1 := modTile s t fun x => { x with bars := tabSet x.bars bar [] [] }
      let s2 := ps.foldl (fun s p => modTile s p (freeBar bar)) s1
      match partOfTile s t with
      | none => .next s2
      | some p => .next (if (partOf s p).switchDue && n == (diesOf (partOf s p)).length * 64 then
          modPart s2 p fun q => { q with barPoint := some (issuedIn s2 p) } else s2)

/-- SYNC_TIMEOUT (R233): a barrier not released in 2²⁰ turns; when it recurs the absent tiles become suspect. -/
def execSyncTimeout (t : Fin 1024) (bar : Fin 64) (s : State) : Res :=
  if (tileOf s t).waitBar ≠ some bar.val ∨ (tileOf s t).waitBlocks.isSome then .next s
  else match barrierOf s t bar with
    | none => .next s
    | some (ps, _, home) =>
      let here := tabGet (tileOf s home).bars bar []
      let absent := ps.filter fun p => !here.contains p
      let s1 := tileErr s t .syncTimeout .ok 0xA1 (bar.val :: absent)
      let s2 := if inRerun s t then
          absent.foldl (fun s p => makeSuspect (countFault s (tileUnit p) id) (tileUnit p)) s1
        else s1
      .next (waitFault s2 t)

/-- The valid emission records in a range of the store (Table 13-2). -/
def emissionsIn (x : Tile) (r : Rng) : List Emission :=
  (List.range (r.count * 8)).filterMap fun i =>
    let a := r.first * 64 + 8 * i
    let n (o w : Nat) : Nat := leNat (stRead x (a + o) w)
    if n 5 1 % 2 = 0 then none
    else some ⟨n 6 2, n 0 4 % 2 ^ 18, if n 4 1 = 0xFF then none else some (n 4 1), n 5 1 / 2 % 2 == 1⟩

/-- END_NOTICE (R234): a tile's end notice reaches the sorting office, with the emission range it carries. -/
def execEndNotice (t : Fin 1024) (s : State) : Res :=
  let x := tileOf s t
  match partOfTile s t with
  | none => .next s
  | some p =>
    match (partOf s p).exec with
    | none => .next s
    | some e =>
      if !x.ended || e.ended.contains t then .next s
      else
        let es := match x.endRange with
          | some r => emissionsIn x r
          | none => []
        .next (modPart s p fun q => { q with exec := some { e with ended := e.ended ++ [t.val], emissions := e.emissions ++ es } })

/-! ### STAGE (R225, R226) and the issue limit (R227) -/

/-- The checks of a STAGE.LOAD at issue (R218, R225, R241). -/
def chkStageLoad (secoff : Opd) (n : Nat) (x : Tile) : Check :=
  match fieldOf x 12 secoff, x.sec with
  | none, _ => .fault .spRange .badRange
  | some _, none => .hold 7
  | some o, some sec => if sec.words.length < o + n then .fault .spRange .badRange else .go

/-- The words a STAGE.LOAD copies. -/
def stageWords (secoff : Opd) (n : Nat) (x : Tile) : List Word :=
  (((x.sec.map Section.words).getD []).drop ((fieldOf x 12 secoff).getD 0)).take n

/-- STAGE.LOAD (R225): words of the section go into registers, and the tile shows the copy as a hold until its next
instruction; a section not yet arrived holds issue (R241). -/
def execStageLoad (t : Fin 1024) (secoff : Opd) (nm1 first : Fin 256) (s : State) (rs : RangeSet := RangeSet.none) : Res :=
  .next (ctlIssueNow s t (.stageLoad t secoff nm1 first rs) 0xC0 (chkStageLoad secoff (nm1.val + 1)) fun x _ =>
    setTile s t { stepPc { x with regs := tabSetRun x.regs first (stageWords secoff (nm1.val + 1) x) 0 } (x.pc + 1) with
      st := .held, hold := 5 })

/-- The tile after a STAGE.LOOP (R226). -/
def looped (x : Tile) (target cntr stepr : Nat) (stride : BitVec 16) : Tile :=
  let r1 := tabMod x.regs stepr 0 fun w => w + stride.signExtend 32
  let c := (tabGet r1 cntr 0).toNat
  let r2 := tabSet r1 cntr (BitVec.ofNat 32 (if 1 < c then c - 1 else 0)) 0
  stepPc { x with regs := r2 } (if 1 < c then target else x.pc + 1)

/-- STAGE.LOOP (R226). -/
def execStageLoop (t : Fin 1024) (target : Nat) (cntr stepr : Fin 256) (stride : BitVec 16) (s : State)
    (rs : RangeSet := RangeSet.none) : Res :=
  .next (ctlIssueNow s t (.stageLoop t target cntr stepr stride rs) 0xC1 (fun _ => .go) fun x _ =>
    setTile s t (looped x target cntr stepr stride))

/-- ISSUE_LIMIT (R227): the tile has issued 2²⁴ instructions in the step. -/
def execIssueLimit (t : Fin 1024) (s : State) : Res :=
  if canIssue s t && decide (2 ^ 24 ≤ (tileOf s t).issued) then .next (noticeDue (runaway s t 0xFF) t) else .next s

/-! ### The parameter section (R224, R241) -/

/-- Whether a section passes the boundary's checks: CHECK, a bank that holds VERSION, length, reserved fields. -/
def sectionOk (x : Tile) (sec : Section) : Bool :=
  sec.checkOk && sec.reserved.isNone && decide (sec.words.length ≤ 4096) && x.bankVer.any fun b => b.2 == sec.version

/-- The registers a step starts with (R224): the parameter block's address in 64 B units, the tile's index in its directory,
the step number. -/
def startRegs (block dirIndex step : Nat) : Tab Word :=
  tabSetRun [] 252 [BitVec.ofNat 32 block, BitVec.ofNat 32 (block / 2 ^ 32), BitVec.ofNat 32 dirIndex, BitVec.ofNat 32 step] 0

/-- A parameter section that fails its checks or does not come (R241): PB_CHECK, the step recomposed once; when it
recurs its requests are pre-empted and the sorting office instance becomes suspect. A reserved field that is not zero is
refused with BAD_FIELD, the record naming its byte offset (R5). Within 10 s of a firmware's switch it reverts the activation
(R489). -/
def pbFail (s : State) (t : Nat) (reserved : Option Nat) : State :=
  let s1 := match reserved with
    | some o => tileErr s t .pbCheck .badField 0xFF [t, o]
    | none => tileErr s t .pbCheck .ok 0xFF [t]
  let s2 := if inRerun s t then
      match partOfTile s1 t with
      | some p =>
        let u : UnitId := ⟨.soInst, 16 + (partOf s1 p).soInst, 0⟩
        makeSuspect (countFault s1 u id) u
      | none => s1
    else s1
  fwFault (rerunFault s2 t (some .preempted))

/-- Take a section into use in the running step. -/
def useSection (s : State) (t : Nat) (sec : Section) : State :=
  let x := tileOf s t
  if sectionOk x sec then setTile s t { x with sec := some sec, secNext := none }
  else pbFail (setTile s t { x with secNext := none }) t sec.reserved

/-- A tile's place in its partition's tile directory (R240). -/
def dirIndexOf (q : Part) (t : Nat) : Nat := ((diesOf q).takeWhile (· != t / 64)).length * 64 + t % 64

/-- The lines a tile prefetches of the block at line `l` (R241): header, directory entry, section. -/
def prefetchLines (s : State) (q : Part) (t l : Nat) : List Nat :=
  let rd (o n : Nat) : Nat := leNat (memRead s (l * 64 + o) n)
  let e := rd 84 4 + 8 * dirIndexOf q t
  let sec := rd e 4
  [l, l + 1, l + 2, l + 3, l + e / 64] ++ (List.range (ceilDiv (rd (e + 4) 2) 16)).map fun i => l + sec + i

/-- The bytes of column record `a` of a block that are reserved and not zero (R5, Table 9-19); `rd` reads the block. -/
def colReserved (rd : Nat → Nat) (a : Nat) : List Nat :=
  (([14, 15].map (a + ·)).filter fun i => rd i != 0) ++ (if rd (a + 24) < 4 then [] else [a + 24]) ++
    (List.range' (a + 25) 39).filter fun i => rd i != 0

/-- What the prefetch reads there (Tables 9-18, 9-19), and the first reserved byte of the block's header, column records and the
tile's entry that is not zero (R5). -/
def readSection (s : State) (q : Part) (t l : Nat) : Section :=
  let bs (o n : Nat) : List Byte := memRead s (l * 64 + o) n
  let rd (o n : Nat) : Nat := leNat (bs o n)
  let e := rd 84 4 + 8 * dirIndexOf q t
  let bad (o n : Nat) : List Nat := (List.range' o n).filter fun i => bs i 1 != [0]
  { step := rd 0 8, version := rd 8 4, checkOk := rd 248 4 == (crc32 (bs 0 248)).toNat,
    reserved := ((if rd 15 1 < 2 then [] else [15]) ++ bad 90 158 ++ bad 252 4 ++
      ((List.range (rd 12 2)).flatMap fun c => colReserved (rd · 1) (rd 80 4 + 64 * c)) ++ bad (e + 6) 2).head?,
    words := (List.range (rd (e + 4) 2)).map fun i => BitVec.ofNat 32 (rd (rd e 4 * 64 + 4 * i) 4) }

/-- Prefetch a tile's section of a step's block; a line that fails its CRC is answered as R256 says. -/
def prefetch (s : State) (t p : Nat) (e : Step) (errs : List LineErr) : State × Option Section :=
  let q := partOf s p
  let (s1, k, l) := linesRead s ⟨0, t⟩ (prefetchLines s q t e.block) errs
  if k = 0 then (s1, some (readSection s1 q t e.block)) else (aCrcFault s1 t (l * 64), none)

/-- PB_PREFETCH_DONE (R241): the section of the running step, where it had not come, or of the composed one. -/
def execPbPrefetchDone (t : Fin 1024) (errs : List LineErr) (s : State) : Res :=
  let x := tileOf s t
  match partOfTile s t with
  | none => .next s
  | some p =>
    let q := partOf s p
    match q.exec with
    | some e =>
      if x.sec.isNone && (x.st == .run || x.st == .held) then
        match prefetch s t p e errs with
        | (s1, some sec) => .next (useSection s1 t sec)
        | (s1, none) => .next s1
      else match q.composed with
        | some c =>
          let (s1, sec) := prefetch s t p c errs
          .next (modTile s1 t fun x => { x with secNext := sec })
        | none => .next s
    | none => match q.composed with
      | some c =>
        let (s1, sec) := prefetch s t p c errs
        .next (modTile s1 t fun x => { x with secNext := sec })
      | none => .next s

/-- PB_PREFETCH_TIMEOUT (R241): the running step's section has not come in 2²⁰ turns. -/
def execPbPrefetchTimeout (t : Fin 1024) (s : State) : Res :=
  let x := tileOf s t
  if (stepOf s t).isSome && x.sec.isNone && (x.st == .run || x.st == .held) then .next (waitOut (pbFail s t none) t) else .next s

/-! ### Abandonment and stops (R235, R242) -/

/-- Whether a tile's issue is held for what an abandonment releases: a section that has not come, an arrival count that its
window has not reached (R235 step 1, notes/assumptions/49.md). -/
def stuckHold (x : Tile) : Bool := x.st == .held && (x.hold == 7 || heldCount x)

/-- ABANDON_NOTICE (R235): a tile goes on issuing up to its next SYNC; one that waits at a SYNC or for what the abandonment
releases, whose program faulted or has ended, abandons at once; one in a field test has no step work to abandon (R42). -/
def execAbandonNotice (t : Fin 1024) (s : State) : Res :=
  let x := tileOf s t
  if !x.abandonOn then .next s
  else
    let s1 := setTile s t { x with abandonOn := false, noticed := true }
    if x.st == .fieldTest then .next (report (modTile s1 t fun x => { x with noticed := false }) t)
    else if x.faulted || x.ended || x.waitBlocks.isSome || x.waitBar.isSome || !(x.st == .run || x.st == .held) || stuckHold x then
      .next (abandonNow s1 t)
    else .next s1

/-- SWITCH_STOP_NOTICE (R242): a tile of a partition that is switching stops issue; issued work retires, but for TLA
instructions that have not started. -/
def execSwitchStopNotice (t : Fin 1024) (s : State) : Res :=
  match partOfTile s t with
  | none => .next s
  | some p =>
    if (partOf s p).switchSt == .quiesce then .next (settle (modTile s t fun x => { x with stopped := true }) t) else .next s

end Sys2Proof.Machine
end

