-- ==== Sys2Proof/Machine/Expand.lean ====
section
/-! DEFINITION. The weight and KV expander: feed lists, length bytes, block codes, band lists, forwarding and seals
(R272 to R288). -/

namespace Sys2Proof.Machine

/-! ### Block codes (R278, R279) -/

/-- Codes of one length met so far, by length: RFC 1951 section 3.2.2, step 1. -/
def lenCount (lens : List Nat) (n : Nat) : Nat := if n = 0 then 0 else (lens.filter (· == n)).length

/-- The first code of length `n` (RFC 1951 section 3.2.2, step 2). -/
def firstCode (lens : List Nat) : Nat → Nat
  | 0 => 0
  | n + 1 => (firstCode lens n + lenCount lens n) * 2

/-- The canonical codes of a table: (length, code, symbol), in symbol order. -/
def codesOf (lens : List Nat) : List (Nat × Nat × Nat) :=
  (lens.zipIdx).filterMap fun e =>
    if e.1 = 0 then none
    else some (e.1, firstCode lens e.1 + ((lens.take e.2).filter (· == e.1)).length, e.2)

/-- The bits of bytes, least significant first (RFC 1951 packing). -/
def bitsOf (bs : List Byte) : List Bool := bs.flatMap fun b => (List.range 8).map fun i => b.getLsbD i

/-- Bytes of bits, least significant first. -/
def packBits (bs : List Bool) : List Byte :=
  (chunksOf 8 (bs.length / 8 + 1) bs).filterMap fun c =>
    if c.isEmpty then none
    else some (BitVec.ofNat 8 (c.foldr (fun b n => (if b then 1 else 0) + 2 * n) 0))

/-- Decode `n` symbols: the symbols and the bits that remain; none where a code word has no symbol or the stream ends. -/
def huffRun (codes : List (Nat × Nat × Nat)) : List Bool → Nat → Nat → Nat → List Byte → Option (List Byte × List Bool)
  | bits, 0, _, _, acc => some (acc.reverse, bits)
  | [], _ + 1, _, _, _ => none
  | b :: r, n + 1, len, code, acc =>
    let c := 2 * code + (if b then 1 else 0)
    match codes.find? fun e => e.1 == len + 1 && e.2.1 == c with
    | some e => huffRun codes r n 0 0 (BitVec.ofNat 8 e.2.2 :: acc)
    | none => if 12 ≤ len + 1 then none else huffRun codes r (n + 1) (len + 1) c acc

/-- Decode the stream of a compressed block (R278): 2,048 symbols, every bit after them zero. -/
def decodeStream (lens : List Nat) (bs : List Byte) : Option (List Byte) :=
  match huffRun (codesOf lens) (bitsOf bs) 2048 0 0 [] with
  | some (out, rest) => if rest.any id then none else some out
  | none => none

/-- The bits of a code word, most significant first. -/
def codeBits (len code : Nat) : List Bool := (List.range len).map fun i => code.testBit (len - 1 - i)

/-- The stored form of a block: HDR and stream padded to 8 bytes, none where it would exceed 2,040 bytes (R278). -/
def encodeBlock (lens : List Nat) (hdr : Nat) (data : List Byte) : Option (List Byte) :=
  let cs := codesOf lens
  let words := data.mapM fun b => (cs.find? fun e => e.2.2 == b.toNat).map fun e => codeBits e.1 e.2.1
  words.bind fun ws =>
    let body := BitVec.ofNat 8 hdr :: packBits ws.flatten
    let n := ceilDiv body.length 8 * 8
    if 2040 < n then none else some (body ++ List.replicate (n - body.length) (0 : Byte))

/-! ### Lanes -/

/-- The number of a lane. -/
def laneKey (d e l : Nat) : Nat := (d * 4 + e) * 32 + l

/-- A lane. -/
def laneOf (s : State) (k : Nat) : Lane := tabGet s.exps.lanes k Lane.init

/-- Write a lane. -/
def setLane (s : State) (k : Nat) (x : Lane) : State :=
  { s with exps := { s.exps with lanes := tabSet s.exps.lanes k x Lane.init } }

/-- Whether a lane works: its die's partition executes a step and its expander is in service. -/
def laneLive (s : State) (d e : Nat) : Bool :=
  !isFenced s (expUnit d e) && !isFenced s (dieUnit d) && match partOfDie s d with
    | some p => ((partOf s p).exec.map fun x => x.why.isNone).getD false
    | none => false

/-- The list an entry waits for, once its expander has it. -/
def listFor (s : State) (d e : Nat) (f : FeedEntry) : Option BandList :=
  s.exps.lists.find? fun b => b.die == d && b.exp == e && b.layer == f.layer && b.group == f.group && b.set == f.set

/-- The blocks of consecutive numbers, whole. -/
def wholeBlocks (b n : Nat) : List FeedItem := (List.range n).map fun i => ⟨b + i, 2048⟩

/-- One half of a page (R286): the first NTOK × PGB × 16 bytes of the blocks from `b` on. -/
def halfItems (b ntok pgb : Nat) : List FeedItem :=
  let n := ntok * pgb * 16
  (List.range (ceilDiv n 2048)).map fun i => ⟨b + i, min 2048 (n - i * 2048)⟩

/-- The pages of a PAGES entry: block address and NTOK, from a section's words (R286). -/
def pageWords (ws : List Word) (secw : Nat) : List (Nat × Nat) :=
  (List.range ((ws.getD secw 0).toNat % 2048)).map fun i =>
    ((ws.getD (secw + 1 + 2 * i) 0).toNat % 2 ^ 30, (ws.getD (secw + 2 + 2 * i) 0).toNat % 64 + 1)

/-- The order of halves of a PAGES entry (R286). -/
def pageItems (ps : List (Nat × Nat)) (pgb lag : Nat) : List FeedItem :=
  let k (i : Nat) : List FeedItem := match ps[i]? with
    | some p => halfItems p.1 p.2 pgb
    | none => []
  let v (i : Nat) : List FeedItem := match ps[i]? with
    | some p => halfItems (p.1 + pgb / 2) p.2 pgb
    | none => []
  ((List.range lag).flatMap k) ++ (List.range ps.length).flatMap fun i => k (i + lag) ++ v i

/-- Whether a block lies in a page of partition `p` that is still being sealed (R287). -/
def beingSealed (s : State) (p b : Nat) : Bool :=
  (partOf s p).pages.any fun e => e.2.st == .sealing && decide (pageAddr s p e.1 ≤ b * 2048) &&
    decide (b * 2048 < pageAddr s p e.1 + (partOf s p).poolPage * 4096)

/-- Whether a STRICT layer's verdict is still to come for the records an entry reads (R179). -/
def verdictDue (s : State) (p : Nat) (f : FeedEntry) : Bool :=
  let cs := (tilesOf s p).flatMap fun t => (tileOf s t).bands.filter fun c => c.layer == f.layer && c.set == f.set && !c.makeup
  (strictLayer s p f.layer && (cs.isEmpty || cs.any fun c => !c.joined)) || cs.any fun c => c.policy == 2 && !c.joined

/-- Blocks of a GATHER's record that hold rows: 13 bytes of each of NROWS, RECBLK blocks at most (R285). -/
def gatherBlocks (rb nr : Nat) : Nat := min rb (ceilDiv (13 * nr) 2048)

/-- The places in a list of `n` bands of those whose slices k-chunk `j` is made of, at most four (R285). -/
def gatherWindow (n j : Nat) : List Nat :=
  let lo := 32 * j / 13
  (List.range (min n ((32 * j + 31) / 13 + 1) - lo)).map (lo + ·)

/-- The blocks a GATHER decodes for a list, up to four records in lockstep for each k-chunk (R285). -/
def gatherItems (base rb nr : Nat) (g : List Nat) : List FeedItem :=
  (List.range (ceilDiv (13 * g.length) 32)).flatMap fun j => (List.range (gatherBlocks rb nr)).flatMap fun m =>
    ((gatherWindow g.length j).filterMap (g[·]?)).map fun i => ⟨base + i * rb + m, 2048⟩

/-- The blocks of an entry (R284 to R286); none while its list, a STRICT layer's verdict, its section or a seal is waited
for. -/
def entryItems (s : State) (d e p : Nat) (f : FeedEntry) : Option (List FeedItem) :=
  match f.kind with
  | .run n => some (wholeBlocks f.base n)
  | .bands b nchunk redo =>
    (listFor s d e f).bind fun l =>
      if redo then
        if l.gatherList.isNone || verdictDue s p f then none
        else if l.redo then some (wholeBlocks f.base (nchunk * b)) else some []
      else some ((List.range nchunk).flatMap fun j => l.list.map fun i => ⟨f.base + j * b + i, 2048⟩)
  | .gather _ rb nr =>
    if verdictDue s p f then none
    else (listFor s d e f).bind fun l => l.gatherList.map (gatherItems f.base rb nr)
  | .pages secw pgb lag =>
    (tileOf s (d * 64 + f.rcp.headD 0)).sec.bind fun c =>
      let items := pageItems (pageWords c.words secw) pgb lag
      if items.any fun i => beingSealed s p i.blk then none else some items

/-- Whether a lane has delivered its current entry. -/
def entryDone (x : Lane) : Bool := x.opened && x.todo.isEmpty && x.reads.isEmpty && x.gather.isEmpty && x.places.isEmpty

/-- Leave a delivered entry. -/
def nextEntry (x : Lane) : Lane :=
  if entryDone x then { x with list := x.list.drop 1, home := x.home.drop 1, opened := false, chunk := 0, row := 0, nrec := 0,
                               idx := x.idx + 1, done := 0 } else x

/-- Whether an entry is a GATHER. -/
def isGather (f : FeedEntry) : Bool :=
  match f.kind with
  | .gather .. => true
  | _ => false

/-- Whether a lane below has a GATHER entry open that takes lane `l` too (R285). -/
def gatherTakes (s : State) (d e l : Nat) : Bool :=
  [1, 2, 3].any fun k => decide (k ≤ l) &&
    (let x := laneOf s (laneKey d e (l - k)); x.opened && (x.list.head?.map isGather).getD false)

/-- Whether none of the next three lanes of an expander has an entry open (R285). -/
def gatherFree (s : State) (d e l : Nat) : Bool :=
  [1, 2, 3].all fun k => decide (32 ≤ l + k) || !(laneOf s (laneKey d e (l + k))).opened

/-- Open the current entry, passing entries that emit nothing; a GATHER entry takes the next three lanes as well. DESIGN
CHOICE (log 58): it waits until no entry of theirs is open, and none opens while it runs. -/
def openLane (s : State) (d e p l : Nat) : Nat → Lane → Lane
  | 0, x => x
  | n + 1, x =>
    if x.opened then x
    else match x.list.head? with
      | none => x
      | some f =>
        if isGather f && !gatherFree s d e l then x else
        match entryItems s d (x.home.headD e) p f with
        | none => x
        | some [] => openLane s d e p l n (nextEntry { x with opened := true })
        | some items => { x with
            opened := true, todo := items,
            nrec := (((listFor s d (x.home.headD e) f).bind BandList.gatherList).getD []).length }

/-- Reads a lane may have outstanding: 24, of each of the four lanes that a GATHER takes (R283, R285). -/
def readRoom (x : Lane) : Nat := if (x.list.head?.map isGather).getD false then 96 else 24

/-- LENGTH_BYTE_ARRIVE (R277, R283): the next block of the entry gets its stored length; at most 24 reads of a lane wait. -/
def execLengthByteArrive (d : Fin 16) (e : Fin 4) (l : Fin 32) (s : State) : Res :=
  match partOfDie s d with
  | none => .next s
  | some p =>
    let k := laneKey d e l
    let x0 := laneOf s k
    if !laneLive s d e || gatherTakes s d e l then .next s
    else
      let x := openLane s d e p l (x0.list.length + 1) x0
      match x.todo with
      | [] => .next (setLane s k x)
      | i :: r =>
        if readRoom x ≤ x.reads.length then .next s
        else .next (setLane s k { x with todo := r, reads := x.reads ++ [(i, lenOf s i.blk)] })

/-! ### Decoding (R278, R283, R288) -/

/-- Whether an expander of partition `p` may read a region: class W or S, owned or SHARED (R272). -/
def expMay (r : Region) (p : Nat) : Bool := r.cls != .a && mayRead r p

/-- 2,048 bytes the spec gives no value, for a block that cannot be read. -/
def freeBlock (s : State) : List Byte × State :=
  let (k, s1) := drawFree s 2048
  ((List.range 2048).map fun i => (Sys2Proof.Config.freeWord (k + i)).setWidth 8, s1)

/-- A block that cannot be decoded (R288): its record, then uncorrectable for its class (R257), and the step tainted. -/
def badBlock (s : State) (d e p b : Nat) (c : RecCode) : List Byte × State :=
  let s1 := pushErr s c { status := .poisoned, unit := expUnit d e, block := some (b * 2048), part := p, step := execNum s p }
  let s2 := readPoisoned (poisonBlock s1 (b * 32) ⟨1, d * 4 + e⟩) p b
  freeBlock s2

/-- The lines the read of a block of length byte `len` takes (R277). -/
def blockLines (b len : Nat) : List Nat := linesOf (b * 2048) (if len = 0xFF then 2048 else (len + 1) * 8)

/-- The decoded bytes of a block read with length byte `len` under an entry's CODE. -/
def blockData (s : State) (d e p : Nat) (f : FeedEntry) (b len : Nat) (errs : List LineErr) : List Byte × State :=
  let a := b * 2048
  match regionAt s a with
  | none =>
    freeBlock (pushErr s .memUnmapped { status := .badRange, unit := expUnit d e, block := some a, part := p, fromTile := true })
  | some n =>
    if !expMay (regionOf s n) p then
      freeBlock (pushErr s .memPerm { status := .notPermitted, unit := expUnit d e, block := some a, part := p, fromTile := true })
    else
      let (s1, r, _) := linesRead s ⟨1, d * 4 + e⟩ (blockLines b len) errs
      if r ≠ 0 then freeBlock (readPoisoned s1 p b)
      else if len = 0xFF then (memRead s1 a 2048, s1)
      else
        let stored := memRead s1 a ((len + 1) * 8)
        let hdr := (stored.headD 0).toNat
        let c := codeSlotOf s1 d f.codeSlot
        if hdr ≠ f.codeSlot + 16 * f.codeGen ∨ !c.loaded ∨ c.gen ≠ f.codeGen then badBlock s1 d e p b .expGen
        else match decodeStream c.lens (stored.drop 1) with
          | some bs => (bs, s1)
          | none => badBlock s1 d e p b .expDecode

/-- Decode some reads one after another, the check results in the order of their lines: the state, and each one's bytes with
its block. -/
def decodeReads (s : State) (d e p : Nat) (f : FeedEntry) : List (FeedItem × Nat) → List LineErr → List (List (Nat × Byte)) →
    State × List (List (Nat × Byte))
  | [], _, acc => (s, acc)
  | (i, len) :: r, errs, acc =>
    let (bs, s1) := blockData s d e p f i.blk len errs
    decodeReads s1 d e p f r (errs.drop (blockLines i.blk len).length) (acc ++ [(bs.take i.take).map fun b => (i.blk, b)])

/-- The bytes of `k` rows of a GATHER's k-chunk from its records' bytes at hand (R285): the concatenated slices of a row from
byte 32j on, code 121 past the last. -/
def gatherRows (x : Lane) (f : FeedEntry) (bufs : List (List (Nat × Byte))) (k : Nat) : List (Nat × Byte) :=
  let lo := 32 * x.chunk / 13
  (List.range k).flatMap fun r => (List.range 32).map fun q =>
    let at' := 32 * x.chunk + q
    if at' < 13 * x.nrec then (bufs.getD (at' / 13 - lo) []).getD (13 * r + at' % 13) (f.base, 121) else (f.base, 121)

/-- A GATHER after one more block of each record of its window (R285): it emits the rows that are whole in every record, and past
the window's last block goes on to the next k-chunk. -/
def gatherStep (x : Lane) (f : FeedEntry) (rb nr : Nat) (got : List (List (Nat × Byte))) : Lane :=
  let bufs := (got.zipIdx).map fun b => x.gather.getD b.2 [] ++ b.1
  let seen := 13 * x.row + (bufs.headD []).length
  let last := decide (2048 * gatherBlocks rb nr ≤ seen)
  let k := if last then nr - x.row else min (nr - x.row) ((bufs.headD []).length / 13)
  let out := gatherRows x f bufs k
  let places := x.places ++ (chunksOf 2048 (out.length / 2048 + 1) out).filter fun c => !c.isEmpty
  if last then { x with chunk := x.chunk + 1, row := 0, gather := [], places := places }
  else { x with row := x.row + k, gather := bufs.map (·.drop (13 * k)), places := places }

/-- BLOCK_DECODE (R283, R285, R288): the oldest read's bytes are decoded into one of the lane's two places; a GATHER entry decodes
a block of each record of its window in lockstep, once its four lanes' eight places have room for the rows. -/
def execBlockDecode (d : Fin 16) (e : Fin 4) (l : Fin 32) (errs : List LineErr) (s : State) : Res :=
  let k := laneKey d e l
  let x := laneOf s k
  match partOfDie s d, x.list.head? with
  | some p, some f =>
    if !laneLive s d e then .next s
    else match f.kind with
      | .gather _ rb nr =>
        let w := (gatherWindow x.nrec x.chunk).length
        if w = 0 ∨ x.reads.length < w ∨ 5 < x.places.length then .next s
        else
          let (s1, got) := decodeReads s d e p f (x.reads.take w) errs []
          .next (setLane s1 k (nextEntry (gatherStep { x with reads := x.reads.drop w } f rb nr got)))
      | _ =>
        if x.reads.isEmpty || decide (2 ≤ x.places.length) then .next s
        else
          let (s1, got) := decodeReads s d e p f (x.reads.take 1) errs []
          .next (setLane s1 k { x with reads := x.reads.drop 1, places := x.places ++ got })
  | _, _ => .next s

/-! ### Forwarding (R98, R283) -/

/-- Bytes in a tile's feed FIFO. -/
def fifoLen (x : Tile) (f : Nat) : Nat := if f = 0 then x.tlaFifo.length else if f = 1 then x.fifoA.length else x.fifoB.length

/-- Append what lane `k` forwards of expander `e`'s list to a tile's feed FIFO. -/
def fifoPush (x : Tile) (e k f : Nat) (bs : List (Nat × Byte)) : Tile :=
  let cs : List FeedByte := bs.map fun b => ⟨e, k, b.1, b.2⟩
  if f = 0 then { x with tlaFifo := x.tlaFifo ++ cs }
  else if f = 1 then { x with fifoA := x.fifoA ++ cs }
  else { x with fifoB := x.fifoB ++ cs }

/-- How many bytes recipient `r` of a lane discards of what comes next (R366). -/
def skipOf (x : Lane) (r : Nat) : Nat := ((x.skip.filter fun e => e.1 == r).map Prod.snd).sum

/-- Bytes of what was forwarded that went to recipient `r`. -/
def sentTo (l : List Sent) (r : Nat) : Nat := ((l.filter fun h => h.ent.rcp.contains r).map fun h => h.item.take).sum

/-- What of the forwarded a recipient's 4 KiB FIFO can still hold. -/
def trimSent : List Sent → List Sent
  | [] => []
  | h :: r => if h.ent.rcp.all fun t => decide (4096 ≤ sentTo r t) then trimSent r else h :: r

/-- The lane once a place of its entry `f` is forwarded. -/
def forwarded (x : Lane) (e : Nat) (f : FeedEntry) (c : List (Nat × Byte)) : Lane :=
  let h : Sent := ⟨x.idx, f, x.home.headD e, ⟨(c.headD (f.base, 0)).1, c.length⟩, x.done⟩
  nextEntry { x with places := x.places.drop 1, done := x.done + c.length, sent := trimSent (x.sent ++ [h]),
                     skip := (x.skip.map fun q => if f.rcp.contains q.1 then (q.1, q.2 - c.length) else q).filter fun q => q.2 != 0 }

/-- BLOCK_FORWARD (R98): the oldest place goes to every recipient once each has 2 KiB of its 4 KiB FIFO free. A recipient discards
what it had consumed before a switch (R366). -/
def execBlockForward (d : Fin 16) (e : Fin 4) (l : Fin 32) (s : State) : Res :=
  let k := laneKey d e l
  let x := laneOf s k
  match x.list.head?, x.places with
  | some f, c :: _ =>
    let ts := f.rcp.map fun r => d.val * 64 + r
    if !laneLive s d e || !ts.all fun t => decide (fifoLen (tileOf s t) f.fifo ≤ 2048) then .next s
    else
      let s1 := setLane s k (forwarded x e f c)
      .next (ts.foldl (fun s t => settle (modTile s t fun y =>
        fifoPush y (x.home.headD e) k f.fifo (c.drop (skipOf x (t % 64)))) t) s1)
  | _, _ => .next s

/-! ### Band lists (R284, R285, R288) -/

/-- What the tiles of a die hold of a record whose APPLY has its verdict and sends its list to expander `e`. -/
def appliedOf (s : State) (d e layer group set : Nat) (makeup : Bool) : List BandSt :=
  ((List.range 64).filterMap fun i => bandOf (tileOf s (d * 64 + i)) layer group set makeup).filter fun c =>
    c.feedExp == e && c.verdict.isSome

/-- The bands computed of a selection: the list and its audit, or every band after a failed verdict. -/
def computedOf (c : BandSt) : List Nat :=
  if c.verdict == some false then List.range c.b else (List.range c.b).filter fun i => c.list.contains i || c.audit.contains i

/-- What an expander holds of a layer, group and set once its APPLYs have sent their lists; under NOTE nothing is made up
(Table 7-4). -/
def bandLists (d e layer group set : Nat) (sel : BandSt) (mk : Option BandSt) : BandList :=
  let failed := sel.verdict == some false
  let dense := failed || sel.dense || (mk.map BandSt.dense).getD false
  let extra := (mk.map BandSt.list).getD []
  let noted := sel.audited && sel.policy == 0
  let g := if dense then List.range sel.b else (List.range sel.b).filter fun i => sel.list.contains i || extra.contains i
  { die := d, exp := e, layer := layer, group := group, set := set, list := computedOf sel,
    gatherList := if failed || mk.isSome || noted then some g else none, redo := !failed && dense && decide ((computedOf sel).length < sel.b) }

/-- BAND_LIST_ARRIVE (R284, R288): the recipients' APPLYs send their verified lists, `copies` as they arrive; lists that
differ abandon the step. -/
def execBandListArrive (d : Fin 16) (e : Fin 4) (layer group : Nat) (set : Fin 8) (copies : List (List Nat)) (s : State) : Res :=
  let sels := appliedOf s d e layer group set false
  match partOfDie s d, sels with
  | some p, sel :: _ =>
    if isFenced s (dieUnit d) || !((partOf s p).exec.map fun x => x.why.isNone).getD false then .next s
    else
      let mks := appliedOf s d e layer group set true
      let sent := match mks with
        | [] => sels.map computedOf
        | ms => ms.map BandSt.list
      if (sent ++ copies).any (some · != sent.head?) then
        let s1 := pushErr s .expList { unit := expUnit d e, part := p, step := execNum s p, detail := [layer, group, set.val] }
        .next (abandonStep s1 p ⟨.ok, 0, true, none, false, 0, none, true, false⟩)
      else
        let b := bandLists d e layer group set sel mks.head?
        let keep := s.exps.lists.filter fun x =>
          !(x.die == b.die && x.exp == b.exp && x.layer == layer && x.group == group && x.set == set.val)
        .next { s with exps := { s.exps with lists := keep ++ [b] } }
  | _, _ => .next s

/-- Whether an entry waits for a band list. -/
def waitsList (s : State) (d e : Nat) (f : FeedEntry) : Bool :=
  match f.kind with
  | .bands _ _ redo => match listFor s d e f with
    | some l => redo && l.gatherList.isNone
    | none => true
  | .gather .. => ((listFor s d e f).bind BandList.gatherList).isNone
  | _ => false

/-- EXP_LIST_TIMEOUT (R288): a list absent for 2²⁰ turns; when it recurs the expander becomes suspect. -/
def execExpListTimeout (d : Fin 16) (e : Fin 4) (l : Fin 32) (s : State) : Res :=
  let x := laneOf s (laneKey d e l)
  match partOfDie s d, x.list.head? with
  | some p, some f =>
    if !laneLive s d e || x.opened || !waitsList s d (x.home.headD e) f then .next s
    else
      let s1 := pushErr s .expList { unit := expUnit d e, part := p, step := execNum s p, detail := [f.layer, f.group, f.set] }
      let again := ((partOf s p).exec.map Step.rerun).getD false
      let s2 := if again then makeSuspect (countFault s1 (expUnit d e) id) (expUnit d e) else s1
      .next (abandonStep s2 p ⟨.ok, 0, true, none, false, 0, none, true, false⟩)
  | _, _ => .next s

/-! ### Seals (R287) -/

/-- Encode one block in its own place: the stored bytes, then the length byte; raw where it does not fit. -/
def sealBlock (s : State) (lens : List Nat) (hdr b : Nat) : State :=
  if isPoisoned s b then s
  else match encodeBlock lens hdr (memRead s (b * 2048) 2048) with
    | some bs => setLen (memPutRun s (b * 2048) bs) b (bs.length / 8 - 1)
    | none => setLen s b 0xFF

/-- SEAL_COMPLETE (R287): every block of the page is encoded under the slot and generation of its KV_CODE; a page
without holders frees when its seal ends (R345). -/
def execSealComplete (p : Fin 8) (page : Nat) (s : State) : Res :=
  let g := pageOf (partOf s p) page
  if g.st != .sealing then .next s
  else
    let c := codeSlotOf s (sealDie s p (page / 2 ^ 32)) (g.code % 16)
    let lens := if c.loaded && c.gen == g.code / 16 then c.lens else []
    let b0 := blockOf (pageAddr s p page)
    let s1 := (List.range ((partOf s p).poolPage * 2)).foldl (fun s i => sealBlock s lens g.code (b0 + i)) s
    .next (modPart s1 p fun x => modPage x page fun g =>
      if g.refs = 0 then Page.init else { g with st := .sealed, writer := none })

end Sys2Proof.Machine
end

