-- ==== Sys2Proof/Machine/Host.lean ====
section
/-! DEFINITION. The host interface: link, resets, BAR4, rings, mailbox doorbell, MSI-X, DMA ends, register writes (ch. 16, 24). -/

namespace Sys2Proof.Machine

/-! ### Link and resets (R385, R387) -/

/-- LINK_TRAINED (R385): the mode is checked against MIN_MODE. -/
def execLinkTrained (speed width : Nat) (flit : Bool) (s : State) : Res :=
  if !s.side.mainOn || s.side.perst || modeRank speed width = 0 then .next s
  else .next (checkMode { s with hif := { s.hif with speed := speed, width := width, flit := flit, hostUp := true } })

/-- What a reset of function `f` does (Table 16-3): rings DETACHED, mailbox idle, MSI-X masked and cleared. -/
def fnReset (s : State) (f : Nat) : State :=
  let s1 := (fnRings s f).foldl (fun s r => modRing (setRingSt s r.1 r.2 .detached) r.1 r.2 fun x => { x with latched := none }) s
  modFn s1 f fun x => { x with mbxBusy := false, mbxDone := false, mbxResp := none, masked := Fn.init.masked, pba := [],
                               msix := [], bme := false }

/-- VF Enable cleared: every VF as for a VF FLR; their partitions pass to PF0. -/
def vfsOff (s : State) : State :=
  let s1 := ((List.range 8).map (· + 1)).foldl fnReset s
  { s1 with hif := { s1.hif with numVfs := 0 } }

/-- PF0's reset. -/
def pf0Reset (s : State) : State :=
  let s1 := vfsOff (fnReset s 0)
  { s1 with hif := { s1.hif with bar4Base := 0 } }

/-- HOST_LINK_RESET (R385): every function as for its FLR; partitions, slots, steps and the timebase run on. -/
def execHostLinkReset (perst : Bool) (s : State) : Res :=
  let s1 := if perst && !s.side.perst then
    { s with side := { s.side with perst := true, perstAt := nowNs s, perstStuck := false } } else s
  if !s.side.mainOn then .next s1
  else
    let s2 := modFn (pf0Reset s1) 0 fun x => { x with bar4Size := 1 }
    .next { s2 with hif := { s2.hif with speed := 0, width := 0, flit := false, belowMin := false, hostUp := false } }

/-- VF_FLR (R387). -/
def execVfFlr (k : Fin 9) (s : State) : Res :=
  if k.val = 0 || decide (s.hif.numVfs < k.val) then .next s else .next (fnReset s k.val)

/-- PF0_FLR (R387). -/
def execPf0Flr (s : State) : Res := .next (pf0Reset s)

/-- VF_ENABLE_CLEAR (R387). -/
def execVfEnableClear (s : State) : Res := .next (vfsOff s)

/-- VF_ENABLE_SET (R386): the VFs are enabled and drive their partitions. -/
def execVfEnableSet (n : Nat) (s : State) : Res :=
  if !s.boot.presented || s.boot.st = .recovery || decide (8 < n) then .next s
  else .next { s with hif := { s.hif with numVfs := n } }

/-- BUS_MASTER_ENABLE_CHANGE (R394, R399): cleared, a function's ACTIVE rings pause; set, they return. -/
def execBusMasterEnableChange (fn : Fin 9) (on : Bool) (s : State) : Res :=
  let f := fn.val
  let s1 := modFn s f fun x => { x with bme := on }
  if on then
    if (fnOf s f).paused then .next s1
    else .next ((fnRings s1 f).foldl (fun s r =>
      if (ringOf s r.1 r.2).st == .paused then setRingSt s r.1 r.2 .active else s) s1)
  else .next ((fnRings s1 f).foldl (fun s r =>
    if (ringOf s r.1 r.2).st == .active then setRingSt s r.1 r.2 .paused else s) s1)

/-! ### Malformed and unimplemented requests (R402) -/

/-- A request to an unimplemented BAR range: UR, a violation and HIF_TLP (Table 16-13). -/
def noBar (s : State) (f off : Nat) : State :=
  emit (violate s f fun s => pushErr s .hifTlp { detail := [f, 1] }) (.reply (fnOrigin f) off .ur)

/-- TLP_ERROR (R402): AER is the host's; here the record and the violation. -/
def execTlpError (fn : Fin 9) (unsupported : Bool) (s : State) : Res :=
  if !s.side.mainOn then .next s
  else if unsupported then .next (noBar s fn.val 0)
  else .next (violate s fn.val fun s => pushErr s .hifTlp { detail := [fn.val, 0] })

/-! ### BAR4 (R390, Table 16-5) -/

/-- Whether PF0 may reach a region through BAR4. -/
def bar4May (s : State) (r : Region) (write : Bool) : Bool :=
  if r.owner < 8 then driverOf s r.owner == 0 && !(write && r.cls == .w) else r.owner == 8 && !write

/-- A refused BAR4 access: UR for a read, a violation of PF0 with its record (Tables 10-4, 16-5). -/
def bar4No (s : State) (off : Nat) (read : Bool) (c : RecCode) (a : Nat) : State :=
  let st : Status := if c = .memPerm then .notPermitted else .badRange
  let s1 := violate s 0 fun s => pushErr s c { status := st, block := some (a / 2048 * 2048), detail := [0, a] }
  emit s1 (.reply .pf0 off (if read then .ur else .discarded))

/-- MEM_POISON with reader PF0 for an access to a poisoned block (Table 16-5). -/
def bar4Poison (s : State) (n a : Nat) : State :=
  let r := regionOf s n
  pushErr s .memPoison
    { status := .poisoned, unit := chanUnit (chanOf s n a), block := some (a / 2048 * 2048),
      part := if r.owner < 8 then r.owner else 8, event := poisonEvent r, detail := [n, 3, 0] }

/-- The first line of an access that BAR4 refuses, with its record (Table 16-5). -/
def bar4Refuses (s : State) (write : Bool) (ls : List Nat) : Option (RecCode × Nat) :=
  ls.findSome? fun l => match regionAt s (l * 64) with
    | none => some (.memUnmapped, l)
    | some n => if bar4May s (regionOf s n) write then none else some (.memPerm, l)

/-- What a read that met a bad line leaves (Table 16-5): MEM_A_CRC, or MEM_POISON unless the read itself poisoned it. -/
def bar4Bad (s s1 : State) (k l : Nat) : State :=
  match regionAt s1 (l * 64) with
  | none => s1
  | some n =>
    if k = 1 then pushErr s1 .memACrc { unit := chanUnit (chanOf s n (l * 64)), block := some (l / 32 * 2048), detail := [l] }
    else if isPoisoned s (l / 32) then bar4Poison s1 n (l * 64) else s1

/-- A permitted BAR4 write (R252, R259, Table 16-5): lines it covers in part are read and checked first, and one of those in a
poisoned block keeps it from being performed; whole lines are written. -/
def bar4Write (s : State) (off a : Nat) (bs : List Byte) (errs : List LineErr) : State :=
  let n := bs.length
  let (s1, k, l) := linesRead s ⟨3, 0⟩ ((linesOf a n).filter fun l => !(wholeLines a n).contains l) errs
  if k = 0 then emit (memWrite s1 a bs) (.reply .pf0 off .written)
  else emit (bar4Bad s s1 k l) (.reply .pf0 off .discarded)

/-- BAR4_ACCESS (R390): `errs` are what the checks of the lines read show, in order. -/
def execBar4Access (off len : Nat) (data : Option (List Byte)) (ep : Bool) (errs : List LineErr) (s : State) : Res :=
  let a := s.hif.bar4Base * gib + off
  let n := (data.map List.length).getD len
  if s.boot.st ≠ .run || s.pwr.sleep != .awake then .next (emit s (.reply .pf0 off .ur))
  else if decide ((fnOf s 0).bar4Size * gib < off + n) then .next (noBar s 0 off)
  else match data with
    | some bs =>
      if ep then
        let s1 := violate s 0 fun s => pushErr s .hifPoisonedTlp { detail := [0, a] }
        .next (emit s1 (.reply .pf0 off .discarded))
      else match bar4Refuses s true (linesOf a bs.length) with
        | some (c, l) => .next (bar4No s off false c (max a (l * 64)))
        | none => .next (bar4Write s off a bs errs)
    | none => match bar4Refuses s false (linesOf a len) with
      | some (c, l) => .next (bar4No s off true c (max a (l * 64)))
      | none =>
        let (s1, k, l) := linesRead s ⟨3, 0⟩ (linesOf a len) errs
        if k = 0 then .next (emit s1 (.reply .pf0 off (.bytes (memRead s1 a len))))
        else .next (emit (bar4Bad s s1 k l) (.reply .pf0 off .ep))

/-! ### Doorbells, pauses, fetches (R393 to R395, R403) -/

/-- Whether a VF is bound to a partition that does not exist. -/
def vfAbsent (s : State) (f : Nat) : Bool := f != 0 && !(vfBind s f).remote && !(partOf s (vfBind s f).part).valid

/-- A write to a VF of an absent partition: ignored, counted (R386, Table 16-13). -/
def absentWrite (s : State) (f : Nat) : State := violate s f fun s => pushErr s .hifField { status := .badState, detail := [f] }

/-- Whether a function takes requests: PF0, or a VF the host has enabled. -/
def fnLive (s : State) (f : Nat) : Bool := f == 0 || decide (f ≤ s.hif.numVfs)

/-- A write of a ring's DB register (R393, R403, R484, R517); one during its function's pause is latched, not checked. -/
def dbWrite (s : State) (f : Fin 9) (p : Nat) (r : Nat) (value : Nat) : State :=
  let x := ringOf s p r
  if s.boot.st ≠ .run || !fnLive s f then s
  else if vfAbsent s f then absentWrite s f
  else if (fnOf s f).paused then (if driverOf s p = f then modRing s p r fun x => { x with latched := some value } else s)
  else if driverOf s p ≠ f || x.st = .detached then
    violate s f fun s => pushErr s .hifDoorbell { status := .violation, part := p, detail := [f, r, value, x.pidx, x.cidx] }
  else if x.st = .haltedViolation || x.st = .haltedDma then s
  else
    let s1 := doorbell s f p r value
    if r < 3 && doorbellOk x r value then wakeUp s1 (.doorbell f) else s1

/-- DOORBELL_WRITE (R393). -/
def execDoorbellWrite (fn : Fin 9) (p : Fin 8) (r : Fin 5) (value : BitVec 32) (s : State) : Res :=
  .next (dbWrite s fn p r value.toNat)

/-- Check a doorbell latched during a pause, once (R393, Table 16-13). -/
def latchedBell (f : Fin 9) (s : State) (pr : Nat × Nat) : State :=
  match (ringOf s pr.1 pr.2).latched with
  | none => s
  | some v => dbWrite (modRing s pr.1 pr.2 fun x => { x with latched := none }) f pr.1 pr.2 v

/-- The rings of the partitions a function drives. -/
def drivenRings (s : State) (f : Nat) : List (Nat × Nat) :=
  ((List.range 40).map fun i => (i / 5, i % 5)).filter fun r => driverOf s r.1 == f

/-- PAUSE_END (R403): the rings return, the closing HIF_PAUSE record, the latched doorbells checked. -/
def execPauseEnd (fn : Fin 9) (s : State) : Res :=
  let f := fn.val
  let x := fnOf s f
  if !x.paused || decide (nowNs s < x.pauseEnd) then .next s
  else
    let s1 := modFn s f fun x => { x with paused := false, suppressed := 0 }
    let s2 := pushErr s1 .hifPause { status := .violation, detail := [f, x.suppressed] }
    let s3 := (fnRings s2 f).foldl (fun s r =>
      if (ringOf s r.1 r.2).st == .paused && x.bme then setRingSt s r.1 r.2 .active else s) s2
    .next ((drivenRings s3 f).foldl (latchedBell fn) s3)

/-- Take one fetched descriptor: its ACCEPTED entry, and its place among the commands taken (R416). -/
def takeOne (p r f : Nat) (s : State) (d : Fetched) : State :=
  let idx := (ringOf s p r).cidx
  let x : Src := ⟨Fin.ofNat 9 f, Fin.ofNat 8 p, Fin.ofNat 32 d.ctx, some (Fin.ofNat 5 r), idx, d.tag, d.slot, none, none, none⟩
  if !cmdKnown d.cmd then modRing (refuseUnknown s x d.cmd) p r fun x => { x with cidx := (x.cidx + 1) % 2 ^ 32 } else
  let j : JSrc := { part := p, tag := d.tag, origin := originNum (modNum s) (fnOrigin f), cmd := d.cmd, src := r,
                    ctx := d.ctx, slot := d.slot, ridx := idx }
  let k : Taken := ⟨f, p, r, idx, d.tag, d.cmd, nextJSeq s p, nowNs s⟩
  let s1 := journal s j 0 .accepted 0
  let s2 := { s1 with hif := { s1.hif with taken := s1.hif.taken ++ [k] } }
  modRing s2 p r fun x => { x with cidx := (x.cidx + 1) % 2 ^ 32 }

/-- Forward one fetched descriptor of a relayed function to its module, which takes it there (R400); ring commands act
on the ring set here. -/
def forwardOne (m p r : Nat) (s : State) (d : Fetched) : State :=
  let x := ringOf s p r
  if 0x10 ≤ d.cmd ∧ d.cmd ≤ 0x13 then takeOne p r x.owner s d else
  let body := [p, r, x.cidx, d.cmd, d.tag, d.slot, d.ctx]
  let s1 := if r = 0 then sendVc0 s m 2 body else newFlow s m r 2 64 .relay
  modRing s1 p r fun x => { x with cidx := (x.cidx + 1) % 2 ^ 32 }

/-- Entries waiting in a submit ring. -/
def ringWaiting (s : State) (p r : Nat) : Nat :=
  let x := ringOf s p r
  if x.st == .active && (fnOf s x.owner).bme then (x.pidx + 2 ^ 32 - x.cidx) % 2 ^ 32 else 0

/-- RING_FETCH (R395, R417): a batch of up to 64 entries, control ring first, then LC, then BE. -/
def execRingFetch (p : Fin 8) (r : Fin 5) (descs : List Fetched) (s : State) : Res :=
  let n := ringWaiting s p.val r.val
  let x := ringOf s p.val r.val
  let ahead := (List.range r.val).any fun q => decide (0 < ringWaiting s p.val q)
  if s.boot.st ≠ .run || s.pwr.sleep != .awake || !s.hif.hostUp || decide (2 < r.val) || descs.isEmpty ||
      decide (min 64 n < descs.length) || ahead || decide (4096 ≤ (partOf s p.val).hold.length) ||
      decide (32768 < (journalOf s p.val).queue.length) then .next s
  else
    let at' := x.cidx % 2 ^ x.log2
    let k := min descs.length (2 ^ x.log2 - at')
    let s0 := emit s (.hostRead x.owner (x.base + at' * 64) (k * 64))
    let s1 := if k < descs.length then emit s0 (.hostRead x.owner x.base ((descs.length - k) * 64)) else s0
    let s2 := match relayTo s1 p.val with
      | some m => descs.foldl (forwardOne m p.val r.val) s1
      | none => descs.foldl (takeOne p.val r.val x.owner) s1
    .next (writeback s2 p.val r.val)

/-! ### Output batches and interrupts (R395, R398) -/

/-- OUTPUT_BATCH_WRITE (R392, R395, R398): what is held, then both indices, then the message when COUNT is met. -/
def execOutputBatchWrite (p : Fin 8) (r : Fin 5) (s : State) : Res :=
  if r.val < 3 || !ringWritable s p.val r.val then .next s
  else
    let s1 := writeback (drainRing s p.val r.val) p.val r.val
    let x := ringOf s1 p.val r.val
    .next (if 0 < x.unsig && decide (x.modCount ≤ x.unsig) then fireRing s1 p.val r.val else s1)

/-- MSIX_MODERATION_TIMER (R398): TIME µs since the first unsignalled entry. -/
def execMsixModerationTimer (p : Fin 8) (r : Fin 5) (s : State) : Res :=
  let x := ringOf s p.val r.val
  if 3 ≤ r.val && decide (0 < x.unsig) && decide (x.unsigFrom + x.modTime * 1000 ≤ nowNs s) then .next (fireRing s p.val r.val)
  else .next s

/-! ### The mailbox (R396, R484, R517) -/

/-- A refusal in MBX_RESP without executing. -/
def mbxRefuse (s : State) (f : Nat) (c : Fetched) (st : Status) : State :=
  mbxAnswer s f { tag := c.tag, time := nowNs s, origin := originNum (modNum s) (fnOrigin f), status := st, kind := 1,
                  slot := c.slot, detail := finalDetail c.cmd 0 0 }

/-- A command of the mailbox whose code Table 17-2 does not have, in the partition its SCOPE names or its VF's. -/
def mbxUnknown (s : State) (f : Fin 9) (c : Fetched) : State :=
  refuseUnknown s ⟨f, Fin.ofNat 8 ((fnOf s f).mbxWord / 2 ^ 16 % 8), Fin.ofNat 32 c.ctx, none, 0, c.tag, c.slot, none, none, none⟩ c.cmd

/-- A violation at a function's mailbox: during a pause it extends that to 1 s after it (R403). -/
def mbxViolate (s : State) (f : Nat) (rec' : State → State) : State :=
  modFn (violate s f rec') f fun x => if x.paused then { x with pauseEnd := nowNs s + 1000000000 } else x

/-- A write of MBX_DB (R396): GO starts the command that stands in MBX_CMD; its own row executes it. -/
def mbxGo (s : State) (f : Fin 9) (value : Nat) : State :=
  let cmd := mbxFetched (fnOf s f)
  let full := match fnPart s f with
    | some p => decide (4096 ≤ (partOf s p).hold.length)
    | none => false
  if !s.side.mainOn || s.boot.st = .recovery || !value.testBit 0 || !fnLive s f then s
  else if vfAbsent s f && s.boot.st = .run then absentWrite s f
  else if (fnOf s f).mbxBusy then
    mbxViolate s f fun s => pushErr s .hifMailbox { status := .violation, detail := [f] }
  else
    let s1 := modFn s f fun x => { x with mbxBusy := true, mbxDone := false }
    if s.boot.st ≠ .run then mbxRefuse (pushErr s1 .bootNotReady { status := .badState, detail := [f] }) f cmd .badState
    else if s.pwr.sleep != .awake then mbxRefuse (wakeUp s1 (.mbx f)) f cmd .busy
    else if full then mbxRefuse s1 f cmd .busy
    else if f.val ≠ 0 ∧ (vfBind s f).remote ∧ (cmd.cmd < 0x10 ∨ 0x13 < cmd.cmd) then
      sendVc0 s1 (vfBind s f).module 2 [f, (vfBind s f).part, cmd.cmd, cmd.tag, cmd.slot, cmd.ctx]
    else if !cmdKnown cmd.cmd then mbxUnknown s1 f cmd
    else s1

/-- A write of MBX_DB of some width: one of 4 bytes is taken, any other is ignored and counted (R389). -/
def mbxDb (s : State) (f : Fin 9) (width value : Nat) : State :=
  if width = 4 then mbxGo s f value
  else if !s.side.mainOn || s.boot.st = .recovery || !fnLive s f then s
  else if vfAbsent s f then absentWrite s f
  else mbxViolate s f id

/-- MBX_DB_WRITE (R389, R396). -/
def execMbxDbWrite (fn : Fin 9) (value : BitVec 32) (width : Nat) (s : State) : Res := .next (mbxDb s fn width value.toNat)

/-! ### Relay (R400, R401) -/

/-- A HIF_RELAY_TIMEOUT record. -/
def relayRecord (s : State) (m : Nat) : State := pushErr s .hifRelayTimeout { detail := [m] }

/-- All ones of a width in bytes. -/
def allOnes (width : Nat) : Nat := 2 ^ (8 * width) - 1

/-- RELAY_ACCESS (R401): forwarded to the selected module over VC0, or answered all ones. -/
def execRelayAccess (rd : Origin) (off width : Nat) (value : Option Nat) (s : State) : Res :=
  let m := s.hif.relayMod
  if s.boot.st ≠ .run then .next s
  else if !s.hif.front || !(routeOf s m).reachable then
    .next (match value with
      | none => emit (relayRecord s m) (.reply rd off (.data (allOnes width)))
      | some _ => relayRecord s m)
  else match value with
    | none =>
      let s1 := { s with lnk := { s.lnk with relays := s.lnk.relays ++ [⟨rd, m, off, width, nowNs s⟩] } }
      .next (sendVc0 s1 m 2 [off, width])
    | some v => .next (sendVc0 s m 2 [off, width, v])

/-- RELAY_TIMEOUT (R401): reads unanswered for 50 µs return all ones. -/
def execRelayTimeout (module : Fin 64) (s : State) : Res :=
  let due := s.lnk.relays.filter fun r => r.module == module.val && decide (r.since + 50000 ≤ nowNs s)
  let s1 := { s with lnk := { s.lnk with relays := s.lnk.relays.filter fun r => !due.contains r } }
  .next (due.foldl (fun s r => emit (relayRecord s r.module) (.reply r.who r.off (.data (allOnes r.width)))) s1)

/-! ### Register writes (R6, R389, R549, Table 24-6) -/

/-- Write the words of a function's MSI-X table; unmasking a pending vector sends its message (R398). -/
def msixWrite (s : State) (f y width value : Nat) : State :=
  (List.range (width / 4)).foldl (fun s i =>
    let w := (y + 4 * i) / 4
    let v := value / 2 ^ (32 * i) % 2 ^ 32
    if w % 4 = 3 then
      let k := w / 4
      let s1 := modFn s f fun x => { x with masked := if v.testBit 0 then (if x.masked.contains k then x.masked else x.masked ++ [k])
                                                      else x.masked.filter (· != k) }
      if !v.testBit 0 && (fnOf s f).pba.contains k then
        fire (modFn s1 f fun x => { x with pba := x.pba.filter (· != k) }) f k
      else s1
    else modFn s f fun x => { x with msix := tabSet x.msix w v 0 }) s

/-- Write bytes of MBX_CMD (R396). -/
def mbxCmdWrite (s : State) (f y width value : Nat) : State :=
  let m := (2 ^ (8 * width) - 1) * 2 ^ (8 * y)
  modFn s f fun x => { x with mbxWord := (x.mbxWord &&& (2 ^ 512 - 1 - m)) ||| (value * 2 ^ (8 * y) &&& m) }

/-- A write of MBX_STATUS: writing 1 to DONE clears it; BUSY and SEQ are read-only (R6, Table 16-9). -/
def mbxStatusWrite (s : State) (f value : Nat) : State :=
  modFn s f fun x => { x with mbxDone := x.mbxDone && !value.testBit 1 }

/-- A violation of the writing function; the relay window and the management port count none here. -/
def writeViol (s : State) (o : Origin) (rec' : State → State) : State :=
  match o with
  | .pf0 => violate s 0 rec'
  | .vf k => violate s k.val rec'
  | _ => rec' s

/-- Whether an origin's register writes enter the ledger (R420). -/
def entersLedger (o : Origin) : Bool :=
  match o with
  | .pf0 | .relay _ | .mgmt => true
  | _ => false

/-- Whether an offset lies in PF0's mailbox, MSI-X table or PBA, whose writes are not entered (R420). -/
def inMailbox (x : Nat) : Bool :=
  (decide (0x31000 ≤ x) && decide (x < 0x31080)) || (decide (0x38000 ≤ x) && decide (x < 0x38080)) ||
    (decide (0x39000 ≤ x) && decide (x < 0x39008))

/-- A write that is ignored: its ledger entry where the origin has one (R420). -/
def writeIgnored (s : State) (o : Origin) (x width v : Nat) : State :=
  if entersLedger o && !inMailbox x then ledger s o { obj := 0, act := 1, width := width, target := x, new := v } else s

/-- One field of a register write: range, staging, effect and its ledger entry. -/
def writeField (s : State) (o : Origin) (f : Fld) (x width v : Nat) (mask : Nat) : State :=
  let new := fldNew s f x v mask
  let a : LedgerArgs := { obj := 0, part := (fldPart f).getD 8, width := width, target := x, old := fldGet s f, new := v }
  match fldRange s f new with
  | some (st, c) =>
    let s1 := ledger s o { a with act := 1, status := st }
    if c == .hifField then writeViol s1 o fun s => pushErr s c { status := st, detail := [x] }
    else pushErr s1 c { status := st, part := (fldPart f).getD 8, detail := [x] }
  | none =>
    match fldStage f with
    | .step =>
      let p := (fldPart f).getD 0
      if !(partOf s p).valid then ledger s o { a with act := 5, status := .badState }
      else if stepIdle s p then ledger (fldSet s f new) o { a with act := 3 }
      else stageStep s o f p new a
    | _ => ledger (fldSet s f new) o a

/-- The unit a RAS_UNFENCE word names (Table 19-15). -/
def unfenceUnit (v : Nat) : UnitId := ⟨ukindOf (v % 16), v / 16 % 32, v / 512 % 65536⟩

/-- The registers whose write starts an action; none for every other offset. -/
def writeAction (s : State) (o : Origin) (x width v : Nat) : Option State :=
  let plain := ledger s o { obj := 0, width := width, target := x, new := v }
  if x = 0x30 then
    if v.testBit 0 then
      let (k, s1) := drawFree s 1
      some (imgWrite (regLedger s1 o 0x30 1 .ok) o
        (.inr (if o = .mgmt then stagedImg s1 else Sys2Proof.Config.hostData k s.boot.imgAddr s.boot.imgLen)))
    else some plain
  else if x = 0x40 then some (if v.testBit 0 then fwAct s o else plain)
  else if x = 0x48 then some (if v.testBit 0 then rebootNow s o else plain)
  else if x = 0x10020 then
    let s1 := if v.testBit 0 then sleepAsk s o else s
    some (if v.testBit 1 then wakeAsk s1 o else if v.testBit 0 then s1 else plain)
  else if x = 0x90208 then
    let sel := unfenceUnit v
    let s1 := { s with ras := { s.ras with unfSel := sel } }
    some (if v.testBit 25 then unfence s1 o sel else ledger s1 o { obj := 0, width := width, target := x, new := v })
  else if x = 0xA0010 then some (if v.testBit 0 then commitGo s o else plain)
  else if x = 0xA0018 then
    let s1 := { s with sec := { s.sec with revokeKey := v % 8 } }
    some (if v.testBit 3 then revokeGo s1 o (v % 8) else ledger s1 o { obj := 0, width := width, target := x, new := v })
  else match inArr x 0x80008 0x400 24 4 with
    | some p => some (if v.testBit 0 then retrainPort s o p else plain)
    | none => none

/-- The half of a 64-bit register that waits for its upper half (R389). -/
def halfOf (s : State) (o : Origin) (x : Nat) : Option Nat :=
  (s.halves.find? fun h => h.who == o && h.off == x).map Latch.value

/-- A whole write to a register's writable fields: `x` and `width` cover a 32-bit register or a 64-bit one. -/
def writeWhole (s : State) (o : Origin) (x width v : Nat) : State :=
  match (fldsAt x).filter fldReg with
  | [] =>
    let s1 := writeIgnored s o x width v
    if (regAt s x).isSome then writeViol s1 o id else s1
  | fs =>
    if x = 0xB0008 then { s with log := { s.log with ledgerSel := v } }
    else fs.foldl (fun s f => writeField s o f x width v (fldMask f x width)) s

/-- Whether an origin reaches PF0's own mailbox and MSI-X table: PF0, or a front module through the relay window (R401). -/
def asPf0 (o : Origin) : Bool :=
  match o with
  | .pf0 | .relay _ => true
  | _ => false

/-- A register write through PF0 BAR0 or the relay window. DESIGN CHOICE (log 57): R389 says nothing of a 32-bit write to the
upper half of a 64-bit register with no write to its lower half before it: the lower half is then written with the value it
reads as, so that of a W1C field there a set bit is cleared. -/
def writeBar0 (s : State) (o : Origin) (x width v : Nat) : State :=
  if s.boot.st = .recovery && decide (0x10000 ≤ x) then s
  else if 0x38000 ≤ x ∧ x < 0x38080 ∧ asPf0 o then msixWrite s 0 (x - 0x38000) width v
  else if 0x31000 ≤ x ∧ x < 0x31040 ∧ asPf0 o then mbxCmdWrite s 0 (x - 0x31000) width v
  else if x = 0x31040 ∧ asPf0 o then (if width = 4 then mbxGo s 0 v else writeViol s o id)
  else if x = 0x31048 ∧ width = 4 ∧ asPf0 o then mbxStatusWrite s 0 v
  else
    let word := (regAt s x).map fun r => (r.off, r.bytes)
    match word with
    | none => writeIgnored s o x width v
    | some (b, n) =>
      if b + n < x + width then writeViol (writeIgnored s o x width v) o id
      else match writeAction s o x width v with
        | some t => t
        | none =>
          if n = 8 ∧ width = 4 ∧ x = b then
            let s1 := ledger s o { obj := 0, width := 4, target := x, new := v }
            { s1 with halves := ⟨o, x, v⟩ :: s1.halves.filter fun h => h.who != o || h.off != x }
          else if n = 8 ∧ width = 4 then
            let lo := (halfOf s o b).getD (((regAt s b).map Reg.val).getD 0 % 2 ^ 32)
            writeWhole { s with halves := s.halves.filter fun h => h.who != o || h.off != b } o b 8 (lo + v * 2 ^ 32)
          else writeWhole s o x width v

/-- A register write through VF BAR0: its MSI-X table and mailbox; everything else is read-only or absent. -/
def writeVf (s : State) (k x width v : Nat) : State :=
  if vfAbsent s k then absentWrite s k
  else if 0x8000 ≤ x ∧ x < 0x8080 then msixWrite s k (x - 0x8000) width v
  else if x < 0x40 then mbxCmdWrite s k x width v
  else if x = 0x40 then mbxDb s (Fin.ofNat 9 k) width v
  else if x = 0x48 ∧ width = 4 then mbxStatusWrite s k v
  else if (vfRegAt s k x).isSome then violate s k id
  else s

/-- Whether a write has a permitted size and alignment (R389). -/
def writeSized (x width : Nat) : Bool := (width == 4 || width == 8) && x % width == 0

/-- A write to a ring page of partition `p` (Table 16-14): DB takes it, the other registers are read-only, and a write of an
offset with no register is ignored. -/
def pageWrite (s : State) (f : Fin 9) (p x width v : Nat) : State :=
  if !fnLive s f then s
  else if vfAbsent s f then absentWrite s f
  else if !writeSized x width then violate s f id
  else match ringRegAt s p x with
    | none => s
    | some r => if x % 0x1000 = 0 ∧ width = 4 then dbWrite s f p (x / 0x1000) v
                else if x < r.off + r.bytes then violate s f id else s

/-- A write to a register space as one transaction: BAR0 of PF0 or of a VF, or a ring page in BAR2. -/
def regWrite (o : Origin) (bar off width value : Nat) (s : State) : State :=
  let v := value % 2 ^ (8 * width)
  if !s.side.mainOn then s
  else match o with
    | .pf0 | .relay _ =>
      if bar = 2 then (if o = .pf0 then pageWrite s 0 (off / 0x200000 % 8) (off % 0x200000) width v else s)
      else if !writeSized off width then writeViol (writeIgnored s o off width v) o id
      else writeBar0 s o off width v
    | .vf k =>
      if k.val = 0 || decide (s.hif.numVfs < k.val) then s
      else if bar = 2 then pageWrite s k (vfBind s k).part off width v
      else if !writeSized off width then (if vfAbsent s k.val then absentWrite s k.val else violate s k.val id)
      else writeVf s k.val off width v
    | _ => s

/-- REGISTER_WRITE (R6, R389, R549): BAR0 of PF0 or of a VF, or a ring page in BAR2, where only DB takes writes. -/
def execRegisterWrite (o : Origin) (bar off width value : Nat) (s : State) : Res := .next (regWrite o bar off width value s)

/-- LEDGER_SEL_WRITE (R424): the SRAM entry LOG_LEDGER_DATA shows. -/
def execLedgerSelWrite (o : Origin) (seq : Nat) (s : State) : Res :=
  if !s.side.mainOn || !regOrigin o || (s.boot.st = .recovery && o != .mgmt) then .next s
  else .next { s with log := { s.log with ledgerSel := seq % 2 ^ 64 } }

/-- WIDE_REGISTER_LOW_READ (R547): the lowest 64-bit word of a wide register; the whole is latched for the reader. -/
def execWideRegisterLowRead (rd : Origin) (off : Nat) (s : State) : Res :=
  if !s.side.mainOn then .next s
  else
    let (s1, v) := readReg s rd off 8
    .next (emit s1 (.reply rd off (.data v)))

end Sys2Proof.Machine
end

