-- ==== Sys2Proof/Machine/MemCtl.lean ====
section
/-! DEFINITION. The memory controllers: accesses, patrol scrub and migration (R245 to R269). -/

namespace Sys2Proof.Machine

/-! ### Accesses (R247, R249, R252, R258) -/

/-- Whether a requester may reach a region (R249): class W is written by loader, repair and migration only. A channel has one
expander (R245), which reads what the lanes of its die ask for through it. -/
def requesterMay (s : State) (w : Requester) (r : Region) (write : Bool) : Bool :=
  let part (p : Option Nat) : Bool := match p with
    | some p => if write then mayWrite r p else mayRead r p
    | none => false
  match w with
  | .tile t => part (partOfTile s t)
  | .vf k => part (fnPart s k)
  | .expander d _ => !write && r.cls != .a && part (partOfDie s d)
  | .pf0 => bar4May s r write
  | .firmware => r.owner == 9 && !(write && r.cls == .w)
  | .loader | .repair | .migration => r.cls != .a
  | .scrub => !write && r.cls != .a

/-- The reader number and unit of a requester (Table 19-18). -/
def requesterReader : Requester → Reader
  | .tile t => ⟨0, t⟩ | .expander d e => ⟨1, d * 4 + e⟩ | .pf0 | .vf _ => ⟨3, 0⟩
  | .scrub => ⟨4, 0⟩ | .migration | .repair => ⟨5, 0⟩ | .loader => ⟨6, 0⟩ | .firmware => ⟨7, 0⟩

/-- The unit and partition a requester's records name. -/
def requesterUnit (s : State) : Requester → UnitId × Nat
  | .tile t => (tileUnit t, (partOfTile s t).getD 8)
  | .expander d e => (expUnit d e, (partOfDie s d).getD 8)
  | .vf k => (noUnit, (fnPart s k).getD 8)
  | _ => (noUnit, 8)

/-- Whether a refusal is a tile's or an expander's (R552). -/
def fromEngine : Requester → Bool
  | .tile _ | .expander .. => true
  | _ => false

/-- The step a requester's read belongs to is tainted by poison (R469). -/
def requesterTaint (s : State) (w : Requester) (b : Nat) : State :=
  match w with
  | .tile _ | .expander .. => if (requesterUnit s w).2 < 8 then readPoisoned s (requesterUnit s w).2 b else s
  | _ => s

/-- A refused access: MEM_UNMAPPED or MEM_PERM, or MOVE_PERM for a tile without permission (R247, R249). -/
def refuseAccess (s : State) (w : Requester) (a : Nat) (unmapped : Bool) : State :=
  let (u, p) := requesterUnit s w
  let e : ErrArgs := { status := if unmapped then .badRange else .notPermitted, unit := u, part := p, block := some (a / 2048 * 2048),
                       step := if p < 8 then execNum s p else 0, fromTile := fromEngine w, detail := [a] }
  match w, unmapped with
  | .tile t, false => progFault s t .movePerm .notPermitted 0xFF [a]
  | .tile t, true => progFault s t .memUnmapped .badRange 0xFF [a]
  | _, true => pushErr s .memUnmapped e
  | _, false => pushErr s .memPerm e

/-- What firmware's access returned (R258). -/
def fwReturns (s : State) (w : Requester) (st : Status) : State :=
  if w = .firmware then { s with mem := { s.mem with fwRead := some st } } else s

/-- A class A line that failed its CRC, by requester (R256). -/
def aCrcTo (s : State) (w : Requester) (n a : Nat) : State :=
  match w with
  | .tile t => aCrcFault s t a
  | _ => pushErr s .memACrc { unit := chanUnit (chanOf s n a), block := some (a / 2048 * 2048), detail := [a / 64] }

/-- The 64 bytes a line write leaves: a host write of fewer keeps the rest of the line (R252). -/
def lineData (s : State) (a : Nat) (bs : List Byte) : List Byte :=
  (memRead s a 64).zipIdx.map fun e => bs.getD e.2 e.1

/-- MEMORY_ACCESS (R245, R252): the checks of R247 and R249, then a line read with its check, or a line written. -/
def execMemoryAccess (x : MemAccess) (s : State) : Res :=
  let a := x.line * 64
  match regionAt s a with
  | none => .next (fwReturns (refuseAccess s x.who a true) x.who .badRange)
  | some n =>
    if !requesterMay s x.who (regionOf s n) x.data.isSome then
      .next (fwReturns (refuseAccess s x.who a false) x.who .notPermitted)
    else match x.data with
      | some bs => .next (fwReturns (memWrite s a (lineData s a bs)) x.who .ok)
      | none =>
        let (s1, k) := lineRead s a x.err (requesterReader x.who)
        if k = 2 then .next (fwReturns (requesterTaint s1 x.who (blockOf a)) x.who .poisoned)
        else if k = 1 then .next (fwReturns (aCrcTo s1 x.who n a) x.who .ok)
        else .next (fwReturns s1 x.who .ok)

/-! ### Patrol scrub (R261, R262) -/

/-- The first of `f` numbers from `u` that `ok` takes. -/
def findFrom (ok : Nat → Bool) : Nat → Nat → Option Nat
  | 0, _ => none
  | f + 1, u => if ok u then some u else findFrom ok f (u + 1)

/-- The first unit of channel `c` at or after `u` (R261). -/
def unitFrom (s : State) (c u : Nat) : Option Nat :=
  (scrubRuns s).findSome? fun r => findFrom (unitOn s c) (r.1 + r.2 - max u r.1) (max u r.1)

/-- The channel's next line from its cursor on: the rest of the unit the cursor stands in, else the next unit's first. -/
def lineFrom (s : State) (c : Nat) : Option Nat :=
  let cur := tabGet s.mem.cursor c 0
  if cur % 4 ≠ 0 && unitOn s c (cur / 4) then some cur else (unitFrom s c (ceilDiv cur 4)).map (· * 4)

/-- The channel's next line: in turn, from the start again after the last (R261). -/
def nextScrub (s : State) (c : Nat) : Option Nat :=
  match lineFrom s c with
  | some l => some l
  | none => (unitFrom s c 0).map (· * 4)

/-- Whether a unit of channel `c` from `u` on is still to be read in the pass: neither migrated nor behind (R261). -/
def unitLeft (s : State) (c u : Nat) : Bool :=
  (scrubRuns s).any fun r => (findFrom (fun v => unitOn s c v && !unitMoved s v) (r.1 + r.2 - max u r.1) (max u r.1)).isSome

/-- Whether a channel has had all its lines in the pass. -/
def passedBy (s : State) (c : Nat) : Bool :=
  s.mem.passDone.contains c ||
    let cur := tabGet s.mem.cursor c 0
    !(cur % 4 ≠ 0 && unitOn s c (cur / 4)) && !unitLeft s c (ceilDiv cur 4)

/-- Note a channel that has had all its lines. -/
def markPass (s : State) (c : Nat) : State :=
  if passedBy s c && !s.mem.passDone.contains c then { s with mem := { s.mem with passDone := s.mem.passDone ++ [c] } } else s

/-- End the pass once every channel in service has had all its lines: the next begins at each channel's first
(notes/assumptions/51.md); a module that woke for it sleeps again (R518). -/
def endPass (s : State) : State :=
  if ((List.range 512).filter (chanOk s)).all (passedBy s) then
    let s1 := { s with mem := { s.mem with passes := satAdd 16 s.mem.passes 1, passDone := [], passMoved := [], cursor := [],
                                           passFrom := nowNs s,
                                           lastPass := min 65535 ((nowNs s - s.mem.passFrom) / 60000000000) } }
    if s1.pwr.selfWake then
      { s1 with pwr := { s1.pwr with selfWake := false, sleep := if canSleep s1 then .entering else s1.pwr.sleep } }
    else s1
  else s

/-- PATROL_SCRUB_STEP (R261, R262): the channel's next allocated W or S line is read and checked; no other line is read. -/
def execPatrolScrubStep (ch : Fin 512) (line : Nat) (err : LineErr) (s : State) : Res :=
  match if chanOk s ch then (nextScrub s ch).filter (· == line) else none with
  | none => .next s
  | some l =>
    let s1 := (lineRead s (l * 64) err ⟨4, 0⟩).1
    .next (endPass (markPass { s1 with mem := { s1.mem with cursor := tabSet s1.mem.cursor ch (l + 1) 0 } } ch))

/-! ### Migration (R266 to R269) -/

/-- The running migration of a channel. -/
def migOf (s : State) (c : Nat) : Option Migration := s.mem.migs.find? fun m => m.src == c && m.running

/-- Change a migration. -/
def modMig (s : State) (c : Nat) (f : Migration → Migration) : State :=
  { s with mem := { s.mem with migs := listUpd (fun m => m.src == c && m.running) f s.mem.migs } }

/-- The regions one bucket of a die's map serves, each with the bytes it holds there (R250, R264). -/
def bucketShares (s : State) (d : Nat) (spread : Bool) : List (Nat × Nat) :=
  (validRegions s).filterMap fun n =>
    let r := regionOf s n
    if r.spread != spread then none
    else if spread then some (n, backed s n / 65536) else if r.die = d then some (n, backed s n / 4096) else none

/-- The blocks of some lines that are not poisoned yet. -/
def freshPoison (s : State) (ls : List Nat) : Nat := ((ls.map (· / 32)).eraseDups.filter fun b => !s.mem.poison.contains b).length

/-- MIGRATION_BUCKET_DONE (R266): the bucket in COPYING enters NEW and the next begins its copy (notes/assumptions/51.md); the
lines `poisoned`, which failed during the copy, poison their blocks; W and S lines copied count as scrubbed (R261). -/
def execMigrationBucketDone (ch : Fin 512) (spread : Bool) (bucket : Nat) (poisoned : List Nat) (s : State) : Res :=
  match migOf s ch with
  | none => .next s
  | some m =>
    match m.moves.find? fun v => v.spread == spread && v.bucket == bucket && v.st == .copying with
    | none => .next s
    | some v =>
      let n := ((bucketShares s (ch.val / 32) spread).map Prod.snd).sum
      let moves := nextBucket (m.moves.map fun w => if w == v then { w with st := BucketSt.new } else w)
      let s1 := modMig s ch fun m =>
        { m with moves := moves, copied := m.copied + n, poisoned := m.poisoned + freshPoison s poisoned }
      let moved := (spread, if spread then 0 else ch.val / 32, bucket)
      let s2 := { s1 with mem := { s1.mem with passMoved := s1.mem.passMoved ++ [moved] } }
      .next (poisoned.foldl (fun s l => poisonBlock s l ⟨5, 0⟩) s2)

/-- Admission runs again for the partitions with a region on a channel (R269). -/
def readmitChan (s : State) (c : Nat) : State :=
  (chanParts s c).foldl (fun s p => modPart s p fun q =>
    { q with declared := some ⟨(q.declared.map Declared.first).getD 3, 3⟩ }) s

/-- MIGRATION_END (R266, R268, R269): MEM_MIGRATE; the die's next migration runs; the last end re-runs admission. -/
def execMigrationEnd (ch : Fin 512) (s : State) : Res :=
  match migOf s ch with
  | none => .next s
  | some m =>
    if m.moves.any fun v => v.st != .new then .next s
    else
      let rest := s.mem.migs.filter fun x => !(x.src == ch.val && x.running)
      let nxt := (rest.find? fun x => x.src / 32 == ch.val / 32).map Migration.src
      let migs := rest.map fun x => if some x.src == nxt then startCopy { x with running := true } else x
      let s1 := { s with mem := { s.mem with migs := migs } }
      let s2 := pushErr s1 .memMigrate { unit := chanUnit ch, detail := [m.copied / 4096, m.poisoned] }
      .next (if migs.isEmpty then readmitChan s2 ch else s2)

end Sys2Proof.Machine
end

