-- ==== Sys2Proof/Machine/Loads.lean ====
section
/-! DEFINITION. The checks every command passes, and the loads: code tables, bundles, programs and adapters
(R237 to R239, R274, R275, R281, R292 to R303, R405 to R409). -/

namespace Sys2Proof.Machine

/-! ### Checks of every command (R405, R406, R409 Table 17-4, orders 1, 2 and 5) -/

/-- Where a command may travel (Table 17-2). -/
inductive Carrier where
  | submit | control | any

/-- Whether a descriptor came on a carrier its command admits. -/
def carried (x : Src) : Carrier → Bool
  | .submit => match x.ring with
      | some r => r.val == 1 || r.val == 2
      | none => false
  | .control => match x.ring with
      | some r => r.val == 0
      | none => true
  | .any => match x.ring with
      | some r => decide (r.val < 3)
      | none => true

/-- What a refused check gives: status, record, and the fields its record names. -/
structure No where
  st     : Status
  code   : RecCode
  detail : List Nat

/-- The first check of a list that fails. -/
def firstNo : List (Option No) → Option No
  | [] => none
  | some n :: _ => some n
  | none :: r => firstNo r

/-- A check. -/
def need (ok : Bool) (st : Status) (c : RecCode) (d : List Nat) : Option No := if ok then none else some ⟨st, c, d⟩

/-- Format and carrier of a descriptor: a reserved byte, or a ring that does not carry the command (R406). -/
def fmtNo (x : Src) (c : Carrier) : Option No :=
  match x.reserved with
  | some off => some ⟨.badField, .cmdFormat, [off]⟩
  | none => need (carried x c) .badField .cmdFormat [0]

/-- Partition and scope (R406): module-scope commands come from PF0, a VF names its own partition and a ring descriptor its
ring's. -/
def permNo (s : State) (x : Src) (moduleScope : Bool) : Option No :=
  let own := match (if x.front.isSome then none else fnPart s x.fn) with
    | some p => p == x.part.val
    | none => true
  need (if moduleScope then fromPf0 x else own && x.via.isNone) .notPermitted .cmdPerm []

/-- Orders 1 and 2 of Table 17-4: format, carrier, reserved fields and argument fields, then partition and scope. -/
def cmdNo (s : State) (x : Src) (c : Carrier) (moduleScope : Bool) (args : List (Option No) := []) : Option No :=
  firstNo (fmtNo x c :: args ++ [permNo s x moduleScope])

/-- The alignment check of a host address at a descriptor's byte offset (R407). -/
def addrNo (addr off : Nat) : Option No := need (addr % 64 == 0) .badField .cmdFormat [off]

/-- Whether the named context exists. -/
def ctxPresent (s : State) (x : Src) : Bool :=
  (partOf s x.part).valid && (ctxOf (partOf s x.part) x.ctx).st != .empty

/-- Run a command's meaning after its checks: taken (R416), refused by the first that fails, else `f` with the sequence
number of its ACCEPTED entry. -/
def withCmd (s : State) (x : Src) (cmd : Nat) (checks : State → Option No) (f : State → Nat → State) : State :=
  let y := takerOf s x
  let t := takeCmd s y cmd
  match checks t.s with
  | some n => refuseCmd t.s y cmd n.st n.code n.detail
  | none => f t.s t.jseq

/-! ### Code tables (R279, R281) -/

/-- Whether a code-table record is valid (R279). -/
def tableOk (c : CodeTable) : Bool :=
  decide (c.kindByte ≤ 1) && decide (c.gen < 16) && c.reserved && c.checkOk && c.lens.length == 256 &&
    c.lens.all (fun l => decide (l ≤ 12)) && c.lens.any (fun l => decide (0 < l)) &&
    decide ((c.lens.map fun l => if l = 0 then 0 else 2 ^ (12 - l)).sum ≤ 4096) &&
    (c.kindByte == 1 || (c.lens.drop 243).all (· == 0))

/-- Whether a slot has a reference (R280). -/
def slotUsed (s : State) (d k : Nat) : Bool :=
  let c := codeSlotOf s d k
  c.loaded && decide (0 < slotQueued s d k + slotVersions s d k c.gen + slotPages s d k c.gen)

/-- Load a table into a slot (R281): the ledger entry in every case, the record of a refusal. -/
def loadTable (s : State) (o : Origin) (p d k : Nat) (c : CodeTable) : State × Option Status :=
  let old := codeSlotOf s d k
  let a : LedgerArgs := { obj := 4, target := d * 16 + k, old := old.gen, new := c.gen }
  let no (st : Status) (r : RecCode) : State × Option Status :=
    (ledger (pushErr s r { status := st, part := p, detail := [d, k, c.gen] }) o { a with act := 5, status := st }, some st)
  if slotUsed s d k then no .slotReferenced .expSlot
  else if !tableOk c || (old.loaded && old.gen == c.gen) then no .badField .expTable
  else
    let n : CodeSlot := ⟨true, c.kindByte == 0, c.gen, c.lens⟩
    (ledger { s with cmp := { s.cmp with slots := tabSet s.cmp.slots (d * 16 + k) n CodeSlot.init } } o a, none)

/-- Whether a slot already holds a table of the same KIND, generation and LEN (R293 stage 3). -/
def sameTable (s : State) (d k : Nat) (c : CodeTable) : Bool :=
  let o := codeSlotOf s d k
  o.loaded && o.trit == (c.kindByte == 0) && o.gen == c.gen && o.lens == c.lens

/-- LOAD_CODE (R281): the record comes from host memory, unless its read fails (R399). -/
def execLoadCode (x : Src) (die : Fin 16) (slot : Fin 16) (rec : CodeRead) (s : State) : Res :=
  let y := takerOf s x
  .next (withCmd s y 0x25 (fun s => cmdNo s y .control true [addrNo rec.addr 24]) fun s _ =>
    let s1 := emit s (.hostRead y.fn rec.addr 136)
    match rec.data with
    | .inl d => finishCmd (dmaFailedFor s1 y d) y 0x25 .violation 0
    | .inr c =>
      let r := loadTable s1 (srcOrigin y) 8 die slot (codeTableOf c)
      finishCmd r.1 y 0x25 (r.2.getD .ok) 0)

/-! ### Bundles: places (R276, R277, R293 stage 2, R299) -/

/-- Bytes a tensor takes from DEST. -/
def tensorBytes (t : Tensor) : Nat := t.blocks.length * 2048 + 4 * t.scales.length

/-- Whether `n` bytes from block `b` lie outside one loadable W region or its data part, or in a withdrawn range. -/
def placeNo (s : State) (p : Nat) (shared : Bool) (b n : Nat) : Option No :=
  match loadRegion s p shared b with
  | none => some ⟨.badRange, .loadPlace, [b]⟩
  | some k =>
    let r := regionOf s k
    let a := b * 2048
    if inLenTable r a || decide ((r.base + r.size) * gib < a + n) then some ⟨.badRange, .loadPlace, [b]⟩
    else if decide ((r.base + r.size) * gib - r.withdrawn * 2 ^ 21 < a + n) || (blocksOf a n).any (isGone s) then
      some ⟨.noResource, .loadPlace, [b]⟩
    else none

/-- Whether two runs of blocks share a block. -/
def runsMeet (a n b m : Nat) : Bool := decide (a < b + m) && decide (b < a + n)

/-- The runs of blocks a resident or loading bundle version occupies, mirror places among them. -/
def bundleRuns (s : State) (e : BundleEnt) : List (Nat × Nat) :=
  (e.img.tensors.map fun t => (t.dest, tensorBlocks t)) ++ (mirrorRuns s e).map Prod.snd

/-- The place checks of one tensor (R293 stage 2). -/
def tensorPlace (s : State) (p : Nat) (b : Bundle) (t : Tensor) : Option No :=
  let n := tensorBytes t
  let k := tensorBlocks t
  let own := placeNo s p b.shared t.dest n
  let ms := if b.mirror then tensorMirrors s p b.shared t else []
  let mir := firstNo (need (!b.mirror || (ms.map fun m => m.2.2).sum == k) .badRange .loadPlace [t.dest] ::
    ms.map fun m => placeNo s p b.shared m.2.1 (min (m.2.2 * 2048) (n - (m.1 - t.dest) * 2048)))
  let runs := (t.dest, k) :: ms.map Prod.snd
  let clash := (bundleEnts s).any fun e => (bundleRuns s e).any fun r => runs.any fun q => runsMeet q.1 q.2 r.1 r.2
  firstNo [own, mir, need (!clash) .badRange .loadPlace [t.dest]]

/-! ### Bundles: header and stages (R292, R293, R298) -/

/-- Whether a directory entry's fields are in range (Table 12-2): LAYER 0xFFFF is that of the output head and the embedding table,
KINDs 7 and 8, and theirs alone. -/
def tensorOk (b : Bundle) (t : Tensor) : Bool :=
  (if t.kind = 7 ∨ t.kind = 8 then t.layer == 0xFFFF else decide (t.layer < b.nlayers)) && decide (t.kind < 15) &&
    t.fmt == (if t.kind = 8 then 0 else 6) && decide (1 ≤ t.planes) && decide (t.planes ≤ 3) && decide (t.scaleForm ≤ 1) &&
    (decide (12 ≤ t.kind) || t.expert == 0) && decide (t.codeSlot < 16) && decide (t.codeGen < 16) &&
    decide (t.dest < 2 ^ 30) && t.scales.length == (if t.scaleForm = 1 then 1 else t.rows)

/-- Whether a header's fields are in range (Table 12-1). -/
def headerOk (b : Bundle) : Bool :=
  b.checkOk && b.reserved && decide (1 ≤ b.id) && decide (b.id ≤ 0xFFFFFFFE) && decide (1 ≤ b.page4k) && decide (b.page4k ≤ 64) &&
    decide (1 ≤ b.nlayers) && decide (b.nlayers ≤ 1024) && decide (0 < b.dModel) && b.dModel % 5 == 0 && decide (b.dModel ≤ 2 ^ 20) &&
    decide (1 ≤ b.vocab) && decide (b.vocab ≤ 262144) && decide (1 ≤ b.tensors.length) && decide (b.tensors.length ≤ 65535) &&
    decide (b.codes.length ≤ 16) && b.codes.all (fun c => decide (c.1 < 16)) && b.tensors.all (tensorOk b)

/-- Whether every tensor of `a` is a tensor of `b`, of the same KIND, ROWS and COLS. -/
def tensorsIn (a b : Bundle) : Bool :=
  a.tensors.all fun t => b.tensors.any fun u =>
    u.layer == t.layer && u.kind == t.kind && u.expert == t.expert && u.rows == t.rows && u.cols == t.cols

/-- What every resident version of one BUNDLE_ID agrees on (R293 stage 1). -/
def sameDims (a b : Bundle) : Bool :=
  a.dModel == b.dModel && a.nlayers == b.nlayers && a.vocab == b.vocab && tensorsIn a b && tensorsIn b a

/-- The resident versions of a BUNDLE_ID in a partition. -/
def versionsOf (s : State) (p id : Nat) : List BundleEnt :=
  (bundleEnts s).filter fun e => e.valid && e.part == p && e.img.id == id

/-- The shared base a bundle names, if resident and current. -/
def baseOf (s : State) (b : Bundle) : Option BundleEnt :=
  b.base.bind fun r => (bundleEnts s).find? fun e => e.valid && e.current && e.img.shared && e.img.id == r.1

/-- Page geometry (R337, R340): PS = H × 128 × HW with HW a multiple of 32, PS the partition's POOL_PAGE, and H × 2 KiB
within POOL_META. -/
def geometryOk (s : State) (p : Nat) (b : Bundle) : Bool :=
  let ps := b.page4k * 4096
  let hw := b.params.hw
  let h := ps / (128 * hw)
  decide (0 < hw) && hw % 32 == 0 && decide (1 ≤ h) && ps == h * 128 * hw && b.page4k == (partOf s p).poolPage &&
    decide (h ≤ (partOf s p).poolMeta)

/-- Stage 1 of a bundle load (R293, R297, R298). -/
def headerNo (s : State) (x : Src) (b : Bundle) : Option No :=
  let d := [b.id, b.version]
  let vs := versionsOf s x.part b.id
  let base := baseOf s b
  let holds (t : Tensor) : Bool := (base.map fun e => e.img.tensors.any fun u =>
    u.layer == t.layer && u.kind == t.kind && u.expert == t.expert).getD false
  firstNo [need (headerOk b) .badField .loadHdr d,
    need (vs.all fun e => decide (e.img.version < b.version)) .badState .loadHdr d,
    need (vs.all fun e => sameDims e.img b) .badField .loadHdr d,
    need (geometryOk s x.part b) .badField .loadHdr d,
    need (!(b.shared && !fromPf0 x)) .notPermitted .loadBase d,
    match b.base with
    | none => none
    | some r => firstNo [need ((base.map fun e => e.digest == r.2).getD false) .authFail .loadBase d,
                         need (!b.tensors.any holds) .badField .loadHdr d]]

/-- The dies a bundle's code tables load on (R293 stage 3). -/
def codeDies (s : State) (p : Nat) (shared : Bool) : List Nat := if shared then List.range 16 else diesOf (partOf s p)

/-- Load a bundle's tables, entry by entry and die by die; what is already held is taken as loaded. -/
def loadTables (s : State) (o : Origin) (p : Nat) : List (Nat × Nat × CodeTable) → State × Option Status
  | [] => (s, none)
  | (d, k, c) :: r =>
    if sameTable s d k c then loadTables s o p r
    else match loadTable s o p d k c with
      | (s1, none) => loadTables s1 o p r
      | (s1, some st) => (s1, some st)

/-- Whether a slot and generation are LOADED on every die of a list. -/
def loadedOn (s : State) (ds : List Nat) (k g : Nat) : Bool := ds.all fun d => (codeSlotOf s d k).loaded && (codeSlotOf s d k).gen == g

/-- The checks after stage 3: every CODE and KV_CODE LOADED, KV_CODE a BYTE table. -/
def codesNo (s : State) (p : Nat) (b : Bundle) : Option No :=
  let ds := codeDies s p b.shared
  need (b.tensors.all (fun t => loadedOn s ds t.codeSlot t.codeGen) && loadedOn s ds b.kvSlot b.kvGen &&
    ds.all fun d => !(codeSlotOf s d b.kvSlot).trit) .badState .loadHdr [b.id, b.version]

/-- The decoded bytes of a stored block (R278), none where it fails or its HDR is not its tensor's CODE. -/
def storedData (s : State) (d : Nat) (t : Tensor) (e : Nat × List Byte) : Option (List Byte) :=
  if e.1 = 0xFF then (if e.2.length = 2048 then some e.2 else none)
  else if (e.2.headD 0).toNat ≠ t.codeSlot + 16 * t.codeGen then none
  else decodeStream (codeSlotOf s d t.codeSlot).lens ((e.2.take ((e.1 + 1) * 8)).drop 1)

/-- The check of block `n` of tensor `i` as it is written: it decodes under its tensor's CODE, and every trit byte is a code
(R56, R278); the record of a trit byte names its offset in the tensor. -/
def blockNo (s : State) (d : Nat) (b : Bundle) (i : Nat) (t : Tensor) (n : Nat) (e : Nat × List Byte) : Option No :=
  match storedData s d t e with
  | none => some ⟨.badField, .loadBlock, [b.id, i]⟩
  | some bs =>
    if t.fmt ≠ 6 then none
    else (bs.zipIdx.find? fun x => decide (242 < x.1.toNat)).map fun x => ⟨.tritCode, .tritCode, [b.id, i, n * 2048 + x.2]⟩

/-- Stage 4's checks of one tensor: its blocks in order, then its scales, finite; the record of a scale names its row
(R56, R61). -/
def tensorNo (s : State) (d : Nat) (b : Bundle) (i : Nat) (t : Tensor) : Option No :=
  firstNo (t.blocks.zipIdx.map (fun e => blockNo s d b i t e.2 e.1) ++
    [(t.scales.zipIdx.find? fun e => fpNonfinite e.1).map fun e => ⟨.badField, .loadBlock, [b.id, i, e.2]⟩])

/-- The 32 bytes of a directory entry with CODE, DATA, DEST and SCALES taken as zero (R297). -/
def dirBytes (t : Tensor) : List Byte :=
  leBytes 2 t.layer ++ leBytes 1 t.kind ++ leBytes 1 (t.fmt + 16 * t.planes + 64 * t.scaleForm) ++ leBytes 4 t.rows ++
    leBytes 4 t.cols ++ leBytes 2 t.expert ++ leBytes 6 0 ++ leBytes 4 t.blocks.length ++ leBytes 8 0

/-- The digest of a bundle (R297), as a little-endian number. -/
def bundleDigest (s : State) (d : Nat) (b : Bundle) : Nat :=
  leNat (sha256 (b.tensors.flatMap fun t =>
    dirBytes t ++ (t.blocks.filterMap (storedData s d t)).flatten ++ wordsLe t.scales))

/-- Write one stored block and its length byte (R277). -/
def writeBlock (s : State) (b : Nat) (e : Nat × List Byte) : State := setLen (memWrite s (b * 2048) e.2) b e.1

/-- Write a tensor at a block: its blocks, then its scales directly after the last (R293 stage 4). -/
def writeTensor (s : State) (b : Nat) (t : Tensor) : State :=
  let s1 := (t.blocks.zipIdx).foldl (fun s e => writeBlock s (b + e.2) e.1) s
  memWrite s1 ((b + t.blocks.length) * 2048) (wordsLe t.scales)

/-- Do `f` with the mirror block of a block, unless it has none or that is withdrawn (R299). -/
def atMirror (s : State) (p : Nat) (shared : Bool) (b : Nat) (f : Nat → State) : State :=
  match mirrorOf s p shared b with
  | some m => if isGone s m then s else f m
  | none => s

/-- Write a tensor's mirror copy, each block of it and of its scales at its own mirror place (R299). -/
def mirrorTensor (s : State) (p : Nat) (shared : Bool) (t : Tensor) : State :=
  let s1 := t.blocks.zipIdx.foldl (fun s e => atMirror s p shared (t.dest + e.2) fun m => writeBlock s m e.1) s
  (List.range (ceilDiv (4 * t.scales.length) 2048)).foldl (fun s i =>
    atMirror s p shared (t.dest + t.blocks.length + i) fun m =>
      memWrite s (m * 2048) (slice (wordsLe t.scales) (2048 * i) 2048)) s1

/-- Write a bundle's tensors and, under MIRROR, their copies; a withdrawn copy is not rewritten (R299). -/
def writeTensors (s : State) (p : Nat) (b : Bundle) : State :=
  b.tensors.foldl (fun s t =>
    let s1 := writeTensor s t.dest t
    if b.mirror then mirrorTensor s1 p b.shared t else s1) s

/-- The tensor of a layer and kind. -/
def tensorOf (b : Bundle) (layer kind : Nat) : Option Tensor := b.tensors.find? fun t => t.layer == layer && t.kind == kind

/-- A bundle with its base's tensors beside its own (R298). -/
def wholeModel (s : State) (b : Bundle) : Bundle :=
  { b with tensors := b.tensors ++ ((baseOf s b).map fun e => e.img.tensors).getD [] }

/-- Columns of a DOWN tensor (R162, R164): the FFN width, or the 65 inputs a band each of a row stored band by band. -/
def downOk (cols width : Nat) : Bool := cols == width || cols == 65 * (width / 64)

/-- Whether a layer's FFN width is a multiple of 64 (R162): the rows of its GATE and UP tensors, and its DOWN tensor's columns to
match. -/
def ffnOk (b : Bundle) (layer : Nat) : Bool :=
  let rows (k : Nat) : List Nat := ((tensorOf b layer k).map Tensor.rows).toList
  let ws := rows 4 ++ rows 5
  ws.all (· % 64 == 0) && (tensorOf b layer 6).all fun t => match ws.head? with
    | some w => downOk t.cols w
    | none => t.cols % 64 == 0 || t.cols % 65 == 0

/-- The layers that carry a tensor of an FFN. -/
def ffnLayers (b : Bundle) : List Nat := ((b.tensors.filter fun t => decide (4 ≤ t.kind) && decide (t.kind ≤ 6)).map Tensor.layer).eraseDups

/-- The checks of one layer's parameters, each with the number of the field it names: 0 ε (R146), 1 the FFN width (R162), then
Table 7-1: 2 SPARSE, 3 DENS, 4 AGG, 5 POLICY, 6 MISS_THRESH, 7 RP, 8 PA, 9 PB, 10 PBIAS. -/
def layerChecks (b : Bundle) (l : LayerRec) : List (Nat × Bool) :=
  let q := l.band
  let bands := (((tensorOf b l.layer 4).map Tensor.rows).getD 0) / 64
  let shape (k r c : Nat) : Bool := (tensorOf b l.layer k).any fun t => t.fmt == 6 && t.rows == r && t.cols == c
  let pos (w : Word) : Bool := !fpNonfinite w && fpLt 0 w
  [(0, pos l.eps), (1, ffnOk b l.layer), (2, decide (q.sparse ≤ 1))] ++
    if q.sparse = 0 then [] else
      [(3, decide (1 ≤ q.dens) && decide (q.dens ≤ 256)), (4, decide (q.agg ≤ 1)), (5, decide (q.policy ≤ 2)), (6, pos q.miss),
       (7, decide (16 ≤ q.rp) && decide (q.rp ≤ 1024) && q.rp % 16 == 0), (8, shape 9 q.rp b.dModel), (9, shape 10 bands q.rp),
       (10, q.pbias.length == bands)]

/-- The checks of one MoE record (Table 12-5), numbered as its rows. -/
def moeChecks (b : Bundle) (m : MoeRec) : List (Nat × Bool) :=
  [(0, decide (m.layer < b.nlayers)), (1, decide (2 ≤ m.nexp) && decide (m.nexp ≤ 256)), (2, decide (1 ≤ m.topr) && decide (m.topr ≤ 8)),
   (3, decide (m.topr ≤ m.rmax) && decide (m.rmax ≤ 16)), (4, decide (1 ≤ m.cap) && decide (m.cap ≤ 512)), (5, decide (m.policy ≤ 1)),
   (6, m.place.length == m.nexp && m.place.all fun e =>
      decide (e.1 < 1088) && e.2.all fun a => decide (a < 1088) && decide (a / 1024 = e.1 / 1024))]

/-- The first check that fails, as a refusal naming layer and field. -/
def fieldNo (c : RecCode) (b : Bundle) (layer : Nat) (ks : List (Nat × Bool)) : Option No :=
  (ks.find? fun k => !k.2).map fun k => ⟨.badField, c, [b.id, layer, k.1]⟩

/-- Stage 5 (R146, R155, R162, R165, R303, R316): norms, band parameters, vocabulary, CHUNK and MoE records. -/
def paramsNo (s : State) (own : Bundle) : Option No :=
  let b := wholeModel s own
  firstNo (b.params.layers.map (fun l => fieldNo .loadHdr b l.layer (layerChecks b l)) ++
    (ffnLayers b).map (fun l => fieldNo .loadHdr b l [(1, ffnOk b l)]) ++
    [need (decide (1 ≤ b.vocab) && decide (b.vocab ≤ 262144)) .badField .loadHdr [b.id, 0xFFFF],
      need (b.params.chunk % 64 == 0 && decide (64 ≤ b.params.chunk) && decide (b.params.chunk ≤ 512)) .badField .loadHdr [b.id, 0xFFFF]] ++
    if b.moe then b.params.moe.map fun m => fieldNo .loadMoe b m.layer (moeChecks b m) else [])

/-! ### Step programs (R237 to R239, R274, R275, R296) -/

/-- The program versions of a partition. -/
def progsOf (s : State) (p : Nat) : List Prog := s.cmp.progs.filter fun g => g.part == p

/-- A program bank of context `c` that no version holds (R239, R363). -/
def freeBank (s : State) (p c : Nat) : Option Nat :=
  (List.range 2).find? fun b => !(progsOf s p).any fun g => g.ctx == c && g.bank == b

/-- Blocks a feed entry may read, as (first, count). -/
def feedRun (f : FeedEntry) : Nat × Nat :=
  match f.kind with
  | .run n => (f.base, n)
  | .bands b n _ => (f.base, b * n)
  | .gather b rb _ => (f.base, b * rb)
  | .pages .. => (f.base, 0)

/-- The checks of entry `i` of feed list `l` (R275), in the table's order. -/
def feedNo (s : State) (p l i : Nat) (b : List Byte) : Option No :=
  let d := l / 128
  let f := feedEntry b
  let run := feedRun f
  let region := regionAt s (run.1 * 2048)
  let inside := decide (run.2 = 0) || match region with
    | some n => (regionOf s n).cls != .a &&
        decide ((run.1 + run.2) * 2048 + (regionOf s n).withdrawn * 2 ^ 21 ≤ ((regionOf s n).base + (regionOf s n).size) * gib)
    | none => false
  let pgb := match f.kind with
    | .pages _ g _ => g % 2 == 0 && decide (2 ≤ g) && decide (g ≤ 128)
    | _ => true
  let may := decide (run.2 = 0) || (region.map fun n => mayRead (regionOf s n) p).getD false
  firstNo [(feedReserved b).map fun o => ⟨.badField, .spLoad, [l, i, o]⟩,
    need (inside && f.rcp.all (fun r => decide (r < 64)) && pgb) .badRange .spLoad [l, i],
    need may .notPermitted .spLoad [l, i],
    need ((codeSlotOf s d f.codeSlot).loaded && (codeSlotOf s d f.codeSlot).gen == f.codeGen) .badState .spLoad [l, i]]

/-- QBOUND of a step program, over its tiles' images (R367). -/
def imageQbound (s : State) (g : ProgramImage) : Nat :=
  (g.images.map fun t => qboundOf (floorNow s) ((List.range (imgCount t.bytes)).filterMap (imgInstr (Fin.ofNat 1024 (t.tiles.headD 0)) t.bytes))).foldl max 0

/-- Stage 6 (R238, R275, R296, R367): the image's own refusals, its version, its feed tables and its quiesce bound. -/
def progNo (s : State) (p : Nat) (g : ProgramImage) : Option No :=
  let v := progVersion g
  firstNo (([match programFault g ((diesOf (partOf s p)).flatMap fun d => (List.range 64).map (d * 64 + ·)) with
    | some f => some ⟨f.status, RecCode.spLoad, [f.tile, f.index, f.offset]⟩
    | none => none,
    need (decide (imageQbound s g ≤ 240000)) .badRange .spLoad [v],
    need ((progsOf s p).all fun h => decide (h.version < v)) .badState .spLoad [v]]) ++
    (g.feeds.flatMap fun f => need ((partOf s p).dies.testBit (f.1 / 128)) .badRange .spLoad [f.1] ::
      ((feedWords f.2).zipIdx.map fun e => feedNo s p f.1 e.2 e.1) ++
      (feedEnd f.2).toList.map fun e => (feedReserved e.1).map fun o => ⟨.badField, .spLoad, [f.1, e.2, o]⟩) ++
    g.divs.flatMap fun x => need ((partOf s p).dies.testBit x.1) .badRange .spLoad [x.1] ::
      (divWords x.2).zipIdx.flatMap fun e =>
        [(divReserved e.1).map fun o => ⟨.badField, .spLoad, [x.1, e.2, o]⟩,
         need (divInRange e.1) .badRange .spLoad [x.1, e.2]])

/-! ### Reserving, committing and failing a load -/

/-- A program version being loaded. -/
def newProg (x : Src) (bundle bver bank : Nat) (g : ProgramImage) : Prog :=
  { part := x.part, ctx := x.ctx, bundle := bundle, bver := bver, version := progVersion g, bank := bank, current := false,
    loading := true, faulty := false, cannotRun := false, img := g, homes := [] }

/-- The load running in a partition. -/
def loadOf (s : State) (p : Nat) : Option Load := tabGet s.cmp.loads p none

/-- Put a load in progress. -/
def setLoad (s : State) (p : Nat) (l : Option Load) : State := { s with cmp := { s.cmp with loads := tabSet s.cmp.loads p l none } }

/-- Reset the length bytes of a bundle's blocks (R294, R295). -/
def clearLens (s : State) (e : BundleEnt) : State :=
  (bundleRuns s e).foldl (fun s r => (List.range r.2).foldl (fun s i => setLen s (r.1 + i) 0xFF) s) s

/-- End a load that failed: nothing of it stays but its code tables (R294), FINAL with the status. -/
def dropLoad (s : State) (p : Nat) (st : Status) : State :=
  match loadOf s p with
  | none => s
  | some l =>
        let gone := (bundleEnts s).filter fun e => e.loading && e.part == p
    let s2 := gone.foldl clearLens s
    let bs := s2.cmp.bundles.filter fun e => !(e.2.any fun b => b.loading && b.part == p)
    let cmp := { s2.cmp with bundles := bs, progs := s2.cmp.progs.filter fun g => !(g.loading && g.part == p),
                             adapters := s2.cmp.adapters.filter fun a => !(a.loading && a.part == p) }
    finishLater (setLoad { s2 with cmp := cmp } p none) l.src l.cmd st 0

/-- A load fails: its record, then its end. -/
def failLoad (s : State) (p : Nat) (n : No) : State :=
  dropLoad (pushErr s n.code { status := n.st, part := p, detail := n.detail }) p n.st

/-- Requests that bind a step-program version. -/
def progRefs (s : State) (g : Prog) : Nat :=
  (s.slots.filter fun e => e.2.st != .free && e.2.part == g.part && e.2.pver == g.version).length

/-- Requests that bind an adapter version. -/
def adapterRefs (s : State) (a : Adapter) : Nat :=
  (s.slots.filter fun e => e.2.st != .free && e.2.part == a.part && e.2.adapter == some (a.id, a.version)).length

/-- Requests, their slots not yet released, that bind a bundle version. -/
def bundleHeld (s : State) (b : BundleEnt) : Bool :=
  s.slots.any fun e => e.2.st != .free && e.2.part == b.part && e.2.ctx == b.ctx && e.2.bundle == b.img.id && e.2.bver == b.img.version

/-- Free every version that is no longer current and that no request binds (R295), with a ledger entry each (R420). -/
def freeVersions (s : State) (p : Nat) : State :=
  let idle (b : BundleEnt) : Bool := b.part == p && b.valid && !b.current && !bundleHeld s b
  let inStep (g : Prog) : Bool :=
    ((partOf s p).exec.toList ++ (partOf s p).composed.toList).any fun e => e.version == g.version
  let idleP (g : Prog) : Bool := g.part == p && !g.current && !g.loading && progRefs s g == 0 && !inStep g
  let idleA (a : Adapter) : Bool := a.part == p && !a.current && !a.loading && adapterRefs s a == 0
  let gone := (bundleEnts s).filter idle
  let log (obj target old : Nat) (s : State) : State := ledger s .firmware { obj := obj, part := p, target := target, old := old }
  let s1 := gone.foldl (fun s e => log 1 e.img.id e.img.version (clearLens s e)) s
  let s2 := (s.cmp.progs.filter idleP).foldl (fun s g => log 2 g.bundle g.version s) s1
  let s3 := (s.cmp.adapters.filter idleA).foldl (fun s a => log 3 a.id a.version s) s2
  let cmp := { s3.cmp with bundles := s3.cmp.bundles.filter fun e => !e.2.any idle,
                           progs := s3.cmp.progs.filter fun g => !idleP g,
                           adapters := s3.cmp.adapters.filter fun a => !idleA a }
  { s3 with cmp := cmp }

/-- An entry number of CMP_BUNDLE that is free (R306). -/
def freeEntry (s : State) : Option Nat := (List.range 32).find? fun n => (tabGet s.cmp.bundles n none).isNone

/-- Stage 2 of a bundle load: entry, bank, places. -/
def reserveNo (s : State) (x : Src) (b : Bundle) : Option No :=
  let p := x.part.val
  firstNo ([need (freeEntry s).isSome .noResource .loadPlace [b.id], need (freeBank s p x.ctx).isSome .noResource .spBank [b.id]] ++
    b.tensors.map (tensorPlace s p b))

/-- Whether another load of the partition runs. -/
def loadBusy (s : State) (x : Src) : Option No := need (loadOf s x.part).isNone .busy .loadBusy []

/-- The checks a load command passes before it is accepted. -/
def loadCmdNo (s : State) (x : Src) (addr : Nat) : Option No :=
  firstNo [cmdNo s x .control false [addrNo addr 24], need (ctxPresent s x) .badState .loadState [], loadBusy s x]

/-- Stages 1 to 6 of a bundle's load, stopping at the first failure (R293). -/
def bundleStages (s2 : State) (x : Src) (addr : Nat) (b : Bundle) : State :=
  let p := x.part.val
  match firstNo [headerNo s2 x b, reserveNo s2 x b] with
  | some n => failLoad s2 p n
  | none =>
    let d0 := (codeDies s2 p b.shared).headD 0
    let ent : BundleEnt := { valid := false, loading := true, current := false, mirrored := b.mirror, poisoned := false,
                             part := p, ctx := x.ctx, addr := addr, digest := 0, img := b }
    let g := newProg x b.id b.version ((freeBank s2 p x.ctx).getD 0) b.program
    let bs := tabSet s2.cmp.bundles ((freeEntry s2).getD 0) (some ent) none
    let s3 := { s2 with cmp := { s2.cmp with bundles := bs, progs := s2.cmp.progs ++ [g] } }
    let todo := b.codes.flatMap fun c => (codeDies s3 p b.shared).map fun d => (d, c.1, c.2)
    let r := loadTables s3 (srcOrigin x) p todo
    match r.2 with
    | some st => dropLoad r.1 p st
    | none =>
      match codesNo r.1 p b with
      | some n => failLoad r.1 p n
      | none =>
        let s4 := writeTensors r.1 p b
        let dig := bundleDigest s4 d0 b
        let put (e : Option BundleEnt) : Option BundleEnt := e.map fun e => if e.loading && e.part == p then { e with digest := dig } else e
        let s5 := { s4 with cmp := { s4.cmp with bundles := s4.cmp.bundles.map fun e => (e.1, put e.2) } }
        let others := { s5 with cmp := { s5.cmp with progs := s5.cmp.progs.filter fun h => !(h.loading && h.part == p) } }
        match firstNo ((b.tensors.zipIdx).map (fun e => tensorNo s5 d0 b e.2 e.1) ++ [paramsNo s5 b, progNo others p b.program]) with
        | some n => failLoad s5 p n
        | none => s5

/-- LOAD_BUNDLE (R293): ACCEPTED, then stages 1 to 6 in order. -/
def execLoadBundle (x : Src) (addr len : Nat) (g : BundleImage) (s : State) : Res :=
  let b := bundleRead g
  .next (withCmd s x 0x20 (fun s => loadCmdNo s x addr) fun s jseq =>
    let s1 := emit (acceptCmd s x 0x20 jseq) (.hostRead x.fn addr len)
    bundleStages (setLoad s1 x.part (some ⟨x, 0x20, b.id, b.version, progVersion b.program, none⟩)) x addr b)

/-- LOAD_PROGRAM (R296): stages 2 and 6 for the current bundle version of a BUNDLE_ID. -/
def execLoadProgram (x : Src) (addr len : Nat) (bundle : Nat) (pr : ProgramImage) (s : State) : Res :=
  let cur (s : State) : Option BundleEnt := (versionsOf s x.part bundle).find? fun e => e.current && e.ctx == x.ctx.val
  .next (withCmd s x 0x21 (fun s => firstNo [loadCmdNo s x addr, need (cur s).isSome .badState .loadState [bundle]]) fun s jseq =>
    let p := x.part.val
    let bver := ((cur s).map fun e => e.img.version).getD 0
    let s1 := emit (acceptCmd s x 0x21 jseq) (.hostRead x.fn addr len)
    let s2 := setLoad s1 p (some ⟨x, 0x21, bundle, 0, progVersion pr, none⟩)
    match firstNo [need (freeBank s2 p x.ctx).isSome .noResource .spBank [bundle], progNo s2 p pr] with
    | some n => failLoad s2 p n
    | none =>
      let g := newProg x bundle bver ((freeBank s2 p x.ctx).getD 0) pr
      { s2 with cmp := { s2.cmp with progs := s2.cmp.progs ++ [g] } })

/-- Put versions in force: the loaded ones current, older ones of the BUNDLE_ID and context not. -/
def makeCurrent (s : State) (p : Nat) (l : Load) : State :=
  let c := l.src.ctx.val
  let b1 (e : BundleEnt) : BundleEnt :=
    if e.part ≠ p ∨ e.img.id ≠ l.bundle ∨ e.ctx ≠ c ∨ l.cmd = 0x21 then e
    else if e.loading then { e with valid := true, loading := false, current := true } else { e with current := false }
  let g1 (g : Prog) : Prog :=
    if g.part ≠ p ∨ g.bundle ≠ l.bundle ∨ g.ctx ≠ c then g
    else if g.loading then { g with loading := false, current := true } else { g with current := false }
  { s with cmp := { s.cmp with bundles := s.cmp.bundles.map fun e => (e.1, e.2.map b1), progs := s.cmp.progs.map g1 } }

/-- BUNDLE_COMMIT (R293 stage 7, R466): unless a written block is poisoned, the versions become current, their units placed on the
tiles in service; ledger, FINAL OK. -/
def execBundleCommit (p : Fin 8) (s : State) : Res :=
  match loadOf s p with
  | none => .next s
  | some l =>
    if l.adapter.isSome then .next s
    else
      let ents := (bundleEnts s).filter fun e => e.loading && e.part == p.val
      let runs := ents.flatMap (bundleRuns s)
      if runs.any fun r => s.mem.poison.any fun b => decide (r.1 ≤ b) && decide (b < r.1 + r.2) then
        .next (failLoad s p ⟨.poisoned, .loadPoison, [l.bundle, l.version]⟩)
      else
        let o := srcOrigin l.src
        let oldB := ((versionsOf s p l.bundle).find? fun e => e.current && e.ctx == l.src.ctx.val).map fun e => e.img.version
        let oldP := ((progsOf s p).find? fun g => g.current && g.bundle == l.bundle && g.ctx == l.src.ctx.val).map Prog.version
        let s1 := makeCurrent (rebalLoading s p) p l
        let s2 := if l.cmd = 0x21 then s1
          else ledger s1 o { obj := 1, part := p, target := l.bundle, old := oldB.getD 0, new := l.version }
        let s3 := ledger s2 o { obj := 2, part := p, target := l.bundle, old := oldP.getD 0, new := l.pver }
        let s4 := freeVersions (setLoad s3 p none) p
        let s5 := if ents.any fun e => e.img.shared then bumpMeas s4 else s4
        .next (finishLater s5 l.src l.cmd .ok (if l.cmd = 0x21 then l.pver else l.version))

/-! ### Unloads (R296, R298) -/

/-- Whether a load of the BUNDLE_ID runs in the partition (Table 17-11). -/
def sameLoad (s : State) (p id : Nat) : Bool := (loadOf s p).any fun l => l.bundle == id

/-- Resident bundles of any partition that name a shared base (R298). -/
def namedBase (s : State) (id : Nat) : Bool :=
  (bundleEnts s).any fun e => e.valid && (e.img.base.map Prod.fst) == some id

/-- UNLOAD of a bundle version (R296): no version of the BUNDLE_ID stays current in the context, nor its program. -/
def execUnloadBundle (x : Src) (bundle : Nat) (s : State) : Res :=
  let cur (s : State) : Option BundleEnt := (versionsOf s x.part bundle).find? fun e => e.current && e.ctx == x.ctx.val
  .next (withCmd s x 0x22 (fun s => firstNo [cmdNo s x .control false, need (ctxPresent s x) .badState .loadState [bundle],
      need (!sameLoad s x.part bundle) .busy .loadBusy [bundle],
      need (cur s).isSome .badState .loadState [bundle],
      need (!(((cur s).map fun e => e.img.shared).getD false && namedBase s bundle)) .busy .loadBase [bundle]]) fun s _ =>
    let b1 (e : BundleEnt) : BundleEnt :=
      if e.part == x.part.val && e.img.id == bundle && e.ctx == x.ctx.val && !e.loading then { e with current := false } else e
    let g1 (g : Prog) : Prog :=
      if g.part == x.part.val && g.bundle == bundle && g.ctx == x.ctx.val && !g.loading then { g with current := false } else g
    let old := ((cur s).map fun e => e.img.version).getD 0
    let s1 := { s with cmp := { s.cmp with bundles := s.cmp.bundles.map fun e => (e.1, e.2.map b1), progs := s.cmp.progs.map g1 } }
    let s2 := ledger s1 (srcOrigin x) { obj := 1, part := x.part, target := bundle, old := old }
    finishCmd (freeVersions s2 x.part) x 0x22 .ok 0)

/-- UNLOAD of the step-program version only (R296). -/
def execUnloadProgram (x : Src) (bundle : Nat) (s : State) : Res :=
  let cur (s : State) : Option Prog :=
    (progsOf s x.part).find? fun g => g.current && g.bundle == bundle && g.ctx == x.ctx.val
  .next (withCmd s x 0x22 (fun s => firstNo [cmdNo s x .control false, need (ctxPresent s x) .badState .loadState [bundle],
      need (!sameLoad s x.part bundle) .busy .loadBusy [bundle], need (cur s).isSome .badState .loadState [bundle]]) fun s _ =>
    let old := ((cur s).map Prog.version).getD 0
    let g1 (g : Prog) : Prog :=
      if g.part == x.part.val && g.bundle == bundle && g.ctx == x.ctx.val && !g.loading then { g with current := false } else g
    let s1 := { s with cmp := { s.cmp with progs := s.cmp.progs.map g1 } }
    let s2 := ledger s1 (srcOrigin x) { obj := 2, part := x.part, target := bundle, old := old }
    finishCmd (freeVersions s2 x.part) x 0x22 .ok 0)

/-! ### Adapters (R300, R301) -/

/-- The resident adapters of a partition. -/
def adaptersOf (s : State) (p : Nat) : List Adapter := s.cmp.adapters.filter fun a => a.part == p

/-- Where an adapter record of `n` bytes goes: the lowest free 64 B-aligned place of a class S region of the partition,
after its length table and below its POOL (R301, notes/assumptions/22.md). -/
def adapterPlace (s : State) (p n : Nat) : Option Nat :=
  (validRegions s).findSome? fun k =>
    let r := regionOf s k
    if r.cls != .s || r.owner != p then none
    else
      let lo := r.base * gib + r.size * gib / 2048
      let hi := (r.base + r.size - r.pool) * gib
      let used := adaptersOf s p
      let starts := lo :: used.map fun a => ceilDiv (a.addr + a.bytes) 64 * 64
      let ok (a : Nat) : Bool := decide (lo ≤ a) && decide (a + n ≤ hi) &&
        !used.any fun b => decide (b.addr < a + n) && decide (a < b.addr + b.bytes)
      (starts.mergeSort fun a b => decide (a ≤ b)).find? ok

/-- `n` bytes of an adapter record at `o`, as a number. -/
def adNat (a : AdapterImage) (o n : Nat) : Nat := leNat ((a.data.drop o).take n)

/-- BUNDLE_ID, ADAPTER_ID, NTERMS and VERSION of a record (Table 12-4). -/
def adBundle (a : AdapterImage) : Nat := adNat a 0 4
/-- ADAPTER_ID. -/
def adId (a : AdapterImage) : Nat := adNat a 4 2
/-- NTERMS. -/
def adTerms (a : AdapterImage) : Nat := adNat a 6 2
/-- VERSION. -/
def adVersion (a : AdapterImage) : Nat := adNat a 8 4

/-- One term of an adapter record: the tensor it names, RANK, and where its data lie in the record. -/
structure AdTerm where
  layer  : Nat
  kind   : Nat
  rank   : Nat
  expert : Nat
  off    : Nat

/-- Term `i` of a record. -/
def adTerm (a : AdapterImage) (i : Nat) : AdTerm :=
  let o := 16 + 16 * i
  ⟨adNat a o 2, adNat a (o + 2) 1, 16 * adNat a (o + 3) 1, adNat a (o + 4) 2, adNat a (o + 8) 4⟩

/-- Whether CHECK, the counts and the reserved fields of a record stand (Table 12-4). -/
def adFormOk (a : AdapterImage) : Bool :=
  let n := adTerms a
  decide (16 + 16 * n ≤ a.data.length) && decide (1 ≤ n) && decide (n ≤ 8192) && decide (adId a < 1024) &&
    adNat a 12 4 == (crc32 (a.data.take 12 ++ leBytes 4 0 ++ a.data.drop 16)).toNat &&
    (List.range n).all fun i => adNat a (16 + 16 * i + 6) 2 == 0 && adNat a (16 + 16 * i + 12) 4 == 0

/-- The tensor a term names, in a bundle or in its base (R301). -/
def adTensor (s : State) (b : Bundle) (t : AdTerm) : Option Tensor :=
  let has (c : Bundle) : Option Tensor := c.tensors.find? fun u => u.layer == t.layer && u.kind == t.kind && u.expert == t.expert
  (has b).or ((baseOf s b).bind fun e => has e.img)

/-- Trit bytes and scale bytes of a term, as (offset, length) in the record: A and B, then s (Table 12-4). -/
def adRuns (t : AdTerm) (u : Tensor) : (Nat × Nat) × (Nat × Nat) :=
  let n := t.rank * ceilDiv u.cols 5 + u.rows * ceilDiv t.rank 5
  ((t.off, n), (t.off + n, 4 * t.rank))

/-- Whether a term's kind, rank and data stand for every version of its bundle. -/
def adTermOk (s : State) (bs : List BundleEnt) (a : AdapterImage) (t : AdTerm) : Bool :=
  (decide (t.kind ≤ 6) || decide (12 ≤ t.kind ∧ t.kind ≤ 14)) && decide (16 ≤ t.rank) && decide (t.rank ≤ 256) &&
    bs.all fun e => match adTensor s e.img t with
      | some u => decide (16 + 16 * adTerms a ≤ t.off) && decide ((adRuns t u).2.1 + (adRuns t u).2.2 ≤ a.data.length)
      | none => false

/-- The first data fault of a term: a trit byte above 242 (R56), with its offset in the record, or a scale that is not finite
(R61), with its rank. -/
def adDataNo (s : State) (b : Bundle) (a : AdapterImage) (i : Nat) : Option No :=
  let t := adTerm a i
  match adTensor s b t with
  | none => none
  | some u =>
    let (tr, sc) := adRuns t u
    let d := [adBundle a, adId a, adVersion a, i]
    let bad := (((a.data.drop tr.1).take tr.2).zipIdx).find? fun e => decide (242 < e.1.toNat)
    let inf := (List.range t.rank).find? fun k => fpNonfinite (BitVec.ofNat 32 (adNat a (sc.1 + 4 * k) 4))
    firstNo [bad.map fun e => ⟨.tritCode, .adapterLoad, d ++ [tr.1 + e.2]⟩, inf.map fun k => ⟨.badField, .adapterLoad, d ++ [k]⟩]

/-- The checks of an adapter record (R301). -/
def adapterNo (s : State) (x : Src) (a : AdapterImage) : Option No :=
  let d := [adBundle a, adId a, adVersion a]
  let bs := (versionsOf s x.part (adBundle a)).filter fun e => e.ctx == x.ctx.val
  let held := adaptersOf s x.part
  let mine := held.filter fun b => b.id == adId a
  let ts := List.range (adTerms a)
  firstNo ([need (adFormOk a && !bs.isEmpty && (ts.map (adTerm a)).all (adTermOk s bs a)) .badField .adapterLoad d,
    need (mine.all fun b => decide (b.version < adVersion a)) .badState .adapterLoad d] ++
    (bs.head?.toList.flatMap fun e => ts.map (adDataNo s e.img a)) ++
    [need (decide (mine.length < 4) && (!mine.isEmpty || decide ((held.map Adapter.id).eraseDups.length < 1024)) &&
      (adapterPlace s x.part a.data.length).isSome) .noResource .adapterSpace d])

/-- LOAD_ADAPTER (R301): the record is written into class S memory and checked. -/
def execLoadAdapter (x : Src) (addr len : Nat) (a : AdapterImage) (s : State) : Res :=
  let same (s : State) : Bool := (loadOf s x.part).any fun l => l.adapter == some (adId a)
  .next (withCmd s x 0x23 (fun s => firstNo [cmdNo s x .control false [addrNo addr 24], need (ctxPresent s x) .badState .loadState [],
      need (!same s) .busy .adapterLoad [adId a], loadBusy s x]) fun s jseq =>
    let p := x.part.val
    let s1 := emit (acceptCmd s x 0x23 jseq) (.hostRead x.fn addr len)
    let s2 := setLoad s1 p (some ⟨x, 0x23, adBundle a, adVersion a, 0, some (adId a)⟩)
    match adapterNo s2 x a with
    | some n => failLoad s2 p n
    | none =>
      let at' := (adapterPlace s2 p a.data.length).getD 0
      let e : Adapter := ⟨p, x.ctx, adBundle a, adId a, adVersion a, a.data.length, at', false, true, false⟩
      memWrite { s2 with cmp := { s2.cmp with adapters := s2.cmp.adapters ++ [e] } } at' a.data)

/-- ADAPTER_COMMIT (R301): the checked version becomes current. -/
def execAdapterCommit (p : Fin 8) (adapter : Nat) (s : State) : Res :=
  match loadOf s p with
  | none => .next s
  | some l =>
    if l.adapter ≠ some adapter then .next s
    else
      let up (a : Adapter) : Adapter :=
        if a.part ≠ p.val ∨ a.id ≠ adapter ∨ a.ctx ≠ l.src.ctx.val then a
        else if a.loading then { a with loading := false, current := true } else { a with current := false }
      let old := ((adaptersOf s p).find? fun a => a.id == adapter && a.current && a.ctx == l.src.ctx.val).map Adapter.version
      let hit := (adaptersOf s p).any fun a => a.id == adapter && a.loading &&
        (blocksOf a.addr a.bytes).any s.mem.poison.contains
      if hit then .next (failLoad s p ⟨.poisoned, .loadPoison, [l.bundle, adapter]⟩)
      else
        let s1 := { s with cmp := { s.cmp with adapters := s.cmp.adapters.map up } }
        let s2 := ledger s1 (srcOrigin l.src) { obj := 3, part := p, target := adapter, old := old.getD 0, new := l.version }
        .next (finishLater (freeVersions (setLoad s2 p none) p) l.src 0x23 .ok l.version)

/-- DELETE_ADAPTER (R301): no version of the adapter stays current. -/
def execDeleteAdapter (x : Src) (bundle adapter : Nat) (s : State) : Res :=
  let cur (s : State) : Option Adapter :=
    (adaptersOf s x.part).find? fun a => a.id == adapter && a.bundle == bundle && a.current && a.ctx == x.ctx.val
  .next (withCmd s x 0x24 (fun s => firstNo [cmdNo s x .control false, need (ctxPresent s x) .badState .loadState [bundle],
      need (cur s).isSome .badState .loadState [bundle, adapter]]) fun s _ =>
    let old := ((cur s).map Adapter.version).getD 0
    let down (a : Adapter) : Adapter :=
      if a.part == x.part.val && a.id == adapter && a.ctx == x.ctx.val && !a.loading then { a with current := false } else a
    let s1 := { s with cmp := { s.cmp with adapters := s.cmp.adapters.map down } }
    let s2 := ledger s1 (srcOrigin x) { obj := 3, part := x.part, target := adapter, old := old }
    finishCmd (freeVersions s2 x.part) x 0x24 .ok 0)

end Sys2Proof.Machine
end

