-- ==== Sys2Proof/Machine/Compose.lean ====
section
/-! DEFINITION. Composing a step: columns, pages, copies on write, the prefix tree, and the start of a step
(R311 to R322, R343 to R351, R224, R274). -/

namespace Sys2Proof.Machine

/-! ### Sequences -/

/-- Tokens of a sequence whose KV a prefill must write: the prompt, or after tokens were generated all but the last
(R316, R353). -/
def goalOf (x : Slot) : Nat := if x.tokens.length ≤ x.nprompt then x.nprompt else x.tokens.length - 1

/-- Whether a slot's next columns are prompt chunks: in PREFILL, or in DECODE while positions of its history still lack their KV:
the last of a prompt fully matched in the prefix tree (R318), or what a readmitted slot recomputes (R353, Table 13-1). -/
def chunking (x : Slot) : Bool := x.st == .prefill || (x.st == .decode && decide (x.filled < goalOf x))

/-- A slot as it will stand after the executing step, for the composition of the next (R311, R329). -/
def peek (s : State) (n : Nat) : Slot :=
  let x := slotOf s n
  match (partOf s x.part).exec with
  | none => x
  | some e =>
    let cs := e.cols.filter fun c => c.slot == n
    if cs.isEmpty then x
    else if x.st == .decode && !chunking x then
      let k := (cs.filter fun c => c.kind == .cand).length
      { x with tokens := x.tokens ++ List.replicate (k + 1) 0, filled := x.filled + k + 1,
               tree := if k = 0 then x.tree else none }
    else
      let m := (cs.filter fun c => c.kind == .prefill).length
      let done := decide (goalOf x ≤ x.filled + m)
      let emits := cs.any Column.emit
      let st := if !done then x.st else if emits && (partOf s x.part).role == .prompt then .handoff else .decode
      { x with filled := x.filled + m, tokens := if emits then x.tokens ++ [0] else x.tokens, st := st }

/-- Whether a slot has a column in its partition's running step. -/
def inRunning (s : State) (n : Nat) : Bool :=
  (partOf s (slotOf s n).part).exec.any fun e => (stepSlots e).contains n

/-- Records that a slot's columns in the running step may still put out. -/
def pendingOut (s : State) (n : Nat) : Nat :=
  match (partOf s (slotOf s n).part).exec with
  | none => 0
  | some e => min 9 (e.cols.filter fun c => c.slot == n && c.emit).length

/-- Records that a slot's output hold still has room for once the running step's are in it (R327). -/
def holdRoom (s : State) (n : Nat) : Nat := 64 - ((slotOf s n).hold.length + pendingOut s n)

/-- Whether a slot may give columns to a step of a version (R311, R313, R327, R352, R363); pages still on their way from
a CACHE module hold it (R334). -/
def mayComposeIn (s : State) (p c ver n : Nat) : Bool :=
  let x := peek s n
  x.part == p && x.ctx == c && x.pver == ver && (x.st == .prefill || x.st == .decode) &&
    !x.doomed && decide (0 < holdRoom s n) && x.cancel.isNone && x.toRestore.isEmpty &&
    x.sets.all fun ps => !ps.contains noPage

/-- Whether a slot of the running context may give columns to a step of a version (R363). -/
def mayCompose (s : State) (p ver n : Nat) : Bool := mayComposeIn s p (partOf s p).running ver n

/-- The versions with an eligible column, oldest first. -/
def openVersions (s : State) (p : Nat) : List Nat :=
  let vs := ((slotsOf s p).map fun n => (slotOf s n).pver).eraseDups.mergeSort fun a b => decide (a ≤ b)
  vs.filter fun v => ((progOf s p v).map fun g => !g.cannotRun).getD false && (slotsOf s p).any (mayCompose s p v)

/-- The versions in the order the next step tries them: two versions alternate, starting with the older, and one that gives no
column is skipped (R313). -/
def versionOrder (s : State) (p : Nat) : List Nat :=
  match openVersions s p with
  | [] => []
  | v :: r => if v = (partOf s p).lastVer then r ++ [v] else v :: r

/-- The version whose turn it is (R313). -/
def nextVersion (s : State) (p : Nat) : Option Nat := (versionOrder s p).head?

/-! ### Columns -/

/-- The decode column of a slot. -/
def decodeCol (x : Slot) (n : Nat) : Column :=
  let pos := x.tokens.length - 1
  ⟨.decode, n, pos, pos, x.tokens.getLastD 0, true, none⟩

/-- Depth of node `k` of a tree, the root's children at 1 (R320). -/
def nodeDepth (ns : List Node) : Nat → Nat → Nat
  | 0, _ => 1
  | f + 1, k => match ns[k]? with
    | some nd => match nd.parent with
      | some q => nodeDepth ns f q + 1
      | none => 1
    | none => 1

/-- The candidate columns of the first `m` nodes of a tree (R321). -/
def candCols (n base : Nat) (ns : List Node) : List Column :=
  (ns.zipIdx).map fun e => ⟨.cand, n, base + nodeDepth ns ns.length e.2, base + 1 + e.2, e.1.token, true, some e.2⟩

/-- A prefill chunk within `room` columns (R311, R316): shrunk to a multiple of 64, the last one padded. -/
def chunkCols (x : Slot) (n chunk room : Nat) : List Column :=
  let left := goalOf x - x.filled
  let want := min left chunk
  let padded := ceilDiv want 64 * 64
  let m := if padded ≤ room then want else min want (room / 64 * 64)
  let last := decide (m = left)
  let emits := last && decide (x.tokens.length ≤ x.nprompt)
  let cols := (List.range m).map fun i =>
    let pos := x.filled + i
    (⟨.prefill, n, pos, pos, x.tokens.getD pos 0, emits && decide (i + 1 = m), none⟩ : Column)
  if m = 0 then [] else cols ++ List.replicate (if last then ceilDiv m 64 * 64 - m else 0) ⟨.pad, n, 0, 0, 0, false, none⟩

/-! ### Pages of a composition (R343 to R351) -/

/-- A fresh page's length bytes read 0xFF (R342). -/
def freshPages (s : State) (p : Nat) (ks : List Nat) : State :=
  ks.foldl (fun s k => (List.range ((partOf s p).poolPage * 2)).foldl (fun s i => setLen s (blockOf (pageAddr s p k) + i) 0xFF) s) s

/-- Whether a slot may have the pages of set `i`: an LC slot from its reservation, which it draws on first, any other page
free and not reserved (R343, R349). -/
def mayTake (s : State) (p n i : Nat) : Bool :=
  let x := slotOf s n
  (isLc x && decide (0 < x.reserved)) ||
    (poolNeeds s p x.pver [i]).all fun k => decide (k.2 + poolReserved s p k.1 ≤ poolFree s p k.1)

/-- One more page set for a slot: an LC slot draws on its reservation first; any other page must be free and not
reserved (R343, R349). -/
def takeSet (s : State) (p n : Nat) : Option State :=
  let x := slotOf s n
  let pls := placesOf s p x.pver
  let i := x.sets.length
  if !mayTake s p n i then none
  else (allocSet s p pls i n).map fun r =>
    freshPages (modSlot r.1 n fun x => { x with sets := x.sets ++ [r.2], reserved := x.reserved - 1 }) p r.2

/-- Module address of a page's metadata (R340). -/
def metaAddr (s : State) (p k : Nat) : Nat :=
  let r := regionOf s (k / 2 ^ 32)
  (r.base + r.size - r.pool) * gib + (k % 2 ^ 32) * (partOf s p).poolMeta * 2048

/-- The bytes of a block as written, decoded where it is stored compressed (R346); none where it cannot be read. -/
def plainBlock (s : State) (d b : Nat) : Option (List Byte) :=
  if isPoisoned s b then none
  else if lenOf s b = 0xFF then some (memRead s (b * 2048) 2048)
  else
    let st := memRead s (b * 2048) ((lenOf s b + 1) * 8)
    decodeStream (codeSlotOf s d ((st.headD 0).toNat % 16)).lens (st.drop 1)

/-- The bytes of a page, decoded. -/
def plainPage (s : State) (p k : Nat) : Option (List Byte) :=
  ((List.range ((partOf s p).poolPage * 2)).mapM fun i =>
    plainBlock s (sealDie s p (k / 2 ^ 32)) (blockOf (pageAddr s p k) + i)).map List.flatten

/-- Copy the slots of a page below `m` to another, entries and records (R338, R339, R346). -/
def copyPage (s : State) (p src dst hw m : Nat) : Option State :=
  (plainPage s p src).map fun bs =>
    let hs := if hw = 0 then 0 else bs.length / (128 * hw)
    let put (s : State) (o : Nat) : State := memPutRun s (pageAddr s p dst + o) ((bs.drop o).take (m * hw))
    let s1 := (List.range hs).foldl (fun s h => put (put s (h * 128 * hw)) (h * 128 * hw + 64 * hw)) s
    (List.range hs).foldl (fun s h =>
      memPutRun s (metaAddr s p dst + h * 2048) (memRead s (metaAddr s p src + h * 2048) (m * 32))) s1

/-- Whether a set must be copied before slot `n` writes into it: shared, or another writer's (R346). -/
def mustCopy (s : State) (p n : Nat) (ks : List Nat) : Bool :=
  ks.any fun k => let g := pageOf (partOf s p) k
    isShared g || g.writer != some n

/-- Drop references of pages. -/
def dropPages (s : State) (p : Nat) (ks : List Nat) : State := modPart s p fun q => (ks.filter (· != noPage)).foldl dropRef q

/-- A copy stops at a page that cannot be read (Table 14-4): the new pages `ks` are freed, the old ones it meets are POISONED, and
the slot becomes a recompute slot. -/
def copyStops (s : State) (p n : Nat) (ks old : List Nat) : State :=
  let bad := old.filter fun k => (plainPage s p k).isNone
  doomLost (modPart (dropPages s p ks) p fun q => bad.foldl (fun q k => modPage q k fun g => { g with poisoned := true }) q) n

/-- Copy set `i` of a slot before it writes at slot position `m` of it (R346); none when a page is short. -/
def copySet (s : State) (p n i m : Nat) : Option State :=
  if !mayTake s p n i then none else
  let x := slotOf s n
  let old := x.sets.getD i []
  let hw := ((slotBundle s x).map fun b => b.img.params.hw).getD 0
  (allocSet s p (placesOf s p x.pver) i n).map fun r =>
    let s1 := freshPages r.1 p r.2
    match (old.zip r.2).foldl (fun acc e => acc.bind fun s => copyPage s p e.1 e.2 hw m) (some s1) with
    | none => copyStops s1 p n r.2 old
    | some s2 =>
      let s3 := modSlot s2 n fun x => { x with sets := x.sets.take i ++ r.2 :: x.sets.drop (i + 1), reserved := x.reserved - 1 }
      modPart (dropPages s3 p old) p fun q => r.2.foldl (fun q k => modPage q k fun g => { g with ntok := m }) q

/-- Give a slot every page its columns write, copying what it may not write into (R343, R346); a slot that must recompute gets no
more. -/
def supply (p n upto first : Nat) : Nat → State → Option State
  | 0, _ => none
  | f + 1, s =>
    let x := slotOf s n
    let i := first / 64
    if x.doomed then some s
    else if i < x.sets.length && mustCopy s p n (x.sets.getD i []) then
      (copySet s p n i (first % 64)).bind (supply p n upto first f)
    else if upto ≤ x.sets.length then some s
    else (takeSet s p n).bind (supply p n upto first f)

/-- Evict a node for its pages: offered to the CACHE partition of the role table where there is one, the node keeping them until
they have arrived there (R356), else removed. -/
def evictNode (s : State) (p : Nat) (nd : PNode) : State :=
  match cacheTarget s p with
  | some t =>
    if canReach s t.1 && nd.remote.isNone then
      let up (m : PNode) : PNode := if m == nd then { m with remote := some t } else m
      newFlow (modPart s p fun q => { q with nodes := q.nodes.map up }) t.1 3 4 (16 * nd.pages.length) (.spill p nd.hash false)
    else removeNode s p nd
  | none => removeNode s p nd

/-- Evict nodes whose pages in a POOL only the tree references, until `want` pages are free or on their way out (R350, step 1). -/
def evictFor (p pool want : Nat) : Nat → State → State
  | 0, s => s
  | f + 1, s =>
    if want ≤ poolFree s p pool + leaving s p pool then s
    else
      let ok (nd : PNode) : Bool := nd.pages.any (fun x => x / 2 ^ 32 == pool) &&
        nd.pages.all fun x => decide ((pageOf (partOf s p) x).refs ≤ 1)
      match evictChoice s p ok with
      | none => s
      | some nd => evictFor p pool want f (evictNode s p nd)

/-- The sets whose pages a slot still needs for columns that write from key `first` on and end in set `upto - 1`: a copy of the one
it may not write into, and those it lacks. -/
def needIdx (s : State) (p n upto first : Nat) : List Nat :=
  let x := slotOf s n
  let i := first / 64
  (if i < x.sets.length && mustCopy s p n (x.sets.getD i []) then [i] else []) ++
    (List.range (upto - x.sets.length)).map (· + x.sets.length)

/-- Free pages of a pool that sets `is` of a slot ask for: beside every reservation what its own does not cover, and in any case as
many as they take (R349, R350). -/
def wantIn (s : State) (p n : Nat) (is : List Nat) (pool : Nat) : Nat :=
  let x := slotOf s n
  let need (js : List Nat) : Nat := needOf s p (placesOf s p x.pver) js pool
  let beyond := need (is.drop (if isLc x then x.reserved else 0))
  max (need is) (if beyond = 0 then 0 else beyond + poolReserved s p pool)

/-- Relieve a shortage of a slot's pages (R350, R351): nodes, then BE victims, LC victims for an LC slot. -/
def relieve (s : State) (p n upto first : Nat) (busy : List Nat) : State :=
  let x := slotOf s n
  let is := needIdx s p n upto first
  let wants := (poolNeeds s p x.pver is).map fun k => (k.1, wantIn s p n is k.1)
  let s1 := wants.foldl (fun s w => evictFor p w.1 w.2 (partOf s p).nodes.length s) s
  let s2 := wants.foldl (fun s w => doomFor s w.1 (w.2 - (poolFree s p w.1 + leaving s p w.1))
    (victims s p w.1 busy false ++ if isLc x then victims s p w.1 busy true else [])) s1
  preemptIdle s2 p

/-! ### The composition (R311 to R322, R350) -/

/-- A composition under way; `dry` while columns are only counted, `plan` the slots the step takes columns from before pages
are drawn, which are no victims of its own shortage (R351); `trim` counts BE columns that S_LIM kept out, `shut` once one was (R376);
`late` counts slots deferred at the 33rd adapter (R314); `wait` once an LC column lacks pages that are on their way out (R350). -/
structure Comp where
  dry      : Bool
  plan     : List Nat
  trim     : Nat
  shut     : Bool
  s        : State
  cols     : List Column
  adapters : List (Nat × Nat)
  deferred : List Nat
  short    : Bool
  trees    : List (Nat × Tree)
  blocks   : Nat
  skips    : Nat
  late     : Nat
  wait     : Bool

/-- Slots with a column so far. -/
def Comp.slots (c : Comp) : List Nat := (c.cols.map Column.slot).eraseDups

/-- Keys that a slot's columns of a step may attend: up to the highest key position among them (R376). -/
def topKey (cols : List Column) (n : Nat) : Nat :=
  ((cols.filter fun k => k.slot == n && k.kind != .pad).map fun k => k.keyPos + 1).foldl max 0

/-- S of a step with these columns: its set count, and the most pages a tile stream spans of the keys of a sequence it serves
(R376). -/
def colsNs (s : State) (p ver : Nat) (cols : List Column) : Nat :=
  let ns := (cols.map Column.slot).eraseDups
  boundNs s p ver (ceilDiv cols.length 64) ((ns.map fun n => streamPages s p ver (topKey cols n)).foldl max 0)

/-- How many of a BE slot's columns fit within S_LIM behind those composed: a chunk only by whole 64 columns. -/
def beFit (s : State) (p ver lim : Nat) (have' cols : List Column) : Nat :=
  let n := cols.length
  ((List.range (n + 1)).reverse.find? fun k =>
    decide (colsNs s p ver (have' ++ cols.take k) ≤ lim) &&
      (k == n || k % 64 == 0 || (cols.headD ⟨.pad, 0, 0, 0, 0, false, none⟩).kind != .prefill)).getD 0

/-- Columns composed and columns trimmed: what the budget counts. -/
def Comp.used (c : Comp) : Nat := c.cols.length + c.trim

/-- The columns of a slot whose pages are at hand, taken into the step: its tree, its adapter, and where its first chunk begins what
the prefix tree matched (R314, R318). -/
def Comp.take (c : Comp) (s : State) (n : Nat) (cols : List Column) (tree : Option Tree) : Comp :=
  let x := slotOf s n
  let begins := decide (x.lastCol = 0) && !inRunning s n && cols.any fun k => k.kind == .prefill
  { c with s := s, cols := c.cols ++ cols, trees := c.trees ++ tree.toList.map fun t => (n, t),
           adapters := match x.adapter with
             | some a => if c.adapters.contains a then c.adapters else c.adapters ++ [a]
             | none => c.adapters,
           blocks := c.blocks + (if begins then x.matched else 0), skips := c.skips + (if begins then x.skipped else 0) }

/-- Add a slot's columns if its adapter fits (R314) and its pages can be had (R343, R350). A BE slot whose pages stay short is
deferred; for an LC slot the composition waits while pages are on their way out. -/
def addCols (c : Comp) (p n : Nat) (cols : List Column) (tree : Option Tree) : Comp :=
  let x := slotOf c.s n
  let real := cols.filter fun k => k.kind != .pad
  let first := ((real.map Column.keyPos).foldl min (2 ^ 32))
  let upto := ((real.map Column.keyPos).foldl max 0) / 64 + 1
  let fuel := upto + 4
  if real.isEmpty || c.wait || c.deferred.contains n || x.doomed then c
  else if x.adapter.any (fun a => !c.adapters.contains a) && decide (32 ≤ c.adapters.length) then
    { c with deferred := c.deferred ++ [n], late := c.late + 1 }
  else if c.dry then c.take c.s n cols tree
  else match supply p n upto first fuel c.s with
    | some s => if (slotOf s n).doomed then { c with s := s } else c.take s n cols tree
    | none =>
      let r := relieve c.s p n upto first (n :: c.slots ++ c.plan)
      match supply p n upto first fuel r with
      | some s => if (slotOf s n).doomed then { c with s := s } else c.take s n cols tree
      | none => { c with s := r, deferred := c.deferred ++ [n], short := c.short || !isLc x,
                         wait := isLc x && (poolsOf r p).any fun k => decide (0 < leaving r p k) }

/-- Add a slot's columns as far as S_LIM lets BE columns in (R376): from the first that does not fit on, none does. -/
def addWithin (lim : Option Nat) (c : Comp) (p n : Nat) (cols : List Column) (tree : Option Tree) : Comp :=
  let x := slotOf c.s n
  match lim with
  | none => addCols c p n cols tree
  | some l =>
    if isLc x then addCols c p n cols tree
    else
      let k := if c.shut then 0 else beFit c.s p x.pver l c.cols cols
      let c1 := if k = 0 then c else addCols c p n (cols.take k) (tree.map fun t => { t with nodes := t.nodes.take k })
      if k < cols.length then { c1 with trim := c1.trim + (cols.length - k), shut := true } else c1

/-- Whether a BE sequence's own pages make any step exceed S_LIM: it waits (R376). -/
def beWaits (s : State) (p : Nat) (lim : Option Nat) (n : Nat) : Bool :=
  let x := slotOf s n
  match lim with
  | some l => !isLc x && decide (l < boundNs s p x.pver 1 (streamPages s p x.pver (x.filled + 1)))
  | none => false

/-- Rung: decode columns of a class. -/
def rungDecode (p budget : Nat) (lim : Option Nat) (c : Comp) (n : Nat) : Comp :=
  let x := peek c.s n
  if x.st == .decode && !chunking x && decide (c.used < budget) then addWithin lim c p n [decodeCol x n] none else c

/-- Rung: candidate columns; a stale tree is discarded and its command ended (R320, R321); no more nodes are taken than records the
output hold has room for (R327). -/
def rungCand (p budget : Nat) (lim : Option Nat) (c : Comp) (n : Nat) : Comp :=
  let x := peek c.s n
  match x.tree with
  | none => c
  | some t =>
    if x.st != .decode || chunking x || !c.slots.contains n then c
    else if t.tree.basePos ≠ x.tokens.length - 1 then { c with s := staleTree c.s n }
    else
      let room := holdRoom c.s n
      let m := min (if room < 9 then room - 1 else 16) (min (budget - c.used) (if isLc x then x.spec else 16))
      let ns := t.tree.nodes.take m
      addWithin lim c p n (candCols n t.tree.basePos ns) (some { t.tree with nodes := ns })

/-- Rung: prefill chunks. -/
def rungChunk (p budget : Nat) (lim : Option Nat) (c : Comp) (n : Nat) : Comp :=
  let x := peek c.s n
  if chunking x then addWithin lim c p n (chunkCols x n (chunkOf c.s x) (budget - c.used)) none else c

/-- Slots in the order a rung serves them: longest-waiting first, ties to the lower number (R311). -/
def rungOrder (s : State) (ns : List Nat) : List Nat :=
  ns.mergeSort fun a b =>
    let la := idleFrom (slotOf s a)
    let lb := idleFrom (slotOf s b)
    if la = lb then decide (a ≤ b) else decide (la < lb)

/-- The six rungs (R311), within S_LIM less the time a test gap took (R462): first the columns the step would take, then the same with their pages (R350). -/
def compose (s : State) (p ver : Nat) : Comp :=
  let budget := (partOf s p).colBudget
  let lim := (partSLim s p).map fun l => if (partOf s p).gapTook then l - gapNs else l
  let ok := rungOrder s ((slotsOf s p).filter fun n => mayCompose s p ver n && !beWaits s p lim n)
  let lc := ok.filter fun n => isLc (slotOf s n)
  let be := ok.filter fun n => !isLc (slotOf s n)
  let c0 : Comp := ⟨true, [], 0, false, s, [], [], [], false, [], 0, 0, 0, false⟩
  let run (c : Comp) (ns : List Nat) : Comp :=
    ns.foldl (rungChunk p budget lim) (ns.foldl (rungCand p budget lim) (ns.foldl (rungDecode p budget lim) c))
  run (run { c0 with dry := false, plan := (run (run c0 lc) be).slots } lc) be

/-! ### The start of a step (R190, R197, R224, R239, R241, R274) -/

/-- A tile's place and bank as a step of version `g` starts (R190, R197, R224, R239): the registers, the scratch of banks
that leave the cache zeroed, the cache kept where neither version nor CACHE_BANKS changed. -/
def startBanks (cb : Nat) (e : Step) (x : Tile) : Tile :=
  let back (k : Nat) : Bool := decide ((16 - x.cacheBanks) * 4096 ≤ k) && decide (k < (16 - cb) * 4096)
  let keep := decide (x.version = e.version) && decide (x.cacheBanks = cb)
  { x with cacheBanks := cb, cache := if keep then x.cache else [], store := x.store.filter fun m => !back (m.1 / 64),
           poison := x.poison.filter fun k => !back k }

/-- The versions in a context's two program banks (R239, R363). -/
def banksOf (s : State) (p c : Nat) : Tab Nat :=
  ((progsOf s p).filter fun h => h.ctx == c && !h.loading).foldl (fun t h => tabSet t h.bank h.version 0) []

/-- A tile as a step starts: registers, bank, section buffer, the score rows in service (R113), and everything of the last
step cleared. -/
def startTile (s : State) (p : Nat) (e : Step) (g : Option Prog) (t : Nat) (x : Tile) : Tile :=
  let cb := ((g.bind fun h => imageFor h.img t).map imgBanks).getD 0
  let y := startBanks cb e (clearStep x)
  { y with pc := 0, bank := (g.map Prog.bank).getD 0, st := .run, hold := 0, version := e.version, issued := 0, lastIdx := 0,
           regs := startRegs e.block (dirIndexOf (partOf s p) t) e.num, sec := x.secNext.filter fun c => c.step == e.num,
           secNext := none, bankVer := banksOf s p e.ctx, bars := [], waitBar := none,
           waitBlocks := none, waitCount := none, waitEnd := false, recOnce := [], faulted := false, ended := false,
           endRange := none, abandonOn := false, noticed := false, stopped := false, held := none, syncBoard := [],
           rowsOut := (List.range 32).filter fun r => isFenced s (rowUnit t r) }

/-- The lanes of the dies of a partition. -/
def partLane (q : Part) (k : Nat) : Bool := q.dies.testBit (k / 128)

/-- Where the stream of entry `i` of a list goes that was to reach tile `r`: the tile that took the unit it serves, the last
of those of `r` whose FEED is not above `i` (R98, R466); none where the unit stays. -/
def newHome (g : Prog) (d r i : Nat) : Option Nat :=
  let us := (divsOf g d).filter fun u => u.home == r && decide (u.feed ≤ i)
  let best := us.foldl (fun (a : Option DivEntry) u => match a with
    | none => some u
    | some b => if b.feed ≤ u.feed then some u else some b) none
  best.bind fun u => (g.homes.find? fun h => h.1 == d && h.2.1 == u.wunit).map fun h => h.2.2

/-- A feed list with its multicast sets formed anew for the new recipients, without fenced tiles (R98, R466). -/
def planList (s : State) (g : Prog) (d : Nat) (fs : List FeedEntry) : List FeedEntry :=
  (fs.zipIdx.map fun e => { e.1 with rcp := (e.1.rcp.flatMap fun r =>
      match newHome g d r e.2 with
      | some t => [t]
      | none => if isFenced s ⟨.tile, d, r⟩ then [] else [r]).eraseDups }).filter fun f => !f.rcp.isEmpty

/-- Give a list to the lane that has the fewest, the lowest of equals; a lane given two runs them in turn (R467). -/
def giveList (lanes : List (Nat × Nat × Lane)) (e : Nat) (fs : List FeedEntry) : List (Nat × Nat × Lane) :=
  let best := lanes.foldl (fun (a : Option (Nat × Nat)) x => match a with
    | none => some (x.1, x.2.1)
    | some b => if x.2.1 < b.2 then some (x.1, x.2.1) else some b) none
  lanes.map fun x => if some x.1 = best.map Prod.fst then
    (x.1, x.2.1 + 1, { x.2.2 with list := x.2.2.list ++ fs, home := x.2.2.home ++ fs.map fun _ => e }) else x

/-- A die's lanes as a step starts (R274): each expander in service runs its own lists; a fenced expander's lists go to the
others in ascending order (R467). -/
def dieLanes (s : State) (g : Prog) (d : Nat) : List (Nat × Lane) :=
  let lists := (g.img.feeds.filter fun f => f.1 / 128 == d).map fun f => (f.1, planList s g d (feedList f.2))
  let out (k : Nat) : Bool := isFenced s (expUnit d (k / 32 % 4))
  let start := ((List.range 128).map (d * 128 + ·)).filter (fun k => !out k) |>.map fun k =>
    let fs := ((lists.find? fun l => l.1 == k).map Prod.snd).getD []
    (k, if fs.isEmpty then 0 else 1, { Lane.init with list := fs, home := fs.map fun _ => k / 32 % 4 })
  let moved := (lists.filter fun l => out l.1 && !l.2.isEmpty).mergeSort fun a b => decide (a.1 ≤ b.1)
  (moved.foldl (fun ls l => giveList ls (l.1 / 32 % 4) l.2) start).map fun x => (x.1, x.2.2)

/-- Every lane of the partition starts its list at the first entry; received lists are dropped (R274). -/
def startLanes (s : State) (p : Nat) (g : Option Prog) : State :=
  let q := partOf s p
  let rest := s.exps.lanes.filter fun e => !partLane q e.1
  let new := match g with
    | none => []
    | some h => (diesOf q).flatMap (dieLanes s h)
  { s with exps := { lanes := new.foldl (fun t l => tabSet t l.1 l.2 Lane.init) rest,
                     lists := s.exps.lists.filter fun l => !q.dies.testBit l.die } }

/-- The bounds of a partition's requests bind again with the first step composed after the notices (R380). -/
def bindAgain (s : State) (p : Nat) : State :=
  { s with slots := s.slots.map fun x => if x.2.part == p then (x.1, { x.2 with excused := false }) else x }

/-- Start a step: every tile of the partition takes it up; a section that fails its checks is refused at once (R5, R241). -/
def startStep (s0 : State) (p : Nat) (e : Step) : State :=
  let s := if e.suspended || (partOf s0 p).suspended then s0 else bindAgain s0 p
  let g := progOf s p e.version
  let ts := tilesOf s p
  let e1 := { e with suspended := e.suspended || (partOf s p).suspended, event := if e.event = 0 && (partOf s p).suspended then (partOf s p).event else e.event, tStart := nowNs s, emissions := [], ended := [], why := none, taint := none, cnt :=
    { Counters.zero with adapterDefer := e.cnt.adapterDefer, prefixBlocks := e.cnt.prefixBlocks, prefixSkip := e.cnt.prefixSkip } }
  let s1 := startLanes (modPart s p fun q => { q with exec := some e1, barPoint := none, gapTook := false }) p g
  let s2 := ts.foldl (fun s t => modTile s t (startTile s p e g t)) s1
  ts.foldl (fun s t => match (tileOf s t).sec with
    | some c => if sectionOk (tileOf s t) c then s else pbFail (modTile s t fun x => { x with sec := none }) t c.reserved
    | none => s) s2

/-! ### Parameter blocks (R168, R224, R240) -/

/-- The code of a column kind (Table 9-19). -/
def ColKind.code : ColKind → Nat
  | .decode => 0 | .prefill => 1 | .cand => 2 | .pad => 3

/-- A column record (Table 9-19). -/
def columnBytes (s : State) (c : Column) : List Byte :=
  let x := slotOf s c.slot
  leBytes 2 c.slot ++ leBytes 1 c.kind.code ++ leBytes 1 (c.node.getD 0) ++ leBytes 4 c.pos ++ leBytes 4 x.temp.toNat ++
    leBytes 2 x.topK ++ leBytes 2 0 ++ leBytes 4 x.topP.toNat ++ leBytes 4 x.admits ++
    leBytes 1 (bit c.emit + 2 * bit x.seeded) ++ leBytes 39 0

/-- An address or a mask as two section words, the lower first. -/
def twoWords (n : Nat) : List Nat := [n % 2 ^ 32, n / 2 ^ 32 % 2 ^ 32]

/-- The adapter entries of a step's sections (R302): how many, then each version's module address and its column mask per selection
set. The layout of the lists is the model's (notes/assumptions/34.md). -/
def adapterFacts (s : State) (p ctx : Nat) (cols : List Column) : List Nat :=
  let of (c : Column) : Option (Nat × Nat) := (slotOf s c.slot).adapter
  let mask (a : Nat × Nat) (k : Nat) : Nat :=
    (((cols.drop (64 * k)).take 64).zipIdx.map fun c => if of c.1 == some a then 2 ^ c.2 else 0).sum
  let as := (cols.filterMap of).eraseDups
  as.length :: as.flatMap fun a =>
    let at' := (s.cmp.adapters.find? fun x => x.part == p && x.ctx == ctx && x.id == a.1 && x.version == a.2).map Adapter.addr
    twoWords (at'.getD 0) ++ (List.range (ceilDiv cols.length 64)).flatMap fun k => twoWords (mask a k)

/-- A tree's nodes as a section lists them (R321): the slot, BASEPOS, how many, then TOKEN, Q and the children of each. -/
def treeFacts (n : Nat) (t : Tree) : List Nat :=
  n :: t.basePos :: t.nodes.length :: (t.nodes.zipIdx).flatMap fun e =>
    let kids := ((t.nodes.zipIdx).filter fun k => k.1.parent == some e.2).map Prod.snd
    e.1.token :: e.1.q.toNat :: kids.length :: kids

/-- The trees of a step as a section lists them: how many, then each. -/
def treeWords (e : Step) : List Nat := e.trees.length :: e.trees.flatMap fun t => treeFacts t.1 t.2

/-- The moves of a sequence as sections list them (R347): the slot, how many, then from and to. -/
def moveFacts (s : State) (n : Nat) : List Nat :=
  match (slotOf s n).moves with
  | [] => []
  | ms => n :: ms.length :: ms.flatMap fun m => [m.1, m.2]

/-- The sequences with moves as a section lists them: how many, then each. -/
def moveWords (s : State) (e : Step) : List Nat :=
  ((stepSlots e).filter fun n => !(slotOf s n).moves.isEmpty).length :: (stepSlots e).flatMap (moveFacts s)

/-- The pages that a step's columns of a slot may attend. -/
def stepPages (s : State) (e : Step) (n : Nat) : List Nat :=
  ((slotOf s n).sets.take (ceilDiv (topKey e.cols n) 64)).flatten

/-- What the sections of a step list (R302, R321, R338, R347). -/
def factsOf (s : State) (p : Nat) (e : Step) : List Nat :=
  adapterFacts s p e.ctx e.cols ++ treeWords e ++ moveWords s e ++ (stepSlots e).flatMap (stepPages s e)

/-! ### Page lists (R286, R338, R374) -/

/-- The tile whose section holds the page list of entry `i` of a die's list: its first recipient, or the tile that took the unit it
serves (R286, R466). -/
def listTile (g : Prog) (d i : Nat) (f : FeedEntry) : Option Nat := f.rcp.head?.map fun r => d * 64 + (newHome g d r i).getD r

/-- The keys of a sequence of `keys` that the stream of entry `i` at tile index `r` of die `d` takes for a KV head: the share of the
KIND 1 unit the entry serves among those whose GROUP is the head; the whole sequence where no such unit names it. -/
def streamKeys (s : State) (g : Prog) (d r i head keys : Nat) : Nat × Nat :=
  let us := (keyUnits s g).filter fun u => u.2.group == head
  let mine := (us.zipIdx).filter fun u => u.1.1 == d && u.1.2.home == r && decide (u.1.2.feed ≤ i)
  match mine.foldl (fun (a : Option ((Nat × DivEntry) × Nat)) u => match a with
      | none => some u
      | some b => if b.1.2.feed ≤ u.1.2.feed then some u else some b) none with
  | some u => keyRange (us.map fun k => k.2.turns) keys u.2
  | none => (0, keys)

/-- The pages of one sequence that a stream reads, as (block address of the head's slice, NTOK - 1) (R286, R338). -/
def slicePages (s : State) (p n layer head : Nat) (r : Nat × Nat) : List Nat :=
  let x := slotOf s n
  let hw := ((slotBundle s x).map fun b => b.img.params.hw).getD 0
  let pls := placesOf s p x.pver
  match pls.findIdx? fun pl => pl.layer == layer && decide (pl.kvHead ≤ head) && decide (head < pl.kvHead + slotHeads s n) with
  | none => []
  | some j =>
    (List.range (pagesIn r)).flatMap fun k =>
      let i := r.1 / 64 + k
      let key := (x.sets.getD i []).getD j noPage
      let kv := ((pls[j]?).map Place.kvHead).getD 0
      [(blockOf (pageAddr s p key) + (head - kv) * (hw / 16)) % 2 ^ 30, min 64 (r.2 - 64 * i) - 1]

/-- The words of the page list of a PAGES entry (R286): the page count, then two words for each page of the step's sequences in
composition order. -/
def pageListWords (s : State) (p : Nat) (g : Prog) (e : Step) (l : PageList) (f : FeedEntry) : List Nat :=
  let d := l.list / 128
  let r := f.rcp.headD 0
  let ws := (stepSlots e).flatMap fun n => slicePages s p n l.layer l.kvHead (streamKeys s g d r l.entry l.kvHead (topKey e.cols n))
  ws.length / 2 :: ws

/-- The page lists in the section of tile `t`, each with its word offset SECW (R286). -/
def pageListsAt (s : State) (p : Nat) (g : Prog) (e : Step) (t : Nat) : List (Nat × List Nat) :=
  g.img.pageLists.filterMap fun l =>
    match (((g.img.feeds.find? fun f => f.1 == l.list).map fun f => feedList f.2).getD [])[l.entry]? with
    | none => none
    | some f => match f.kind with
      | .pages w .. => if listTile g (l.list / 128) l.entry f = some t then some (w, pageListWords s p g e l f) else none
      | _ => none

/-- Every list that the sorting office writes into the section of tile `t`, each with its word offset (R286, R302, R321, R347). -/
def sectionLists (s : State) (p : Nat) (g : Prog) (e : Step) (t : Nat) : List (Nat × List Nat) :=
  let at' (l : List (Nat × Nat)) (ws : List Nat) : List (Nat × List Nat) := (l.filter fun x => x.1 == t).map fun x => (x.2, ws)
  pageListsAt s p g e t ++ at' g.img.adapterAt (adapterFacts s p e.ctx e.cols) ++ at' g.img.treesAt (treeWords e) ++
    at' g.img.movesAt (moveWords s e)

/-- A tile's section (R224, R240), at most 4,096 words: the lists the sorting office writes, the selection counts where the image
wants them, and the words the step program needs besides. -/
def sectionWords (s : State) (p : Nat) (g : Option Prog) (e : Step) (t : Nat) : List Word :=
  let ls := (g.map fun h => sectionLists s p h e t).getD []
  let len := ls.foldl (fun n l => max n (l.1 + l.2.length)) (Sys2Proof.Config.sectionLen e.version e.num t % 4097)
  (List.range (min 4096 len)).map fun i =>
    match g.bind fun h => (h.img.nsel.find? fun n => n.1 == i).map fun n => nselOf (bandParams s h n.2.1) n.2.2 with
    | some n => BitVec.ofNat 32 (n - 1)
    | none => match ls.findSome? fun l => if l.1 ≤ i then l.2[i - l.1]? else none with
      | some v => BitVec.ofNat 32 v
      | none => Sys2Proof.Config.sectionWord e.version e.num t e.facts i

/-- SET_MASK: bit i of mask k selects column 64 k + i (Table 9-18). -/
def setMasks (n : Nat) : List Byte := (List.range 8).flatMap fun k => leBytes 8 (2 ^ min 64 (n - 64 * k) - 1)

/-- Bytes filled with zeros to whole lines. -/
def toLines (bs : List Byte) : List Byte := bs ++ List.replicate (ceilDiv bs.length 64 * 64 - bs.length) 0

/-- A step's parameter block (Tables 9-18 and 9-19): header, column table, tile directory, sections in ascending tile ID. -/
def paramBlock (s : State) (p : Nat) (e : Step) : List Byte :=
  let g := progOf s p e.version
  let ts := (diesOf (partOf s p)).flatMap fun d => (List.range 64).map (d * 64 + ·)
  let n := e.cols.length
  let dir := 256 + 64 * n
  let secs := ts.map (sectionWords s p g e)
  let first := (dir + 8 * ts.length) / 64
  let entries := (secs.foldl (fun (a : List Byte × Nat) w =>
    (a.1 ++ leBytes 4 a.2 ++ leBytes 2 w.length ++ leBytes 2 0, a.2 + ceilDiv w.length 16)) ([], first)).1
  let head := leBytes 8 e.num ++ leBytes 4 e.version ++ leBytes 2 n ++ leBytes 1 (ceilDiv n 64) ++ leBytes 1 (bit e.rerun) ++
    setMasks n ++ leBytes 4 256 ++ leBytes 4 dir ++ leBytes 2 ts.length ++ leBytes 158 0
  withCheck head ++ leBytes 4 0 ++ e.cols.flatMap (columnBytes s) ++ entries ++ secs.flatMap fun w => toLines (wordsLe w)

/-- The line a step's block begins at: in the partition's lowest-numbered class A region (R240). -/
def blockLine (s : State) (p num bytes : Nat) : Nat :=
  match (validRegions s).find? fun n => (regionOf s n).cls == .a && (regionOf s n).owner == p with
  | none => 0
  | some n =>
    let r := regionOf s n
    r.base * 2 ^ 24 + Sys2Proof.Config.blockPlace p num % (r.size * 2 ^ 24 - ceilDiv bytes 64)

/-- Write a step's parameter block and note where it lies (R240). -/
def writeParams (s : State) (p : Nat) (e0 : Step) : State × Step :=
  let e := { e0 with facts := factsOf s p e0 }
  let bs := paramBlock s p e
  let l := blockLine s p e.num bs.length
  (memWrite s (l * 64) bs, { e with block := l })

/-- Write the block of the composed step again where its columns or what its sections list became known only at a boundary
(R329, R347); its tiles prefetch it again. DEDUCED (log 59). -/
def rewriteParams (s : State) (p : Nat) (old : Step) : State :=
  match (partOf s p).composed with
  | none => s
  | some e =>
    if e.cols == old.cols && factsOf s p e == old.facts then s
    else
      let (s1, e1) := writeParams s p e
      (tilesOf s1 p).foldl (fun s t => modTile s t fun x => { x with secNext := none })
        (modPart s1 p fun q => { q with composed := some e1 })

/-- Whether a partition may start a step now. -/
def mayStart (s : State) (p : Nat) : Bool :=
  let q := partOf s p
  q.valid && q.exec.isNone && q.stopWhy.isEmpty && q.gap.isNone && q.switchSt == .idle && s.pwr.sleep == .awake && s.boot.st == .run

/-- Whether a context has work: a step to go on with, or an eligible column (R364). -/
def ctxReady (s : State) (p c : Nat) : Bool :=
  (ctxOf (partOf s p) c).st != .empty && ((ctxOf (partOf s p) c).held.isSome || (slotsOf s p).any fun n =>
    ((progOf s p (slotOf s n).pver).map fun g => !g.cannotRun).getD false && mayComposeIn s p c (slotOf s n).pver n)

/-- The next context with work in ascending order from the running one, wrapping around (R364). -/
def nextCtx (s : State) (p : Nat) : Option Nat :=
  ((List.range 31).map fun i => ((partOf s p).running + 1 + i) % 32).find? (ctxReady s p)

/-- Whether a switch is to begin at the next switch point. -/
def switchNow (s : State) (p : Nat) : Bool := (partOf s p).switchDue && (nextCtx s p).isSome

/-- Start the step that waits, a re-run before a composed one (R315). -/
def startNext (s : State) (p : Nat) : State :=
  let q := partOf s p
  if !mayStart s p || switchNow s p then s
  else match q.rerunStep, q.composed with
    | some e, _ =>
      let (s1, e1) := writeParams (modPart s p fun q => { q with rerunStep := none }) p e
      startStep s1 p e1
    | none, some e => startStep (modPart s p fun q => { q with composed := none }) p e
    | none, none => s

/-- Whether nothing is composed for a partition now (R22, R242, R310, R311); a tainted step must first reach its boundary
(R469). -/
def composeHeld (s : State) (p : Nat) : Bool :=
  let q := partOf s p
  !q.valid || q.composed.isSome || q.rerunStep.isSome || q.exec.any (·.taint.isSome) || !q.stopWhy.isEmpty || q.gap.isSome ||
    q.switchSt != .idle || s.pwr.sleep != .awake || s.pwr.selfWake || s.boot.st != .run

/-- Set CAND of the pages that a slot's candidate columns write (R344). -/
def setCand (s : State) (p : Nat) (cols : List Column) : State :=
  let ks := (cols.filter fun c => c.kind == .cand).flatMap fun c => (slotOf s c.slot).sets.getD (c.keyPos / 64) []
  modPart s p fun q => ks.eraseDups.foldl (fun q k => modPage q k fun g => { g with cand := true }) q

/-- The record of BE columns deferred for pages: one for each step number (R350, R358). -/
def noteDefer (s : State) (p : Nat) (c : Comp) : State :=
  let q := partOf s p
  if c.short && q.deferAt != q.stepNext then
    pushErr (modPart s p fun q => { q with deferAt := q.stepNext }) .kvDefer { part := p, step := q.stepNext }
  else s

/-- Take a composition into the partition: the step's number, its record's first counts, what it defers (R311, R312, R376). -/
def takeComposed (p v : Nat) (c : Comp) : State :=
  let q := partOf c.s p
  let cnt := { Counters.zero with adapterDefer := satAdd 16 0 c.late, prefixBlocks := c.blocks, prefixSkip := satAdd 16 0 c.skips }
  let bundle := (progOf c.s p v).map Prog.bundle
  let e : Step := { num := q.stepNext, ctx := q.running, version := v, bundle := bundle.getD 0, cols := c.cols,
                    rerun := false, tStart := 0, suspended := q.suspended, event := if q.suspended then q.event else 0,
                    cnt := cnt, emissions := [], ended := [], why := none, taint := none, sLim := partSLim c.s p, trees := c.trees,
                    reports := [], block := 0, facts := [] }
  let (s0, e) := writeParams (setCand (noteDefer c.s p c) p c.cols) p e
  modPart s0 p fun q =>
    { q with stepNext := q.stepNext + 1, composed := some e, lastVer := v, beTrim := satAdd 16 q.beTrim c.trim }

/-- Compose a step of the first version in turn that gives a column (R313); with none, or while an LC column waits for pages, the
state with the victims and evictions that were chosen. -/
def composeFirst (s : State) (p : Nat) : List Nat → State
  | [] => s
  | v :: r =>
    let c := compose s p v
    if c.wait then c.s
    else if c.cols.isEmpty then composeFirst (noteDefer c.s p c) p r
    else startNext (takeComposed p v c) p

/-- STEP_COMPOSE (R311, R312): the next step is composed; with no step executing it starts at once. -/
def execStepCompose (p : Fin 8) (s : State) : Res :=
  let s0 := preemptIdle s p
  if composeHeld s p then .next (startNext s0 p) else .next (composeFirst s0 p (versionOrder s0 p))

end Sys2Proof.Machine
end

