-- ==== Sys2Proof/Machine/Moe.lean ====
section
/-! DEFINITION. Mixture-of-experts layers: choices, gates, overflow and the counts of a step record (R304, R305). -/

namespace Sys2Proof.Machine

/-- A choice of a column: its expert, none where it contributes nothing, and its gate. -/
structure ExpertRoute where
  col      : Nat
  expert   : Option Nat
  rerouted : Bool
  gate     : Word

/-- The experts of a column by score, ties to the lower index; the scores of a router are free (notes/assumptions/73.md). -/
def expertRanks (ver num : Nat) (m : MoeRec) (col : Nat) : List (Nat × Word) :=
  topOf m.nexp ((List.range m.nexp).map fun e => (e, Sys2Proof.Config.routerScore ver num m.layer col e))

/-- The gate of the choice of rank `r`: the base-2 softmax over the TOPR chosen scores (R304). -/
def gateOf (ver num : Nat) (m : MoeRec) (col r : Nat) : Word :=
  let ss := (expertRanks ver num m col).take m.topr
  let top := (ss.headD (0, 0)).2
  let ex (i : Nat) : Word := fpExp2 (fpSub ((ss.getD i (0, 0)).2) top) (Sys2Proof.Config.routerBits ver num m.layer col i)
  fpMul (ex r) (fpRcp ((List.range m.topr).foldl (fun a i => fpAdd a (ex i)) 0))

/-- Whether a place of Table 12-5 can run an expert: its tile in service, or its module reachable. -/
def placeRuns (s : State) (k : Nat) : Bool := if k < 1024 then tileInService s k else canReach s (k - 1024)

/-- The columns expert `e` takes: CAP, or 0 where neither its place nor its alternate can run it (R305). -/
def capOf (s : State) (m : MoeRec) (e : Nat) : Nat :=
  match m.place[e]? with
  | some (k, alt) => if placeRuns s k || alt.any (placeRuns s) then m.cap else 0
  | none => 0

/-- How many choices expert `e` has taken. -/
def takenOf (rs : List ExpertRoute) (e : Nat) : Nat := (rs.filter fun r => r.expert == some e).length

/-- The expert an overflowing choice of a column goes to: of ranks TOPR + 1 to RMAX the first that has capacity and that the
column has not chosen (R304). -/
def rerouteTo (s : State) (ver num : Nat) (m : MoeRec) (rs : List ExpertRoute) (col : Nat) : Option Nat :=
  ((((expertRanks ver num m col).take m.rmax).drop m.topr).map Prod.fst).find? fun e =>
    decide (takenOf rs e < capOf s m e) && !rs.any fun r => r.col == col && r.expert == some e

/-- One choice: rank `r` of a column. -/
def routeOne (s : State) (ver num : Nat) (m : MoeRec) (rs : List ExpertRoute) (r col : Nat) : List ExpertRoute :=
  let e := (((expertRanks ver num m col)[r]?).map Prod.fst).getD 0
  let g := gateOf ver num m col r
  if takenOf rs e < capOf s m e then rs ++ [⟨col, some e, false, g⟩]
  else match (if m.policy = 0 then rerouteTo s ver num m rs col else none) with
    | some k => rs ++ [⟨col, some k, true, g⟩]
    | none => rs ++ [⟨col, none, false, g⟩]

/-- The choices of a layer's columns: rank by rank, within a rank in ascending column (R304). -/
def routesOf (s : State) (ver num : Nat) (m : MoeRec) (cols : List Nat) : List ExpertRoute :=
  (List.range m.topr).foldl (fun rs r => cols.foldl (fun rs c => routeOne s ver num m rs r c) rs) []

/-- The choices of a step's columns, over its MoE layers; padding columns choose nothing. -/
def stepRoutes (s : State) (p : Nat) (e : Step) : List ExpertRoute :=
  let cols := ((e.cols.zipIdx).filter fun c => c.1.kind != .pad).map Prod.snd
  (moeRecs s p e.version).flatMap fun m => routesOf s e.version e.num m cols

/-- MOE_ROUTED, MOE_REROUTED and MOE_DROPPED of a step that ran to its boundary (R304). -/
def routeCounts (rs : List ExpertRoute) (c : Counters) : Counters :=
  { c with moeRouted := satAdd 32 c.moeRouted (rs.filter fun r => r.expert.isSome).length,
           moeRerouted := satAdd 32 c.moeRerouted (rs.filter ExpertRoute.rerouted).length,
           moeDropped := satAdd 32 c.moeDropped (rs.filter fun r => r.expert.isNone).length }

/-- The same counts of a step that ended early: how far each layer came is open, so they are free values. -/
def routeSome (s : State) (p ver : Nat) (c : Counters) : State × Counters :=
  if (moeRecs s p ver).isEmpty then (s, c)
  else
    let (k, s1) := drawFree s 3
    let w (i : Nat) : Nat := (Sys2Proof.Config.freeWord (k + i)).toNat
    (s1, { c with moeRouted := w 0, moeRerouted := w 1, moeDropped := w 2 })

end Sys2Proof.Machine
end

