-- ==== Sys2Proof/Machine/Steps.lean ====
section
/-! DEFINITION. Step boundaries, abandonments, outputs, the prefix tree's growth, slots' ends, pre-emption and restore,
context switches and re-admission (R22 to R24, R308, R315 to R335, R344 to R357, R363 to R369, R379). -/

namespace Sys2Proof.Machine

/-! ### Step records (R335) -/

/-- The record of a step as it ends. -/
def stepRecOf (s : State) (e : Step) (abandoned : Bool) (event nemit acc : Nat) (cnt : Counters) : StepRec :=
  let k (f : ColKind → Bool) : Nat := (e.cols.filter fun c => f c.kind).length
  { step := e.num, version := e.version, ncols := e.cols.length, nsets := ceilDiv e.cols.length 64,
    flags := (if e.rerun then 1 else 0) + (if abandoned then 2 else 0) + (if e.suspended then 4 else 0),
    tStart := e.tStart, tEnd := nowNs s, ndecode := k (· == .decode), nprefill := k fun x => x == .prefill || x == .pad,
    nspec := k (· == .cand), nemit := nemit, specAccepted := acc, event := event, cnt := cnt }

/-- Write a step record into the partition's ring of 4,096; while the promise is suspended it says so (R378). -/
def pushStepRec (s : State) (p : Nat) (r0 : StepRec) : State :=
  let q := partOf s p
  let r := if q.suspended then { r0 with flags := r0.flags ||| 4, event := if r0.event = 0 then q.event else r0.event } else r0
  modPart (unlose s (16 + p) (if q.stepRecs.isEmpty then 0 else (q.stepHead + 1) % 4096)) p fun q =>
    let l := q.stepRecs ++ [r]
    { q with stepRecs := l.drop (l.length - 4096), stepLast := r.step,
             stepHead := if q.stepRecs.isEmpty then 0 else (q.stepHead + 1) % 4096 }

/-! ### Outputs of a boundary (R323 to R329) -/

/-- The tokens a slot's columns emit from a column on: (token, from an accepted node), and whether the last was
non-finite (R322 to R324). -/
def walkTree (e : Step) (n : Nat) (t : Option Tree) : Nat → Nat → List (Nat × Bool) × Bool
  | 0, _ => ([], false)
  | f + 1, c =>
    match e.emissions.find? fun m => m.col == c with
    | none => ([], false)
    | some m =>
      match m.accNode with
      | none => if m.nonfinite then ([], true) else ([(m.token, false)], false)
      | some k =>
        let next := (e.cols.zipIdx).find? fun x => x.1.slot == n && x.1.node == some k
        let tok := ((t.bind fun t => t.nodes[k]?).map Node.token).getD 0
        match next with
        | none => ([], false)
        | some x => let r := walkTree e n t f x.2
                    ((tok, true) :: r.1, r.2)

/-- The key positions of the accepted nodes from a column on, in depth order (R324). -/
def walkKeys (e : Step) (n : Nat) : Nat → Nat → List Nat
  | 0, _ => []
  | f + 1, c =>
    match (e.emissions.find? fun m => m.col == c).bind Emission.accNode with
    | none => []
    | some k =>
      match (e.cols.zipIdx).find? fun x => x.1.slot == n && x.1.node == some k with
      | none => []
      | some x => x.1.keyPos :: walkKeys e n f x.2

/-- The moves that compact accepted candidates onto the positions after BASEPOS in depth order (R324, R347). -/
def compactMoves (base : Nat) (keys : List Nat) : List (Nat × Nat) :=
  ((keys.zipIdx).map fun k => (k.1, base + 1 + k.2)).filter fun m => m.1 != m.2

/-- A token record. -/
def tokenRec (s : State) (x : Slot) (n tok pos flags : Nat) (st : Status) : OutRec :=
  { tag := x.tag, time := soTime s x.part, origin := originNum (modNum s) .firmware, status := st, flags := flags, slot := n,
    token := tok, pos := pos }

/-- What a boundary counts. -/
structure Tally where
  s       : State
  nemit   : Nat
  acc     : Nat
  discard : Nat
  stop    : Option Nat

/-- The stop reason of a token just appended, none to go on (R325). -/
def stopOf (s : State) (x : Slot) (tok : Nat) : Option Nat :=
  let lim := ((slotBundle s x).map fun b => b.img.params.ctxLimit).getD 0
  if x.stops.contains tok then some 0
  else if x.nprompt + x.maxNew ≤ x.tokens.length then some 1
  else if lim ≤ x.tokens.length then some 2
  else none

/-- Output one token of a slot (R325 to R329): to the ring or hold, or to the dead-letter queue; an accepted node counts also where
its token comes after a stop (R324). -/
def outToken (n : Nat) (a : Tally) (t : Nat × Bool) : Tally :=
  let x := slotOf a.s n
  let acc := a.acc + (if t.2 then 1 else 0)
  if a.stop.isSome then { a with discard := a.discard + 1, acc := acc }
  else
    let y := { x with tokens := x.tokens ++ [t.1] }
    let pos := x.tokens.length
    let stop := stopOf a.s y t.1
    let fl := (if x.tokens.length ≤ x.nprompt then 1 else 0) + (if stop.isSome then 2 else 0) + (if t.2 then 4 else 0)
    let s1 := setSlot a.s n y
    let s2 := if x.cancel.isSome then toDlq s1 x.part (tokenRec s1 x n t.1 pos fl .cancelled)
      else match frontOf x with
        | some m => if canReach s1 m then tokenOut s1 n (tokenRec s1 x n t.1 pos fl .ok)
            else toDlq s1 x.part (tokenRec s1 x n t.1 pos fl .fenced)
        | none => tokenOut s1 n (tokenRec s1 x n t.1 pos fl .ok)
    { a with s := s2, nemit := a.nemit + 1, acc := acc, stop := stop }

/-! ### Pages at a boundary (R287, R342, R347) -/

/-- KV_CODE of a slot's bundle version. -/
def kvCode (s : State) (x : Slot) : Nat := ((slotBundle s x).map fun b => b.img.kvSlot + 16 * b.img.kvGen).getD 0

/-- One page of slot `n` after a boundary: its NTOK; CAND goes unless the composed step writes a candidate there (`cand`); a full
open page begins its seal, after a tree's step one boundary later (R344, R347). -/
def settlePage (n filled i code : Nat) (tree cand : Bool) (g : Page) : Page :=
  let nt := min 64 (filled - 64 * i)
  if g.writer ≠ some n ∨ g.st != .open_ then { g with cand := cand }
  else if nt < 64 then { g with ntok := nt, cand := cand }
  else if tree then { g with ntok := 64, cand := cand, sealAfter := true }
  else { g with ntok := 64, cand := cand, sealAfter := false, st := .sealing, code := code, writer := none }

/-- A slot's pages after a boundary: NTOK, seals, and pages with no slot left free again, an LC slot's to its
reservation (R347). -/
def settlePages (s : State) (n : Nat) (tree : Bool) : State :=
  let x := slotOf s n
  let q := partOf s x.part
  let next := (q.composed.toList.flatMap Step.cols).filter fun c => c.slot == n && c.kind != .pad
  let keep := max (ceilDiv x.filled 64) ((next.map fun c => c.keyPos / 64 + 1).foldl max 0)
  let cand (i : Nat) : Bool := next.any fun c => c.kind == .cand && c.keyPos / 64 == i
  let code := kvCode s x
  let s1 := modPart s x.part fun q => ((x.sets.take keep).zipIdx).foldl
    (fun q e => (e.1.filter (· != noPage)).foldl (fun q k => modPage q k (settlePage n x.filled e.2 code tree (cand e.2))) q) q
  let gone := x.sets.drop keep
  let s2 := dropPages s1 x.part gone.flatten
  modSlot s2 n fun x => { x with sets := x.sets.take keep, reserved := if isLc x then x.reserved + gone.length else x.reserved }

/-! ### The prefix tree (R317 to R319) -/

/-- Insert the node of a completed block (R319): its pages gain a reference and TREE; a full tree evicts first. -/
def insertNode (s : State) (n i : Nat) : State :=
  let x := slotOf s n
  let p := x.part
  let h := leNat (chainHash x i)
  let q := partOf s p
  let skip (s : State) : State := modPart s p fun q => { q with exec := q.exec.map fun e =>
    { e with cnt := { e.cnt with prefixSkip := satAdd 16 e.cnt.prefixSkip 1 } } }
  if q.treeNodes = 0 || x.noPrefix || q.nodes.any (fun nd => nd.hash == h && nd.ctx == x.ctx) then s
  else
    let ks := x.sets.getD i []
    let full := decide (q.treeNodes ≤ q.nodes.length)
    match (if full then (evictChoice s p fun _ => true).map fun nd => removeNode s p nd else some s) with
    | none => skip s
    | some s1 =>
      if ks.contains noPage || ks.any fun k => decide (65535 ≤ (pageOf (partOf s1 p) k).refs) then skip s1
      else
        let nd : PNode := { hash := h, tokens := (x.tokens.drop (i * 64)).take 64, pages := ks,
                            parent := if i = 0 then none else some (leNat (chainHash x (i - 1))), ctx := x.ctx,
                            matched := nowNs s, remote := none }
        modPart s1 p fun q => ks.foldl (fun q k => modPage q k fun g =>
          { g with refs := g.refs + 1, tree := true, writer := none }) { q with nodes := q.nodes ++ [nd] }

/-! ### Ends of slots at a boundary -/

/-- A slot whose step has ended: cancelled, stopped by the first of its tokens that stops it, then by a non-finite column, or going on
(R325, R329). -/
def endColumns (a : Tally) (n : Nat) (nonfinite : Bool) : Tally :=
  let x := slotOf a.s n
  let s1 := if x.cancel.isSome then closeSlot a.s n 4 .cancelled
    else match a.stop with
      | some k => closeSlot a.s n k .ok
      | none => if nonfinite then closeSlot a.s n 3 .badField else a.s
  { a with s := s1, stop := none }

/-- A decode slot at its boundary: its tokens, its tree's end, its pages. -/
def finishDecode (e : Step) (a : Tally) (n : Nat) : Tally :=
  let tree := (e.trees.find? fun t => t.1 == n).map Prod.snd
  let c := ((e.cols.zipIdx).find? fun x => x.1.slot == n && x.1.kind == .decode).map Prod.snd
  match c with
  | none => a
  | some c =>
    let w := walkTree e n tree 17 c
    let b := w.1.foldl (outToken n) a
    let own := tree.any fun t => ((slotOf b.s n).tree.map fun k => k.tree.basePos == t.basePos && t.nodes.isPrefixOf k.tree.nodes).getD false
    let s1 := if own then endTree b.s n .ok (w.1.filter Prod.snd).length else b.s
    let s2 := modSlot s1 n fun x => { x with
      filled := x.tokens.length - 1, lastCol := nowNs s1,
      moves := (tree.map fun t => compactMoves t.basePos (walkKeys e n 17 c)).getD [] }
    endColumns { b with s := settlePages s2 n tree.isSome } n w.2

/-- A prefill slot at its boundary: its chunk's positions, nodes for its whole blocks, its first token, and DECODE or
HANDOFF where its prompt is through; the handoff waits for its first token's record (R316, R319, R332). -/
def finishPrefill (e : Step) (a : Tally) (n : Nat) : Tally :=
  let x := slotOf a.s n
  let cs := (e.cols.zipIdx).filter fun c => c.1.slot == n && c.1.kind == .prefill
  let now := x.filled + cs.length
  let s1 := modSlot a.s n fun x => { x with filled := now, lastCol := nowNs a.s }
  let s2 := ((List.range (now / 64 - x.filled / 64)).map (· + x.filled / 64)).foldl (fun s i => insertNode s n i) (settlePages s1 n false)
  let w := match cs.find? fun c => c.1.emit with
    | some c => walkTree e n none 17 c.2
    | none => ([], false)
  let b := w.1.foldl (outToken n) { a with s := s2 }
  let y := slotOf b.s n
  let through := decide (goalOf y ≤ y.filled)
  let c := endColumns b n w.2
  if !through || ((slotOf c.s n).st != .prefill && (slotOf c.s n).st != .decode) then c
  else if (partOf c.s y.part).role == .prompt then
    let s3 := modSlot c.s n fun x => { x with st := .handoff }
    { c with s := if (slotOf s3 n).hold.isEmpty then handoffTry s3 n else s3 }
  else { c with s := modSlot c.s n fun x => { x with st := .decode } }

/-- One slot of a step at its boundary; a slot that closed meanwhile sends its tokens to the dead-letter queue (R328). -/
def finishSlot (e : Step) (a : Tally) (n : Nat) : Tally :=
  let x := slotOf a.s n
  match x.st with
  | .decode | .prefill => if chunking x then finishPrefill e a n else finishDecode e a n
  | .closing =>
    let cs := (e.cols.zipIdx).filter fun c => c.1.slot == n && c.1.emit && c.1.kind != .cand
    let ws := cs.flatMap fun c => (walkTree e n ((e.trees.find? fun t => t.1 == n).map Prod.snd) 17 c.2).1
    { a with s := (ws.zipIdx).foldl (fun s w => toDlq s x.part (tokenRec s x n w.1.1 (x.tokens.length + w.2) 0 x.endSt)) a.s }
  | _ => a

/-- Pages whose seal waited for the compacting step begin it as that step ends: one that read their sequence (R347). -/
def sealWaiting (s : State) (p : Nat) (ns : List Nat) : State :=
  modPart s p fun q => { q with pages := q.pages.map fun e =>
    if e.2.sealAfter && (e.2.writer.map ns.contains).getD true then
      let code := match e.2.writer with
        | some n => kvCode s (slotOf s n)
        | none => e.2.code
      (e.1, { e.2 with sealAfter := false, st := if e.2.st == .open_ then .sealing else e.2.st, code := code, writer := none })
    else e }

/-- No page of a slot holds a candidate's entry any more (R344). -/
def uncand (s : State) (p n : Nat) : State :=
  modPart s p fun q => (slotOf s n).sets.flatten.foldl (fun q k => modPage q k fun g => { g with cand := false }) q

/-- The composed step as its slots now stand: columns of slots that ended go, decode columns take the tokens just
emitted, a tree whose BASEPOS moved is stale (R320, R329). -/
def resolveComposed (s : State) (p : Nat) : State :=
  match (partOf s p).composed with
  | none => s
  | some e =>
    let live (c : Column) : Bool := let x := slotOf s c.slot
      ((c.kind == .prefill || c.kind == .pad) && chunking x) ||
        ((c.kind == .decode || c.kind == .cand) && x.st == .decode && !chunking x)
    let stale := (e.trees.filter fun t => t.2.basePos != (slotOf s t.1).tokens.length - 1).map Prod.fst
    let s1 := stale.foldl (fun s n => uncand (staleTree s n) p n) s
    let cols := (e.cols.filter fun c => live c && !(c.kind == .cand && stale.contains c.slot)).map fun c =>
      if c.kind == .decode then decodeCol (slotOf s c.slot) c.slot else c
    let kept : Step := { e with cols := cols, trees := e.trees.filter fun t => !stale.contains t.1 }
    let c := if cols.isEmpty then none else some kept
    rewriteParams (modPart s1 p fun q => { q with composed := c }) p e

/-- The records of a tainted step's emissions (R469): each to the dead-letter queue with TAINTED. -/
def taintedOut (s : State) (p : Nat) (e : Step) : State :=
  (stepSlots e).mergeSort (fun a b => decide (a ≤ b)) |>.foldl (fun s n =>
    let x := slotOf s n
    let cs := (e.cols.zipIdx).filter fun c => c.1.slot == n && c.1.emit && c.1.kind != .cand
    let ws := cs.flatMap fun c => (walkTree e n ((e.trees.find? fun t => t.1 == n).map Prod.snd) 17 c.2).1
    (ws.zipIdx).foldl (fun s w => toDlq s p (tokenRec s x n w.1.1 (x.tokens.length + w.2) 0 .tainted)) s) s

/-- Whether every tile in service of a partition has sent its end notice for a step (R22, R234). -/
def allEnded (s : State) (p : Nat) (e : Step) : Bool := (tilesOf s p).all fun t => e.ended.contains t

/-- A partition's tiles at a step boundary: the buffers, rows and windows of the step cleared (R78, R89, R131, R205). -/
def endTiles (s : State) (p : Nat) : State :=
  (tilesOf s p).foldl (fun s t => modTile s t fun x =>
    { clearStep x with st := if x.st == .fieldTest then x.st else .idle, hold := 0, held := none }) s

/-- A step as it runs again: same columns and number, RERUN set (R315). -/
def runAgain (e : Step) : Step :=
  { e with rerun := true, why := none, taint := none, emissions := [], ended := [], reports := [] }

/-- The changes staged for a partition's next step apply as the running one ends (R23). -/
def stagedNow (s : State) (p : Nat) : State :=
  let q := partOf s p
  applyStaged s p (((q.rerunStep.or q.composed).map Step.num).getD q.stepNext)

/-- The end of a tainted step (R469): its emissions go to the dead-letter queue, it runs again. -/
def taintedEnd (s : State) (p : Nat) (e : Step) (ev : Nat) : State :=
  let s1 := taintedOut (endTiles s p) p e
  let s2 := pushStepRec s1 p (stepRecOf s1 e true ev 0 0 (routeCounts (stepRoutes s p e) e.cnt))
  stagedNow (modPart s2 p fun q => { q with exec := none, composed := none, barPoint := none, rerunStep := some (runAgain e) }) p

/-- A step that ends clean leaves no class A failure that its re-run could repeat (R256). -/
def forgetRepeat (s : State) (p : Nat) (e : Step) : State :=
  { s with mem := { s.mem with aRepeat := s.mem.aRepeat.filter fun r => !(r.1 == p && r.2.1 == e.num) } }

/-- The end of a step (R22, R23, R326): outputs in slot order, the record, the composed step resolved, staged changes. -/
def cleanEnd (s : State) (p : Nat) (e : Step) : State :=
  let t0 : Tally := ⟨sealWaiting (endTiles s p) p (stepSlots e), 0, 0, 0, none⟩
  let t := ((stepSlots e).mergeSort fun a b => decide (a ≤ b)).foldl (finishSlot e) t0
  let cnt := routeCounts (stepRoutes s p e) (((partOf t.s p).exec.map Step.cnt).getD e.cnt)
  let s1 := pushStepRec t.s p (stepRecOf t.s e false e.event t.nemit t.acc { cnt with specDiscard := satAdd 16 cnt.specDiscard t.discard })
  let s2 := resolveComposed (modPart s1 p fun q => { q with exec := none, barPoint := none }) p
  let s3 := preemptDoomed (forgetRepeat s2 p e) p
  stagedNow (refreshAdm s3 p) p

/-- STEP_BOUNDARY (R22, R326): every tile's end notice is in; the step's outputs are written in slot order, its record
accepted, staged changes applied, and the next step starts. -/
def execStepBoundary (p : Fin 8) (s : State) : Res :=
  match (partOf s p).exec with
  | none => .next s
  | some e =>
    if !allEnded s p e || e.why.isSome then .next s
    else match e.taint with
      | some ev => .next (startNext (taintedEnd s p e ev) p)
      | none => .next (startNext (cleanEnd s p e) p)

/-! ### Abandonment (R24, R106, R235, R236, R315) -/

/-- Whether a tile has reported ABANDONED, or had already ended its program (R235). -/
def tileOut (s : State) (e : Step) (t : Nat) : Bool :=
  let x := tileOf s t
  !x.abandonOn && x.inflight.isEmpty &&
    ((x.st == .abandoning && e.reports.any fun r => r.1 == t) || x.st == .idle || x.st == .fieldTest)

/-- Lanes of a partition drop what they hold. -/
def clearLanes (s : State) (p : Nat) : State :=
  let q := partOf s p
  { s with exps := { lanes := s.exps.lanes.filter fun e => !partLane q e.1,
                     lists := s.exps.lists.filter fun l => !q.dies.testBit l.die } }

/-- Pre-empt the slots of a step (R256, R241). -/
def preemptSlots (s : State) (p : Nat) (ns : List Nat) : State := preemptDoomed (ns.foldl doom s) p

/-- The requests an abandonment ends: those with a column it names, or every one with a column (R256). -/
def endedBy (e : Step) (a : Abandon) : List Nat :=
  match a.only with
  | none => stepSlots e
  | some cols => (stepSlots e).filter fun n => cols.any fun i => (e.cols[i]?).any fun c => c.slot == n

/-- What follows a step that was abandoned: run again once, recomposed with a new number, or its requests ended. -/
def afterAbandon (s : State) (p : Nat) (e : Step) (a : Abandon) : State :=
  let ns := endedBy e a
  let finish (st : Status) : State := if st == .ok then s else if st == .preempted then preemptSlots s p ns else closeSlots s ns st
  if a.replaced then s
  else if a.rerun then
    if e.rerun && !a.always then finish (a.again.getD .ok)
    else modPart s p fun q => { q with rerunStep := some (runAgain e) }
  else finish a.status

/-- The report of R24 to every request with a column in the step, where the abandonment has one at once or its re-run failed
without another status: NOTICE_SUSPENDED with its event codes. A declared event's notice takes its place for LC requests
(R380). -/
def reportAbandon (s : State) (e : Step) (a : Abandon) : State :=
  if a.tell || (a.rerun && e.rerun && a.again.isNone && !a.always) then
    ((stepSlots e).filter fun n => (slotOf s n).st != .closing && !(a.event != 0 && isLc (slotOf s n))).foldl (fun s n =>
      postNotice s n 4 .ok (noticeDetail a.event (if a.latest = 0 then a.event else a.latest) 0 0)) s
  else s

/-- The error record of a step abandoned for an event (R24, R236): its number and both codes. -/
def recordAbandon (s : State) (p : Nat) (e : Step) (a : Abandon) : State :=
  if a.event = 0 then s
  else pushErr s .unitFence { part := p, step := e.num, event := a.event, detail := [a.event, if a.latest = 0 then a.event else a.latest] }

/-- Cancelled slots of a step that does not run again close here, since no boundary of theirs comes (R329). -/
def endCancelled (s : State) (p : Nat) (e : Step) : State :=
  if (partOf s p).rerunStep.isSome then s
  else ((stepSlots e).filter fun n => (slotOf s n).cancel.isSome).foldl (fun s n => closeSlot s n 4 .cancelled) s

/-- The end of an abandonment (R235): the records, the tiles idle, the step gone, staged changes applied, the requests told,
and what follows its cause. -/
def abandonEnd (s : State) (p : Nat) (e : Step) (a : Abandon) : State :=
  let (s0, cnt) := routeSome s p e.version e.cnt
  let s1 := recordAbandon (pushStepRec s0 p (stepRecOf s0 e true a.event 0 0 cnt)) p e a
  let s2 := endTiles (clearLanes s1 p) p
  let s3 := modPart s2 p fun q => { q with exec := none, composed := none, barPoint := none }
  preemptDoomed (stagedNow (endCancelled (afterAbandon (reportAbandon s3 e a) p e a) p e) p) p

/-- STEP_ABANDON_COMPLETE (R235): every tile reports ABANDONED; the record, then the re-run or the recomposition. -/
def execStepAbandonComplete (p : Fin 8) (s : State) : Res :=
  match (partOf s p).exec with
  | none => .next s
  | some e =>
    match e.why with
    | none => .next s
    | some a =>
      if !(tilesOf s p).all (tileOut s e) then .next s
      else .next (startNext (abandonEnd s p e a) p)

/-! ### Slots (R308, R332, R352 to R355) -/

/-- SLOT_RELEASE (R308, R348): a CLOSING slot whose FINAL is written is FREE; its versions may go (R295). -/
def execSlotRelease (slot : Fin 65536) (s : State) : Res :=
  let n := slot.val
  let x := slotOf s n
  if x.st != .closing || !x.finDone || x.heldFin.isSome || x.heldAdm.isSome || x.heldNote.isSome || !x.hold.isEmpty then .next s
  else
    let s1 := setSlot s n { Slot.init with admits := x.admits }
    .next (refreshAdm (refreshSwap (freeVersions s1 x.part) x.part) x.part)

/-- HANDOFF_RETRY_TIMER (R332). -/
def execHandoffRetryTimer (slot : Fin 65536) (s : State) : Res :=
  let x := slotOf s slot
  match x.retryAt with
  | some t => if x.st == .handoff && decide (t ≤ nowNs s) then .next (handoffTry (modSlot s slot fun x => { x with retryAt := none, tried := [] }) slot)
      else .next s
  | none => .next s

/-- The place of a page in a slot's sets: (set, place in the set). -/
def placeIn (x : Slot) (k : Nat) : Option (Nat × Nat) :=
  (x.sets.zipIdx).findSome? fun e => (e.1.zipIdx).findSome? fun f => if f.1 = k then some (e.2, f.2) else none

/-- The swap record of a page (R352). -/
def swapRecOf (s : State) (p n k : Nat) (at' : Nat × Nat) : SwapRec :=
  ⟨n, at'.1, at'.2, pageOf (partOf s p) k, swapBytes s p (slotHeads s n) k, sealDie s p (k / 2 ^ 32)⟩

/-- The 16 bytes of a page descriptor (Table 14-2). -/
def pageBytes (g : Page) : List Byte :=
  let st := match g.st with
    | .free => 0 | .open_ => 1 | .sealing => 2 | .sealed => 3
  let fl := (if g.poisoned then 1 else 0) + (if g.tree then 2 else 0) + (if g.cand then 4 else 0)
  leBytes 1 st ++ leBytes 1 g.ntok ++ leBytes 2 g.refs ++ leBytes 1 g.code ++ leBytes 1 fl ++ leBytes 2 g.layer ++
    leBytes 2 g.kvHead ++ leBytes 2 0 ++ leBytes 4 (g.writer.getD 0xFFFFFFFF)

/-- A page descriptor read back from its 16 bytes. -/
def pageFrom (b : List Byte) : Page :=
  let n (o w : Nat) : Nat := leNat ((b.drop o).take w)
  let st := match n 0 1 with
    | 1 => PageSt.open_ | 2 => .sealing | 3 => .sealed | _ => .free
  { Page.init with st := st, ntok := n 1 1, refs := n 2 2, code := n 4 1, poisoned := (n 5 1).testBit 0, tree := (n 5 1).testBit 1,
                   cand := (n 5 1).testBit 2, layer := n 6 2, kvHead := n 8 2,
                   writer := if n 12 4 = 0xFFFFFFFF then none else some (n 12 4) }

/-- The bytes of a page's swap record as written to the host (R352): descriptor, metadata, the blocks of a SEALED page in stored
form or of an OPEN one raw, and the CRC. -/
def swapRecBytes (s : State) (p h k : Nat) : List Byte :=
  let g := pageOf (partOf s p) k
  let b0 := blockOf (pageAddr s p k)
  let block (i : Nat) : List Byte :=
    let l := lenOf s (b0 + i)
    if g.st == .sealed then leBytes 1 l ++ memRead s ((b0 + i) * 2048) (if l = 0xFF then 2048 else (l + 1) * 8)
    else memRead s ((b0 + i) * 2048) 2048
  let all := pageBytes g ++ memRead s (metaAddr s p k) (h * 2048) ++ (List.range ((partOf s p).poolPage * 2)).flatMap block
  all ++ leBytes 4 (crc32 all).toNat

/-- Whether a swap record read back passes its CRC (R354). -/
def swapStands (bs : List Byte) : Bool :=
  let n := bs.length - 4
  decide (20 ≤ bs.length) && leNat (bs.drop n) == (crc32 (bs.take n)).toNat

/-- Put a swap record's metadata and blocks into a page (R354). -/
def putSwap (s : State) (p h k : Nat) (bs : List Byte) : State :=
  let b0 := blockOf (pageAddr s p k)
  let m := (partOf s p).poolPage * 2
  let body := (bs.take (bs.length - 4)).drop (16 + h * 2048)
  let blocks := if (pageFrom (bs.take 16)).st == .sealed then storedBlocks m body
    else (List.range m).map fun i => (0xFF, (body.drop (2048 * i)).take 2048)
  let s1 := (blocks.zipIdx).foldl (fun s b => setLen (memPutRun s ((b0 + b.2) * 2048) b.1.2) (b0 + b.2) b.1.1) s
  memPutRun s1 (metaAddr s1 p k) ((bs.drop 16).take (h * 2048))

/-- SWAP_RECORD_WRITTEN (R352): a private page's record is in the swap area and the page is FREE; a SEALING page waits
for its seal, one that a prefix match shared meanwhile is not swapped (R357), and while Bus Master Enable is clear nothing is
written (R399). Where in the area it lies is free. -/
def execSwapRecordWritten (p : Fin 8) (page : Nat) (s : State) : Res :=
  match (slotsOf s p).find? fun n => (slotOf s n).swapped.contains page with
  | none => .next s
  | some n =>
    let x := slotOf s n
    match placeIn x page, (partOf s p).swapArea with
    | some at', some area =>
      if isShared (pageOf (partOf s p) page) then
        .next (refreshSwap (modSlot s n fun x => { x with swapped := x.swapped.erase page }) p)
      else if (pageOf (partOf s p) page).st == .sealing || !(fnOf s (driverOf s p)).bme then .next s
      else
        let r := swapRecOf s p n page at'
        let (k, s0) := drawFree s 1
        let bs := swapRecBytes s p (slotHeads s n) page
        let off := Sys2Proof.Config.freePick k % (area.2 - bs.length + 1)
        let s1 := emit s0 (.hostWrite (driverOf s p) (area.1 + off) bs)
        let s2 := modPart s1 p fun q => dropRef { q with swaps := q.swaps ++ [r] } page
        let s3 := modSlot s2 n fun x =>
          { x with swapped := x.swapped.erase page, sets := x.sets.map fun ps => ps.map fun k => if k = page then noPage else k }
        .next (refreshSwap s3 p)
    | _, _ => .next s

/-- Post a slot's return: journal STATE, then its completion with OK (Table 17-6). -/
def postState (s : State) (n : Nat) : State :=
  let x := slotOf s n
  let d := x.st.code + x.delivered * 2 ^ 32
  let s1 := journal s (slotSrc x n) 5 .ok d
  postSlotCpl s1 n (slotCpl s1 (slotOf s1 n) n 5 .ok d true)

/-- The order of readmission: LC first, then the oldest pre-emption, then the lower slot (R354). -/
def readmitQueue (s : State) (p : Nat) : List Nat :=
  ((slotsOf s p).filter fun n => (slotOf s n).st == .preempted && (slotOf s n).toRestore.isEmpty).mergeSort fun a b =>
    let x := slotOf s a
    let y := slotOf s b
    if isLc x ≠ isLc y then isLc x else if x.preAt = y.preAt then decide (a ≤ b) else decide (x.preAt < y.preAt)

/-- The swap records of a slot. -/
def swapsOf (s : State) (n : Nat) : List SwapRec := (partOf s (slotOf s n).part).swaps.filter fun r => r.slot == n

/-- The leading sets of a slot that are whole. -/
def wholeSets (s : State) (x : Slot) : Nat :=
  let k := (placesOf s x.part x.pver).length
  (x.sets.takeWhile fun ps => decide (k ≤ ps.length) && !ps.contains noPage).length

/-- The sets a recompute slot keeps: the whole ones of its history (R353). -/
def keptSets (s : State) (x : Slot) : Nat := min (wholeSets s x) (goalOf x / 64)

/-- Pages a readmission needs of a POOL: the slot's private ones, swapped or to be computed again, and one more set (R353, R354). -/
def readmitNeed (s : State) (n pool : Nat) : Nat :=
  let x := slotOf s n
  let pls := placesOf s x.part x.pver
  let back := (swapsOf s n).filter fun r => poolFor s x.part (placeDie (pls.getD r.place ⟨0, 0, []⟩) r.idx) == some pool
  let k := if x.recompute then keptSets s x else x.sets.length
  let upto := if x.recompute then max k (ceilDiv x.tokens.length 64) else k
  back.length + needOf s x.part pls ((List.range (upto + 1 - k)).map (· + k)) pool

/-- A recompute slot returns to the state it left: it keeps its whole shared sets and prefills the rest of its history, an LC slot
from its reservation (R308, R349, R353). -/
def returnRecompute (s : State) (n : Nat) : State :=
  let x := slotOf s n
  let k := keptSets s x
  let s1 := dropPages s x.part (x.sets.drop k).flatten
  postState (modSlot s1 n fun x => { x with
    sets := x.sets.take k, filled := k * 64, st := x.back, recompute := false, reserved := if isLc x then setsOf x - k else 0 }) n

/-- What an LC slot's readmission asks of admission (R354): the tests of R374 among the other live LC requests, and its reservation
as a new request's (R349). -/
def readmitLc (s : State) (n : Nat) : Bool :=
  let x := slotOf s n
  let t := modSlot s n fun x => { x with reserved := 0 }
  let others := ((lcSlots s x.part).filter (· != n)).map (slotOf s) ++ (promisedTo s x.part).map Prod.snd
  (testLc s x.part others x (displaceNs t x.part (shortIn t x.part x.pver (List.range (setsOf x))))).test == 0 &&
    canReserve t x.part x.pver (List.range (setsOf x))

/-- Displace BE sequences for an LC slot's readmission (R349, R354). -/
def readmitRoom (s : State) (n : Nat) : State :=
  let x := slotOf s n
  let t := modSlot s n fun x => { x with reserved := 0 }
  let u := displace s x.part (shortIn t x.part x.pver (List.range (setsOf x)))
  preemptIdle u x.part

/-- READMIT (R354): the oldest pre-empted slot whose pages every die can supply; an LC slot re-runs admission, which displaces BE
sequences for it. -/
def execReadmit (slot : Fin 65536) (s : State) : Res :=
  let n := slot.val
  let x := slotOf s n
  let p := x.part
  let first := (readmitQueue s p).head? == some n
  let room (s : State) : Bool :=
    (poolsOf s p).all fun k => decide (readmitNeed s n k + (if isLc x then 0 else poolReserved s p k) ≤ poolFree s p k)
  let lcOk := !isLc x || readmitLc s n
  if x.st != .preempted || !first || !lcOk || !x.swapped.isEmpty then .next s
  else
    let s0 := if isLc x then readmitRoom s n else s
    if !room s0 then .next s0
    else if x.recompute then .next (returnRecompute s0 n)
    else match swapsOf s0 n with
      | [] => .next (postState (modSlot s0 n fun x => { x with st := x.back }) n)
      | rs =>
        if !(fnOf s0 (driverOf s0 p)).bme then .next s0 else
        let s1 := rs.foldl (fun s r => emit s (.hostRead (driverOf s p) (((partOf s p).swapArea.map Prod.fst).getD 0) r.bytes)) s0
        .next (modSlot s1 n fun x => { x with toRestore := rs.map fun r => r.idx })

/-- Make a slot whose restore failed a recompute slot (R355); the record names the slot and the page: its set and its place in
the set. -/
def restoreFails (s : State) (n : Nat) : State :=
  let x := slotOf s n
  let at' := ((swapsOf s n).head?.map fun r => [r.idx, r.place]).getD []
  let s1 := pushErr s .kvSwap { part := x.part, detail := n :: at' }
  let ks := privatePages s1 n
  let s2 := modPart s1 x.part fun q => ks.foldl dropRef { q with swaps := q.swaps.filter fun r => r.slot != n }
  refreshSwap (modSlot s2 n fun x => { x with sets := dropKeys x.sets (noPage :: ks), toRestore := [], recompute := true, filled := 0 }) x.part

/-- RESTORE_PAGE (R354, R355): one swap record read back, or a read that failed (R399); its CRC is checked and a new
page takes it. -/
def execRestorePage (slot : Fin 65536) (data : DmaFail ⊕ List Byte) (s : State) : Res :=
  let n := slot.val
  let x := slotOf s n
  match x.toRestore, swapsOf s n with
  | _ :: rest, r :: _ =>
    if x.st != .preempted then .next s
    else match data with
      | .inl d => .next (restoreFails (dmaFailed s (driverOf s x.part) x.part d) n)
      | .inr bs =>
        if !swapStands bs then .next (restoreFails s n)
        else
          let pl := (placesOf s x.part x.pver).getD r.place ⟨0, 0, []⟩
          match (poolFor s x.part (placeDie pl r.idx)).bind fun k => allocPage s x.part k pl.layer pl.kvHead n with
          | none => .next s
          | some (s1, k) =>
            let g := pageFrom (bs.take 16)
            let s4 := modPart (putSwap s1 x.part (slotHeads s n) k bs) x.part fun q =>
              modPage { q with swaps := q.swaps.erase r } k fun _ =>
                { g with refs := 1, raw := r.page.raw, sealAfter := r.page.sealAfter, writer := if g.st == .open_ then some n else none }
            let put (ps : List Nat) : List Nat := ps.take r.place ++ k :: ps.drop (r.place + 1)
            let s5 := modSlot s4 n fun x => { x with
              toRestore := rest, sets := x.sets.take r.idx ++ (put (x.sets.getD r.idx [])) :: x.sets.drop (r.idx + 1) }
            let s6 := refreshSwap s5 x.part
            .next (if rest.isEmpty then postState (modSlot s6 n fun x => { x with st := x.back }) n else s6)
  | _, _ => .next s

/-! ### Contexts (R363 to R369) -/

/-- SLICE_EXPIRY (R364): the running context's slice ends; with one context there is no switch. -/
def execSliceExpiry (p : Fin 8) (s : State) : Res :=
  let q := partOf s p
  if !q.valid || q.switchSt != .idle || decide ((ctxsOf q).length ≤ 1) then .next s
  else .next (modPart s p fun q => { q with switchDue := true })

/-- Whether the running context yields: no eligible column and nothing under way (R364). -/
def ctxYields (s : State) (p : Nat) : Bool :=
  let q := partOf s p
  q.exec.isNone && q.composed.isNone && q.rerunStep.isNone && (openVersions s p).isEmpty

/-- CONTEXT_SWITCH (R365, R366): at a switch point, a step boundary or a barrier's release since which no tile has issued, the
partition's tiles are told to stop. -/
def execContextSwitch (p : Fin 8) (s : State) : Res :=
  let q := partOf s p
  match nextCtx s p with
  | none => .next s
  | some c =>
    let point := q.exec.isNone || q.barPoint == some (issuedIn s p)
    if !q.valid || q.switchSt != .idle || !(q.switchDue || ctxYields s p) || !point || s.pwr.sleep != .awake then .next s
    else
      let leave (q : Part) : Part := modCtx q q.running (fun k => { k with st := .saving })
      .next (modPart s p fun q =>
        { leave q with switchSt := .quiesce, switchDue := false, barPoint := none, incoming := c, composed := none })

/-- Whether a tile has quiesced: of what it issued only TLA instructions that have not started have not retired; no SYNC waits
and no WIN.CLOSE runs (R242). -/
def tileQuiet (x : Tile) : Bool :=
  (x.inflight.all fun i => !i.started && i.op.blk == .tla) && x.waitBlocks.isNone && x.waitBar.isNone &&
    (List.range 8).all fun w => !(winOf x w).retiring

/-- SWITCH_QUIESCE_DONE (R366): every tile has stopped and every block quiesced; the save begins. -/
def execSwitchQuiesceDone (p : Fin 8) (s : State) : Res :=
  let q := partOf s p
  let ok := match q.exec with
    | none => true
    | some e => e.why.isNone && (tilesOf s p).all fun t => ((tileOf s t).stopped || (tileOf s t).ended) && tileQuiet (tileOf s t)
  if q.switchSt != .quiesce || !ok then .next s else .next (modPart s p fun q => { q with switchSt := .save })

/-- What a context keeps of a tile, bit for bit (R108, R160, R214, R242); its cache lines and the next step's section go
(R197), and so does what its feed FIFOs hold (R366). -/
def saveTile (x : Tile) : Tile := { dropCache x with secNext := none, tlaFifo := [], fifoA := [], fifoB := [] }

/-- A tile between the save of one context and the restore of the next. -/
def savedTile (x : Tile) : Tile := { dropCache (clearStep x) with st := .saved, hold := 0, stopped := false, held := none }

/-- Bytes in a tile's feed FIFOs that lane `k` delivered and the tile has not consumed. -/
def unconsumed (x : Tile) (k : Nat) : Nat := ((x.tlaFifo ++ x.fifoA ++ x.fifoB).filter fun b => b.lane == k).length

/-- What of a forwarded share recipient `r` has not consumed, given what it has left in all and what was forwarded after. -/
def sentLeft (left : Nat → Nat) (h : Sent) (later : List Sent) (r : Nat) : Nat := min h.item.take (left r - sentTo later r)

/-- What was forwarded from the first block on that a recipient has not wholly consumed (R366). -/
def keptSent (left : Nat → Nat) : List Sent → List Sent
  | [] => []
  | h :: r => if h.ent.rcp.all fun t => decide (sentLeft left h r t = 0) then keptSent left r else h :: r

/-- Bytes that each recipient has consumed of what is read again, as (recipient, bytes). -/
def keptSkip (left : Nat → Nat) : List Sent → List (Nat × Nat)
  | [] => []
  | h :: r => (h.ent.rcp.map fun t => (t, h.item.take - sentLeft left h r t)) ++ keptSkip left r

/-- Sum entries by recipient. -/
def sumSkip (l : List (Nat × Nat)) : List (Nat × Nat) :=
  ((l.map Prod.fst).eraseDups.map fun t => (t, ((l.filter fun e => e.1 == t).map Prod.snd).sum)).filter fun e => e.2 != 0

/-- Blocks a lane has queued: in its places, then read. -/
def queuedItems (x : Lane) : List FeedItem :=
  (x.places.filterMap fun c => c.head?.map fun h => ⟨h.1, c.length⟩) ++ x.reads.map Prod.fst

/-- A lane's restart point (R366): the entry and block of the first block that some recipient, with `left` bytes unconsumed, has
not wholly consumed, and what each recipient discards of it and of what follows; the blocks queued are read again. A GATHER entry
is read again from its first record. -/
def restartLane (left : Nat → Nat) (x : Lane) : Lane :=
  let keep := keptSent left x.sent
  let base : Lane := { x with places := [], reads := [], gather := [], chunk := 0, row := 0, sent := [] }
  let whole (h : FeedEntry) (off : Nat) : List (Nat × Nat) := h.rcp.map fun t => (t, off)
  match keep with
  | [] =>
    if (x.list.head?.map isGather).getD false && x.opened then
      { base with opened := false, todo := [], nrec := 0, done := 0,
                  skip := sumSkip (x.skip ++ (x.list.head?.map fun f => whole f x.done).getD []) }
    else { base with todo := queuedItems x ++ x.todo }
  | h :: r =>
    let past := (keep.filter fun k => k.idx < x.idx).foldl (fun (l : List Sent) k =>
      if l.any fun m => m.idx == k.idx then l else l ++ [k]) []
    let mine := ((h :: r).filter fun k => k.idx == h.idx).map Sent.item
    let skip := sumSkip (x.skip ++ keptSkip left keep ++ if isGather h.ent then whole h.ent h.off else [])
    { base with
        list := past.map Sent.ent ++ x.list, home := past.map Sent.home ++ x.home, idx := h.idx, skip := skip,
        opened := !isGather h.ent, nrec := 0, done := if isGather h.ent then 0 else h.off,
        todo := if isGather h.ent then [] else if h.idx = x.idx then mine ++ queuedItems x ++ x.todo else mine }

/-- SWITCH_SAVE_DONE (R366, R242): the outgoing context's tiles, step and lanes lie in its save area; the restore begins. -/
def execSwitchSaveDone (p : Fin 8) (s : State) : Res :=
  let q := partOf s p
  if q.switchSt != .save then .next s
  else
    let ts := tilesOf s p
    let held := match q.exec with
      | some e => some e
      | none => q.rerunStep
    let img := ts.map fun t => (t, saveTile (tileOf s t))
    let left (k r : Nat) : Nat := unconsumed (tileOf s (k / 128 * 64 + r)) k
    let lanes := (s.exps.lanes.filter fun e => partLane q e.1).map fun e => (e.1, restartLane (left e.1) e.2)
    let lists := s.exps.lists.filter fun l => q.dies.testBit l.die
    let out (k : Ctx) : Ctx := { k with st := .saved, held := held, betweenSteps := q.exec.isNone, image := img, lanes := lanes, lists := lists }
    let s1 := ts.foldl (fun s t => modTile s t savedTile) (clearLanes s p)
    .next (modPart s1 p fun q => modCtx (modCtx { q with switchSt := .restore, exec := none, rerunStep := none } q.running out)
      q.incoming fun k => { k with st := .restoring })

/-- Whether a saved context goes on in the middle of its step: saved there, and no tile of its image fenced (R369). -/
def restoresWhole (s : State) (c : Ctx) : Bool :=
  !c.betweenSteps && c.held.isSome && c.image.all fun e => !isFenced s (tileUnit e.1)

/-- A saved tile in place of the live one `x`: what the tile counts since reset goes on counting; in the middle of a step as it
was, otherwise at a step boundary. -/
def restoredTile (whole : Bool) (y x : Tile) : Tile :=
  let z := { y with stopped := false, bankVer := x.bankVer, refused := x.refused, ce := x.ce, ue := x.ue, acmCe := x.acmCe, hits := x.hits, misses := x.misses }
  if whole then z else { clearStep z with st := .idle, hold := 0, held := none, noticed := false, abandonOn := false }

/-- The incoming context in place of the outgoing one: its tiles in service with its two program banks, its lanes and its step
where it goes on whole, otherwise its step to run again (R366, R369). -/
def restoreCtx (s : State) (p : Nat) : State :=
  let q := partOf s p
  let c := ctxOf q q.incoming
  let whole := restoresWhole s c
  let idle (x : Tile) : Tile := { x with st := if x.st == .saved then .idle else x.st, bankVer := banksOf s p q.incoming }
  let s0 := (tilesOf s p).foldl (fun s t => modTile s t idle) s
  let s1 := (c.image.filter fun e => !isFenced s (tileUnit e.1)).foldl (fun s e => modTile s e.1 (restoredTile whole e.2)) s0
  let lanes := if whole then c.lanes.foldl (fun t e => tabSet t e.1 e.2 Lane.init) s1.exps.lanes else s1.exps.lanes
  let s2 := { s1 with exps := { lanes := lanes, lists := if whole then s1.exps.lists ++ c.lists else s1.exps.lists } }
  let exec := if whole then c.held else none
  let again := if whole then none else c.held.map runAgain
  let enter (k : Ctx) : Ctx :=
    { k with st := .running, switches := satAdd 32 k.switches 1, held := none, image := [], lanes := [], lists := [], betweenSteps := false }
  modPart s2 p fun q =>
    modCtx { q with switchSt := .idle, running := q.incoming, exec := exec, rerunStep := again } q.incoming enter

/-- SWITCH_RESTORE_DONE (R366, R369): the incoming context runs: in the middle of its step where that was saved whole,
otherwise between steps. -/
def execSwitchRestoreDone (p : Fin 8) (s : State) : Res :=
  let c := ctxOf (partOf s p) (partOf s p).incoming
  if (partOf s p).switchSt != .restore then .next s
  else if restoresWhole s c then .next (startNext (c.image.foldl (fun s e => settle s e.1) (restoreCtx s p)) p)
  else .next (startNext (restoreCtx s p) p)

/-- QUIESCE_TIMEOUT (R367): an instruction has not retired QBOUND turns after the stop; the outgoing step is abandoned, and its
columns are composed again with RERUN. -/
def execQuiesceTimeout (p : Fin 8) (s : State) : Res :=
  let q := partOf s p
  match q.exec with
  | none => .next s
  | some e =>
    if q.switchSt != .quiesce || e.why.isSome then .next s
    else .next (abandonStep (pushErr s .switchAbandon { part := p, step := e.num, detail := [q.running, q.incoming] }) p ⟨.ok, 0, true, none, false, 0, none, false, true⟩)

/-! ### Re-admission (R379 to R381) -/

/-- READMISSION (R379): runs once every declared event's own work is done. -/
def execReadmission (p : Fin 8) (s : State) : Res :=
  match (partOf s p).declared with
  | none => .next s
  | some d => if eventsOpen s p then .next s else .next (runReadmission s p d)

end Sys2Proof.Machine
end

