-- ==== Sys2Proof/Machine/Submit.lean ====
section
/-! DEFINITION. Requests: SUBMIT, SPECULATE, CANCEL (R155 to R157, R307 to R310, R318, R320, R329 to R334, R349,
R370 to R375, R405 to R411, R416, R423). -/

namespace Sys2Proof.Machine

/-! ### Sampling values and trees (R157, R320, R409 order 4) -/

/-- Whether a binary32 pattern is finite, of sign plus and not zero. -/
def fpPositive (w : Word) : Bool := !w.getLsbD 31 && decide (w.toNat % 2 ^ 31 ≠ 0) && decide (w.toNat % 2 ^ 31 < 0x7F800000)

/-- Whether a binary32 pattern lies in (0, 1]. -/
def fpUnit (w : Word) : Bool := fpPositive w && decide (w.toNat ≤ 0x3F800000)

/-- Whether sampling parameters lie in the ranges of R157. -/
def samplingOk (temp topP : Word) (topK : Nat) : Bool :=
  (fpIsZero temp || fpPositive temp) && decide (1 ≤ topK) && decide (topK ≤ 1024) && fpUnit topP

/-- Whether a tree is well formed (R320): parents before children, depth at most 8, siblings' tokens distinct, Q in
(0, 1] unless TEMP is 0. -/
def treeOk (t : Tree) (greedy : Bool) : Bool :=
  (t.nodes.zipIdx).all fun e =>
    (match e.1.parent with
      | none => true
      | some k => decide (k < e.2)) &&
    decide (nodeDepth t.nodes 17 e.2 ≤ 8) &&
    (greedy || fpUnit e.1.q) &&
    !((t.nodes.zipIdx).any fun f => decide (f.2 < e.2) && f.1.parent == e.1.parent && f.1.token == e.1.token)

/-! ### The request block and node lists (R408) -/

/-- A 4 B little-endian word at a byte offset. -/
def wordLe (bs : List Byte) (off : Nat) : Nat := leNat ((bs.drop off).take 4)

/-- A 12 B node: PARENT, three zero bytes, TOKEN, Q. One whose zero bytes are not zero names a parent no node has, so that its
tree is malformed. -/
def nodeOf (bs : List Byte) : Node :=
  let w := wordLe bs 0
  { parent := if w = 0xFF then none else some (if w < 256 then w else 256), token := wordLe bs 4, q := BitVec.ofNat 32 (wordLe bs 8) }

/-- The first `n` nodes of a list. -/
def nodesOf (bs : List Byte) (n : Nat) : List Node := (List.range n).map fun i => nodeOf (bs.drop (12 * i))

/-- A SUBMIT's request block. -/
def reqBlockOf (a : SubmitArgs) (bs : List Byte) : ReqBlock :=
  let at' := 40 + 4 * a.nprompt
  { seed := leNat (bs.take 8), stops := (List.range 8).map fun i => wordLe bs (8 + 4 * i),
    prompt := (List.range a.nprompt).map fun i => wordLe bs (40 + 4 * i),
    tree := if a.ntree = 0 then none else some ⟨wordLe bs at', nodesOf (bs.drop (at' + 4)) a.ntree⟩ }

/-- Bytes of a SUBMIT's request block. -/
def reqBytes (a : SubmitArgs) : Nat := 40 + 4 * a.nprompt + if a.ntree = 0 then 0 else 4 + 12 * a.ntree

/-- Read data a descriptor names, where its rings stand here (R399, R400). -/
def readNamed (s : State) (x : Src) (addr len : Nat) : State := if x.front.isSome then s else emit s (.hostRead x.fn addr len)

/-! ### What a SUBMIT names (R295, R301, R470) -/

/-- The first slot of a partition's quota: quotas take consecutive numbers in partition order. -/
def slotBase (s : State) (p : Nat) : Nat := ((List.range p).map fun q => (partOf s q).quota).sum

/-- The lowest FREE slot of a partition whose quota is not exhausted (R307): in its own numbers, or, where a changed quota left other
partitions' requests in those, the lowest that is FREE. -/
def freeSlot (s : State) (p : Nat) : Option Nat :=
  let quota := (partOf s p).quota
  let ok (n : Nat) : Bool := decide (n < 65536) && (slotOf s n).st == .free
  if quota ≤ (slotsOf s p).length then none
  else (((List.range quota).map (· + slotBase s p)).find? ok).or ((List.range 65536).find? ok)

/-- The current bundle version of a BUNDLE_ID in a context, not poisoned (R295, R470). -/
def currentBundle (s : State) (p ctx id : Nat) : Option BundleEnt :=
  (versionsOf s p id).find? fun e => e.current && e.ctx == ctx && !e.poisoned

/-- The current step-program version of a bundle version that new requests may bind (R106, R295). -/
def currentProg (s : State) (p ctx id bver : Nat) : Option Prog :=
  s.cmp.progs.find? fun g =>
    g.part == p && g.ctx == ctx && g.bundle == id && g.bver == bver && g.current && !g.loading && !g.faulty && !g.cannotRun

/-- The current version of an adapter (R301). -/
def currentAdapter (s : State) (p ctx id a : Nat) : Option Adapter :=
  (adaptersOf s p).find? fun x => x.ctx == ctx && x.bundle == id && x.id == a && x.current && !x.loading && !x.poisoned

/-! ### Checks of a SUBMIT before it takes a slot (Table 17-4, orders 1 to 6) -/

/-- Whether a descriptor came on the LC submit ring. -/
def onLc (x : Src) : Bool := x.ring == some 1

/-- Argument fields outside Table 17-3, by byte offset. -/
def submitArgsNo (a : SubmitArgs) : List (Option No) :=
  [need (a.spec ≤ 16) .badField .cmdFormat [34], need (a.nstop ≤ 8) .badField .cmdFormat [35],
    need (decide (1 ≤ a.maxNew)) .badField .cmdFormat [36], need (decide (1 ≤ a.nprompt)) .badField .cmdFormat [40],
    need (a.ntree ≤ 16) .badField .cmdFormat [52], addrNo a.block 56]

/-- The request of a SUBMIT (order 4): sampling values, class, and, where the block was read and the bundle is known,
tokens, length and tree. -/
def requestNo (s : State) (x : Src) (a : SubmitArgs) (blk : Option ReqBlock) : Option No :=
  let lc := onLc x
  let no (ok : Bool) : Option No := need ok .badField .srvSubmit [x.slot]
  let cls := if lc then decide (0 < a.ttft) && decide (0 < a.itl) else a.ttft == 0 && a.itl == 0 && a.spec == 0
  let b := currentBundle s x.part x.ctx a.bundle
  let vocab := (b.map fun e => e.img.vocab).getD (2 ^ 18)
  let lim := (b.map fun e => e.img.params.ctxLimit).getD (2 ^ 32)
  let toks := match blk with
    | none => []
    | some k => k.stops.take a.nstop ++ k.prompt ++ ((k.tree.map Tree.nodes).getD []).map Node.token
  firstNo [no (samplingOk a.temp a.topP a.topK), no cls, no (toks.all fun t => decide (t < vocab)),
    no (decide (a.nprompt + a.maxNew ≤ lim)),
    need (((blk.bind ReqBlock.tree).map fun t => treeOk t (fpIsZero a.temp)).getD true) .badField .specTree [x.slot]]

/-- The context, bundle, program and adapter of a SUBMIT (order 5). -/
def namedNo (s : State) (x : Src) (a : SubmitArgs) : Option No :=
  let b := currentBundle s x.part x.ctx a.bundle
  let g := b.bind fun e => currentProg s x.part x.ctx a.bundle e.img.version
  let ad := match a.adapter with
    | none => true
    | some k => (currentAdapter s x.part x.ctx a.bundle k).isSome
  need (ctxPresent s x && b.isSome && g.isSome && ad) .badState .loadState [a.bundle]

/-- Orders 1 and 2 of a SUBMIT, before its block is read. -/
def submitFmtNo (s : State) (x : Src) (a : SubmitArgs) : Option No :=
  let role := (partOf s x.part).role
  firstNo [cmdNo s x .submit false (submitArgsNo a), need (role != .generate && role != .cache) .notPermitted .srvRole []]

/-- Orders 1 to 5 of a SUBMIT. -/
def submitNo (s : State) (x : Src) (a : SubmitArgs) (blk : Option ReqBlock) : Option No :=
  firstNo [submitFmtNo s x a, requestNo s x a blk, namedNo s x a]

/-- Refuse a SUBMIT: FINAL with STOP 6 (Table 17-6). -/
def refuseSubmit (s : State) (x : Src) (st : Status) : State :=
  let d := finalDetail 1 6 0
  let s1 := journal s (jsrcOf s x 1) 3 st d
  answer s1 x (mkCpl s1 x 1 st d)

/-- Refuse a SUBMIT with its record. -/
def refuseSubmitRec (s : State) (x : Src) (n : No) : State :=
  refuseSubmit (pushErr s n.code { status := n.st, part := x.part.val, detail := [x.fn.val, 1] ++ n.detail }) x n.st

/-! ### The walk of the prefix tree (R318, R334, R345) -/

/-- One matched block: its node, and whether its pages come from the CACHE module. -/
structure Match where
  node : PNode
  remote : Bool

/-- The walk from block `i` on, `k` whole blocks left: the matched blocks, and blocks not taken that count in
PREFIX_SKIP. A block whose pages are still on their way to a CACHE partition is here. -/
def walkPrefix (s : State) (x : Slot) : Nat → Nat → List Match × Nat
  | 0, _ => ([], 0)
  | k + 1, i =>
    let h := leNat (chainHash x i)
    let toks := (x.tokens.drop (i * 64)).take 64
    match (partOf s x.part).nodes.find? fun nd => nd.ctx == x.ctx && nd.hash == h && nd.tokens == toks with
    | none => ([], 0)
    | some nd =>
      match (if isSpilling nd then none else nd.remote) with
      | some t =>
        if canReach s t.1 then
          let r := walkPrefix s x k (i + 1)
          (⟨nd, true⟩ :: r.1, r.2)
        else ([], 1)
      | none =>
        if nd.pages.any fun g => decide (65535 ≤ (pageOf (partOf s x.part) g).refs) then ([], 1)
        else
          let r := walkPrefix s x k (i + 1)
          (⟨nd, false⟩ :: r.1, r.2)

/-- Join one matched block to a slot: by reference, or its pages asked of the CACHE module (R318, R334). -/
def joinBlock (n : Nat) (s : State) (m : Match) : State :=
  let x := slotOf s n
  let p := x.part
  let seen (nd : PNode) : PNode := if nd == m.node then { nd with matched := nowNs s } else nd
  let s1 := modPart s p fun q => { q with nodes := q.nodes.map seen }
  if m.remote then
    let s2 := modSlot s1 n fun x => { x with sets := x.sets ++ [List.replicate (placesOf s p x.pver).length noPage] }
    match m.node.remote with
    | some t => newFlow s2 t.1 3 4 32 (.page p m.node.hash)
    | none => s2
  else
    let s2 := modPart s1 p fun q => m.node.pages.foldl (fun q k => modPage q k fun g =>
      { g with refs := g.refs + 1, writer := none }) q
    modSlot s2 n fun x => { x with sets := x.sets ++ [m.node.pages] }

/-! ### Admission (R307 to R310, R349, R370 to R375) -/

/-- The request as it would stand in slot `n`, admitted at the time of its ACCEPTED entry. -/
def requestSlot (s : State) (x : Src) (a : SubmitArgs) (k : ReqBlock) (n acc : Nat) : Slot :=
  let p := x.part.val
  let b := currentBundle s p x.ctx a.bundle
  let bver := (b.map fun e => e.img.version).getD 0
  let pver := ((currentProg s p x.ctx a.bundle bver).map Prog.version).getD 0
  let ad := a.adapter.bind fun i => (currentAdapter s p x.ctx a.bundle i).map fun v => (v.id, v.version)
  let admits := ((slotOf s n).admits + 1) % 2 ^ 32
  { Slot.init with
    st := .prefill, part := p, ctx := x.ctx, lc := onLc x, admits := admits, tag := x.tag,
    origin := originNum (modNum s) (srcOrigin x), ring := srcNum x, ridx := x.ridx, bundle := a.bundle, bver := bver,
    pver := pver, adapter := ad, seeded := a.seeded, noPrefix := a.noPrefix, seed := k.seed, substream := a.substream,
    temp := a.temp, topP := a.topP, topK := a.topK, spec := a.spec, stops := k.stops.take a.nstop, maxNew := a.maxNew,
    tokens := k.prompt.take a.nprompt, nprompt := a.nprompt, ttft := a.ttft, itl := a.itl, accTime := acc, admTime := nowNs s,
    lastWrite := acc, key := if a.seeded then seedKey k.seed a.substream else deviceKey (partOf s p).secret n admits,
    tree := k.tree.map fun t => ⟨t, none⟩ }

/-- A live request of the partition with the same host seed and SUBSTREAM (R156). -/
def sameSeed (s : State) (p : Nat) (x : Slot) : Option Nat :=
  (slotsOf s p).find? fun n => let y := slotOf s n
    y.seeded && y.st != .closing && y.seed == x.seed && y.substream == x.substream

/-- Choose the target of an LC request of a PROMPT partition; which one is not stated. -/
def pickTarget (s : State) (x : Slot) : State × Option (Nat × Nat) :=
  if x.lc && (partOf s x.part).role == .prompt then
    let (k, s1) := drawFree s 2
    match reserveTargets s k x with
    | [] => (s1, none)
    | t :: ts => (s1, some ((t :: ts).getD (Sys2Proof.Config.freePick (k + 1) % (ts.length + 1)) t))
  else (s, none)

/-- Put an admitted request into its slot: matched blocks, reservation, journal STARTED and ADMITTED (R375, R411, R416). -/
def admitInto (s : State) (n : Nat) (y : Slot) (ms : List Match) (lc : Bool) (v : Verdict) : State :=
  let s1 := trackedBy (setSlot s n { y with sets := [], filled := 0 }) n
  let s2 := ms.foldl (joinBlock n) s1
  let s3 := modSlot s2 n fun x => { x with filled := y.filled, reserved := if lc then setsOf y else 0 }
  let us (ns : Nat) : Nat := min (ceilDiv ns 1000) 0xFFFFFFFF
  let d := if lc then us v.ttft + us v.intv * 2 ^ 32 else 0
  let s4 := journal s3 (slotSrc (slotOf s3 n) n) 1 .accepted d
  refreshAdm (postSlotCpl s4 n (slotCpl s4 (slotOf s4 n) n 2 .accepted d false)) y.part

/-- Orders 7 to 10 of Table 17-4 and the admission itself. -/
def admitNew (s : State) (x : Src) (a : SubmitArgs) (k : ReqBlock) (acc : Nat) : State :=
  let p := x.part.val
  match freeSlot s p with
  | none => refuseSubmitRec s x ⟨.noResource, .srvNoSlot, []⟩
  | some n =>
    let y := requestSlot s x a k n acc
    match (if y.seeded && !a.replay then sameSeed s p y else none) with
    | some m => refuseSubmitRec s x ⟨.streamInUse, .rngDup, [n, m]⟩
    | none =>
      let w := if a.noPrefix || (partOf s p).treeNodes == 0 then ([], 0) else walkPrefix s y (a.nprompt / 64) 0
      let cover := w.1.length * 64
      let full := decide (a.nprompt ≤ cover)
      let (s1, tgt) := pickTarget s y
      let st := if full then SlotSt.decode else .prefill
      let z := { y with st := st, filled := if full then a.nprompt - 1 else cover, matched := w.1.length, skipped := w.2,
                        sets := w.1.map fun m => if m.remote then [noPage] else m.node.pages, target := tgt }
      if !z.lc then admitInto s1 n z w.1 false ⟨0, 0, none, 0, 0⟩
      else if (partOf s1 p).suspended then
        let s2 := modPart s1 p fun q => { q with refused := satAdd 16 q.refused 1 }
        refuseSubmit (pushErr s2 .admSuspended { status := .deadlineUnmet, part := p, event := (partOf s2 p).event, detail := [n] }) x .deadlineUnmet
      else
        let is := List.range (setsOf z)
        let short := shortIn s1 p z.pver is
        let v0 := testLc s1 p ((lcSlots s1 p).map (slotOf s1) ++ (promisedTo s1 p).map Prod.snd) { z with st := if full then .prefill else st } (displaceNs s1 p short)
        let v := if (partOf s1 p).role == .prompt && tgt.isNone && v0.test = 0 then { v0 with test := 3 } else v0
        if v.test ≠ 0 then refuseSubmit (admRefuse s1 p n v) x .deadlineUnmet
        else if !canReserve s1 p z.pver is then refuseSubmitRec s1 x ⟨.noResource, .kvReserve, [n]⟩
        else preemptIdle (admitInto (displace s1 p short) n z w.1 true v) p

/-- SUBMIT (R408, R409, R411): taken, checked in the order of Table 17-4, admitted or refused. -/
def execSubmit (x : Src) (a : SubmitArgs) (blk : DmaFail ⊕ List Byte) (s : State) : Res :=
  let y := takerOf s x
  let t := takeCmd s y 1
  let s1 := if (submitFmtNo t.s x a).isNone then readNamed t.s x a.block (reqBytes a) else t.s
  match submitNo s1 x a (blk.getRight?.map (reqBlockOf a)) with
  | some n => .next (refuseSubmitRec s1 y n)
  | none =>
    match blk with
    | .inl d => .next (refuseSubmit (dmaFailedFor s1 x d) x .violation)
    | .inr bs => .next (admitNew s1 x a (reqBlockOf a bs) t.time)

/-! ### Commands that name a slot (R310, Table 17-4 order 3) -/

/-- Whether the slot a command names carries its TAG in the command's partition. -/
def slotNo (s : State) (x : Src) : Option No :=
  let y := slotOf s x.slot
  need (decide (x.slot < 65536) && y.st != .free && y.part == x.part.val && y.tag == x.tag) .badState .srvStaleTag [x.slot]

/-! ### SPECULATE (R320, R329, R408, R423) -/

/-- The checks of a SPECULATE, in the order of Table 17-4; a tree that could not be read is not checked. -/
def specNo (s : State) (x : Src) (nnodes addr : Nat) (tree : Option Tree) : Option No :=
  let y := slotOf s x.slot
  let vocab := ((slotBundle s y).map fun b => b.img.vocab).getD (2 ^ 18)
  firstNo [cmdNo s x .submit false [need (decide (1 ≤ nnodes) && decide (nnodes ≤ 16)) .badField .cmdFormat [20], addrNo addr 24],
    need ((partOf s x.part).role != .prompt) .notPermitted .srvRole [], slotNo s x,
    need (y.st != .closing) .badState .srvStaleTag [x.slot],
    need ((tree.map fun t => treeOk t (fpIsZero y.temp) && t.nodes.all fun k => decide (k.token < vocab)).getD true) .badField .specTree [x.slot]]

/-- SPECULATE (R320): the tree is pending; an earlier one completes CANCELLED (Table 17-11). -/
def execSpeculate (x : Src) (tree : TreeRead) (s : State) : Res :=
  let t : Tree := ⟨tree.basePos, nodesOf (tree.nodes.getRight?.getD []) tree.nnodes⟩
  .next (withCmd s x 2 (fun s => specNo s x tree.nnodes tree.addr (tree.nodes.getRight?.map fun _ => t)) fun s _ =>
    let s0 := readNamed s x tree.addr (12 * tree.nnodes)
    match tree.nodes with
    | .inl d => finishCmd (dmaFailedFor s0 x d) x 2 .violation 0
    | .inr _ =>
      let s1 := startCmd (endTree s0 x.slot .cancelled 0) x 2
      modSlot s1 x.slot fun y => { y with tree := some ⟨t, some x⟩ })

/-! ### CANCEL (R329, R407, R423) -/

/-- Stop what is under way for a slot outside a step: its handoff's flow, and the records it holds go to the dead-letter
queue with CANCELLED (R329). -/
def stopSlot (s : State) (n : Nat) : State :=
  let flows := s.lnk.tx.filter fun f => f.op == .handoff n
  let s1 := flows.foldl (fun s f => sendVc0 s f.dst 0x11 [s.lnk.modNum, f.flow, 1]) s
  let s2 := { s1 with lnk := { s1.lnk with tx := s1.lnk.tx.filter fun f => f.op != .handoff n } }
  modSlot (dropHold s2 n .cancelled) n fun x => { x with retryAt := none }

/-- Cancel one slot at once, or mark it to close at the boundary of the step its columns run in; `c` is the CANCEL to
complete then. Records still held go to the dead-letter queue (R329); a CLOSING slot is left as it is (R423). -/
def cancelSlot (c : Option Src) (s : State) (n : Nat) : State :=
  if (slotOf s n).st == .closing || (slotOf s n).st == .free then s
  else if inRunning s n then modSlot (dropHold s n .cancelled) n fun x => { x with cancel := some c }
  else closeSlot (stopSlot s n) n 4 .cancelled

/-- Answer a CANCEL that waits for a boundary: through the mailbox ACCEPTED, otherwise only FINAL, later. -/
def waitCancel (s : State) (x : Src) (jseq : Nat) : State :=
  if x.ring.isNone then acceptCmd s x 3 jseq else startCmd s x 3

/-- CANCEL (R329): by slot and tag. -/
def execCancel (x : Src) (s : State) : Res :=
  .next (withCmd s x 3 (fun s => firstNo [cmdNo s x .any false, slotNo s x]) fun s jseq =>
    if (slotOf s x.slot).st != .closing && inRunning s x.slot && (slotOf s x.slot).cancel.isNone then
      cancelSlot (some x) (waitCancel s x jseq) x.slot
    else if inRunning s x.slot then finishCmd s x 3 .ok 0
    else endCmd (cancelSlot none (startCmd s x 3) x.slot) x 3 .ok 0)

/-- CANCEL with ALL (R407): every request of context CTX; it completes once the last of them ends. -/
def execCancelAll (x : Src) (s : State) : Res :=
  .next (withCmd s x 3 (fun s => firstNo [cmdNo s x .any false, need (ctxPresent s x) .badState .loadState []]) fun s jseq =>
    let ns := (slotsOf s x.part).filter fun n => (slotOf s n).ctx == x.ctx.val && (slotOf s n).st != .closing
    let wait := ns.filter fun n => inRunning s n && (slotOf s n).cancel.isNone
    let one (s : State) (n : Nat) : State :=
      if wait.contains n then cancelSlot (if wait.getLast? = some n then some x else none) s n else if inRunning s n then s else cancelSlot none s n
    if wait.isEmpty then endCmd (ns.foldl one (startCmd s x 3)) x 3 .ok 0 else ns.foldl one (waitCancel s x jseq))

end Sys2Proof.Machine
end

