-- ==== Sys2Proof/Machine/Commands.lean ====
section
/-! DEFINITION. The commands of rings, configuration, contexts, swap areas and reads, and the journal writer
(R352, R361, R369, R391 to R399, R405 to R424, R453, R549 to R551). -/

namespace Sys2Proof.Machine

/-! ### DMA reads (R399) -/

/-- The command code a taken descriptor carries. -/
def takenCode (s : State) (x : Src) : Option Nat :=
  (s.hif.taken.find? fun k => k.fn == srcFn x && k.ring == srcNum x && k.tag == x.tag &&
    (x.ring.isNone || k.part == x.part.val)).map Taken.cmd

/-- DMA_READ_COMPLETE (R399, Table 16-11): a good read only brings its data; a failed one ends what it was for. -/
def execDmaReadComplete (why : DmaPurpose) (bad : Option DmaFail) (s : State) : Res :=
  match bad with
  | none => .next s
  | some d => match why with
    | .descriptors p r =>
      let x := ringOf s p r
      if 2 < r.val || x.st == .detached then .next s
      else .next (dmaFailed (ringTo s p r .haltedDma) x.owner p d)
    | .load p =>
      match loadOf s p with
      | none => .next s
      | some l => .next (failLoad (dmaFailedFor s l.src d) p ⟨.violation, .loadDma, [l.bundle]⟩)
    | .swapRestore n =>
      let x := slotOf s n
      if x.st != .preempted || x.toRestore.isEmpty then .next s
      else .next (restoreFails (dmaFailed s (driverOf s x.part) x.part d) n)
    | .command x =>
      let y := takerOf s x
      let s1 := dmaFailedFor s y d
      match takenCode s1 y with
      | none => .next s1
      | some 1 => .next (refuseSubmit (takeCmd s1 y 1).s y .violation)
      | some c => .next (finishCmd (takeCmd s1 y c).s y c .violation 0)

/-! ### Rings (R391, R394, R419, R423) -/

/-- A ledger entry of a ring change (R420). -/
def ringLedger (s : State) (x : Src) (r old new : Nat) (act : Nat) (st : Status) : State :=
  ledger s (srcOrigin x) { obj := 6, act := act, status := st, part := x.part.val, target := x.part.val * 8 + r, old := old, new := new }

/-- The argument checks of an attach (Table 17-3); ring 0 attaches only through the mailbox (R406). -/
def attachNo (s : State) (x : Src) (r log2 base wb mc mt : Nat) : Option No :=
  let bad (ok : Bool) (off : Nat) : Option No := need ok .badField .cmdFormat [off]
  firstNo [cmdNo s x .control false [bad (r != 0 || x.ring.isNone) 16, bad (decide (6 ≤ log2) && decide (log2 ≤ 16)) 17,
      bad (base % 4096 == 0) 24, bad (wb % 64 == 0) 32, bad (decide (1 ≤ mc) && decide (mc ≤ 256)) 44, bad (decide (mt ≤ 1000)) 46],
    need ((ringOf s x.part r).st != .active && (ringOf s x.part r).st != .paused) .badState .cmdRing [r]]

/-- Make a ring ACTIVE at its new place, its indices and kept entries as given. -/
def attachRing (s : State) (x : Src) (r log2 base wb mc mt : Nat) (f : Ring → Ring) : State :=
  let old := (ringOf s x.part r).st.code
  let s1 := modRing s x.part r fun q => f { q with st := .active, log2 := log2, owner := x.fn, base := base, wb := wb, modCount := mc,
                                                   modTime := mt, unsig := 0, unsigFrom := 0, latched := none }
  ringLedger s1 x r old 1 0 .ok

/-- RING_ATTACH (R391, R419): P = C = START, kept copies gone, then what is held is written. -/
def execRingAttach (x : Src) (ring : Fin 5) (log2 base wb start modCount modTime : Nat) (s : State) : Res :=
  .next (withCmd s x 0x10 (fun s => attachNo s x ring log2 base wb modCount modTime) fun s _ =>
    let i := start % 2 ^ 32
    let s1 := attachRing s x ring log2 base wb modCount modTime fun q => { q with pidx := i, cidx := i, kept3 := [], kept4 := [] }
    finishCmd (drainRing s1 x.part ring) x 0x10 .ok 0)

/-- The kept entries of an output ring, as written before. -/
def keptBytes (q : Ring) (r : Nat) : List (List Byte) := if r = 3 then q.kept3.map cplBytes else if r = 4 then q.kept4.map outBytes else []

/-- Write the kept entries again at the ring's base, oldest first (R419). -/
def rewriteKept (s : State) (p r : Nat) : State :=
  let q := ringOf s p r
  let es := keptBytes q r
  let s1 := (es.zipIdx).foldl (fun s e => emit s (.hostWrite q.owner (q.base + (q.cidx + e.2) % 2 ^ q.log2 * 32) e.1)) s
  modRing s1 p r fun q => { q with unsig := es.length, unsigFrom := nowNs s }

/-- RING_ATTACH with KEEP (R419): the kept indices stand, unacknowledged output is written again, then what is held. -/
def execRingAttachKeep (x : Src) (ring : Fin 5) (log2 base wb modCount modTime : Nat) (s : State) : Res :=
  .next (withCmd s x 0x10 (fun s =>
      firstNo [attachNo s x ring log2 base wb modCount modTime,
        need (decide (ringUsed (ringOf s x.part ring) ≤ 2 ^ log2)) .badRange .cmdRing [ring.val]]) fun s _ =>
    let s1 := rewriteKept (attachRing s x ring log2 base wb modCount modTime id) x.part ring
    finishCmd (drainRing s1 x.part ring) x 0x10 .ok 0)

/-- RING_DETACH (R394): the positions and kept copies stay (R419). -/
def execRingDetach (x : Src) (ring : Fin 5) (s : State) : Res :=
  .next (withCmd s x 0x11 (fun s => cmdNo s x .control false) fun s _ =>
    let old := (ringOf s x.part ring).st.code
    let s1 := modRing s x.part ring fun q => { q with st := .detached, log2 := 0, latched := none }
    finishCmd (ringLedger s1 x ring old 0 0 .ok) x 0x11 .ok 0)

/-- RING_PAUSE (R394, R397): an ACTIVE ring pauses. -/
def execRingPause (x : Src) (ring : Fin 5) (s : State) : Res :=
  .next (withCmd s x 0x12 (fun s =>
      firstNo [cmdNo s x .control false,
        need ((ringOf s x.part ring).st == .active || (ringOf s x.part ring).st == .paused) .badState .cmdRing [ring.val]]) fun s _ =>
    let old := (ringOf s x.part ring).st.code
    finishCmd (ringLedger (modRing s x.part ring fun q => { q with st := .paused }) x ring old 2 0 .ok) x 0x12 .ok 0)

/-- RING_RESUME (R394): a PAUSED ring returns to ACTIVE, but not during a pause of R403 or with Bus Master Enable clear. -/
def execRingResume (x : Src) (ring : Fin 5) (s : State) : Res :=
  .next (withCmd s x 0x13 (fun s =>
      let q := ringOf s x.part ring
      let held := (fnOf s q.owner).paused || !(fnOf s q.owner).bme
      firstNo [cmdNo s x .control false, need (q.st == .active || (q.st == .paused && !held)) .badState .cmdRing [ring.val]]) fun s _ =>
    let old := (ringOf s x.part ring).st.code
    finishCmd (ringLedger (modRing s x.part ring fun q => { q with st := .active }) x ring old 1 0 .ok) x 0x13 .ok 0)

/-! ### CONFIG (R421, R485, R486, R549 to R551) -/

/-- The partition a field's ledger entry names. -/
def configPart (s : State) (f : Fld) : Nat :=
  match f with
  | .region n _ => let o := (regionOf s n).owner
    if o < 8 then o else 8
  | g => (fldPart g).getD 8

/-- Check 4 of R550: whether the field's partition exists, or the field may be written before it does. -/
def configExists (s : State) (f : Fld) : Bool :=
  match f with
  | .slice p _ => (partOf s p).valid
  | _ => true

/-- Checks 1 to 3 of R550. -/
def configNo (s : State) (x : Src) (off width value mask : Nat) : Option No :=
  let fmt (ok : Bool) (b : Nat) : Option No := need ok .badField .cmdFormat [b]
  let f := fldFor off width mask
  let may := match f with
    | none => true
    | some g => if fromPf0 x then fldCfg g else fldVf g && fldPart g == some x.part.val
  firstNo [cmdNo s x .control false [fmt (width == 4 || width == 8) 20, fmt (off % width == 0) 16, fmt f.isSome 32,
    fmt (decide (value &&& mask = value)) 24], need may .notPermitted .cmdPerm [off]]

/-- The action that writing 1 to a field starts, on the unit or key last written; none where it only holds a value. -/
def configAct (s : State) (o : Origin) (f : Fld) (v : Nat) : Option State :=
  if v = 0 then none
  else match f with
    | .fwGo => some (fwAct s o)
    | .reboot => some (rebootNow s o)
    | .sleep => some (sleepAsk s o)
    | .wake => some (wakeAsk s o)
    | .retrain p => some (retrainPort s o p)
    | .unfGo => some (unfence s o s.ras.unfSel)
    | .commitGo => some (commitGo s o)
    | .revGo => some (revokeGo s o s.sec.revokeKey)
    | _ => none

/-- The status of the first ledger entry written after entry `n`. -/
def ledgerStatus (s : State) (n : Nat) : Status := ((s.log.ledger.find? fun e => e.seq == n + 1).map LedgerEntry.status).getD .ok

/-- The refusal of a QUIESCE change (R294, R361, R501), none where it may be made. -/
def quiesceNo (s : State) (f : Fld) (v : Nat) : Option (Status × Option RecCode) :=
  let ps := fldQuiet s f v
  let loads := match f with
    | .region .. => ps.any fun p => (loadOf s p).isSome
    | _ => false
  let creates := match f with
    | .dies p => v != 0 && !(partOf s p).valid
    | _ => false
  if !quietFor s ps then some (.busy, some .partBusy)
  else if loads then some (.busy, some .loadBusy)
  else if creates && !s.sec.rngOk then some (.noResource, none)
  else none

/-- End a CONFIG refused after its field was found: the ledger entry REFUSED, the record, the completion. -/
def configRefuse (s : State) (x : Src) (a : LedgerArgs) (st : Status) (c : Option RecCode) : State :=
  let s1 := match c with
    | some r => pushErr s r { status := st, part := x.part.val, detail := [x.fn.val, a.target] }
    | none => s
  finishCmd (ledger s1 (srcOrigin x) { a with act := 5, status := st }) x 0x30 st 0

/-- Carry out a CONFIG whose checks passed, under its field's staging class (R485). -/
def configDo (s : State) (x : Src) (f : Fld) (off width value mask : Nat) (a : LedgerArgs) : State :=
  let o := srcOrigin x
  let v := fldNew s f off value mask
  let done (s : State) (st : Status) : State := finishCmd s x 0x30 st 0
  match fldStage f with
  | .live =>
    match configAct s o f v with
    | some t => if t.boot.st != s.boot.st then t else done t (ledgerStatus t s.log.ledgerHead)
    | none => done (ledger (fldSet s f v) o a) .ok
  | .step =>
    let p := (fldPart f).getD 0
    if stepIdle s p then done (ledger (fldSet s f v) o { a with act := 3 }) .ok else done (stageStep s o f p v a) .staged
  | .quiesce =>
    if s.pwr.sleep != .awake then
      done (ledger { s with pwr := { s.pwr with parked := s.pwr.parked ++ [(off, width, value, mask)] } } o a) .ok
    else match quiesceNo s f v with
      | some n => configRefuse s x a n.1 n.2
      | none => done (ledger (fldSet s f v) o a) .ok
  | .boot => configRefuse s x a .badField (some .cmdFormat)

/-- CONFIG (R550): one field, after checks 1 to 5 in their order. -/
def execConfig (x : Src) (off width value mask : Nat) (s : State) : Res :=
  .next (withCmd s x 0x30 (fun s => configNo s x off width value mask) fun s _ =>
    match fldFor off width mask with
    | none => s
    | some f =>
      let p := fldPos f
      let old := fldGet s f * 2 ^ p.lo / 2 ^ (8 * (off - p.off)) &&& mask
      let a : LedgerArgs := { obj := 0, part := configPart s f, width := width, target := off, old := old, new := value }
      if !configExists s f then configRefuse s x a .badState none
      else match fldRange s f (fldNew s f off value mask) with
        | some r => configRefuse s x a r.1 (some r.2)
        | none => configDo s x f off width value mask a)

/-! ### Contexts (R361, R369, R423) -/

/-- The contexts a partition has. -/
def ctxCount (q : Part) : Nat := (q.ctxs.filter fun e => e.2.st != .empty).length

/-- A ledger entry of a change of NCTX. -/
def nctxLedger (s : State) (x : Src) (old new act : Nat) (st : Status) : State :=
  ledger s (srcOrigin x) { obj := 5, act := act, status := st, part := x.part.val, target := 0x40000 + x.part.val * 0x40, old := old, new := new }

/-- CONTEXT create (R361): context CTX is added, a QUIESCE change of NCTX. -/
def execContextCreate (x : Src) (s : State) : Res :=
  let q := partOf s x.part
  let old := q.nctx
  let there := (ctxOf q x.ctx).st != .empty
  .next (withCmd s x 0x31 (fun s =>
      firstNo [cmdNo s x .control false, need (q.valid && !there) .badState .loadState [x.ctx.val]]) fun s _ =>
    if !quiescent s x.part then
      let s1 := pushErr s .partBusy { status := .busy, part := x.part.val, detail := [x.ctx.val] }
      finishCmd (nctxLedger s1 x old old 5 .busy) x 0x31 .busy 0
    else
      let first := ctxCount q == 0
      let s1 := modPart s x.part fun q =>
        let q1 := modCtx q x.ctx fun c => { c with st := if first then .running else .ready }
        { q1 with nctx := old + 1, running := if first then x.ctx.val else q.running }
      finishCmd (nctxLedger s1 x old (old + 1) 0 .ok) x 0x31 .ok 0)

/-- What goes with a deleted context: its requests with CANCELLED, its versions no longer current (R295, R369). -/
def dropCtx (s : State) (p c : Nat) : State :=
  let ns := (slotsOf s p).filter fun n => (slotOf s n).ctx == c
  let s1 := ns.foldl (cancelSlot none) s
  let bs := s1.cmp.bundles.map fun e => (e.1, e.2.map fun b => if b.part == p && b.ctx == c then { b with current := false } else b)
  let gs := s1.cmp.progs.map fun g => if g.part == p && g.ctx == c then { g with current := false } else g
  let ads := s1.cmp.adapters.map fun a => if a.part == p && a.ctx == c then { a with current := false } else a
  let s2 := { s1 with cmp := { s1.cmp with bundles := bs, progs := gs, adapters := ads } }
  let s3 := (((partOf s2 p).nodes).filter fun nd => nd.ctx == c).foldl (fun s nd => removeNode s p nd) s2
  freeVersions (modPart s3 p fun q => modCtx q c fun _ => Ctx.init) p

/-- Where the running context is deleted between its steps, the partition's next one is restored at once (R364). -/
def afterDelete (q : Part) (c : Nat) : Part :=
  if q.running ≠ c then q
  else match ((List.range 32).map fun i => (c + 1 + i) % 32).find? fun d => (ctxOf q d).st != .empty with
    | some d => modCtx { q with switchSt := .restore, switchDue := false, incoming := d } d fun k => { k with st := .restoring }
    | none => q

/-- CONTEXT delete (R369, Table 17-11). -/
def execContextDelete (x : Src) (s : State) : Res :=
  let q := partOf s x.part
  .next (withCmd s x 0x31 (fun s =>
      firstNo [cmdNo s x .control false, need (ctxPresent s x) .badState .loadState [x.ctx.val],
        need (!ctxActive q x.ctx) .busy .partBusy [x.ctx.val]]) fun s _ =>
    let s1 := modPart (dropCtx (startCmd s x 0x31) x.part x.ctx) x.part fun q =>
      afterDelete { q with nctx := q.nctx - 1 } x.ctx
    endCmd (nctxLedger s1 x q.nctx (q.nctx - 1) 0 .ok) x 0x31 .ok 0)

/-! ### The swap area (R352, R423) -/

/-- The checks of both forms; BUSY while a slot has pages in the area. -/
def swapNo (s : State) (x : Src) (addr size : Nat) : Option No :=
  firstNo [cmdNo s x .control false [addrNo addr 24, need (size % 2 ^ 21 == 0) .badField .cmdFormat [32]], need (partOf s x.part).valid .badState .loadState [],
    need ((partOf s x.part).swapUsed == 0 && (partOf s x.part).swaps.isEmpty) .busy .cmdSwap []]

/-- SWAP_AREA (R352): registers the area; size 0 unregisters it. -/
def execSwapArea (x : Src) (addr size : Nat) (s : State) : Res :=
  .next (withCmd s x 0x32 (fun s => swapNo s x addr size) fun s _ =>
    finishCmd (modPart s x.part fun q => { q with swapArea := if size = 0 then none else some (addr, size) }) x 0x32 .ok 0)

/-- SWAP_AREA with size 0 (R407). -/
def execSwapAreaUnregister (x : Src) (s : State) : Res :=
  .next (withCmd s x 0x32 (fun s => swapNo s x 0 0) fun s _ =>
    finishCmd (modPart s x.part fun q => { q with swapArea := none }) x 0x32 .ok 0)

/-! ### READ and DLQ_ACK (R413, R418, R422, R453) -/

/-- The checks of a READ (Table 17-3). -/
def readNo (s : State) (x : Src) (count addr : Nat) : Option No :=
  cmdNo s x .control false [need (decide (1 ≤ count) && decide (count ≤ 65536)) .badField .cmdFormat [20], addrNo addr 32]

/-- Entries a READ may copy: through the mailbox at most 4,096 (R396). -/
def readLimit (x : Src) (count : Nat) : Nat := if x.ring.isNone then min count 4096 else count

/-- Copy entries out and complete: through the mailbox at once, from a ring ACCEPTED and then FINAL (Table 17-2). -/
def readDone (s : State) (x : Src) (jseq addr : Nat) (es : List (List Byte)) : State :=
  let s1 := if es.isEmpty then s else emit s (.hostWrite x.fn addr es.flatten)
  if x.ring.isNone then finishCmd s1 x 0x40 .ok es.length else finishLater (acceptCmd s1 x 0x40 jseq) x 0x40 .ok es.length

/-- Run a READ: `sel` gives what it copies from the time of its ACCEPTED entry and that entry's number, none where FROM is
older than the oldest entry held. -/
def runRead (s : State) (x : Src) (count addr : Nat) (sel : State → Nat → Nat → Option (List (List Byte))) : State :=
  let y := takerOf s x
  let t := takeCmd s y 0x40
  match readNo t.s x count addr with
  | some n => refuseCmd t.s y 0x40 n.st n.code n.detail
  | none =>
    match sel t.s t.jseq t.time with
    | none => refuseCmd t.s x 0x40 .badRange .cmdRead []
    | some es => readDone t.s x t.jseq addr (es.take (readLimit x count))

/-- Entries of a numbered log from FROM on: none where a non-zero FROM is older than the oldest held. -/
def fromSeq {α : Type} (seq : α → Nat) (start : Nat) (l : List α) : Option (List α) :=
  match l with
  | [] => some []
  | e :: _ => if start ≠ 0 ∧ start < seq e then none else some (l.filter fun e => decide (start ≤ seq e))

/-- A journal entry as copied (R418). -/
def jCopy (s : State) (p : Nat) (e : JEntry) : List Byte := if s.log.lost.contains (p, e.seq % 2 ^ 20) then jLostBytes e.seq else jBytes e

/-- What READ source 0 copies: the journal entries before the command's own (R418). -/
def selJournal (x : Src) (start : Nat) (s : State) (jseq _ : Nat) : Option (List (List Byte)) :=
  let j := journalOf s x.part
  let held := (j.entries ++ j.queue).filter fun e => decide (e.seq < jseq)
  (fromSeq JEntry.seq start held).map fun l => l.map (jCopy s x.part)

/-- READ source 0 (R418). -/
def execReadJournal (x : Src) (count start addr : Nat) (s : State) : Res := .next (runRead s x count addr (selJournal x start))

/-- Whether an entry of a partition is copied to a function. -/
def ownPart (s : State) (x : Src) (p : Nat) : Bool := fromPf0 x || (if x.front.isSome then p == x.part.val else fnPart s x.fn == some p)

/-- What READ source 1 copies: for a VF only the entries of its partition (R422). -/
def selLedger (x : Src) (start : Nat) (s : State) (_ acc : Nat) : Option (List (List Byte)) :=
  let held := s.log.ledger.filter fun e => decide (e.time ≤ acc)
  (fromSeq LedgerEntry.seq start held).map fun l => (l.filter fun e => ownPart s x e.part).map fun e =>
    if s.log.lost.contains (8, e.seq % 65536) then jLostBytes e.seq else ledgerBytes e

/-- READ source 1 (R422). -/
def execReadLedger (x : Src) (count start addr : Nat) (s : State) : Res := .next (runRead s x count addr (selLedger x start))

/-- What READ source 2 copies: the oldest unacknowledged records; FROM is ignored (R413). -/
def selDlq (x : Src) (s : State) (_ _ : Nat) : Option (List (List Byte)) :=
  let q := partOf s x.part
  some ((q.dlq.zipIdx).map fun e => if s.log.lost.contains (24 + x.part.val, (q.dlqBase + e.2) % 4096) then leBytes 32 0 else outBytes e.1)

/-- READ source 2 (R413). -/
def execReadDlq (x : Src) (count addr : Nat) (s : State) : Res := .next (runRead s x count addr (selDlq x))

/-- What READ source 3 copies: step records from the oldest whose STEP is at or above FROM (R418). -/
def selSteps (x : Src) (start : Nat) (s : State) (_ acc : Nat) : Option (List (List Byte)) :=
  let q := partOf s x.part
  let n := q.stepRecs.length
  let ix (i : Nat) : Nat := (q.stepHead + 4096 + i + 1 - n) % 4096
  some ((((q.stepRecs.zipIdx).filter fun e => decide (e.1.tEnd ≤ acc)).dropWhile fun e => decide (e.1.step < start)).map fun e =>
    if s.log.lost.contains (16 + x.part.val, ix e.2) then jLostBytes e.1.step ++ leBytes 64 0 else stepBytes e.1)

/-- READ source 3 (R418). -/
def execReadStepRecords (x : Src) (count start addr : Nat) (s : State) : Res := .next (runRead s x count addr (selSteps x start))

/-- What READ source 4 copies: for a VF only the records of its partition (R453). -/
def selErrors (x : Src) (start : Nat) (s : State) (_ acc : Nat) : Option (List (List Byte)) :=
  let held := s.log.errRing.filter fun e => decide (e.time ≤ acc)
  (fromSeq ErrRec.seq start held).map fun l => (l.filter fun e => ownPart s x e.part).map fun e =>
    if s.log.lost.contains (9, e.seq % 262144) then jLostBytes e.seq else errBytes e

/-- READ source 4 (R453). -/
def execReadErrors (x : Src) (count start addr : Nat) (s : State) : Res := .next (runRead s x count addr (selErrors x start))

/-- DLQ_ACK (R413): frees the oldest N records; more than are pending frees nothing. -/
def execDlqAck (x : Src) (n : Nat) (s : State) : Res :=
  .next (withCmd s x 0x41 (fun s =>
      firstNo [cmdNo s x .control false, need (decide (n ≤ (partOf s x.part).dlq.length)) .badRange .cmdRead [n]]) fun s _ =>
    finishCmd (modPart s x.part fun q =>
      { q with dlq := q.dlq.drop n, dlqBase := q.dlqBase + n, dlqFull := q.dlqFull && n == 0 }) x 0x41 .ok 0)

/-! ### The journal writer (R415, R417) -/

/-- JOURNAL_WRITE (R417): the oldest `n` queued entries go into the ring. -/
def execJournalWrite (p : Fin 8) (n : Nat) (s : State) : Res := .next (journalDrain s p n)

end Sys2Proof.Machine
end

