-- ==== Sys2Proof/Machine/Pace.lean ====
section
/-! DEFINITION. Pace windows, regulators and the timebase (chapter 2). -/

namespace Sys2Proof.Machine

/-- The lowest count of four stages (R32). -/
def stagesLow (x : Stages) : Nat := min (min x.c0x0 x.c0x63) (min x.c31x0 x.c31x63)

/-- Whether no stage completed a turn (R33). -/
def stagesDead (x : Stages) : Bool := x.c0x0 == 0 && x.c0x63 == 0 && x.c31x0 == 0 && x.c31x63 == 0

/-- The sensing number of unit `i` of a die: a tile's, or an XD core's. -/
def senseKey (d i : Nat) : Nat := if d < 16 then d * 64 + i else 1024 + (d - 16) * 8 + i

/-- Units with sensing stages on a die: its tiles, or its control cores (R31, R32). -/
def senseUnits (d : Nat) : Nat := if d < 16 then 64 else 8

/-- The stages of a unit. -/
def senseOf (s : State) (d i : Nat) : TileSense := tabGet s.pwr.sense (senseKey d i) TileSense.init

/-- A turn count of one window as a pace in Mturn/s, rounded down (notes/assumptions/11.md). -/
def toPace (n : Nat) : Nat := n * 1000 / 1024

/-- A stall while a session holds the tile at Reduced fails the test: back to Normal, the tile fenced (R42, R461). -/
def stallSession (s : State) (t : Nat) : State :=
  fenceUnit (pushErr (endSession s t) .ftResult { unit := tileUnit t, detail := [1, 0, 0] }) (tileUnit t)

/-- Reset a stalled tile: in-flight instructions and handshake state go, the step is abandoned as for a fence, and
the stall counts against the tile; a stall in its field test fails the test (R33, R42, R457). -/
def stallTile (s : State) (t : Nat) : State :=
  let p := (partOfTile s t).getD 8
  let rec' (s : State) : State := tileErr s t .tileStall .ok 0xFF [t, (tileOf s t).lastIdx]
  let s1 := { s with pwr := { s.pwr with stalls := satAdd 16 s.pwr.stalls 1 } }
  let s2 := modTile s1 t fun x =>
    { x with inflight := [], st := if x.st == .idle || x.st == .fieldTest then x.st else .held }
  let s3 := countFault s2 (tileUnit t) rec'
  if (tabGet s.pwr.sense t TileSense.init).reduced then stallSession s3 t
  else abandonStep s3 p (fenceAbandon 0)

/-- Whether unit `i` of a die counts for its pace: in service, not in a test or at Reduced, not just reset (R32). -/
def paceServing (s : State) (d i : Nat) : Bool :=
  let x := senseOf s d i
  if d < 16 then tileInService s (d * 64 + i) && !x.reduced && !x.reset
  else !isFenced s ⟨.core, d, i⟩ && unitSt s ⟨.core, d, i⟩ != .testing

/-- Whether unit `i` of a die is fenced, itself or with its die. -/
def senseFenced (s : State) (d i : Nat) : Bool :=
  if d < 16 then isFenced s (tileUnit (d * 64 + i)) || isFenced s (dieUnit d) else isFenced s ⟨.core, d, i⟩

/-- Whether a tile stalls with a window of counts `n`: its second without a turn; a fenced one takes no part (R33). -/
def stalls (s : State) (d i : Nat) (n : Stages) : Bool :=
  decide (d < 16) && stagesDead n && (senseOf s d i).zeroRun == 1 && !senseFenced s d i

/-- Take one unit's window: counts, pace, the run without a turn, which a stall restarts and a fence clears, and the stall
(R31 to R33). -/
def unitWindowEnd (s : State) (d i : Nat) (n : Stages) : State :=
  let x := senseOf s d i
  let stall := stalls s d i n
  let x' := { x with stages := n, pace := toPace (stagesLow n), reset := stall,
                     zeroRun := if stagesDead n && !stall && !senseFenced s d i then x.zeroRun + 1 else 0 }
  let s1 := { s with pwr := { s.pwr with sense := tabSet s.pwr.sense (senseKey d i) x' TileSense.init } }
  if stall then stallTile s1 (d * 64 + i) else s1

/-- The regulator's next voltage (R36). -/
def regulate (v target paceMin vLimit : Nat) : Nat :=
  let v1 := if target > paceMin then v + 5 * ceilDiv (min 10 (ceilDiv (target - paceMin) 4)) 5
            else if paceMin > target + 32 then v - 5 else v
  max 550 (min v1 vLimit)

/-- Declare PACE_LOW for a partition (R39, R40), once until it clears. -/
def paceLow (s : State) (p : Nat) (u : UnitId) (detail : List Nat) : State :=
  if (partOf s p).paceLow then s
  else
    let s1 := pushErr (modPart s p fun x => { x with paceLow := true }) .paceLow
      { unit := u, part := p, event := 0x30, detail := detail }
    declareEvent s1 0x30 [p]

/-- The partitions a die's low window reaches (R39, R40). -/
def lowParts (s : State) (d : Nat) : List Nat :=
  if d < 16 then (partOfDie s d).toList else (livePartitions s).filter fun p => (partOf s p).soInst == d - 16

/-- The least pace of some windows, 0 of none (R32). -/
def leastPace (ps : List Nat) : Nat :=
  match ps with
  | [] => 0
  | p :: r => r.foldl min p

/-- The mean of some paces, 0 of none (R32), rounded down to a whole Mturn/s (notes/assumptions/11.md). -/
def meanPace (ps : List Nat) : Nat := if ps.isEmpty then 0 else ps.sum / ps.length

/-- PACE_WINDOW_END (R31 to R40, R554): the stages' counts of every tile or core of a die, unit by unit; paces published,
stalls, the regulator's step, PACE_LOW. A window that completes a stall is no low window. -/
def execPaceWindowEnd (die : Fin 20) (turns : List Stages) (s : State) : Res :=
  let d := die.val
  if !(dieOf s d).powered then .next s
  else
    let ws := (List.range (senseUnits d)).map fun i => (i, turns.getD i ⟨0, 0, 0, 0⟩)
    let serving := ws.filter fun w => paceServing s d w.1
    let paces := serving.map fun w => toPace (stagesLow w.2)
    let lo := leastPace paces
    let s1 := ws.foldl (fun s w => unitWindowEnd s d w.1 w.2) s
    let tgt := if d < 16 then (dieOf s1 d).target else envMinTarget (envNow s1)
    let s2 := modDie s1 d fun x =>
      { x with paceMin := lo, paceMean := meanPace paces, target := tgt, vset := regulate x.vset tgt lo (vLimitOf x) }
    match serving.find? fun w => !stalls s d w.1 w.2 && decide (stagesLow w.2 < floorCount s2) with
    | none => .next (modDie s2 d fun x => { x with goodRun := x.goodRun + 1 })
    | some w =>
      let s3 := modDie s2 d fun x => { x with goodRun := 0 }
      let s4 := { s3 with pwr := { s3.pwr with lowWindows := satAdd 16 s3.pwr.lowWindows 1 } }
      let u : UnitId := if d < 16 then ⟨.tile, d, w.1⟩ else ⟨.core, d, w.1⟩
      .next ((lowParts s4 d).foldl (fun s p => paceLow s p u [d, w.1, toPace (stagesLow w.2)]) s4)

/-- PACE_LOW_CLEAR (R39): 16 windows at or above the floor on every die of the partition that is not fenced, and on the XD
die that serves it, clear it; a die that is off has none. Re-admission is then due. -/
def execPaceLowClear (p : Fin 8) (s : State) : Res :=
  let x := partOf s p.val
  let ds := (diesOf x ++ [16 + x.soInst]).filter fun d => !(decide (d < 16) && isFenced s (dieUnit d))
  if x.paceLow && ds.all (fun d => decide (16 ≤ (dieOf s d).goodRun)) then
    let s1 := modPart s p.val fun x => { x with paceLow := false }
    .next (pushErr s1 .paceLow { part := p.val, event := 0x30, detail := [p.val, 1] })
  else .next s

/-- VOLTAGE_SETTLED (R37): the core voltage reaches the value the regulator set. -/
def execVoltageSettled (die : Fin 20) (s : State) : Res :=
  .next (modDie s die.val fun x => if x.powered then { x with vcore := x.vset } else x)

/-- TIME_WORD (R45 to R47): 1,024 ns of oscillator time pass and every die's follower takes the count. -/
def execTimeWord (s : State) : Res :=
  if !s.side.mainOn then .next s
  else
    .next (syncFollowers (tick s 1024))

/-- TMB_NOW_LOW_READ (R48): the low half is returned and the high half latched for the same reader; a reader that does not
see the timebase reads zero and latches nothing. -/
def execTmbNowLowRead (rd : Origin) (s : State) : Res :=
  if !s.side.mainOn then .next s
  else
    let r := readReg s rd 0x20000 4
    .next (emit r.1 (.reply rd 0x20000 (.data r.2)))

end Sys2Proof.Machine
end

