-- ==== Sys2Proof/Machine/Packets.lean ====
section
/-! DEFINITION. Packets of Mirist as they arrive: order, quench, and what each kind delivers (R203, R204, R305, R331 to
R334, R356, R400, R401, R433 to R437, R470). -/

namespace Sys2Proof.Machine

/-! ### Kinds and flows (R433 to R437) -/

/-- KIND of a packet (Table 18-5). -/
def bodyKind : PktBody → Nat
  | .send _ => 1 | .relay _ => 2 | .handoff _ _ => 3 | .page .. => 4 | .weight _ _ => 5 | .expert _ => 6

/-- Whether a kind may travel on a virtual channel (Table 18-5). -/
def kindVc (b : PktBody) (vc : Nat) : Bool :=
  match b with
  | .send _ => decide (1 ≤ vc)
  | .relay b => relayFits b vc
  | .expert _ => vc == 1
  | .handoff _ _ | .page .. | .weight _ _ => vc == 3

/-- The state of an arriving flow. -/
def rxOf (s : State) (smod flow : Nat) : RxFlow :=
  (s.lnk.rx.find? fun r => r.smod == smod && r.flow == flow).getD ⟨smod, flow, 0, 0, 0, [], false, []⟩

/-- Write the state of an arriving flow. -/
def setRx (s : State) (r : RxFlow) : State :=
  { s with lnk := { s.lnk with rx := (s.lnk.rx.filter fun q => !(q.smod == r.smod && q.flow == r.flow)) ++ [r] } }

/-- Stop an arriving flow (R437): its later packets are discarded. -/
def stopRx (s : State) (smod flow : Nat) : State := setRx s { rxOf s smod flow with ahead := [], quenched := true }

/-- Stop an arriving flow with a QUENCH to its source (R437). -/
def quenchRx (s : State) (smod flow why : Nat) : State := sendVc0 (stopRx s smod flow) smod 0x11 [s.lnk.modNum, flow, why]

/-! ### SEND and EXPERT (R203, R204, R305) -/

/-- Granules that a packet's bytes complete; the last packet of a message completes its last granule. -/
def granulesDone (a n : Nat) (last : Bool) : Nat := (if last then ceilDiv (a + n) 64 else (a + n) / 64) - a / 64

/-- Whether tile `t`'s partition runs a step that is not being abandoned. -/
def stepLive (s : State) (t : Nat) : Bool :=
  match partOfTile s t with
  | some p => ((partOf s p).exec.map fun e => e.why.isNone).getD false
  | none => false

/-- Deliver a SEND or EXPERT packet into a MOVER window; the QUENCH reason when it is not (R204, R437). -/
def sendIn (s : State) (k : Packet) : State × Option Nat :=
  let t := k.dtile
  let a := k.dgran * 64 + k.moff
  let g := a / 64
  let n := ceilDiv (a + k.data.length) 64 - g
  if 1024 ≤ t then (s, some 2)
  else if isFenced s (tileUnit t) || isFenced s (dieUnit (t / 64)) then (s, some 4)
  else match if portsShut s t then none else permits (tileOf s t) .mover g n false with
    | some w =>
      let s1 := modTile s t fun x =>
        countArrived (cleanPoison (stWrite x a k.data) [⟨a, k.data.length, true⟩]) w (granulesDone a k.data.length k.lastp)
      (settle s1 t, none)
    | none =>
      let x := tileOf s t
      let s1 := setTile s t { x with refused := satAdd 16 x.refused 1 }
      if !stepLive s t then (s1, some 3)
      else (tileErr s1 t .letterboxRefused .badRange 0xFF [t, refusedWin x g n, portBit .mover, 0xFFFF, g, n], some 2)

/-- The message a packet ends, as its window holds it (R182, Table 18-4). -/
def messageOf (s : State) (k : Packet) : List Byte := stRead (tileOf s k.dtile) (k.dgran * 64) k.mlen

/-- A message that carries a vector, once its last packet is in: its record checked (R184, R305), and restored where it
passes and the restored form stays in the window (R183). -/
def vectorIn (s : State) (k : Packet) (fail : State → Nat → State) : State :=
  let bs := messageOf s k
  let out := vecDense bs
  if !k.lastp then s
  else if !vecRecOk bs then fail s k.dtile
  else if (permits (tileOf s k.dtile) .mover k.dgran (out.length / 64) false).isSome then
    modTile s k.dtile fun x => stWrite x (k.dgran * 64) out
  else s

/-- What an EXPERT message carries, once its last packet is in: an activation record, checked and restored as every vector
(R182 to R184), or a route record, checked as a band record (R305). -/
def expertIn (s : State) (k : Packet) (route : Bool) : State :=
  if route then checkRoute s k.dtile k.lastp (messageOf s k) else vectorIn s k sparseForm

/-! ### Page data as it travels (R333, R436) -/

/-- Blocks of one page in a transfer: its metadata blocks, then its data blocks. -/
def pageBlocks (s : State) (p : Nat) : Nat := (partOf s p).poolMeta + (partOf s p).poolPage * 2

/-- Where transfer block `b` of a list of pages lies: its byte address, and whether it is a data block. -/
def pageBlockAt (s : State) (p : Nat) (ks : List Nat) (b : Nat) : Option (Nat × Bool) :=
  let u := pageBlocks s p
  match ks[b / u]? with
  | none => none
  | some k =>
    let r := b % u
    let m := (partOf s p).poolMeta
    some (if r < m then (metaAddr s p k + r * 2048, false) else (pageAddr s p k + (r - m) * 2048, true))

/-- Write one stored block of a page transfer: its lines, then its length byte. -/
def pageStored (p : Nat) (ks : List Nat) (s : State) (e : Nat × (Nat × List Byte)) : State :=
  match pageBlockAt s p ks e.1 with
  | none => s
  | some (a, data) => if data then setLen (memPutRun s a e.2.2) (blockOf a) e.2.1 else memPutRun s a e.2.2

/-- Write one raw byte of a page transfer; a data block that takes raw bytes has the length byte 0xFF (R333). -/
def pageRaw (p : Nat) (ks : List Nat) (s : State) (e : Nat × Byte) : State :=
  match pageBlockAt s p ks (e.1 / 2048) with
  | none => s
  | some (a, data) =>
    let s1 := memPut s (a + e.1 % 2048) e.2
    if data then setLen s1 (blockOf a) 0xFF else s1

/-- Write a packet's data into the pages of a transfer: a STORED packet's first block is DGRAN / 32, raw data begin at
DGRAN × 64 + MOFF. -/
def pageData (s : State) (p : Nat) (ks : List Nat) (k : Packet) : State :=
  if k.stored then
    ((storedBlocks 4096 k.data).zipIdx.map fun e => (k.dgran / 32 + e.2, e.1)).foldl (pageStored p ks) s
  else (k.data.zipIdx.map fun e => (k.dgran * 64 + k.moff + e.2, e.1)).foldl (pageRaw p ks) s

/-- Make pages that came whole SEALED with a code table's number; with none they came decoded and hold no table (R333). -/
def sealPages (s : State) (p : Nat) (ks : List Nat) (code : Nat → Option Nat) : State :=
  modPart s p fun q => ks.foldl (fun q k => modPage q k fun g =>
    { g with st := .sealed, ntok := 64, code := (code k).getD 0, raw := (code k).isNone, writer := none }) q

/-- The table that a page's compressed blocks name in their HDR (Table 11-2); none where every block is raw. -/
def hdrCode (s : State) (p k : Nat) : Option Nat :=
  ((List.range ((partOf s p).poolPage * 2)).map (· + blockOf (pageAddr s p k))).findSome? fun b =>
    if lenOf s b = 0xFF then none else some (memByte s (b * 2048)).toNat

/-! ### Handoffs arriving (R331 to R333) -/

/-- Answer a handoff to its sender over VC3. -/
def handoffAnswer (s : State) (k : Packet) (accepted : Bool) (st : Status) : State :=
  newFlow (emit s (.relayed k.smod 3 6 (leBytes 4 k.flow ++ [BitVec.ofNat 8 (bit accepted), BitVec.ofNat 8 (statusNumber st)])))
    k.smod 3 3 64 .reply

/-- The slot a handoff arrives in: the one its flow fills, or that of the same request before a new flow. -/
def arrivingSlot (s : State) (k : Packet) (p : Nat) (tr : Tracker) : Option Nat :=
  (s.slots.find? fun e => e.2.st == .admitting && e.2.part == p &&
    (e.2.target == some (k.smod, k.flow) || (e.2.tag == tr.tag && e.2.ridx == tr.ridx && (e.2.target.map Prod.fst) == some k.smod))).map Prod.fst

/-- The resident versions a tracker binds: bundle and current program, and the adapter where it names one. -/
def trackerBinds (s : State) (p : Nat) (tr : Tracker) : Option (BundleEnt × Prog) :=
  let b := (versionsOf s p tr.args.bundle).find? fun e => e.img.version == tr.version && !e.poisoned && !e.loading
  let ok := match tr.adapter with
    | none => true
    | some a => (adaptersOf s p).any fun x => x.bundle == tr.args.bundle && x.id == a.1 && x.version == a.2 && !x.loading && !x.poisoned
  match b with
  | none => none
  | some e =>
    match currentProg s p e.ctx tr.args.bundle tr.version with
    | some g => if ok then some (e, g) else none
    | none => none

/-- Whether this partition's dies hold a sender's KV code table in the same slot and generation (R333). -/
def codeHeld (s : State) (p slot gen : Nat) : Bool :=
  (diesOf (partOf s p)).all fun d => let c := codeSlotOf s d slot; c.loaded && c.gen == gen

/-- The answer to a tracker (R333): the pages may come in stored form, or with BAD_STATE and its record decoded. -/
def handoffCheck (s : State) (k : Packet) (p : Nat) (tr : Tracker) : State :=
  if codeHeld s p tr.kvSlot tr.kvGen then handoffAnswer s k true .accepted
  else handoffAnswer (pushErr s .kvHandoff { status := .badState, part := p, detail := [k.smod, tr.kvSlot, tr.kvGen] }) k true .badState

/-- The request as a handoff brings it. -/
def trackerSlot (s : State) (k : Packet) (p : Nat) (tr : Tracker) (e : BundleEnt) (g : Prog) (n : Nat) : Slot :=
  let a := tr.args
  { Slot.init with
    st := .admitting, part := p, ctx := e.ctx, lc := tr.lc, admits := ((slotOf s n).admits + 1) % 2 ^ 32, tag := tr.tag,
    origin := originNum (modNum s) (.relay tr.front), ring := tr.ring.val, ridx := tr.ridx, bundle := a.bundle, bver := tr.version,
    pver := g.version, adapter := tr.adapter, seeded := a.seeded, noPrefix := a.noPrefix, seed := tr.seed,
    substream := a.substream, temp := a.temp, topP := a.topP, topK := a.topK, spec := a.spec, stops := tr.stops,
    maxNew := a.maxNew, tokens := tr.tokens, nprompt := a.nprompt, filled := tr.tokens.length - 1,
    delivered := tr.tokens.length - a.nprompt, ttft := a.ttft, itl := a.itl, accTime := nowNs s, admTime := nowNs s,
    lastWrite := nowNs s, key := tr.key, target := some (k.smod, k.flow),
    reserved := if tr.lc then ceilDiv (a.nprompt + a.maxNew + 16) 64 - tr.sets else 0 }

/-- Whether a request that arrives finds its pages: a BE request leaves every reservation, an LC request has its own; nothing is
pre-empted for a handoff (R331, Table 14-4). -/
def arrivalRoom (s : State) (p : Nat) (tr : Tracker) (ver : Nat) : Bool :=
  let own := tr.lc && (promisedTo s p).any fun y => y.2.tag == tr.tag && y.2.ridx == tr.ridx
  let is := List.range (if tr.lc then ceilDiv (tr.args.nprompt + tr.args.maxNew + 16) 64 else tr.sets)
  if own then (poolNeeds s p ver (List.range tr.sets)).all fun x => decide (x.2 ≤ poolFree s p x.1) else (shortIn s p ver is).isEmpty

/-- Allocate the page sets of a request that arrives. -/
def allocSets (p : Nat) (pls : List Place) (n : Nat) : List Nat → State → Option (State × List (List Nat))
  | [], s => some (s, [])
  | i :: r, s =>
    (allocSet s p pls i n).bind fun a => (allocSets p pls n r a.1).map fun b => (b.1, a.2 :: b.2)

/-- The tracker of a handoff: admitted to a slot and its code table checked, refused by an answer, or quenched with
NO_RESOURCE. -/
def handoffFirst (s : State) (k : Packet) (p : Nat) (tr : Tracker) : State × Option Nat :=
  if (partOf s p).role == .cache then
    let s1 := pushErr s .srvRole { status := .notPermitted, part := p, detail := [k.smod] }
    (stopRx (handoffAnswer s1 k false .notPermitted) k.smod k.flow, none)
  else match trackerBinds s p tr with
    | none =>
      let s1 := pushErr s .kvHandoff { status := .badState, part := p, detail := [k.smod, tr.args.bundle, tr.version] }
      (stopRx (handoffAnswer s1 k false .badState) k.smod k.flow, none)
    | some (e, g) =>
      match freeSlot s p with
      | none => (s, some 2)
      | some n =>
        match (if arrivalRoom s p tr g.version then allocSets p g.img.placement n (List.range tr.sets) s else none) with
        | none => (s, some 2)
        | some (s1, sets) =>
          (handoffCheck (setSlot (trackedBy s1 n) n { trackerSlot s k p tr e g n with sets := sets }) k p tr, none)

/-- The last packet of a handoff: its whole pages are SEALED, its last one is open, DECODE, and the answer. -/
def handoffLast (s : State) (k : Packet) (n : Nat) (code : Option Nat) : State :=
  let x := slotOf s n
  let whole := x.filled / 64
  let s1 := sealPages s x.part (x.sets.take whole).flatten fun _ => code
  let s2 := modPart s1 x.part fun q => (x.sets.drop whole).flatten.foldl (fun q k => modPage q k fun g => { g with ntok := x.filled % 64 }) q
  refreshAdm (handoffAnswer (modSlot s2 n fun x => { x with st := .decode, target := none }) k true .ok) x.part

/-- HANDOFF packet of a flow, in order (R332, R333): a message of 64 bytes or less brings the tracker, a longer one the pages of a
slot that took it. -/
def handoffIn (s : State) (k : Packet) (p : Nat) (tr : Tracker) : State × Option Nat :=
  match arrivingSlot s k p tr with
  | none => if k.first && decide (k.mlen ≤ 64) then handoffFirst s k p tr else (s, some 1)
  | some n =>
    let s1 := modSlot s n fun x => { x with target := some (k.smod, k.flow) }
    if k.mlen ≤ 64 then (handoffCheck s1 k p tr, none)
    else
      let s2 := pageData s1 p (slotOf s1 n).sets.flatten k
      (if k.lastp then handoffLast s2 k n (if k.stored then some (tr.kvSlot + 16 * tr.kvGen) else none) else s2, none)

/-! ### Page copies arriving (R334, R356) -/

/-- The slots that wait for a block, with the set it is. -/
def waitersOf (s : State) (p h : Nat) : List (Nat × Nat) :=
  (slotsOf s p).filterMap fun n => (awaitsBlock (slotOf s n) h).map fun i => (n, i)

/-- A set of this partition whose pages lie here, by its chain hash. -/
def setHere (s : State) (p h : Nat) : Option PNode :=
  (partOf s p).nodes.find? fun nd => nd.hash == h && !nd.pages.isEmpty && nd.pages.all fun g =>
    (pageOf (partOf s p) g).st == .sealed || (pageOf (partOf s p) g).st == .sealing

/-- A request for a set (R334): it is offered, and counts as served; NO_RESOURCE when it is gone. -/
def pageAsk (s : State) (k : Packet) (p h : Nat) : State × Option Nat :=
  match setHere s p h with
  | none => (s, some 2)
  | some nd =>
    let seen (m : PNode) : PNode := if m == nd then { m with matched := nowNs s } else m
    (newFlow (modPart s p fun q => { q with nodes := q.nodes.map seen }) k.smod 3 4 (16 * nd.pages.length) .reply, none)

/-- The receiver of an offer has answered (R333): the set's pages go, in stored form or decoded; a copy to a requester holds each
page until it ends (R345, R356), and one whose references could not rise is not made. -/
def pageServe (s : State) (k : Packet) (p h : Nat) (raw : Bool) : State × Option Nat :=
  match setHere s p h with
  | none => (s, some 2)
  | some nd =>
    let size (g : Nat) : Nat := if raw then pageBlocks s p * 2048 else swapBytes s p (partOf s p).poolMeta g - 20
    let bytes := (nd.pages.map size).sum
    if (nd.remote.map Prod.fst) == some k.smod then (newFlow s k.smod 3 4 bytes (.spill p h true), none)
    else if nd.pages.any fun g => decide (65535 ≤ (pageOf (partOf s p) g).refs) then (s, some 2)
    else
      let s1 := modPart s p fun q => nd.pages.foldl (fun q g => modPage q g fun x => { x with refs := x.refs + 1 }) q
      (newFlow s1 k.smod 3 4 bytes (.serve p h), none)

/-- Pages for a set that a CACHE partition takes, by the layer and KV head of each: from its pools in order, evicting the least
recently served set while none has room. -/
def cachePages (p : Nat) : Nat → List (Nat × Nat × Nat) → State → Option (State × List Nat)
  | 0, _, _ => none
  | _, [], s => some (s, [])
  | f + 1, d :: ds, s =>
    match (poolsOf s p).findSome? fun k => allocPage s p k d.2.1 d.2.2 0 with
    | some (s1, g) => (cachePages p f ds (modPart s1 p fun q => modPage q g fun x => { x with writer := none })).map fun r => (r.1, g :: r.2)
    | none =>
      match evictChoice s p fun nd => nd.pages.all fun g => decide ((pageOf (partOf s p) g).refs ≤ 1) with
      | some nd => cachePages p f (d :: ds) (removeNode s p nd)
      | none => none

/-- The answer to an offer (R333): the pages may come in stored form, or with BAD_STATE and its record decoded. -/
def offerCheck (s : State) (k : Packet) (p h : Nat) (pages : List (Nat × Nat × Nat)) : State :=
  let ok := pages.all fun d => codeHeld s p (d.1 % 16) (d.1 / 16)
  let s1 := if ok then s else pushErr s .kvHandoff { status := .badState, part := p, detail := [k.smod, (pages.headD (0, 0, 0)).1] }
  let op := if (partOf s p).role == .cache then .reply else .page p h
  newFlow (emit s1 (.relayed k.smod 3 4 [BitVec.ofNat 8 (bit ok)])) k.smod 3 4 16 op

/-- An offer of a set: a CACHE partition makes room for it, another partition takes it where a slot waits for it (R334, R356). -/
def offerIn (s : State) (k : Packet) (p h : Nat) (pages : List (Nat × Nat × Nat)) : State × Option Nat :=
  if (partOf s p).role != .cache then
    if (waitersOf s p h).isEmpty then (s, some 1) else (offerCheck s k p h pages, none)
  else if (partOf s p).nodes.any fun nd => nd.hash == h then (offerCheck s k p h pages, none)
  else match cachePages p 65536 pages s with
    | none => (s, some 2)
    | some (s1, ks) =>
      let s2 := modPart s1 p fun q =>
        let q := ks.foldl (fun q g => modPage q g fun x => { x with tree := true }) q
        { q with nodes := q.nodes ++ [⟨h, [], ks, none, 0, nowNs s, none⟩] }
      (offerCheck s2 k p h pages, none)

/-- The pages a copy fills: those a CACHE partition made room for, those its flow already holds, or new ones at its first
packet. -/
def copyPages (s : State) (k : Packet) (p h : Nat) : Option (State × List Nat) :=
  let ks := (rxOf s k.smod k.flow).keys
  if (partOf s p).role == .cache then ((partOf s p).nodes.find? fun nd => nd.hash == h).map fun nd => (s, nd.pages)
  else if !ks.isEmpty then some (s, ks)
  else (waitersOf s p h).head?.bind fun w => allocSet s p (placesOf s p (slotOf s w.1).pver) w.2 w.1

/-- A copy is whole (R333, R334, R356): a CACHE partition keeps it as a set with REFS 1; elsewhere the slots that wait take it. -/
def copyWhole (s : State) (p h : Nat) (ks : List Nat) (stored : Bool) : State :=
  if (partOf s p).role == .cache then sealPages s p ks (hdrCode s p)
  else match waitersOf s p h with
    | [] => modPart s p fun q => ks.foldl dropRef q
    | w :: ws =>
      let s1 := sealPages s p ks fun _ => if stored then some (kvCode s (slotOf s w.1)) else none
      let s2 := modPart s1 p fun q => ks.foldl (fun q g => modPage q g fun x => { x with refs := x.refs + ws.length }) q
      (w :: ws).foldl (fun s e => modSlot s e.1 fun x => { x with sets := x.sets.take e.2 ++ ks :: x.sets.drop (e.2 + 1) }) s2

/-- A packet of a set's pages, in order. -/
def pageCopy (s : State) (k : Packet) (p h : Nat) : State × Option Nat :=
  match copyPages s k p h with
  | none => (if (partOf s p).role == .cache then s else copyFails s p h false, some 2)
  | some (s1, ks) =>
    let s2 := pageData (setRx s1 { rxOf s1 k.smod k.flow with keys := ks }) p ks k
    (if k.lastp then copyWhole (setRx s2 { rxOf s2 k.smod k.flow with keys := [] }) p h ks k.stored else s2, none)

/-- PAGE packet of a flow, in order (R333, R334, R356). -/
def pageIn (s : State) (k : Packet) (p h : Nat) : PageMsg → State × Option Nat
  | .data => pageCopy s k p h
  | .ask => pageAsk s k p h
  | .offer pages => offerIn s k p h pages
  | .go => pageServe s k p h false
  | .raw => pageServe s k p h true

/-! ### WEIGHT (R470) -/

/-- Keep a peer's copy of a block with its repair (R470): its stored form, or raw bytes packet by packet. -/
def keepCopy (s : State) (k : Packet) (b : Nat) : State :=
  let put (r : Repair) : Repair :=
    if r.block ≠ b ∨ r.source ≠ 1 then r
    else if k.stored then { r with copy := (storedBlocks 1 k.data).head? }
    else
      let old := (r.copy.map Prod.snd).getD []
      { r with copy := some (0xFF, old.take k.moff ++ List.replicate (k.moff - old.length) 0 ++ k.data ++ old.drop (k.moff + k.data.length)) }
  { s with ras := { s.ras with repairs := s.ras.repairs.map put } }

/-- Whether this module can serve a peer's block (R470): a resident shared bundle of that id, version and digest holds it, and
it reads whole. -/
def canServe (s : State) (a : Nat × Nat × Nat) (b : Nat) : Bool :=
  !isPoisoned s b && (bundleEnts s).any fun e =>
    e.valid && e.img.shared && e.img.id == a.1 && e.img.version == a.2.1 && e.digest == a.2.2 &&
      e.img.tensors.any fun t => decide (t.dest ≤ b) && decide (b < t.dest + t.blocks.length)

/-- WEIGHT packet (R470): a request is served in stored form or answered NO_RESOURCE; data go to the repair that asked. -/
def weightIn (s : State) (k : Packet) (ask : Option (Nat × Nat × Nat)) (b : Nat) : State × Option Nat :=
  match ask with
  | some a => if canServe s a b then (newFlow s k.smod 3 5 (storedBytes s b) .reply, none) else (s, some 2)
  | none =>
    if !(s.ras.repairs.any fun r => r.block == b && r.source == 1) then (s, some 1)
    else (keepCopy s k b, none)

/-! ### RELAY (R400, R401) -/

/-- A descriptor of a relayed function is taken here as a local one is (R400, R416). -/
def relayCommand (s : State) (m : Nat) (x : Src) (cmd : Nat) : State :=
  let y : Src := { x with front := some (Fin.ofNat 64 m) }
  if !cmdKnown cmd then refuseUnknown s y cmd else
  let t : Taken := ⟨srcFn y, y.part.val, srcNum y, y.ridx, y.tag, cmd, nextJSeq s y.part.val, nowNs s⟩
  let s1 := journal s (jsrcOf s y cmd) 0 .accepted 0
  { s1 with hif := { s1.hif with taken := s1.hif.taken ++ [t] } }

/-- RELAY packet from module `m` (R400, R401). -/
def relayIn (s : State) (m : Nat) (b : RelayBody) : State :=
  match b with
  | .access off width none =>
    let (s1, v) := readReg s (.relay (Fin.ofNat 64 m)) off width
    sendVc0 s1 m 2 [off, v]
  | .access off width (some v) => regWrite (.relay (Fin.ofNat 64 m)) 0 off width v s
  | .reply off v =>
    match s.lnk.relays.find? fun r => r.module == m && r.off == off with
    | none => s
    | some r => emit { s with lnk := { s.lnk with relays := s.lnk.relays.erase r } } (.reply r.who off (.data (v % 2 ^ (8 * r.width))))
  | .command x cmd => relayCommand s m x cmd
  | .mboxReply f c => if (fnOf s f).mbxBusy then mbxAnswer s f c else s
  | .completion p c => postCmdCpl s p c
  | .token p r =>
    if (partOf s p).rhold.isEmpty && ringRoom s p 4 then outPut s p r
    else noteFull (modPart s p fun q => { q with rhold := q.rhold ++ [r] }) p

/-! ### Delivery in flow order (R435) -/

/-- What one packet delivers, and the reason its flow is quenched for. -/
def deliverPkt (s : State) (k : Packet) (b : PktBody) : State × Option Nat :=
  match b with
  | .send v =>
    let r := sendIn s k
    (if r.2.isNone && v then vectorIn r.1 k sparseForm else r.1, r.2)
  | .expert route =>
    let r := sendIn s k
    (if r.2.isNone then expertIn r.1 k route else r.1, r.2)
  | .relay b => (relayIn s k.smod b, none)
  | .handoff p tr => handoffIn s k p tr
  | .page p h m => pageIn s k p h m
  | .weight q b => weightIn s k q b

/-- Deliver the next packet of a flow, then those that came ahead of it. -/
def deliverRun : Nat → State → Packet → PktBody → State
  | 0, s, _, _ => s
  | f + 1, s, k, b =>
    let r := rxOf s k.smod k.flow
    let since := if r.unacked = 0 then nowNs s else r.since
    let s1 := setRx s { r with next := r.next + 1, unacked := r.unacked + 1, since := since }
    match deliverPkt s1 k b with
    | (s2, some why) => quenchRx s2 k.smod k.flow why
    | (s2, none) =>
      let q := rxOf s2 k.smod k.flow
      let s3 := if 64 ≤ q.unacked then sendAck s2 k.smod k.flow else s2
      match q.ahead.find? fun e => e.1.pseq == q.next with
      | some e =>
        let left := q.ahead.filter fun a => a.1.pseq != q.next
        deliverRun f (setRx s3 { rxOf s3 k.smod k.flow with ahead := left }) e.1 e.2
      | none => s3

/-- Take a packet of a flow: a duplicate is discarded, one ahead of its turn is kept (R435). -/
def rxTake (s : State) (k : Packet) (b : PktBody) : State :=
  let r := rxOf s k.smod k.flow
  if r.quenched then modPort s k.port.val fun x => { x with quenchDrop := satAdd 16 x.quenchDrop 1 }
  else if k.pseq < r.next then setRx s { r with unacked := r.unacked + 1, since := if r.unacked = 0 then nowNs s else r.since }
  else if r.next < k.pseq then
    if r.ahead.any fun e => e.1.pseq == k.pseq then s else setRx s { r with ahead := r.ahead ++ [(k, b)] }
  else deliverRun (r.ahead.length + 1) s k b

/-- A packet at a port: the checks of Table 18-6, then forwarding, the CRC, and delivery (R433 to R437, R439). -/
def packetIn (s : State) (k : Packet) (b : PktBody) : State :=
  let p := k.port.val
  let st := (portOf s p).st
  let n := k.data.length
  if !(st == .up || (st == .sleep && k.vc.val == 0)) then s
  else if !kindVc b k.vc.val || !(groupMods s).contains k.dmod then linkReset s p .kindVc
  else if n = 0 || decide (3872 < n) || (k.vc.val == 0 && decide (212 < n)) then linkReset s p .length
  else if k.dmod ≠ s.lnk.modNum then pumpFlows (passOn s ⟨k, bodyKind b, flitsOf n⟩)
  else
    let s1 := freeRx s p k.vc (flitsOf n) k.clsH
    if !k.crcOk then modPort s1 p fun x => { x with pktCrc := satAdd 16 x.pktCrc 1 }
    else if k.vc.val = 0 then (deliverPkt s1 k b).1
    else rxTake s1 k b

/-! ### The rows -/

/-- SEND_PACKET_RECEIVE (R203, R204, R435); `vec` says that the message carries a vector (R182). -/
def execSendPacketReceive (k : Packet) (vec : Bool) (s : State) : Res := .next (packetIn s k (.send vec))

/-- RELAY_PACKET_RECEIVE (R400, R401). -/
def execRelayPacketReceive (k : Packet) (b : RelayBody) (s : State) : Res := .next (packetIn s k (.relay b))

/-- HANDOFF_PACKET_RECEIVE (R332, R333). -/
def execHandoffPacketReceive (k : Packet) (p : Fin 8) (tr : Tracker) (s : State) : Res := .next (packetIn s k (.handoff p.val tr))

/-- PAGE_PACKET_RECEIVE (R333, R334, R356). -/
def execPagePacketReceive (k : Packet) (p : Fin 8) (hash : Nat) (s : State) (msg : PageMsg := .data) : Res :=
  .next (packetIn s k (.page p.val hash msg))

/-- WEIGHT_PACKET_RECEIVE (R470). -/
def execWeightPacketReceive (k : Packet) (ask : Option (Nat × Nat × Nat)) (block : Nat) (s : State) : Res :=
  .next (packetIn s k (.weight ask block))

/-- EXPERT_PACKET_RECEIVE (R182, R305): activation records, or with `route` a route record. -/
def execExpertPacketReceive (k : Packet) (route : Bool) (s : State) : Res := .next (packetIn s k (.expert route))

/-- The flow that carried a slot's handoff is over. -/
def dropHandoff (s : State) (n : Nat) : State :=
  { s with lnk := { s.lnk with tx := s.lnk.tx.filter fun f => f.op != .handoff n } }

/-- HANDOFF_ACK_RECEIVE (R332, R333): the tracker accepted with ACCEPTED, the pages go in stored form, with BAD_STATE decoded; the
whole accepted, the slot is CLOSING and frees its pages, and the decoding module posts its FINAL. A missing version ends the request
with BAD_STATE; any other refusal tries the next permitted partition. -/
def execHandoffAckReceive (slot : Fin 65536) (accepted : Bool) (st : Status) (s : State) : Res :=
  let n := slot.val
  let x := slotOf s n
  if x.st != .handoff then .next s
  else
    let s1 := dropHandoff s n
    match accepted, st with
    | true, .accepted => .next (handoffPages s1 n false)
    | true, .badState => .next (handoffPages s1 n true)
    | true, _ =>
      let s2 := modSlot (releasePages s1 n) n fun x => { x with st := .closing, endSt := .ok, finDone := true }
      .next (refreshAdm s2 x.part)
    | false, .badState => .next (closeSlot s1 n 5 .badState)
    | false, _ => .next (handoffTry s1 n)

end Sys2Proof.Machine
end

