-- ==== Sys2Proof/Machine/Repair.lean ====
section
/-! DEFINITION. Repair of poisoned W blocks: its sources in order, and how it ends (R470, R472). -/

namespace Sys2Proof.Machine

/-- The bundle entries whose tensors hold a block, and those that name such a bundle as base. -/
def holders (s : State) (b : Nat) : List BundleEnt :=
  let bs := (s.cmp.bundles.filterMap Prod.snd).filter BundleEnt.valid
  let own := bs.filter fun e => e.img.tensors.any fun t => decide (t.dest ≤ b) && decide (b < t.dest + tensorBlocks t)
  own ++ bs.filter fun e => !own.contains e && own.any fun o => e.img.base == some (o.img.id, o.digest)

/-- The group modules to ask for a block: up to three reachable ones, nearest first and ties to the lower number (R470). -/
def peersFor (s : State) : List Nat :=
  (((groupMods s).filter fun m => m != s.lnk.modNum && (routeOf s m).reachable).mergeSort fun x y =>
    decide (hopsTo s x < hopsTo s y) || (hopsTo s x == hopsTo s y && decide (x ≤ y))).take 3

/-- Put a change into the repair of a block. -/
def modRepair (s : State) (b : Nat) (f : Repair → Repair) : State :=
  { s with ras := { s.ras with repairs := s.ras.repairs.map fun r => if r.block = b then f r else r } }

/-- Ask peer `k` of those a block has, one at a time (R470). -/
def askPeer (s : State) (b k : Nat) : State :=
  match (peersFor s)[k]? with
  | some m => newFlow (modRepair s b fun r => { r with asked := k + 1, copy := none }) m 3 5 64 (.weight b)
  | none => s

/-- The source after `n` when `k` peers of a block have been asked: peers serve SHARED bundles only, and each is asked in
its turn; 3 when none is left (R470). -/
def nextSource (s : State) (b n k : Nat) : Nat :=
  let shared := (holders s b).any fun e => e.img.shared
  if n ≤ 1 then (if shared && decide (k < (peersFor s).length) then 1 else 2) else 3

/-- The other copy of a block under MIRROR (R299): its mirror, or for a block of a mirror its primary. -/
def twinOf (s : State) (b : Nat) : Option Nat :=
  ((bundleEnts s).flatMap (mirrorRuns s)).findSome? fun r =>
    let (x, y, n) := r
    if x ≤ b ∧ b < x + n then some (y + (b - x)) else if y ≤ b ∧ b < y + n then some (x + (b - y)) else none

/-- The stored form of a block: its length byte, and its 2,048 bytes or those the byte counts (R277). -/
def storedOf (s : State) (b : Nat) : Nat × List Byte :=
  let l := lenOf s b
  (l, memRead s (b * 2048) (if l = 0xFF then 2048 else (l + 1) * 8))

/-- The tensor a block belongs to, itself or through its twin. -/
def tensorAt (s : State) (b : Nat) : Option Tensor :=
  let has (b : Nat) : Option Tensor := (bundleEnts s).findSome? fun e => e.img.tensors.find? fun t =>
    decide (t.dest ≤ b) && decide (b < t.dest + t.blocks.length)
  match has b with
  | some t => some t
  | none => (twinOf s b).bind has

/-- Whether a copy is accepted (R470): it decodes under R278 and passes R56. -/
def copyGood (s : State) (b : Nat) (c : Nat × List Byte) : Bool :=
  match tensorAt s b with
  | none => c.1 == 0xFF && c.2.length == 2048
  | some t =>
    let d := match regionAt s (b * 2048) with
      | some n => (regionOf s n).die
      | none => 0
    match storedData s d t c with
    | none => false
    | some bs => t.fmt != 6 || bs.all fun x => decide (x.toNat ≤ 242)

/-- The copy a source offers: the twin that is neither withdrawn nor poisoned, what a peer's packets brought, or the bytes
the host's memory gave. -/
def copyFrom (s : State) (b source : Nat) (host : Option (Nat × List Byte)) : Option (Nat × List Byte) :=
  match source with
  | 0 => (twinOf s b).bind fun t => if isGone s t || isPoisoned s t then none else some (storedOf s t)
  | 1 => ((s.ras.repairs.find? fun r => r.block == b).bind Repair.copy)
  | _ => host

/-- Write all 32 lines of a block, then its length byte (R470); bytes past the stored length keep what they hold. -/
def rewriteBlock (s : State) (b : Nat) (c : Nat × List Byte) : State :=
  let old := memRead s (b * 2048) 2048
  setLen (memWrite s (b * 2048) (old.zipIdx.map fun e => c.2.getD e.2 e.1)) b c.1

/-- A block is whole again: REPAIR names the source, composition resumes; a poisoned twin is repaired from it (R472), unless it
is a withdrawn copy (R299). -/
def repairedBy (s : State) (b source : Nat) (c : Nat × List Byte) : State :=
  let unitOf (b : Nat) : UnitId := match regionAt s (b * 2048) with
    | some n => chanUnit (chanOf s n (b * 2048))
    | none => noUnit
  let done (s : State) (b : Nat) : State :=
    endRepair (pushErr (rewriteBlock s b c) .repair { unit := unitOf b, block := some (b * 2048), detail := [source] }) b
  let s1 := done s b
  match twinOf s1 b with
  | some t => if (s1.ras.repairs.any fun r => r.block == t) && !isGone s1 t then done s1 t else s1
  | none => s1

/-- Every source failed (R470): REPAIR_FAIL; the versions that hold the block are poisoned and their requests end. -/
def repairLost (s : State) (b : Nat) : State :=
  let u := match regionAt s (b * 2048) with
    | some n => chanUnit (chanOf s n (b * 2048))
    | none => noUnit
  let hs := holders s b
  let s1 := pushErr s .repairFail { status := .poisoned, unit := u, block := some (b * 2048), detail := [b] }
  let bs := s1.cmp.bundles.map fun e => (e.1, e.2.map fun x => if hs.contains x then { x with poisoned := true } else x)
  let s2 := { s1 with cmp := { s1.cmp with bundles := bs } }
  let lost := (s2.slots.filter fun e => e.2.st != .free && hs.any fun x =>
    x.part == e.2.part && x.img.id == e.2.bundle && x.img.version == e.2.bver).map Prod.fst
  endRepair (closeSlots s2 lost .poisoned) b

/-- Read a block from the bundle image in host memory, at the offset its tensor's DATA gives (R470). -/
def askHost (s : State) (b : Nat) : State :=
  let hit := (bundleEnts s).findSome? fun e => e.img.tensors.findSome? fun t =>
    let run (b : Nat) : Option (BundleEnt × Nat) :=
      if t.dest ≤ b ∧ b < t.dest + t.blocks.length then some (e, t.data + (b - t.dest)) else none
    (run b).or ((twinOf s b).bind run)
  match hit with
  | some (e, k) => emit s (.hostRead 0 (e.addr + e.img.dataAt + k * 2048) 2048)
  | none => s

/-- REPAIR_ATTEMPT_RESULT (R470): sources in order mirror, peers, host; `host` is the stored form read from the host's
image, none where the host has freed it. -/
def execRepairAttemptResult (block : Nat) (source : Fin 3) (host : Option (Nat × List Byte)) (s : State) : Res :=
  match s.ras.repairs.find? fun r => r.block == block && r.source == source.val with
  | none => .next s
  | some r =>
    match (copyFrom s block source.val host).filter (copyGood s block) with
    | some c => .next (repairedBy s block source.val c)
    | none =>
      let n := nextSource s block source.val r.asked
      if n < 3 then
        let s1 := modRepair s block fun r => { r with source := n, copy := none }
        .next (if n = 1 then askPeer s1 block r.asked else askHost s1 block)
      else .next (repairLost s block)

end Sys2Proof.Machine
end

