-- ==== Sys2Proof/Machine/Side.lean ====
section
/-! DEFINITION. Power domains, sideband inputs and the management port (chapter 23). -/

namespace Sys2Proof.Machine

/-- Count in SIDE_COUNT field `i` (Table 23-11). -/
def sideCountUp (s : State) (i : Nat) : State :=
  { s with side := { s.side with counts := tabMod s.side.counts i 0 fun n => satAdd 16 n 1 } }

/-- PWR_EN_ASSERT (R526, R527): the main domain powers, PWR_GOOD asserts, the control island leaves reset; a THROTTLE_N that
the standby domain's filter holds asserted is a cause from then on (R514). -/
def execPwrEnAssert (s : State) : Res :=
  if !s.side.standby then .next s
  else if s.side.mainOn then .next { s with side := { s.side with pwrEn := true } }
  else
    let s1 := powerLoss s
    .next { s1 with side := { s1.side with mainOn := true, pwrEn := true, throttle := s1.side.thrPin } }

/-- PWR_EN_DEASSERT (R526, R527): main power goes with no orderly work. -/
def execPwrEnDeassert (s : State) : Res :=
  let s1 := if s.side.mainOn then powerLoss s else s
  .next { s1 with side := { s1.side with pwrEn := false } }

/-- STANDBY_POWER_UP (R526): the standby domain is live. -/
def execStandbyPowerUp (s : State) : Res := .next { s with side := { s.side with standby := true } }

/-- The number of an input in a record (Table 19-18). -/
def sideNum : SideInput → Nat
  | .pwrEn => 0 | .perst => 1 | .throttle => 2 | .gsync => 3 | .modId => 4 | .mgmt => 5

/-- The counter of an input's glitches; inputs without a filter have none (Tables 23-7, 23-11). -/
def glitchCount : SideInput → Option Nat
  | .perst => some 0 | .pwrEn => some 1 | .throttle => some 2 | .gsync => some 4 | .modId | .mgmt => none

/-- SIDE_INPUT_GLITCH (R533): counted, with at most one record per input per second. -/
def execSideInputGlitch (i : SideInput) (s : State) : Res :=
  match s.side.mainOn, glitchCount i with
  | true, some c =>
    let s1 := sideCountUp s c
    let last := tabGet s.side.glitchAt (sideNum i) 0
    if last ≠ 0 ∧ nowNs s < last - 1 + 1000000000 then .next s1
    else
      let s2 := { s1 with side := { s1.side with glitchAt := tabSet s1.side.glitchAt (sideNum i) (nowNs s + 1) 0 } }
      .next (pushErr s2 .sideGlitch { detail := [sideNum i] })
  | _, _ => .next s

/-- PERST_STUCK_TIMEOUT (Table 23-7): asserted for more than 10 s, one record. -/
def execPerstStuckTimeout (s : State) : Res :=
  if s.side.mainOn && s.side.perst && !s.side.perstStuck && decide (s.side.perstAt + 10000000000 < nowNs s) then
    .next (pushErr { s with side := { s.side with perstStuck := true } } .sideStuck { detail := [1] })
  else .next s

/-- PERST_DEASSERT (R537, R484): WAKE_N is released and the link may train. -/
def execPerstDeassert (s : State) : Res :=
  .next { s with side := { s.side with perst := false, perstStuck := false } }

/-! ### GSYNC (R535, R449) -/

/-- SOURCE without GSYNC: 0b10 in a group, 0b00 outside one. -/
def sourceNoGsync (s : State) : Nat := if s.lnk.topo = 0 then 0 else 2

/-- Note one expected edge, arrived or missing, and lose the lock when more than 100 of the last 1,000 are missing. -/
def gsyncExpect (s : State) (arrived : Bool) : State :=
  let l := s.side.gsyncLast ++ [arrived]
  let l := l.drop (l.length - 1000)
  let s1 := { s with side := { s.side with gsyncLast := l } }
  if s.side.gsyncLock && decide (100 < (l.filter (!·)).length) then
    let src := sourceNoGsync s
    let s2 := { s1 with side := { s1.side with gsyncLock := false, gsyncRun := 0, gsyncLast := [] },
                        tmb := { s1.tmb with source := src, ratePpb := if src = 0 then 0 else s1.tmb.ratePpb,
                                             locked := if src = 0 then false else s1.tmb.locked } }
    pushErr s2 .gsyncFallback { detail := [3, src] }
  else s1

/-- GSYNC_EDGE (R535, R449): `offset` is the edge's time less its expected time, in ns. -/
def execGsyncEdge (offset : Int) (s : State) : Res :=
  if !s.side.mainOn then .next s
  else if offset < -5000 ∨ 5000 < offset then
    let s1 := sideCountUp s 4
    .next { s1 with side := { s1.side with gsyncRun := 0 } }
  else
    let run := s.side.gsyncRun + 1
    let s1 := gsyncExpect { s with side := { s.side with gsyncRun := run } } true
    if s1.side.gsyncLock then .next (discipline s1 1 (-offset))
    else if 1000 ≤ run then
      let s2 := { s1 with side := { s1.side with gsyncLock := true, gsyncLast := [] } }
      .next (pushErr (discipline s2 1 (-offset)) .gsyncLock { detail := [3, 1] })
    else .next s1

/-- GSYNC_MISSING (R535). -/
def execGsyncMissing (s : State) : Res :=
  if !s.side.mainOn then .next s
  else
    let s1 := sideCountUp s 5
    .next (gsyncExpect { s1 with side := { s1.side with gsyncRun := 0 } } false)

/-! ### MOD_ID (R536) -/

/-- The value four consecutive further samples agree on, at the first place they do. -/
def fourAgree : List (BitVec 6) → Option (BitVec 6)
  | a :: b :: c :: d :: r => if a = b ∧ b = c ∧ c = d then some a else fourAgree (b :: c :: d :: r)
  | _ => none

/-- Bit by bit majority of samples, a tie giving 1. -/
def majority (l : List (BitVec 6)) : Nat :=
  maskOf 6 fun i => decide (l.length ≤ 2 * (l.filter fun v => v.getLsbD i).length)

/-- Take a MOD_ID. -/
def takeModId (s : State) (v pins : Nat) : State :=
  { s with side := { s.side with modId := v, modPins := pins, sampled := true }, lnk := { s.lnk with modNum := v } }

/-- MODID_SAMPLE (R536): the 8 first samples agree, or 4 further ones do, or the majority of all 18 is taken. -/
def execModidSample (first further : List (BitVec 6)) (s : State) : Res :=
  let pins := ((first ++ further).getLast?.getD 0).toNat
  if !s.side.mainOn || s.side.sampled || first.length != 8 then .next s
  else if first.all (· == first.getD 0 0) then .next (takeModId s (first.getD 0 0).toNat pins)
  else match fourAgree (further.take 10) with
    | some v => .next (takeModId s v.toNat pins)
    | none =>
      if further.length < 10 then .next s
      else
        let v := majority (first ++ further.take 10)
        .next (pushErr (takeModId s v pins) .sideModid { detail := [4, v, pins, 1] })

/-- MODID_PIN_CHANGE (R536): counted and recorded; the value holds. -/
def execModidPinChange (pins : BitVec 6) (s : State) : Res :=
  let s1 := { s with side := { s.side with modPins := pins.toNat } }
  if !s.side.mainOn || !s.side.sampled then .next s1
  else .next (pushErr (sideCountUp s1 6) .sideModid { detail := [4, s.side.modId, pins.toNat, 0] })

/-! ### The management port (R538, R539) -/

/-- I3C_DAA (R538). -/
def execI3cDaa (addr : BitVec 7) (s : State) : Res :=
  if !s.side.mainOn then .next s
  else .next { s with side := { s.side with dynAddr := addr.toNat, assigned := true } }

/-- MCTP_PACKET (R500, R538): the request reaches the SPDM responder of the MCTP transport. -/
def execMctpPacket (q : Spdm) (s : State) : Res := if !s.side.mainOn then .next s else .next (spdmAsk s .mctp q)

/-- An MGMT_REFUSED record (Table 19-18). -/
def mgmtRefused (s : State) (byte off : Nat) : State :=
  pushErr s .mgmtRefused { status := .notPermitted, detail := [5, byte, 0, off] }

/-- Whether management reads reach an offset: GLB, PWR, TMB, RAS, SEC, LOG, SIDE. -/
def mgmtReads (off : Nat) : Bool := [0, 1, 2, 9, 0xA, 0xB, 0xC].contains (off / 0x10000)

/-- MGMT_READ (R539). -/
def execMgmtRead (off : Nat) (s : State) : Res :=
  if !s.side.mainOn then .next s
  else if mgmtReads off then
    let (s1, v) := readReg s .mgmt off 8
    .next (emit s1 (.mgmt (leBytes 8 v)))
  else .next (mgmtRefused s 0xA0 off)

/-- Write one LIVE field through a register: out of range it is ignored with HIF_FIELD (R6, R485). -/
def liveField (s : State) (f : Fld) (v : Nat) : State :=
  match fldRange s f v with
  | some (st, c) => pushErr s c { status := st, detail := [(fldPos f).off] }
  | none => fldSet s f v

/-- The ledger entry of a register write. -/
def writeLedger (s : State) (o : Origin) (off width old v : Nat) : State :=
  ledger s o { obj := 0, width := width, target := off, old := old, new := v }

/-- MGMT_WRITE (R539): 8 bytes at an offset; only the listed registers take them. -/
def execMgmtWrite (off value : Nat) (s : State) : Res :=
  let v := value % 2 ^ 32
  let old := ((regAt s off).map Reg.val).getD 0 % 2 ^ 32
  if !s.side.mainOn then .next s
  else if s.boot.st = .recovery ∧ 0x10000 ≤ off ∧ [0x10020, 0xA0010, 0xA0018, 0xB0008, 0xC0008].contains off then .next s
  else match off with
    | 0x10020 =>
      let s1 := if v.testBit 0 then sleepAsk s .mgmt else s
      .next (if v.testBit 1 then wakeAsk s1 .mgmt else if v % 4 = 0 then writeLedger s1 .mgmt off 8 old v else s1)
    | 0x28 => .next (liveField (writeLedger s .mgmt off 8 old v) .imgLen (v % 2 ^ 25))
    | 0x30 =>
      let s1 := writeLedger s .mgmt off 8 old v
      .next (if v.testBit 0 then imgWrite s1 .mgmt (.inr (stagedImg s)) else s1)
    | 0x40 => .next (if v.testBit 0 then fwAct s .mgmt else writeLedger s .mgmt off 8 old v)
    | 0xA0010 => .next (if v.testBit 0 then commitGo s .mgmt else writeLedger s .mgmt off 8 old v)
    | 0xA0018 => .next (if v.testBit 3 then revokeGo s .mgmt (v % 8) else writeLedger s .mgmt off 8 old v)
    | 0xB0008 => .next { s with log := { s.log with ledgerSel := value % 2 ^ 64 } }
    | 0xC0008 =>
      .next (liveField (liveField (writeLedger s .mgmt off 8 old v) .stuckS (v % 256)) .holdMs (v / 256 % 256))
    | _ =>
      let s1 := ledger s .mgmt { obj := 0, act := 5, status := .notPermitted, width := 8, target := off, new := value % 2 ^ 64 }
      .next (mgmtRefused s1 0xA1 off)

/-- MGMT_IMAGE_DATA (R539, Table 23-8): bytes into the staging area, refused during a GO from this port. -/
def execMgmtImageData (off : Nat) (data : List Byte) (s : State) : Res :=
  if !s.side.mainOn then .next s
  else if (s.boot.imgSt = 1 && s.boot.byMgmt) || data.isEmpty || decide (240 < data.length) ||
      decide (24 * 2 ^ 20 < off + data.length) then .next (mgmtRefused s 0xA2 off)
  else .next { s with boot := { s.boot with staging := s.boot.staging.writeRun off data } }

/-- MGMT_BAD_BYTE (R538): NACKed and counted. -/
def execMgmtBadByte (b : Byte) (s : State) : Res :=
  if !s.side.mainOn || b == 0x01 || (decide (0xA0 ≤ b.toNat) && decide (b.toNat ≤ 0xA2)) then .next s
  else .next (emit (sideCountUp s 7) (.reply .mgmt 0 .nack))

end Sys2Proof.Machine
end

