-- ==== Sys2Proof/Machine/Wake.lean ====
section
/-! DEFINITION. The end of a sleep's entry and of a wake (R447, R486, R516 to R519). -/

namespace Sys2Proof.Machine

/-- Save a partition's running context in full before its dies lose power (R516): it reads SAVED. -/
def saveRunning (s : State) (p : Nat) : State :=
  let x := partOf s p
  if (ctxOf x x.running).st != .running then s
  else
    let ts := tilesOf s p
    let img := ts.map fun t => (t, saveTile (tileOf s t))
    modPart (ts.foldl (fun s t => modTile s t fun y => { fencedTile y with st := .saved }) s) p fun q =>
      modCtx q q.running fun c => { c with st := .saved, betweenSteps := true, image := img }

/-- SLEEP_ENTERED (R516): running contexts are saved, compute dies and XD1-XD3 are off, ports keep one lane and VC0;
a wake source that came during the entry begins the wake at once (R519). -/
def execSleepEntered (s : State) : Res :=
  if s.pwr.sleep ≠ .entering then .next s
  else
    let s2 := ((List.range 16) ++ [17, 18, 19]).foldl powerDown (forParts s saveRunning)
    let ports := s2.lnk.ports.map fun e => (e.1, if e.2.st == .up then { e.2 with st := PortSt.sleep, width := 0 } else e.2)
    let s3 := { s2 with lnk := { s2.lnk with ports := ports } }
    let s4 := pushErr { s3 with pwr := { s3.pwr with sleep := .asleep } } .sleepEnter {}
    match s.pwr.wakePend with
    | none => .next s4
    | some w => .next (wakeUp s4 w)

/-- Put a QUIESCE value that waited for the wake in force (R485). -/
def applyParked (s : State) (e : Nat × Nat × Nat × Nat) : State :=
  match fldFor e.1 e.2.1 e.2.2.2 with
  | some f => fldSet s f (fldNew s f e.1 e.2.2.1 e.2.2.2)
  | none => s

/-- Dies of a module that a wake powers: those not fenced, and XD1 to XD3. -/
def wakeDies (s : State) : List Nat := ((List.range 16).filter fun d => !isFenced s (dieUnit d)) ++ [17, 18, 19]

/-- A partition after the wake: its running context's image is back, at a step boundary. -/
def contextBack (s : State) (p : Nat) : State :=
  let c := ctxOf (partOf s p) (partOf s p).running
  if c.st != .saved then s
  else
    let s1 := (c.image.filter fun e => !isFenced s (tileUnit e.1)).foldl (fun s e => modTile s e.1 (restoredTile false e.2)) s
    modPart s1 p fun x => modCtx x x.running fun c => { c with st := .running, betweenSteps := false, image := [] }

/-- WAKE_COMPLETE (R517): dies, stacks and ports are back, contexts RUNNING, STATE reads AWAKE, staged values apply. -/
def execWakeComplete (s : State) : Res :=
  if s.pwr.sleep ≠ .waking then .next s
  else
    let s1 := (wakeDies s).foldl powerUp s
    let s2 := { s1 with lnk := { s1.lnk with ports := s1.lnk.ports.map fun e => (e.1, portAwake e.2) } }
    let s3 := forParts s2 contextBack
    let s4 := { s3 with pwr := { s3.pwr with sleep := .awake, wakePend := none, parked := [] } }
    let s5 := s.pwr.parked.foldl applyParked s4
    .next (refreshRoutes (forParts s5 fun s p => applyStaged s p 0))

end Sys2Proof.Machine
end

