-- ==== Sys2Proof/Machine/Dispatch.lean ====
section
/-! DEFINITION. One arm per command of the table: each calls its own meaning. -/

namespace Sys2Proof.Machine

def exec (i : Instr) (s : State) : Host.Outcome State Fault Refusal :=
  match i with
  | .paceWindowEnd die turns => Sys2Proof.Machine.execPaceWindowEnd die turns s
  | .paceLowClear p => Sys2Proof.Machine.execPaceLowClear p s
  | .voltageSettled die => Sys2Proof.Machine.execVoltageSettled die s
  | .timeWord => Sys2Proof.Machine.execTimeWord s
  | .tmbNowLowRead rd => Sys2Proof.Machine.execTmbNowLowRead rd s
  | .tbuild t rs a => Sys2Proof.Machine.execTbuild t rs a s
  | .tbuildComplete t err => Sys2Proof.Machine.execTbuildComplete t s err
  | .tlook t rs a => Sys2Proof.Machine.execTlook t rs a s
  | .tlookRowEntry t err st => Sys2Proof.Machine.execTlookRowEntry t err s st
  | .tlookRetire t => Sys2Proof.Machine.execTlookRetire t s
  | .drain t rs a err => Sys2Proof.Machine.execDrain t rs a err s
  | .drainRetire t err => Sys2Proof.Machine.execDrainRetire t s err
  | .attnQk t rs a => Sys2Proof.Machine.execAttnQk t rs a s
  | .keyJoin t tag parity err => Sys2Proof.Machine.execKeyJoin t tag parity s err
  | .attnQkRetire t tag => Sys2Proof.Machine.execAttnQkRetire t tag s
  | .attnSoftInit t rs rows addr gang => Sys2Proof.Machine.execAttnSoftInit t rs rows addr gang s
  | .attnSoftBlock t rs rows sbuf => Sys2Proof.Machine.execAttnSoftBlock t rs rows sbuf s
  | .attnSoftExport t rs rows addr => Sys2Proof.Machine.execAttnSoftExport t rs rows addr s
  | .attnPv t rs a => Sys2Proof.Machine.execAttnPv t rs a s
  | .attnPvRetire t tag parity err => Sys2Proof.Machine.execAttnPvRetire t tag parity s err
  | .aeFeedTimeout t tag => Sys2Proof.Machine.execAeFeedTimeout t tag s
  | .vecOp t rs a => Sys2Proof.Machine.execVecOp t rs a s
  | .vecXred t rs a => Sys2Proof.Machine.execVecXred t rs a s
  | .vecRed t rs a => Sys2Proof.Machine.execVecRed t rs a s
  | .vecMerge t rs a => Sys2Proof.Machine.execVecMerge t rs a s
  | .vecNorm t rs a => Sys2Proof.Machine.execVecNorm t rs a s
  | .vecRope t rs a => Sys2Proof.Machine.execVecRope t rs a s
  | .vecQuant t rs a => Sys2Proof.Machine.execVecQuant t rs a s
  | .vecTopk t rs a => Sys2Proof.Machine.execVecTopk t rs a s
  | .vecSample t rs a => Sys2Proof.Machine.execVecSample t rs a s
  | .vecRetire t parity err => Sys2Proof.Machine.execVecRetire t parity s err
  | .vecRedTimeout t => Sys2Proof.Machine.execVecRedTimeout t s
  | .rngDraw t rs a => Sys2Proof.Machine.execRngDraw t rs a s
  | .bandSelect t rs a => Sys2Proof.Machine.execBandSelect t rs a s
  | .bandApply t rs a => Sys2Proof.Machine.execBandApply t rs a s
  | .bandGroupVerdict t peers writer => Sys2Proof.Machine.execBandGroupVerdict t peers writer s
  | .bandAudit t rs a => Sys2Proof.Machine.execBandAudit t rs a s
  | .strictLayerVerdict p step layer set => Sys2Proof.Machine.execStrictLayerVerdict p step layer set s
  | .bandVerdictTimeout t => Sys2Proof.Machine.execBandVerdictTimeout t s
  | .moveLoad t rs a => Sys2Proof.Machine.execMoveLoad t rs a s
  | .moveStore t rs a => Sys2Proof.Machine.execMoveStore t rs a s
  | .movePut t rs a => Sys2Proof.Machine.execMovePut t rs a s
  | .moveGet t rs a => Sys2Proof.Machine.execMoveGet t rs a s
  | .moveSend t rs a => Sys2Proof.Machine.execMoveSend t rs a s
  | .moveRetire t tag err lines => Sys2Proof.Machine.execMoveRetire t tag s err lines
  | .cacheFillArrive t tag line errs => Sys2Proof.Machine.execCacheFillArrive t tag line errs s
  | .winOpen t a rs => Sys2Proof.Machine.execWinOpen t a s rs
  | .winClose t id rs => Sys2Proof.Machine.execWinClose t id s rs
  | .winCloseRetire t id => Sys2Proof.Machine.execWinCloseRetire t id s
  | .putArrive t src writer gran data => Sys2Proof.Machine.execPutArrive t src writer gran data s
  | .getArrive t src reader gran len => Sys2Proof.Machine.execGetArrive t src reader gran len s
  | .dieSendArrive t writer gran data vec route => Sys2Proof.Machine.execDieSendArrive t writer gran data vec s route
  | .arrivalTimeout t => Sys2Proof.Machine.execArrivalTimeout t s
  | .syncWait t rs blocks => Sys2Proof.Machine.execSyncWait t rs blocks s
  | .syncBar t rs blocks bar => Sys2Proof.Machine.execSyncBar t rs blocks bar s
  | .barrierRelease t bar => Sys2Proof.Machine.execBarrierRelease t bar s
  | .syncTimeout t bar => Sys2Proof.Machine.execSyncTimeout t bar s
  | .syncEnd t rs => Sys2Proof.Machine.execSyncEnd t rs s
  | .endNotice t => Sys2Proof.Machine.execEndNotice t s
  | .stageLoad t secoff nm1 first rs => Sys2Proof.Machine.execStageLoad t secoff nm1 first s rs
  | .stageLoop t target cntr stepr stride rs => Sys2Proof.Machine.execStageLoop t target cntr stepr stride s rs
  | .issueLimit t => Sys2Proof.Machine.execIssueLimit t s
  | .abandonNotice t => Sys2Proof.Machine.execAbandonNotice t s
  | .stepAbandonComplete p => Sys2Proof.Machine.execStepAbandonComplete p s
  | .pbPrefetchDone t errs => Sys2Proof.Machine.execPbPrefetchDone t errs s
  | .pbPrefetchTimeout t => Sys2Proof.Machine.execPbPrefetchTimeout t s
  | .switchStopNotice t => Sys2Proof.Machine.execSwitchStopNotice t s
  | .stepBoundary p => Sys2Proof.Machine.execStepBoundary p s
  | .stepCompose p => Sys2Proof.Machine.execStepCompose p s
  | .slotRelease slot => Sys2Proof.Machine.execSlotRelease slot s
  | .handoffRetryTimer slot => Sys2Proof.Machine.execHandoffRetryTimer slot s
  | .swapRecordWritten p page => Sys2Proof.Machine.execSwapRecordWritten p page s
  | .readmit slot => Sys2Proof.Machine.execReadmit slot s
  | .restorePage slot data => Sys2Proof.Machine.execRestorePage slot data s
  | .lengthByteArrive d e l => Sys2Proof.Machine.execLengthByteArrive d e l s
  | .blockDecode d e l errs => Sys2Proof.Machine.execBlockDecode d e l errs s
  | .blockForward d e l => Sys2Proof.Machine.execBlockForward d e l s
  | .bandListArrive d e layer group set copies => Sys2Proof.Machine.execBandListArrive d e layer group set copies s
  | .expListTimeout d e l => Sys2Proof.Machine.execExpListTimeout d e l s
  | .tlookFeedTimeout t => Sys2Proof.Machine.execTlookFeedTimeout t s
  | .sealComplete p page => Sys2Proof.Machine.execSealComplete p page s
  | .memoryAccess a => Sys2Proof.Machine.execMemoryAccess a s
  | .patrolScrubStep ch line err => Sys2Proof.Machine.execPatrolScrubStep ch line err s
  | .migrationBucketDone ch spread bucket poisoned => Sys2Proof.Machine.execMigrationBucketDone ch spread bucket poisoned s
  | .migrationEnd ch => Sys2Proof.Machine.execMigrationEnd ch s
  | .loadBundle x addr len b => Sys2Proof.Machine.execLoadBundle x addr len b s
  | .bundleCommit p => Sys2Proof.Machine.execBundleCommit p s
  | .loadProgram x addr len bundle pr => Sys2Proof.Machine.execLoadProgram x addr len bundle pr s
  | .unloadBundle x bundle => Sys2Proof.Machine.execUnloadBundle x bundle s
  | .unloadProgram x bundle => Sys2Proof.Machine.execUnloadProgram x bundle s
  | .loadAdapter x addr len a => Sys2Proof.Machine.execLoadAdapter x addr len a s
  | .adapterCommit p adapter => Sys2Proof.Machine.execAdapterCommit p adapter s
  | .deleteAdapter x bundle adapter => Sys2Proof.Machine.execDeleteAdapter x bundle adapter s
  | .loadCode x die slot rec => Sys2Proof.Machine.execLoadCode x die slot rec s
  | .sliceExpiry p => Sys2Proof.Machine.execSliceExpiry p s
  | .contextSwitch p => Sys2Proof.Machine.execContextSwitch p s
  | .switchQuiesceDone p => Sys2Proof.Machine.execSwitchQuiesceDone p s
  | .switchSaveDone p => Sys2Proof.Machine.execSwitchSaveDone p s
  | .switchRestoreDone p => Sys2Proof.Machine.execSwitchRestoreDone p s
  | .quiesceTimeout p => Sys2Proof.Machine.execQuiesceTimeout p s
  | .readmission p => Sys2Proof.Machine.execReadmission p s
  | .linkTrained speed width flit => Sys2Proof.Machine.execLinkTrained speed width flit s
  | .hostLinkReset perst => Sys2Proof.Machine.execHostLinkReset perst s
  | .vfFlr k => Sys2Proof.Machine.execVfFlr k s
  | .pf0Flr => Sys2Proof.Machine.execPf0Flr s
  | .vfEnableClear => Sys2Proof.Machine.execVfEnableClear s
  | .bar4Access off len data ep errs => Sys2Proof.Machine.execBar4Access off len data ep errs s
  | .tlpError fn unsupported => Sys2Proof.Machine.execTlpError fn unsupported s
  | .doorbellWrite fn p r value => Sys2Proof.Machine.execDoorbellWrite fn p r value s
  | .pauseEnd fn => Sys2Proof.Machine.execPauseEnd fn s
  | .ringFetch p r descs => Sys2Proof.Machine.execRingFetch p r descs s
  | .dmaReadComplete why bad => Sys2Proof.Machine.execDmaReadComplete why bad s
  | .outputBatchWrite p r => Sys2Proof.Machine.execOutputBatchWrite p r s
  | .msixModerationTimer p r => Sys2Proof.Machine.execMsixModerationTimer p r s
  | .mbxDbWrite fn value width => Sys2Proof.Machine.execMbxDbWrite fn value width s
  | .relayAccess rd off width value => Sys2Proof.Machine.execRelayAccess rd off width value s
  | .relayTimeout module => Sys2Proof.Machine.execRelayTimeout module s
  | .registerWrite o bar off width value => Sys2Proof.Machine.execRegisterWrite o bar off width value s
  | .submit x a blk => Sys2Proof.Machine.execSubmit x a blk s
  | .speculate x tree => Sys2Proof.Machine.execSpeculate x tree s
  | .cancel x => Sys2Proof.Machine.execCancel x s
  | .cancelAll x => Sys2Proof.Machine.execCancelAll x s
  | .ringAttach x ring log2 base wb start modCount modTime => Sys2Proof.Machine.execRingAttach x ring log2 base wb start modCount modTime s
  | .ringAttachKeep x ring log2 base wb modCount modTime => Sys2Proof.Machine.execRingAttachKeep x ring log2 base wb modCount modTime s
  | .ringDetach x ring => Sys2Proof.Machine.execRingDetach x ring s
  | .ringPause x ring => Sys2Proof.Machine.execRingPause x ring s
  | .ringResume x ring => Sys2Proof.Machine.execRingResume x ring s
  | .config x off width value mask => Sys2Proof.Machine.execConfig x off width value mask s
  | .contextCreate x => Sys2Proof.Machine.execContextCreate x s
  | .contextDelete x => Sys2Proof.Machine.execContextDelete x s
  | .swapArea x addr size => Sys2Proof.Machine.execSwapArea x addr size s
  | .swapAreaUnregister x => Sys2Proof.Machine.execSwapAreaUnregister x s
  | .readJournal x count start addr => Sys2Proof.Machine.execReadJournal x count start addr s
  | .readLedger x count start addr => Sys2Proof.Machine.execReadLedger x count start addr s
  | .readDlq x count addr => Sys2Proof.Machine.execReadDlq x count addr s
  | .readStepRecords x count start addr => Sys2Proof.Machine.execReadStepRecords x count start addr s
  | .readErrors x count start addr => Sys2Proof.Machine.execReadErrors x count start addr s
  | .dlqAck x n => Sys2Proof.Machine.execDlqAck x n s
  | .journalWrite p n => Sys2Proof.Machine.execJournalWrite p n s
  | .ledgerSelWrite o seq => Sys2Proof.Machine.execLedgerSelWrite o seq s
  | .flitReceive p f => Sys2Proof.Machine.execFlitReceive p f s
  | .nakReceive p seq => Sys2Proof.Machine.execNakReceive p seq s
  | .identReceive p module peerPort group topo => Sys2Proof.Machine.execIdentReceive p module peerPort group topo s
  | .fenceReceive p => Sys2Proof.Machine.execFenceReceive p s
  | .sendPacketReceive k vec => Sys2Proof.Machine.execSendPacketReceive k vec s
  | .relayPacketReceive k b => Sys2Proof.Machine.execRelayPacketReceive k b s
  | .handoffPacketReceive k p tr => Sys2Proof.Machine.execHandoffPacketReceive k p tr s
  | .handoffAckReceive slot accepted st => Sys2Proof.Machine.execHandoffAckReceive slot accepted st s
  | .pagePacketReceive k p hash msg => Sys2Proof.Machine.execPagePacketReceive k p hash s msg
  | .weightPacketReceive k ask block => Sys2Proof.Machine.execWeightPacketReceive k ask block s
  | .expertPacketReceive k route => Sys2Proof.Machine.execExpertPacketReceive k route s
  | .ackReceive flow pseq => Sys2Proof.Machine.execAckReceive flow pseq s
  | .ackTimer smod flow => Sys2Proof.Machine.execAckTimer smod flow s
  | .resendTimer flow pseq => Sys2Proof.Machine.execResendTimer flow pseq s
  | .quenchReceive flow why => Sys2Proof.Machine.execQuenchReceive flow why s
  | .timeExchange => Sys2Proof.Machine.execTimeExchange s
  | .timeReceive peer hops t1 t2 t3 t4 => Sys2Proof.Machine.execTimeReceive peer hops t1 t2 t3 t4 s
  | .routeReceive dst reachable => Sys2Proof.Machine.execRouteReceive dst reachable s
  | .wakeMessage peer => Sys2Proof.Machine.execWakeMessage peer s
  | .laneErrorWindow p lane corrected symbols => Sys2Proof.Machine.execLaneErrorWindow p lane corrected symbols s
  | .laneDrop p lane => Sys2Proof.Machine.execLaneDrop p lane s
  | .portDown p => Sys2Proof.Machine.execPortDown p s
  | .retrainAttempt p trained => Sys2Proof.Machine.execRetrainAttempt p trained s
  | .lnkRetrainWrite o p => Sys2Proof.Machine.execLnkRetrainWrite o p s
  | .linkLayerReset p why => Sys2Proof.Machine.execLinkLayerReset p why s
  | .stopTimeout p => Sys2Proof.Machine.execStopTimeout p s
  | .masterTimeout => Sys2Proof.Machine.execMasterTimeout s
  | .sleepPacketTimeout flow => Sys2Proof.Machine.execSleepPacketTimeout flow s
  | .errorRecordWrite n => Sys2Proof.Machine.execErrorRecordWrite n s
  | .countAgeOut u => Sys2Proof.Machine.execCountAgeOut u s
  | .ceRateHour u count => Sys2Proof.Machine.execCeRateHour u count s
  | .suspectTimeout u => Sys2Proof.Machine.execSuspectTimeout u s
  | .ftRotation => Sys2Proof.Machine.execFtRotation s
  | .ftOverdue t => Sys2Proof.Machine.execFtOverdue t s
  | .testGapOpen p t => Sys2Proof.Machine.execTestGapOpen p t s
  | .ftSessionDone t tileOk badRows expOk => Sys2Proof.Machine.execFtSessionDone t tileOk badRows expOk s
  | .channelTestDone ch found stuck => Sys2Proof.Machine.execChannelTestDone ch found stuck s
  | .coreTestDone u pass => Sys2Proof.Machine.execCoreTestDone u pass s
  | .unitFence u => Sys2Proof.Machine.execUnitFence u s
  | .rebalanceDone u => Sys2Proof.Machine.execRebalanceDone u s
  | .fenceListWrite => Sys2Proof.Machine.execFenceListWrite s
  | .rasUnfenceGo o u => Sys2Proof.Machine.execRasUnfenceGo o u s
  | .repairAttemptResult block source host => Sys2Proof.Machine.execRepairAttemptResult block source host s
  | .edgeLinkTimeout d dir parity => Sys2Proof.Machine.execEdgeLinkTimeout d dir s parity
  | .coreWatchdog xd core inSo => Sys2Proof.Machine.execCoreWatchdog xd core inSo s
  | .bootRomStart fast => Sys2Proof.Machine.execBootRomStart fast s
  | .modidSample first further => Sys2Proof.Machine.execModidSample first further s
  | .imageVerified => Sys2Proof.Machine.execImageVerified s
  | .stacksTrained failed => Sys2Proof.Machine.execStacksTrained failed s
  | .firmwareRun => Sys2Proof.Machine.execFirmwareRun s
  | .runTimeout => Sys2Proof.Machine.execRunTimeout s
  | .imgWriteGo o img => Sys2Proof.Machine.execImgWriteGo o img s
  | .imageWriteDone readBack => Sys2Proof.Machine.execImageWriteDone readBack s
  | .fwActGo o => Sys2Proof.Machine.execFwActGo o s
  | .fwLoadDone => Sys2Proof.Machine.execFwLoadDone s
  | .coreBankSwitch c => Sys2Proof.Machine.execCoreBankSwitch c s
  | .activationConfirm => Sys2Proof.Machine.execActivationConfirm s
  | .reboot o => Sys2Proof.Machine.execReboot o s
  | .secCommitGo o => Sys2Proof.Machine.execSecCommitGo o s
  | .secRevokeGo o k => Sys2Proof.Machine.execSecRevokeGo o k s
  | .fuseBlowDone good blown => Sys2Proof.Machine.execFuseBlowDone good blown s
  | .getVersion tr => Sys2Proof.Machine.execGetVersion tr s
  | .getCapabilities tr => Sys2Proof.Machine.execGetCapabilities tr s
  | .negotiateAlgorithms tr algOk => Sys2Proof.Machine.execNegotiateAlgorithms tr algOk s
  | .getDigests tr => Sys2Proof.Machine.execGetDigests tr s
  | .getCertificate tr slot => Sys2Proof.Machine.execGetCertificate tr slot s
  | .challenge tr slot nonce => Sys2Proof.Machine.execChallenge tr slot nonce s
  | .getMeasurements tr index nonce => Sys2Proof.Machine.execGetMeasurements tr index nonce s
  | .spdmUnsupported tr code => Sys2Proof.Machine.execSpdmUnsupported tr code s
  | .doeAbort tr => Sys2Proof.Machine.execDoeAbort tr s
  | .rngHealthFail => Sys2Proof.Machine.execRngHealthFail s
  | .jtagInstruction ir => Sys2Proof.Machine.execJtagInstruction ir s
  | .powerGrantTick mv ma10 p1 p10 dieW => Sys2Proof.Machine.execPowerGrantTick mv ma10 p1 p10 dieW s
  | .thermalVlimitTick die north south io => Sys2Proof.Machine.execThermalVlimitTick die north south io s
  | .sensorFail t => Sys2Proof.Machine.execSensorFail t s
  | .thermalTrip die => Sys2Proof.Machine.execThermalTrip die s
  | .throttleAssert => Sys2Proof.Machine.execThrottleAssert s
  | .throttleDeassert => Sys2Proof.Machine.execThrottleDeassert s
  | .throttleHoldEnd => Sys2Proof.Machine.execThrottleHoldEnd s
  | .throttleStuckTimer => Sys2Proof.Machine.execThrottleStuckTimer s
  | .supplyOutOfRange mv => Sys2Proof.Machine.execSupplyOutOfRange mv s
  | .supplyRestored mv => Sys2Proof.Machine.execSupplyRestored mv s
  | .supplyShutoff => Sys2Proof.Machine.execSupplyShutoff s
  | .sleepRequest o => Sys2Proof.Machine.execSleepRequest o s
  | .sleepEntered => Sys2Proof.Machine.execSleepEntered s
  | .wakeRequest o => Sys2Proof.Machine.execWakeRequest o s
  | .wakeComplete => Sys2Proof.Machine.execWakeComplete s
  | .scrubWake => Sys2Proof.Machine.execScrubWake s
  | .pwrEnAssert => Sys2Proof.Machine.execPwrEnAssert s
  | .pwrEnDeassert => Sys2Proof.Machine.execPwrEnDeassert s
  | .sideInputGlitch w => Sys2Proof.Machine.execSideInputGlitch w s
  | .perstStuckTimeout => Sys2Proof.Machine.execPerstStuckTimeout s
  | .gsyncEdge offsetNs => Sys2Proof.Machine.execGsyncEdge offsetNs s
  | .gsyncMissing => Sys2Proof.Machine.execGsyncMissing s
  | .modidPinChange pins => Sys2Proof.Machine.execModidPinChange pins s
  | .i3cDaa addr => Sys2Proof.Machine.execI3cDaa addr s
  | .mctpPacket req => Sys2Proof.Machine.execMctpPacket req s
  | .mgmtRead off => Sys2Proof.Machine.execMgmtRead off s
  | .mgmtWrite off value => Sys2Proof.Machine.execMgmtWrite off value s
  | .mgmtImageData off data => Sys2Proof.Machine.execMgmtImageData off data s
  | .mgmtBadByte b => Sys2Proof.Machine.execMgmtBadByte b s
  | .perstDeassert => Sys2Proof.Machine.execPerstDeassert s
  | .standbyPowerUp => Sys2Proof.Machine.execStandbyPowerUp s
  | .busMasterEnableChange fn on => Sys2Proof.Machine.execBusMasterEnableChange fn on s
  | .vfEnableSet n => Sys2Proof.Machine.execVfEnableSet n s
  | .attnSoftRetire t tag parity err => Sys2Proof.Machine.execAttnSoftRetire t tag s parity err
  | .rngDrawRetire t => Sys2Proof.Machine.execRngDrawRetire t s
  | .wideRegisterLowRead rd off => Sys2Proof.Machine.execWideRegisterLowRead rd off s
  | .rngHealthPass => Sys2Proof.Machine.execRngHealthPass s

end Sys2Proof.Machine
end

