-- ==== Sys2Proof/Safety.lean ====
section
/-! DEFINITION. What claims are stated in: a step that answers, a command that completes, memories in canonical form, an
instruction that issues and one that retires. -/

namespace Sys2Proof

open Machine

/-- Module memory and the staging area are in canonical form. -/
abbrev Safe (s : State) : Prop := s.mem.bytes.wf = true ∧ s.boot.staging.wf = true

/-- A step from a state is safe when it answers a next state. -/
def StepSafe (s : State) : Prop := ∃ t, step s = .next t

/-- The command answers a next state, of which a claim holds. -/
def Gives (c : Instr) (s : State) (claim : State → Prop) : Prop := ∃ t, exec c s = .next t ∧ claim t

/-- Tile `n` may issue its next instruction: it runs its partition's step and is below the issue limit (R227, R228). -/
abbrev MayIssue (s : State) (n : Nat) : Prop := canIssue s n = true ∧ (tileOf s n).issued < 2 ^ 24

/-- `i` is the instruction that tile `n`'s image holds next, none other is held at issue, and its constants stand (R50, R216,
R228). -/
abbrev Takes (s : State) (n : Nat) (i : Instr) : Prop := fetched s n i = true ∧ wordBad i = none

/-- The declared ranges `g` of a range set fit their fields, lie in scratch and pass the open windows (R206, R211, R218). -/
abbrev Ranged (s : State) (n : Nat) (rs : RangeSet) (g : List Rng) : Prop :=
  rangeWide (tileOf s n) rs = false ∧ rangesOf (tileOf s n) rs = some g ∧ winsAllow (tileOf s n) (awaitOf rs) g = true

/-- The declared ranges `g` stand, and nothing holds `op` (R228). -/
abbrev Placed (s : State) (n : Nat) (rs : RangeSet) (op : Op) (g : List Rng) : Prop :=
  Ranged s n rs g ∧ holdCause (tileOf s n) op g = 0

/-- The declared ranges `g` of a SYNC, WIN or STAGE stand, they conflict with nothing in flight, and the tile has room for
one more (R228). -/
abbrev Unheld (s : State) (n : Nat) (rs : RangeSet) (g : List Rng) : Prop :=
  Ranged s n rs g ∧ boardHold (tileOf s n) g = 0 ∧ issuedCount (tileOf s n) < 256

/-- One instruction of tile `n` has issued: the next index, one more issued, the last index (R224, R227). -/
abbrev Issued (s : State) (n : Nat) (u : State) : Prop :=
  (tileOf u n).pc = ((tileOf s n).pc + 1) % 16384 ∧ (tileOf u n).issued = (tileOf s n).issued + 1 ∧
    (tileOf u n).lastIdx = (tileOf s n).pc

/-- The instruction is in flight with its operation and ranges, its block has taken it as far as it may start, and it
has issued (R228, R229); an instruction that starts on a poisoned granule counts against the tile, which a fence may take
out of service (R189, R457). -/
abbrev Entered (s : State) (n : Nat) (rs : RangeSet) (op : Op) (g : List Rng) (u : State) : Prop :=
  u = settle (setTile s n (enter (tileOf s n) op g (awaitOf rs))) n ∧ ((tileOf s n).poison = [] → Issued s n u)

/-- No instruction of tile `n` with a tag is in flight. -/
abbrev Left (n tag : Nat) (u : State) : Prop := ∀ j ∈ (tileOf u n).inflight, j.tag ≠ tag

/-- Tile `n` has no abandonment notice and holds no poisoned granule (R189, R235). -/
abbrev Calm (s : State) (n : Nat) : Prop := (tileOf s n).noticed = false ∧ (tileOf s n).poison = []

/-- Instruction `i` of tile `n` is in flight, started and alone: nothing else is in flight there, and no abandonment notice has
come. -/
abbrev Alone (s : State) (n : Nat) (i : Infl) : Prop :=
  (tileOf s n).inflight = [i] ∧ i.started = true ∧ (tileOf s n).st = .run ∧ (tileOf s n).waitBlocks = none ∧
    (tileOf s n).noticed = false

/-- Tile `n` belongs to partition `p`, which executes step `e`. -/
abbrev Runs (s : State) (n p : Nat) (e : Step) : Prop := partOfTile s n = some p ∧ (partOf s p).exec = some e

/-- One record with this code and these detail fields joins the error record writer's queue, and nothing leaves it
(R452). -/
def Recorded (s u : State) (c : RecCode) (d : List Nat) : Prop :=
  ∃ e, u.log.errQueue = s.log.errQueue ++ [e] ∧ e.code = c ∧ e.detail = d

/-- Function `f` as its reset leaves it (Table 16-3): the rings it had are DETACHED, its mailbox idle, every vector masked and
none pending, bus mastering clear. -/
def FnDown (s u : State) (f : Nat) : Prop :=
  (∀ q ∈ fnRings s f, (ringOf u q.1 q.2).st = .detached) ∧ (fnOf u f).mbxBusy = false ∧ (fnOf u f).mbxDone = false ∧
    (fnOf u f).mbxResp = none ∧ (fnOf u f).masked = Fn.init.masked ∧ (fnOf u f).pba = [] ∧ (fnOf u f).bme = false

/-- The record writer's queue takes every record (R470). -/
abbrev QueueOpen (s : State) : Prop := s.log.errQueue.length < 4096

/-- Of the fault state and the functions, only what the record writer touches when its queue is full or a status follows a
record: ALERT and pending bits of vectors (R12, R453, R455). -/
def WriterOnly (s u : State) : Prop :=
  { u.ras with alert := s.ras.alert } = s.ras ∧ { u.hif with fns := s.hif.fns } = s.hif ∧
    ∀ k, { fnOf u k with pba := (fnOf s k).pba } = fnOf s k

/-- The executing step `e` of partition `p` is being abandoned: the first cause stands, and every tile of the partition
has the notice (R235, R236). -/
def Abandons (p : Nat) (e : Step) (cause : Abandon) (u : State) : Prop :=
  ∃ f, (partOf u p).exec = some f ∧ f.num = e.num ∧ f.why.isSome = true ∧ (e.why = none → f.why = some cause) ∧
    ∀ t ∈ tilesOf u p, (tileOf u t).abandonOn = true

/-- Abandoned to run again once, for a cause that no declared event brings (R24, R106). -/
def toRerun (again : Option Status) : Abandon := ⟨.ok, 0, true, again, false, 0, none, false, false⟩

/-- Likewise, after a wait in vain: the step's requests are told at once (R24, R208). -/
def toRetell : Abandon := { toRerun none with tell := true }

/-- The newest queued journal entry of the command's partition says that this command COMPLETED with status OK (R416). -/
def Completed (x : Src) (cmd : Nat) (u : State) : Prop :=
  ∃ e, (journalOf u x.part).queue.getLast? = some e ∧ e.kind = 2 ∧ e.status = .ok ∧ e.tag = x.tag ∧ e.cmd = cmd

/-- The newest ledger entry has this OBJ, target and status (R420). -/
def Ledgered (obj target : Nat) (st : Status) (u : State) : Prop :=
  ∃ e, u.log.ledger.getLast? = some e ∧ e.obj = obj ∧ e.target = target ∧ e.status = st

/-- The tile whose instruction a command issues (Table 9-2). -/
def issuesOn (c : Instr) : Option (Fin 1024) :=
  match c with
  | .tbuild t .. | .tlook t .. | .drain t .. | .attnQk t .. | .attnSoftInit t .. | .attnSoftBlock t .. | .attnSoftExport t ..
  | .moveSend t .. | .attnPv t .. | .vecOp t .. | .vecXred t .. | .vecRed t .. | .vecMerge t .. | .vecNorm t .. | .vecRope t .. | .vecQuant t ..
  | .vecTopk t .. | .vecSample t .. | .rngDraw t .. | .bandSelect t .. | .bandApply t .. | .bandAudit t .. | .moveLoad t ..
  | .moveStore t .. | .movePut t .. | .moveGet t .. | .winOpen t .. | .winClose t .. | .syncWait t .. | .syncBar t ..
  | .syncEnd t .. | .stageLoad t .. | .stageLoop t .. => some t
  | _ => none

/-- Commands that only read or answer, and those that move a ring between its states. -/
def quiet (c : Instr) : Bool :=
  match c with
  | .tmbNowLowRead .. | .ringAttach .. | .ringAttachKeep .. | .ringDetach .. | .ringPause .. | .ringResume .. | .readJournal ..
  | .readLedger .. | .readDlq .. | .readStepRecords .. | .readErrors .. | .getVersion .. | .getCapabilities ..
  | .negotiateAlgorithms .. | .getDigests .. | .getCertificate .. | .challenge .. | .getMeasurements .. | .spdmUnsupported ..
  | .doeAbort .. | .mctpPacket .. | .ledgerSelWrite .. | .rngHealthFail | .rngHealthPass | .jtagInstruction .. => true
  | _ => false

/-- The blocks of the state, as the register map groups them (Table 24-1), with the tiles, the partitions' serving state, the
requests and the expanders' lanes. -/
inductive Block where
  | tmb | pwr | tiles | mem | exps | cmp | parts | slots | hif | log | lnk | ras | boot | sec | side
  deriving DecidableEq, Repr

/-- The blocks that a command may change: those its rules name, and those that the records, notices and fences it may bring
about reach. Every other block it leaves as it was. -/
def mayChange (c : Instr) : List Block :=
  match c with
  | .paceWindowEnd .. | .patrolScrubStep .. | .ftSessionDone .. =>
    [.pwr, .tiles, .mem, .cmp, .parts, .slots, .hif, .log, .lnk, .ras]
  | .paceLowClear .. => [.parts, .hif, .log, .ras]
  | .voltageSettled .. => [.pwr]
  | .timeWord | .tmbNowLowRead .. | .wideRegisterLowRead .. => [.tmb]
  | .tbuild .. | .tbuildComplete .. | .tlook .. | .tlookRowEntry .. | .tlookRetire .. | .drain .. | .drainRetire ..
  | .attnQk .. | .keyJoin .. | .attnQkRetire .. | .attnSoftInit .. | .attnSoftBlock .. | .attnSoftExport ..
  | .attnPv .. | .attnPvRetire .. | .aeFeedTimeout .. | .vecOp .. | .vecXred .. | .vecRed .. | .vecMerge ..
  | .vecNorm .. | .vecRope .. | .vecQuant .. | .vecTopk .. | .vecSample .. | .vecRetire .. | .rngDraw ..
  | .bandSelect .. | .bandApply .. | .bandAudit .. | .moveLoad .. | .moveStore .. | .movePut .. | .moveGet ..
  | .moveSend .. | .moveRetire .. | .cacheFillArrive .. | .winCloseRetire .. | .putArrive .. | .getArrive ..
  | .dieSendArrive .. | .syncWait .. | .syncBar .. | .syncTimeout .. | .syncEnd .. | .switchStopNotice ..
  | .expListTimeout .. | .tlookFeedTimeout .. | .memoryAccess .. | .migrationBucketDone .. | .bar4Access ..
  | .flitReceive .. | .nakReceive .. | .laneErrorWindow .. | .laneDrop .. | .portDown .. | .linkLayerReset ..
  | .stopTimeout .. | .ceRateHour .. | .suspectTimeout .. | .channelTestDone .. | .coreTestDone .. | .unitFence ..
  | .edgeLinkTimeout .. | .attnSoftRetire .. | .rngDrawRetire .. => [.tiles, .mem, .cmp, .parts, .slots, .hif, .log, .lnk, .ras]
  | .vecRedTimeout .. | .bandVerdictTimeout .. | .arrivalTimeout .. | .quiesceTimeout .. => [.tiles, .parts, .hif, .log, .ras]
  | .bandGroupVerdict .. | .blockDecode .. | .blockForward .. =>
    [.tiles, .mem, .exps, .cmp, .parts, .slots, .hif, .log, .lnk, .ras]
  | .strictLayerVerdict .. => [.tiles, .mem, .exps, .parts]
  | .winOpen .. | .winClose .. | .stageLoad .. | .stageLoop .. | .issueLimit .. => [.tiles, .cmp, .parts, .hif, .log, .ras]
  | .barrierRelease .. | .abandonNotice .. => [.tiles, .parts]
  | .endNotice .. | .sliceExpiry .. | .contextSwitch .. | .switchQuiesceDone .. => [.parts]
  | .stepAbandonComplete .. | .stepBoundary .. =>
    [.tiles, .mem, .exps, .cmp, .parts, .slots, .hif, .log, .lnk, .ras, .boot, .sec, .side]
  | .pbPrefetchDone .. | .pbPrefetchTimeout .. | .coreWatchdog .. =>
    [.tiles, .mem, .cmp, .parts, .slots, .hif, .log, .lnk, .ras, .boot, .sec]
  | .stepCompose .. | .switchRestoreDone .. => [.tiles, .mem, .exps, .cmp, .parts, .slots, .hif, .log, .lnk, .ras, .boot, .sec]
  | .slotRelease .. => [.mem, .cmp, .parts, .slots, .log]
  | .handoffRetryTimer .. => [.slots, .lnk]
  | .swapRecordWritten .. => [.parts, .slots]
  | .readmit .. | .readmission .. | .outputBatchWrite .. | .submit .. | .speculate .. | .cancel .. | .cancelAll ..
  | .ringAttach .. | .ringAttachKeep .. | .handoffAckReceive .. => [.parts, .slots, .hif, .log, .lnk, .ras]
  | .restorePage .. => [.mem, .parts, .slots, .hif, .log, .lnk, .ras]
  | .lengthByteArrive .. => [.exps]
  | .bandListArrive .. => [.tiles, .exps, .parts, .hif, .log, .ras]
  | .sealComplete .. => [.mem, .parts]
  | .migrationEnd .. => [.mem, .parts, .hif, .log, .ras]
  | .loadBundle .. | .loadProgram .. | .unloadBundle .. | .unloadProgram .. | .loadAdapter .. | .adapterCommit ..
  | .deleteAdapter .. => [.mem, .cmp, .parts, .hif, .log, .lnk, .ras]
  | .bundleCommit .. => [.mem, .cmp, .parts, .slots, .hif, .log, .lnk, .ras, .sec]
  | .loadCode .. => [.cmp, .parts, .hif, .log, .lnk, .ras]
  | .switchSaveDone .. => [.tiles, .exps, .parts]
  | .linkTrained .. | .tlpError .. | .errorRecordWrite .. | .ftOverdue .. => [.hif, .log, .ras]
  | .hostLinkReset .. => [.hif, .log, .side]
  | .vfFlr .. | .pf0Flr | .vfEnableClear | .busMasterEnableChange .. => [.hif, .log]
  | .doorbellWrite .. | .pauseEnd .. => [.pwr, .parts, .slots, .hif, .log, .lnk, .ras]
  | .ringFetch .. | .ringDetach .. | .ringPause .. | .ringResume .. | .contextCreate .. | .swapArea ..
  | .swapAreaUnregister .. | .readJournal .. | .readLedger .. | .readDlq .. | .readStepRecords .. | .readErrors ..
  | .dlqAck .. => [.parts, .hif, .log, .lnk, .ras]
  | .dmaReadComplete .. | .contextDelete .. | .repairAttemptResult .. => [.mem, .cmp, .parts, .slots, .hif, .log, .lnk, .ras]
  | .msixModerationTimer .. | .vfEnableSet .. => [.hif]
  | .mbxDbWrite .. => [.pwr, .parts, .hif, .log, .lnk, .ras]
  | .relayAccess .. | .relayTimeout .. => [.hif, .log, .lnk, .ras]
  | .registerWrite .. | .config .. =>
    [.pwr, .tiles, .mem, .exps, .cmp, .parts, .slots, .hif, .log, .lnk, .ras, .boot, .sec, .side]
  | .journalWrite .. | .ledgerSelWrite .. => [.log]
  | .identReceive .. | .fenceReceive .. | .resendTimer .. | .routeReceive .. | .lnkRetrainWrite ..
  | .sleepPacketTimeout .. => [.tiles, .parts, .slots, .hif, .log, .lnk, .ras]
  | .sendPacketReceive .. | .relayPacketReceive .. | .handoffPacketReceive .. | .pagePacketReceive ..
  | .weightPacketReceive .. | .expertPacketReceive .. | .thermalTrip .. | .supplyShutoff | .pwrEnAssert | .pwrEnDeassert =>
    [.tmb, .pwr, .tiles, .mem, .exps, .cmp, .parts, .slots, .hif, .log, .lnk, .ras, .boot, .sec, .side]
  | .ackReceive .. => [.parts, .lnk]
  | .ackTimer .. | .timeExchange | .retrainAttempt .. | .masterTimeout => [.lnk]
  | .quenchReceive .. => [.tiles, .cmp, .parts, .slots, .lnk]
  | .timeReceive .. => [.tmb, .log, .lnk]
  | .wakeMessage .. | .powerGrantTick .. | .thermalVlimitTick .. | .sensorFail .. | .supplyRestored ..
  | .wakeRequest .. | .scrubWake => [.pwr, .hif, .log, .ras]
  | .countAgeOut .. => [.ras]
  | .ftRotation | .testGapOpen .. => [.pwr, .tiles, .parts, .hif, .log, .ras]
  | .rebalanceDone .. => [.cmp, .parts, .slots, .hif, .log, .lnk, .ras]
  | .fenceListWrite => [.ras, .boot]
  | .rasUnfenceGo .. => [.tiles, .cmp, .parts, .slots, .hif, .log, .lnk, .ras]
  | .bootRomStart .. => [.pwr, .hif, .log, .ras, .boot, .sec]
  | .modidSample .. => [.hif, .log, .lnk, .ras, .side]
  | .imageVerified => [.pwr, .mem, .hif, .log, .ras, .boot, .sec]
  | .stacksTrained .. => [.pwr, .mem, .parts, .slots, .hif, .log, .lnk, .ras, .boot, .sec, .side]
  | .firmwareRun | .fwLoadDone => [.boot]
  | .runTimeout => [.pwr, .tiles, .mem, .exps, .cmp, .parts, .slots, .hif, .log, .lnk, .ras, .boot]
  | .imgWriteGo .. => [.mem, .hif, .log, .ras, .boot]
  | .imageWriteDone .. | .mgmtImageData .. => [.hif, .log, .ras, .boot]
  | .fwActGo .. => [.mem, .hif, .log, .ras, .boot, .sec]
  | .coreBankSwitch .. => [.mem, .parts, .hif, .log, .lnk, .ras, .boot, .sec, .side]
  | .activationConfirm => [.log, .boot, .sec]
  | .reboot .. => [.pwr, .tiles, .mem, .exps, .cmp, .parts, .slots, .hif, .log, .lnk, .ras, .boot, .sec]
  | .secCommitGo .. | .secRevokeGo .. | .negotiateAlgorithms .. | .spdmUnsupported .. | .rngHealthFail
  | .jtagInstruction .. | .mctpPacket .. => [.hif, .log, .ras, .sec]
  | .fuseBlowDone .. => [.hif, .log, .ras, .boot, .sec]
  | .getVersion .. | .getCapabilities .. | .getDigests .. | .getCertificate .. | .challenge .. | .getMeasurements .. =>
    [.log, .sec]
  | .doeAbort .. | .rngHealthPass => [.sec]
  | .throttleAssert | .throttleDeassert | .throttleHoldEnd => [.pwr, .parts, .slots, .hif, .log, .ras, .side]
  | .throttleStuckTimer | .sideInputGlitch .. | .perstStuckTimeout | .modidPinChange .. => [.hif, .log, .ras, .side]
  | .supplyOutOfRange .. => [.pwr, .parts, .slots, .hif, .log, .ras]
  | .sleepRequest .. => [.pwr, .log]
  | .sleepEntered => [.pwr, .tiles, .parts, .hif, .log, .lnk, .ras]
  | .wakeComplete => [.pwr, .tiles, .mem, .parts, .slots, .hif, .log, .lnk, .ras, .boot, .sec, .side]
  | .gsyncEdge .. | .gsyncMissing => [.tmb, .hif, .log, .ras, .side]
  | .i3cDaa .. | .mgmtBadByte .. | .perstDeassert | .standbyPowerUp => [.side]
  | .mgmtRead .. => [.tmb, .hif, .log, .ras]
  | .mgmtWrite .. => [.pwr, .mem, .parts, .hif, .log, .ras, .boot, .sec, .side]

/-- No block outside a list differs between two states. -/
def SameBut (l : List Block) (s u : State) : Prop :=
  (.tmb ∉ l → u.tmb = s.tmb) ∧ (.pwr ∉ l → u.pwr = s.pwr) ∧ (.tiles ∉ l → u.tiles = s.tiles) ∧ (.mem ∉ l → u.mem = s.mem) ∧
  (.exps ∉ l → u.exps = s.exps) ∧ (.cmp ∉ l → u.cmp = s.cmp) ∧ (.parts ∉ l → u.parts = s.parts) ∧
  (.slots ∉ l → u.slots = s.slots) ∧ (.hif ∉ l → u.hif = s.hif) ∧ (.log ∉ l → u.log = s.log) ∧ (.lnk ∉ l → u.lnk = s.lnk) ∧
  (.ras ∉ l → u.ras = s.ras) ∧ (.boot ∉ l → u.boot = s.boot) ∧ (.sec ∉ l → u.sec = s.sec) ∧ (.side ∉ l → u.side = s.side)

end Sys2Proof
end

