-- ==== Sys2Proof/Certificates/Slice0/Obligations.lean ====
section
/-! DEFINITION. The statements for the provers. -/

set_option autoImplicit false

open Sys2Proof Sys2Proof.Machine

/-! ### Tile instructions at issue -/

/-- R81, R84, R100 with R228: TBUILD, TLOOK and DRAIN issue. -/
def Obligations.IssueTla : Prop :=
  ∀ (n : Fin 1024) (rs : RangeSet) (s : State) (op : Op) (g : List Rng), MayIssue s n → Placed s n rs op g →
    (∀ a, mkTbuild a (tileOf s n) = some op → Takes s n (.tbuild n rs a) → Gives (.tbuild n rs a) s (Entered s n rs op g)) ∧
    (∀ a, mkTlook a (tileOf s n) = some op → chkTlook (tileOf s n) op = .go →
      Takes s n (.tlook n rs a) → Gives (.tlook n rs a) s (Entered s n rs op g)) ∧
    (∀ a err, mkDrain a err (tileOf s n) = some op → Takes s n (.drain n rs a .clean) →
      Gives (.drain n rs a err) s (Entered s n rs op g))

/-- R109, R111, R120, R125, R128, R129 with R228: ATTN.QK, ATTN.SOFT INIT, BLOCK and EXPORT, and ATTN.PV issue. -/
def Obligations.IssueAttention : Prop :=
  ∀ (n : Fin 1024) (rs : RangeSet) (s : State) (op : Op) (g : List Rng), MayIssue s n → Placed s n rs op g →
    (∀ a, mkAttnQk a (tileOf s n) = some op → bufCheck s n (tileOf s n) op = .go →
      Takes s n (.attnQk n rs a) → Gives (.attnQk n rs a) s (Entered s n rs op g)) ∧
    (∀ rows addr gang, mkAttnSoftInit rows addr gang (tileOf s n) = some op → chkAttnSoftInit s n rs (tileOf s n) op = .go →
      Takes s n (.attnSoftInit n rs rows addr gang) → Gives (.attnSoftInit n rs rows addr gang) s (Entered s n rs op g)) ∧
    (∀ rows sbuf m, fieldOf (tileOf s n) 32 rows = some m → op = .softBlock m sbuf.val → bufCheck s n (tileOf s n) op = .go →
      Takes s n (.attnSoftBlock n rs rows sbuf) → Gives (.attnSoftBlock n rs rows sbuf) s (Entered s n rs op g)) ∧
    (∀ rows addr, mkAttnSoftExport rows addr (tileOf s n) = some op → bufCheck s n (tileOf s n) op = .go →
      Takes s n (.attnSoftExport n rs rows addr) → Gives (.attnSoftExport n rs rows addr) s (Entered s n rs op g)) ∧
    (∀ a, mkAttnPv a (tileOf s n) = some op → bufCheck s n (tileOf s n) op = .go →
      Takes s n (.attnPv n rs a) → Gives (.attnPv n rs a) s (Entered s n rs op g))

/-- R141, R154, R158 with R228: the nine VEC instructions and RNG.DRAW issue. -/
def Obligations.IssueVector : Prop :=
  ∀ (n : Fin 1024) (rs : RangeSet) (s : State) (op : Op) (g : List Rng), MayIssue s n → Placed s n rs op g →
    (∀ a, mkVecOp a (tileOf s n) = some op → Takes s n (.vecOp n rs a) → Gives (.vecOp n rs a) s (Entered s n rs op g)) ∧
    (∀ a, mkVecXred a (tileOf s n) = some op → Takes s n (.vecXred n rs a) → Gives (.vecXred n rs a) s (Entered s n rs op g)) ∧
    (∀ a, mkVecRed a (tileOf s n) = some op → Takes s n (.vecRed n rs a) → Gives (.vecRed n rs a) s (Entered s n rs op g)) ∧
    (∀ a, mkVecMerge a (tileOf s n) = some op → Takes s n (.vecMerge n rs a) →
      Gives (.vecMerge n rs a) s (Entered s n rs op g)) ∧
    (∀ a, mkVecNorm a (tileOf s n) = some op → Takes s n (.vecNorm n rs a) → Gives (.vecNorm n rs a) s (Entered s n rs op g)) ∧
    (∀ a, mkVecRope a (tileOf s n) = some op → Takes s n (.vecRope n rs a) → Gives (.vecRope n rs a) s (Entered s n rs op g)) ∧
    (∀ a, mkVecQuant a (tileOf s n) = some op → Takes s n (.vecQuant n rs a) →
      Gives (.vecQuant n rs a) s (Entered s n rs op g)) ∧
    (∀ a, mkVecTopk a (tileOf s n) = some op → Takes s n (.vecTopk n rs a) → Gives (.vecTopk n rs a) s (Entered s n rs op g)) ∧
    (∀ a, mkVecSample a (tileOf s n) = some op → Takes s n (.vecSample n rs a) →
      Gives (.vecSample n rs a) s (Entered s n rs op g)) ∧
    (∀ a, mkRngDraw s n a (tileOf s n) = some op → Takes s n (.rngDraw n rs a) →
      Gives (.rngDraw n rs a) s (Entered s n rs op g))

/-- R168, R170, R176, R192, R201, R252 with R228: the BAND and MOVE instructions issue. -/
def Obligations.IssueBandMove : Prop :=
  ∀ (n : Fin 1024) (rs : RangeSet) (s : State) (op : Op) (g : List Rng), MayIssue s n → Placed s n rs op g →
    (∀ a, mkBandSelect a (tileOf s n) = some op → Takes s n (.bandSelect n rs a) →
      Gives (.bandSelect n rs a) s (Entered s n rs op g)) ∧
    (∀ a, mkBandApply a (tileOf s n) = some op → Takes s n (.bandApply n rs a) →
      Gives (.bandApply n rs a) s (Entered s n rs op g)) ∧
    (∀ a, mkBandAudit a (tileOf s n) = some op → chkBandAudit (tileOf s n) op = .go →
      Takes s n (.bandAudit n rs a) → Gives (.bandAudit n rs a) s (Entered s n rs op g)) ∧
    (∀ a, mkMoveLoad a (tileOf s n) = some op → chkMoveLoad s n (tileOf s n) op = .go →
      Takes s n (.moveLoad n rs a) → Gives (.moveLoad n rs a) s (Entered s n rs op g)) ∧
    (∀ a, mkMoveStore a (tileOf s n) = some op → chkMoveStore s n a (tileOf s n) op = .go →
      Takes s n (.moveStore n rs a) → Gives (.moveStore n rs a) s (Entered s n rs op g)) ∧
    (∀ a, mkMovePut n a (tileOf s n) = some op → Takes s n (.movePut n rs a) →
      Gives (.movePut n rs a) s (Entered s n rs op g)) ∧
    (∀ a, mkMoveGet n a (tileOf s n) = some op → Takes s n (.moveGet n rs a) →
      Gives (.moveGet n rs a) s (Entered s n rs op g)) ∧
    (∀ a, mkMoveSend a (tileOf s n) = some op → chkMoveSend s n (tileOf s n) op = .go →
      Takes s n (.moveSend n rs a) → Gives (.moveSend n rs a) s (Entered s n rs op g))

/-- R202, R224 to R226: WIN.OPEN, WIN.CLOSE, STAGE.LOAD and STAGE.LOOP take effect as they issue; a WIN.CLOSE's ranges stay in
the scoreboard. -/
def Obligations.ControlIssue : Prop :=
  ∀ (n : Fin 1024) (rs : RangeSet) (s : State) (g : List Rng), MayIssue s n → Unheld s n rs g →
    arrived (tileOf s n) (awaitOf rs) = true →
    (∀ (a : WinArgs) b len, fieldOf (tileOf s n) 16 a.base = some b → fieldIn (tileOf s n) 15 1 16384 a.len = some len →
      (winOf (tileOf s n) a.id).opened = false → b + len ≤ scratchTop (tileOf s n) →
      (findWin (tileOf s n) fun w => w.opened && overlaps (winRng w) ⟨b, len, true⟩) = none →
      (boardOf (tileOf s n)).any (conflicts ⟨b, len, true⟩) = false →
      Takes s n (.winOpen n a rs) → Gives (.winOpen n a rs) s fun u => Issued s n u ∧
        winOf (tileOf u n) a.id = ⟨b, len, true, a.src % 32, a.dir, 0, 0, false, false, []⟩) ∧
    (∀ id : Fin 8, (winOf (tileOf s n) id).opened = true → (winOf (tileOf s n) id).closing = false →
      Takes s n (.winClose n id rs) → Gives (.winClose n id rs) s fun u => Issued s n u ∧
        winOf (tileOf u n) id = { winOf (tileOf s n) id with closing := true, retiring := true, board := g }) ∧
    (∀ secoff (nm1 first : Fin 256) sec o, (tileOf s n).sec = some sec → fieldOf (tileOf s n) 12 secoff = some o →
      o + (nm1.val + 1) ≤ sec.words.length →
      Takes s n (.stageLoad n secoff nm1 first rs) → Gives (.stageLoad n secoff nm1 first rs) s fun u => Issued s n u ∧
        ∀ k < nm1.val + 1, regOf (tileOf u n) (first + k) = sec.words.getD (o + k) 0) ∧
    (∀ target (cntr stepr : Fin 256) (stride : BitVec 16),
      let step := regOf (tileOf s n) stepr + stride.signExtend 32
      let count := if cntr = stepr then step else regOf (tileOf s n) cntr
      Takes s n (.stageLoop n target cntr stepr stride rs) → Gives (.stageLoop n target cntr stepr stride rs) s fun u =>
        (cntr ≠ stepr → regOf (tileOf u n) stepr = step) ∧ (regOf (tileOf u n) cntr).toNat = count.toNat - 1 ∧
        (tileOf u n).pc = (if 1 < count.toNat then target else (tileOf s n).pc + 1) % 16384 ∧
        (tileOf u n).issued = (tileOf s n).issued + 1 ∧ (tileOf u n).lastIdx = (tileOf s n).pc)

/-- R232 to R234: with nothing in flight, no notice of abandonment and no arrival to wait for, SYNC.WAIT and SYNC.BAR issue, and
SYNC.END, when no window has a transfer left to finish, closes the windows and ends the tile's program. -/
def Obligations.SyncIssue : Prop :=
  ∀ (n : Fin 1024) (rs : RangeSet) (s : State) (g : List Rng), MayIssue s n → Unheld s n rs g →
    (tileOf s n).inflight = [] → rs.await = none → (tileOf s n).noticed = false →
    (∀ blocks : BitVec 6, Takes s n (.syncWait n rs blocks) → Gives (.syncWait n rs blocks) s fun u => Issued s n u ∧
      (tileOf u n).st = .run ∧ (tileOf u n).waitBlocks = none) ∧
    (∀ (blocks : BitVec 6) (bar : Fin 64),
      Takes s n (.syncBar n rs blocks bar) → Gives (.syncBar n rs blocks bar) s fun u => Issued s n u ∧
        (tileOf u n).waitBar = some bar.val ∧ (tileOf u n).waitBlocks = none) ∧
    ((∀ w < 8, (winOf (tileOf s n) w).opened = true → (winOf (tileOf s n) w).pend = 0) → Takes s n (.syncEnd n rs) →
      Gives (.syncEnd n rs) s fun u => Issued s n u ∧ winsClosed (tileOf u n) = true ∧
        (tileOf u n).ended = true ∧ (tileOf u n).endRange = g.find? fun r => !r.write)

/-! ### Pace and time -/

/-- R32, R34, R36: at a window's end a powered die publishes the least and mean pace of what serves there, and its regulator
steps from the voltage, target and limit the die had. -/
def Obligations.PaceWindow : Prop :=
  ∀ (die : Fin 20) (turns : List Stages) (s : State), (dieOf s die).powered = true →
    let ws := (List.range (senseUnits die)).map fun i => (i, turns.getD i ⟨0, 0, 0, 0⟩)
    let paces := (ws.filter fun w => paceServing s die w.1).map fun w => toPace (stagesLow w.2)
    Gives (.paceWindowEnd die turns) s fun u =>
      (dieOf u die).paceMin = leastPace paces ∧ (dieOf u die).paceMean = meanPace paces ∧ 550 ≤ (dieOf u die).vset ∧
      (dieOf u die).vset = regulate (dieOf s die).vset
        (if die.val < 16 then (dieOf s die).target else envMinTarget (envNow s)) (leastPace paces) (vLimitOf (dieOf s die))

/-- R37, R39, R45 to R48: PACE_LOW clears after 16 good windows on every die of the partition that is not fenced and on the XD die
that serves it; the core voltage settles; a time word
moves the count and every follower; a read of TMB_NOW's low half latches the high half. -/
def Obligations.PaceAndTime : Prop :=
  ∀ s : State,
    (∀ p : Fin 8, (partOf s p).paceLow = true → QueueOpen s →
      (∀ d ∈ diesOf (partOf s p) ++ [16 + (partOf s p).soInst], (d < 16 → isFenced s (dieUnit d) = false) →
        16 ≤ (dieOf s d).goodRun) →
      Gives (.paceLowClear p) s fun u => (partOf u p).paceLow = false ∧ Recorded s u .paceLow [p, 1]) ∧
    (∀ die : Fin 20, (dieOf s die).powered = true →
      Gives (.voltageSettled die) s fun u => (dieOf u die).vcore = (dieOf s die).vset ∧
        (dieOf u die).vset = (dieOf s die).vset) ∧
    (s.side.mainOn = true → Gives .timeWord s fun u =>
      u.tmb.now = s.tmb.now + (1024 * (1000000000 + s.tmb.ratePpb) + s.tmb.frac).toNat / 1000000000 ∧
      ∀ d < 20, tabGet u.tmb.followers d 0 = u.tmb.now) ∧
    (∀ rd, s.side.mainOn = true → timeShown s rd = true → Gives (.tmbNowLowRead rd) s fun u =>
      u.out = s.out ++ [.reply rd 0x20000 (.data (s.tmb.now % 2 ^ 32))] ∧ u.tmb.now = s.tmb.now ∧
      u.tmb.halfLatch.find? (fun x => x.1 == rd) = some (rd, s.tmb.now / 2 ^ 32))

/-! ### Tile instructions at work -/

/-- R83, R87, R102: a TBUILD fills its tables and its tag; a TLOOK retires after its last row; a DRAIN whose words pass
their checks reads, converts and clears its rows in order. What retires is in flight no more. -/
def Obligations.TlaRetires : Prop :=
  ∀ (n : Fin 1024) (s : State) (i : Infl), (tileOf s n).st ≠ .abandoning → Calm s n →
    (∀ src ng nc f buf, startedOp s n isTbuildOp = some i → i.op = .tbuild src ng nc f buf →
      Gives (.tbuildComplete n .clean) s fun u => Left n i.tag u ∧
        tabGet (tileOf u n).tags buf BufTag.init = ⟨true, f, ng, nc⟩ ∧
        (tileOf u n).tables = builtTables (tileOf s n) src ng nc f buf ∧ (tileOf u n).acm = (tileOf s n).acm) ∧
    (startedOp s n tlookDone = some i → Gives (.tlookRetire n) s fun u => Left n i.tag u ∧
      (tileOf u n).acm = (tileOf s n).acm ∧ (tileOf u n).tags = (tileOf s n).tags) ∧
    (∀ ab nr nc f wm wa asc dst st clear, startedOp s n isDrainOp = some i →
      i.op = .drain ab nr nc f wm wa asc dst st clear .clean → rowsDone (tileOf s n) i ab nr = true →
      (drainAll (tileOf s n) ab nr nc f wm wa asc dst st clear).bad = [] →
      (∀ r < nr, acmErr (tabGet (tileOf s n).acm (ab + r) AcmRow.init) nc = .clean) →
      Gives (.drainRetire n .clean) s fun u => Left n i.tag u ∧
        (tileOf u n).acm = (drainAll (tileOf s n) ab nr nc f wm wa asc dst st clear).x.acm ∧
        (Alone s n i → (tileOf u n).store = (drainAll (tileOf s n) ab nr nc f wm wa asc dst st clear).x.store))

/-- R77, R85, R87, R88, R91: a weight row of valid codes that enters, where the words it reads pass their checks, adds its lookups
to its accumulator row, which takes the format's type, and the instruction goes on to the next row. -/
def Obligations.LookupRow : Prop :=
  ∀ (n : Fin 1024) (s : State) (i : Infl) feed nr ab mode buf exp f ng nc bs x,
    Alone s n i → i.op = .tlook feed nr ab mode buf exp f ng nc → i.prog < nr →
    rowBytes (tileOf s n) feed i.prog exp = some (bs, x) → (∀ e ∈ bs, (e.2 : Byte).toNat ≤ 242) →
    let r := tabGet (tileOf s n).acm (ab + i.prog) AcmRow.init
    (mode = 0 ∨ r.ty = .empty ∨ (r.ty = .int32 ↔ f = 0)) → (mode = 0 ∨ acmErr r nc = .clean) →
    rowParity x buf ng nc f (bs.map fun e => cleanCode e.2.toNat) = false →
    Gives (.tlookRowEntry n .clean .clean) s fun u =>
      tabGet (tileOf u n).acm (ab + i.prog) AcmRow.init =
        accRow r (f == 0) mode ((List.range nc).map (rowSum x buf ng f (bs.map fun e => cleanCode e.2.toNat))) ∧
      (tabGet (tileOf u n).acm (ab + i.prog) AcmRow.init).ty = (if f = 0 then .int32 else .fp32) ∧
      (tileOf u n).inflight = [{ i with prog := i.prog + 1 }] ∧ (tileOf u n).tables = (tileOf s n).tables

/-- R117, R120, R121, R125, R128, R129: a key is scored in every row of its QK; QK leaves its buffers SCORED, INIT
loads rows, BLOCK and EXPORT do their work, PV leaves its buffers EMPTY. -/
def Obligations.AttentionRetires : Prop :=
  ∀ (n : Fin 1024) (s : State) (i : Infl), startedOp s n (fun j => j.tag == i.tag) = some i →
    (∀ m b k pos0 hw f a ma, i.op = .qk m b k pos0 hw f a ma → i.prog < i.fed → Alone s n i →
      (∀ r ∈ softRows (tileOf s n) (rowsFor s n (tileOf s n) m), keyWhole (rowAt (tileOf s n) r) i.prog = true) →
      let x := tileOf s n
      let y := (softRows x (rowsFor s n x m)).foldl
        (fun z r => scoreRow z r b i.prog (pos0 + i.prog) (stWord x (ma * 64 + 32 * i.prog))) x
      Gives (.keyJoin n i.tag none .clean) s fun u => (tileOf u n).store = x.store ∧
        (∃ d, (tileOf u n).inflight = [{ i with prog := i.prog + 1, fed := d }]) ∧
        ∀ r, (rowAt (tileOf u n) r).buf0 = (rowAt y r).buf0 ∧ (rowAt (tileOf u n) r).buf1 = (rowAt y r).buf1 ∧
          (rowAt (tileOf u n) r).m = (rowAt y r).m ∧ (rowAt (tileOf u n) r).acc = (rowAt y r).acc) ∧
    (∀ m b k pos0 hw f a ma, i.op = .qk m b k pos0 hw f a ma → k ≤ i.prog →
      Gives (.attnQkRetire n i.tag) s fun u => Left n i.tag u ∧ (Alone s n i →
        ∀ r ∈ softRows (tileOf s n) (rowsFor s n (tileOf s n) m),
          (bufOf (rowAt (tileOf u n) r) b).st = .scored ∧ (bufOf (rowAt (tileOf u n) r) b).nkeys = k)) ∧
    (∀ m a g, i.op = .softInit m a g → initOk s n (tileOf s n) m a g = true →
      Gives (.attnSoftRetire n i.tag none .clean) s fun u => Left n i.tag u ∧ (Alone s n i → (tileOf u n).rows =
        ((initRecs s n m a g).foldl (fun x e => loadRow x g e) (tileOf s n)).rows)) ∧
    (∀ m b, i.op = .softBlock m b → Gives (.attnSoftRetire n i.tag none .clean) s fun u => Left n i.tag u ∧
      (Alone s n i → (tileOf u n).rows = (tileOf (blockRows s n m b) n).rows)) ∧
    (∀ m a, i.op = .softExport m a → Gives (.attnSoftRetire n i.tag none .clean) s fun u => Left n i.tag u ∧
      (Alone s n i → (tileOf u n).store = (stWrite (tileOf s n) (a * 64) (exportRows s n (tileOf s n) m)).store ∧
        (tileOf u n).rows = (tileOf s n).rows)) ∧
    (∀ m b k hw f a ma, i.op = .pv m b k hw f a ma → k ≤ i.prog →
      Gives (.attnPvRetire n i.tag none .clean) s fun u => Left n i.tag u ∧ (Alone s n i →
        ∀ r ∈ softRows (tileOf s n) (rowsFor s n (tileOf s n) m), bufOf (rowAt (tileOf u n) r) b = ScoreBuf.init))

/-- R142, R154: the vector unit's instruction takes its effect and retires, the random generator's writes its blocks. -/
def Obligations.VectorRetires : Prop :=
  ∀ (n : Fin 1024) (s : State) (i : Infl),
    (startedOp s n (fun j => vecDone (tileOf s n) j.op) = some i →
      Gives (.vecRetire n false .clean) s fun u => Left n i.tag u ∧
        u = retire (bandEffect (vecEffect s n i.op) n i.op) n i.tag) ∧
    (∀ d k dom col stream ctr p, startedOp s n (fun j => j.op.blk == .rng) = some i → Alone s n i →
      i.op = .rng d k dom col stream ctr → partOfTile s n = some p → dom = 2 →
      Gives (.rngDrawRetire n) s fun u => Left n i.tag u ∧ (tileOf u n).store = (stWrite (tileOf s n) (d * 64)
        ((List.range k).flatMap fun j =>
          wordsLe (chachaBlock (auditKey (partOf s p).secret) dom stream ((ctr + j) % 2 ^ 64)))).store) ∧
    (∀ d k dom col stream ctr p e c, startedOp s n (fun j => j.op.blk == .rng) = some i → Alone s n i →
      i.op = .rng d k dom col stream ctr → Runs s n p e → dom ≠ 2 → e.cols[col]? = some c →
      Gives (.rngDrawRetire n) s fun u => Left n i.tag u ∧ (tileOf u n).store = (stWrite (tileOf s n) (d * 64)
        ((List.range k).flatMap fun j =>
          wordsLe (chachaBlock (slotOf s c.slot).key dom stream ((ctr + j) % 2 ^ 64)))).store)

/-- R192, R196, R230, R252: transfers retire once performed: a load that bypasses the cache has its lines, a cached load its
last line, a store is in module memory, a put or die send has landed, a Mirist send is acknowledged. -/
def Obligations.MovesRetire : Prop :=
  ∀ (n : Fin 1024) (s : State) (i : Infl), startedOp s n (fun j => j.tag == i.tag && !moveWaits (tileOf s n) j) = some i →
    (∀ l m k inv, i.op = .load l m k true inv → i.waits = [] → Gives (.moveRetire n i.tag .clean []) s (Left n i.tag)) ∧
    (∀ l m k inv lines, i.op = .load l m k false inv → Gives (.moveRetire n i.tag .clean lines) s fun u => Left n i.tag u ∧
      u = retire (loadRun s n l m k lines) n i.tag) ∧
    (∀ l m k inv, i.op = .store l m k inv → Gives (.moveRetire n i.tag .clean []) s fun u => Left n i.tag u ∧
      u = retire (memWrite s (m * 64) (stRead (tileOf s n) (l * 64) (k * 64))) n i.tag) ∧
    (∀ l r k d via, i.op = .put l r k d via → i.prog ≠ 0 → Gives (.moveRetire n i.tag .clean []) s (Left n i.tag)) ∧
    (∀ l r k d, i.op = .getm l r k d → i.prog ≠ 0 →
      Gives (.moveRetire n i.tag .clean []) s fun u => u = finishGet s n i.tag l r k d) ∧
    (∀ l r k g vc, i.op = .send l r k g none vc → i.prog ≠ 0 → Gives (.moveRetire n i.tag .clean []) s (Left n i.tag)) ∧
    (∀ l r k g m vc, i.op = .send l r k g (some m) vc → (∀ f ∈ s.lnk.tx, f.op ≠ .send n.val i.tag) →
      Gives (.moveRetire n i.tag .clean []) s (Left n i.tag)) ∧
    (∀ l m k inv line p, i.op = .load l m k true inv → line ∈ i.waits →
      (∀ j ∈ (tileOf s n).inflight, j.tag = i.tag → j = i) → fillWaits (tileOf s n) i line = false → partOfTile s n = some p →
      (linesRead s ⟨2, n⟩ [line * 2, line * 2 + 1] []).2.1 = 0 →
      isPoisoned (linesRead s ⟨2, n⟩ [line * 2, line * 2 + 1] []).1 (blockOf (line * 128)) = false →
      Gives (.cacheFillArrive n i.tag line []) s fun u => ∀ j ∈ (tileOf u n).inflight, j.tag = i.tag →
        line ∉ j.waits)

/-! ### Windows and arrivals -/

/-- R199, R203 to R205: a put or a die send through a port that exists lands in an open window that permits it and counts in
ARRIVED; one that none permits, or that meets a fenced or Reduced tile at either end (R42), changes nothing of the store and
is counted in the refusals. -/
def Obligations.Letterbox : Prop :=
  ∀ (n w : Fin 1024) (s : State) (src : Port) (gran k : Nat) (bs : List Byte),
    (tileOf s n).inflight = [] → (tileOf s n).st ≠ .abandoning → (tileOf s n).waitBlocks = none → (tileOf s n).noticed = false →
    portReaches n src w = true → portsShut s w = false →
    (portsShut s n = true → putOf s n src w gran = none → Gives (.putArrive n src w gran bs) s fun u =>
      (tileOf u n).store = (tileOf s n).store ∧ (tileOf u n).refused = satAdd 16 (tileOf s n).refused 1) ∧
    (portsShut s n = false →
    (∀ id, putOf s n src w gran = none → permits (tileOf s n) src gran (ceilDiv bs.length 64) false = some id →
      Gives (.putArrive n src w gran bs) s fun u =>
        (tileOf u n).store = (stWrite (tileOf s n) (gran * 64) bs).store ∧
        (winOf (tileOf u n) id).arrived = satAdd 20 (winOf (tileOf s n) id).arrived (ceilDiv bs.length 64)) ∧
    (∀ id tag, putOf s n src w gran = some (tag, bs) → n ≠ w →
      permits (tileOf s n) src gran (ceilDiv bs.length 64) false = some id →
      Gives (.putArrive n src w gran bs) s fun u =>
        (tileOf u n).store = (stWrite (tileOf s n) (gran * 64) bs).store ∧
        (winOf (tileOf u n) id).arrived = satAdd 20 (winOf (tileOf s n) id).arrived (ceilDiv bs.length 64) ∧
        ∀ j ∈ (tileOf u w).inflight, j.tag = tag → j.prog = 1) ∧
    (putOf s n src w gran = none → permits (tileOf s n) src gran (ceilDiv bs.length 64) false = none →
      Gives (.putArrive n src w gran bs) s fun u => (tileOf u n).store = (tileOf s n).store ∧
        (tileOf u n).refused = satAdd 16 (tileOf s n).refused 1) ∧
    (∀ p e, putOf s n src w gran = none → permits (tileOf s n) src gran (ceilDiv bs.length 64) false = none →
      Runs s n p e → e.why = none → QueueOpen s →
      Gives (.putArrive n src w gran bs) s fun u => (tileOf u n).store = (tileOf s n).store ∧
        Recorded s u .letterboxRefused [n, refusedWin (tileOf s n) gran (ceilDiv bs.length 64), portBit src, w, gran,
          ceilDiv bs.length 64] ∧ (tileOf u w).faulted = true) ∧
    (∀ id tag, getOf s n src w gran k = some tag → n ≠ w → permits (tileOf s n) src gran k true = some id →
      Gives (.getArrive n src w gran k) s fun u =>
        (winOf (tileOf u n) id).pend = (winOf (tileOf s n) id).pend + 1 ∧
        ∀ j ∈ (tileOf u w).inflight, j.tag = tag → j.prog = 1) ∧
    (∀ vec route id, sendOf s n w gran = none →
      let d := vecLanded vec bs
      permits (tileOf s n) .mover gran (ceilDiv d.length 64) false = some id →
      Gives (.dieSendArrive n w gran bs vec route) s fun u =>
        (tileOf u n).store = (stWrite (tileOf s n) (gran * 64) d).store ∧
        (winOf (tileOf u n) id).arrived = satAdd 20 (winOf (tileOf s n) id).arrived (ceilDiv d.length 64))) ∧
    (∀ id : Fin 8, (winOf (tileOf s n) id).opened = true → (winOf (tileOf s n) id).closing = true →
      (winOf (tileOf s n) id).pend = 0 → Gives (.winCloseRetire n id) s fun u =>
        (winOf (tileOf u n) id).opened = false ∧ (winOf (tileOf u n) id).closing = false ∧
        (winOf (tileOf u n) id).retiring = false)

/-! ### Waits that end in silence -/

/-- R134, R161, R187, R208, R233, R241, Table 11-4: in a step's first run, each wait of 2²⁰ turns that ends in silence
writes its own record and abandons the step to run once more; the requests are told of it at once (R24), but for a parameter
section's. -/
def Obligations.SilentWaits : Prop :=
  ∀ (n : Fin 1024) (s : State) (p : Nat) (e : Step), Runs s n p e → e.rerun = false → QueueOpen s →
    (∀ i, startedOp s n tlookFed = some i → (tileOf s n).tlaFifo.length < 32 →
      Gives (.tlookFeedTimeout n) s fun u => Recorded s u .tlaFeed [n, 0, i.tag] ∧ Abandons p e toRetell u) ∧
    (∀ i f k hw a, startedOp s n (fun j => j.tag == i.tag) = some i → aeFeed i.op = some (f, k, hw, a) → f ≠ 0 →
      keysDrawn i < k → keysDrawn i < i.prog + 16 → takeKey (tileOf s n) i (keysDrawn i) = none →
      Gives (.aeFeedTimeout n i.tag) s fun u => Recorded s u .aeFeed [n, f, i.tag] ∧ Abandons p e toRetell u) ∧
    ((∃ i, (tileOf s n).inflight.find? (redWaits (tileOf s n)) = some i) →
      Gives (.vecRedTimeout n) s fun u => Recorded s u .vecRedTimeout [n] ∧ Abandons p e toRetell u) ∧
    (∀ i rg m b k l g t w q fe, startedOp s n (applyWaits (tileOf s n)) = some i → i.op = .bandApply rg m b k l g t w q fe →
      Gives (.bandVerdictTimeout n) s fun u => Recorded s u .bandMeta [l, g, t, 0, n] ∧ Abandons p e toRetell u) ∧
    (∀ i, ((tileOf s n).inflight.find? fun j => !arrived (tileOf s n) j.await) = some i →
      Gives (.arrivalTimeout n) s fun u => Recorded s u (arrivalCode i.op) [n] ∧ Abandons p e toRetell u) ∧
    (((tileOf s n).inflight.find? fun j => !arrived (tileOf s n) j.await) = none → (tileOf s n).waitBlocks.isSome = true →
      arrived (tileOf s n) (tileOf s n).waitCount = false →
      Gives (.arrivalTimeout n) s fun u => Recorded s u .tsArrivalTimeout [n] ∧ Abandons p e toRetell u) ∧
    (((tileOf s n).inflight.find? fun j => !arrived (tileOf s n) j.await) = none → (tileOf s n).waitBlocks = none →
      heldCount (tileOf s n) = true →
      Gives (.arrivalTimeout n) s fun u => Recorded s u .tsArrivalTimeout [n] ∧ Abandons p e toRetell u) ∧
    (∀ (bar : Fin 64) ps c home, (tileOf s n).waitBar = some bar.val → (tileOf s n).waitBlocks = none →
      barrierOf s n bar = some (ps, c, home) →
      Gives (.syncTimeout n bar) s fun u => Abandons p e toRetell u ∧ Recorded s u .syncTimeout
        (bar.val :: ps.filter fun q => !(tabGet (tileOf s home).bars bar []).contains q)) ∧
    ((tileOf s n).sec = none → (tileOf s n).st = .run ∨ (tileOf s n).st = .held → s.boot.actSt ≠ .config →
      s.boot.actSt ≠ .switch →
      Gives (.pbPrefetchTimeout n) s fun u => Recorded s u .pbCheck [n] ∧ Abandons p e (toRerun (some .preempted)) u)

/-- R106, R227: a tile at 2²⁴ instructions is a runaway program: SP_RUNAWAY, the version faulty, the step abandoned. -/
def Obligations.IssueLimit : Prop :=
  ∀ (n : Fin 1024) (s : State) (p : Nat) (e : Step), Runs s n p e → canIssue s n = true → 2 ^ 24 ≤ (tileOf s n).issued →
    (tileOf s n).noticed = false → QueueOpen s →
    Gives (.issueLimit n) s fun u => (∃ d, Recorded s u .spRunaway d) ∧ (tileOf u n).faulted = true ∧
      (∃ st, Abandons p e ⟨st, 0, false, none, false, 0, none, false, false⟩ u) ∧
      ∀ g ∈ u.cmp.progs, g.part = p → g.version = (tileOf s n).version → g.faulty = true

/-! ### Verdicts, barriers, notices -/

/-- R171, R179: a group's verdicts join: each APPLY of the group stands when its own check and every peer's pass with
one CRC; once every group of a STRICT layer has audited or failed its selection, the layer joins, and a miss makes every group of
it dense. -/
def Obligations.BandVerdicts : Prop :=
  ∀ s : State,
    (∀ (n w : Fin 1024) peers i rg m b k l g t v np fe p c vs, (tileOf s n).st ≠ .abandoning → Calm s n →
      startedOp s n (applyWaits (tileOf s n)) = some i → i.op = .bandApply rg m b k l g t v np fe →
      partOfTile s n = some p → bandOf (tileOf s n) l g t m = some c → peerVerdicts s n c v peers = some vs →
      c.pass = true ∨ (∀ f ∈ s.ras.faultRep, f.2.1 ≠ w.val) →
      Gives (.bandGroupVerdict n peers w) s fun u => ∃ d, bandOf (tileOf u n) l g t m = some d ∧
        d.verdict = some (c.pass && vs.all fun q => q.1 && q.2 == c.crc)) ∧
    (∀ (p : Fin 8) layer (t : Fin 8) e, (partOf s p).exec = some e →
      let es := (tilesOf s p).flatMap fun n => (tileOf s n).bands.filter fun c =>
        c.layer == layer && c.set == t.val && !c.makeup
      strictLayer s p layer = true ∨ (∃ c ∈ es, c.policy = 2) → (∃ c ∈ es, c.joined = false) →
      (∀ a ∈ layerGroups s p layer t ++ es.map BandSt.group, ∃ d ∈ es, d.group = a ∧
        (d.audited = true ∨ d.verdict = some false)) →
      Gives (.strictLayerVerdict p e.num layer t) s fun u => ∀ n ∈ tilesOf s p, ∀ c ∈ (tileOf u n).bands,
        c.layer = layer → c.set = t.val → c.joined = true ∧
          ((∃ d ∈ es, d.misses ≠ []) → c.dense = true))

/-- R233, R234, R235, R241, R242: a barrier that everyone reached lets its tiles go; an end notice joins the step's;
an abandonment notice lets a tile that issues go on to its next SYNC, and drops what waits of one that does not, or whose issue is
held for what the abandonment releases, and clears it once nothing runs; a section arrives; a stop notice holds issue. -/
def Obligations.Notices : Prop :=
  ∀ (n : Fin 1024) (s : State),
    (∀ (bar : Fin 64) ps c, barrierOf s n bar = some (ps, c, n.val) → c ≤ (tabGet (tileOf s n).bars bar []).length →
      Gives (.barrierRelease n bar) s fun u => tabGet (tileOf u n).bars bar [] = [] ∧
        ∀ q ∈ ps, (tileOf s q).waitBar = some bar.val → (tileOf s q).waitBlocks = none →
          (tileOf u q).waitBar = none ∧ (tileOf u q).st = .run) ∧
    (∀ p e, Runs s n p e → (tileOf s n).ended = true → n.val ∉ e.ended →
      Gives (.endNotice n) s fun u => ∃ f, (partOf u p).exec = some f ∧ f.ended = e.ended ++ [n.val] ∧
        f.emissions = e.emissions ++ (match (tileOf s n).endRange with
          | some r => emissionsIn (tileOf s n) r
          | none => [])) ∧
    ((tileOf s n).abandonOn = true → (tileOf s n).faulted = false → (tileOf s n).ended = false →
      (tileOf s n).waitBlocks = none → (tileOf s n).waitBar = none → (tileOf s n).st = .run ∨ (tileOf s n).st = .held →
      stuckHold (tileOf s n) = false → Gives (.abandonNotice n) s fun u => tileOf u n = { tileOf s n with abandonOn := false, noticed := true }) ∧
    ((tileOf s n).abandonOn = true → (tileOf s n).st ≠ .fieldTest →
      (tileOf s n).faulted = true ∨ (tileOf s n).ended = true ∨ (tileOf s n).waitBlocks.isSome = true ∨
        (tileOf s n).waitBar.isSome = true ∨ ((tileOf s n).st ≠ .run ∧ (tileOf s n).st ≠ .held) ∨ stuckHold (tileOf s n) = true →
      Gives (.abandonNotice n) s fun u => (tileOf u n).st = .abandoning ∧
      (tileOf u n).abandonOn = false ∧ (tileOf u n).waitBar = none ∧ (tileOf u n).waitBlocks = none ∧
      (∀ i ∈ (tileOf u n).inflight, i.started = true) ∧
      ((tileOf u n).inflight = [] → (tileOf u n).acm = [] ∧ (tileOf u n).rows = [] ∧ (tileOf u n).tags = [] ∧
        (tileOf u n).cache = [] ∧ winsClosed (tileOf u n) = true)) ∧
    (∀ p e sec errs, Runs s n p e → (tileOf s n).sec = none → (tileOf s n).st = .run ∨ (tileOf s n).st = .held →
      (prefetch s n p e errs).2 = some sec → sectionOk (tileOf (prefetch s n p e errs).1 n) sec = true →
      Gives (.pbPrefetchDone n errs) s fun u => (tileOf u n).sec = some sec) ∧
    (∀ p c errs, partOfTile s n = some p → (partOf s p).composed = some c → (tileOf s n).sec.isSome = true →
      Gives (.pbPrefetchDone n errs) s fun u => (tileOf u n).secNext = (prefetch s n p c errs).2 ∧
        (tileOf u n).sec = (tileOf (prefetch s n p c errs).1 n).sec) ∧
    (∀ p, partOfTile s n = some p → (partOf s p).switchSt = .quiesce → (tileOf s n).st ≠ .abandoning →
      (tileOf s n).poison = [] →
      Gives (.switchStopNotice n) s fun u => (tileOf u n).stopped = true)


/-! ### Steps, slots, contexts -/

/-- R22, R24, R235, R311, R312, R326, R469: a boundary ends its step and the next starts; a tainted step runs again; an
abandonment ends once every tile has reported; a partition that may compose takes the composition of its next version, where
that gives a column and no LC column waits for pages, under the next step number, and the step starts where none runs. -/
def Obligations.StepEnds : Prop :=
  (∀ (p : Fin 8) (s : State) (e : Step), (partOf s p).exec = some e →
      (∀ ev, allEnded s p e = true → e.why = none → e.taint = some ev →
        Gives (.stepBoundary p) s fun u => u = startNext (taintedEnd s p e ev) p ∧
          ((partOf s p).staged = [] → (partOf (taintedEnd s p e ev) p).rerunStep = some (runAgain e))) ∧
      (allEnded s p e = true → e.why = none → e.taint = none →
        Gives (.stepBoundary p) s fun u => u = startNext (cleanEnd s p e) p) ∧
      (∀ a, e.why = some a → (∀ n ∈ tilesOf s p, tileOut s e n = true) →
        Gives (.stepAbandonComplete p) s fun u => u = startNext (abandonEnd s p e a) p ∧
          (a.replaced = false → a.rerun = true → e.rerun = false →
            (partOf (afterAbandon s p e a) p).rerunStep = some (runAgain e)))) ∧
  ∀ (p : Fin 8) (s : State) (v : Nat), composeHeld s p = false →
      let s0 := preemptIdle s p
      let c := compose s0 p v
      nextVersion s0 p = some v → c.wait = false → c.cols ≠ [] →
      Gives (.stepCompose p) s fun u => u = startNext (takeComposed p v c) p ∧
        ∃ e, (partOf (takeComposed p v c) p).composed = some e ∧ e.version = v ∧ e.rerun = false ∧ e.cols = c.cols ∧
          e.num = (partOf c.s p).stepNext ∧ (partOf (takeComposed p v c) p).stepNext = e.num + 1

/-- R308, R332, R352, R354, R355: a slot that is done is FREE; a hand-off is tried again; a private page's record goes
to the swap area; a pre-empted slot returns, from its records or by recomputing. -/
def Obligations.SlotLife : Prop :=
  ∀ (k : Fin 65536) (s : State),
    ((slotOf s k).st = .closing → (slotOf s k).finDone = true → (slotOf s k).heldFin = none → (slotOf s k).heldAdm = none →
      (slotOf s k).heldNote = none → (slotOf s k).hold = [] → Gives (.slotRelease k) s fun u =>
        slotOf u k = { Slot.init with admits := (slotOf s k).admits }) ∧
    (∀ t, (slotOf s k).retryAt = some t → (slotOf s k).st = .handoff → t ≤ nowNs s →
      Gives (.handoffRetryTimer k) s fun u =>
        u = handoffTry (modSlot s k fun x => { x with retryAt := none, tried := [] }) k) ∧
    (∀ (p : Fin 8) page n at' area, (slotsOf s p).find? (fun n => (slotOf s n).swapped.contains page) = some n →
      placeIn (slotOf s n) page = some at' → (partOf s p).swapArea = some area →
      (pageOf (partOf s p) page).st ≠ .sealing → isShared (pageOf (partOf s p) page) = false →
      (fnOf s (driverOf s p)).bme = true → Gives (.swapRecordWritten p page) s fun u =>
        (slotOf u n).swapped = (slotOf s n).swapped.erase page ∧
        (partOf u p).swaps = (partOf s p).swaps ++ [swapRecOf s p n page at']) ∧
    (∀ p, (slotOf s k).part = p → (slotOf s k).st = .preempted → (readmitQueue s p).head? = some k.val →
      (slotOf s k).swapped = [] → (isLc (slotOf s k) = true → readmitLc s k = true) →
      let v := if isLc (slotOf s k) then readmitRoom s k else s
      (∀ q ∈ poolsOf v p, readmitNeed v k q + (if isLc (slotOf s k) then 0 else poolReserved v p q) ≤ poolFree v p q) →
      ((slotOf s k).recompute = true → Gives (.readmit k) s fun u => u = returnRecompute v k) ∧
      ((slotOf s k).recompute = false → swapsOf v k ≠ [] → (fnOf v (driverOf v p)).bme = true →
        Gives (.readmit k) s fun u => (slotOf u k).toRestore = (swapsOf v k).map fun r => r.idx) ∧
      ((slotOf s k).recompute = false → swapsOf v k = [] →
        Gives (.readmit k) s fun u => u = postState (modSlot v k fun x => { x with st := x.back }) k)) ∧
    (∀ i rest r rs, (slotOf s k).toRestore = i :: rest → swapsOf s k = r :: rs → (slotOf s k).st = .preempted →
      (∀ bs, swapStands bs = false → Gives (.restorePage k (.inr bs)) s fun u => u = restoreFails s k) ∧
      ∀ d, Gives (.restorePage k (.inl d)) s fun u =>
        u = restoreFails (dmaFailed s (driverOf s (slotOf s k).part) (slotOf s k).part d) k) ∧
    (∀ i j rest r rs d a bs, (slotOf s k).toRestore = i :: j :: rest → swapsOf s k = r :: rs → (slotOf s k).st = .preempted →
      swapStands bs = true →
      let pl := (placesOf s (slotOf s k).part (slotOf s k).pver).getD r.place ⟨0, 0, []⟩
      poolFor s (slotOf s k).part (placeDie pl r.idx) = some d →
      allocPage s (slotOf s k).part d pl.layer pl.kvHead k = some a →
      Gives (.restorePage k (.inr bs)) s fun u => (slotOf u k).toRestore = j :: rest ∧
        (pageOf (partOf u (slotOf s k).part) a.2).refs = 1 ∧
        (partOf u (slotOf s k).part).swaps = (partOf a.1 (slotOf s k).part).swaps.erase r)

/-- R364 to R369: the slice ends, the tiles are told to stop, the save and the restore follow one another, and a stop
that never comes abandons the step. -/
def Obligations.ContextSwitch : Prop :=
  ∀ (p : Fin 8) (s : State), let q := partOf s p
    (q.valid = true → q.switchSt = .idle → 1 < (ctxsOf q).length →
      Gives (.sliceExpiry p) s fun u => (partOf u p).switchDue = true) ∧
    (∀ c, nextCtx s p = some c → q.valid = true → q.switchSt = .idle → q.switchDue = true ∨ ctxYields s p = true →
      q.exec = none ∨ q.barPoint = some (issuedIn s p) → s.pwr.sleep = .awake →
      Gives (.contextSwitch p) s fun u => (partOf u p).switchSt = .quiesce ∧ (partOf u p).incoming = c ∧
        (partOf u p).composed = none ∧ (ctxOf (partOf u p) q.running).st = .saving) ∧
    (q.switchSt = .quiesce → q.exec = none → Gives (.switchQuiesceDone p) s fun u => (partOf u p).switchSt = .save) ∧
    (∀ e, q.switchSt = .quiesce → q.exec = some e → e.why = none →
      (∀ n ∈ tilesOf s p, ((tileOf s n).stopped = true ∨ (tileOf s n).ended = true) ∧ tileQuiet (tileOf s n) = true) →
      Gives (.switchQuiesceDone p) s fun u => (partOf u p).switchSt = .save ∧ (partOf u p).exec = some e) ∧
    (q.switchSt = .save → q.incoming ≠ q.running → Gives (.switchSaveDone p) s fun u =>
      (partOf u p).switchSt = .restore ∧ (partOf u p).exec = none ∧
      (ctxOf (partOf u p) q.running).st = .saved ∧ (ctxOf (partOf u p) q.incoming).st = .restoring ∧
      (ctxOf (partOf u p) q.running).image = ((tilesOf s p).map fun n => (n, saveTile (tileOf s n))) ∧
      (∀ n ∈ tilesOf s p, (tileOf u n).st = .saved) ∧
      (ctxOf (partOf u p) q.running).held = (match q.exec with
        | some e => some e
        | none => q.rerunStep)) ∧
    (q.switchSt = .restore → (partOf (restoreCtx s p) p).running = q.incoming ∧
      (partOf (restoreCtx s p) p).switchSt = .idle ∧ (ctxOf (partOf (restoreCtx s p) p) q.incoming).st = .running ∧
      (restoresWhole s (ctxOf q q.incoming) = true →
        (partOf (restoreCtx s p) p).exec = (ctxOf q q.incoming).held ∧ Gives (.switchRestoreDone p) s fun u =>
          u = startNext ((ctxOf q q.incoming).image.foldl (fun s e => settle s e.1) (restoreCtx s p)) p) ∧
      (restoresWhole s (ctxOf q q.incoming) = false →
        (partOf (restoreCtx s p) p).rerunStep = (ctxOf q q.incoming).held.map runAgain ∧
        Gives (.switchRestoreDone p) s fun u => u = startNext (restoreCtx s p) p)) ∧
    (∀ e, q.switchSt = .quiesce → q.exec = some e → e.why = none → QueueOpen s →
      Gives (.quiesceTimeout p) s fun u => Recorded s u .switchAbandon [q.running, q.incoming] ∧
        Abandons p e { toRerun none with always := true } u) ∧
    (∀ d, q.declared = some d → eventsOpen s p = false → Gives (.readmission p) s fun u => u = runReadmission s p d)

/-! ### Expanders and module memory -/

/-- R98, R277, R278, R283 to R285, R287, R288: a block's length byte comes; its bytes are decoded into a place, those of a
GATHER's records in lockstep into the rows they complete, and forwarded; a list that every recipient sends alike is taken, an
absent or differing one abandons the step; a page is sealed. -/
def Obligations.Expanders : Prop :=
  ∀ (d : Fin 16) (e : Fin 4) (l : Fin 32) (s : State) (p : Nat), partOfDie s d = some p → laneLive s d e = true →
    let k := laneKey d e l
    (∀ i r, let x := openLane s d e p l ((laneOf s k).list.length + 1) (laneOf s k)
      gatherTakes s d e l = false → x.todo = i :: r → x.reads.length < readRoom x → Gives (.lengthByteArrive d e l) s fun u =>
        (laneOf u k).todo = r ∧ (laneOf u k).reads = x.reads ++ [(i, lenOf s i.blk)]) ∧
    (∀ f fs i n rest errs, (laneOf s k).list = f :: fs → (laneOf s k).reads = (i, n) :: rest →
      (laneOf s k).places.length < 2 → isGather f = false →
      Gives (.blockDecode d e l errs) s fun u => (laneOf u k).reads = rest ∧ (laneOf u k).places = (laneOf s k).places ++
        [((blockData s d e p f i.blk n errs).1.take i.take).map fun b => (i.blk, b)]) ∧
    (∀ f fs errs rg rb nr, (laneOf s k).list = f :: fs → f.kind = .gather rg rb nr → (laneOf s k).places.length ≤ 5 →
      let w := (gatherWindow (laneOf s k).nrec (laneOf s k).chunk).length
      0 < w → w ≤ (laneOf s k).reads.length → Gives (.blockDecode d e l errs) s fun u =>
        laneOf u k = nextEntry (gatherStep { laneOf s k with reads := (laneOf s k).reads.drop w } f rb nr
          (decodeReads s d e p f ((laneOf s k).reads.take w) errs []).2)) ∧
    (∀ f fs c rest, (laneOf s k).list = f :: fs → (laneOf s k).places = c :: rest →
      (∀ r ∈ f.rcp, fifoLen (tileOf s (d * 64 + r)) f.fifo ≤ 2048) →
      Gives (.blockForward d e l) s fun u =>
        u = (f.rcp.map fun r => d.val * 64 + r).foldl (fun s' t => settle (modTile s' t fun y =>
            fifoPush y ((laneOf s k).home.headD e) k f.fifo (c.drop (skipOf (laneOf s k) (t % 64)))) t)
          (setLane s k (forwarded (laneOf s k) e f c))) ∧
    (∀ layer group (set : Fin 8) copies sel more, appliedOf s d e layer group set false = sel :: more →
      let mks := appliedOf s d e layer group set true
      let sent := (if mks = [] then (sel :: more).map computedOf else mks.map BandSt.list) ++ copies
      ((∀ c ∈ sent, sent.head? = some c) → Gives (.bandListArrive d e layer group set copies) s fun u =>
        bandLists d e layer group set sel mks.head? ∈ u.exps.lists) ∧
      ∀ st, (∃ c ∈ sent, sent.head? ≠ some c) → QueueOpen s → (partOf s p).exec = some st →
        Gives (.bandListArrive d e layer group set copies) s fun u =>
          Recorded s u .expList [layer, group, set.val] ∧ Abandons p st toRetell u) ∧
    (∀ f fs st, (laneOf s k).list = f :: fs → (laneOf s k).opened = false →
      waitsList s d ((laneOf s k).home.headD e) f = true → QueueOpen s → (partOf s p).exec = some st → st.rerun = false →
      Gives (.expListTimeout d e l) s fun u =>
        Recorded s u .expList [f.layer, f.group, f.set] ∧ Abandons p st toRetell u) ∧
    (∀ (a : Fin 8) page, (pageOf (partOf s a) page).st = .sealing → Gives (.sealComplete a page) s fun u =>
      pageOf (partOf u a) page = if (pageOf (partOf s a) page).refs = 0 then Page.init
        else { pageOf (partOf s a) page with st := .sealed, writer := none })

/-- R247, R249, R252, R256 to R258, R261, R262, R266: a permitted write lands, a permitted read that comes clean changes no byte,
one that fails its check is answered by class; the scrub reads its line; a bucket's copy is done and the next begins; a migration
ends with its record. -/
def Obligations.MemoryCommands : Prop :=
  ∀ s : State,
    (∀ who line bs err n, regionAt s (line * 64) = some n → requesterMay s who (regionOf s n) true = true →
      Gives (.memoryAccess ⟨who, line, some bs, err⟩) s fun u =>
        u = fwReturns (memWrite s (line * 64) (lineData s (line * 64) bs)) who .ok) ∧
    (∀ who line err n, regionAt s (line * 64) = some n → requesterMay s who (regionOf s n) false = true →
      let v := lineRead s (line * 64) err (requesterReader who)
      (v.2 = 0 → Gives (.memoryAccess ⟨who, line, none, err⟩) s fun u =>
        u = fwReturns v.1 who .ok ∧ u.mem.bytes = s.mem.bytes) ∧
      (v.2 = 1 → Gives (.memoryAccess ⟨who, line, none, err⟩) s fun u =>
        u = fwReturns (aCrcTo v.1 who n (line * 64)) who .ok) ∧
      (v.2 = 2 → Gives (.memoryAccess ⟨who, line, none, err⟩) s fun u =>
        u = fwReturns (requesterTaint v.1 who (blockOf (line * 64))) who .poisoned)) ∧
    (∀ (ch : Fin 512) l err, chanOk s ch = true → nextScrub s ch = some l →
      let v := (lineRead s (l * 64) err ⟨4, 0⟩).1
      Gives (.patrolScrubStep ch l err) s fun u => u = endPass (markPass
        { v with mem := { v.mem with cursor := tabSet v.mem.cursor ch (l + 1) 0 } } ch)) ∧
    (∀ (ch : Fin 512) spread bucket m v, migOf s ch = some m →
      m.moves.find? (fun w => w.spread == spread && w.bucket == bucket && w.st == .copying) = some v →
      Gives (.migrationBucketDone ch spread bucket []) s fun u => ∃ w, migOf u ch = some w ∧
        w.copied = m.copied + ((bucketShares s (ch.val / 32) spread).map Prod.snd).sum ∧ w.poisoned = m.poisoned ∧
        w.moves = nextBucket (m.moves.map fun b => if b = v then { b with st := .new } else b)) ∧
    (∀ (ch : Fin 512) m, migOf s ch = some m → (∀ v ∈ m.moves, v.st = .new) → QueueOpen s →
      Gives (.migrationEnd ch) s fun u =>
        Recorded s u .memMigrate [m.copied / 4096, m.poisoned] ∧ u.mem.migs.length < s.mem.migs.length)


/-! ### Commands of the host: loads -/

/-- R281, R293, R296, R301, R409, R416: a load that passes its checks is ACCEPTED and runs its stages; a commit makes
what it loaded current and completes; unloads and deletions leave no version current and complete. -/
def Obligations.LoadCommands : Prop :=
  ∀ (x : Src) (s : State),
    (∀ addr len b, let t := (takeCmd s (takerOf s x) 0x20).s
      loadCmdNo t x addr = none → Gives (.loadBundle x addr len b) s fun u => u = bundleStages
        (setLoad (emit (acceptCmd t x 0x20 (takeCmd s (takerOf s x) 0x20).jseq) (.hostRead x.fn addr len)) x.part
          (some ⟨x, 0x20, (bundleRead b).id, (bundleRead b).version, progVersion (bundleRead b).program, none⟩)) x addr
        (bundleRead b)) ∧
    (∀ addr len bundle pr e, let t := (takeCmd s (takerOf s x) 0x21).s
      loadCmdNo t x addr = none →
      (versionsOf t x.part bundle).find? (fun e => e.current && e.ctx == x.ctx.val) = some e →
      let v := setLoad (emit (acceptCmd t x 0x21 (takeCmd s (takerOf s x) 0x21).jseq) (.hostRead x.fn addr len)) x.part
        (some ⟨x, 0x21, bundle, 0, progVersion pr, none⟩)
      (freeBank v x.part x.ctx).isSome = true → progNo v x.part pr = none →
      Gives (.loadProgram x addr len bundle pr) s fun u =>
        u.cmp.progs = v.cmp.progs ++ [newProg x bundle e.img.version ((freeBank v x.part x.ctx).getD 0) pr] ∧
        (loadOf u x.part).isSome = true) ∧
    (∀ (p : Fin 8) l, loadOf s p = some l → l.src.part = p → l.adapter = none →
      (∀ e ∈ bundleEnts s, e.loading = true → e.part = p.val → ∀ r ∈ bundleRuns s e, ∀ b ∈ s.mem.poison,
        ¬ (r.1 ≤ b ∧ b < r.1 + r.2)) →
      Gives (.bundleCommit p) s fun u => loadOf u p = none ∧
        Completed l.src (if l.version = 0 then 0x21 else 0x20) u ∧
        ∀ g ∈ s.cmp.progs, g.part = p.val → g.bundle = l.bundle → g.ctx = l.src.ctx.val → g.loading = true →
          ∃ h ∈ u.cmp.progs, h.part = g.part ∧ h.bundle = g.bundle ∧ h.ctx = g.ctx ∧ h.version = g.version ∧
            h.loading = false ∧ h.current = true) ∧
    (∀ bundle e, let t := (takeCmd s (takerOf s x) 0x22).s
      cmdNo t x .control false = none → ctxPresent t x = true → sameLoad t x.part bundle = false →
      (versionsOf t x.part bundle).find? (fun e => e.current && e.ctx == x.ctx.val) = some e →
      (e.img.shared = true → namedBase t bundle = false) →
      Gives (.unloadBundle x bundle) s fun u => Completed x 0x22 u ∧
        ∀ b ∈ bundleEnts u, b.part = x.part.val → b.img.id = bundle → b.ctx = x.ctx.val → b.loading = false →
          b.current = false) ∧
    (∀ bundle g, let t := (takeCmd s (takerOf s x) 0x22).s
      cmdNo t x .control false = none → ctxPresent t x = true → sameLoad t x.part bundle = false →
      (progsOf t x.part).find? (fun g => g.current && g.bundle == bundle && g.ctx == x.ctx.val) = some g →
      Gives (.unloadProgram x bundle) s fun u => Completed x 0x22 u ∧
        ∀ h ∈ u.cmp.progs, h.part = x.part.val → h.bundle = bundle → h.ctx = x.ctx.val → h.loading = false →
          h.current = false) ∧
    (∀ addr len a, let t := (takeCmd s (takerOf s x) 0x23).s
      cmdNo t x .control false [addrNo addr 24] = none → ctxPresent t x = true → loadOf t x.part = none →
      let v := setLoad (emit (acceptCmd t x 0x23 (takeCmd s (takerOf s x) 0x23).jseq) (.hostRead x.fn addr len)) x.part
        (some ⟨x, 0x23, adBundle a, adVersion a, 0, some (adId a)⟩)
      adapterNo v x a = none → Gives (.loadAdapter x addr len a) s fun u =>
        u.cmp.adapters = v.cmp.adapters ++ [⟨x.part, x.ctx, adBundle a, adId a, adVersion a, a.data.length,
          (adapterPlace v x.part a.data.length).getD 0, false, true, false⟩]) ∧
    (∀ (p : Fin 8) l adapter, loadOf s p = some l → l.src.part = p → l.adapter = some adapter →
      (∀ a ∈ adaptersOf s p, a.id = adapter → a.loading = true → ∀ b ∈ blocksOf a.addr a.bytes, b ∉ s.mem.poison) →
      Gives (.adapterCommit p adapter) s fun u => loadOf u p = none ∧ Completed l.src 0x23 u ∧
        ∀ a ∈ s.cmp.adapters, a.part = p.val → a.id = adapter → a.ctx = l.src.ctx.val → a.loading = true →
          { a with loading := false, current := true } ∈ u.cmp.adapters) ∧
    (∀ bundle adapter a, let t := (takeCmd s (takerOf s x) 0x24).s
      cmdNo t x .control false = none → ctxPresent t x = true →
      (adaptersOf t x.part).find? (fun a => a.id == adapter && a.bundle == bundle && a.current && a.ctx == x.ctx.val) = some a →
      Gives (.deleteAdapter x bundle adapter) s fun u => Completed x 0x24 u ∧
        ∀ b ∈ u.cmp.adapters, b.part = x.part.val → b.id = adapter → b.ctx = x.ctx.val → b.loading = false →
          b.current = false) ∧
    (∀ (die slot : Fin 16) addr bs, let y := takerOf s x
      let t := (takeCmd s y 0x25).s
      let c := codeTableOf bs
      cmdNo t y .control true [addrNo addr 24] = none →
      (loadTable (emit t (.hostRead y.fn addr 136)) (srcOrigin y) 8 die slot c).2 = none →
      Gives (.loadCode x die slot ⟨addr, .inr bs⟩) s fun u => Completed y 0x25 u ∧
        codeSlotOf u die slot = ⟨true, c.kindByte == 0, c.gen, c.lens⟩)

/-! ### Commands of the host: requests -/

/-- R309, R320, R329, R407 to R409: a SUBMIT that passes its checks goes to admission; a tree is pending in its slot; a CANCEL
ends its request at once, or marks it for the boundary of the step that runs it; CANCEL ALL of a context with no column in a step
ends its requests at once. -/
def Obligations.RequestCommands : Prop :=
  ∀ (x : Src) (s : State),
    (∀ a bs, let t := readNamed (takeCmd s (takerOf s x) 1).s x a.block (reqBytes a)
      submitNo t x a (some (reqBlockOf a bs)) = none →
      Gives (.submit x a (.inr bs)) s fun u => u = admitNew t x a (reqBlockOf a bs) (takeCmd s (takerOf s x) 1).time) ∧
    (∀ base n addr bs, let tr : Tree := ⟨base, nodesOf bs n⟩
      specNo (takeCmd s (takerOf s x) 2).s x n addr (some tr) = none →
      Gives (.speculate x ⟨base, n, addr, .inr bs⟩) s fun u => (slotOf u x.slot).tree = some ⟨tr, some x⟩) ∧
    (let t := (takeCmd s (takerOf s x) 3).s
     cmdNo t x .any false = none → slotNo t x = none →
      (inRunning t x.slot = false → (slotOf t x.slot).st = .closing →
        Gives (.cancel x) s (Completed x 3)) ∧
      (inRunning t x.slot = false → (slotOf t x.slot).st ≠ .closing →
        Gives (.cancel x) s fun u => Completed x 3 u ∧
          u = endCmd (closeSlot (stopSlot (startCmd t x 3) x.slot) x.slot 4 .cancelled) x 3 .ok 0) ∧
      (inRunning t x.slot = true → (slotOf t x.slot).st ≠ .closing → (slotOf t x.slot).cancel = none →
        Gives (.cancel x) s fun u => (slotOf u x.slot).cancel = some (some x)) ∧
      (inRunning t x.slot = true → (slotOf t x.slot).st = .closing ∨ (slotOf t x.slot).cancel ≠ none →
        Gives (.cancel x) s (Completed x 3))) ∧
    (let t := (takeCmd s (takerOf s x) 3).s
     cmdNo t x .any false = none → ctxPresent t x = true →
      (∀ n ∈ slotsOf t x.part, (slotOf t n).ctx = x.ctx.val → inRunning t n = false) →
      Gives (.cancelAll x) s fun u => Completed x 3 u ∧ u = endCmd (((slotsOf t x.part).filter fun n =>
        (slotOf t n).ctx == x.ctx.val && (slotOf t n).st != .closing).foldl
          (fun s n => if inRunning s n then s else cancelSlot none s n) (startCmd t x 3)) x 3 .ok 0)

/-! ### Commands of the host: rings, fields, contexts, reads -/

/-- R391, R394, R397, R419: attaching a ring makes it ACTIVE at its place with P = C = START, or with its kept indices;
detaching, pausing and resuming move it to their states; each completes. -/
def Obligations.RingCommands : Prop :=
  ∀ (x : Src) (r : Fin 5) (s : State),
    (∀ log2 base wb start mc mt, attachNo (takeCmd s (takerOf s x) 0x10).s x r log2 base wb mc mt = none →
      Gives (.ringAttach x r log2 base wb start mc mt) s fun u => Completed x 0x10 u ∧
        (ringOf u x.part r).st = .active ∧ (ringOf u x.part r).log2 = log2 ∧ (ringOf u x.part r).base = base ∧
        (ringOf u x.part r).owner = x.fn.val ∧ (ringOf u x.part r).cidx = start % 2 ^ 32) ∧
    (∀ log2 base wb mc mt, let t := (takeCmd s (takerOf s x) 0x10).s
      attachNo t x r log2 base wb mc mt = none → ringUsed (ringOf t x.part r) ≤ 2 ^ log2 →
      Gives (.ringAttachKeep x r log2 base wb mc mt) s fun u => Completed x 0x10 u ∧
        (ringOf u x.part r).st = .active ∧ (ringOf u x.part r).log2 = log2 ∧
        (ringOf u x.part r).cidx = (ringOf t x.part r).cidx) ∧
    (cmdNo (takeCmd s (takerOf s x) 0x11).s x .control false = none → Gives (.ringDetach x r) s fun u => Completed x 0x11 u ∧
      (ringOf u x.part r).st = .detached ∧ (ringOf u x.part r).cidx = (ringOf s x.part r).cidx) ∧
    (let t := (takeCmd s (takerOf s x) 0x12).s
     cmdNo t x .control false = none → (ringOf t x.part r).st = .active ∨ (ringOf t x.part r).st = .paused →
      Gives (.ringPause x r) s fun u => Completed x 0x12 u ∧ (ringOf u x.part r).st = .paused) ∧
    (let t := (takeCmd s (takerOf s x) 0x13).s
     cmdNo t x .control false = none → (ringOf t x.part r).st = .active ∨ ((ringOf t x.part r).st = .paused ∧
        (fnOf t (ringOf t x.part r).owner).paused = false ∧ (fnOf t (ringOf t x.part r).owner).bme = true) →
      Gives (.ringResume x r) s fun u => Completed x 0x13 u ∧ (ringOf u x.part r).st = .active)

/-- R352, R361, R369, R413, R417, R418, R421, R422, R453, R550: the other control commands: CONFIG changes its field, CONTEXT
adds or removes a context, SWAP_AREA names or drops the area, READ copies what its source holds, DLQ_ACK frees the
oldest records, the journal writer moves what is queued into its ring. -/
def Obligations.ControlCommands : Prop :=
  ∀ (x : Src) (s : State),
    (∀ off width value mask f, let t := (takeCmd s (takerOf s x) 0x30).s
      configNo t x off width value mask = none → fldFor off width mask = some f → configExists t f = true →
      fldRange t f (fldNew t f off value mask) = none →
      Gives (.config x off width value mask) s fun u => u = configDo t x f off width value mask
        { obj := 0, part := configPart t f, width := width, target := off, new := value,
          old := fldGet t f * 2 ^ (fldPos f).lo / 2 ^ (8 * (off - (fldPos f).off)) &&& mask }) ∧
    (let t := (takeCmd s (takerOf s x) 0x31).s
     cmdNo t x .control false = none → (partOf s x.part).valid = true → (ctxOf (partOf s x.part) x.ctx).st = .empty →
      quiescent s x.part = true → Gives (.contextCreate x) s fun u => Completed x 0x31 u ∧
        (partOf u x.part).nctx = (partOf s x.part).nctx + 1 ∧ (ctxOf (partOf u x.part) x.ctx).st ≠ .empty) ∧
    (let t := (takeCmd s (takerOf s x) 0x31).s
     cmdNo t x .control false = none → ctxPresent t x = true →
      ctxActive (partOf s x.part) x.ctx = false →
      Gives (.contextDelete x) s fun u => Completed x 0x31 u ∧ ctxOf (partOf u x.part) x.ctx = Ctx.init) ∧
    (∀ addr size, swapNo (takeCmd s (takerOf s x) 0x32).s x addr size = none →
      Gives (.swapArea x addr size) s fun u => Completed x 0x32 u ∧
        (partOf u x.part).swapArea = if size = 0 then none else some (addr, size)) ∧
    (swapNo (takeCmd s (takerOf s x) 0x32).s x 0 0 = none →
      Gives (.swapAreaUnregister x) s fun u => Completed x 0x32 u ∧ (partOf u x.part).swapArea = none) ∧
    (∀ count start addr es, let t := takeCmd s (takerOf s x) 0x40
      readNo t.s x count addr = none →
      (selJournal x start t.s t.jseq t.time = some es → Gives (.readJournal x count start addr) s fun u =>
        u = readDone t.s x t.jseq addr (es.take (readLimit x count)) ∧ Completed x 0x40 u) ∧
      (selLedger x start t.s t.jseq t.time = some es → Gives (.readLedger x count start addr) s fun u =>
        u = readDone t.s x t.jseq addr (es.take (readLimit x count)) ∧ Completed x 0x40 u) ∧
      (selDlq x t.s t.jseq t.time = some es → Gives (.readDlq x count addr) s fun u =>
        u = readDone t.s x t.jseq addr (es.take (readLimit x count)) ∧ Completed x 0x40 u) ∧
      (selSteps x start t.s t.jseq t.time = some es → Gives (.readStepRecords x count start addr) s fun u =>
        u = readDone t.s x t.jseq addr (es.take (readLimit x count)) ∧ Completed x 0x40 u) ∧
      (selErrors x start t.s t.jseq t.time = some es → Gives (.readErrors x count start addr) s fun u =>
        u = readDone t.s x t.jseq addr (es.take (readLimit x count)) ∧ Completed x 0x40 u)) ∧
    (∀ n, let t := (takeCmd s (takerOf s x) 0x41).s
      cmdNo t x .control false = none → n ≤ (partOf t x.part).dlq.length → Gives (.dlqAck x n) s fun u =>
        Completed x 0x41 u ∧ (partOf u x.part).dlq = (partOf t x.part).dlq.drop n ∧
        (partOf u x.part).dlqBase = (partOf t x.part).dlqBase + n) ∧
    (∀ (p : Fin 8) n, Gives (.journalWrite p n) s fun u =>
      (journalOf u p).queue = (journalOf s p).queue.drop n ∧
      (journalOf u p).head = (journalOf s p).head + min n (journalOf s p).queue.length ∧
      ((journalOf s p).entries.length + n ≤ 2 ^ 20 →
        (journalOf u p).entries = (journalOf s p).entries ++ (journalOf s p).queue.take n))

/-! ### The host link and its functions -/

/-- R385 to R387, R394, R399: training sets the link's mode, and one below MIN_MODE raises ALERT with its record; a host reset,
a function's reset and VF Enable cleared leave their functions as Table 16-3 says, and partitions and slots as they were; VF Enable
set gives the number of functions; Bus Master Enable pauses a function's ACTIVE rings and returns them. -/
def Obligations.HostLink : Prop :=
  ∀ s : State,
    (∀ speed width flit, s.side.mainOn = true → s.side.perst = false → modeRank speed width ≠ 0 →
      let low := modeRate (modeRank speed width) < modeRate s.hif.minMode
      Gives (.linkTrained speed width flit) s fun u => u.hif.speed = speed ∧ u.hif.width = width ∧ u.hif.flit = flit ∧
        u.hif.hostUp = true ∧ u.hif.belowMin = decide low ∧
        (low → u.ras.alert = true ∧ (QueueOpen s → Recorded s u .hifLinkLow [speed, width, s.hif.minMode]))) ∧
    (∀ perst, s.side.mainOn = true → Gives (.hostLinkReset perst) s fun u => u.hif.hostUp = false ∧ u.hif.numVfs = 0 ∧
      u.hif.speed = 0 ∧ (∀ f < 9, FnDown s u f) ∧ (perst = true → u.side.perst = true) ∧ u.slots = s.slots ∧ u.parts = s.parts ∧
      u.tmb = s.tmb ∧ u.tiles = s.tiles) ∧
    (∀ k : Fin 9, k.val ≠ 0 → k.val ≤ s.hif.numVfs → Gives (.vfFlr k) s fun u =>
      FnDown s u k ∧ u.slots = s.slots ∧ u.parts = s.parts) ∧
    (Gives .pf0Flr s fun u => u.hif.numVfs = 0 ∧ u.hif.bar4Base = 0 ∧ (∀ f < 9, FnDown s u f) ∧ u.slots = s.slots ∧
      u.parts = s.parts) ∧
    (Gives .vfEnableClear s fun u => u.hif.numVfs = 0 ∧ (∀ f < 9, f ≠ 0 → FnDown s u f) ∧ fnOf u 0 = fnOf s 0 ∧
      u.slots = s.slots ∧ u.parts = s.parts) ∧
    (∀ n ≤ 8, s.boot.presented = true → s.boot.st ≠ .recovery →
      Gives (.vfEnableSet n) s fun u => u.hif = { s.hif with numVfs := n } ∧ u.slots = s.slots ∧ u.parts = s.parts) ∧
    (∀ fn : Fin 9, Gives (.busMasterEnableChange fn false) s fun u => (fnOf u fn).bme = false ∧
      ∀ q ∈ fnRings s fn, (ringOf u q.1 q.2).st ≠ .active) ∧
    (∀ fn : Fin 9, (fnOf s fn).paused = false → Gives (.busMasterEnableChange fn true) s fun u => (fnOf u fn).bme = true ∧
      ∀ q ∈ fnRings s fn, (ringOf u q.1 q.2).st ≠ .paused)

/-- R252, R254, R390, R402: a BAR4 write that PF0 may make and whose partly covered lines read well is performed, one that meets
a bad line is discarded; a read of lines that stand returns the bytes there; a malformed request is a violation. -/
def Obligations.Bar4AndTlp : Prop :=
  ∀ s : State,
    (∀ off len bs errs, s.boot.st = .run → s.pwr.sleep = .awake → off + bs.length ≤ (fnOf s 0).bar4Size * gib →
      let a := s.hif.bar4Base * gib + off
      let v := linesRead s ⟨3, 0⟩ ((linesOf a bs.length).filter fun l => !(wholeLines a bs.length).contains l) errs
      bar4Refuses s true (linesOf a bs.length) = none →
      (v.2.1 = 0 → Gives (.bar4Access off len (some bs) false errs) s fun u =>
        u = emit (memWrite v.1 a bs) (.reply .pf0 off .written)) ∧
      (v.2.1 ≠ 0 → Gives (.bar4Access off len (some bs) false errs) s fun u =>
        u = emit (bar4Bad s v.1 v.2.1 v.2.2) (.reply .pf0 off .discarded) ∧ u.mem.bytes = s.mem.bytes)) ∧
    (∀ off len errs, s.boot.st = .run → s.pwr.sleep = .awake → off + len ≤ (fnOf s 0).bar4Size * gib →
      let a := s.hif.bar4Base * gib + off
      let v := linesRead s ⟨3, 0⟩ (linesOf a len) errs
      bar4Refuses s false (linesOf a len) = none → v.2.1 = 0 → Gives (.bar4Access off len none false errs) s fun u =>
        u = emit v.1 (.reply .pf0 off (.bytes (memRead v.1 a len))) ∧ u.mem.bytes = s.mem.bytes) ∧
    (∀ fn : Fin 9, s.side.mainOn = true → (fnOf s fn).paused = false →
      Gives (.tlpError fn false) s fun u => (fnOf u fn).viol = satAdd 32 (fnOf s fn).viol 1)

/-- R389, R393, R395, R396, R398, R403: a doorbell that passes its check moves its index, one that fails it halts the ring and is
a violation with its record, one in a pause is latched; a fetch takes each descriptor once and in order; the output rings' holds and
indices are written, and their moderation timer fires; a good write of MBX_DB makes the mailbox BUSY and not DONE, one of another
width is ignored and counted; a pause ends with its record, and the function's rings return. -/
def Obligations.Doorbells : Prop :=
  ∀ (fn : Fin 9) (p : Fin 8) (r : Fin 5) (s : State),
    (∀ v : BitVec 32, s.boot.st = .run → fnLive s fn = true → vfAbsent s fn = false → driverOf s p = fn.val →
      let x := ringOf s p r
      ((fnOf s fn).paused = true → Gives (.doorbellWrite fn p r v) s fun u =>
        u = modRing s p r fun y => { y with latched := some v.toNat }) ∧
      ((fnOf s fn).paused = false → x.st = .active ∨ x.st = .paused →
        (r.val < 3 → doorbellOk x r v.toNat = true → Gives (.doorbellWrite fn p r v) s fun u =>
          u = wakeUp (modRing s p r fun y => { y with db := v.toNat, pidx := v.toNat }) (.doorbell fn)) ∧
        (3 ≤ r.val → doorbellOk x r v.toNat = true → Gives (.doorbellWrite fn p r v) s fun u => u = ringAck s p r v.toNat) ∧
        (doorbellOk x r v.toNat = false → QueueOpen s → Gives (.doorbellWrite fn p r v) s fun u =>
          (ringOf u p r).st = .haltedViolation ∧ (ringOf u p r).pidx = x.pidx ∧ (ringOf u p r).cidx = x.cidx ∧
          (fnOf u fn).viol = satAdd 32 (fnOf s fn).viol 1 ∧
          ∃ e ∈ u.log.errQueue, e.code = .hifDoorbell ∧ e.detail = [fn.val, r.val, v.toNat, x.pidx, x.cidx]))) ∧
    (∀ ds, s.boot.st = .run → s.pwr.sleep = .awake → s.hif.hostUp = true → r.val ≤ 2 → ds ≠ [] →
      ds.length ≤ min 64 (ringWaiting s p r) → (∀ d ∈ ds, cmdKnown d.cmd = true) →
      (∀ q < r.val, ringWaiting s p q = 0) → (partOf s p).hold.length < 4096 → (journalOf s p).queue.length ≤ 32768 →
      relayTo s p = none → Gives (.ringFetch p r ds) s fun u =>
        (ringOf u p r).cidx = ((ringOf s p r).cidx + ds.length) % 2 ^ 32 ∧
        u.hif.taken.map Taken.tag = s.hif.taken.map Taken.tag ++ ds.map Fetched.tag) ∧
    (3 ≤ r.val → ringWritable s p r = true → Gives (.outputBatchWrite p r) s fun u =>
      let v := writeback (drainRing s p r) p r
      u = if 0 < (ringOf v p r).unsig ∧ (ringOf v p r).modCount ≤ (ringOf v p r).unsig then fireRing v p r else v) ∧
    (3 ≤ r.val → 0 < (ringOf s p r).unsig → (ringOf s p r).unsigFrom + (ringOf s p r).modTime * 1000 ≤ nowNs s →
      Gives (.msixModerationTimer p r) s fun u => u = fireRing s p r ∧ (ringOf u p r).unsig = 0) ∧
    (∀ v : BitVec 32, s.side.mainOn = true → s.boot.st = .run → v.getLsbD 0 = true → fnLive s fn = true →
      vfAbsent s fn = false → (fn.val = 0 ∨ (vfBind s fn).remote = false) → (fnOf s fn).mbxBusy = false →
      s.pwr.sleep = .awake → (∀ q, fnPart s fn = some q → (partOf s q).hold.length < 4096) →
      cmdKnown (mbxFetched (fnOf s fn)).cmd = true → Gives (.mbxDbWrite fn v 4) s fun u =>
        u = modFn s fn fun x => { x with mbxBusy := true, mbxDone := false }) ∧
    (∀ (v : BitVec 32) w, s.side.mainOn = true → s.boot.st ≠ .recovery → fnLive s fn = true → vfAbsent s fn = false → w ≠ 4 →
      Gives (.mbxDbWrite fn v w) s fun u =>
        (fnOf u fn).mbxBusy = (fnOf s fn).mbxBusy ∧ (fnOf u fn).mbxWord = (fnOf s fn).mbxWord ∧
        (fnOf u fn).viol = satAdd 32 (fnOf s fn).viol 1) ∧
    ((fnOf s fn).paused = true → (fnOf s fn).pauseEnd ≤ nowNs s → QueueOpen s →
      (∀ q ∈ drivenRings s fn, (ringOf s q.1 q.2).latched = none) → Gives (.pauseEnd fn) s fun u =>
        (fnOf u fn).paused = false ∧ Recorded s u .hifPause [fn.val, (fnOf s fn).suppressed] ∧
        ((fnOf s fn).bme = true → ∀ q ∈ fnRings s fn, (ringOf u q.1 q.2).st ≠ .paused))

/-- R389, R393, R399, R401, R424, R547, R549: a register write acts as its one transaction, one of a bad size or alignment is a
violation, and one of a ring's DB is its doorbell; the ledger's window; the low word of a wide register; the relay window: sent on
where its module is reachable, all ones where it is not or after 50 µs; a good read of the host's memory brings only its data, a
failed one of descriptors halts its ring. -/
def Obligations.HostAccess : Prop :=
  ∀ s : State,
    (∀ o bar off width v, Gives (.registerWrite o bar off width v) s fun u => u = regWrite o bar off width v s) ∧
    (∀ off width v, s.side.mainOn = true → writeSized off width = false → Gives (.registerWrite .pf0 0 off width v) s fun u =>
      (fnOf u 0).viol = satAdd 32 (fnOf s 0).viol 1) ∧
    (∀ (p : Fin 8) (r : Fin 5) (v : BitVec 32), s.side.mainOn = true →
      Gives (.registerWrite .pf0 2 (p * 0x200000 + r * 0x1000) 4 v.toNat) s fun u => exec (.doorbellWrite 0 p r v) s = .next u) ∧
    (∀ o sq, s.side.mainOn = true → regOrigin o = true → (s.boot.st = .recovery → o = .mgmt) →
      Gives (.ledgerSelWrite o sq) s fun u => u.log.ledgerSel = sq % 2 ^ 64) ∧
    (∀ rd off, s.side.mainOn = true → Gives (.wideRegisterLowRead rd off) s fun u =>
      u.out = (readReg s rd off 8).1.out ++ [.reply rd off (.data (readReg s rd off 8).2)]) ∧
    (∀ rd off width, s.boot.st = .run → (s.hif.front = false ∨ (routeOf s s.hif.relayMod).reachable = false) →
      QueueOpen s → Gives (.relayAccess rd off width none) s fun u =>
        u.out = s.out ++ [.reply rd off (.data (2 ^ (8 * width) - 1))] ∧ Recorded s u .hifRelayTimeout [s.hif.relayMod]) ∧
    (∀ rd off width, s.boot.st = .run → s.hif.front = true → (routeOf s s.hif.relayMod).reachable = true →
      Gives (.relayAccess rd off width none) s fun u =>
        ∃ q ∈ u.lnk.relays, q.who = rd ∧ q.module = s.hif.relayMod ∧ q.off = off ∧ q.since = nowNs s) ∧
    (∀ rd off width v, s.boot.st = .run → s.hif.front = true → (routeOf s s.hif.relayMod).reachable = true →
      Gives (.relayAccess rd off width (some v)) s fun u => u = sendVc0 s s.hif.relayMod 2 [off, width, v]) ∧
    (∀ m : Fin 64, Gives (.relayTimeout m) s fun u =>
      (∀ q ∈ u.lnk.relays, q ∈ s.lnk.relays ∧ (q.module = m.val → nowNs s < q.since + 50000)) ∧
      ∀ q ∈ s.lnk.relays, q.module = m.val → q.since + 50000 ≤ nowNs s →
        .reply q.who q.off (.data (2 ^ (8 * q.width) - 1)) ∈ u.out) ∧
    (∀ why, Gives (.dmaReadComplete why none) s fun u => u = s) ∧
    (∀ d (p : Fin 8) (r : Fin 5), r.val ≤ 2 → (ringOf s p r).st ≠ .detached →
      Gives (.dmaReadComplete (.descriptors p r) (some d)) s fun u =>
        u = dmaFailed (ringTo s p r .haltedDma) (ringOf s p r).owner p d ∧ (ringOf u p r).st = .haltedDma)

/-! ### Mirist -/

/-- R426, R428, R429, R432, R441 to R444, R451: a port trains and comes up or is held as miswired, takes its flits and answers one
it cannot correct with a NAK, narrows lane by lane, goes down and trains again, resets its link layer, and is fenced by its
partner; a NAK empties the retry buffer up to the named SEQ. -/
def Obligations.PortLife : Prop :=
  ∀ (p : Fin 24) (s : State),
    (∀ m pp g t, (portOf s p).st = .training → s.pwr.sleep = .awake → peerOk s p m pp = true → g = s.lnk.groupId →
      t = s.lnk.topo → Gives (.identReceive p m pp g t) s fun u => (portOf u p).st = .up ∧
        (portOf u p).rxSeq = 0 ∧ (portOf u p).peerMod = m) ∧
    (∀ m pp g t, (portOf s p).st = .training → QueueOpen s → peerOk s p m pp = false ∨ g ≠ s.lnk.groupId ∨ t ≠ s.lnk.topo →
      Gives (.identReceive p m pp g t) s fun u => (portOf u p).st = .miswire ∧ Recorded s u .lnkMiswire [p, m, pp]) ∧
    (∀ f, portLive s p = true → Gives (.flitReceive p f) s fun u => u = flitIn s p f ∧
      (4 ≤ f.errs.length → u = sendControl s p 2 [(portOf s p).rxSeq])) ∧
    (∀ sq, portLive s p = true → sq ∈ (portOf s p).retry → (portOf s p).burst.length < 64 →
      Gives (.nakReceive p sq) s fun u => (portOf u p).retry = (portOf s p).retry.dropWhile (· != sq) ∧
        (portOf u p).retries = satAdd 32 (portOf s p).retries 1) ∧
    (portLive s p = true → Gives (.fenceReceive p) s fun u => (portOf u p).st = .fencedByPeer) ∧
    (∀ (l : Fin 8) ce n, n < ce * 100000 → Gives (.laneErrorWindow p l ce n) s fun u => u = dropLane s p l) ∧
    (∀ l : Fin 8, (portOf s p).lanesOk.testBit l = true → (portOf s p).st = .up →
      laneWidth ((portOf s p).lanesOk - 2 ^ l.val) ≠ 0 → Gives (.laneDrop p l) s fun u =>
        (portOf u p).lanesOk = (portOf s p).lanesOk - 2 ^ l.val ∧ (portOf u p).width = laneWidth (portOf u p).lanesOk) ∧
    ((portOf s p).st = .up ∨ (portOf s p).st = .sleep ∨ (portOf s p).st = .training →
      Gives (.portDown p) s fun u => u = portDown s p) ∧
    ((portOf s p).st = .down → s.boot.applied = true → Gives (.retrainAttempt p true) s fun u =>
      (portOf u p).st = .training ∧ (portOf u p).lanesOk = 0xFF) ∧
    (s.side.mainOn = true → s.boot.st = .run → (portOf s p).st = .down →
      Gives (.lnkRetrainWrite .pf0 p) s fun u => (portOf u p).st = .training ∧ Ledgered 0 (0x80008 + p.val * 0x400) .ok u) ∧
    (∀ why, (portOf s p).st = .up ∨ (portOf s p).st = .sleep →
      Gives (.linkLayerReset p why) s fun u => u = linkReset s p why ∧
        (portOf u p).llResets = satAdd 16 (portOf s p).llResets 1) ∧
    ((portOf s p).stopRx = true → Gives (.stopTimeout p) s fun u => u = linkReset s p .stopHeld)

/-- R435, R437, R440, R447 to R449: acknowledgements empty their flow, a packet unacknowledged for 100 µs is sent again three times
before its flow fails, a quench ends a send's, a packet held by a sleeping path fails it; routes follow notices; a WAKE message
wakes; TIME packets go out, and the group's clock steers this one. -/
def Obligations.FlowsAndTime : Prop :=
  ∀ s : State,
    (∀ flow pseq, Gives (.ackReceive flow pseq) s fun u => ∀ f ∈ u.lnk.tx, f.flow = flow → ∀ k ∈ f.pkts, pseq < k.pseq) ∧
    (∀ smod flow q, q ∈ s.lnk.rx → q.smod = smod → q.flow = flow → q.unacked ≠ 0 → q.since + 5000 ≤ nowNs s →
      Gives (.ackTimer smod flow) s fun u => u = sendAck s smod flow) ∧
    (∀ flow pseq f k t, s.lnk.tx.find? (fun f => f.flow == flow) = some f → f.pkts.find? (fun k => k.pseq == pseq) = some k →
      k.sentAt = some t → t + 100000 ≤ nowNs s →
      (3 ≤ k.tries → Gives (.resendTimer flow pseq) s fun u => u = flowFail s flow) ∧
      (k.tries < 3 → Gives (.resendTimer flow pseq) s fun u => ∃ v, u = pumpFlows v ∧ v.slots = s.slots ∧
        ∃ g ∈ v.lnk.tx, g.flow = flow ∧ ∃ j ∈ g.pkts, j.pseq = pseq ∧ j.tries = k.tries + 1 ∧ j.sentAt = none)) ∧
    (∀ flow why f n tag, s.lnk.tx.find? (fun f => f.flow == flow) = some f → f.op = .send n tag → why ≠ .refused →
      Gives (.quenchReceive flow why) s fun u => (∀ g ∈ u.lnk.tx, g.flow ≠ flow) ∧ Left n tag u) ∧
    (∀ dst : Fin 64, dst.val ≠ s.lnk.modNum → (routeNow s (routeOf s dst)).reachable = true →
      (routeOf s dst).reachable = false →
      Gives (.routeReceive dst true) s fun u => (routeOf u dst).reachable = true) ∧
    (∀ dst : Fin 64, dst.val ≠ s.lnk.modNum → (routeOf s dst).reachable = true →
      Gives (.routeReceive dst false) s fun u => (routeOf u dst).reachable = false) ∧
    (∀ m : Fin 64, Gives (.wakeMessage m) s fun u => u = wakeUp s (.group m)) ∧
    (∀ flow, (∃ f ∈ s.lnk.tx, f.flow = flow ∧ (∃ k ∈ f.pkts, k.sentAt = none) ∧ sleepHeld s f.dst f.vc = true) →
      Gives (.sleepPacketTimeout flow) s fun u =>
        u = flowFail (dropTransit s fun k => k.hdr.flow == flow && sleepHeld s k.hdr.dmod k.hdr.vc.val) flow) ∧
    (Gives .timeExchange s fun u => u.slots = s.slots ∧ u.out.length = s.out.length + (neighbourPorts s).length) ∧
    (∀ (m : Fin 64) hops t1 t2 t3 t4, s.lnk.topo ≠ 0 → s.side.gsyncLock = false →
      let v := { s with lnk := { s.lnk with hops := (s.lnk.hops.filter fun h => h.1 != m.val) ++ [(m.val, hops)] } }
      follows v m hops = true → Gives (.timeReceive m hops t1 t2 t3 t4) s fun u =>
        u = discipline v 2 ((((t2 : Int) - t1) + ((t3 : Int) - t4)) / 2)) ∧
    (canReach s s.lnk.master = false → Gives .masterTimeout s fun u =>
      u.lnk.master = (s.lnk.masters.find? (canReach s)).getD 0)

/-- R203, R305, R332 to R334, R356, R400, R435, R470: a packet for this module that passes its port's checks is taken by its
flow, or on VC0 acts at once; a hand-off goes on or ends by its answer. -/
def Obligations.PacketsAct : Prop :=
  ∀ (k : Packet) (s : State), (portOf s k.port).st = .up → k.dmod = s.lnk.modNum → k.dmod ∈ groupMods s →
    k.data ≠ [] → k.data.length ≤ (if k.vc.val = 0 then 212 else 3872) → k.crcOk = true →
    let v := freeRx s k.port k.vc (flitsOf k.data.length) k.clsH
    (∀ vec, kindVc (.send vec) k.vc = true →
      Gives (.sendPacketReceive k vec) s fun u => u = rxTake v k (.send vec)) ∧
    (∀ b, kindVc (.relay b) k.vc = true → Gives (.relayPacketReceive k b) s fun u =>
      u = if k.vc.val = 0 then (deliverPkt v k (.relay b)).1 else rxTake v k (.relay b)) ∧
    (∀ (p : Fin 8) tr, kindVc (.handoff p.val tr) k.vc = true →
      Gives (.handoffPacketReceive k p tr) s fun u => u = rxTake v k (.handoff p.val tr)) ∧
    (∀ (p : Fin 8) hash msg, kindVc (.page p.val hash msg) k.vc = true →
      Gives (.pagePacketReceive k p hash msg) s fun u => u = rxTake v k (.page p.val hash msg)) ∧
    (∀ q block, kindVc (.weight q block) k.vc = true →
      Gives (.weightPacketReceive k q block) s fun u => u = rxTake v k (.weight q block)) ∧
    (∀ route, kindVc (.expert route) k.vc = true →
      Gives (.expertPacketReceive k route) s fun u => u = rxTake v k (.expert route)) ∧
    (∀ n : Fin 65536, (slotOf s n).st = .handoff → Gives (.handoffAckReceive n true .ok) s fun u =>
      (slotOf u n).st = .closing ∧ (slotOf u n).finDone = true ∧ (slotOf u n).hold = (slotOf s n).hold) ∧
    (∀ n : Fin 65536, (slotOf s n).st = .handoff → Gives (.handoffAckReceive n true .accepted) s fun u =>
      u = handoffPages (dropHandoff s n) n false) ∧
    (∀ n : Fin 65536, (slotOf s n).st = .handoff → Gives (.handoffAckReceive n true .badState) s fun u =>
      u = handoffPages (dropHandoff s n) n true) ∧
    (∀ n : Fin 65536, (slotOf s n).st = .handoff → Gives (.handoffAckReceive n false .badState) s fun u =>
      u = closeSlot (dropHandoff s n) n 5 .badState) ∧
    (∀ (n : Fin 65536) st, (slotOf s n).st = .handoff → st ≠ .badState →
      Gives (.handoffAckReceive n false st) s fun u => u = handoffTry (dropHandoff s n) n)

/-! ### Faults, fences and tests -/

/-- R453, R456 to R459, R477: the record writer drains its queue; counts age and rates count; a fence, an unfence and the fence
list in flash. -/
def Obligations.FaultCounting : Prop :=
  ∀ s : State,
    (∀ n, Gives (.errorRecordWrite n) s fun u => u.log.errQueue = s.log.errQueue.drop n ∧
      u.log.errSeq = s.log.errSeq + min n s.log.errQueue.length) ∧
    (∀ w, Gives (.countAgeOut w) s fun u => (unitRec u w).events = (unitRec s w).events.filter fun t =>
      decide (nowNs s < t + (unitWindow s w).2 * 3600000000000)) ∧
    (∀ w n, w.kind = .channel → unitExists w = true → 10000 < n → Gives (.ceRateHour w n) s fun u => u = countFault s w id) ∧
    (∀ w n, w.kind = .tile → unitExists w = true → 1000 < n → Gives (.ceRateHour w n) s fun u => u = countFault s w id) ∧
    (∀ w, unitExists w = true → isFenced s w = false → Gives (.unitFence w) s fun u => u = fenceAny s w) ∧
    (∀ w, (unitRec s w).st = .suspect → (unitRec s w).since + 600000000000 ≤ nowNs s →
      Gives (.suspectTimeout w) s fun u => u = fenceAny (pushErr s .ftResult { unit := w, detail := [3] }) w) ∧
    (s.side.mainOn = true → s.ras.listDirty = true →
      let us := (s.ras.units.filter fun r => r.st == .fenced).map UnitRec.unit
      let c := listBytes (((fenceCopy s.boot.flash).map Prod.fst).getD 0 + 1) us
      Gives .fenceListWrite s fun u => u.ras.listDirty = false ∧ (u.boot.flash.list0 = c ∨ u.boot.flash.list1 = c) ∧
        ∀ x, fenceCopy s.boot.flash = some x → listOf u.boot.flash.list0 = some x ∨ listOf u.boot.flash.list1 = some x) ∧
    (∀ w, s.side.mainOn = true → s.boot.st = .run → w.kind ≠ .port → isFenced s w = true →
      (∀ p ∈ dieUsers s w.die, quiescent s p = true) → Gives (.rasUnfenceGo .pf0 w) s fun u =>
        unitSt u w = .suspect ∧ u.ras.listDirty = true)

/-- R460 to R470: the test rotation, sessions and results; rebalances; repairs; links and cores that fall silent. -/
def Obligations.TestsAndRepairs : Prop :=
  ∀ s : State,
    (s.boot.st = .run → s.pwr.sleep = .awake → (∀ r ∈ s.ras.units, r.st = .inService) → s.ras.test.isSome = true →
      s.ras.nextTile ∉ s.ras.scheduled → Gives .ftRotation s fun u =>
        u.ras.nextTile = (s.ras.nextTile + 1) % 1024 ∧ u.ras.scheduled = s.ras.scheduled ++ [s.ras.nextTile]) ∧
    (∀ n : Fin 1024, n.val ∈ s.ras.scheduled → n.val ∉ s.ras.overdue → s.pwr.sleep = .awake → QueueOpen s →
      Gives (.ftOverdue n) s fun u => u.ras.overdue = s.ras.overdue ++ [n.val] ∧ Recorded s u .ftOverdue [n]) ∧
    (∀ (p : Fin 8) (n : Fin 1024), (partOf s p).valid = true → s.pwr.sleep = .awake → partOfTile s n = some p.val →
      s.ras.test = none → n.val ∈ s.ras.scheduled ∨ unitSt s (tileUnit n) = .suspect → isFenced s (tileUnit n) = false → gapFits s p = true →
      Gives (.testGapOpen p n) s fun u => (partOf u p).gap = some n.val ∧ u.ras.test = some (tileUnit n) ∧
        (tileOf u n).st = .fieldTest ∧ (tabGet u.pwr.sense n.val TileSense.init).reduced = true) ∧
    (∀ n : Fin 1024, s.ras.test = some (tileUnit n) → unitSt s (tileUnit n) = .inService →
      unitSt s (expUnit (n.val / 64) (n.val % 4)) = .inService → (∀ r < 32, unitSt s (rowUnit n r) = .inService) →
      Gives (.ftSessionDone n true [] true) s fun u => u.ras.test = none ∧ (tileOf u n).st = .idle ∧
        (tabGet u.pwr.sense n.val TileSense.init).reduced = false ∧
        u.ras.sessions = satAdd 32 s.ras.sessions 1 ∧ (unitRec u (tileUnit n)).passed = some (nowNs s)) ∧
    (∀ (c : Fin 512) found stuck, Gives (.channelTestDone c found stuck) s fun u =>
      u = endTest (heard s c (found == .silent)) (chanUnit c) (found == .data && decide (stuck ≤ 16))) ∧
    (∀ w pass, w.kind = .core ∨ w.kind = .soInst → Gives (.coreTestDone w pass) s fun u => u = endTest s w pass) ∧
    (∀ w, w ∈ s.ras.rebal → w.kind ≠ .tile → w.kind ≠ .scoreRow → Gives (.rebalanceDone w) s fun u =>
      u.ras.rebal = s.ras.rebal.erase w ∧
      ∀ p < 8, (partOf u p).stopWhy = (partOf s p).stopWhy.erase (stopCode w)) ∧
    (∀ b (src : Fin 3) r, s.ras.repairs.find? (fun r => r.block == b && r.source == src.val) = some r →
      ∀ host c, (copyFrom s b src host).filter (copyGood s b) = some c →
        Gives (.repairAttemptResult b src host) s fun u => u = repairedBy s b src c ∧ ∀ q ∈ u.ras.repairs, q.block ≠ b) ∧
    (∀ (d : Fin 16) (dir : Fin 4) parity, linkFenced s d dir = false → Gives (.edgeLinkTimeout d dir parity) s fun u =>
      u = countFault s ⟨.edgeLink, d, dir⟩ fun s =>
        pushErr s .edgeLink { unit := ⟨.edgeLink, d, dir⟩, detail := [d, dir, bit parity] }) ∧
    (∀ (xd : Fin 4) (c : Fin 8) inSo, s.boot.st = .run →
      let w : UnitId := if inSo then ⟨.soInst, 16 + xd, 0⟩ else ⟨.core, 16 + xd, c⟩
      isFenced s w = false → Gives (.coreWatchdog xd c inSo) s fun u =>
        u = fwFault (countFault s w fun s => pushErr s .coreFault { unit := w, detail := [xd, c] }))

/-! ### Boot, images, activation -/

/-- R475, R481 to R483, R492: the boot steps in their order, the slot they choose, and what fails. -/
def Obligations.BootSteps : Prop :=
  ∀ s : State, s.side.mainOn = true →
    (∀ fast n, s.boot.st = .rom → s.boot.presented = false → chooseSlot (selOr s.boot.flash) = some n →
      Gives (.bootRomStart fast) s fun u => u.boot.presented = true ∧ u.boot.slot = n ∧ u.boot.st = .rom) ∧
    (∀ fast, s.boot.st = .rom → s.boot.presented = false → chooseSlot (selOr s.boot.flash) = none →
      Gives (.bootRomStart fast) s fun u => u.boot.st = .recovery ∧ u.hif.numVfs = 0) ∧
    (∀ i, s.boot.st = .rom → s.boot.presented = true → slotImg s s.boot.slot = some i →
      Gives .imageVerified s fun u => (∀ st, imageStatus s i = some st → u = slotFails s st) ∧
        (imageStatus s i = none → u.boot.st = .config ∧ u.boot.fw = some i ∧ u.sec.aliasReady = true)) ∧
    (∀ failed i, s.boot.st = .config → s.boot.applied = false → s.boot.conf = some i →
      Gives (.stacksTrained failed) s fun u => u.boot.applied = true) ∧
    (s.boot.st = .config → s.boot.applied = true → Gives .firmwareRun s fun u => u.boot.st = .run ∧ u.parts = s.parts) ∧
    (s.boot.st = .config → s.boot.applied = true → s.boot.tried = true →
      Gives .runTimeout s fun u => u.boot.st = .recovery ∧ u.tiles = [] ∧ u.parts = []) ∧
    (canReboot s = true → Gives (.reboot .pf0) s fun u => u.boot.st = .rom ∧ u.boot.presented = false ∧ u.parts = [] ∧
      u.sec.revoked = s.sec.revoked ∧ u.sec.ctrs = s.sec.ctrs)

/-- R487, R488, R490, R495: an image that passes its checks is written and read back, any other is refused with its status; an activation
of one derives its alias key, loads, switches core by core and is confirmed. -/
def Obligations.ImagesAndActivation : Prop :=
  ∀ s : State,
    (∀ o img, s.side.mainOn = true → regOrigin o = true →
      Gives (.imgWriteGo o img) s fun u =>
        u = imgWrite (regLedger s o 0x30 1 .ok) o (if o = .mgmt then .inr (stagedImg s) else img)) ∧
    (∀ b, s.side.mainOn = true → s.boot.imgSt ≠ 1 → activating s = false →
      let i := fitTo s.boot.imgLen b
      let v := emit (regLedger s .pf0 0x30 1 .ok) (.hostRead 0 s.boot.imgAddr s.boot.imgLen)
      polLen i = s.boot.imgLen → Gives (.imgWriteGo .pf0 (.inr b)) s fun u =>
        (imageStatus v i = none → trackersOk v i = true → u.boot.imgSt = 1 ∧ u.boot.writing = some i) ∧
        ∀ st, imageStatus v i = some st → u.boot.imgSt = 3 ∧ u.boot.imgStatus = statusNumber st ∧ u.boot.writing = s.boot.writing) ∧
    (∀ i, s.boot.writing = some i → Gives (.imageWriteDone true) s fun u => u.boot.writing = none ∧ u.boot.imgSt = 2) ∧
    (∀ i, s.boot.writing = some i → Gives (.imageWriteDone false) s fun u => u.boot.writing = none ∧ u.boot.imgSt = 3) ∧
    (∀ o, s.side.mainOn = true → regOrigin o = true → Gives (.fwActGo o) s fun u => u = fwAct s o) ∧
    (∀ o n i, s.side.mainOn = true → regOrigin o = true → s.boot.imgSt ≠ 1 → activating s = false → s.pwr.sleep = .awake →
      s.boot.st = .run → trialSlot s = some n → slotImg s n = some i →
      let v := regLedger s o 0x40 1 .ok
      Gives (.fwActGo o) s fun u =>
        (imageStatus v i = none → trackersOk v i = true → u.boot.actSt = .load ∧ u.sec.aliasNow = aliasKey (fwMeasure i)) ∧
        ∀ st, imageStatus v i = some st → u.boot.actSt = .idle ∧ u.boot.actStatus = statusNumber st) ∧
    (s.boot.actSt = .load → Gives .fwLoadDone s fun u => u.boot.actSt = .switch) ∧
    (∀ (c d : Fin 36), s.boot.actSt = .switch → s.ras.rebal = [] → s.ras.repairs = [] → c.val ∉ s.boot.switched → d ≠ c →
      d.val ∉ s.boot.switched → isFenced s (switchUnit d) = false → Gives (.coreBankSwitch c) s fun u =>
        u.boot.switched = s.boot.switched ++ [c.val] ∧ u.boot.actSt = .switch) ∧
    (∀ n, s.boot.actSt = .config → trialSlot s = some n → s.boot.switchAt + 10000000000 ≤ nowNs s →
      Gives .activationConfirm s fun u => u.boot.actSt = .done ∧ u.boot.actOld = none ∧ u.boot.slot = n ∧
        u.boot.conf = s.boot.fw)

/-! ### Security -/

/-- R496, R497, R501, R502: a counter and a key are burnt once and for good; entropy failures and debug attempts. -/
def Obligations.FusesAndLock : Prop :=
  ∀ s : State, s.side.mainOn = true →
    (∀ i, secBusy s = false → s.boot.st = .run → activeImg s = some i → ctrOf s (polCtr i) < polSvn i →
      Gives (.secCommitGo .pf0) s fun u => u.sec.fuse = some (.commit (polCtr i) (polSvn i)) ∧ u.sec.commitSt = 1) ∧
    (∀ i (k : Fin 8), secBusy s = false → s.boot.st = .run → activeImg s = some i → k.val < polKey i →
      s.sec.revoked.testBit k = false → Gives (.secRevokeGo .pf0 k) s fun u =>
        u.sec.fuse = some (.revoke k) ∧ u.sec.revokeSt = 1) ∧
    (∀ c v n, s.sec.fuse = some (.commit c v) → Gives (.fuseBlowDone true n) s fun u =>
      ctrOf u c = v ∧ u.sec.fuse = none ∧ u.sec.commitSt = 2) ∧
    (∀ k n, s.sec.fuse = some (.revoke k) → Gives (.fuseBlowDone true n) s fun u =>
      u.sec.revoked = s.sec.revoked ||| 2 ^ k ∧ u.sec.fuse = none ∧ u.sec.revokeSt = 2) ∧
    (QueueOpen s → Gives .rngHealthFail s fun u => u.sec.rngOk = false ∧ Recorded s u .secRng []) ∧
    (Gives .rngHealthPass s fun u => u.sec.rngOk = true) ∧
    (∀ ir, QueueOpen s → s.sec.debugLock = true → 1 < ir → s.sec.lastDebug = none →
      Gives (.jtagInstruction ir) s fun u => Recorded s u .secDebug [ir] ∧ u.sec.lastDebug = some (nowNs s)) ∧
    (∀ ir, ir ≤ 1 → Gives (.jtagInstruction ir) s fun u => u = s)

/-- R495, R498 to R501: each SPDM request that its connection's stage allows is answered, and the other connection stays as it
was. -/
def Obligations.SpdmAnswers : Prop :=
  ∀ (t : Transport) (s : State), s.side.standby = true → s.side.mainOn = true → s.boot.st = .run →
    let only (u : State) : Prop := ∀ o, o ≠ t → connOf u o = connOf s o
    (Gives (.getVersion t) s fun u => (connOf u t).resp = some (0x04, [0x12, 0x13]) ∧ (connOf u t).stage = 1 ∧ only u) ∧
    (1 ≤ (connOf s t).stage → Gives (.getCapabilities t) s fun u =>
      (connOf u t).resp = some (0x61, [14, 0x16]) ∧ (connOf u t).stage = 2 ∧ only u) ∧
    (2 ≤ (connOf s t).stage → Gives (.negotiateAlgorithms t true) s fun u =>
      (connOf u t).resp = some (0x63, [0x10, 1]) ∧ (connOf u t).stage = 3 ∧ only u) ∧
    (3 ≤ (connOf s t).stage → Gives (.getDigests t) s fun u =>
      (connOf u t).resp = some (0x01, [1, Sys2Proof.Config.digest (certChain s)]) ∧ only u) ∧
    (3 ≤ (connOf s t).stage → Gives (.getCertificate t 0) s fun u => 
      (connOf u t).resp = some (0x02, 0 :: certChain s) ∧ only u) ∧
    (∀ nonce, 3 ≤ (connOf s t).stage → s.sec.rngOk = true → Gives (.challenge t 0 nonce) s fun u =>
      only u ∧ ∃ body, (connOf u t).resp = some (0x03, body)) ∧
    (∀ nonce, 3 ≤ (connOf s t).stage → s.sec.rngOk = true → Gives (.getMeasurements t 0 nonce) s fun u =>
      only u ∧ ∃ body, (connOf u t).resp = some (0x60, body)) ∧
    (∀ code, QueueOpen s → Gives (.spdmUnsupported t code) s fun u =>
      (connOf u t).resp = some (0x7F, [7]) ∧ Recorded s u .secSpdm [code] ∧ only u) ∧
    (Gives (.doeAbort .doe) s fun u => (connOf u .doe).resp = none ∧ connOf u .mctp = connOf s .mctp) ∧
    (∀ q, Gives (.mctpPacket q) s fun u => u = spdmAsk s .mctp q ∧ connOf u .doe = connOf s .doe)

/-! ### Power -/

/-- R507 to R509, R512: the millisecond's readings of the input and of each die; a die's temperatures and what they take from
v_limit; a sensor lost. -/
def Obligations.PowerTicks : Prop :=
  ∀ s : State, s.side.mainOn = true →
    (∀ mv ma p1 p10 ws, Gives (.powerGrantTick mv ma p1 p10 ws) s fun u =>
      u.pwr.vin = mv ∧ u.pwr.iin = ma ∧ u.pwr.p1 = p1 ∧ u.pwr.p10 = p10 ∧
      ∀ d < 16, (dieOf s d).powered = true → (dieOf u d).powerW = ws.getD d 0) ∧
    (∀ (d : Fin 20) north south io,
      let used := if d.val < 16 then (List.range 64).map fun i => tempUsed (takeTemps s d (dieTemps north south)) (d * 64 + i)
        else [io]
      let tmax := hottest used
      Gives (.thermalVlimitTick d north south io) s fun u =>
      (dieOf u d).tMax = tmax ∧ (dieOf u d).tMean = used.sum.fdiv used.length ∧
      (d.val < 16 → envTj s.pwr.envelope * 4 < tmax → (dieOf u d).drop = min ((dieOf s d).drop + 10) 900) ∧
      (d.val < 16 → tmax ≤ envTj s.pwr.envelope * 4 - 12 → (dieOf u d).drop = min ((dieOf s d).drop - 5) 900) ∧
      (d.val < 16 → envTj s.pwr.envelope * 4 - 12 < tmax → tmax ≤ envTj s.pwr.envelope * 4 →
        (dieOf u d).drop = min (dieOf s d).drop 900)) ∧
    (∀ (n : Fin 1024) a, (tempOf s n).sensorBad = false → (tempOf s n).offFrom = some a → a + 10000000000 ≤ nowNs s →
      QueueOpen s →
      Gives (.sensorFail n) s fun u => (tabGet u.pwr.sense n TileSense.init).sensorBad = true ∧
        Recorded s u .sensorFail [n])

/-- R513 to R515, R534: a thermal trip cuts power or leaves only the control island; the throttle pin, its toggle hold, its
stuck record; the supply's range. -/
def Obligations.TripsAndThrottle : Prop :=
  ∀ s : State, s.side.mainOn = true →
    (∀ d : Fin 20, d.val ≠ 16 → Gives (.thermalTrip d) s fun u => u.boot.st = .recovery ∧ u.tiles = [] ∧ u.parts = [] ∧
      u.ras.alert = true ∧ u.side.mainOn = true) ∧
    (Gives (.thermalTrip 16) s fun u => u.side.mainOn = false ∧ u.parts = [] ∧ u.sec.revoked = s.sec.revoked) ∧
    (s.side.standby = true → s.side.thrPin = false → s.side.held = false → s.side.edges = [] → Gives .throttleAssert s fun u =>
      u.side.thrPin = true ∧ u.side.throttle = true ∧ ∀ p ∈ livePartitions s, (partOf u p).suspended = true ∧
        (partOf u p).event = 0x31) ∧
    (s.side.standby = true → s.side.thrPin = true → s.side.held = false → s.side.edges = [] → Gives .throttleDeassert s fun u =>
      u.side.thrPin = false ∧ u.side.throttle = false ∧ ∀ p ∈ livePartitions s, (partOf u p).event = 0x32) ∧
    (s.side.held = true → s.side.lastEdge + s.side.holdMs * 1000000 ≤ nowNs s → Gives .throttleHoldEnd s fun u =>
      u.side.held = false ∧ (s.side.thrPin = false → u.side.throttle = false)) ∧
    (s.side.throttle = true → s.side.stuck = false → s.side.thrAt + s.side.stuckS * 1000000000 < nowNs s → QueueOpen s →
      Gives .throttleStuckTimer s fun u => u.side.stuck = true ∧ Recorded s u .sideStuck [2]) ∧
    (∀ mv, mv < 40000 ∨ 60000 < mv → s.pwr.supply = 0 → Gives (.supplyOutOfRange mv) s fun u =>
      u.pwr.supply = (if mv < 40000 then 1 else 2) ∧ ∀ p ∈ livePartitions s, (partOf u p).event = 0x33) ∧
    (∀ mv, s.pwr.supply ≠ 0 → 41000 ≤ mv → mv ≤ 59000 → QueueOpen s → Gives (.supplyRestored mv) s fun u =>
      u.pwr.supply = 0 ∧ u.pwr.vin = mv ∧ Recorded s u .supplyRange [mv]) ∧
    (Gives .supplyShutoff s fun u => u.side.mainOn = false ∧ u.side.standby = false ∧ u.parts = [] ∧
      u.sec.revoked = s.sec.revoked ∧ u.boot.flash = s.boot.flash)

/-- R516 to R519, R526, R527: sleep is entered from an idle module and left for a wake source; main power comes and goes. -/
def Obligations.SleepAndPower : Prop :=
  ∀ s : State,
    (s.side.mainOn = true → s.boot.st ≠ .recovery → s.pwr.sleep = .awake → canSleep s = true →
      Gives (.sleepRequest .pf0) s fun u => u.pwr.sleep = .entering ∧ u.pwr.sleepStatus = .ok) ∧
    (s.side.mainOn = true → s.boot.st ≠ .recovery → s.pwr.sleep = .awake → canSleep s = false →
      Gives (.sleepRequest .pf0) s fun u => u.pwr.sleep = .awake ∧ u.pwr.sleepStatus = .busy) ∧
    (s.pwr.sleep = .entering → s.pwr.wakePend = none → Gives .sleepEntered s fun u => u.pwr.sleep = .asleep ∧
      ∀ d < 16, (dieOf u d).powered = false) ∧
    (s.side.mainOn = true → s.boot.st ≠ .recovery → s.pwr.sleep = .asleep →
      Gives (.wakeRequest .pf0) s fun u => u.pwr.sleep = .waking) ∧
    (s.pwr.sleep = .waking → s.pwr.parked = [] → (∀ p < 8, (partOf s p).staged = []) → Gives .wakeComplete s fun u =>
      u.pwr.sleep = .awake ∧ ∀ d ∈ wakeDies s, d < 20 → (dieOf u d).powered = true) ∧
    (s.pwr.sleep = .asleep → Gives .scrubWake s fun u => u.pwr.sleep = .waking ∧ u.pwr.selfWake = true) ∧
    (s.side.standby = true → s.side.mainOn = false → Gives .pwrEnAssert s fun u => u.side.mainOn = true ∧
      u.side.pwrEn = true ∧ u.boot.st = .rom ∧ u.parts = [] ∧ u.sec.revoked = s.sec.revoked) ∧
    (Gives .pwrEnDeassert s fun u => u.side.pwrEn = false ∧ u.side.mainOn = false) ∧
    (Gives .standbyPowerUp s fun u => u.side.standby = true)

/-! ### The sideband connector -/

/-- R533 to R537, R449: glitches, PERST, GSYNC and the module number. -/
def Obligations.SidePins : Prop :=
  ∀ s : State, s.side.mainOn = true →
    (∀ i c, glitchCount i = some c → Gives (.sideInputGlitch i) s fun u =>
      tabGet u.side.counts c 0 = satAdd 16 (tabGet s.side.counts c 0) 1) ∧
    (s.side.perst = true → s.side.perstStuck = false → s.side.perstAt + 10000000000 < nowNs s → QueueOpen s →
      Gives .perstStuckTimeout s fun u => u.side.perstStuck = true ∧ Recorded s u .sideStuck [1]) ∧
    (Gives .perstDeassert s fun u => u.side.perst = false) ∧
    (∀ off : Int, off < -5000 ∨ 5000 < off → Gives (.gsyncEdge off) s fun u => u.side.gsyncRun = 0 ∧
      tabGet u.side.counts 4 0 = satAdd 16 (tabGet s.side.counts 4 0) 1 ∧ u.tmb = s.tmb) ∧
    (∀ off : Int, -5000 ≤ off → off ≤ 5000 → s.side.gsyncLock = false → s.side.gsyncRun + 1 < 1000 →
      Gives (.gsyncEdge off) s fun u => u.side.gsyncRun = s.side.gsyncRun + 1 ∧ u.tmb = s.tmb) ∧
    (s.side.gsyncLock = false → Gives .gsyncMissing s fun u => u.side.gsyncRun = 0 ∧
      tabGet u.side.counts 5 0 = satAdd 16 (tabGet s.side.counts 5 0) 1) ∧
    (∀ (v : BitVec 6) further, s.side.sampled = false → Gives (.modidSample (List.replicate 8 v) further) s fun u =>
      u.side.modId = v.toNat ∧ u.lnk.modNum = v.toNat ∧ u.side.sampled = true) ∧
    (∀ pins : BitVec 6, s.side.sampled = true → QueueOpen s → Gives (.modidPinChange pins) s fun u =>
      u.side.modId = s.side.modId ∧ u.side.modPins = pins.toNat ∧ Recorded s u .sideModid [4, s.side.modId, pins.toNat, 0])

/-- R538, R539: the management port's address and reads, its write of LOG_LEDGER_SEL, the writes it refuses, and image data; a bad
byte is answered NACK and counted. -/
def Obligations.ManagementPort : Prop :=
  ∀ s : State, s.side.mainOn = true →
    (∀ a : BitVec 7, Gives (.i3cDaa a) s fun u => u.side.dynAddr = a.toNat ∧ u.side.assigned = true) ∧
    (∀ off, mgmtReads off = true → Gives (.mgmtRead off) s fun u =>
      u.out = (readReg s .mgmt off 8).1.out ++ [.mgmt (leBytes 8 (readReg s .mgmt off 8).2)]) ∧
    (∀ off, mgmtReads off = false → QueueOpen s → Gives (.mgmtRead off) s fun u =>
      Recorded s u .mgmtRefused [5, 0xA0, 0, off]) ∧
    (∀ v, s.boot.st ≠ .recovery → Gives (.mgmtWrite 0xB0008 v) s fun u => u.log.ledgerSel = v % 2 ^ 64) ∧
    (∀ off v, QueueOpen s → off ∉ [0x10020, 0x28, 0x30, 0x40, 0xA0010, 0xA0018, 0xB0008, 0xC0008] →
      Gives (.mgmtWrite off v) s fun u => Recorded s u .mgmtRefused [5, 0xA1, 0, off] ∧ Ledgered 0 off .notPermitted u) ∧
    (∀ off bs, ¬ (s.boot.imgSt = 1 ∧ s.boot.byMgmt = true) → bs ≠ [] → bs.length ≤ 240 → off + bs.length ≤ 24 * 2 ^ 20 →
      Gives (.mgmtImageData off bs) s fun u => u.boot.staging = s.boot.staging.writeRun off bs ∧ u.boot.imgSt = s.boot.imgSt) ∧
    (∀ b : Byte, b ≠ 0x01 → b.toNat < 0xA0 ∨ 0xA2 < b.toNat → Gives (.mgmtBadByte b) s fun u =>
      u.out = s.out ++ [.reply .mgmt 0 .nack] ∧ tabGet u.side.counts 7 0 = satAdd 16 (tabGet s.side.counts 7 0) 1)

/-! ### Numbers -/

/-- R53: the fold of trit codes: code c and code 242 − c carry opposite trits, code 121 five zeros and no entry, every other
code the entry of index at most 120 that holds the sum for code 122 + j, with its sign. -/
def Obligations.FoldMirrors : Prop :=
  (∀ c ≤ 242, ∀ i < 5, tritOf (242 - c) i = -tritOf c i) ∧ (∀ i < 5, tritOf 121 i = 0) ∧
  foldCode 121 121 = none ∧ (∀ tab, lookupInt tab 121 = 0) ∧
  (∀ c ≤ 242, c ≠ 121 → ∃ j ≤ 120, (foldCode 121 c = some (j, false) ∧ c = 122 + j) ∨
    (foldCode 121 c = some (j, true) ∧ 242 - c = 122 + j)) ∧
  ∀ a : List Int, a.length = 5 → (buildInt a).length = 121 ∧
    ∀ j < 121, (buildInt a).getD j 0 = ((List.range 5).map fun i => tritOf (122 + j) i * a.getD i 0).sum

/-- R216, R217, R218: a word spells an instruction only under an opcode of Table 9-2 and with its header's bits 31:22 zero; an
index past its image's count holds none, and range set 0x3FF is none; chapter 9's worked word is its TLOOK. -/
def Obligations.InstructionWords : Prop :=
  (∀ (t : Fin 1024) (rs : RangeSet) (w : Nat) (i : Instr), tileWord t rs w = some i → w / 2 ^ 22 % 2 ^ 10 = 0 ∧
    w % 256 ∈ [0x00, 0x01, 0x02, 0x03, 0x04, 0x10, 0x20, 0x30, 0x40, 0x50, 0x51, 0x52, 0x60, 0x70, 0x71, 0x72, 0x73, 0x74, 0x75,
      0x76, 0x77, 0x78, 0x80, 0x81, 0x82, 0x90, 0xA0, 0xA1, 0xA2, 0xB0, 0xB1, 0xC0, 0xC1]) ∧
  (∀ (t : Fin 1024) (img : List Byte) (i : Nat), imgCount img ≤ i → imgInstr t img i = none) ∧
  (∀ (t : Fin 1024) (img : List Byte) (i : Nat), i < imgCount img → imgWord img i / 256 % 1024 = 0x3FF →
    imgInstr t img i = tileWord t ⟨[], none⟩ (imgWord img i)) ∧
  ∀ (t : Fin 1024) (rs : RangeSet), tileWord t rs 0x40200D0000F000020003FF20 =
    some (.tlook t rs ⟨.imm 2, .imm 240, .imm 0, 1, 1, true, 0, .imm 32, 64⟩)

/-- R54: with INT8 activations a five-trit sum lies in −640…+640, and every stored entry fits in 11-bit two's complement. -/
def Obligations.TableEntriesFit : Prop :=
  ∀ a : List Int, a.length = 5 → (∀ x ∈ a, -128 ≤ x ∧ x ≤ 127) →
    (∀ t : List Int, t.length = 5 → (∀ y ∈ t, -1 ≤ y ∧ y ≤ 1) →
      -640 ≤ (List.zipWith (· * ·) t a).sum ∧ (List.zipWith (· * ·) t a).sum ≤ 640) ∧
    ∀ z ∈ buildInt a, -1024 ≤ z ∧ z ≤ 1023

/-- R76, R85: a lookup of any valid code in the table of five INT8 activations is the exact dot product of the code's trits
with them. -/
def Obligations.LookupIsDotProduct : Prop :=
  ∀ a : List Int, a.length = 5 → (∀ x ∈ a, -128 ≤ x ∧ x ≤ 127) → ∀ c ≤ 242,
    lookupInt (cellInt a) c = ((List.range 5).map fun i => tritOf c i * a.getD i 0).sum

/-- R48: a 64-bit read of TMB_NOW is atomic; a 32-bit read of its low half latches the high half, and the next 32-bit read of
the high half by the same reader returns the latched value, however far the count has gone on. A virtual function has no such
register, and in RECOVERY it reads zero (R483). -/
def Obligations.TimeReads : Prop :=
  ∀ (s : State) (rd : Origin), s.side.mainOn = true →
    (timeShown s rd = true → (readReg s rd 0x20000 8).2 = s.tmb.now % 2 ^ 64 ∧
      Gives (.tmbNowLowRead rd) s fun u => u.out = s.out ++ [.reply rd 0x20000 (.data (s.tmb.now % 2 ^ 32))] ∧
        ∀ v, v.tmb.halfLatch = u.tmb.halfLatch → timeShown v rd = true →
          (readReg v rd 0x20004 4).2 = s.tmb.now / 2 ^ 32) ∧
    (timeShown s rd = false → (readReg s rd 0x20000 8).2 = 0 ∧
      Gives (.tmbNowLowRead rd) s fun u => u.out = s.out ++ [.reply rd 0x20000 (.data 0)])

/-! ### The whole machine -/

/-- A step takes the command at the front of the queue and is that command on the state with the queue's rest; with an empty
queue the module idles (the model's choice, notes/assumptions/4.md). -/
def Obligations.StepRunsCommand : Prop :=
  (∀ (c : Instr) (r : List Instr) (s : State), s.pending = c :: r → step s = exec c { s with pending := r }) ∧
  ∀ s : State, s.pending = [] → step s = .next s

/-- Every step answers a next state: no command of the module's host, links, tiles or pins stops it (R1, R389, R402). -/
def Obligations.EveryStepAnswers : Prop := ∀ s : State, StepSafe s

/-- The commands that wait are taken in order and once: a step takes the front of the queue and adds nothing (the model's
queue). -/
def Obligations.QueueOnlyShrinks : Prop := ∀ s t : State, step s = .next t → t.pending = s.pending.tail

/-- Module memory and the staging area stay in their canonical form through every step. -/
def Obligations.MemoryStaysCanonical : Prop := ∀ s t : State, Safe s → step s = .next t → Safe t

/-- R496, R497: no step takes back a revoked key or lowers an anti-rollback counter, loss of power and reboot included, where
no burn in progress would lower its counter; and no step starts such a burn. -/
def Obligations.FusesOnlyBurn : Prop :=
  ∀ s t : State, (∀ c v, s.sec.fuse = some (.commit c v) → ctrOf s c < v) → step s = .next t →
    (∀ k, s.sec.revoked.testBit k = true → t.sec.revoked.testBit k = true) ∧ (∀ c, ctrOf s c ≤ ctrOf t c) ∧
    ∀ c v, t.sec.fuse = some (.commit c v) → ctrOf t c < v

/-- What the module holds right after reset: no power on the main domain but what the pins say, ROM, an idle queue, no
partition, every tile idle, memory with nothing listed and in canonical form (R481, R526, R544; where the rules give no value,
the model's, notes/assumptions/1.md). -/
def Obligations.ResetState : Prop :=
  let s := State.reset
  Safe s ∧ s.boot.st = .rom ∧ s.pending = [] ∧ s.mem.bytes = [] ∧ (∀ n < 1024, tileOf s n = Tile.init) ∧
  (∀ n < 1024, (tileOf s n).st = .idle) ∧ (∀ p < 8, (partOf s p).valid = false) ∧ (∀ k < 65536, (slotOf s k).st = .free) ∧
  s.boot.presented = false ∧ s.hif.numVfs = 0 ∧ s.log.errQueue = [] ∧ s.pwr.sleep = .awake

/-- R247, R252: what a write puts outside the length tables reads back, and no other byte outside them changes. -/
def Obligations.MemoryReadsBack : Prop :=
  ∀ (s : State) (a : Nat) (bs : List Byte),
    let plain (b : Nat) : Prop := ∀ n, regionAt s b = some n → inLenTable (regionOf s n) b = false
    ((∀ i < bs.length, plain (a + i)) → memRead (memWrite s a bs) a bs.length = bs) ∧
    ∀ b, plain b → (b < a ∨ a + bs.length ≤ b) → memByte (memWrite s a bs) b = memByte s b

/-- R189, R228, R230: issuing a tile instruction changes no expander and no register of the boot, security, side and power
blocks; where no poisoned granule waits in the tile, it changes no module memory and no request, of the fault and host state only
what a full record queue touches, and no other tile but by a notice of abandonment or an arrival at a barrier. -/
def Obligations.TileIssueFrame : Prop :=
  ∀ (c : Instr) (n : Fin 1024) (s u : State), issuesOn c = some n → exec c s = .next u →
    u.exps = s.exps ∧ u.boot = s.boot ∧ u.sec = s.sec ∧ u.side = s.side ∧ u.pwr = s.pwr ∧ u.tmb = s.tmb ∧
    u.pending = s.pending ∧
    ((tileOf s n).poison = [] → u.mem = s.mem ∧ u.slots = s.slots ∧ WriterOnly s u ∧
      ∀ m, m ≠ n.val → (tileOf u m).store = (tileOf s m).store ∧ (tileOf u m).acm = (tileOf s m).acm ∧
        (tileOf u m).rows = (tileOf s m).rows ∧ (tileOf u m).regs = (tileOf s m).regs ∧ (tileOf u m).pc = (tileOf s m).pc ∧
        (tileOf u m).inflight = (tileOf s m).inflight ∧ (tileOf u m).wins = (tileOf s m).wins)

/-- R418, R422, R423, R500: commands that read, acknowledge, pause or attach, and SPDM requests, change no tile, memory,
expander, step or power state, and no fuse; of the timebase at most a reader's latch (R48). -/
def Obligations.QuietFrame : Prop :=
  ∀ (c : Instr) (s u : State), quiet c = true → exec c s = .next u →
    u.tiles = s.tiles ∧ u.mem = s.mem ∧ u.exps = s.exps ∧ u.boot = s.boot ∧ u.side = s.side ∧ u.pwr = s.pwr ∧
    { u.tmb with halfLatch := s.tmb.halfLatch } = s.tmb ∧ { u.ras with alert := s.ras.alert } = s.ras ∧ u.cmp = s.cmp ∧
    u.sec.revoked = s.sec.revoked ∧ u.sec.ctrs = s.sec.ctrs ∧
    u.pending = s.pending ∧ ∀ p, (partOf u p).exec = (partOf s p).exec ∧ (partOf u p).pages = (partOf s p).pages

/-- R228, R389, R422, R481, R500 among all the rest: each command changes only the blocks of the state that it may change, and
never the queue; the memory, the registers and the tiles of every other block stay as they were. -/
def Obligations.BlocksKept : Prop :=
  ∀ (c : Instr) (s u : State), exec c s = .next u → u.pending = s.pending ∧ SameBut (mayChange c) s u
end

