-- ==== Sys2Proof/Laws/Keeps.lean ====
section
/-! SUPPORT. What each shared operation leaves alone, block by block: how such facts compose. -/

namespace Sys2Proof.Machine

/-- Between two states no block outside a list differs, and the queue is the same. -/
def Keeps (l : List Block) (s u : State) : Prop := SameBut l s u ∧ u.pending = s.pending

/-- A state keeps itself. -/
theorem Keeps.rfl' {l : List Block} {s : State} : Keeps l s s := by
  refine ⟨⟨?_, ?_, ?_, ?_, ?_, ?_, ?_, ?_, ?_, ?_, ?_, ?_, ?_, ?_, ?_⟩, rfl⟩ <;> exact fun _ => rfl

/-- What is kept twice is kept. -/
theorem Keeps.trans' {l : List Block} {s t u : State} (h : Keeps l s t) (k : Keeps l t u) : Keeps l s u := by
  obtain ⟨⟨a1, a2, a3, a4, a5, a6, a7, a8, a9, a10, a11, a12, a13, a14, a15⟩, ap⟩ := h
  obtain ⟨⟨b1, b2, b3, b4, b5, b6, b7, b8, b9, b10, b11, b12, b13, b14, b15⟩, bp⟩ := k
  exact ⟨⟨fun n => (b1 n).trans (a1 n), fun n => (b2 n).trans (a2 n), fun n => (b3 n).trans (a3 n), fun n => (b4 n).trans (a4 n),
    fun n => (b5 n).trans (a5 n), fun n => (b6 n).trans (a6 n), fun n => (b7 n).trans (a7 n), fun n => (b8 n).trans (a8 n),
    fun n => (b9 n).trans (a9 n), fun n => (b10 n).trans (a10 n), fun n => (b11 n).trans (a11 n), fun n => (b12 n).trans (a12 n),
    fun n => (b13 n).trans (a13 n), fun n => (b14 n).trans (a14 n), fun n => (b15 n).trans (a15 n)⟩, bp.trans ap⟩

/-- A longer list keeps less. -/
theorem Keeps.mono' {k l : List Block} {s u : State} (h : Keeps k s u) (hk : ∀ b ∈ k, b ∈ l) : Keeps l s u := by
  obtain ⟨⟨a1, a2, a3, a4, a5, a6, a7, a8, a9, a10, a11, a12, a13, a14, a15⟩, ap⟩ := h
  exact ⟨⟨fun n => a1 (fun m => n (hk _ m)), fun n => a2 (fun m => n (hk _ m)), fun n => a3 (fun m => n (hk _ m)),
    fun n => a4 (fun m => n (hk _ m)), fun n => a5 (fun m => n (hk _ m)), fun n => a6 (fun m => n (hk _ m)),
    fun n => a7 (fun m => n (hk _ m)), fun n => a8 (fun m => n (hk _ m)), fun n => a9 (fun m => n (hk _ m)),
    fun n => a10 (fun m => n (hk _ m)), fun n => a11 (fun m => n (hk _ m)), fun n => a12 (fun m => n (hk _ m)),
    fun n => a13 (fun m => n (hk _ m)), fun n => a14 (fun m => n (hk _ m)), fun n => a15 (fun m => n (hk _ m))⟩, ap⟩

/-- One more operation that keeps at least as much. -/
theorem Keeps.via {k l : List Block} {s t u : State} (h : Keeps k t u) (hk : ∀ b ∈ k, b ∈ l) (g : Keeps l s t) : Keeps l s u :=
  g.trans' (h.mono' hk)

/-- A fold keeps what its step keeps. -/
theorem Keeps.foldl {α : Type} {l : List Block} {s t : State} {f : State → α → State} (h : ∀ t x, Keeps l t (f t x))
    (g : Keeps l s t) (xs : List α) : Keeps l s (xs.foldl f t) := by
  induction xs generalizing t with
  | nil => exact g
  | cons x r ih => exact ih (g.trans' (h t x))

/-- A fold that carries a value beside the state. -/
theorem Keeps.foldlFst {α β : Type} {l : List Block} {s : State} {p : State × β} {f : State × β → α → State × β}
    (h : ∀ q x, Keeps l q.1 (f q x).1) (g : Keeps l s p.1) (xs : List α) : Keeps l s (xs.foldl f p).1 := by
  induction xs generalizing p with
  | nil => exact g
  | cons x r ih => exact ih (g.trans' (h p x))

/-- Doing nothing keeps everything. -/
theorem Keeps.same {l : List Block} {s t : State} (g : Keeps l s t) : Keeps l s (id t) := g

/-- Either way of a choice. -/
theorem Keeps.ite {l : List Block} {s u v : State} {c : Prop} {d : Decidable c} (h : Keeps l s u) (g : Keeps l s v) :
    Keeps l s (if c then u else v) := by
  by_cases k : c
  · rwa [if_pos k]
  · rwa [if_neg k]

/-- Either way of a choice that carries a value beside the state. -/
theorem Keeps.iteFst {β : Type} {l : List Block} {s : State} {p q : State × β} {c : Prop} {d : Decidable c} (h : Keeps l s p.1)
    (g : Keeps l s q.1) : Keeps l s (if c then p else q).1 := by
  by_cases k : c
  · rwa [if_pos k]
  · rwa [if_neg k]

/-! ### Writing one field, by a name of its own: `simp only [mk_put]`-style rewriting then meets function heads only -/

/-- The state with field tmb written. -/
def State.putTmb (t : State) (v : Tmb) : State := { t with tmb := v }
theorem mk_putTmb (t : State) (v : Tmb) : State.mk v t.latches t.halves t.pwr t.tiles t.mem t.exps t.cmp t.parts t.slots t.hif t.log t.lnk t.ras t.boot t.sec t.side t.free t.out t.pending = t.putTmb v := rfl
theorem Keeps.tmb {l : List Block} {s t : State} (h : Block.tmb ∈ l) (g : Keeps l s t) (v : Tmb) : Keeps l s (t.putTmb v) := by
  refine g.trans' ⟨⟨?_, ?_, ?_, ?_, ?_, ?_, ?_, ?_, ?_, ?_, ?_, ?_, ?_, ?_, ?_⟩, rfl⟩ <;> intro n <;> first | rfl | exact absurd h n

/-- The state with field latches written. -/
def State.putLatches (t : State) (v : List Latch) : State := { t with latches := v }
theorem mk_putLatches (t : State) (v : List Latch) : State.mk t.tmb v t.halves t.pwr t.tiles t.mem t.exps t.cmp t.parts t.slots t.hif t.log t.lnk t.ras t.boot t.sec t.side t.free t.out t.pending = t.putLatches v := rfl
theorem Keeps.latches {l : List Block} {s t : State} (g : Keeps l s t) (v : List Latch) : Keeps l s (t.putLatches v) := by
  refine g.trans' ⟨⟨?_, ?_, ?_, ?_, ?_, ?_, ?_, ?_, ?_, ?_, ?_, ?_, ?_, ?_, ?_⟩, rfl⟩ <;> intro n <;> rfl

/-- The state with field halves written. -/
def State.putHalves (t : State) (v : List Latch) : State := { t with halves := v }
theorem mk_putHalves (t : State) (v : List Latch) : State.mk t.tmb t.latches v t.pwr t.tiles t.mem t.exps t.cmp t.parts t.slots t.hif t.log t.lnk t.ras t.boot t.sec t.side t.free t.out t.pending = t.putHalves v := rfl
theorem Keeps.halves {l : List Block} {s t : State} (g : Keeps l s t) (v : List Latch) : Keeps l s (t.putHalves v) := by
  refine g.trans' ⟨⟨?_, ?_, ?_, ?_, ?_, ?_, ?_, ?_, ?_, ?_, ?_, ?_, ?_, ?_, ?_⟩, rfl⟩ <;> intro n <;> rfl

/-- The state with field pwr written. -/
def State.putPwr (t : State) (v : Pwr) : State := { t with pwr := v }
theorem mk_putPwr (t : State) (v : Pwr) : State.mk t.tmb t.latches t.halves v t.tiles t.mem t.exps t.cmp t.parts t.slots t.hif t.log t.lnk t.ras t.boot t.sec t.side t.free t.out t.pending = t.putPwr v := rfl
theorem Keeps.pwr {l : List Block} {s t : State} (h : Block.pwr ∈ l) (g : Keeps l s t) (v : Pwr) : Keeps l s (t.putPwr v) := by
  refine g.trans' ⟨⟨?_, ?_, ?_, ?_, ?_, ?_, ?_, ?_, ?_, ?_, ?_, ?_, ?_, ?_, ?_⟩, rfl⟩ <;> intro n <;> first | rfl | exact absurd h n

/-- The state with field tiles written. -/
def State.putTiles (t : State) (v : Tab Tile) : State := { t with tiles := v }
theorem mk_putTiles (t : State) (v : Tab Tile) : State.mk t.tmb t.latches t.halves t.pwr v t.mem t.exps t.cmp t.parts t.slots t.hif t.log t.lnk t.ras t.boot t.sec t.side t.free t.out t.pending = t.putTiles v := rfl
theorem Keeps.tiles {l : List Block} {s t : State} (h : Block.tiles ∈ l) (g : Keeps l s t) (v : Tab Tile) : Keeps l s (t.putTiles v) := by
  refine g.trans' ⟨⟨?_, ?_, ?_, ?_, ?_, ?_, ?_, ?_, ?_, ?_, ?_, ?_, ?_, ?_, ?_⟩, rfl⟩ <;> intro n <;> first | rfl | exact absurd h n

/-- The state with field mem written. -/
def State.putMem (t : State) (v : Mem) : State := { t with mem := v }
theorem mk_putMem (t : State) (v : Mem) : State.mk t.tmb t.latches t.halves t.pwr t.tiles v t.exps t.cmp t.parts t.slots t.hif t.log t.lnk t.ras t.boot t.sec t.side t.free t.out t.pending = t.putMem v := rfl
theorem Keeps.mem {l : List Block} {s t : State} (h : Block.mem ∈ l) (g : Keeps l s t) (v : Mem) : Keeps l s (t.putMem v) := by
  refine g.trans' ⟨⟨?_, ?_, ?_, ?_, ?_, ?_, ?_, ?_, ?_, ?_, ?_, ?_, ?_, ?_, ?_⟩, rfl⟩ <;> intro n <;> first | rfl | exact absurd h n

/-- The state with field exps written. -/
def State.putExps (t : State) (v : Exps) : State := { t with exps := v }
theorem mk_putExps (t : State) (v : Exps) : State.mk t.tmb t.latches t.halves t.pwr t.tiles t.mem v t.cmp t.parts t.slots t.hif t.log t.lnk t.ras t.boot t.sec t.side t.free t.out t.pending = t.putExps v := rfl
theorem Keeps.exps {l : List Block} {s t : State} (h : Block.exps ∈ l) (g : Keeps l s t) (v : Exps) : Keeps l s (t.putExps v) := by
  refine g.trans' ⟨⟨?_, ?_, ?_, ?_, ?_, ?_, ?_, ?_, ?_, ?_, ?_, ?_, ?_, ?_, ?_⟩, rfl⟩ <;> intro n <;> first | rfl | exact absurd h n

/-- The state with field cmp written. -/
def State.putCmp (t : State) (v : Cmp) : State := { t with cmp := v }
theorem mk_putCmp (t : State) (v : Cmp) : State.mk t.tmb t.latches t.halves t.pwr t.tiles t.mem t.exps v t.parts t.slots t.hif t.log t.lnk t.ras t.boot t.sec t.side t.free t.out t.pending = t.putCmp v := rfl
theorem Keeps.cmp {l : List Block} {s t : State} (h : Block.cmp ∈ l) (g : Keeps l s t) (v : Cmp) : Keeps l s (t.putCmp v) := by
  refine g.trans' ⟨⟨?_, ?_, ?_, ?_, ?_, ?_, ?_, ?_, ?_, ?_, ?_, ?_, ?_, ?_, ?_⟩, rfl⟩ <;> intro n <;> first | rfl | exact absurd h n

/-- The state with field parts written. -/
def State.putParts (t : State) (v : Tab Part) : State := { t with parts := v }
theorem mk_putParts (t : State) (v : Tab Part) : State.mk t.tmb t.latches t.halves t.pwr t.tiles t.mem t.exps t.cmp v t.slots t.hif t.log t.lnk t.ras t.boot t.sec t.side t.free t.out t.pending = t.putParts v := rfl
theorem Keeps.parts {l : List Block} {s t : State} (h : Block.parts ∈ l) (g : Keeps l s t) (v : Tab Part) : Keeps l s (t.putParts v) := by
  refine g.trans' ⟨⟨?_, ?_, ?_, ?_, ?_, ?_, ?_, ?_, ?_, ?_, ?_, ?_, ?_, ?_, ?_⟩, rfl⟩ <;> intro n <;> first | rfl | exact absurd h n

/-- The state with field slots written. -/
def State.putSlots (t : State) (v : Tab Slot) : State := { t with slots := v }
theorem mk_putSlots (t : State) (v : Tab Slot) : State.mk t.tmb t.latches t.halves t.pwr t.tiles t.mem t.exps t.cmp t.parts v t.hif t.log t.lnk t.ras t.boot t.sec t.side t.free t.out t.pending = t.putSlots v := rfl
theorem Keeps.slots {l : List Block} {s t : State} (h : Block.slots ∈ l) (g : Keeps l s t) (v : Tab Slot) : Keeps l s (t.putSlots v) := by
  refine g.trans' ⟨⟨?_, ?_, ?_, ?_, ?_, ?_, ?_, ?_, ?_, ?_, ?_, ?_, ?_, ?_, ?_⟩, rfl⟩ <;> intro n <;> first | rfl | exact absurd h n

/-- The state with field hif written. -/
def State.putHif (t : State) (v : Hif) : State := { t with hif := v }
theorem mk_putHif (t : State) (v : Hif) : State.mk t.tmb t.latches t.halves t.pwr t.tiles t.mem t.exps t.cmp t.parts t.slots v t.log t.lnk t.ras t.boot t.sec t.side t.free t.out t.pending = t.putHif v := rfl
theorem Keeps.hif {l : List Block} {s t : State} (h : Block.hif ∈ l) (g : Keeps l s t) (v : Hif) : Keeps l s (t.putHif v) := by
  refine g.trans' ⟨⟨?_, ?_, ?_, ?_, ?_, ?_, ?_, ?_, ?_, ?_, ?_, ?_, ?_, ?_, ?_⟩, rfl⟩ <;> intro n <;> first | rfl | exact absurd h n

/-- The state with field log written. -/
def State.putLog (t : State) (v : Log) : State := { t with log := v }
theorem mk_putLog (t : State) (v : Log) : State.mk t.tmb t.latches t.halves t.pwr t.tiles t.mem t.exps t.cmp t.parts t.slots t.hif v t.lnk t.ras t.boot t.sec t.side t.free t.out t.pending = t.putLog v := rfl
theorem Keeps.log {l : List Block} {s t : State} (h : Block.log ∈ l) (g : Keeps l s t) (v : Log) : Keeps l s (t.putLog v) := by
  refine g.trans' ⟨⟨?_, ?_, ?_, ?_, ?_, ?_, ?_, ?_, ?_, ?_, ?_, ?_, ?_, ?_, ?_⟩, rfl⟩ <;> intro n <;> first | rfl | exact absurd h n

/-- The state with field lnk written. -/
def State.putLnk (t : State) (v : Lnk) : State := { t with lnk := v }
theorem mk_putLnk (t : State) (v : Lnk) : State.mk t.tmb t.latches t.halves t.pwr t.tiles t.mem t.exps t.cmp t.parts t.slots t.hif t.log v t.ras t.boot t.sec t.side t.free t.out t.pending = t.putLnk v := rfl
theorem Keeps.lnk {l : List Block} {s t : State} (h : Block.lnk ∈ l) (g : Keeps l s t) (v : Lnk) : Keeps l s (t.putLnk v) := by
  refine g.trans' ⟨⟨?_, ?_, ?_, ?_, ?_, ?_, ?_, ?_, ?_, ?_, ?_, ?_, ?_, ?_, ?_⟩, rfl⟩ <;> intro n <;> first | rfl | exact absurd h n

/-- The state with field ras written. -/
def State.putRas (t : State) (v : Ras) : State := { t with ras := v }
theorem mk_putRas (t : State) (v : Ras) : State.mk t.tmb t.latches t.halves t.pwr t.tiles t.mem t.exps t.cmp t.parts t.slots t.hif t.log t.lnk v t.boot t.sec t.side t.free t.out t.pending = t.putRas v := rfl
theorem Keeps.ras {l : List Block} {s t : State} (h : Block.ras ∈ l) (g : Keeps l s t) (v : Ras) : Keeps l s (t.putRas v) := by
  refine g.trans' ⟨⟨?_, ?_, ?_, ?_, ?_, ?_, ?_, ?_, ?_, ?_, ?_, ?_, ?_, ?_, ?_⟩, rfl⟩ <;> intro n <;> first | rfl | exact absurd h n

/-- The state with field boot written. -/
def State.putBoot (t : State) (v : Boot) : State := { t with boot := v }
theorem mk_putBoot (t : State) (v : Boot) : State.mk t.tmb t.latches t.halves t.pwr t.tiles t.mem t.exps t.cmp t.parts t.slots t.hif t.log t.lnk t.ras v t.sec t.side t.free t.out t.pending = t.putBoot v := rfl
theorem Keeps.boot {l : List Block} {s t : State} (h : Block.boot ∈ l) (g : Keeps l s t) (v : Boot) : Keeps l s (t.putBoot v) := by
  refine g.trans' ⟨⟨?_, ?_, ?_, ?_, ?_, ?_, ?_, ?_, ?_, ?_, ?_, ?_, ?_, ?_, ?_⟩, rfl⟩ <;> intro n <;> first | rfl | exact absurd h n

/-- The state with field sec written. -/
def State.putSec (t : State) (v : Sec) : State := { t with sec := v }
theorem mk_putSec (t : State) (v : Sec) : State.mk t.tmb t.latches t.halves t.pwr t.tiles t.mem t.exps t.cmp t.parts t.slots t.hif t.log t.lnk t.ras t.boot v t.side t.free t.out t.pending = t.putSec v := rfl
theorem Keeps.sec {l : List Block} {s t : State} (h : Block.sec ∈ l) (g : Keeps l s t) (v : Sec) : Keeps l s (t.putSec v) := by
  refine g.trans' ⟨⟨?_, ?_, ?_, ?_, ?_, ?_, ?_, ?_, ?_, ?_, ?_, ?_, ?_, ?_, ?_⟩, rfl⟩ <;> intro n <;> first | rfl | exact absurd h n

/-- The state with field side written. -/
def State.putSide (t : State) (v : Side) : State := { t with side := v }
theorem mk_putSide (t : State) (v : Side) : State.mk t.tmb t.latches t.halves t.pwr t.tiles t.mem t.exps t.cmp t.parts t.slots t.hif t.log t.lnk t.ras t.boot t.sec v t.free t.out t.pending = t.putSide v := rfl
theorem Keeps.side {l : List Block} {s t : State} (h : Block.side ∈ l) (g : Keeps l s t) (v : Side) : Keeps l s (t.putSide v) := by
  refine g.trans' ⟨⟨?_, ?_, ?_, ?_, ?_, ?_, ?_, ?_, ?_, ?_, ?_, ?_, ?_, ?_, ?_⟩, rfl⟩ <;> intro n <;> first | rfl | exact absurd h n

/-- The state with field free written. -/
def State.putFree (t : State) (v : Nat) : State := { t with free := v }
theorem mk_putFree (t : State) (v : Nat) : State.mk t.tmb t.latches t.halves t.pwr t.tiles t.mem t.exps t.cmp t.parts t.slots t.hif t.log t.lnk t.ras t.boot t.sec t.side v t.out t.pending = t.putFree v := rfl
theorem Keeps.free {l : List Block} {s t : State} (g : Keeps l s t) (v : Nat) : Keeps l s (t.putFree v) := by
  refine g.trans' ⟨⟨?_, ?_, ?_, ?_, ?_, ?_, ?_, ?_, ?_, ?_, ?_, ?_, ?_, ?_, ?_⟩, rfl⟩ <;> intro n <;> rfl

/-- The state with field out written. -/
def State.putOut (t : State) (v : List Out) : State := { t with out := v }
theorem mk_putOut (t : State) (v : List Out) : State.mk t.tmb t.latches t.halves t.pwr t.tiles t.mem t.exps t.cmp t.parts t.slots t.hif t.log t.lnk t.ras t.boot t.sec t.side t.free v t.pending = t.putOut v := rfl
theorem Keeps.out {l : List Block} {s t : State} (g : Keeps l s t) (v : List Out) : Keeps l s (t.putOut v) := by
  refine g.trans' ⟨⟨?_, ?_, ?_, ?_, ?_, ?_, ?_, ?_, ?_, ?_, ?_, ?_, ?_, ?_, ?_⟩, rfl⟩ <;> intro n <;> rfl

end Sys2Proof.Machine
end

