-- ==== Sys2Proof/Laws/Tab.lean ====
section
/-! SUPPORT. Laws of sparse tables and byte memories: read after write, and the canonical form is kept. -/

namespace Sys2Proof.Machine

variable {α : Type} [DecidableEq α]

/-- A smaller bound holds too. -/
theorem tabWfFrom_mono (d : α) : ∀ (t : Tab α) (lo hi : Nat), lo ≤ hi → tabWfFrom d hi t = true → tabWfFrom d lo t = true
  | [], _, _, _, _ => rfl
  | (j, v) :: r, lo, hi, hl, h => by
    simp only [tabWfFrom, Bool.and_eq_true, decide_eq_true_eq] at h ⊢
    exact ⟨⟨by omega, h.1.2⟩, h.2⟩

/-- Dropping entries by a test keeps the canonical form above a bound. -/
theorem tabWfFrom_filter (d : α) (f : Nat × α → Bool) : ∀ (t : Tab α) (lo : Nat), tabWfFrom d lo t = true →
    tabWfFrom d lo (t.filter f) = true
  | [], _, _ => rfl
  | (j, v) :: r, lo, h => by
    simp only [tabWfFrom, Bool.and_eq_true, decide_eq_true_eq] at h
    obtain ⟨⟨h1, h2⟩, h3⟩ := h
    have ih := tabWfFrom_filter d f r (j + 1) h3
    by_cases hf : f (j, v) = true
    · simp only [List.filter, hf, tabWfFrom, Bool.and_eq_true, decide_eq_true_eq]
      exact ⟨⟨h1, h2⟩, ih⟩
    · simp only [Bool.not_eq_true] at hf
      simp only [List.filter, hf]
      exact tabWfFrom_mono d _ lo (j + 1) (by omega) ih

/-- Dropping entries by a test keeps the canonical form. -/
theorem tabWf_filter (d : α) (f : Nat × α → Bool) (t : Tab α) (h : tabWf d t = true) : tabWf d (t.filter f) = true :=
  tabWfFrom_filter d f t 0 h

/-- Writing keeps the canonical form above a bound. -/
theorem tabWfFrom_set (d : α) : ∀ (t : Tab α) (lo k : Nat) (v : α), lo ≤ k → tabWfFrom d lo t = true →
    tabWfFrom d lo (tabSet t k v d) = true
  | [], lo, k, v, hk, _ => by
    by_cases hv : v = d
    · simp [tabSet, hv, tabWfFrom]
    · simp [tabSet, hv, tabWfFrom, hk]
  | (j, w) :: r, lo, k, v, hk, h => by
    simp only [tabWfFrom, Bool.and_eq_true, decide_eq_true_eq] at h
    obtain ⟨⟨h1, h2⟩, h3⟩ := h
    unfold tabSet
    split
    · rename_i hjk
      simp only [tabWfFrom, Bool.and_eq_true, decide_eq_true_eq]
      exact ⟨⟨h1, h2⟩, tabWfFrom_set d r (j + 1) k v (by omega) h3⟩
    · split
      · rename_i hjk
        subst hjk
        split
        · exact tabWfFrom_mono d _ lo (j + 1) (by omega) (tabWfFrom_filter d _ r (j + 1) h3)
        · rename_i hv
          simp [tabWfFrom, hk, hv, h3]
      · rename_i hlt hne
        split
        · simp only [tabWfFrom, Bool.and_eq_true, decide_eq_true_eq]
          exact ⟨⟨h1, h2⟩, tabWfFrom_filter d _ r (j + 1) h3⟩
        · rename_i hv
          have : k + 1 ≤ j := by omega
          simp [tabWfFrom, hk, hv, this, h2, h3]

/-- Writing keeps the canonical form. -/
theorem tabWf_set (d : α) (t : Tab α) (k : Nat) (v : α) (h : tabWf d t = true) : tabWf d (tabSet t k v d) = true :=
  tabWfFrom_set d t 0 k v (Nat.zero_le k) h

/-- The empty table is canonical. -/
@[simp] theorem tabWf_nil (d : α) : tabWf d ([] : Tab α) = true := rfl

omit [DecidableEq α] in
/-- A removed entry reads as the default. -/
theorem tabGet_del_same (d : α) : ∀ (t : Tab α) (k : Nat), tabGet (tabDel t k) k d = d
  | [], _ => rfl
  | (j, w) :: r, k => by
    have ih : tabGet (List.filter (fun e => e.1 != k) r) k d = d := tabGet_del_same d r k
    by_cases h : j = k
    · simp [tabDel, h, ih]
    · simp [tabDel, h, tabGet, ih]

omit [DecidableEq α] in
/-- Removing an entry leaves every other one. -/
theorem tabGet_del_other (d : α) : ∀ (t : Tab α) (k i : Nat), i ≠ k → tabGet (tabDel t k) i d = tabGet t i d
  | [], _, _, _ => rfl
  | (j, w) :: r, k, i, hi => by
    have ih : tabGet (List.filter (fun e => e.1 != k) r) i d = tabGet r i d := tabGet_del_other d r k i hi
    by_cases h : j = k
    · have hji : j ≠ i := fun e => hi (e ▸ h)
      simp [tabDel, h, tabGet, ih]
      intro e
      exact absurd e.symm hi
    · simp [tabDel, h, tabGet, ih]

/-- An entry just written reads back. -/
@[simp] theorem tabGet_set_same (d : α) : ∀ (t : Tab α) (k : Nat) (v : α), tabGet (tabSet t k v d) k d = v
  | [], k, v => by
    by_cases hv : v = d <;> simp [tabSet, hv, tabGet]
  | (j, w) :: r, k, v => by
    unfold tabSet
    split
    · rename_i hjk
      have hne : j ≠ k := by omega
      simp only [tabGet, hne, if_false]
      exact tabGet_set_same d r k v
    · split
      · rename_i hjk
        subst hjk
        split
        · rename_i hv
          rw [hv]
          exact tabGet_del_same d r j
        · simp [tabGet]
      · rename_i hlt hne
        split
        · rename_i hv
          simp only [tabGet, hne, if_false, hv]
          exact tabGet_del_same d r k
        · simp [tabGet]

/-- Every other entry reads as before. -/
theorem tabGet_set_other (d : α) : ∀ (t : Tab α) (k i : Nat) (v : α), i ≠ k → tabGet (tabSet t k v d) i d = tabGet t i d
  | [], k, i, v, hi => by
    by_cases hv : v = d
    · simp [tabSet, hv, tabGet]
    · have : k ≠ i := fun h => hi h.symm
      simp [tabSet, hv, tabGet, this]
  | (j, w) :: r, k, i, v, hi => by
    have hki : k ≠ i := fun h => hi h.symm
    unfold tabSet
    split
    · simp only [tabGet]
      split
      · rfl
      · exact tabGet_set_other d r k i v hi
    · split
      · rename_i hjk
        subst hjk
        split
        · rw [tabGet_del_other d r j i hi]
          simp [tabGet, hki]
        · simp [tabGet, hki]
      · split
        · simp only [tabGet]
          rw [tabGet_del_other d r k i hi]
        · simp [tabGet, hki]

/-! ### Byte memories -/

/-- A byte write keeps a memory's canonical form. -/
theorem Memory.wf_write (m : Memory) (a : Nat) (b : Byte) (h : m.wf = true) : (m.write a b).wf = true := tabWf_set _ m a b h

/-- A byte just written reads back. -/
theorem Memory.read_write_same (m : Memory) (a : Nat) (b : Byte) : (m.write a b).read a = b :=
  tabGet_set_same _ m a b

/-- Every other byte reads as before. -/
theorem Memory.read_write_other (m : Memory) (a i : Nat) (b : Byte) (h : i ≠ a) : (m.write a b).read i = m.read i :=
  tabGet_set_other _ m a i b h

/-- A run of byte writes keeps the canonical form. -/
theorem Memory.wf_writeRun : ∀ (bs : List Byte) (m : Memory) (a : Nat), m.wf = true → (m.writeRun a bs).wf = true
  | [], _, _, h => h
  | b :: r, m, a, h => Memory.wf_writeRun r (m.write a b) (a + 1) (Memory.wf_write m a b h)

/-- A run of byte writes leaves every address outside it alone. -/
theorem Memory.read_writeRun_other : ∀ (bs : List Byte) (m : Memory) (a i : Nat), (i < a ∨ a + bs.length ≤ i) →
    (m.writeRun a bs).read i = m.read i
  | [], _, _, _, _ => rfl
  | b :: r, m, a, i, h => by
    have hr : (Memory.writeRun m a (b :: r)) = (Memory.write m a b).writeRun (a + 1) r := rfl
    simp only [List.length_cons] at h
    rw [hr, Memory.read_writeRun_other r (m.write a b) (a + 1) i (by omega)]
    exact Memory.read_write_other m a i b (by omega)

/-- The byte at place `k` of a run just written reads back. -/
theorem Memory.read_writeRun_same : ∀ (bs : List Byte) (m : Memory) (a k : Nat), (h : k < bs.length) →
    (m.writeRun a bs).read (a + k) = bs[k]
  | [], _, _, _, h => absurd h (Nat.not_lt_zero _)
  | b :: r, m, a, k, h => by
    have hr : (Memory.writeRun m a (b :: r)) = (Memory.write m a b).writeRun (a + 1) r := rfl
    rw [hr]
    cases k with
    | zero =>
      rw [Memory.read_writeRun_other r (m.write a b) (a + 1) (a + 0) (by omega)]
      exact Memory.read_write_same m a b
    | succ k =>
      have hk : a + (k + 1) = (a + 1) + k := by omega
      rw [hk]
      have := Memory.read_writeRun_same r (m.write a b) (a + 1) k (by simpa using h)
      simpa using this

end Sys2Proof.Machine
end

