-- ==== Sys2Proof/Laws/Mem.lean ====
section
/-! SUPPORT. Module memory keeps its canonical form under each of its named writes (Machine/MemOps.lean). -/

namespace Sys2Proof.Machine

/-- One byte written. -/
theorem memPut_wf (s : State) (a : Nat) (b : Byte) (h : s.mem.bytes.wf = true) : (memPut s a b).mem.bytes.wf = true := by
  unfold memPut
  split
  · split
    · exact h
    · exact Memory.wf_write _ _ _ h
  · exact Memory.wf_write _ _ _ h

/-- A run of bytes written. -/
theorem memPutRun_wf (bs : List Byte) : ∀ (s : State) (a : Nat), s.mem.bytes.wf = true → (memPutRun s a bs).mem.bytes.wf = true := by
  induction bs with
  | nil => exact fun _ _ h => h
  | cons b r ih => exact fun s a h => ih _ _ (memPut_wf s a b h)

/-- A length byte is no stored byte. -/
@[simp] theorem setLen_bytes (s : State) (b l : Nat) : (setLen s b l).mem.bytes = s.mem.bytes := rfl

/-- A fold whose step leaves the stored bytes alone does. -/
theorem foldl_bytes {α : Type} (f : State → α → State) (hf : ∀ s x, (f s x).mem.bytes = s.mem.bytes) (xs : List α) :
    ∀ s : State, (xs.foldl f s).mem.bytes = s.mem.bytes := by
  induction xs with
  | nil => exact fun _ => rfl
  | cons x r ih => exact fun s => (ih (f s x)).trans (hf s x)

/-- Draining the surplus of the poison tables changes no stored byte. -/
@[simp] theorem drainSurplus_bytes (s : State) : (drainSurplus s).mem.bytes = s.mem.bytes := by
  unfold drainSurplus
  refine foldl_bytes _ (fun s x => ?_) _ s
  dsimp only
  split <;> split <;> rfl

/-- Nor does clearing the poison of blocks. -/
@[simp] theorem clearPoison_bytes (s : State) (bs : List Nat) : (clearPoison s bs).mem.bytes = s.mem.bytes := by
  unfold clearPoison
  split
  · rfl
  · exact drainSurplus_bytes _

/-- Fresh check bytes are no stored bytes. -/
@[simp] theorem freshLines_bytes (s : State) (ls : List Nat) : (freshLines s ls).mem.bytes = s.mem.bytes := by
  unfold freshLines
  exact clearPoison_bytes _ _

/-- A write by anyone but loader, encoder, repair and migration. -/
theorem memWrite_wf (s : State) (a : Nat) (bs : List Byte) (h : s.mem.bytes.wf = true) : (memWrite s a bs).mem.bytes.wf = true := by
  unfold memWrite
  dsimp only
  rw [freshLines_bytes, foldl_bytes]
  · exact memPutRun_wf bs s a h
  · intro s x
    split
    · split <;> rfl
    · rfl

end Sys2Proof.Machine
end

