-- ==== Sys2Proof/Laws/State.lean ====
section
/-! SUPPORT. What each update of the state leaves alone: one lemma a field, true by unfolding (Machine/Ops.lean). -/

namespace Sys2Proof.Machine

/-- What every step of a fold leaves alone, the fold leaves alone. -/
theorem foldl_same {α β : Type} (v : State → β) {f : State → α → State} (h : ∀ s x, v (f s x) = v s) (xs : List α) (s : State) :
    v (xs.foldl f s) = v s := by
  induction xs generalizing s with
  | nil => rfl
  | cons x r ih => exact (ih _).trans (h s x)

/-! ### setTile -/

@[simp] theorem setTile_tmb (s : State) (t : Nat) (x : Tile) : (setTile s t x).tmb = s.tmb := rfl
@[simp] theorem setTile_latches (s : State) (t : Nat) (x : Tile) : (setTile s t x).latches = s.latches := rfl
@[simp] theorem setTile_halves (s : State) (t : Nat) (x : Tile) : (setTile s t x).halves = s.halves := rfl
@[simp] theorem setTile_pwr (s : State) (t : Nat) (x : Tile) : (setTile s t x).pwr = s.pwr := rfl
@[simp] theorem setTile_mem (s : State) (t : Nat) (x : Tile) : (setTile s t x).mem = s.mem := rfl
@[simp] theorem setTile_exps (s : State) (t : Nat) (x : Tile) : (setTile s t x).exps = s.exps := rfl
@[simp] theorem setTile_cmp (s : State) (t : Nat) (x : Tile) : (setTile s t x).cmp = s.cmp := rfl
@[simp] theorem setTile_parts (s : State) (t : Nat) (x : Tile) : (setTile s t x).parts = s.parts := rfl
@[simp] theorem setTile_slots (s : State) (t : Nat) (x : Tile) : (setTile s t x).slots = s.slots := rfl
@[simp] theorem setTile_hif (s : State) (t : Nat) (x : Tile) : (setTile s t x).hif = s.hif := rfl
@[simp] theorem setTile_log (s : State) (t : Nat) (x : Tile) : (setTile s t x).log = s.log := rfl
@[simp] theorem setTile_lnk (s : State) (t : Nat) (x : Tile) : (setTile s t x).lnk = s.lnk := rfl
@[simp] theorem setTile_ras (s : State) (t : Nat) (x : Tile) : (setTile s t x).ras = s.ras := rfl
@[simp] theorem setTile_boot (s : State) (t : Nat) (x : Tile) : (setTile s t x).boot = s.boot := rfl
@[simp] theorem setTile_sec (s : State) (t : Nat) (x : Tile) : (setTile s t x).sec = s.sec := rfl
@[simp] theorem setTile_side (s : State) (t : Nat) (x : Tile) : (setTile s t x).side = s.side := rfl
@[simp] theorem setTile_free (s : State) (t : Nat) (x : Tile) : (setTile s t x).free = s.free := rfl
@[simp] theorem setTile_out (s : State) (t : Nat) (x : Tile) : (setTile s t x).out = s.out := rfl
@[simp] theorem setTile_pending (s : State) (t : Nat) (x : Tile) : (setTile s t x).pending = s.pending := rfl

/-! ### modTile -/

@[simp] theorem modTile_tmb (s : State) (t : Nat) (f : Tile → Tile) : (modTile s t f).tmb = s.tmb := rfl
@[simp] theorem modTile_latches (s : State) (t : Nat) (f : Tile → Tile) : (modTile s t f).latches = s.latches := rfl
@[simp] theorem modTile_halves (s : State) (t : Nat) (f : Tile → Tile) : (modTile s t f).halves = s.halves := rfl
@[simp] theorem modTile_pwr (s : State) (t : Nat) (f : Tile → Tile) : (modTile s t f).pwr = s.pwr := rfl
@[simp] theorem modTile_mem (s : State) (t : Nat) (f : Tile → Tile) : (modTile s t f).mem = s.mem := rfl
@[simp] theorem modTile_exps (s : State) (t : Nat) (f : Tile → Tile) : (modTile s t f).exps = s.exps := rfl
@[simp] theorem modTile_cmp (s : State) (t : Nat) (f : Tile → Tile) : (modTile s t f).cmp = s.cmp := rfl
@[simp] theorem modTile_parts (s : State) (t : Nat) (f : Tile → Tile) : (modTile s t f).parts = s.parts := rfl
@[simp] theorem modTile_slots (s : State) (t : Nat) (f : Tile → Tile) : (modTile s t f).slots = s.slots := rfl
@[simp] theorem modTile_hif (s : State) (t : Nat) (f : Tile → Tile) : (modTile s t f).hif = s.hif := rfl
@[simp] theorem modTile_log (s : State) (t : Nat) (f : Tile → Tile) : (modTile s t f).log = s.log := rfl
@[simp] theorem modTile_lnk (s : State) (t : Nat) (f : Tile → Tile) : (modTile s t f).lnk = s.lnk := rfl
@[simp] theorem modTile_ras (s : State) (t : Nat) (f : Tile → Tile) : (modTile s t f).ras = s.ras := rfl
@[simp] theorem modTile_boot (s : State) (t : Nat) (f : Tile → Tile) : (modTile s t f).boot = s.boot := rfl
@[simp] theorem modTile_sec (s : State) (t : Nat) (f : Tile → Tile) : (modTile s t f).sec = s.sec := rfl
@[simp] theorem modTile_side (s : State) (t : Nat) (f : Tile → Tile) : (modTile s t f).side = s.side := rfl
@[simp] theorem modTile_free (s : State) (t : Nat) (f : Tile → Tile) : (modTile s t f).free = s.free := rfl
@[simp] theorem modTile_out (s : State) (t : Nat) (f : Tile → Tile) : (modTile s t f).out = s.out := rfl
@[simp] theorem modTile_pending (s : State) (t : Nat) (f : Tile → Tile) : (modTile s t f).pending = s.pending := rfl

/-! ### setPart -/

@[simp] theorem setPart_tmb (s : State) (p : Nat) (x : Part) : (setPart s p x).tmb = s.tmb := rfl
@[simp] theorem setPart_latches (s : State) (p : Nat) (x : Part) : (setPart s p x).latches = s.latches := rfl
@[simp] theorem setPart_halves (s : State) (p : Nat) (x : Part) : (setPart s p x).halves = s.halves := rfl
@[simp] theorem setPart_pwr (s : State) (p : Nat) (x : Part) : (setPart s p x).pwr = s.pwr := rfl
@[simp] theorem setPart_tiles (s : State) (p : Nat) (x : Part) : (setPart s p x).tiles = s.tiles := rfl
@[simp] theorem setPart_mem (s : State) (p : Nat) (x : Part) : (setPart s p x).mem = s.mem := rfl
@[simp] theorem setPart_exps (s : State) (p : Nat) (x : Part) : (setPart s p x).exps = s.exps := rfl
@[simp] theorem setPart_cmp (s : State) (p : Nat) (x : Part) : (setPart s p x).cmp = s.cmp := rfl
@[simp] theorem setPart_slots (s : State) (p : Nat) (x : Part) : (setPart s p x).slots = s.slots := rfl
@[simp] theorem setPart_hif (s : State) (p : Nat) (x : Part) : (setPart s p x).hif = s.hif := rfl
@[simp] theorem setPart_log (s : State) (p : Nat) (x : Part) : (setPart s p x).log = s.log := rfl
@[simp] theorem setPart_lnk (s : State) (p : Nat) (x : Part) : (setPart s p x).lnk = s.lnk := rfl
@[simp] theorem setPart_ras (s : State) (p : Nat) (x : Part) : (setPart s p x).ras = s.ras := rfl
@[simp] theorem setPart_boot (s : State) (p : Nat) (x : Part) : (setPart s p x).boot = s.boot := rfl
@[simp] theorem setPart_sec (s : State) (p : Nat) (x : Part) : (setPart s p x).sec = s.sec := rfl
@[simp] theorem setPart_side (s : State) (p : Nat) (x : Part) : (setPart s p x).side = s.side := rfl
@[simp] theorem setPart_free (s : State) (p : Nat) (x : Part) : (setPart s p x).free = s.free := rfl
@[simp] theorem setPart_out (s : State) (p : Nat) (x : Part) : (setPart s p x).out = s.out := rfl
@[simp] theorem setPart_pending (s : State) (p : Nat) (x : Part) : (setPart s p x).pending = s.pending := rfl

/-! ### modPart -/

@[simp] theorem modPart_tmb (s : State) (p : Nat) (f : Part → Part) : (modPart s p f).tmb = s.tmb := rfl
@[simp] theorem modPart_latches (s : State) (p : Nat) (f : Part → Part) : (modPart s p f).latches = s.latches := rfl
@[simp] theorem modPart_halves (s : State) (p : Nat) (f : Part → Part) : (modPart s p f).halves = s.halves := rfl
@[simp] theorem modPart_pwr (s : State) (p : Nat) (f : Part → Part) : (modPart s p f).pwr = s.pwr := rfl
@[simp] theorem modPart_tiles (s : State) (p : Nat) (f : Part → Part) : (modPart s p f).tiles = s.tiles := rfl
@[simp] theorem modPart_mem (s : State) (p : Nat) (f : Part → Part) : (modPart s p f).mem = s.mem := rfl
@[simp] theorem modPart_exps (s : State) (p : Nat) (f : Part → Part) : (modPart s p f).exps = s.exps := rfl
@[simp] theorem modPart_cmp (s : State) (p : Nat) (f : Part → Part) : (modPart s p f).cmp = s.cmp := rfl
@[simp] theorem modPart_slots (s : State) (p : Nat) (f : Part → Part) : (modPart s p f).slots = s.slots := rfl
@[simp] theorem modPart_hif (s : State) (p : Nat) (f : Part → Part) : (modPart s p f).hif = s.hif := rfl
@[simp] theorem modPart_log (s : State) (p : Nat) (f : Part → Part) : (modPart s p f).log = s.log := rfl
@[simp] theorem modPart_lnk (s : State) (p : Nat) (f : Part → Part) : (modPart s p f).lnk = s.lnk := rfl
@[simp] theorem modPart_ras (s : State) (p : Nat) (f : Part → Part) : (modPart s p f).ras = s.ras := rfl
@[simp] theorem modPart_boot (s : State) (p : Nat) (f : Part → Part) : (modPart s p f).boot = s.boot := rfl
@[simp] theorem modPart_sec (s : State) (p : Nat) (f : Part → Part) : (modPart s p f).sec = s.sec := rfl
@[simp] theorem modPart_side (s : State) (p : Nat) (f : Part → Part) : (modPart s p f).side = s.side := rfl
@[simp] theorem modPart_free (s : State) (p : Nat) (f : Part → Part) : (modPart s p f).free = s.free := rfl
@[simp] theorem modPart_out (s : State) (p : Nat) (f : Part → Part) : (modPart s p f).out = s.out := rfl
@[simp] theorem modPart_pending (s : State) (p : Nat) (f : Part → Part) : (modPart s p f).pending = s.pending := rfl

/-! ### setSlot -/

@[simp] theorem setSlot_tmb (s : State) (n : Nat) (x : Slot) : (setSlot s n x).tmb = s.tmb := rfl
@[simp] theorem setSlot_latches (s : State) (n : Nat) (x : Slot) : (setSlot s n x).latches = s.latches := rfl
@[simp] theorem setSlot_halves (s : State) (n : Nat) (x : Slot) : (setSlot s n x).halves = s.halves := rfl
@[simp] theorem setSlot_pwr (s : State) (n : Nat) (x : Slot) : (setSlot s n x).pwr = s.pwr := rfl
@[simp] theorem setSlot_tiles (s : State) (n : Nat) (x : Slot) : (setSlot s n x).tiles = s.tiles := rfl
@[simp] theorem setSlot_mem (s : State) (n : Nat) (x : Slot) : (setSlot s n x).mem = s.mem := rfl
@[simp] theorem setSlot_exps (s : State) (n : Nat) (x : Slot) : (setSlot s n x).exps = s.exps := rfl
@[simp] theorem setSlot_cmp (s : State) (n : Nat) (x : Slot) : (setSlot s n x).cmp = s.cmp := rfl
@[simp] theorem setSlot_parts (s : State) (n : Nat) (x : Slot) : (setSlot s n x).parts = s.parts := rfl
@[simp] theorem setSlot_hif (s : State) (n : Nat) (x : Slot) : (setSlot s n x).hif = s.hif := rfl
@[simp] theorem setSlot_log (s : State) (n : Nat) (x : Slot) : (setSlot s n x).log = s.log := rfl
@[simp] theorem setSlot_lnk (s : State) (n : Nat) (x : Slot) : (setSlot s n x).lnk = s.lnk := rfl
@[simp] theorem setSlot_ras (s : State) (n : Nat) (x : Slot) : (setSlot s n x).ras = s.ras := rfl
@[simp] theorem setSlot_boot (s : State) (n : Nat) (x : Slot) : (setSlot s n x).boot = s.boot := rfl
@[simp] theorem setSlot_sec (s : State) (n : Nat) (x : Slot) : (setSlot s n x).sec = s.sec := rfl
@[simp] theorem setSlot_side (s : State) (n : Nat) (x : Slot) : (setSlot s n x).side = s.side := rfl
@[simp] theorem setSlot_free (s : State) (n : Nat) (x : Slot) : (setSlot s n x).free = s.free := rfl
@[simp] theorem setSlot_out (s : State) (n : Nat) (x : Slot) : (setSlot s n x).out = s.out := rfl
@[simp] theorem setSlot_pending (s : State) (n : Nat) (x : Slot) : (setSlot s n x).pending = s.pending := rfl

/-! ### modSlot -/

@[simp] theorem modSlot_tmb (s : State) (n : Nat) (f : Slot → Slot) : (modSlot s n f).tmb = s.tmb := rfl
@[simp] theorem modSlot_latches (s : State) (n : Nat) (f : Slot → Slot) : (modSlot s n f).latches = s.latches := rfl
@[simp] theorem modSlot_halves (s : State) (n : Nat) (f : Slot → Slot) : (modSlot s n f).halves = s.halves := rfl
@[simp] theorem modSlot_pwr (s : State) (n : Nat) (f : Slot → Slot) : (modSlot s n f).pwr = s.pwr := rfl
@[simp] theorem modSlot_tiles (s : State) (n : Nat) (f : Slot → Slot) : (modSlot s n f).tiles = s.tiles := rfl
@[simp] theorem modSlot_mem (s : State) (n : Nat) (f : Slot → Slot) : (modSlot s n f).mem = s.mem := rfl
@[simp] theorem modSlot_exps (s : State) (n : Nat) (f : Slot → Slot) : (modSlot s n f).exps = s.exps := rfl
@[simp] theorem modSlot_cmp (s : State) (n : Nat) (f : Slot → Slot) : (modSlot s n f).cmp = s.cmp := rfl
@[simp] theorem modSlot_parts (s : State) (n : Nat) (f : Slot → Slot) : (modSlot s n f).parts = s.parts := rfl
@[simp] theorem modSlot_hif (s : State) (n : Nat) (f : Slot → Slot) : (modSlot s n f).hif = s.hif := rfl
@[simp] theorem modSlot_log (s : State) (n : Nat) (f : Slot → Slot) : (modSlot s n f).log = s.log := rfl
@[simp] theorem modSlot_lnk (s : State) (n : Nat) (f : Slot → Slot) : (modSlot s n f).lnk = s.lnk := rfl
@[simp] theorem modSlot_ras (s : State) (n : Nat) (f : Slot → Slot) : (modSlot s n f).ras = s.ras := rfl
@[simp] theorem modSlot_boot (s : State) (n : Nat) (f : Slot → Slot) : (modSlot s n f).boot = s.boot := rfl
@[simp] theorem modSlot_sec (s : State) (n : Nat) (f : Slot → Slot) : (modSlot s n f).sec = s.sec := rfl
@[simp] theorem modSlot_side (s : State) (n : Nat) (f : Slot → Slot) : (modSlot s n f).side = s.side := rfl
@[simp] theorem modSlot_free (s : State) (n : Nat) (f : Slot → Slot) : (modSlot s n f).free = s.free := rfl
@[simp] theorem modSlot_out (s : State) (n : Nat) (f : Slot → Slot) : (modSlot s n f).out = s.out := rfl
@[simp] theorem modSlot_pending (s : State) (n : Nat) (f : Slot → Slot) : (modSlot s n f).pending = s.pending := rfl

/-! ### modDie -/

@[simp] theorem modDie_tmb (s : State) (d : Nat) (f : DiePwr → DiePwr) : (modDie s d f).tmb = s.tmb := rfl
@[simp] theorem modDie_latches (s : State) (d : Nat) (f : DiePwr → DiePwr) : (modDie s d f).latches = s.latches := rfl
@[simp] theorem modDie_halves (s : State) (d : Nat) (f : DiePwr → DiePwr) : (modDie s d f).halves = s.halves := rfl
@[simp] theorem modDie_tiles (s : State) (d : Nat) (f : DiePwr → DiePwr) : (modDie s d f).tiles = s.tiles := rfl
@[simp] theorem modDie_mem (s : State) (d : Nat) (f : DiePwr → DiePwr) : (modDie s d f).mem = s.mem := rfl
@[simp] theorem modDie_exps (s : State) (d : Nat) (f : DiePwr → DiePwr) : (modDie s d f).exps = s.exps := rfl
@[simp] theorem modDie_cmp (s : State) (d : Nat) (f : DiePwr → DiePwr) : (modDie s d f).cmp = s.cmp := rfl
@[simp] theorem modDie_parts (s : State) (d : Nat) (f : DiePwr → DiePwr) : (modDie s d f).parts = s.parts := rfl
@[simp] theorem modDie_slots (s : State) (d : Nat) (f : DiePwr → DiePwr) : (modDie s d f).slots = s.slots := rfl
@[simp] theorem modDie_hif (s : State) (d : Nat) (f : DiePwr → DiePwr) : (modDie s d f).hif = s.hif := rfl
@[simp] theorem modDie_log (s : State) (d : Nat) (f : DiePwr → DiePwr) : (modDie s d f).log = s.log := rfl
@[simp] theorem modDie_lnk (s : State) (d : Nat) (f : DiePwr → DiePwr) : (modDie s d f).lnk = s.lnk := rfl
@[simp] theorem modDie_ras (s : State) (d : Nat) (f : DiePwr → DiePwr) : (modDie s d f).ras = s.ras := rfl
@[simp] theorem modDie_boot (s : State) (d : Nat) (f : DiePwr → DiePwr) : (modDie s d f).boot = s.boot := rfl
@[simp] theorem modDie_sec (s : State) (d : Nat) (f : DiePwr → DiePwr) : (modDie s d f).sec = s.sec := rfl
@[simp] theorem modDie_side (s : State) (d : Nat) (f : DiePwr → DiePwr) : (modDie s d f).side = s.side := rfl
@[simp] theorem modDie_free (s : State) (d : Nat) (f : DiePwr → DiePwr) : (modDie s d f).free = s.free := rfl
@[simp] theorem modDie_out (s : State) (d : Nat) (f : DiePwr → DiePwr) : (modDie s d f).out = s.out := rfl
@[simp] theorem modDie_pending (s : State) (d : Nat) (f : DiePwr → DiePwr) : (modDie s d f).pending = s.pending := rfl

/-! ### modFn -/

@[simp] theorem modFn_tmb (s : State) (k : Nat) (f : Fn → Fn) : (modFn s k f).tmb = s.tmb := rfl
@[simp] theorem modFn_latches (s : State) (k : Nat) (f : Fn → Fn) : (modFn s k f).latches = s.latches := rfl
@[simp] theorem modFn_halves (s : State) (k : Nat) (f : Fn → Fn) : (modFn s k f).halves = s.halves := rfl
@[simp] theorem modFn_pwr (s : State) (k : Nat) (f : Fn → Fn) : (modFn s k f).pwr = s.pwr := rfl
@[simp] theorem modFn_tiles (s : State) (k : Nat) (f : Fn → Fn) : (modFn s k f).tiles = s.tiles := rfl
@[simp] theorem modFn_mem (s : State) (k : Nat) (f : Fn → Fn) : (modFn s k f).mem = s.mem := rfl
@[simp] theorem modFn_exps (s : State) (k : Nat) (f : Fn → Fn) : (modFn s k f).exps = s.exps := rfl
@[simp] theorem modFn_cmp (s : State) (k : Nat) (f : Fn → Fn) : (modFn s k f).cmp = s.cmp := rfl
@[simp] theorem modFn_parts (s : State) (k : Nat) (f : Fn → Fn) : (modFn s k f).parts = s.parts := rfl
@[simp] theorem modFn_slots (s : State) (k : Nat) (f : Fn → Fn) : (modFn s k f).slots = s.slots := rfl
@[simp] theorem modFn_log (s : State) (k : Nat) (f : Fn → Fn) : (modFn s k f).log = s.log := rfl
@[simp] theorem modFn_lnk (s : State) (k : Nat) (f : Fn → Fn) : (modFn s k f).lnk = s.lnk := rfl
@[simp] theorem modFn_ras (s : State) (k : Nat) (f : Fn → Fn) : (modFn s k f).ras = s.ras := rfl
@[simp] theorem modFn_boot (s : State) (k : Nat) (f : Fn → Fn) : (modFn s k f).boot = s.boot := rfl
@[simp] theorem modFn_sec (s : State) (k : Nat) (f : Fn → Fn) : (modFn s k f).sec = s.sec := rfl
@[simp] theorem modFn_side (s : State) (k : Nat) (f : Fn → Fn) : (modFn s k f).side = s.side := rfl
@[simp] theorem modFn_free (s : State) (k : Nat) (f : Fn → Fn) : (modFn s k f).free = s.free := rfl
@[simp] theorem modFn_out (s : State) (k : Nat) (f : Fn → Fn) : (modFn s k f).out = s.out := rfl
@[simp] theorem modFn_pending (s : State) (k : Nat) (f : Fn → Fn) : (modFn s k f).pending = s.pending := rfl

/-! ### modRing -/

@[simp] theorem modRing_tmb (s : State) (p r : Nat) (f : Ring → Ring) : (modRing s p r f).tmb = s.tmb := rfl
@[simp] theorem modRing_latches (s : State) (p r : Nat) (f : Ring → Ring) : (modRing s p r f).latches = s.latches := rfl
@[simp] theorem modRing_halves (s : State) (p r : Nat) (f : Ring → Ring) : (modRing s p r f).halves = s.halves := rfl
@[simp] theorem modRing_pwr (s : State) (p r : Nat) (f : Ring → Ring) : (modRing s p r f).pwr = s.pwr := rfl
@[simp] theorem modRing_tiles (s : State) (p r : Nat) (f : Ring → Ring) : (modRing s p r f).tiles = s.tiles := rfl
@[simp] theorem modRing_mem (s : State) (p r : Nat) (f : Ring → Ring) : (modRing s p r f).mem = s.mem := rfl
@[simp] theorem modRing_exps (s : State) (p r : Nat) (f : Ring → Ring) : (modRing s p r f).exps = s.exps := rfl
@[simp] theorem modRing_cmp (s : State) (p r : Nat) (f : Ring → Ring) : (modRing s p r f).cmp = s.cmp := rfl
@[simp] theorem modRing_parts (s : State) (p r : Nat) (f : Ring → Ring) : (modRing s p r f).parts = s.parts := rfl
@[simp] theorem modRing_slots (s : State) (p r : Nat) (f : Ring → Ring) : (modRing s p r f).slots = s.slots := rfl
@[simp] theorem modRing_log (s : State) (p r : Nat) (f : Ring → Ring) : (modRing s p r f).log = s.log := rfl
@[simp] theorem modRing_lnk (s : State) (p r : Nat) (f : Ring → Ring) : (modRing s p r f).lnk = s.lnk := rfl
@[simp] theorem modRing_ras (s : State) (p r : Nat) (f : Ring → Ring) : (modRing s p r f).ras = s.ras := rfl
@[simp] theorem modRing_boot (s : State) (p r : Nat) (f : Ring → Ring) : (modRing s p r f).boot = s.boot := rfl
@[simp] theorem modRing_sec (s : State) (p r : Nat) (f : Ring → Ring) : (modRing s p r f).sec = s.sec := rfl
@[simp] theorem modRing_side (s : State) (p r : Nat) (f : Ring → Ring) : (modRing s p r f).side = s.side := rfl
@[simp] theorem modRing_free (s : State) (p r : Nat) (f : Ring → Ring) : (modRing s p r f).free = s.free := rfl
@[simp] theorem modRing_out (s : State) (p r : Nat) (f : Ring → Ring) : (modRing s p r f).out = s.out := rfl
@[simp] theorem modRing_pending (s : State) (p r : Nat) (f : Ring → Ring) : (modRing s p r f).pending = s.pending := rfl

/-! ### emit -/

@[simp] theorem emit_tmb (s : State) (o : Out) : (emit s o).tmb = s.tmb := rfl
@[simp] theorem emit_latches (s : State) (o : Out) : (emit s o).latches = s.latches := rfl
@[simp] theorem emit_halves (s : State) (o : Out) : (emit s o).halves = s.halves := rfl
@[simp] theorem emit_pwr (s : State) (o : Out) : (emit s o).pwr = s.pwr := rfl
@[simp] theorem emit_tiles (s : State) (o : Out) : (emit s o).tiles = s.tiles := rfl
@[simp] theorem emit_mem (s : State) (o : Out) : (emit s o).mem = s.mem := rfl
@[simp] theorem emit_exps (s : State) (o : Out) : (emit s o).exps = s.exps := rfl
@[simp] theorem emit_cmp (s : State) (o : Out) : (emit s o).cmp = s.cmp := rfl
@[simp] theorem emit_parts (s : State) (o : Out) : (emit s o).parts = s.parts := rfl
@[simp] theorem emit_slots (s : State) (o : Out) : (emit s o).slots = s.slots := rfl
@[simp] theorem emit_hif (s : State) (o : Out) : (emit s o).hif = s.hif := rfl
@[simp] theorem emit_log (s : State) (o : Out) : (emit s o).log = s.log := rfl
@[simp] theorem emit_lnk (s : State) (o : Out) : (emit s o).lnk = s.lnk := rfl
@[simp] theorem emit_ras (s : State) (o : Out) : (emit s o).ras = s.ras := rfl
@[simp] theorem emit_boot (s : State) (o : Out) : (emit s o).boot = s.boot := rfl
@[simp] theorem emit_sec (s : State) (o : Out) : (emit s o).sec = s.sec := rfl
@[simp] theorem emit_side (s : State) (o : Out) : (emit s o).side = s.side := rfl
@[simp] theorem emit_free (s : State) (o : Out) : (emit s o).free = s.free := rfl
@[simp] theorem emit_pending (s : State) (o : Out) : (emit s o).pending = s.pending := rfl

/-! ### setUnit -/

@[simp] theorem setUnit_tmb (s : State) (r : UnitRec) : (setUnit s r).tmb = s.tmb := rfl
@[simp] theorem setUnit_latches (s : State) (r : UnitRec) : (setUnit s r).latches = s.latches := rfl
@[simp] theorem setUnit_halves (s : State) (r : UnitRec) : (setUnit s r).halves = s.halves := rfl
@[simp] theorem setUnit_pwr (s : State) (r : UnitRec) : (setUnit s r).pwr = s.pwr := rfl
@[simp] theorem setUnit_tiles (s : State) (r : UnitRec) : (setUnit s r).tiles = s.tiles := rfl
@[simp] theorem setUnit_mem (s : State) (r : UnitRec) : (setUnit s r).mem = s.mem := rfl
@[simp] theorem setUnit_exps (s : State) (r : UnitRec) : (setUnit s r).exps = s.exps := rfl
@[simp] theorem setUnit_cmp (s : State) (r : UnitRec) : (setUnit s r).cmp = s.cmp := rfl
@[simp] theorem setUnit_parts (s : State) (r : UnitRec) : (setUnit s r).parts = s.parts := rfl
@[simp] theorem setUnit_slots (s : State) (r : UnitRec) : (setUnit s r).slots = s.slots := rfl
@[simp] theorem setUnit_hif (s : State) (r : UnitRec) : (setUnit s r).hif = s.hif := rfl
@[simp] theorem setUnit_log (s : State) (r : UnitRec) : (setUnit s r).log = s.log := rfl
@[simp] theorem setUnit_lnk (s : State) (r : UnitRec) : (setUnit s r).lnk = s.lnk := rfl
@[simp] theorem setUnit_boot (s : State) (r : UnitRec) : (setUnit s r).boot = s.boot := rfl
@[simp] theorem setUnit_sec (s : State) (r : UnitRec) : (setUnit s r).sec = s.sec := rfl
@[simp] theorem setUnit_side (s : State) (r : UnitRec) : (setUnit s r).side = s.side := rfl
@[simp] theorem setUnit_free (s : State) (r : UnitRec) : (setUnit s r).free = s.free := rfl
@[simp] theorem setUnit_out (s : State) (r : UnitRec) : (setUnit s r).out = s.out := rfl
@[simp] theorem setUnit_pending (s : State) (r : UnitRec) : (setUnit s r).pending = s.pending := rfl

/-! ### unlose -/

@[simp] theorem unlose_tmb (s : State) (l i : Nat) : (unlose s l i).tmb = s.tmb := rfl
@[simp] theorem unlose_latches (s : State) (l i : Nat) : (unlose s l i).latches = s.latches := rfl
@[simp] theorem unlose_halves (s : State) (l i : Nat) : (unlose s l i).halves = s.halves := rfl
@[simp] theorem unlose_pwr (s : State) (l i : Nat) : (unlose s l i).pwr = s.pwr := rfl
@[simp] theorem unlose_tiles (s : State) (l i : Nat) : (unlose s l i).tiles = s.tiles := rfl
@[simp] theorem unlose_mem (s : State) (l i : Nat) : (unlose s l i).mem = s.mem := rfl
@[simp] theorem unlose_exps (s : State) (l i : Nat) : (unlose s l i).exps = s.exps := rfl
@[simp] theorem unlose_cmp (s : State) (l i : Nat) : (unlose s l i).cmp = s.cmp := rfl
@[simp] theorem unlose_parts (s : State) (l i : Nat) : (unlose s l i).parts = s.parts := rfl
@[simp] theorem unlose_slots (s : State) (l i : Nat) : (unlose s l i).slots = s.slots := rfl
@[simp] theorem unlose_hif (s : State) (l i : Nat) : (unlose s l i).hif = s.hif := rfl
@[simp] theorem unlose_lnk (s : State) (l i : Nat) : (unlose s l i).lnk = s.lnk := rfl
@[simp] theorem unlose_ras (s : State) (l i : Nat) : (unlose s l i).ras = s.ras := rfl
@[simp] theorem unlose_boot (s : State) (l i : Nat) : (unlose s l i).boot = s.boot := rfl
@[simp] theorem unlose_sec (s : State) (l i : Nat) : (unlose s l i).sec = s.sec := rfl
@[simp] theorem unlose_side (s : State) (l i : Nat) : (unlose s l i).side = s.side := rfl
@[simp] theorem unlose_free (s : State) (l i : Nat) : (unlose s l i).free = s.free := rfl
@[simp] theorem unlose_out (s : State) (l i : Nat) : (unlose s l i).out = s.out := rfl
@[simp] theorem unlose_pending (s : State) (l i : Nat) : (unlose s l i).pending = s.pending := rfl

/-! ### pushLedger -/

@[simp] theorem pushLedger_tmb (s : State) (e : LedgerEntry) : (pushLedger s e).tmb = s.tmb := rfl
@[simp] theorem pushLedger_latches (s : State) (e : LedgerEntry) : (pushLedger s e).latches = s.latches := rfl
@[simp] theorem pushLedger_halves (s : State) (e : LedgerEntry) : (pushLedger s e).halves = s.halves := rfl
@[simp] theorem pushLedger_pwr (s : State) (e : LedgerEntry) : (pushLedger s e).pwr = s.pwr := rfl
@[simp] theorem pushLedger_tiles (s : State) (e : LedgerEntry) : (pushLedger s e).tiles = s.tiles := rfl
@[simp] theorem pushLedger_mem (s : State) (e : LedgerEntry) : (pushLedger s e).mem = s.mem := rfl
@[simp] theorem pushLedger_exps (s : State) (e : LedgerEntry) : (pushLedger s e).exps = s.exps := rfl
@[simp] theorem pushLedger_cmp (s : State) (e : LedgerEntry) : (pushLedger s e).cmp = s.cmp := rfl
@[simp] theorem pushLedger_parts (s : State) (e : LedgerEntry) : (pushLedger s e).parts = s.parts := rfl
@[simp] theorem pushLedger_slots (s : State) (e : LedgerEntry) : (pushLedger s e).slots = s.slots := rfl
@[simp] theorem pushLedger_hif (s : State) (e : LedgerEntry) : (pushLedger s e).hif = s.hif := rfl
@[simp] theorem pushLedger_lnk (s : State) (e : LedgerEntry) : (pushLedger s e).lnk = s.lnk := rfl
@[simp] theorem pushLedger_ras (s : State) (e : LedgerEntry) : (pushLedger s e).ras = s.ras := rfl
@[simp] theorem pushLedger_boot (s : State) (e : LedgerEntry) : (pushLedger s e).boot = s.boot := rfl
@[simp] theorem pushLedger_sec (s : State) (e : LedgerEntry) : (pushLedger s e).sec = s.sec := rfl
@[simp] theorem pushLedger_side (s : State) (e : LedgerEntry) : (pushLedger s e).side = s.side := rfl
@[simp] theorem pushLedger_free (s : State) (e : LedgerEntry) : (pushLedger s e).free = s.free := rfl
@[simp] theorem pushLedger_out (s : State) (e : LedgerEntry) : (pushLedger s e).out = s.out := rfl
@[simp] theorem pushLedger_pending (s : State) (e : LedgerEntry) : (pushLedger s e).pending = s.pending := rfl

/-! ### ledger -/

@[simp] theorem ledger_tmb (s : State) (o : Origin) (a : LedgerArgs) : (ledger s o a).tmb = s.tmb := rfl
@[simp] theorem ledger_latches (s : State) (o : Origin) (a : LedgerArgs) : (ledger s o a).latches = s.latches := rfl
@[simp] theorem ledger_halves (s : State) (o : Origin) (a : LedgerArgs) : (ledger s o a).halves = s.halves := rfl
@[simp] theorem ledger_pwr (s : State) (o : Origin) (a : LedgerArgs) : (ledger s o a).pwr = s.pwr := rfl
@[simp] theorem ledger_tiles (s : State) (o : Origin) (a : LedgerArgs) : (ledger s o a).tiles = s.tiles := rfl
@[simp] theorem ledger_mem (s : State) (o : Origin) (a : LedgerArgs) : (ledger s o a).mem = s.mem := rfl
@[simp] theorem ledger_exps (s : State) (o : Origin) (a : LedgerArgs) : (ledger s o a).exps = s.exps := rfl
@[simp] theorem ledger_cmp (s : State) (o : Origin) (a : LedgerArgs) : (ledger s o a).cmp = s.cmp := rfl
@[simp] theorem ledger_parts (s : State) (o : Origin) (a : LedgerArgs) : (ledger s o a).parts = s.parts := rfl
@[simp] theorem ledger_slots (s : State) (o : Origin) (a : LedgerArgs) : (ledger s o a).slots = s.slots := rfl
@[simp] theorem ledger_hif (s : State) (o : Origin) (a : LedgerArgs) : (ledger s o a).hif = s.hif := rfl
@[simp] theorem ledger_lnk (s : State) (o : Origin) (a : LedgerArgs) : (ledger s o a).lnk = s.lnk := rfl
@[simp] theorem ledger_ras (s : State) (o : Origin) (a : LedgerArgs) : (ledger s o a).ras = s.ras := rfl
@[simp] theorem ledger_boot (s : State) (o : Origin) (a : LedgerArgs) : (ledger s o a).boot = s.boot := rfl
@[simp] theorem ledger_sec (s : State) (o : Origin) (a : LedgerArgs) : (ledger s o a).sec = s.sec := rfl
@[simp] theorem ledger_side (s : State) (o : Origin) (a : LedgerArgs) : (ledger s o a).side = s.side := rfl
@[simp] theorem ledger_free (s : State) (o : Origin) (a : LedgerArgs) : (ledger s o a).free = s.free := rfl
@[simp] theorem ledger_out (s : State) (o : Origin) (a : LedgerArgs) : (ledger s o a).out = s.out := rfl
@[simp] theorem ledger_pending (s : State) (o : Origin) (a : LedgerArgs) : (ledger s o a).pending = s.pending := rfl

/-! ### fire -/

@[simp] theorem fire_tmb (s : State) (k v : Nat) : (fire s k v).tmb = s.tmb := by unfold fire; split <;> rfl
@[simp] theorem fire_latches (s : State) (k v : Nat) : (fire s k v).latches = s.latches := by unfold fire; split <;> rfl
@[simp] theorem fire_halves (s : State) (k v : Nat) : (fire s k v).halves = s.halves := by unfold fire; split <;> rfl
@[simp] theorem fire_pwr (s : State) (k v : Nat) : (fire s k v).pwr = s.pwr := by unfold fire; split <;> rfl
@[simp] theorem fire_tiles (s : State) (k v : Nat) : (fire s k v).tiles = s.tiles := by unfold fire; split <;> rfl
@[simp] theorem fire_mem (s : State) (k v : Nat) : (fire s k v).mem = s.mem := by unfold fire; split <;> rfl
@[simp] theorem fire_exps (s : State) (k v : Nat) : (fire s k v).exps = s.exps := by unfold fire; split <;> rfl
@[simp] theorem fire_cmp (s : State) (k v : Nat) : (fire s k v).cmp = s.cmp := by unfold fire; split <;> rfl
@[simp] theorem fire_parts (s : State) (k v : Nat) : (fire s k v).parts = s.parts := by unfold fire; split <;> rfl
@[simp] theorem fire_slots (s : State) (k v : Nat) : (fire s k v).slots = s.slots := by unfold fire; split <;> rfl
@[simp] theorem fire_log (s : State) (k v : Nat) : (fire s k v).log = s.log := by unfold fire; split <;> rfl
@[simp] theorem fire_lnk (s : State) (k v : Nat) : (fire s k v).lnk = s.lnk := by unfold fire; split <;> rfl
@[simp] theorem fire_ras (s : State) (k v : Nat) : (fire s k v).ras = s.ras := by unfold fire; split <;> rfl
@[simp] theorem fire_boot (s : State) (k v : Nat) : (fire s k v).boot = s.boot := by unfold fire; split <;> rfl
@[simp] theorem fire_sec (s : State) (k v : Nat) : (fire s k v).sec = s.sec := by unfold fire; split <;> rfl
@[simp] theorem fire_side (s : State) (k v : Nat) : (fire s k v).side = s.side := by unfold fire; split <;> rfl
@[simp] theorem fire_free (s : State) (k v : Nat) : (fire s k v).free = s.free := by unfold fire; split <;> rfl
@[simp] theorem fire_pending (s : State) (k v : Nat) : (fire s k v).pending = s.pending := by unfold fire; split <;> rfl

/-! ### writeErr -/

@[simp] theorem writeErr_tmb (s : State) (e : ErrRec) : (writeErr s e).tmb = s.tmb := by unfold writeErr; dsimp only; split <;> [rfl; (split <;> simp)]
@[simp] theorem writeErr_latches (s : State) (e : ErrRec) : (writeErr s e).latches = s.latches := by unfold writeErr; dsimp only; split <;> [rfl; (split <;> simp)]
@[simp] theorem writeErr_halves (s : State) (e : ErrRec) : (writeErr s e).halves = s.halves := by unfold writeErr; dsimp only; split <;> [rfl; (split <;> simp)]
@[simp] theorem writeErr_pwr (s : State) (e : ErrRec) : (writeErr s e).pwr = s.pwr := by unfold writeErr; dsimp only; split <;> [rfl; (split <;> simp)]
@[simp] theorem writeErr_tiles (s : State) (e : ErrRec) : (writeErr s e).tiles = s.tiles := by unfold writeErr; dsimp only; split <;> [rfl; (split <;> simp)]
@[simp] theorem writeErr_mem (s : State) (e : ErrRec) : (writeErr s e).mem = s.mem := by unfold writeErr; dsimp only; split <;> [rfl; (split <;> simp)]
@[simp] theorem writeErr_exps (s : State) (e : ErrRec) : (writeErr s e).exps = s.exps := by unfold writeErr; dsimp only; split <;> [rfl; (split <;> simp)]
@[simp] theorem writeErr_cmp (s : State) (e : ErrRec) : (writeErr s e).cmp = s.cmp := by unfold writeErr; dsimp only; split <;> [rfl; (split <;> simp)]
@[simp] theorem writeErr_parts (s : State) (e : ErrRec) : (writeErr s e).parts = s.parts := by unfold writeErr; dsimp only; split <;> [rfl; (split <;> simp)]
@[simp] theorem writeErr_slots (s : State) (e : ErrRec) : (writeErr s e).slots = s.slots := by unfold writeErr; dsimp only; split <;> [rfl; (split <;> simp)]
@[simp] theorem writeErr_lnk (s : State) (e : ErrRec) : (writeErr s e).lnk = s.lnk := by unfold writeErr; dsimp only; split <;> [rfl; (split <;> simp)]
@[simp] theorem writeErr_boot (s : State) (e : ErrRec) : (writeErr s e).boot = s.boot := by unfold writeErr; dsimp only; split <;> [rfl; (split <;> simp)]
@[simp] theorem writeErr_sec (s : State) (e : ErrRec) : (writeErr s e).sec = s.sec := by unfold writeErr; dsimp only; split <;> [rfl; (split <;> simp)]
@[simp] theorem writeErr_side (s : State) (e : ErrRec) : (writeErr s e).side = s.side := by unfold writeErr; dsimp only; split <;> [rfl; (split <;> simp)]
@[simp] theorem writeErr_free (s : State) (e : ErrRec) : (writeErr s e).free = s.free := by unfold writeErr; dsimp only; split <;> [rfl; (split <;> simp)]
@[simp] theorem writeErr_pending (s : State) (e : ErrRec) : (writeErr s e).pending = s.pending := by unfold writeErr; dsimp only; split <;> [rfl; (split <;> simp)]

/-! ### queueErr -/

@[simp] theorem queueErr_tmb (s : State) (e : ErrRec) : (queueErr s e).tmb = s.tmb := rfl
@[simp] theorem queueErr_latches (s : State) (e : ErrRec) : (queueErr s e).latches = s.latches := rfl
@[simp] theorem queueErr_halves (s : State) (e : ErrRec) : (queueErr s e).halves = s.halves := rfl
@[simp] theorem queueErr_pwr (s : State) (e : ErrRec) : (queueErr s e).pwr = s.pwr := rfl
@[simp] theorem queueErr_tiles (s : State) (e : ErrRec) : (queueErr s e).tiles = s.tiles := rfl
@[simp] theorem queueErr_mem (s : State) (e : ErrRec) : (queueErr s e).mem = s.mem := rfl
@[simp] theorem queueErr_exps (s : State) (e : ErrRec) : (queueErr s e).exps = s.exps := rfl
@[simp] theorem queueErr_cmp (s : State) (e : ErrRec) : (queueErr s e).cmp = s.cmp := rfl
@[simp] theorem queueErr_parts (s : State) (e : ErrRec) : (queueErr s e).parts = s.parts := rfl
@[simp] theorem queueErr_slots (s : State) (e : ErrRec) : (queueErr s e).slots = s.slots := rfl
@[simp] theorem queueErr_hif (s : State) (e : ErrRec) : (queueErr s e).hif = s.hif := rfl
@[simp] theorem queueErr_lnk (s : State) (e : ErrRec) : (queueErr s e).lnk = s.lnk := rfl
@[simp] theorem queueErr_ras (s : State) (e : ErrRec) : (queueErr s e).ras = s.ras := rfl
@[simp] theorem queueErr_boot (s : State) (e : ErrRec) : (queueErr s e).boot = s.boot := rfl
@[simp] theorem queueErr_sec (s : State) (e : ErrRec) : (queueErr s e).sec = s.sec := rfl
@[simp] theorem queueErr_side (s : State) (e : ErrRec) : (queueErr s e).side = s.side := rfl
@[simp] theorem queueErr_free (s : State) (e : ErrRec) : (queueErr s e).free = s.free := rfl
@[simp] theorem queueErr_out (s : State) (e : ErrRec) : (queueErr s e).out = s.out := rfl
@[simp] theorem queueErr_pending (s : State) (e : ErrRec) : (queueErr s e).pending = s.pending := rfl

/-! ### drainErrs -/

@[simp] theorem drainErrs_tmb (s : State) (n : Nat) : (drainErrs n s).tmb = s.tmb := foldl_same (fun s => s.tmb) (fun s e => writeErr_tmb s e) _ _
@[simp] theorem drainErrs_latches (s : State) (n : Nat) : (drainErrs n s).latches = s.latches := foldl_same (fun s => s.latches) (fun s e => writeErr_latches s e) _ _
@[simp] theorem drainErrs_halves (s : State) (n : Nat) : (drainErrs n s).halves = s.halves := foldl_same (fun s => s.halves) (fun s e => writeErr_halves s e) _ _
@[simp] theorem drainErrs_pwr (s : State) (n : Nat) : (drainErrs n s).pwr = s.pwr := foldl_same (fun s => s.pwr) (fun s e => writeErr_pwr s e) _ _
@[simp] theorem drainErrs_tiles (s : State) (n : Nat) : (drainErrs n s).tiles = s.tiles := foldl_same (fun s => s.tiles) (fun s e => writeErr_tiles s e) _ _
@[simp] theorem drainErrs_mem (s : State) (n : Nat) : (drainErrs n s).mem = s.mem := foldl_same (fun s => s.mem) (fun s e => writeErr_mem s e) _ _
@[simp] theorem drainErrs_exps (s : State) (n : Nat) : (drainErrs n s).exps = s.exps := foldl_same (fun s => s.exps) (fun s e => writeErr_exps s e) _ _
@[simp] theorem drainErrs_cmp (s : State) (n : Nat) : (drainErrs n s).cmp = s.cmp := foldl_same (fun s => s.cmp) (fun s e => writeErr_cmp s e) _ _
@[simp] theorem drainErrs_parts (s : State) (n : Nat) : (drainErrs n s).parts = s.parts := foldl_same (fun s => s.parts) (fun s e => writeErr_parts s e) _ _
@[simp] theorem drainErrs_slots (s : State) (n : Nat) : (drainErrs n s).slots = s.slots := foldl_same (fun s => s.slots) (fun s e => writeErr_slots s e) _ _
@[simp] theorem drainErrs_lnk (s : State) (n : Nat) : (drainErrs n s).lnk = s.lnk := foldl_same (fun s => s.lnk) (fun s e => writeErr_lnk s e) _ _
@[simp] theorem drainErrs_boot (s : State) (n : Nat) : (drainErrs n s).boot = s.boot := foldl_same (fun s => s.boot) (fun s e => writeErr_boot s e) _ _
@[simp] theorem drainErrs_sec (s : State) (n : Nat) : (drainErrs n s).sec = s.sec := foldl_same (fun s => s.sec) (fun s e => writeErr_sec s e) _ _
@[simp] theorem drainErrs_side (s : State) (n : Nat) : (drainErrs n s).side = s.side := foldl_same (fun s => s.side) (fun s e => writeErr_side s e) _ _
@[simp] theorem drainErrs_free (s : State) (n : Nat) : (drainErrs n s).free = s.free := foldl_same (fun s => s.free) (fun s e => writeErr_free s e) _ _
@[simp] theorem drainErrs_pending (s : State) (n : Nat) : (drainErrs n s).pending = s.pending := foldl_same (fun s => s.pending) (fun s e => writeErr_pending s e) _ _

/-! ### journalDrain -/

@[simp] theorem journalDrain_tmb (s : State) (p n : Nat) : (journalDrain s p n).tmb = s.tmb := by
  unfold journalDrain; dsimp only; exact foldl_same (fun s => s.tmb) (fun s e => unlose_tmb s p _) _ _
@[simp] theorem journalDrain_latches (s : State) (p n : Nat) : (journalDrain s p n).latches = s.latches := by
  unfold journalDrain; dsimp only; exact foldl_same (fun s => s.latches) (fun s e => unlose_latches s p _) _ _
@[simp] theorem journalDrain_halves (s : State) (p n : Nat) : (journalDrain s p n).halves = s.halves := by
  unfold journalDrain; dsimp only; exact foldl_same (fun s => s.halves) (fun s e => unlose_halves s p _) _ _
@[simp] theorem journalDrain_pwr (s : State) (p n : Nat) : (journalDrain s p n).pwr = s.pwr := by
  unfold journalDrain; dsimp only; exact foldl_same (fun s => s.pwr) (fun s e => unlose_pwr s p _) _ _
@[simp] theorem journalDrain_tiles (s : State) (p n : Nat) : (journalDrain s p n).tiles = s.tiles := by
  unfold journalDrain; dsimp only; exact foldl_same (fun s => s.tiles) (fun s e => unlose_tiles s p _) _ _
@[simp] theorem journalDrain_mem (s : State) (p n : Nat) : (journalDrain s p n).mem = s.mem := by
  unfold journalDrain; dsimp only; exact foldl_same (fun s => s.mem) (fun s e => unlose_mem s p _) _ _
@[simp] theorem journalDrain_exps (s : State) (p n : Nat) : (journalDrain s p n).exps = s.exps := by
  unfold journalDrain; dsimp only; exact foldl_same (fun s => s.exps) (fun s e => unlose_exps s p _) _ _
@[simp] theorem journalDrain_cmp (s : State) (p n : Nat) : (journalDrain s p n).cmp = s.cmp := by
  unfold journalDrain; dsimp only; exact foldl_same (fun s => s.cmp) (fun s e => unlose_cmp s p _) _ _
@[simp] theorem journalDrain_parts (s : State) (p n : Nat) : (journalDrain s p n).parts = s.parts := by
  unfold journalDrain; dsimp only; exact foldl_same (fun s => s.parts) (fun s e => unlose_parts s p _) _ _
@[simp] theorem journalDrain_slots (s : State) (p n : Nat) : (journalDrain s p n).slots = s.slots := by
  unfold journalDrain; dsimp only; exact foldl_same (fun s => s.slots) (fun s e => unlose_slots s p _) _ _
@[simp] theorem journalDrain_hif (s : State) (p n : Nat) : (journalDrain s p n).hif = s.hif := by
  unfold journalDrain; dsimp only; exact foldl_same (fun s => s.hif) (fun s e => unlose_hif s p _) _ _
@[simp] theorem journalDrain_lnk (s : State) (p n : Nat) : (journalDrain s p n).lnk = s.lnk := by
  unfold journalDrain; dsimp only; exact foldl_same (fun s => s.lnk) (fun s e => unlose_lnk s p _) _ _
@[simp] theorem journalDrain_ras (s : State) (p n : Nat) : (journalDrain s p n).ras = s.ras := by
  unfold journalDrain; dsimp only; exact foldl_same (fun s => s.ras) (fun s e => unlose_ras s p _) _ _
@[simp] theorem journalDrain_boot (s : State) (p n : Nat) : (journalDrain s p n).boot = s.boot := by
  unfold journalDrain; dsimp only; exact foldl_same (fun s => s.boot) (fun s e => unlose_boot s p _) _ _
@[simp] theorem journalDrain_sec (s : State) (p n : Nat) : (journalDrain s p n).sec = s.sec := by
  unfold journalDrain; dsimp only; exact foldl_same (fun s => s.sec) (fun s e => unlose_sec s p _) _ _
@[simp] theorem journalDrain_side (s : State) (p n : Nat) : (journalDrain s p n).side = s.side := by
  unfold journalDrain; dsimp only; exact foldl_same (fun s => s.side) (fun s e => unlose_side s p _) _ _
@[simp] theorem journalDrain_free (s : State) (p n : Nat) : (journalDrain s p n).free = s.free := by
  unfold journalDrain; dsimp only; exact foldl_same (fun s => s.free) (fun s e => unlose_free s p _) _ _
@[simp] theorem journalDrain_out (s : State) (p n : Nat) : (journalDrain s p n).out = s.out := by
  unfold journalDrain; dsimp only; exact foldl_same (fun s => s.out) (fun s e => unlose_out s p _) _ _
@[simp] theorem journalDrain_pending (s : State) (p n : Nat) : (journalDrain s p n).pending = s.pending := by
  unfold journalDrain; dsimp only; exact foldl_same (fun s => s.pending) (fun s e => unlose_pending s p _) _ _

/-! ### journal -/

@[simp] theorem journal_tmb (s : State) (j : JSrc) (k : Nat) (st : Status) (d : Nat) : (journal s j k st d).tmb = s.tmb := by simp [journal]
@[simp] theorem journal_latches (s : State) (j : JSrc) (k : Nat) (st : Status) (d : Nat) : (journal s j k st d).latches = s.latches := by simp [journal]
@[simp] theorem journal_halves (s : State) (j : JSrc) (k : Nat) (st : Status) (d : Nat) : (journal s j k st d).halves = s.halves := by simp [journal]
@[simp] theorem journal_pwr (s : State) (j : JSrc) (k : Nat) (st : Status) (d : Nat) : (journal s j k st d).pwr = s.pwr := by simp [journal]
@[simp] theorem journal_tiles (s : State) (j : JSrc) (k : Nat) (st : Status) (d : Nat) : (journal s j k st d).tiles = s.tiles := by simp [journal]
@[simp] theorem journal_mem (s : State) (j : JSrc) (k : Nat) (st : Status) (d : Nat) : (journal s j k st d).mem = s.mem := by simp [journal]
@[simp] theorem journal_exps (s : State) (j : JSrc) (k : Nat) (st : Status) (d : Nat) : (journal s j k st d).exps = s.exps := by simp [journal]
@[simp] theorem journal_cmp (s : State) (j : JSrc) (k : Nat) (st : Status) (d : Nat) : (journal s j k st d).cmp = s.cmp := by simp [journal]
@[simp] theorem journal_parts (s : State) (j : JSrc) (k : Nat) (st : Status) (d : Nat) : (journal s j k st d).parts = s.parts := by simp [journal]
@[simp] theorem journal_slots (s : State) (j : JSrc) (k : Nat) (st : Status) (d : Nat) : (journal s j k st d).slots = s.slots := by simp [journal]
@[simp] theorem journal_hif (s : State) (j : JSrc) (k : Nat) (st : Status) (d : Nat) : (journal s j k st d).hif = s.hif := by simp [journal]
@[simp] theorem journal_lnk (s : State) (j : JSrc) (k : Nat) (st : Status) (d : Nat) : (journal s j k st d).lnk = s.lnk := by simp [journal]
@[simp] theorem journal_ras (s : State) (j : JSrc) (k : Nat) (st : Status) (d : Nat) : (journal s j k st d).ras = s.ras := by simp [journal]
@[simp] theorem journal_boot (s : State) (j : JSrc) (k : Nat) (st : Status) (d : Nat) : (journal s j k st d).boot = s.boot := by simp [journal]
@[simp] theorem journal_sec (s : State) (j : JSrc) (k : Nat) (st : Status) (d : Nat) : (journal s j k st d).sec = s.sec := by simp [journal]
@[simp] theorem journal_side (s : State) (j : JSrc) (k : Nat) (st : Status) (d : Nat) : (journal s j k st d).side = s.side := by simp [journal]
@[simp] theorem journal_free (s : State) (j : JSrc) (k : Nat) (st : Status) (d : Nat) : (journal s j k st d).free = s.free := by simp [journal]
@[simp] theorem journal_out (s : State) (j : JSrc) (k : Nat) (st : Status) (d : Nat) : (journal s j k st d).out = s.out := by simp [journal]
@[simp] theorem journal_pending (s : State) (j : JSrc) (k : Nat) (st : Status) (d : Nat) : (journal s j k st d).pending = s.pending := by simp [journal]

/-! ### pushErr -/

@[simp] theorem pushErr_tmb (s : State) (c : RecCode) (a : ErrArgs) : (pushErr s c a).tmb = s.tmb := by
  unfold pushErr; dsimp only; split <;> [rfl; rw [queueErr_tmb, drainErrs_tmb]]
@[simp] theorem pushErr_latches (s : State) (c : RecCode) (a : ErrArgs) : (pushErr s c a).latches = s.latches := by
  unfold pushErr; dsimp only; split <;> [rfl; rw [queueErr_latches, drainErrs_latches]]
@[simp] theorem pushErr_halves (s : State) (c : RecCode) (a : ErrArgs) : (pushErr s c a).halves = s.halves := by
  unfold pushErr; dsimp only; split <;> [rfl; rw [queueErr_halves, drainErrs_halves]]
@[simp] theorem pushErr_pwr (s : State) (c : RecCode) (a : ErrArgs) : (pushErr s c a).pwr = s.pwr := by
  unfold pushErr; dsimp only; split <;> [rfl; rw [queueErr_pwr, drainErrs_pwr]]
@[simp] theorem pushErr_tiles (s : State) (c : RecCode) (a : ErrArgs) : (pushErr s c a).tiles = s.tiles := by
  unfold pushErr; dsimp only; split <;> [rfl; rw [queueErr_tiles, drainErrs_tiles]]
@[simp] theorem pushErr_mem (s : State) (c : RecCode) (a : ErrArgs) : (pushErr s c a).mem = s.mem := by
  unfold pushErr; dsimp only; split <;> [rfl; rw [queueErr_mem, drainErrs_mem]]
@[simp] theorem pushErr_exps (s : State) (c : RecCode) (a : ErrArgs) : (pushErr s c a).exps = s.exps := by
  unfold pushErr; dsimp only; split <;> [rfl; rw [queueErr_exps, drainErrs_exps]]
@[simp] theorem pushErr_cmp (s : State) (c : RecCode) (a : ErrArgs) : (pushErr s c a).cmp = s.cmp := by
  unfold pushErr; dsimp only; split <;> [rfl; rw [queueErr_cmp, drainErrs_cmp]]
@[simp] theorem pushErr_parts (s : State) (c : RecCode) (a : ErrArgs) : (pushErr s c a).parts = s.parts := by
  unfold pushErr; dsimp only; split <;> [rfl; rw [queueErr_parts, drainErrs_parts]]
@[simp] theorem pushErr_slots (s : State) (c : RecCode) (a : ErrArgs) : (pushErr s c a).slots = s.slots := by
  unfold pushErr; dsimp only; split <;> [rfl; rw [queueErr_slots, drainErrs_slots]]
@[simp] theorem pushErr_lnk (s : State) (c : RecCode) (a : ErrArgs) : (pushErr s c a).lnk = s.lnk := by
  unfold pushErr; dsimp only; split <;> [rfl; rw [queueErr_lnk, drainErrs_lnk]]
@[simp] theorem pushErr_boot (s : State) (c : RecCode) (a : ErrArgs) : (pushErr s c a).boot = s.boot := by
  unfold pushErr; dsimp only; split <;> [rfl; rw [queueErr_boot, drainErrs_boot]]
@[simp] theorem pushErr_sec (s : State) (c : RecCode) (a : ErrArgs) : (pushErr s c a).sec = s.sec := by
  unfold pushErr; dsimp only; split <;> [rfl; rw [queueErr_sec, drainErrs_sec]]
@[simp] theorem pushErr_side (s : State) (c : RecCode) (a : ErrArgs) : (pushErr s c a).side = s.side := by
  unfold pushErr; dsimp only; split <;> [rfl; rw [queueErr_side, drainErrs_side]]
@[simp] theorem pushErr_free (s : State) (c : RecCode) (a : ErrArgs) : (pushErr s c a).free = s.free := by
  unfold pushErr; dsimp only; split <;> [rfl; rw [queueErr_free, drainErrs_free]]
@[simp] theorem pushErr_pending (s : State) (c : RecCode) (a : ErrArgs) : (pushErr s c a).pending = s.pending := by
  unfold pushErr; dsimp only; split <;> [rfl; rw [queueErr_pending, drainErrs_pending]]

/-! ### Numbered files read after a write -/

@[simp] theorem tileOf_setPart (s : State) (p : Nat) (x : Part) (i : Nat) : tileOf (setPart s p x) i = tileOf s i := by simp [tileOf]
@[simp] theorem tileOf_modPart (s : State) (p : Nat) (f : Part → Part) (i : Nat) : tileOf (modPart s p f) i = tileOf s i := by simp [tileOf]
@[simp] theorem tileOf_setSlot (s : State) (n : Nat) (x : Slot) (i : Nat) : tileOf (setSlot s n x) i = tileOf s i := by simp [tileOf]
@[simp] theorem tileOf_modSlot (s : State) (n : Nat) (f : Slot → Slot) (i : Nat) : tileOf (modSlot s n f) i = tileOf s i := by simp [tileOf]
@[simp] theorem tileOf_modDie (s : State) (d : Nat) (f : DiePwr → DiePwr) (i : Nat) : tileOf (modDie s d f) i = tileOf s i := by simp [tileOf]
@[simp] theorem tileOf_modFn (s : State) (k : Nat) (f : Fn → Fn) (i : Nat) : tileOf (modFn s k f) i = tileOf s i := by simp [tileOf]
@[simp] theorem tileOf_modRing (s : State) (p r : Nat) (f : Ring → Ring) (i : Nat) : tileOf (modRing s p r f) i = tileOf s i := by simp [tileOf]
@[simp] theorem tileOf_emit (s : State) (o : Out) (i : Nat) : tileOf (emit s o) i = tileOf s i := by simp [tileOf]
@[simp] theorem tileOf_setUnit (s : State) (r : UnitRec) (i : Nat) : tileOf (setUnit s r) i = tileOf s i := by simp [tileOf]
@[simp] theorem tileOf_unlose (s : State) (l q : Nat) (i : Nat) : tileOf (unlose s l q) i = tileOf s i := by simp [tileOf]
@[simp] theorem tileOf_pushLedger (s : State) (e : LedgerEntry) (i : Nat) : tileOf (pushLedger s e) i = tileOf s i := by simp [tileOf]
@[simp] theorem tileOf_ledger (s : State) (o : Origin) (a : LedgerArgs) (i : Nat) : tileOf (ledger s o a) i = tileOf s i := by simp [tileOf]
@[simp] theorem tileOf_fire (s : State) (k v : Nat) (i : Nat) : tileOf (fire s k v) i = tileOf s i := by simp [tileOf]
@[simp] theorem tileOf_writeErr (s : State) (e : ErrRec) (i : Nat) : tileOf (writeErr s e) i = tileOf s i := by simp [tileOf]
@[simp] theorem tileOf_queueErr (s : State) (e : ErrRec) (i : Nat) : tileOf (queueErr s e) i = tileOf s i := by simp [tileOf]
@[simp] theorem tileOf_drainErrs (s : State) (n : Nat) (i : Nat) : tileOf (drainErrs n s) i = tileOf s i := by simp [tileOf]
@[simp] theorem tileOf_journalDrain (s : State) (p n : Nat) (i : Nat) : tileOf (journalDrain s p n) i = tileOf s i := by simp [tileOf]
@[simp] theorem tileOf_journal (s : State) (j : JSrc) (k : Nat) (st : Status) (d : Nat) (i : Nat) : tileOf (journal s j k st d) i = tileOf s i := by simp [tileOf]
@[simp] theorem tileOf_pushErr (s : State) (c : RecCode) (a : ErrArgs) (i : Nat) : tileOf (pushErr s c a) i = tileOf s i := by simp [tileOf]

@[simp] theorem partOf_setTile (s : State) (t : Nat) (x : Tile) (i : Nat) : partOf (setTile s t x) i = partOf s i := by simp [partOf]
@[simp] theorem partOf_modTile (s : State) (t : Nat) (f : Tile → Tile) (i : Nat) : partOf (modTile s t f) i = partOf s i := by simp [partOf]
@[simp] theorem partOf_setSlot (s : State) (n : Nat) (x : Slot) (i : Nat) : partOf (setSlot s n x) i = partOf s i := by simp [partOf]
@[simp] theorem partOf_modSlot (s : State) (n : Nat) (f : Slot → Slot) (i : Nat) : partOf (modSlot s n f) i = partOf s i := by simp [partOf]
@[simp] theorem partOf_modDie (s : State) (d : Nat) (f : DiePwr → DiePwr) (i : Nat) : partOf (modDie s d f) i = partOf s i := by simp [partOf]
@[simp] theorem partOf_modFn (s : State) (k : Nat) (f : Fn → Fn) (i : Nat) : partOf (modFn s k f) i = partOf s i := by simp [partOf]
@[simp] theorem partOf_modRing (s : State) (p r : Nat) (f : Ring → Ring) (i : Nat) : partOf (modRing s p r f) i = partOf s i := by simp [partOf]
@[simp] theorem partOf_emit (s : State) (o : Out) (i : Nat) : partOf (emit s o) i = partOf s i := by simp [partOf]
@[simp] theorem partOf_setUnit (s : State) (r : UnitRec) (i : Nat) : partOf (setUnit s r) i = partOf s i := by simp [partOf]
@[simp] theorem partOf_unlose (s : State) (l q : Nat) (i : Nat) : partOf (unlose s l q) i = partOf s i := by simp [partOf]
@[simp] theorem partOf_pushLedger (s : State) (e : LedgerEntry) (i : Nat) : partOf (pushLedger s e) i = partOf s i := by simp [partOf]
@[simp] theorem partOf_ledger (s : State) (o : Origin) (a : LedgerArgs) (i : Nat) : partOf (ledger s o a) i = partOf s i := by simp [partOf]
@[simp] theorem partOf_fire (s : State) (k v : Nat) (i : Nat) : partOf (fire s k v) i = partOf s i := by simp [partOf]
@[simp] theorem partOf_writeErr (s : State) (e : ErrRec) (i : Nat) : partOf (writeErr s e) i = partOf s i := by simp [partOf]
@[simp] theorem partOf_queueErr (s : State) (e : ErrRec) (i : Nat) : partOf (queueErr s e) i = partOf s i := by simp [partOf]
@[simp] theorem partOf_drainErrs (s : State) (n : Nat) (i : Nat) : partOf (drainErrs n s) i = partOf s i := by simp [partOf]
@[simp] theorem partOf_journalDrain (s : State) (p n : Nat) (i : Nat) : partOf (journalDrain s p n) i = partOf s i := by simp [partOf]
@[simp] theorem partOf_journal (s : State) (j : JSrc) (k : Nat) (st : Status) (d : Nat) (i : Nat) : partOf (journal s j k st d) i = partOf s i := by simp [partOf]
@[simp] theorem partOf_pushErr (s : State) (c : RecCode) (a : ErrArgs) (i : Nat) : partOf (pushErr s c a) i = partOf s i := by simp [partOf]

@[simp] theorem slotOf_setTile (s : State) (t : Nat) (x : Tile) (i : Nat) : slotOf (setTile s t x) i = slotOf s i := by simp [slotOf]
@[simp] theorem slotOf_modTile (s : State) (t : Nat) (f : Tile → Tile) (i : Nat) : slotOf (modTile s t f) i = slotOf s i := by simp [slotOf]
@[simp] theorem slotOf_setPart (s : State) (p : Nat) (x : Part) (i : Nat) : slotOf (setPart s p x) i = slotOf s i := by simp [slotOf]
@[simp] theorem slotOf_modPart (s : State) (p : Nat) (f : Part → Part) (i : Nat) : slotOf (modPart s p f) i = slotOf s i := by simp [slotOf]
@[simp] theorem slotOf_modDie (s : State) (d : Nat) (f : DiePwr → DiePwr) (i : Nat) : slotOf (modDie s d f) i = slotOf s i := by simp [slotOf]
@[simp] theorem slotOf_modFn (s : State) (k : Nat) (f : Fn → Fn) (i : Nat) : slotOf (modFn s k f) i = slotOf s i := by simp [slotOf]
@[simp] theorem slotOf_modRing (s : State) (p r : Nat) (f : Ring → Ring) (i : Nat) : slotOf (modRing s p r f) i = slotOf s i := by simp [slotOf]
@[simp] theorem slotOf_emit (s : State) (o : Out) (i : Nat) : slotOf (emit s o) i = slotOf s i := by simp [slotOf]
@[simp] theorem slotOf_setUnit (s : State) (r : UnitRec) (i : Nat) : slotOf (setUnit s r) i = slotOf s i := by simp [slotOf]
@[simp] theorem slotOf_unlose (s : State) (l q : Nat) (i : Nat) : slotOf (unlose s l q) i = slotOf s i := by simp [slotOf]
@[simp] theorem slotOf_pushLedger (s : State) (e : LedgerEntry) (i : Nat) : slotOf (pushLedger s e) i = slotOf s i := by simp [slotOf]
@[simp] theorem slotOf_ledger (s : State) (o : Origin) (a : LedgerArgs) (i : Nat) : slotOf (ledger s o a) i = slotOf s i := by simp [slotOf]
@[simp] theorem slotOf_fire (s : State) (k v : Nat) (i : Nat) : slotOf (fire s k v) i = slotOf s i := by simp [slotOf]
@[simp] theorem slotOf_writeErr (s : State) (e : ErrRec) (i : Nat) : slotOf (writeErr s e) i = slotOf s i := by simp [slotOf]
@[simp] theorem slotOf_queueErr (s : State) (e : ErrRec) (i : Nat) : slotOf (queueErr s e) i = slotOf s i := by simp [slotOf]
@[simp] theorem slotOf_drainErrs (s : State) (n : Nat) (i : Nat) : slotOf (drainErrs n s) i = slotOf s i := by simp [slotOf]
@[simp] theorem slotOf_journalDrain (s : State) (p n : Nat) (i : Nat) : slotOf (journalDrain s p n) i = slotOf s i := by simp [slotOf]
@[simp] theorem slotOf_journal (s : State) (j : JSrc) (k : Nat) (st : Status) (d : Nat) (i : Nat) : slotOf (journal s j k st d) i = slotOf s i := by simp [slotOf]
@[simp] theorem slotOf_pushErr (s : State) (c : RecCode) (a : ErrArgs) (i : Nat) : slotOf (pushErr s c a) i = slotOf s i := by simp [slotOf]

@[simp] theorem dieOf_setTile (s : State) (t : Nat) (x : Tile) (i : Nat) : dieOf (setTile s t x) i = dieOf s i := by simp [dieOf]
@[simp] theorem dieOf_modTile (s : State) (t : Nat) (f : Tile → Tile) (i : Nat) : dieOf (modTile s t f) i = dieOf s i := by simp [dieOf]
@[simp] theorem dieOf_setPart (s : State) (p : Nat) (x : Part) (i : Nat) : dieOf (setPart s p x) i = dieOf s i := by simp [dieOf]
@[simp] theorem dieOf_modPart (s : State) (p : Nat) (f : Part → Part) (i : Nat) : dieOf (modPart s p f) i = dieOf s i := by simp [dieOf]
@[simp] theorem dieOf_setSlot (s : State) (n : Nat) (x : Slot) (i : Nat) : dieOf (setSlot s n x) i = dieOf s i := by simp [dieOf]
@[simp] theorem dieOf_modSlot (s : State) (n : Nat) (f : Slot → Slot) (i : Nat) : dieOf (modSlot s n f) i = dieOf s i := by simp [dieOf]
@[simp] theorem dieOf_modFn (s : State) (k : Nat) (f : Fn → Fn) (i : Nat) : dieOf (modFn s k f) i = dieOf s i := by simp [dieOf]
@[simp] theorem dieOf_modRing (s : State) (p r : Nat) (f : Ring → Ring) (i : Nat) : dieOf (modRing s p r f) i = dieOf s i := by simp [dieOf]
@[simp] theorem dieOf_emit (s : State) (o : Out) (i : Nat) : dieOf (emit s o) i = dieOf s i := by simp [dieOf]
@[simp] theorem dieOf_setUnit (s : State) (r : UnitRec) (i : Nat) : dieOf (setUnit s r) i = dieOf s i := by simp [dieOf]
@[simp] theorem dieOf_unlose (s : State) (l q : Nat) (i : Nat) : dieOf (unlose s l q) i = dieOf s i := by simp [dieOf]
@[simp] theorem dieOf_pushLedger (s : State) (e : LedgerEntry) (i : Nat) : dieOf (pushLedger s e) i = dieOf s i := by simp [dieOf]
@[simp] theorem dieOf_ledger (s : State) (o : Origin) (a : LedgerArgs) (i : Nat) : dieOf (ledger s o a) i = dieOf s i := by simp [dieOf]
@[simp] theorem dieOf_fire (s : State) (k v : Nat) (i : Nat) : dieOf (fire s k v) i = dieOf s i := by simp [dieOf]
@[simp] theorem dieOf_writeErr (s : State) (e : ErrRec) (i : Nat) : dieOf (writeErr s e) i = dieOf s i := by simp [dieOf]
@[simp] theorem dieOf_queueErr (s : State) (e : ErrRec) (i : Nat) : dieOf (queueErr s e) i = dieOf s i := by simp [dieOf]
@[simp] theorem dieOf_drainErrs (s : State) (n : Nat) (i : Nat) : dieOf (drainErrs n s) i = dieOf s i := by simp [dieOf]
@[simp] theorem dieOf_journalDrain (s : State) (p n : Nat) (i : Nat) : dieOf (journalDrain s p n) i = dieOf s i := by simp [dieOf]
@[simp] theorem dieOf_journal (s : State) (j : JSrc) (k : Nat) (st : Status) (d : Nat) (i : Nat) : dieOf (journal s j k st d) i = dieOf s i := by simp [dieOf]
@[simp] theorem dieOf_pushErr (s : State) (c : RecCode) (a : ErrArgs) (i : Nat) : dieOf (pushErr s c a) i = dieOf s i := by simp [dieOf]

@[simp] theorem fnOf_setTile (s : State) (t : Nat) (x : Tile) (i : Nat) : fnOf (setTile s t x) i = fnOf s i := by simp [fnOf]
@[simp] theorem fnOf_modTile (s : State) (t : Nat) (f : Tile → Tile) (i : Nat) : fnOf (modTile s t f) i = fnOf s i := by simp [fnOf]
@[simp] theorem fnOf_setPart (s : State) (p : Nat) (x : Part) (i : Nat) : fnOf (setPart s p x) i = fnOf s i := by simp [fnOf]
@[simp] theorem fnOf_modPart (s : State) (p : Nat) (f : Part → Part) (i : Nat) : fnOf (modPart s p f) i = fnOf s i := by simp [fnOf]
@[simp] theorem fnOf_setSlot (s : State) (n : Nat) (x : Slot) (i : Nat) : fnOf (setSlot s n x) i = fnOf s i := by simp [fnOf]
@[simp] theorem fnOf_modSlot (s : State) (n : Nat) (f : Slot → Slot) (i : Nat) : fnOf (modSlot s n f) i = fnOf s i := by simp [fnOf]
@[simp] theorem fnOf_modDie (s : State) (d : Nat) (f : DiePwr → DiePwr) (i : Nat) : fnOf (modDie s d f) i = fnOf s i := by simp [fnOf]
@[simp] theorem fnOf_emit (s : State) (o : Out) (i : Nat) : fnOf (emit s o) i = fnOf s i := by simp [fnOf]
@[simp] theorem fnOf_setUnit (s : State) (r : UnitRec) (i : Nat) : fnOf (setUnit s r) i = fnOf s i := by simp [fnOf]
@[simp] theorem fnOf_unlose (s : State) (l q : Nat) (i : Nat) : fnOf (unlose s l q) i = fnOf s i := by simp [fnOf]
@[simp] theorem fnOf_pushLedger (s : State) (e : LedgerEntry) (i : Nat) : fnOf (pushLedger s e) i = fnOf s i := by simp [fnOf]
@[simp] theorem fnOf_ledger (s : State) (o : Origin) (a : LedgerArgs) (i : Nat) : fnOf (ledger s o a) i = fnOf s i := by simp [fnOf]
@[simp] theorem fnOf_queueErr (s : State) (e : ErrRec) (i : Nat) : fnOf (queueErr s e) i = fnOf s i := by simp [fnOf]
@[simp] theorem fnOf_journalDrain (s : State) (p n : Nat) (i : Nat) : fnOf (journalDrain s p n) i = fnOf s i := by simp [fnOf]
@[simp] theorem fnOf_journal (s : State) (j : JSrc) (k : Nat) (st : Status) (d : Nat) (i : Nat) : fnOf (journal s j k st d) i = fnOf s i := by simp [fnOf]

@[simp] theorem ringOf_setTile (s : State) (t : Nat) (x : Tile) (i r2 : Nat) : ringOf (setTile s t x) i r2 = ringOf s i r2 := by simp [ringOf]
@[simp] theorem ringOf_modTile (s : State) (t : Nat) (f : Tile → Tile) (i r2 : Nat) : ringOf (modTile s t f) i r2 = ringOf s i r2 := by simp [ringOf]
@[simp] theorem ringOf_setPart (s : State) (p : Nat) (x : Part) (i r2 : Nat) : ringOf (setPart s p x) i r2 = ringOf s i r2 := by simp [ringOf]
@[simp] theorem ringOf_modPart (s : State) (p : Nat) (f : Part → Part) (i r2 : Nat) : ringOf (modPart s p f) i r2 = ringOf s i r2 := by simp [ringOf]
@[simp] theorem ringOf_setSlot (s : State) (n : Nat) (x : Slot) (i r2 : Nat) : ringOf (setSlot s n x) i r2 = ringOf s i r2 := by simp [ringOf]
@[simp] theorem ringOf_modSlot (s : State) (n : Nat) (f : Slot → Slot) (i r2 : Nat) : ringOf (modSlot s n f) i r2 = ringOf s i r2 := by simp [ringOf]
@[simp] theorem ringOf_modDie (s : State) (d : Nat) (f : DiePwr → DiePwr) (i r2 : Nat) : ringOf (modDie s d f) i r2 = ringOf s i r2 := by simp [ringOf]
@[simp] theorem ringOf_emit (s : State) (o : Out) (i r2 : Nat) : ringOf (emit s o) i r2 = ringOf s i r2 := by simp [ringOf]
@[simp] theorem ringOf_setUnit (s : State) (r : UnitRec) (i r2 : Nat) : ringOf (setUnit s r) i r2 = ringOf s i r2 := by simp [ringOf]
@[simp] theorem ringOf_unlose (s : State) (l q : Nat) (i r2 : Nat) : ringOf (unlose s l q) i r2 = ringOf s i r2 := by simp [ringOf]
@[simp] theorem ringOf_pushLedger (s : State) (e : LedgerEntry) (i r2 : Nat) : ringOf (pushLedger s e) i r2 = ringOf s i r2 := by simp [ringOf]
@[simp] theorem ringOf_ledger (s : State) (o : Origin) (a : LedgerArgs) (i r2 : Nat) : ringOf (ledger s o a) i r2 = ringOf s i r2 := by simp [ringOf]
@[simp] theorem ringOf_queueErr (s : State) (e : ErrRec) (i r2 : Nat) : ringOf (queueErr s e) i r2 = ringOf s i r2 := by simp [ringOf]
@[simp] theorem ringOf_journalDrain (s : State) (p n : Nat) (i r2 : Nat) : ringOf (journalDrain s p n) i r2 = ringOf s i r2 := by simp [ringOf]
@[simp] theorem ringOf_journal (s : State) (j : JSrc) (k : Nat) (st : Status) (d : Nat) (i r2 : Nat) : ringOf (journal s j k st d) i r2 = ringOf s i r2 := by simp [ringOf]

@[simp] theorem tileOf_setTile_same (s : State) (t : Nat) (x : Tile) : tileOf (setTile s t x) t = x := tabGet_set_same _ _ _ _
@[simp] theorem tileOf_modTile_same (s : State) (t : Nat) (f : Tile → Tile) : tileOf (modTile s t f) t = f (tileOf s t) :=
  tabGet_set_same _ _ _ _
@[simp] theorem partOf_setPart_same (s : State) (p : Nat) (x : Part) : partOf (setPart s p x) p = x := tabGet_set_same _ _ _ _
@[simp] theorem partOf_modPart_same (s : State) (p : Nat) (f : Part → Part) : partOf (modPart s p f) p = f (partOf s p) :=
  tabGet_set_same _ _ _ _
@[simp] theorem slotOf_setSlot_same (s : State) (n : Nat) (x : Slot) : slotOf (setSlot s n x) n = x := tabGet_set_same _ _ _ _
@[simp] theorem slotOf_modSlot_same (s : State) (n : Nat) (f : Slot → Slot) : slotOf (modSlot s n f) n = f (slotOf s n) :=
  tabGet_set_same _ _ _ _
@[simp] theorem dieOf_modDie_same (s : State) (d : Nat) (f : DiePwr → DiePwr) : dieOf (modDie s d f) d = f (dieOf s d) :=
  tabGet_set_same _ _ _ _
@[simp] theorem fnOf_modFn_same (s : State) (k : Nat) (f : Fn → Fn) : fnOf (modFn s k f) k = f (fnOf s k) :=
  tabGet_set_same _ _ _ _
@[simp] theorem ringOf_modRing_same (s : State) (p r : Nat) (f : Ring → Ring) : ringOf (modRing s p r f) p r = f (ringOf s p r) :=
  tabGet_set_same _ _ _ _

/-- Another tile reads as before. -/
theorem tileOf_setTile_other (s : State) (t i : Nat) (x : Tile) (h : i ≠ t) : tileOf (setTile s t x) i = tileOf s i :=
  tabGet_set_other _ _ _ _ _ h
/-- Another tile reads as before. -/
theorem tileOf_modTile_other (s : State) (t i : Nat) (f : Tile → Tile) (h : i ≠ t) : tileOf (modTile s t f) i = tileOf s i :=
  tabGet_set_other _ _ _ _ _ h
/-- Another partition reads as before. -/
theorem partOf_modPart_other (s : State) (p i : Nat) (f : Part → Part) (h : i ≠ p) : partOf (modPart s p f) i = partOf s i :=
  tabGet_set_other _ _ _ _ _ h
/-- Another partition reads as before. -/
theorem partOf_setPart_other (s : State) (p i : Nat) (x : Part) (h : i ≠ p) : partOf (setPart s p x) i = partOf s i :=
  tabGet_set_other _ _ _ _ _ h
/-- Another slot reads as before. -/
theorem slotOf_modSlot_other (s : State) (n i : Nat) (f : Slot → Slot) (h : i ≠ n) : slotOf (modSlot s n f) i = slotOf s i :=
  tabGet_set_other _ _ _ _ _ h
/-- Another slot reads as before. -/
theorem slotOf_setSlot_other (s : State) (n i : Nat) (x : Slot) (h : i ≠ n) : slotOf (setSlot s n x) i = slotOf s i :=
  tabGet_set_other _ _ _ _ _ h

end Sys2Proof.Machine
end

