-- ==== Sys2Proof/Laws/Writes.lean ====
section
/-! SUPPORT. One lemma per operation of the machine: the blocks it may write, so that every other block and the queue
stand as they were (the named operations of Machine/). Cite these, composed with `Keeps.via`, instead of unfolding. -/

namespace Sys2Proof.Machine
theorem setSlot_keeps (s a1 a2) : Keeps [.slots] s (setSlot s a1 a2) := by
  unfold setSlot
  try simp -proj only [mk_putSlots]
  repeat' first
    | with_reducible apply Keeps.rfl' | (with_reducible apply Keeps.slots; (· decide))

theorem modSlot_keeps (s a1 a2) : Keeps [.slots] s (modSlot s a1 a2) := by
  unfold modSlot
  try dsimp -proj only
  repeat' first
    | with_reducible apply Keeps.rfl' | (with_reducible apply Keeps.via (setSlot_keeps ..); (· decide))

theorem doom_keeps (s a1) : Keeps [.slots] s (doom s a1) := by
  unfold doom
  try dsimp -proj only
  repeat' first
    | with_reducible apply Keeps.rfl' | (with_reducible apply Keeps.via (modSlot_keeps ..); (· decide))

theorem doomFor_keeps (s a1 a2 a3) : Keeps [.slots] s (doomFor s a1 a2 a3) := by
  unfold doomFor
  try dsimp -proj only
  repeat' first
    | with_reducible apply Keeps.iteFst | with_reducible apply Keeps.foldlFst | intro t_ x_ | with_reducible apply Keeps.rfl'
    | (with_reducible apply Keeps.via (doom_keeps ..); (· decide))

theorem displace_keeps (s a1 a2) : Keeps [.slots] s (displace s a1 a2) := by
  induction a2 generalizing s a1 with
  | nil => exact Keeps.rfl'
  | cons x_ r_ ih =>
    unfold displace
    try dsimp -proj only
    repeat' first
      | with_reducible apply Keeps.foldl | intro t_ x_ | with_reducible apply Keeps.rfl'
      | (with_reducible apply Keeps.via (doomFor_keeps ..); (· decide))

theorem setPart_keeps (s a1 a2) : Keeps [.parts] s (setPart s a1 a2) := by
  unfold setPart
  try simp -proj only [mk_putParts]
  repeat' first
    | with_reducible apply Keeps.rfl' | (with_reducible apply Keeps.parts; (· decide))

theorem modPart_keeps (s a1 a2) : Keeps [.parts] s (modPart s a1 a2) := by
  unfold modPart
  try dsimp -proj only
  repeat' first
    | with_reducible apply Keeps.rfl' | (with_reducible apply Keeps.via (setPart_keeps ..); (· decide))

theorem emit_keeps (s a1) : Keeps [] s (emit s a1) := by
  unfold emit
  try simp -proj only [mk_putOut]
  repeat' first
    | with_reducible apply Keeps.rfl' | (with_reducible apply Keeps.out)

theorem modFn_keeps (s a1 a2) : Keeps [.hif] s (modFn s a1 a2) := by
  unfold modFn
  try simp -proj only [mk_putHif]
  repeat' first
    | with_reducible apply Keeps.rfl' | (with_reducible apply Keeps.hif; (· decide))

theorem fire_keeps (s a1 a2) : Keeps [.hif] s (fire s a1 a2) := by
  unfold fire
  try dsimp -proj only
  repeat' first
    | with_reducible apply Keeps.ite | with_reducible apply Keeps.rfl'
    | (with_reducible apply Keeps.via (emit_keeps ..); (· decide))
    | (with_reducible apply Keeps.via (modFn_keeps ..); (· decide))

theorem unlose_keeps (s a1 a2) : Keeps [.log] s (unlose s a1 a2) := by
  unfold unlose
  try simp -proj only [mk_putLog]
  repeat' first
    | with_reducible apply Keeps.rfl' | (with_reducible apply Keeps.log; (· decide))

theorem writeErr_keeps (s a1) : Keeps [.hif, .log, .ras] s (writeErr s a1) := by
  unfold writeErr
  try simp -proj only [mk_putLog, mk_putRas]
  repeat' first
    | with_reducible apply Keeps.ite | with_reducible apply Keeps.rfl'
    | (with_reducible apply Keeps.via (emit_keeps ..); (· decide))
    | (with_reducible apply Keeps.via (fire_keeps ..); (· decide))
    | (with_reducible apply Keeps.via (unlose_keeps ..); (· decide)) | (with_reducible apply Keeps.log; (· decide))
    | (with_reducible apply Keeps.ras; (· decide))

theorem drainErrs_keeps (a0 s) : Keeps [.hif, .log, .ras] s (drainErrs a0 s) := by
  unfold drainErrs
  try simp -proj only [mk_putLog]
  repeat' first
    | with_reducible apply Keeps.foldl | intro t_ x_ | with_reducible apply Keeps.rfl'
    | (with_reducible apply Keeps.via (writeErr_keeps ..); (· decide)) | (with_reducible apply Keeps.log; (· decide))

theorem queueErr_keeps (s a1) : Keeps [.log] s (queueErr s a1) := by
  unfold queueErr
  try simp -proj only [mk_putLog]
  repeat' first
    | with_reducible apply Keeps.rfl' | (with_reducible apply Keeps.log; (· decide))

theorem pushErr_keeps (s a1 a2) : Keeps [.hif, .log, .ras] s (pushErr s a1 a2) := by
  unfold pushErr
  try simp -proj only [mk_putLog]
  repeat' first
    | with_reducible apply Keeps.ite | with_reducible apply Keeps.rfl'
    | (with_reducible apply Keeps.via (drainErrs_keeps ..); (· decide))
    | (with_reducible apply Keeps.via (queueErr_keeps ..); (· decide)) | (with_reducible apply Keeps.log; (· decide))

theorem admRefuse_keeps (s a1 a2 a3) : Keeps [.parts, .hif, .log, .ras] s (admRefuse s a1 a2 a3) := by
  unfold admRefuse
  try dsimp -proj only
  repeat' first
    | with_reducible apply Keeps.rfl' | (with_reducible apply Keeps.via (modPart_keeps ..); (· decide))
    | (with_reducible apply Keeps.via (pushErr_keeps ..); (· decide))

theorem refreshAdm_keeps (s a1) : Keeps [.parts] s (refreshAdm s a1) := by
  unfold refreshAdm
  try dsimp -proj only
  repeat' first
    | with_reducible apply Keeps.rfl' | (with_reducible apply Keeps.via (modPart_keeps ..); (· decide))

theorem journalDrain_keeps (s a1 a2) : Keeps [.log] s (journalDrain s a1 a2) := by
  unfold journalDrain
  try simp -proj only [mk_putLog]
  repeat' first
    | with_reducible apply Keeps.foldl | intro t_ x_ | with_reducible apply Keeps.rfl'
    | (with_reducible apply Keeps.via (unlose_keeps ..); (· decide)) | (with_reducible apply Keeps.log; (· decide))

theorem journal_keeps (s a1 a2 a3 a4) : Keeps [.log] s (journal s a1 a2 a3 a4) := by
  unfold journal
  try simp -proj only [mk_putLog]
  repeat' first
    | with_reducible apply Keeps.rfl' | (with_reducible apply Keeps.via (journalDrain_keeps ..); (· decide))
    | (with_reducible apply Keeps.log; (· decide))

theorem flushErrs_keeps (s) : Keeps [.hif, .log, .ras] s (flushErrs s) := by
  unfold flushErrs
  try dsimp -proj only
  repeat' first
    | with_reducible apply Keeps.rfl' | (with_reducible apply Keeps.via (drainErrs_keeps ..); (· decide))

theorem modRing_keeps (s a1 a2 a3) : Keeps [.hif] s (modRing s a1 a2 a3) := by
  unfold modRing
  try simp -proj only [mk_putHif]
  repeat' first
    | with_reducible apply Keeps.rfl' | (with_reducible apply Keeps.hif; (· decide))

theorem ringPut_keeps (s a1 a2 a3 a4) : Keeps [.hif] s (ringPut s a1 a2 a3 a4) := by
  unfold ringPut
  try dsimp -proj only
  repeat' first
    | with_reducible apply Keeps.rfl' | (with_reducible apply Keeps.via (emit_keeps ..); (· decide))
    | (with_reducible apply Keeps.via (modRing_keeps ..); (· decide))

theorem cplPut_keeps (s a1 a2) : Keeps [.hif, .log, .ras] s (cplPut s a1 a2) := by
  unfold cplPut
  try dsimp -proj only
  repeat' first
    | with_reducible apply Keeps.rfl' | (with_reducible apply Keeps.via (flushErrs_keeps ..); (· decide))
    | (with_reducible apply Keeps.via (ringPut_keeps ..); (· decide))

theorem relayOut_keeps (s a1 a2 a3 a4) : Keeps [.hif, .log, .lnk, .ras] s (relayOut s a1 a2 a3 a4) := by
  unfold relayOut
  try simp -proj only [mk_putLnk]
  repeat' first
    | with_reducible apply Keeps.ite | with_reducible apply Keeps.rfl'
    | (with_reducible apply Keeps.via (emit_keeps ..); (· decide))
    | (with_reducible apply Keeps.via (flushErrs_keeps ..); (· decide)) | (with_reducible apply Keeps.lnk; (· decide))

theorem postSlotCpl_keeps (s a1 a2) : Keeps [.slots, .hif, .log, .lnk, .ras] s (postSlotCpl s a1 a2) := by
  unfold postSlotCpl
  try dsimp -proj only
  repeat' first
    | with_reducible apply Keeps.ite | with_reducible apply Keeps.rfl'
    | (with_reducible apply Keeps.via (setSlot_keeps ..); (· decide))
    | (with_reducible apply Keeps.via (modFn_keeps ..); (· decide))
    | (with_reducible apply Keeps.via (cplPut_keeps ..); (· decide))
    | (with_reducible apply Keeps.via (relayOut_keeps ..); (· decide)) | split

theorem postNotice_keeps (s a1 a2 a3 a4) : Keeps [.slots, .hif, .log, .lnk, .ras] s (postNotice s a1 a2 a3 a4) := by
  unfold postNotice
  try dsimp -proj only
  repeat' first
    | with_reducible apply Keeps.rfl' | (with_reducible apply Keeps.via (journal_keeps ..); (· decide))
    | (with_reducible apply Keeps.via (postSlotCpl_keeps ..); (· decide))

theorem verdictOne_keeps (d a n) : Keeps [.slots, .hif, .log, .lnk, .ras] a.1 (verdictOne d a n).1 := by
  unfold verdictOne
  dsimp only
  split
  · exact (postNotice_keeps ..).mono' (by decide)
  · exact (postNotice_keeps ..).via (by decide) ((setSlot_keeps ..).mono' (by decide))


theorem shedFor_keeps (s a1) : Keeps [.slots] s (shedFor s a1) := by
  unfold shedFor
  try dsimp -proj only
  repeat' first
    | with_reducible apply Keeps.foldl | intro t_ x_ | with_reducible apply Keeps.rfl'
    | (with_reducible apply Keeps.via (doomFor_keeps ..); (· decide))

theorem drawFree_keeps (s a1) : Keeps [] s (drawFree s a1).2 := by
  unfold drawFree
  try simp -proj only [mk_putFree]
  repeat' first
    | with_reducible apply Keeps.rfl' | (with_reducible apply Keeps.free)
theorem drawFree_keeps_eq {s a1 u v} (h : (drawFree s a1) = (v, u)) : Keeps [] s u := by
  have k := drawFree_keeps s a1
  rw [h] at k
  exact k

theorem setTile_keeps (s a1 a2) : Keeps [.tiles] s (setTile s a1 a2) := by
  unfold setTile
  try simp -proj only [mk_putTiles]
  repeat' first
    | with_reducible apply Keeps.rfl' | (with_reducible apply Keeps.tiles; (· decide))

theorem modTile_keeps (s a1 a2) : Keeps [.tiles] s (modTile s a1 a2) := by
  unfold modTile
  try dsimp -proj only
  repeat' first
    | with_reducible apply Keeps.rfl' | (with_reducible apply Keeps.via (setTile_keeps ..); (· decide))

theorem abandonStep_keeps (s a1 a2) : Keeps [.tiles, .parts] s (abandonStep s a1 a2) := by
  unfold abandonStep
  try dsimp -proj only
  repeat' first
    | with_reducible apply Keeps.foldl | intro t_ x_ | with_reducible apply Keeps.rfl'
    | (with_reducible apply Keeps.via (modPart_keeps ..); (· decide))
    | (with_reducible apply Keeps.via (modTile_keeps ..); (· decide)) | split

theorem abandonParts_keeps (s a1 a2) : Keeps [.tiles, .parts] s (abandonParts s a1 a2) := by
  unfold abandonParts
  try dsimp -proj only
  repeat' first
    | with_reducible apply Keeps.foldl | intro t_ x_ | with_reducible apply Keeps.rfl'
    | (with_reducible apply Keeps.via (abandonStep_keeps ..); (· decide))

theorem declareEvent_keeps (s a1 a2) : Keeps [.parts, .slots, .ras] s (declareEvent s a1 a2) := by
  unfold declareEvent
  try simp -proj only [mk_putSlots, mk_putRas]
  repeat' first
    | with_reducible apply Keeps.ite | with_reducible apply Keeps.foldl | intro t_ x_ | with_reducible apply Keeps.rfl'
    | (with_reducible apply Keeps.via (modPart_keeps ..); (· decide)) | (with_reducible apply Keeps.slots; (· decide))
    | (with_reducible apply Keeps.ras; (· decide))

theorem applyMoves_keeps (s a1 a2) : Keeps [.mem] s (applyMoves s a1 a2) := by
  unfold applyMoves
  try simp -proj only [mk_putMem]
  repeat' first
    | with_reducible apply Keeps.rfl' | (with_reducible apply Keeps.mem; (· decide))

theorem drainSurplus_keeps (s) : Keeps [.mem] s (drainSurplus s) := by
  unfold drainSurplus
  try simp -proj only [mk_putMem]
  repeat' first
    | with_reducible apply Keeps.ite | with_reducible apply Keeps.foldl | intro t_ x_ | with_reducible apply Keeps.rfl'
    | (with_reducible apply Keeps.mem; (· decide))

theorem dropComposed_keeps (s a1) : Keeps [.parts] s (dropComposed s a1) := by
  unfold dropComposed
  try dsimp -proj only
  repeat' first
    | with_reducible apply Keeps.foldl | intro t_ x_ | with_reducible apply Keeps.rfl'
    | (with_reducible apply Keeps.via (modPart_keeps ..); (· decide))

theorem doomLost_keeps (s a1) : Keeps [.slots] s (doomLost s a1) := by
  unfold doomLost
  try dsimp -proj only
  repeat' first
    | with_reducible apply Keeps.rfl' | (with_reducible apply Keeps.via (modSlot_keeps ..); (· decide))

theorem refreshSwap_keeps (s a1) : Keeps [.parts] s (refreshSwap s a1) := by
  unfold refreshSwap
  try dsimp -proj only
  repeat' first
    | with_reducible apply Keeps.rfl' | (with_reducible apply Keeps.via (modPart_keeps ..); (· decide))

theorem forgetSwap_keeps (s a1 a2) : Keeps [.parts, .slots] s (forgetSwap s a1 a2) := by
  unfold forgetSwap
  try dsimp -proj only
  repeat' first
    | with_reducible apply Keeps.rfl' | (with_reducible apply Keeps.via (modSlot_keeps ..); (· decide))
    | (with_reducible apply Keeps.via (modPart_keeps ..); (· decide))
    | (with_reducible apply Keeps.via (refreshSwap_keeps ..); (· decide))

theorem evictPages_keeps (s a1 a2 a3) : Keeps [.parts, .slots] s (evictPages s a1 a2 a3) := by
  unfold evictPages
  try dsimp -proj only
  repeat' first
    | with_reducible apply Keeps.ite | with_reducible apply Keeps.foldl | intro t_ x_ | with_reducible apply Keeps.rfl'
    | (with_reducible apply Keeps.via (doom_keeps ..); (· decide))
    | (with_reducible apply Keeps.via (modPart_keeps ..); (· decide))
    | (with_reducible apply Keeps.via (doomLost_keeps ..); (· decide))
    | (with_reducible apply Keeps.via (forgetSwap_keeps ..); (· decide))

theorem toDlq_keeps (s a1 a2) : Keeps [.parts, .hif, .log, .ras] s (toDlq s a1 a2) := by
  unfold toDlq
  try dsimp -proj only
  repeat' first
    | with_reducible apply Keeps.ite | with_reducible apply Keeps.rfl'
    | (with_reducible apply Keeps.via (setPart_keeps ..); (· decide))
    | (with_reducible apply Keeps.via (fire_keeps ..); (· decide))
    | (with_reducible apply Keeps.via (unlose_keeps ..); (· decide))
    | (with_reducible apply Keeps.via (pushErr_keeps ..); (· decide))

theorem dropHold_keeps (s a1 a2) : Keeps [.parts, .slots, .hif, .log, .ras] s (dropHold s a1 a2) := by
  unfold dropHold
  try dsimp -proj only
  repeat' first
    | with_reducible apply Keeps.foldl | intro t_ x_ | with_reducible apply Keeps.rfl'
    | (with_reducible apply Keeps.via (modSlot_keeps ..); (· decide))
    | (with_reducible apply Keeps.via (toDlq_keeps ..); (· decide))

theorem postCmdCpl_keeps (s a1 a2) : Keeps [.parts, .hif, .log, .ras] s (postCmdCpl s a1 a2) := by
  unfold postCmdCpl
  try dsimp -proj only
  repeat' first
    | with_reducible apply Keeps.ite | with_reducible apply Keeps.rfl'
    | (with_reducible apply Keeps.via (modPart_keeps ..); (· decide))
    | (with_reducible apply Keeps.via (cplPut_keeps ..); (· decide))

theorem postFor_keeps (s a1 a2) : Keeps [.parts, .hif, .log, .lnk, .ras] s (postFor s a1 a2) := by
  unfold postFor
  try dsimp -proj only
  repeat' first
    | with_reducible apply Keeps.rfl' | (with_reducible apply Keeps.via (relayOut_keeps ..); (· decide))
    | (with_reducible apply Keeps.via (postCmdCpl_keeps ..); (· decide)) | split

theorem finishLater_keeps (s a1 a2 a3 a4) : Keeps [.parts, .hif, .log, .lnk, .ras] s (finishLater s a1 a2 a3 a4) := by
  unfold finishLater
  try dsimp -proj only
  repeat' first
    | with_reducible apply Keeps.rfl' | (with_reducible apply Keeps.via (journal_keeps ..); (· decide))
    | (with_reducible apply Keeps.via (postFor_keeps ..); (· decide))

theorem endCancel_keeps (s a1) : Keeps [.parts, .slots, .hif, .log, .lnk, .ras] s (endCancel s a1) := by
  unfold endCancel
  try dsimp -proj only
  repeat' first
    | with_reducible apply Keeps.rfl' | (with_reducible apply Keeps.via (setSlot_keeps ..); (· decide))
    | (with_reducible apply Keeps.via (finishLater_keeps ..); (· decide)) | split

theorem endTree_keeps (s a1 a2 a3) : Keeps [.parts, .slots, .hif, .log, .lnk, .ras] s (endTree s a1 a2 a3) := by
  unfold endTree
  try dsimp -proj only
  repeat' first
    | with_reducible apply Keeps.ite | with_reducible apply Keeps.rfl'
    | (with_reducible apply Keeps.via (setSlot_keeps ..); (· decide))
    | (with_reducible apply Keeps.via (pushErr_keeps ..); (· decide))
    | (with_reducible apply Keeps.via (journal_keeps ..); (· decide))
    | (with_reducible apply Keeps.via (postFor_keeps ..); (· decide)) | split

theorem postFinal_keeps (s a1) : Keeps [.slots, .hif, .log, .lnk, .ras] s (postFinal s a1) := by
  unfold postFinal
  try dsimp -proj only
  repeat' first
    | with_reducible apply Keeps.ite | with_reducible apply Keeps.rfl'
    | (with_reducible apply Keeps.via (setSlot_keeps ..); (· decide))
    | (with_reducible apply Keeps.via (journal_keeps ..); (· decide))
    | (with_reducible apply Keeps.via (postSlotCpl_keeps ..); (· decide))

theorem releasePages_keeps (s a1) : Keeps [.parts, .slots] s (releasePages s a1) := by
  unfold releasePages
  try dsimp -proj only
  repeat' first
    | with_reducible apply Keeps.rfl' | (with_reducible apply Keeps.via (setSlot_keeps ..); (· decide))
    | (with_reducible apply Keeps.via (modPart_keeps ..); (· decide))

theorem closeSlot_keeps (s a1 a2 a3) : Keeps [.parts, .slots, .hif, .log, .lnk, .ras] s (closeSlot s a1 a2 a3) := by
  unfold closeSlot
  try dsimp -proj only
  repeat' first
    | with_reducible apply Keeps.ite | with_reducible apply Keeps.rfl'
    | (with_reducible apply Keeps.via (modSlot_keeps ..); (· decide))
    | (with_reducible apply Keeps.via (dropHold_keeps ..); (· decide))
    | (with_reducible apply Keeps.via (endCancel_keeps ..); (· decide))
    | (with_reducible apply Keeps.via (endTree_keeps ..); (· decide))
    | (with_reducible apply Keeps.via (postFinal_keeps ..); (· decide))
    | (with_reducible apply Keeps.via (releasePages_keeps ..); (· decide))

theorem closeSlots_keeps (s a1 a2) : Keeps [.parts, .slots, .hif, .log, .lnk, .ras] s (closeSlots s a1 a2) := by
  unfold closeSlots
  try dsimp -proj only
  repeat' first
    | with_reducible apply Keeps.foldl | intro t_ x_ | with_reducible apply Keeps.rfl'
    | (with_reducible apply Keeps.via (closeSlot_keeps ..); (· decide))

theorem poisonAdapter_keeps (s a1) : Keeps [.cmp, .parts, .slots, .hif, .log, .lnk, .ras] s (poisonAdapter s a1) := by
  unfold poisonAdapter
  try simp -proj only [mk_putCmp]
  repeat' first
    | with_reducible apply Keeps.rfl' | (with_reducible apply Keeps.via (closeSlots_keeps ..); (· decide))
    | (with_reducible apply Keeps.cmp; (· decide))

theorem poisonContents_keeps (s a1) : Keeps [.parts, .slots, .hif, .log, .lnk, .ras] s (poisonContents s a1) := by
  unfold poisonContents
  try simp -proj only [mk_putLog]
  repeat' first
    | with_reducible apply Keeps.ite | with_reducible apply Keeps.rfl'
    | (with_reducible apply Keeps.via (modPart_keeps ..); (· decide))
    | (with_reducible apply Keeps.via (closeSlot_keeps ..); (· decide)) | (with_reducible apply Keeps.log; (· decide)) | split

theorem preempt_keeps (s a1) : Keeps [.parts, .slots, .hif, .log, .lnk, .ras] s (preempt s a1) := by
  unfold preempt
  try dsimp -proj only
  repeat' first
    | with_reducible apply Keeps.rfl' | (with_reducible apply Keeps.via (setSlot_keeps ..); (· decide))
    | (with_reducible apply Keeps.via (setPart_keeps ..); (· decide))
    | (with_reducible apply Keeps.via (pushErr_keeps ..); (· decide))
    | (with_reducible apply Keeps.via (journal_keeps ..); (· decide))
    | (with_reducible apply Keeps.via (postSlotCpl_keeps ..); (· decide))

theorem preemptDoomed_keeps (s a1) : Keeps [.parts, .slots, .hif, .log, .lnk, .ras] s (preemptDoomed s a1) := by
  unfold preemptDoomed
  try dsimp -proj only
  repeat' first
    | with_reducible apply Keeps.foldl | intro t_ x_ | with_reducible apply Keeps.rfl'
    | (with_reducible apply Keeps.via (preempt_keeps ..); (· decide))

theorem preemptIdle_keeps (s a1) : Keeps [.parts, .slots, .hif, .log, .lnk, .ras] s (preemptIdle s a1) := by
  unfold preemptIdle
  try dsimp -proj only
  repeat' first
    | with_reducible apply Keeps.ite | with_reducible apply Keeps.rfl'
    | (with_reducible apply Keeps.via (preemptDoomed_keeps ..); (· decide))

theorem poisonPages_keeps (s a1 a2) : Keeps [.cmp, .parts, .slots, .hif, .log, .lnk, .ras] s (poisonPages s a1 a2) := by
  unfold poisonPages
  try dsimp -proj only
  repeat' first
    | with_reducible apply Keeps.ite | with_reducible apply Keeps.foldl | intro t_ x_ | with_reducible apply Keeps.rfl'
    | (with_reducible apply Keeps.via (modPart_keeps ..); (· decide))
    | (with_reducible apply Keeps.via (evictPages_keeps ..); (· decide))
    | (with_reducible apply Keeps.via (poisonAdapter_keeps ..); (· decide))
    | (with_reducible apply Keeps.via (poisonContents_keeps ..); (· decide))
    | (with_reducible apply Keeps.via (preemptIdle_keeps ..); (· decide))

theorem stopParts_keeps (s a1 a2) : Keeps [.parts] s (stopParts s a1 a2) := by
  unfold stopParts
  try dsimp -proj only
  repeat' first
    | with_reducible apply Keeps.foldl | intro t_ x_ | with_reducible apply Keeps.rfl'
    | (with_reducible apply Keeps.via (modPart_keeps ..); (· decide))

theorem afterPoison_keeps (s a1 a2) : Keeps [.cmp, .parts, .slots, .hif, .log, .lnk, .ras] s (afterPoison s a1 a2) := by
  unfold afterPoison
  try simp -proj only [mk_putRas]
  repeat' first
    | with_reducible apply Keeps.ite | with_reducible apply Keeps.foldl | intro t_ x_ | with_reducible apply Keeps.rfl'
    | (with_reducible apply Keeps.via (modPart_keeps ..); (· decide))
    | (with_reducible apply Keeps.via (declareEvent_keeps ..); (· decide))
    | (with_reducible apply Keeps.via (dropComposed_keeps ..); (· decide))
    | (with_reducible apply Keeps.via (poisonPages_keeps ..); (· decide))
    | (with_reducible apply Keeps.via (stopParts_keeps ..); (· decide)) | (with_reducible apply Keeps.ras; (· decide))

theorem dropCached_keeps (s a1) : Keeps [.tiles] s (dropCached s a1) := by
  unfold dropCached
  try simp -proj only [mk_putTiles]
  repeat' first
    | with_reducible apply Keeps.rfl' | (with_reducible apply Keeps.tiles; (· decide))

theorem setUnit_keeps (s a1) : Keeps [.ras] s (setUnit s a1) := by
  unfold setUnit
  try simp -proj only [mk_putRas]
  repeat' first
    | with_reducible apply Keeps.rfl' | (with_reducible apply Keeps.ras; (· decide))

theorem poisonLine_keeps (s a1 a2 a3) : Keeps [.tiles, .mem, .cmp, .parts, .slots, .hif, .log, .lnk, .ras] s (poisonLine s a1 a2 a3) := by
  unfold poisonLine
  try simp -proj only [mk_putMem]
  repeat' first
    | with_reducible apply Keeps.ite | with_reducible apply Keeps.rfl'
    | (with_reducible apply Keeps.via (pushErr_keeps ..); (· decide))
    | (with_reducible apply Keeps.via (afterPoison_keeps ..); (· decide))
    | (with_reducible apply Keeps.via (dropCached_keeps ..); (· decide))
    | (with_reducible apply Keeps.via (setUnit_keeps ..); (· decide)) | (with_reducible apply Keeps.mem; (· decide)) | split

theorem loseLines_keeps (s a1 a2 a3) : Keeps [.tiles, .mem, .cmp, .parts, .slots, .hif, .log, .lnk, .ras] s (loseLines s a1 a2 a3) := by
  unfold loseLines
  try simp -proj only [mk_putMem]
  repeat' first
    | with_reducible apply Keeps.foldl | intro t_ x_ | with_reducible apply Keeps.rfl'
    | (with_reducible apply Keeps.via (poisonLine_keeps ..); (· decide)) | (with_reducible apply Keeps.mem; (· decide))

theorem withdrawOne_keeps (s a1) : Keeps [.mem, .parts, .slots, .hif, .log, .lnk, .ras] s (withdrawOne s a1) := by
  unfold withdrawOne
  try simp -proj only [mk_putMem]
  repeat' first
    | with_reducible apply Keeps.rfl' | (with_reducible apply Keeps.via (evictPages_keeps ..); (· decide))
    | (with_reducible apply Keeps.via (preemptIdle_keeps ..); (· decide)) | (with_reducible apply Keeps.mem; (· decide))

theorem withdrawFree_keeps (a0 s a2) : Keeps [.mem, .parts, .slots, .hif, .log, .lnk, .ras] s (withdrawFree a0 s a2) := by
  induction a0 generalizing s a2 with
  | zero => exact Keeps.rfl'
  | succ n_ ih =>
    unfold withdrawFree
    try dsimp -proj only
    repeat' first
      | with_reducible apply Keeps.ite | (with_reducible apply Keeps.via (ih ..); (· decide)) | with_reducible apply Keeps.rfl'
      | (with_reducible apply Keeps.via (withdrawOne_keeps ..); (· decide)) | split

theorem endRepair_keeps (s a1) : Keeps [.parts, .ras] s (endRepair s a1) := by
  unfold endRepair
  try simp -proj only [mk_putRas]
  repeat' first
    | with_reducible apply Keeps.foldl | intro t_ x_ | with_reducible apply Keeps.rfl'
    | (with_reducible apply Keeps.via (modPart_keeps ..); (· decide)) | (with_reducible apply Keeps.ras; (· decide)) | split

theorem withdrawMirror_keeps (s a1) : Keeps [.mem, .parts, .ras] s (withdrawMirror s a1) := by
  unfold withdrawMirror
  try simp -proj only [mk_putMem]
  repeat' first
    | with_reducible apply Keeps.foldl | intro t_ x_ | with_reducible apply Keeps.rfl'
    | (with_reducible apply Keeps.via (endRepair_keeps ..); (· decide)) | (with_reducible apply Keeps.mem; (· decide))

theorem withdrawMirrors_keeps (a0 s a2) : Keeps [.mem, .parts, .ras] s (withdrawMirrors a0 s a2) := by
  induction a0 generalizing s a2 with
  | zero => exact Keeps.rfl'
  | succ n_ ih =>
    unfold withdrawMirrors
    try dsimp -proj only
    repeat' first
      | with_reducible apply Keeps.ite | (with_reducible apply Keeps.via (ih ..); (· decide)) | with_reducible apply Keeps.rfl'
      | (with_reducible apply Keeps.via (withdrawMirror_keeps ..); (· decide)) | split

theorem withdrawUsed_keeps (a0 s a2 a3) : Keeps [.mem, .parts, .slots, .hif, .log, .lnk, .ras] s (withdrawUsed a0 s a2 a3) := by
  induction a0 generalizing s a2 a3 with
  | zero => exact Keeps.rfl'
  | succ n_ ih =>
    unfold withdrawUsed
    try dsimp -proj only
    repeat' first
      | with_reducible apply Keeps.ite | (with_reducible apply Keeps.via (ih ..); (· decide)) | with_reducible apply Keeps.rfl'
      | (with_reducible apply Keeps.via (withdrawOne_keeps ..); (· decide)) | split

theorem withdrawFor_keeps (s a1) : Keeps [.mem, .parts, .slots, .hif, .log, .lnk, .ras] s (withdrawFor s a1) := by
  unfold withdrawFor
  try dsimp -proj only
  repeat' first
    | with_reducible apply Keeps.rfl' | (with_reducible apply Keeps.via (withdrawFree_keeps ..); (· decide))
    | (with_reducible apply Keeps.via (withdrawMirrors_keeps ..); (· decide))
    | (with_reducible apply Keeps.via (withdrawUsed_keeps ..); (· decide))

theorem withdrawAll_keeps (s a1) : Keeps [.mem, .parts, .slots, .hif, .log, .lnk, .ras] s (withdrawAll s a1) := by
  unfold withdrawAll
  try dsimp -proj only
  repeat' first
    | with_reducible apply Keeps.foldl | intro t_ x_ | with_reducible apply Keeps.rfl'
    | (with_reducible apply Keeps.via (withdrawFor_keeps ..); (· decide))

theorem fenceChannel_keeps (s a1) : Keeps [.tiles, .mem, .cmp, .parts, .slots, .hif, .log, .lnk, .ras] s (fenceChannel s a1) := by
  unfold fenceChannel
  try simp -proj only [mk_putMem]
  repeat' first
    | with_reducible apply Keeps.ite | with_reducible apply Keeps.rfl'
    | (with_reducible apply Keeps.via (applyMoves_keeps ..); (· decide))
    | (with_reducible apply Keeps.via (drainSurplus_keeps ..); (· decide))
    | (with_reducible apply Keeps.via (loseLines_keeps ..); (· decide))
    | (with_reducible apply Keeps.via (withdrawAll_keeps ..); (· decide)) | (with_reducible apply Keeps.mem; (· decide))

theorem dieProgs_keeps (s a1) : Keeps [.cmp] s (dieProgs s a1) := by
  unfold dieProgs
  try simp -proj only [mk_putCmp]
  repeat' first
    | with_reducible apply Keeps.rfl' | (with_reducible apply Keeps.cmp; (· decide))

theorem pushLedger_keeps (s a1) : Keeps [.log] s (pushLedger s a1) := by
  unfold pushLedger
  try simp -proj only [mk_putLog]
  repeat' first
    | with_reducible apply Keeps.rfl' | (with_reducible apply Keeps.via (unlose_keeps ..); (· decide))
    | (with_reducible apply Keeps.log; (· decide))

theorem ledger_keeps (s a1 a2) : Keeps [.log] s (ledger s a1 a2) := by
  unfold ledger
  try dsimp -proj only
  repeat' first
    | with_reducible apply Keeps.rfl' | (with_reducible apply Keeps.via (pushLedger_keeps ..); (· decide))

theorem unitTo_keeps (s a1 a2 a3 a4 a5) : Keeps [.hif, .log, .ras] s (unitTo s a1 a2 a3 a4 a5) := by
  unfold unitTo
  try dsimp -proj only
  repeat' first
    | with_reducible apply Keeps.rfl' | (with_reducible apply Keeps.via (pushErr_keeps ..); (· decide))
    | (with_reducible apply Keeps.via (setUnit_keeps ..); (· decide))
    | (with_reducible apply Keeps.via (ledger_keeps ..); (· decide))

theorem fenceDie_keeps (s a1) : Keeps [.tiles, .cmp, .parts, .slots, .hif, .log, .lnk, .ras] s (fenceDie s a1) := by
  unfold fenceDie
  try simp -proj only [mk_putRas]
  repeat' first
    | with_reducible apply Keeps.ite | with_reducible apply Keeps.foldl | intro t_ x_ | with_reducible apply Keeps.rfl'
    | (with_reducible apply Keeps.via (modTile_keeps ..); (· decide))
    | (with_reducible apply Keeps.via (abandonParts_keeps ..); (· decide))
    | (with_reducible apply Keeps.via (declareEvent_keeps ..); (· decide))
    | (with_reducible apply Keeps.via (closeSlots_keeps ..); (· decide))
    | (with_reducible apply Keeps.via (stopParts_keeps ..); (· decide))
    | (with_reducible apply Keeps.via (dieProgs_keeps ..); (· decide))
    | (with_reducible apply Keeps.via (unitTo_keeps ..); (· decide)) | (with_reducible apply Keeps.ras; (· decide))

theorem handSlot_keeps (s a1) : Keeps [.ras] s (handSlot s a1) := by
  unfold handSlot
  try simp -proj only [mk_putRas]
  repeat' first
    | with_reducible apply Keeps.rfl' | (with_reducible apply Keeps.ras; (· decide)) | split

theorem handCore_keeps (s a1) : Keeps [.ras] s (handCore s a1) := by
  unfold handCore
  try dsimp -proj only
  repeat' first
    | with_reducible apply Keeps.foldl | intro t_ x_ | with_reducible apply Keeps.rfl'
    | (with_reducible apply Keeps.via (handSlot_keeps ..); (· decide))

theorem fenceOne_keeps (s a1) : Keeps [.tiles, .mem, .cmp, .parts, .slots, .hif, .log, .lnk, .ras] s (fenceOne s a1) := by
  unfold fenceOne
  try simp -proj only [mk_putRas]
  repeat' first
    | with_reducible apply Keeps.ite | with_reducible apply Keeps.foldl | intro t_ x_ | with_reducible apply Keeps.rfl'
    | (with_reducible apply Keeps.via (modPart_keeps ..); (· decide))
    | (with_reducible apply Keeps.via (modTile_keeps ..); (· decide))
    | (with_reducible apply Keeps.via (abandonParts_keeps ..); (· decide))
    | (with_reducible apply Keeps.via (declareEvent_keeps ..); (· decide))
    | (with_reducible apply Keeps.via (stopParts_keeps ..); (· decide))
    | (with_reducible apply Keeps.via (fenceChannel_keeps ..); (· decide))
    | (with_reducible apply Keeps.via (unitTo_keeps ..); (· decide))
    | (with_reducible apply Keeps.via (fenceDie_keeps ..); (· decide))
    | (with_reducible apply Keeps.via (handCore_keeps ..); (· decide)) | (with_reducible apply Keeps.ras; (· decide)) | split

theorem suspectBy_keeps {l : List Block} {s t : State} {u : UnitId} {f : State → UnitId → State} (hk : ∀ b ∈ ([.hif, .log, .ras] : List Block), b ∈ l) (h : ∀ t x, Keeps l t (f t x))
    (g : Keeps l s t) : Keeps l s (suspectBy f t u) := by
  unfold suspectBy
  try dsimp -proj only
  repeat' first
    | with_reducible apply g | (with_reducible apply Keeps.trans' ?_ (h _ _)) | with_reducible apply Keeps.ite
    | (with_reducible apply Keeps.via (unitTo_keeps ..); (· intro b_ m_; exact hk b_ (by revert b_; decide)))


theorem fenceDeep_keeps (a0 s a2) : Keeps [.tiles, .mem, .cmp, .parts, .slots, .hif, .log, .lnk, .ras] s (fenceDeep a0 s a2) := by
  induction a0 generalizing s a2 with
  | zero => exact (fenceOne_keeps ..).mono' (by decide)
  | succ f_ ih =>
    unfold fenceDeep
    dsimp only
    refine Keeps.foldl (fun t_ x_ => ?_) ((fenceOne_keeps ..).mono' (by decide)) _
    exact suspectBy_keeps (by decide) (fun t u => ih t u) Keeps.rfl'


theorem fenceUnit_keeps (s a1) : Keeps [.tiles, .mem, .cmp, .parts, .slots, .hif, .log, .lnk, .ras] s (fenceUnit s a1) := by
  unfold fenceUnit
  try dsimp -proj only
  repeat' first
    | with_reducible apply Keeps.rfl' | (with_reducible apply Keeps.via (fenceDeep_keeps ..); (· decide))

theorem makeSuspect_keeps (s a1) : Keeps [.tiles, .mem, .cmp, .parts, .slots, .hif, .log, .lnk, .ras] s (makeSuspect s a1) := by
  unfold makeSuspect
  try dsimp -proj only
  repeat' first
    | intro t_ x_ | with_reducible apply Keeps.rfl' | (with_reducible apply suspectBy_keeps; (· decide))
    | (with_reducible apply Keeps.via (fenceUnit_keeps ..); (· decide))

theorem judgeUnit_keeps (s a1) : Keeps [.tiles, .mem, .cmp, .parts, .slots, .hif, .log, .lnk, .ras] s (judgeUnit s a1) := by
  unfold judgeUnit
  try dsimp -proj only
  repeat' first
    | with_reducible apply Keeps.ite | with_reducible apply Keeps.rfl'
    | (with_reducible apply Keeps.via (setUnit_keeps ..); (· decide))
    | (with_reducible apply Keeps.via (makeSuspect_keeps ..); (· decide))

theorem countFault_keeps {l : List Block} {s t : State} {u : UnitId} {f : State → State} (hk : ∀ b ∈ ([.tiles, .mem, .cmp, .parts, .slots, .hif, .log, .lnk, .ras] : List Block), b ∈ l) (h : ∀ t, Keeps l t (f t))
    (g : Keeps l s t) : Keeps l s (countFault t u f) := by
  unfold countFault
  try dsimp -proj only
  repeat' first
    | with_reducible apply g | (with_reducible apply Keeps.trans' ?_ (h _))
    | (with_reducible apply Keeps.via (setUnit_keeps ..); (· intro b_ m_; exact hk b_ (by revert b_; decide)))
    | (with_reducible apply Keeps.via (judgeUnit_keeps ..); (· intro b_ m_; exact hk b_ (by revert b_; decide)))


theorem rerunFault_keeps (s a1 a2) : Keeps [.tiles, .parts] s (rerunFault s a1 a2) := by
  unfold rerunFault
  try dsimp -proj only
  repeat' first
    | with_reducible apply Keeps.rfl' | (with_reducible apply Keeps.via (abandonStep_keeps ..); (· decide)) | split

theorem tileErr_keeps (s a1 a2 a3 a4 a5) : Keeps [.hif, .log, .ras] s (tileErr s a1 a2 a3 a4 a5) := by
  unfold tileErr
  try dsimp -proj only
  repeat' first
    | with_reducible apply Keeps.rfl' | (with_reducible apply Keeps.via (pushErr_keeps ..); (· decide))

theorem aeParity_keeps (s a1 a2 a3 a4) : Keeps [.tiles, .mem, .cmp, .parts, .slots, .hif, .log, .lnk, .ras] s (aeParity s a1 a2 a3 a4) := by
  unfold aeParity
  try dsimp -proj only
  repeat' first
    | with_reducible apply Keeps.ite | intro t_ | with_reducible apply Keeps.rfl'
    | (with_reducible apply countFault_keeps; (· decide)) | (with_reducible apply Keeps.via (rerunFault_keeps ..); (· decide))
    | (with_reducible apply Keeps.via (tileErr_keeps ..); (· decide)) | split

theorem blockRows_keeps (s a1 a2 a3) : Keeps [.tiles] s (blockRows s a1 a2 a3) := by
  unfold blockRows
  try dsimp -proj only
  repeat' first
    | with_reducible apply Keeps.foldl | intro t_ x_ | with_reducible apply Keeps.rfl'
    | (with_reducible apply Keeps.via (drawFree_keeps ..); (· decide))
    | (with_reducible apply Keeps.via (modTile_keeps ..); (· decide))

theorem modCounters_keeps (s a1 a2) : Keeps [.parts] s (modCounters s a1 a2) := by
  unfold modCounters
  try dsimp -proj only
  repeat' first
    | with_reducible apply Keeps.rfl' | (with_reducible apply Keeps.via (modPart_keeps ..); (· decide)) | split

theorem tileErrOnce_keeps (s a1 a2 a3 a4 a5) : Keeps [.tiles, .hif, .log, .ras] s (tileErrOnce s a1 a2 a3 a4 a5) := by
  unfold tileErrOnce
  try dsimp -proj only
  repeat' first
    | with_reducible apply Keeps.ite | with_reducible apply Keeps.rfl'
    | (with_reducible apply Keeps.via (setTile_keeps ..); (· decide))
    | (with_reducible apply Keeps.via (tileErr_keeps ..); (· decide))

theorem countNonfinite_keeps (s a1 a2 a3) : Keeps [.tiles, .parts, .hif, .log, .ras] s (countNonfinite s a1 a2 a3) := by
  unfold countNonfinite
  try dsimp -proj only
  repeat' first
    | with_reducible apply Keeps.ite | with_reducible apply Keeps.rfl'
    | (with_reducible apply Keeps.via (modCounters_keeps ..); (· decide))
    | (with_reducible apply Keeps.via (tileErrOnce_keeps ..); (· decide))

theorem shuffle_keeps {α : Type} (s) (l : List α) : Keeps [] s (shuffle s l).2 := drawFree_keeps s l.length


theorem pvFeed_keeps (s a1 a2) : Keeps [.tiles, .parts, .hif, .log, .ras] s (pvFeed s a1 a2) := by
  unfold pvFeed
  try dsimp -proj only
  repeat' first
    | with_reducible apply Keeps.rfl' | (with_reducible apply Keeps.via (setTile_keeps ..); (· decide))
    | (with_reducible apply Keeps.via (countNonfinite_keeps ..); (· decide))
    | (with_reducible apply Keeps.via (shuffle_keeps ..); (· decide)) | split

theorem countKey_keeps (s a1 a2 a3 a4) : Keeps [.tiles, .parts, .hif, .log, .ras] s (countKey s a1 a2 a3 a4) := by
  unfold countKey
  try dsimp -proj only
  repeat' first
    | with_reducible apply Keeps.rfl' | (with_reducible apply Keeps.via (modCounters_keeps ..); (· decide))
    | (with_reducible apply Keeps.via (tileErrOnce_keeps ..); (· decide)) | split

theorem modInfl_keeps (s a1 a2 a3) : Keeps [.tiles] s (modInfl s a1 a2 a3) := by
  unfold modInfl
  try dsimp -proj only
  repeat' first
    | with_reducible apply Keeps.rfl' | (with_reducible apply Keeps.via (modTile_keeps ..); (· decide))

theorem qkFeed_keeps (a0 s a2 a3) : Keeps [.tiles, .parts, .hif, .log, .ras] s (qkFeed a0 s a2 a3) := by
  induction a0 generalizing s a2 a3 with
  | zero => exact Keeps.rfl'
  | succ n_ ih =>
    unfold qkFeed
    try dsimp -proj only
    repeat' first
      | with_reducible apply Keeps.ite | (with_reducible apply Keeps.via (ih ..); (· decide)) | with_reducible apply Keeps.rfl'
      | (with_reducible apply Keeps.via (setTile_keeps ..); (· decide))
      | (with_reducible apply Keeps.via (countKey_keeps ..); (· decide))
      | (with_reducible apply Keeps.via (modInfl_keeps ..); (· decide)) | split

theorem applyCheck_keeps (s a1 a2) : Keeps [.tiles] s (applyCheck s a1 a2) := by
  unfold applyCheck
  try dsimp -proj only
  repeat' first
    | with_reducible apply Keeps.rfl' | (with_reducible apply Keeps.via (setTile_keeps ..); (· decide)) | split

theorem modBand_keeps (s a1 a2 a3 a4 a5 a6) : Keeps [.tiles] s (modBand s a1 a2 a3 a4 a5 a6) := by
  unfold modBand
  try dsimp -proj only
  repeat' first
    | with_reducible apply Keeps.rfl' | (with_reducible apply Keeps.via (modTile_keeps ..); (· decide))

theorem countVerdict_keeps (s a1 a2 a3 a4 a5) : Keeps [.parts] s (countVerdict s a1 a2 a3 a4 a5) := by
  unfold countVerdict
  try dsimp -proj only
  repeat' first
    | with_reducible apply Keeps.ite | with_reducible apply Keeps.rfl'
    | (with_reducible apply Keeps.via (modCounters_keeps ..); (· decide))

theorem bandMeta_keeps (s a1 a2 a3 a4) : Keeps [.tiles, .mem, .cmp, .parts, .slots, .hif, .log, .lnk, .ras] s (bandMeta s a1 a2 a3 a4) := by
  unfold bandMeta
  try simp -proj only [mk_putRas]
  repeat' first
    | with_reducible apply Keeps.ite | intro t_ | with_reducible apply Keeps.rfl'
    | (with_reducible apply countFault_keeps; (· decide)) | (with_reducible apply Keeps.via (tileErr_keeps ..); (· decide))
    | (with_reducible apply Keeps.ras; (· decide))

theorem denseLists_keeps (s a1 a2 a3 a4) : Keeps [.exps] s (denseLists s a1 a2 a3 a4) := by
  unfold denseLists
  try simp -proj only [mk_putExps]
  repeat' first
    | with_reducible apply Keeps.rfl' | (with_reducible apply Keeps.exps; (· decide))

theorem layerDense_keeps (s a1 a2 a3) : Keeps [.tiles, .exps, .parts] s (layerDense s a1 a2 a3) := by
  unfold layerDense
  try dsimp -proj only
  repeat' first
    | with_reducible apply Keeps.foldl | intro t_ x_ | with_reducible apply Keeps.rfl'
    | (with_reducible apply Keeps.via (modPart_keeps ..); (· decide))
    | (with_reducible apply Keeps.via (modTile_keeps ..); (· decide))
    | (with_reducible apply Keeps.via (denseLists_keeps ..); (· decide))

theorem expertFail_keeps (s a1) : Keeps [.tiles, .parts, .hif, .log, .ras] s (expertFail s a1) := by
  unfold expertFail
  try dsimp -proj only
  repeat' first
    | with_reducible apply Keeps.rfl' | (with_reducible apply Keeps.via (rerunFault_keeps ..); (· decide))
    | (with_reducible apply Keeps.via (tileErr_keeps ..); (· decide))

theorem checkRoute_keeps (s a1 a2 a3) : Keeps [.tiles, .parts, .hif, .log, .ras] s (checkRoute s a1 a2 a3) := by
  unfold checkRoute
  try dsimp -proj only
  repeat' first
    | with_reducible apply Keeps.ite | with_reducible apply Keeps.rfl'
    | (with_reducible apply Keeps.via (expertFail_keeps ..); (· decide))

theorem recsRegions_keeps (s a1) : Keeps [.mem, .ras] s (recsRegions s a1) := by
  refine ⟨⟨?_, ?_, ?_, ?_, ?_, ?_, ?_, ?_, ?_, ?_, ?_, ?_, ?_, ?_, ?_⟩, rfl⟩ <;> first | exact fun n_ => absurd (by decide) n_ | exact fun _ => rfl


theorem checkMode_keeps (s) : Keeps [.hif, .log, .ras] s (checkMode s) := by
  unfold checkMode
  try simp -proj only [mk_putHif, mk_putRas]
  repeat' first
    | with_reducible apply Keeps.ite | with_reducible apply Keeps.rfl'
    | (with_reducible apply Keeps.via (pushErr_keeps ..); (· decide)) | (with_reducible apply Keeps.hif; (· decide))
    | (with_reducible apply Keeps.ras; (· decide))

theorem pickMaster_keeps (s) : Keeps [.lnk] s (pickMaster s) := by
  unfold pickMaster
  try simp -proj only [mk_putLnk]
  repeat' first
    | with_reducible apply Keeps.rfl' | (with_reducible apply Keeps.lnk; (· decide))

theorem drawSecret_keeps (s) : Keeps [.sec] s (drawSecret s).1 := by
  unfold drawSecret
  try simp -proj only [mk_putSec]
  repeat' first
    | with_reducible apply Keeps.rfl' | (with_reducible apply Keeps.sec; (· decide))
theorem drawSecret_keeps_eq {s u v} (h : (drawSecret s) = (u, v)) : Keeps [.sec] s u := by
  have k := drawSecret_keeps s
  rw [h] at k
  exact k

theorem forParts_keeps {l : List Block} {s t : State} {f : State → Nat → State} (_hk : ∀ b ∈ ([] : List Block), b ∈ l) (h : ∀ t x, Keeps l t (f t x))
    (g : Keeps l s t) : Keeps l s (forParts t f) := by
  unfold forParts
  try dsimp -proj only
  repeat' first
    | with_reducible apply g | with_reducible apply h | with_reducible apply Keeps.foldl


theorem setDies_keeps (s a1 a2) : Keeps [.parts, .sec] s (setDies s a1 a2) := by
  unfold setDies
  try dsimp -proj only
  repeat' first
    | with_reducible apply Keeps.ite | intro t_ x_ | with_reducible apply Keeps.rfl'
    | (with_reducible apply Keeps.via (modPart_keeps ..); (· decide))
    | (with_reducible apply Keeps.via (drawSecret_keeps ..); (· decide)) | (with_reducible apply forParts_keeps; (· decide))

theorem applyPart_keeps (s a1 a2 a3 a4 a5 a6 a7 a8 a9 a10) : Keeps [.parts, .sec] s (applyPart s a1 a2 a3 a4 a5 a6 a7 a8 a9 a10) := by
  unfold applyPart
  try dsimp -proj only
  repeat' first
    | with_reducible apply Keeps.rfl' | (with_reducible apply Keeps.via (modPart_keeps ..); (· decide))
    | (with_reducible apply Keeps.via (setDies_keeps ..); (· decide))

theorem freshLens_keeps (s a1) : Keeps [.mem] s (freshLens s a1) := by
  unfold freshLens
  try simp -proj only [mk_putMem]
  repeat' first
    | with_reducible apply Keeps.rfl' | (with_reducible apply Keeps.mem; (· decide))

theorem modBind_keeps (s a1 a2) : Keeps [.hif] s (modBind s a1 a2) := by
  unfold modBind
  try simp -proj only [mk_putHif]
  repeat' first
    | with_reducible apply Keeps.rfl' | (with_reducible apply Keeps.hif; (· decide))

theorem modWindow_keeps (s a1 a2) : Keeps [.ras] s (modWindow s a1 a2) := by
  unfold modWindow
  try simp -proj only [mk_putRas]
  repeat' first
    | with_reducible apply Keeps.rfl' | (with_reducible apply Keeps.ras; (· decide))

theorem setRegion_keeps (s a1 a2) : Keeps [.mem] s (setRegion s a1 a2) := by
  unfold setRegion
  try simp -proj only [mk_putMem]
  repeat' first
    | with_reducible apply Keeps.rfl' | (with_reducible apply Keeps.mem; (· decide))

theorem fldSet_keeps (s a1 a2) : Keeps [.mem, .parts, .hif, .log, .ras, .boot, .sec, .side] s (fldSet s a1 a2) := by
  unfold fldSet
  try simp -proj only [mk_putHif, mk_putLog, mk_putRas, mk_putBoot, mk_putSec, mk_putSide]
  repeat' first
    | with_reducible apply Keeps.ite | with_reducible apply Keeps.rfl'
    | (with_reducible apply Keeps.via (modPart_keeps ..); (· decide))
    | (with_reducible apply Keeps.via (setDies_keeps ..); (· decide))
    | (with_reducible apply Keeps.via (freshLens_keeps ..); (· decide))
    | (with_reducible apply Keeps.via (modBind_keeps ..); (· decide))
    | (with_reducible apply Keeps.via (modWindow_keeps ..); (· decide))
    | (with_reducible apply Keeps.via (setRegion_keeps ..); (· decide)) | (with_reducible apply Keeps.hif; (· decide))
    | (with_reducible apply Keeps.log; (· decide)) | (with_reducible apply Keeps.ras; (· decide))
    | (with_reducible apply Keeps.boot; (· decide)) | (with_reducible apply Keeps.sec; (· decide))
    | (with_reducible apply Keeps.side; (· decide)) | split

theorem putRec_keeps (s a1) : Keeps [.pwr, .mem, .parts, .hif, .log, .lnk, .ras, .boot, .sec, .side] s (putRec s a1) := by
  unfold putRec
  try simp -proj only [mk_putPwr, mk_putHif, mk_putLnk]
  repeat' first
    | with_reducible apply Keeps.ite | with_reducible apply Keeps.rfl'
    | (with_reducible apply Keeps.via (modPart_keeps ..); (· decide))
    | (with_reducible apply Keeps.via (checkMode_keeps ..); (· decide))
    | (with_reducible apply Keeps.via (applyPart_keeps ..); (· decide))
    | (with_reducible apply Keeps.via (freshLens_keeps ..); (· decide))
    | (with_reducible apply Keeps.via (modBind_keeps ..); (· decide))
    | (with_reducible apply Keeps.via (setRegion_keeps ..); (· decide))
    | (with_reducible apply Keeps.via (fldSet_keeps ..); (· decide)) | (with_reducible apply Keeps.pwr; (· decide))
    | (with_reducible apply Keeps.hif; (· decide)) | (with_reducible apply Keeps.lnk; (· decide)) | split

theorem applyRec_keeps (s a1) : Keeps [.pwr, .mem, .parts, .hif, .log, .lnk, .ras, .boot, .sec, .side] s (applyRec s a1) := by
  unfold applyRec
  try dsimp -proj only
  repeat' first
    | with_reducible apply Keeps.rfl' | (with_reducible apply Keeps.via (ledger_keeps ..); (· decide))
    | (with_reducible apply Keeps.via (putRec_keeps ..); (· decide))

theorem modDie_keeps (s a1 a2) : Keeps [.pwr] s (modDie s a1 a2) := by
  unfold modDie
  try simp -proj only [mk_putPwr]
  repeat' first
    | with_reducible apply Keeps.rfl' | (with_reducible apply Keeps.pwr; (· decide))

theorem powerDown_keeps (s a1) : Keeps [.pwr] s (powerDown s a1) := by
  unfold powerDown
  try dsimp -proj only
  repeat' first
    | with_reducible apply Keeps.rfl' | (with_reducible apply Keeps.via (modDie_keeps ..); (· decide))

theorem putHifBoot_keeps (t : State) (h : Hif) (b : Boot) : Keeps [.hif, .boot] t { t with hif := h, boot := b } := by
  refine ⟨⟨?_, ?_, ?_, ?_, ?_, ?_, ?_, ?_, ?_, ?_, ?_, ?_, ?_, ?_, ?_⟩, rfl⟩ <;> first | exact fun n_ => absurd (by decide) n_ | exact fun _ => rfl

theorem toRecovery_keeps (s) : Keeps [.pwr, .hif, .boot] s (toRecovery s) :=
  (putHifBoot_keeps ..).via (by decide)
    (Keeps.foldl (fun t x => (powerDown_keeps t x).mono' (by decide)) Keeps.rfl' (List.range 16))


theorem writeSel_keeps (s a1) : Keeps [.boot] s (writeSel s a1) := by
  unfold writeSel
  try simp -proj only [mk_putBoot]
  repeat' first
    | with_reducible apply Keeps.rfl' | (with_reducible apply Keeps.boot; (· decide))

theorem slotTo_keeps (s a1 a2) : Keeps [.boot] s (slotTo s a1 a2) := by
  unfold slotTo
  try dsimp -proj only
  repeat' first
    | with_reducible apply Keeps.rfl' | (with_reducible apply Keeps.via (writeSel_keeps ..); (· decide))

theorem slotFails_keeps (s a1) : Keeps [.pwr, .hif, .log, .ras, .boot] s (slotFails s a1) := by
  unfold slotFails
  try simp -proj only [mk_putBoot]
  repeat' first
    | with_reducible apply Keeps.ite | with_reducible apply Keeps.rfl'
    | (with_reducible apply Keeps.via (pushErr_keeps ..); (· decide))
    | (with_reducible apply Keeps.via (toRecovery_keeps ..); (· decide))
    | (with_reducible apply Keeps.via (slotTo_keeps ..); (· decide)) | (with_reducible apply Keeps.boot; (· decide))

theorem bootFence_keeps (s a1) : Keeps [.mem, .hif, .log, .lnk, .ras] s (bootFence s a1) := by
  unfold bootFence
  try simp -proj only [mk_putLnk]
  repeat' first
    | with_reducible apply Keeps.ite | with_reducible apply Keeps.rfl'
    | (with_reducible apply Keeps.via (applyMoves_keeps ..); (· decide))
    | (with_reducible apply Keeps.via (unitTo_keeps ..); (· decide)) | (with_reducible apply Keeps.lnk; (· decide)) | split

theorem dropLost_keeps (s) : Keeps [.parts, .hif, .log, .ras] s (dropLost s) := by
  unfold dropLost
  try dsimp -proj only
  repeat' first
    | with_reducible apply Keeps.ite | intro t_ x_ | with_reducible apply Keeps.rfl'
    | (with_reducible apply Keeps.via (modPart_keeps ..); (· decide))
    | (with_reducible apply Keeps.via (pushErr_keeps ..); (· decide)) | (with_reducible apply forParts_keeps; (· decide))

theorem trainPorts_keeps (s) : Keeps [.lnk] s (trainPorts s) := by
  unfold trainPorts
  try simp -proj only [mk_putLnk]
  repeat' first
    | with_reducible apply Keeps.ite | with_reducible apply Keeps.foldl | intro t_ x_ | with_reducible apply Keeps.rfl'
    | (with_reducible apply Keeps.via (emit_keeps ..); (· decide)) | (with_reducible apply Keeps.lnk; (· decide))

theorem applyEnv_keeps (s a1) : Keeps [.pwr, .mem, .parts, .hif, .log, .lnk, .ras, .boot, .sec, .side] s (applyEnv s a1) := by
  unfold applyEnv
  try dsimp -proj only
  repeat' first
    | with_reducible apply Keeps.foldl | intro t_ x_ | with_reducible apply Keeps.rfl'
    | (with_reducible apply Keeps.via (applyRec_keeps ..); (· decide))

theorem powerUp_keeps (s a1) : Keeps [.pwr] s (powerUp s a1) := by
  unfold powerUp
  try dsimp -proj only
  repeat' first
    | with_reducible apply Keeps.rfl' | (with_reducible apply Keeps.via (modDie_keeps ..); (· decide))

theorem powerDies_keeps (s a1) : Keeps [.pwr, .hif, .log, .ras] s (powerDies s a1) := by
  unfold powerDies
  try dsimp -proj only
  repeat' first
    | with_reducible apply Keeps.ite | with_reducible apply Keeps.foldl | intro t_ x_ | with_reducible apply Keeps.rfl'
    | (with_reducible apply Keeps.via (pushErr_keeps ..); (· decide))
    | (with_reducible apply Keeps.via (unitTo_keeps ..); (· decide))
    | (with_reducible apply Keeps.via (powerUp_keeps ..); (· decide))

theorem applyList_keeps (s) : Keeps [.mem, .hif, .log, .lnk, .ras] s (applyList s) := by
  unfold applyList
  try dsimp -proj only
  repeat' first
    | with_reducible apply Keeps.foldl | intro t_ x_ | with_reducible apply Keeps.rfl'
    | (with_reducible apply Keeps.via (pushErr_keeps ..); (· decide))
    | (with_reducible apply Keeps.via (bootFence_keeps ..); (· decide)) | split

theorem imgOut_keeps (s a1 a2) : Keeps [.boot] s (imgOut s a1 a2) := by
  unfold imgOut
  try simp -proj only [mk_putBoot]
  repeat' first
    | with_reducible apply Keeps.rfl' | (with_reducible apply Keeps.boot; (· decide))

theorem refuseReg_keeps {l : List Block} {s t : State} {c : RecCode} {a : ErrArgs} {f : State → State} (hk : ∀ b ∈ ([.hif, .log, .ras] : List Block), b ∈ l) (h : ∀ t, Keeps l t (f t))
    (g : Keeps l s t) : Keeps l s (refuseReg t c a f) := by
  unfold refuseReg
  try dsimp -proj only
  repeat' first
    | with_reducible apply g | (with_reducible apply Keeps.trans' ?_ (h _))
    | (with_reducible apply Keeps.via (pushErr_keeps ..); (· intro b_ m_; exact hk b_ (by revert b_; decide)))
    | (with_reducible apply Keeps.via (flushErrs_keeps ..); (· intro b_ m_; exact hk b_ (by revert b_; decide)))


theorem imgFail_keeps (s a1 a2) : Keeps [.hif, .log, .ras, .boot] s (imgFail s a1 a2) := by
  unfold imgFail
  try dsimp -proj only
  repeat' first
    | intro t_ | with_reducible apply Keeps.rfl' | (with_reducible apply Keeps.via (imgOut_keeps ..); (· decide))
    | (with_reducible apply refuseReg_keeps; (· decide))

theorem dmaRecord_keeps (a0 a1 a2 s) : Keeps [.hif, .log, .ras] s (dmaRecord a0 a1 a2 s) := by
  unfold dmaRecord
  try dsimp -proj only
  repeat' first
    | with_reducible apply Keeps.rfl' | (with_reducible apply Keeps.via (pushErr_keeps ..); (· decide))

theorem setRingSt_keeps (s a1 a2 a3) : Keeps [.hif, .log] s (setRingSt s a1 a2 a3) := by
  unfold setRingSt
  try dsimp -proj only
  repeat' first
    | with_reducible apply Keeps.ite | with_reducible apply Keeps.rfl'
    | (with_reducible apply Keeps.via (modRing_keeps ..); (· decide))
    | (with_reducible apply Keeps.via (ledger_keeps ..); (· decide))

theorem ringTo_keeps (s a1 a2 a3) : Keeps [.hif, .log] s (ringTo s a1 a2 a3) := by
  unfold ringTo
  try dsimp -proj only
  repeat' first
    | with_reducible apply Keeps.rfl' | (with_reducible apply Keeps.via (fire_keeps ..); (· decide))
    | (with_reducible apply Keeps.via (setRingSt_keeps ..); (· decide))

theorem pauseFn_keeps (s a1) : Keeps [.hif, .log, .ras] s (pauseFn s a1) := by
  unfold pauseFn
  try dsimp -proj only
  repeat' first
    | with_reducible apply Keeps.ite | with_reducible apply Keeps.foldl | intro t_ x_ | with_reducible apply Keeps.rfl'
    | (with_reducible apply Keeps.via (modFn_keeps ..); (· decide))
    | (with_reducible apply Keeps.via (pushErr_keeps ..); (· decide))
    | (with_reducible apply Keeps.via (ringTo_keeps ..); (· decide))

theorem violate_keeps {l : List Block} {s t : State} {k : Nat} {f : State → State} (hk : ∀ b ∈ ([.hif, .log, .ras] : List Block), b ∈ l) (h : ∀ t, Keeps l t (f t))
    (g : Keeps l s t) : Keeps l s (violate t k f) := by
  unfold violate
  try dsimp -proj only
  repeat' first
    | with_reducible apply g | (with_reducible apply Keeps.trans' ?_ (h _)) | with_reducible apply Keeps.ite
    | (with_reducible apply Keeps.via (modFn_keeps ..); (· intro b_ m_; exact hk b_ (by revert b_; decide)))
    | (with_reducible apply Keeps.via (pauseFn_keeps ..); (· intro b_ m_; exact hk b_ (by revert b_; decide)))


theorem dmaFailed_keeps (s a1 a2 a3) : Keeps [.hif, .log, .ras] s (dmaFailed s a1 a2 a3) := by
  unfold dmaFailed
  try dsimp -proj only
  repeat' first
    | intro t_ | with_reducible apply Keeps.rfl' | (with_reducible apply Keeps.via (dmaRecord_keeps ..); (· decide))
    | (with_reducible apply violate_keeps; (· decide))

theorem putImg_keeps (s a1 a2) : Keeps [.boot] s (putImg s a1 a2) := by
  unfold putImg
  try simp -proj only [mk_putBoot]
  repeat' first
    | with_reducible apply Keeps.rfl' | (with_reducible apply Keeps.boot; (· decide))

theorem imgWrite_keeps (s a1 a2) : Keeps [.mem, .hif, .log, .ras, .boot] s (imgWrite s a1 a2) := by
  unfold imgWrite
  try simp -proj only [mk_putBoot]
  repeat' first
    | with_reducible apply Keeps.ite | with_reducible apply Keeps.rfl'
    | (with_reducible apply Keeps.via (emit_keeps ..); (· decide))
    | (with_reducible apply Keeps.via (flushErrs_keeps ..); (· decide))
    | (with_reducible apply Keeps.via (slotTo_keeps ..); (· decide))
    | (with_reducible apply Keeps.via (imgOut_keeps ..); (· decide))
    | (with_reducible apply Keeps.via (imgFail_keeps ..); (· decide))
    | (with_reducible apply Keeps.via (dmaFailed_keeps ..); (· decide))
    | (with_reducible apply Keeps.via (putImg_keeps ..); (· decide)) | (with_reducible apply Keeps.boot; (· decide)) | split

theorem actOut_keeps (s a1 a2) : Keeps [.boot] s (actOut s a1 a2) := by
  unfold actOut
  try simp -proj only [mk_putBoot]
  repeat' first
    | with_reducible apply Keeps.rfl' | (with_reducible apply Keeps.boot; (· decide))

theorem actNo_keeps (s a1) : Keeps [.hif, .log, .ras, .boot] s (actNo s a1) := by
  unfold actNo
  try simp -proj only [mk_putBoot]
  repeat' first
    | intro t_ | with_reducible apply Keeps.rfl' | (with_reducible apply refuseReg_keeps; (· decide))
    | (with_reducible apply Keeps.boot; (· decide))

theorem deriveAlias_keeps (s a1) : Keeps [.hif, .log, .ras, .sec] s (deriveAlias s a1) := by
  unfold deriveAlias
  try simp -proj only [mk_putSec]
  repeat' first
    | with_reducible apply Keeps.rfl' | (with_reducible apply Keeps.via (pushErr_keeps ..); (· decide))
    | (with_reducible apply Keeps.sec; (· decide))

theorem regLedger_keeps (s a1 a2 a3 a4) : Keeps [.log] s (regLedger s a1 a2 a3 a4) := by
  unfold regLedger
  try dsimp -proj only
  repeat' first
    | with_reducible apply Keeps.rfl' | (with_reducible apply Keeps.via (ledger_keeps ..); (· decide))

theorem fwAct_keeps (s a1) : Keeps [.mem, .hif, .log, .ras, .boot, .sec] s (fwAct s a1) := by
  unfold fwAct
  try simp -proj only [mk_putBoot]
  repeat' first
    | with_reducible apply Keeps.ite | intro t_ | with_reducible apply Keeps.rfl'
    | (with_reducible apply refuseReg_keeps; (· decide)) | (with_reducible apply Keeps.via (actOut_keeps ..); (· decide))
    | (with_reducible apply Keeps.via (actNo_keeps ..); (· decide))
    | (with_reducible apply Keeps.via (deriveAlias_keeps ..); (· decide))
    | (with_reducible apply Keeps.via (regLedger_keeps ..); (· decide)) | (with_reducible apply Keeps.boot; (· decide)) | split

theorem stageStep_keeps (s a1 a2 a3 a4 a5) : Keeps [.parts, .log] s (stageStep s a1 a2 a3 a4 a5) := by
  unfold stageStep
  try dsimp -proj only
  repeat' first
    | with_reducible apply Keeps.foldl | intro t_ x_ | with_reducible apply Keeps.rfl'
    | (with_reducible apply Keeps.via (modPart_keeps ..); (· decide))
    | (with_reducible apply Keeps.via (pushLedger_keeps ..); (· decide))

theorem actField_keeps (s a1 a2) : Keeps [.mem, .parts, .hif, .log, .ras, .boot, .sec, .side] s (actField s a1 a2) := by
  unfold actField
  try simp -proj only [mk_putBoot]
  repeat' first
    | with_reducible apply Keeps.ite | with_reducible apply Keeps.rfl'
    | (with_reducible apply Keeps.via (ledger_keeps ..); (· decide))
    | (with_reducible apply Keeps.via (fldSet_keeps ..); (· decide))
    | (with_reducible apply Keeps.via (stageStep_keeps ..); (· decide)) | (with_reducible apply Keeps.boot; (· decide))
    | dsimp only | split

theorem actKeep_keeps (s a1) : Keeps [.boot] s (actKeep s a1) := by
  unfold actKeep
  try simp -proj only [mk_putBoot]
  repeat' first
    | with_reducible apply Keeps.ite | with_reducible apply Keeps.rfl' | (with_reducible apply Keeps.boot; (· decide))

theorem actQuiesce_keeps {l : List Block} {s t : State} {p n o m : Nat} {ok : Bool} {f : State → State} (hk : ∀ b ∈ ([.log, .boot] : List Block), b ∈ l) (h : ∀ t, Keeps l t (f t))
    (g : Keeps l s t) : Keeps l s (actQuiesce t p n o m ok f) := by
  unfold actQuiesce
  try dsimp -proj only
  repeat' first
    | with_reducible apply g | (with_reducible apply Keeps.trans' ?_ (h _)) | with_reducible apply Keeps.ite
    | (with_reducible apply Keeps.via (ledger_keeps ..); (· intro b_ m_; exact hk b_ (by revert b_; decide)))
    | (with_reducible apply Keeps.via (actKeep_keeps ..); (· intro b_ m_; exact hk b_ (by revert b_; decide)))


theorem removeNode_keeps (s a1 a2) : Keeps [.parts] s (removeNode s a1 a2) := by
  unfold removeNode
  try dsimp -proj only
  repeat' first
    | with_reducible apply Keeps.rfl' | (with_reducible apply Keeps.via (modPart_keeps ..); (· decide))

theorem trimTree_keeps (a0 a1 a2 s) : Keeps [.parts] s (trimTree a0 a1 a2 s) := by
  induction a2 generalizing a0 a1 s with
  | zero => exact Keeps.rfl'
  | succ n_ ih =>
    unfold trimTree
    try dsimp -proj only
    repeat' first
      | with_reducible apply Keeps.ite | (with_reducible apply Keeps.via (ih ..); (· decide)) | with_reducible apply Keeps.rfl'
      | (with_reducible apply Keeps.via (removeNode_keeps ..); (· decide)) | split

theorem setNctx_keeps (s a1 a2) : Keeps [.parts] s (setNctx s a1 a2) := by
  unfold setNctx
  try dsimp -proj only
  repeat' first
    | with_reducible apply Keeps.rfl' | (with_reducible apply Keeps.via (modPart_keeps ..); (· decide))

theorem actRegion_keeps (s a1 a2) : Keeps [.mem, .log, .boot] s (actRegion s a1 a2) := by
  unfold actRegion
  try simp -proj only [mk_putBoot]
  repeat' first
    | with_reducible apply Keeps.ite | with_reducible apply Keeps.rfl'
    | (with_reducible apply Keeps.via (ledger_keeps ..); (· decide))
    | (with_reducible apply Keeps.via (freshLens_keeps ..); (· decide))
    | (with_reducible apply Keeps.via (setRegion_keeps ..); (· decide)) | (with_reducible apply Keeps.boot; (· decide))

theorem switchRoute_keeps (s a1 a2 a3 a4) : Keeps [.lnk] s (switchRoute s a1 a2 a3 a4) := by
  unfold switchRoute
  try simp -proj only [mk_putLnk]
  repeat' first
    | with_reducible apply Keeps.rfl' | (with_reducible apply Keeps.lnk; (· decide))

theorem actRec_keeps (s a1) : Keeps [.mem, .parts, .hif, .log, .lnk, .ras, .boot, .sec, .side] s (actRec s a1) := by
  unfold actRec
  try dsimp -proj only
  repeat' first
    | with_reducible apply Keeps.foldl | intro t_ x_ | intro t_ | with_reducible apply Keeps.rfl'
    | (with_reducible apply Keeps.via (modPart_keeps ..); (· decide))
    | (with_reducible apply Keeps.via (actField_keeps ..); (· decide))
    | (with_reducible apply Keeps.via (actKeep_keeps ..); (· decide)) | (with_reducible apply actQuiesce_keeps; (· decide))
    | (with_reducible apply Keeps.via (trimTree_keeps ..); (· decide))
    | (with_reducible apply Keeps.via (setNctx_keeps ..); (· decide))
    | (with_reducible apply Keeps.via (actRegion_keeps ..); (· decide))
    | (with_reducible apply Keeps.via (switchRoute_keeps ..); (· decide)) | split

theorem switchAll_keeps (s a1) : Keeps [.mem, .parts, .hif, .log, .lnk, .ras, .boot, .sec, .side] s (switchAll s a1) := by
  unfold switchAll
  try simp -proj only [mk_putBoot]
  repeat' first
    | with_reducible apply Keeps.foldl | intro t_ x_ | with_reducible apply Keeps.rfl'
    | (with_reducible apply Keeps.via (actRec_keeps ..); (· decide)) | (with_reducible apply Keeps.boot; (· decide))

theorem bumpMeas_keeps (s) : Keeps [.sec] s (bumpMeas s) := by
  unfold bumpMeas
  try simp -proj only [mk_putSec]
  repeat' first
    | with_reducible apply Keeps.rfl' | (with_reducible apply Keeps.sec; (· decide))

theorem fwRevert_keeps (s) : Keeps [.hif, .log, .ras, .boot, .sec] s (fwRevert s) := by
  unfold fwRevert
  try simp -proj only [mk_putBoot, mk_putSec]
  repeat' first
    | with_reducible apply Keeps.rfl' | (with_reducible apply Keeps.via (pushErr_keeps ..); (· decide))
    | (with_reducible apply Keeps.via (slotTo_keeps ..); (· decide))
    | (with_reducible apply Keeps.via (actOut_keeps ..); (· decide))
    | (with_reducible apply Keeps.via (bumpMeas_keeps ..); (· decide)) | (with_reducible apply Keeps.boot; (· decide))
    | (with_reducible apply Keeps.sec; (· decide)) | split

theorem fwFault_keeps (s) : Keeps [.hif, .log, .ras, .boot, .sec] s (fwFault s) := by
  unfold fwFault
  try dsimp -proj only
  repeat' first
    | with_reducible apply Keeps.ite | with_reducible apply Keeps.rfl'
    | (with_reducible apply Keeps.via (fwRevert_keeps ..); (· decide))

theorem keepIsland_keeps (s) : Keeps [.tiles, .mem, .exps, .cmp, .parts, .slots, .hif, .log, .lnk, .ras, .boot] s (keepIsland s) := by
  refine ⟨⟨?_, ?_, ?_, ?_, ?_, ?_, ?_, ?_, ?_, ?_, ?_, ?_, ?_, ?_, ?_⟩, rfl⟩ <;> first | exact fun n_ => absurd (by decide) n_ | exact fun _ => rfl


theorem putBootSecPwr_keeps (t : State) (b : Boot) (c : Sec) (p : Pwr) :
    Keeps [.pwr, .boot, .sec] t { t with boot := b, sec := c, pwr := p } := by
  refine ⟨⟨?_, ?_, ?_, ?_, ?_, ?_, ?_, ?_, ?_, ?_, ?_, ?_, ?_, ?_, ?_⟩, rfl⟩ <;> first | exact fun n_ => absurd (by decide) n_ | exact fun _ => rfl

theorem rebootNow_keeps (s a1) : Keeps [.pwr, .tiles, .mem, .exps, .cmp, .parts, .slots, .hif, .log, .lnk, .ras, .boot, .sec] s (rebootNow s a1) := by
  unfold rebootNow
  split
  · exact (putBootSecPwr_keeps ..).via (by decide) (Keeps.foldl
      (fun t x => (powerDown_keeps t x).mono' (by decide)) ((keepIsland_keeps _).via (by decide)
      ((regLedger_keeps ..).mono' (by decide))) _)
  · exact (regLedger_keeps ..).mono' (by decide)


theorem ringLedger_keeps (s a1 a2 a3 a4 a5 a6) : Keeps [.log] s (ringLedger s a1 a2 a3 a4 a5 a6) := by
  unfold ringLedger
  try dsimp -proj only
  repeat' first
    | with_reducible apply Keeps.rfl' | (with_reducible apply Keeps.via (ledger_keeps ..); (· decide))

theorem attachRing_keeps (s a1 a2 a3 a4 a5 a6 a7 a8) : Keeps [.hif, .log] s (attachRing s a1 a2 a3 a4 a5 a6 a7 a8) := by
  unfold attachRing
  try dsimp -proj only
  repeat' first
    | with_reducible apply Keeps.rfl' | (with_reducible apply Keeps.via (modRing_keeps ..); (· decide))
    | (with_reducible apply Keeps.via (ringLedger_keeps ..); (· decide))

theorem rewriteKept_keeps (s a1 a2) : Keeps [.hif] s (rewriteKept s a1 a2) := by
  unfold rewriteKept
  try dsimp -proj only
  repeat' first
    | with_reducible apply Keeps.foldl | intro t_ x_ | with_reducible apply Keeps.rfl'
    | (with_reducible apply Keeps.via (emit_keeps ..); (· decide))
    | (with_reducible apply Keeps.via (modRing_keeps ..); (· decide))

theorem setCommit_keeps (s a1 a2) : Keeps [.sec] s (setCommit s a1 a2) := by
  unfold setCommit
  try simp -proj only [mk_putSec]
  repeat' first
    | with_reducible apply Keeps.rfl' | (with_reducible apply Keeps.sec; (· decide))

theorem commitNo_keeps (s a1 a2 a3) : Keeps [.hif, .log, .ras, .sec] s (commitNo s a1 a2 a3) := by
  unfold commitNo
  try simp -proj only [mk_putSec]
  repeat' first
    | with_reducible apply Keeps.ite | intro t_ | with_reducible apply Keeps.rfl'
    | (with_reducible apply refuseReg_keeps; (· decide)) | (with_reducible apply Keeps.via (regLedger_keeps ..); (· decide))
    | (with_reducible apply Keeps.via (setCommit_keeps ..); (· decide)) | (with_reducible apply Keeps.sec; (· decide))

theorem commitGo_keeps (s a1) : Keeps [.hif, .log, .ras, .sec] s (commitGo s a1) := by
  unfold commitGo
  try simp -proj only [mk_putSec]
  repeat' first
    | with_reducible apply Keeps.ite | with_reducible apply Keeps.rfl'
    | (with_reducible apply Keeps.via (ledger_keeps ..); (· decide))
    | (with_reducible apply Keeps.via (regLedger_keeps ..); (· decide))
    | (with_reducible apply Keeps.via (setCommit_keeps ..); (· decide))
    | (with_reducible apply Keeps.via (commitNo_keeps ..); (· decide)) | (with_reducible apply Keeps.sec; (· decide)) | split

theorem modPort_keeps (s a1 a2) : Keeps [.lnk] s (modPort s a1 a2) := by
  unfold modPort
  try simp -proj only [mk_putLnk]
  repeat' first
    | with_reducible apply Keeps.rfl' | (with_reducible apply Keeps.lnk; (· decide))

theorem portSend_keeps (s a1 a2 a3 a4) : Keeps [.lnk] s (portSend s a1 a2 a3 a4) := by
  unfold portSend
  try dsimp -proj only
  repeat' first
    | with_reducible apply Keeps.rfl' | (with_reducible apply Keeps.via (modPort_keeps ..); (· decide))

theorem askWake_keeps (s a1) : Keeps [.lnk] s (askWake s a1) := by
  unfold askWake
  try dsimp -proj only
  repeat' first
    | with_reducible apply Keeps.ite | with_reducible apply Keeps.rfl'
    | (with_reducible apply Keeps.via (emit_keeps ..); (· decide))
    | (with_reducible apply Keeps.via (modPort_keeps ..); (· decide))
    | (with_reducible apply Keeps.via (portSend_keeps ..); (· decide)) | split

theorem freeRx_keeps (s a1 a2 a3 a4) : Keeps [.lnk] s (freeRx s a1 a2 a3 a4) := by
  unfold freeRx
  try dsimp -proj only
  repeat' first
    | with_reducible apply Keeps.ite | with_reducible apply Keeps.rfl'
    | (with_reducible apply Keeps.via (emit_keeps ..); (· decide))
    | (with_reducible apply Keeps.via (modPort_keeps ..); (· decide))

theorem passOn_keeps (s a1) : Keeps [.lnk] s (passOn s a1) := by
  unfold passOn
  try simp -proj only [mk_putLnk]
  repeat' first
    | with_reducible apply Keeps.ite | with_reducible apply Keeps.rfl'
    | (with_reducible apply Keeps.via (emit_keeps ..); (· decide))
    | (with_reducible apply Keeps.via (portSend_keeps ..); (· decide))
    | (with_reducible apply Keeps.via (askWake_keeps ..); (· decide))
    | (with_reducible apply Keeps.via (freeRx_keeps ..); (· decide)) | (with_reducible apply Keeps.lnk; (· decide)) | split

theorem sendPkt_keeps (s a1 a2) : Keeps [.lnk] s (sendPkt s a1 a2).1 := by
  unfold sendPkt
  try dsimp -proj only
  repeat' first
    | with_reducible apply Keeps.ite | with_reducible apply Keeps.iteFst | with_reducible apply Keeps.rfl'
    | (with_reducible apply Keeps.via (emit_keeps ..); (· decide))
    | (with_reducible apply Keeps.via (portSend_keeps ..); (· decide))
    | (with_reducible apply Keeps.via (askWake_keeps ..); (· decide)) | split
theorem sendPkt_keeps_eq {s a1 a2 u v} (h : (sendPkt s a1 a2) = (u, v)) : Keeps [.lnk] s u := by
  have k := sendPkt_keeps s a1 a2
  rw [h] at k
  exact k

theorem pumpFlow_keeps (s a1) : Keeps [.lnk] s (pumpFlow s a1).1 := by
  unfold pumpFlow
  try dsimp -proj only
  repeat' first
    | with_reducible apply Keeps.iteFst | with_reducible apply Keeps.foldlFst | intro t_ x_ | with_reducible apply Keeps.rfl'
    | (with_reducible apply Keeps.via (sendPkt_keeps ..); (· decide))
theorem pumpFlow_keeps_eq {s a1 u v} (h : (pumpFlow s a1) = (u, v)) : Keeps [.lnk] s u := by
  have k := pumpFlow_keeps s a1
  rw [h] at k
  exact k

theorem pumpFlows_keeps (s) : Keeps [.lnk] s (pumpFlows s) := by
  unfold pumpFlows
  try simp -proj only [mk_putLnk]
  repeat' first
    | with_reducible apply Keeps.foldl | with_reducible apply Keeps.foldlFst | intro t_ x_ | with_reducible apply Keeps.rfl'
    | (with_reducible apply Keeps.via (passOn_keeps ..); (· decide))
    | (with_reducible apply Keeps.via (pumpFlow_keeps ..); (· decide)) | (with_reducible apply Keeps.lnk; (· decide))

theorem dropTransit_keeps (s a1) : Keeps [.lnk] s (dropTransit s a1) := by
  unfold dropTransit
  try simp -proj only [mk_putLnk]
  repeat' first
    | with_reducible apply Keeps.foldl | intro t_ x_ | with_reducible apply Keeps.rfl'
    | (with_reducible apply Keeps.via (freeRx_keeps ..); (· decide)) | (with_reducible apply Keeps.lnk; (· decide))

theorem copyFails_keeps (s a1 a2 a3) : Keeps [.parts, .slots] s (copyFails s a1 a2 a3) := by
  unfold copyFails
  try dsimp -proj only
  repeat' first
    | with_reducible apply Keeps.foldl | intro t_ x_ | with_reducible apply Keeps.rfl'
    | (with_reducible apply Keeps.via (modSlot_keeps ..); (· decide))
    | (with_reducible apply Keeps.via (modPart_keeps ..); (· decide)) | split

theorem dropInfl_keeps (s a1 a2) : Keeps [.tiles] s (dropInfl s a1 a2) := by
  unfold dropInfl
  try dsimp -proj only
  repeat' first
    | with_reducible apply Keeps.rfl' | (with_reducible apply Keeps.via (modTile_keeps ..); (· decide))

theorem newFlow_keeps (s a1 a2 a3 a4 a5) : Keeps [.lnk] s (newFlow s a1 a2 a3 a4 a5) := by
  unfold newFlow
  try simp -proj only [mk_putLnk]
  repeat' first
    | with_reducible apply Keeps.rfl' | (with_reducible apply Keeps.via (pumpFlows_keeps ..); (· decide))
    | (with_reducible apply Keeps.lnk; (· decide))

theorem handoffTo_keeps (s a1 a2) : Keeps [.slots, .lnk] s (handoffTo s a1 a2) := by
  unfold handoffTo
  try dsimp -proj only
  repeat' first
    | with_reducible apply Keeps.rfl' | (with_reducible apply Keeps.via (modSlot_keeps ..); (· decide))
    | (with_reducible apply Keeps.via (newFlow_keeps ..); (· decide))

theorem handoffWait_keeps (s a1) : Keeps [.slots] s (handoffWait s a1) := by
  unfold handoffWait
  try dsimp -proj only
  repeat' first
    | with_reducible apply Keeps.rfl' | (with_reducible apply Keeps.via (modSlot_keeps ..); (· decide))

theorem handoffTry_keeps (s a1) : Keeps [.slots, .lnk] s (handoffTry s a1) := by
  unfold handoffTry
  try simp -proj only [mk_putFree]
  repeat' first
    | with_reducible apply Keeps.ite | with_reducible apply Keeps.rfl'
    | (with_reducible apply Keeps.via (handoffTo_keeps ..); (· decide))
    | (with_reducible apply Keeps.via (handoffWait_keeps ..); (· decide)) | (with_reducible apply Keeps.free) | split

theorem serveEnd_keeps (s a1 a2) : Keeps [.parts] s (serveEnd s a1 a2) := by
  unfold serveEnd
  try dsimp -proj only
  repeat' first
    | with_reducible apply Keeps.rfl' | (with_reducible apply Keeps.via (modPart_keeps ..); (· decide)) | split

theorem spillFails_keeps (s a1 a2) : Keeps [.parts] s (spillFails s a1 a2) := by
  unfold spillFails
  try dsimp -proj only
  repeat' first
    | with_reducible apply Keeps.rfl' | (with_reducible apply Keeps.via (removeNode_keeps ..); (· decide)) | split

theorem opFailed_keeps (s a1) : Keeps [.tiles, .parts, .slots, .lnk] s (opFailed s a1) := by
  unfold opFailed
  try dsimp -proj only
  repeat' first
    | with_reducible apply Keeps.ite | with_reducible apply Keeps.rfl'
    | (with_reducible apply Keeps.via (abandonStep_keeps ..); (· decide))
    | (with_reducible apply Keeps.via (copyFails_keeps ..); (· decide))
    | (with_reducible apply Keeps.via (dropInfl_keeps ..); (· decide))
    | (with_reducible apply Keeps.via (handoffTry_keeps ..); (· decide))
    | (with_reducible apply Keeps.via (serveEnd_keeps ..); (· decide))
    | (with_reducible apply Keeps.via (spillFails_keeps ..); (· decide)) | split

theorem flowFail_keeps (s a1) : Keeps [.tiles, .parts, .slots, .hif, .log, .lnk, .ras] s (flowFail s a1) := by
  unfold flowFail
  try simp -proj only [mk_putLnk]
  repeat' first
    | with_reducible apply Keeps.rfl' | (with_reducible apply Keeps.via (pushErr_keeps ..); (· decide))
    | (with_reducible apply Keeps.via (opFailed_keeps ..); (· decide)) | (with_reducible apply Keeps.lnk; (· decide)) | split

theorem lostModule_keeps (s a1) : Keeps [.tiles, .parts, .slots, .hif, .log, .lnk, .ras] s (lostModule s a1) := by
  unfold lostModule
  try dsimp -proj only
  repeat' first
    | with_reducible apply Keeps.foldl | intro t_ x_ | with_reducible apply Keeps.rfl'
    | (with_reducible apply Keeps.via (dropTransit_keeps ..); (· decide))
    | (with_reducible apply Keeps.via (flowFail_keeps ..); (· decide))

theorem sendVc0_keeps (s a1 a2 a3) : Keeps [.lnk] s (sendVc0 s a1 a2 a3) := by
  unfold sendVc0
  try dsimp -proj only
  repeat' first
    | with_reducible apply Keeps.rfl' | (with_reducible apply Keeps.via (emit_keeps ..); (· decide))
    | (with_reducible apply Keeps.via (portSend_keeps ..); (· decide)) | split

theorem rerouted_keeps (s a1) : Keeps [.tiles, .parts, .slots, .hif, .log, .lnk, .ras] s (rerouted s a1) := by
  unfold rerouted
  try dsimp -proj only
  repeat' first
    | with_reducible apply Keeps.ite | with_reducible apply Keeps.foldl | intro t_ x_ | with_reducible apply Keeps.rfl'
    | (with_reducible apply Keeps.via (pushErr_keeps ..); (· decide))
    | (with_reducible apply Keeps.via (declareEvent_keeps ..); (· decide))
    | (with_reducible apply Keeps.via (lostModule_keeps ..); (· decide))
    | (with_reducible apply Keeps.via (sendVc0_keeps ..); (· decide))

theorem refreshRoute_keeps (s a1) : Keeps [.tiles, .parts, .slots, .hif, .log, .lnk, .ras] s (refreshRoute s a1) := by
  unfold refreshRoute
  try simp -proj only [mk_putLnk]
  repeat' first
    | with_reducible apply Keeps.ite | with_reducible apply Keeps.rfl'
    | (with_reducible apply Keeps.via (rerouted_keeps ..); (· decide)) | (with_reducible apply Keeps.lnk; (· decide))

theorem refreshRoutes_keeps (s) : Keeps [.tiles, .parts, .slots, .hif, .log, .lnk, .ras] s (refreshRoutes s) := by
  unfold refreshRoutes
  try dsimp -proj only
  repeat' first
    | with_reducible apply Keeps.foldl | intro t_ x_ | with_reducible apply Keeps.rfl'
    | (with_reducible apply Keeps.via (pumpFlows_keeps ..); (· decide))
    | (with_reducible apply Keeps.via (refreshRoute_keeps ..); (· decide))

theorem portOut_keeps (s a1 a2) : Keeps [.tiles, .parts, .slots, .hif, .log, .lnk, .ras] s (portOut s a1 a2) := by
  unfold portOut
  try simp -proj only [mk_putLnk]
  repeat' first
    | with_reducible apply Keeps.rfl' | (with_reducible apply Keeps.via (modPort_keeps ..); (· decide))
    | (with_reducible apply Keeps.via (refreshRoutes_keeps ..); (· decide)) | (with_reducible apply Keeps.lnk; (· decide))

theorem trainPort_keeps (s a1) : Keeps [.lnk] s (trainPort s a1) := by
  unfold trainPort
  try dsimp -proj only
  repeat' first
    | with_reducible apply Keeps.rfl' | (with_reducible apply Keeps.via (emit_keeps ..); (· decide))
    | (with_reducible apply Keeps.via (modPort_keeps ..); (· decide))

theorem retrainPort_keeps (s a1 a2) : Keeps [.tiles, .parts, .slots, .hif, .log, .lnk, .ras] s (retrainPort s a1 a2) := by
  unfold retrainPort
  try dsimp -proj only
  repeat' first
    | with_reducible apply Keeps.ite | with_reducible apply Keeps.rfl'
    | (with_reducible apply Keeps.via (ledger_keeps ..); (· decide))
    | (with_reducible apply Keeps.via (portOut_keeps ..); (· decide))
    | (with_reducible apply Keeps.via (trainPort_keeps ..); (· decide)) | split

theorem setRevoke_keeps (s a1 a2) : Keeps [.sec] s (setRevoke s a1 a2) := by
  unfold setRevoke
  try simp -proj only [mk_putSec]
  repeat' first
    | with_reducible apply Keeps.rfl' | (with_reducible apply Keeps.sec; (· decide))

theorem revokeNo_keeps (s a1 a2 a3 a4) : Keeps [.hif, .log, .ras, .sec] s (revokeNo s a1 a2 a3 a4) := by
  unfold revokeNo
  try simp -proj only [mk_putSec]
  repeat' first
    | with_reducible apply Keeps.ite | intro t_ | with_reducible apply Keeps.rfl'
    | (with_reducible apply refuseReg_keeps; (· decide)) | (with_reducible apply Keeps.via (regLedger_keeps ..); (· decide))
    | (with_reducible apply Keeps.via (setRevoke_keeps ..); (· decide)) | (with_reducible apply Keeps.sec; (· decide))

theorem revokeGo_keeps (s a1 a2) : Keeps [.hif, .log, .ras, .sec] s (revokeGo s a1 a2) := by
  unfold revokeGo
  try simp -proj only [mk_putSec]
  repeat' first
    | with_reducible apply Keeps.ite | with_reducible apply Keeps.rfl'
    | (with_reducible apply Keeps.via (ledger_keeps ..); (· decide))
    | (with_reducible apply Keeps.via (regLedger_keeps ..); (· decide))
    | (with_reducible apply Keeps.via (setRevoke_keeps ..); (· decide))
    | (with_reducible apply Keeps.via (revokeNo_keeps ..); (· decide)) | (with_reducible apply Keeps.sec; (· decide)) | split

theorem sleepLedger_keeps (s a1 a2 a3 a4) : Keeps [.pwr, .log] s (sleepLedger s a1 a2 a3 a4) := by
  unfold sleepLedger
  try simp -proj only [mk_putPwr]
  repeat' first
    | with_reducible apply Keeps.rfl' | (with_reducible apply Keeps.via (ledger_keeps ..); (· decide))
    | (with_reducible apply Keeps.pwr; (· decide))

theorem sleepAsk_keeps (s a1) : Keeps [.pwr, .log] s (sleepAsk s a1) := by
  unfold sleepAsk
  try simp -proj only [mk_putPwr]
  repeat' first
    | with_reducible apply Keeps.ite | with_reducible apply Keeps.rfl'
    | (with_reducible apply Keeps.via (sleepLedger_keeps ..); (· decide)) | (with_reducible apply Keeps.pwr; (· decide)) | split

theorem homeCores_keeps (s) : Keeps [.ras] s (homeCores s) := by
  unfold homeCores
  try simp -proj only [mk_putRas]
  repeat' first
    | with_reducible apply Keeps.ite | with_reducible apply Keeps.rfl' | (with_reducible apply Keeps.ras; (· decide))

theorem rebalOne_keeps (a0 a1 s a3) : Keeps [.cmp, .parts, .slots, .hif, .log, .lnk, .ras] s (rebalOne a0 a1 s a3) := by
  unfold rebalOne
  try simp -proj only [mk_putCmp]
  repeat' first
    | with_reducible apply Keeps.rfl' | (with_reducible apply Keeps.via (pushErr_keeps ..); (· decide))
    | (with_reducible apply Keeps.via (closeSlots_keeps ..); (· decide)) | (with_reducible apply Keeps.cmp; (· decide)) | split

theorem rebalDie_keeps (s a1) : Keeps [.cmp, .parts, .slots, .hif, .log, .lnk, .ras] s (rebalDie s a1) := by
  unfold rebalDie
  try dsimp -proj only
  repeat' first
    | with_reducible apply Keeps.foldl | intro t_ x_ | with_reducible apply Keeps.rfl'
    | (with_reducible apply Keeps.via (rebalOne_keeps ..); (· decide)) | split

theorem unfence_keeps (s a1 a2) : Keeps [.tiles, .cmp, .parts, .slots, .hif, .log, .lnk, .ras] s (unfence s a1 a2) := by
  unfold unfence
  try simp -proj only [mk_putRas]
  repeat' first
    | with_reducible apply Keeps.ite | with_reducible apply Keeps.foldl | intro t_ x_ | with_reducible apply Keeps.rfl'
    | (with_reducible apply Keeps.via (modTile_keeps ..); (· decide))
    | (with_reducible apply Keeps.via (ledger_keeps ..); (· decide))
    | (with_reducible apply Keeps.via (unitTo_keeps ..); (· decide))
    | (with_reducible apply Keeps.via (homeCores_keeps ..); (· decide))
    | (with_reducible apply Keeps.via (rebalDie_keeps ..); (· decide)) | (with_reducible apply Keeps.ras; (· decide))

theorem wakeUp_keeps (s a1) : Keeps [.pwr, .hif, .log, .ras] s (wakeUp s a1) := by
  unfold wakeUp
  try simp -proj only [mk_putPwr]
  repeat' first
    | with_reducible apply Keeps.rfl' | (with_reducible apply Keeps.via (pushErr_keeps ..); (· decide))
    | (with_reducible apply Keeps.pwr; (· decide)) | split

theorem wakeAsk_keeps (s a1) : Keeps [.pwr, .hif, .log, .ras] s (wakeAsk s a1) := by
  unfold wakeAsk
  try dsimp -proj only
  repeat' first
    | with_reducible apply Keeps.rfl' | (with_reducible apply Keeps.via (sleepLedger_keeps ..); (· decide))
    | (with_reducible apply Keeps.via (wakeUp_keeps ..); (· decide))

theorem configAct_keeps_eq {s a1 a2 a3 u} (h : (configAct s a1 a2 a3) = some u) : Keeps [.pwr, .tiles, .mem, .exps, .cmp, .parts, .slots, .hif, .log, .lnk, .ras, .boot, .sec] s u := by
  revert h
  unfold configAct
  try dsimp -proj only
  intro h
  (repeat' (split at h)) <;> (try cases h)
  repeat' first
    | with_reducible apply Keeps.rfl' | (with_reducible apply Keeps.via (fwAct_keeps ..); (· decide))
    | (with_reducible apply Keeps.via (rebootNow_keeps ..); (· decide))
    | (with_reducible apply Keeps.via (commitGo_keeps ..); (· decide))
    | (with_reducible apply Keeps.via (retrainPort_keeps ..); (· decide))
    | (with_reducible apply Keeps.via (revokeGo_keeps ..); (· decide))
    | (with_reducible apply Keeps.via (sleepAsk_keeps ..); (· decide))
    | (with_reducible apply Keeps.via (unfence_keeps ..); (· decide))
    | (with_reducible apply Keeps.via (wakeAsk_keeps ..); (· decide))

theorem mbxAnswer_keeps (s a1 a2) : Keeps [.hif, .log, .ras] s (mbxAnswer s a1 a2) := by
  unfold mbxAnswer
  try dsimp -proj only
  repeat' first
    | with_reducible apply Keeps.ite | with_reducible apply Keeps.rfl'
    | (with_reducible apply Keeps.via (modFn_keeps ..); (· decide))
    | (with_reducible apply Keeps.via (fire_keeps ..); (· decide))
    | (with_reducible apply Keeps.via (flushErrs_keeps ..); (· decide))

theorem answer_keeps (s a1 a2) : Keeps [.parts, .hif, .log, .lnk, .ras] s (answer s a1 a2) := by
  unfold answer
  try dsimp -proj only
  repeat' first
    | with_reducible apply Keeps.ite | with_reducible apply Keeps.rfl'
    | (with_reducible apply Keeps.via (relayOut_keeps ..); (· decide))
    | (with_reducible apply Keeps.via (postFor_keeps ..); (· decide))
    | (with_reducible apply Keeps.via (mbxAnswer_keeps ..); (· decide)) | split

theorem endCmd_keeps (s a1 a2 a3 a4) : Keeps [.parts, .hif, .log, .lnk, .ras] s (endCmd s a1 a2 a3 a4) := by
  unfold endCmd
  try dsimp -proj only
  repeat' first
    | with_reducible apply Keeps.rfl' | (with_reducible apply Keeps.via (journal_keeps ..); (· decide))
    | (with_reducible apply Keeps.via (answer_keeps ..); (· decide))

theorem startCmd_keeps (s a1 a2) : Keeps [.log] s (startCmd s a1 a2) := by
  unfold startCmd
  try dsimp -proj only
  repeat' first
    | with_reducible apply Keeps.rfl' | (with_reducible apply Keeps.via (journal_keeps ..); (· decide))

theorem finishCmd_keeps (s a1 a2 a3 a4) : Keeps [.parts, .hif, .log, .lnk, .ras] s (finishCmd s a1 a2 a3 a4) := by
  unfold finishCmd
  try dsimp -proj only
  repeat' first
    | with_reducible apply Keeps.ite | with_reducible apply Keeps.rfl'
    | (with_reducible apply Keeps.via (endCmd_keeps ..); (· decide))
    | (with_reducible apply Keeps.via (startCmd_keeps ..); (· decide))

theorem configRefuse_keeps (s a1 a2 a3 a4) : Keeps [.parts, .hif, .log, .lnk, .ras] s (configRefuse s a1 a2 a3 a4) := by
  unfold configRefuse
  try dsimp -proj only
  repeat' first
    | with_reducible apply Keeps.rfl' | (with_reducible apply Keeps.via (pushErr_keeps ..); (· decide))
    | (with_reducible apply Keeps.via (ledger_keeps ..); (· decide))
    | (with_reducible apply Keeps.via (finishCmd_keeps ..); (· decide)) | split

theorem configDo_keeps (s a1 a2 a3 a4 a5 a6 a7) : Keeps [.pwr, .tiles, .mem, .exps, .cmp, .parts, .slots, .hif, .log, .lnk, .ras, .boot, .sec, .side] s (configDo s a1 a2 a3 a4 a5 a6 a7) := by
  unfold configDo
  try simp -proj only [mk_putPwr]
  repeat' first
    | with_reducible apply Keeps.ite | with_reducible apply Keeps.rfl'
    | (with_reducible apply Keeps.via (ledger_keeps ..); (· decide))
    | (with_reducible apply Keeps.via (fldSet_keeps ..); (· decide))
    | (with_reducible apply Keeps.via (stageStep_keeps ..); (· decide))
    | (with_reducible apply Keeps.via (finishCmd_keeps ..); (· decide))
    | (with_reducible apply Keeps.via (configRefuse_keeps ..); (· decide)) | (with_reducible apply Keeps.pwr; (· decide))
    | with_reducible refine Keeps.via (configAct_keeps_eq (by assumption)) (by decide) ?_ | split

theorem nctxLedger_keeps (s a1 a2 a3 a4 a5) : Keeps [.log] s (nctxLedger s a1 a2 a3 a4 a5) := by
  unfold nctxLedger
  try dsimp -proj only
  repeat' first
    | with_reducible apply Keeps.rfl' | (with_reducible apply Keeps.via (ledger_keeps ..); (· decide))

theorem stopSlot_keeps (s a1) : Keeps [.parts, .slots, .hif, .log, .lnk, .ras] s (stopSlot s a1) := by
  unfold stopSlot
  try simp -proj only [mk_putLnk]
  repeat' first
    | with_reducible apply Keeps.foldl | intro t_ x_ | with_reducible apply Keeps.rfl'
    | (with_reducible apply Keeps.via (modSlot_keeps ..); (· decide))
    | (with_reducible apply Keeps.via (dropHold_keeps ..); (· decide))
    | (with_reducible apply Keeps.via (sendVc0_keeps ..); (· decide)) | (with_reducible apply Keeps.lnk; (· decide))

theorem cancelSlot_keeps (a0 s a2) : Keeps [.parts, .slots, .hif, .log, .lnk, .ras] s (cancelSlot a0 s a2) := by
  unfold cancelSlot
  try dsimp -proj only
  repeat' first
    | with_reducible apply Keeps.ite | with_reducible apply Keeps.rfl'
    | (with_reducible apply Keeps.via (modSlot_keeps ..); (· decide))
    | (with_reducible apply Keeps.via (dropHold_keeps ..); (· decide))
    | (with_reducible apply Keeps.via (closeSlot_keeps ..); (· decide))
    | (with_reducible apply Keeps.via (stopSlot_keeps ..); (· decide))

theorem setLen_keeps (s a1 a2) : Keeps [.mem] s (setLen s a1 a2) := by
  unfold setLen
  try simp -proj only [mk_putMem]
  repeat' first
    | with_reducible apply Keeps.rfl' | (with_reducible apply Keeps.mem; (· decide))

theorem clearLens_keeps (s a1) : Keeps [.mem] s (clearLens s a1) := by
  unfold clearLens
  try dsimp -proj only
  repeat' first
    | with_reducible apply Keeps.foldl | intro t_ x_ | with_reducible apply Keeps.rfl'
    | (with_reducible apply Keeps.via (setLen_keeps ..); (· decide))

theorem freeVersions_keeps (s a1) : Keeps [.mem, .cmp, .log] s (freeVersions s a1) := by
  unfold freeVersions
  try simp -proj only [mk_putCmp]
  repeat' first
    | with_reducible apply Keeps.foldl | intro t_ x_ | with_reducible apply Keeps.rfl'
    | (with_reducible apply Keeps.via (ledger_keeps ..); (· decide))
    | (with_reducible apply Keeps.via (clearLens_keeps ..); (· decide)) | (with_reducible apply Keeps.cmp; (· decide))

theorem dropCtx_keeps (s a1 a2) : Keeps [.mem, .cmp, .parts, .slots, .hif, .log, .lnk, .ras] s (dropCtx s a1 a2) := by
  unfold dropCtx
  try simp -proj only [mk_putCmp]
  repeat' first
    | with_reducible apply Keeps.foldl | intro t_ x_ | with_reducible apply Keeps.rfl'
    | (with_reducible apply Keeps.via (modPart_keeps ..); (· decide))
    | (with_reducible apply Keeps.via (removeNode_keeps ..); (· decide))
    | (with_reducible apply Keeps.via (cancelSlot_keeps ..); (· decide))
    | (with_reducible apply Keeps.via (freeVersions_keeps ..); (· decide)) | (with_reducible apply Keeps.cmp; (· decide))

theorem acceptCmd_keeps (s a1 a2 a3) : Keeps [.parts, .hif, .log, .lnk, .ras] s (acceptCmd s a1 a2 a3) := by
  unfold acceptCmd
  try dsimp -proj only
  repeat' first
    | with_reducible apply Keeps.rfl' | (with_reducible apply Keeps.via (answer_keeps ..); (· decide))
    | (with_reducible apply Keeps.via (startCmd_keeps ..); (· decide))

theorem readDone_keeps (s a1 a2 a3 a4) : Keeps [.parts, .hif, .log, .lnk, .ras] s (readDone s a1 a2 a3 a4) := by
  unfold readDone
  try dsimp -proj only
  repeat' first
    | with_reducible apply Keeps.ite | with_reducible apply Keeps.rfl'
    | (with_reducible apply Keeps.via (emit_keeps ..); (· decide))
    | (with_reducible apply Keeps.via (finishLater_keeps ..); (· decide))
    | (with_reducible apply Keeps.via (finishCmd_keeps ..); (· decide))
    | (with_reducible apply Keeps.via (acceptCmd_keeps ..); (· decide))

theorem refuseCmd_keeps (s a1 a2 a3 a4 a5) : Keeps [.parts, .hif, .log, .lnk, .ras] s (refuseCmd s a1 a2 a3 a4 a5) := by
  unfold refuseCmd
  try dsimp -proj only
  repeat' first
    | with_reducible apply Keeps.rfl' | (with_reducible apply Keeps.via (pushErr_keeps ..); (· decide))
    | (with_reducible apply Keeps.via (finishCmd_keeps ..); (· decide))

theorem takeCmd_keeps (s a1 a2) : Keeps [.hif, .log] s (takeCmd s a1 a2).s := by
  unfold takeCmd
  dsimp only
  split
  · exact Keeps.hif (by decide) Keeps.rfl' _
  · exact (journal_keeps ..).mono' (by decide)


theorem runRead_keeps (s a1 a2 a3 a4) : Keeps [.parts, .hif, .log, .lnk, .ras] s (runRead s a1 a2 a3 a4) := by
  unfold runRead
  try dsimp -proj only
  repeat' first
    | with_reducible apply Keeps.rfl' | (with_reducible apply Keeps.via (readDone_keeps ..); (· decide))
    | (with_reducible apply Keeps.via (refuseCmd_keeps ..); (· decide))
    | (with_reducible apply Keeps.via (takeCmd_keeps ..); (· decide)) | split

theorem freshPages_keeps (s a1 a2) : Keeps [.mem] s (freshPages s a1 a2) := by
  unfold freshPages
  try dsimp -proj only
  repeat' first
    | with_reducible apply Keeps.foldl | intro t_ x_ | with_reducible apply Keeps.rfl'
    | (with_reducible apply Keeps.via (setLen_keeps ..); (· decide))

theorem memPut_keeps (s a1 a2) : Keeps [.mem] s (memPut s a1 a2) := by
  unfold memPut
  try simp -proj only [mk_putMem]
  repeat' first
    | with_reducible apply Keeps.ite | with_reducible apply Keeps.rfl'
    | (with_reducible apply Keeps.via (setLen_keeps ..); (· decide)) | (with_reducible apply Keeps.mem; (· decide)) | split

theorem memPutRun_keeps (s a1 a2) : Keeps [.mem] s (memPutRun s a1 a2) := by
  induction a2 generalizing s a1 with
  | nil => exact Keeps.rfl'
  | cons x_ r_ ih =>
    unfold memPutRun
    try dsimp -proj only
    repeat' first
      | (with_reducible apply Keeps.via (ih ..); (· decide)) | with_reducible apply Keeps.rfl'
      | (with_reducible apply Keeps.via (memPut_keeps ..); (· decide))

theorem dropPages_keeps (s a1 a2) : Keeps [.parts] s (dropPages s a1 a2) := by
  unfold dropPages
  try dsimp -proj only
  repeat' first
    | with_reducible apply Keeps.rfl' | (with_reducible apply Keeps.via (modPart_keeps ..); (· decide))

theorem copyStops_keeps (s a1 a2 a3 a4) : Keeps [.parts, .slots] s (copyStops s a1 a2 a3 a4) := by
  unfold copyStops
  try dsimp -proj only
  repeat' first
    | with_reducible apply Keeps.rfl' | (with_reducible apply Keeps.via (modPart_keeps ..); (· decide))
    | (with_reducible apply Keeps.via (doomLost_keeps ..); (· decide))
    | (with_reducible apply Keeps.via (dropPages_keeps ..); (· decide))

theorem evictNode_keeps (s a1 a2) : Keeps [.parts, .lnk] s (evictNode s a1 a2) := by
  unfold evictNode
  try dsimp -proj only
  repeat' first
    | with_reducible apply Keeps.ite | with_reducible apply Keeps.rfl'
    | (with_reducible apply Keeps.via (modPart_keeps ..); (· decide))
    | (with_reducible apply Keeps.via (removeNode_keeps ..); (· decide))
    | (with_reducible apply Keeps.via (newFlow_keeps ..); (· decide)) | split

theorem evictFor_keeps (a0 a1 a2 a3 s) : Keeps [.parts, .lnk] s (evictFor a0 a1 a2 a3 s) := by
  induction a3 generalizing a0 a1 a2 s with
  | zero => exact Keeps.rfl'
  | succ n_ ih =>
    unfold evictFor
    try dsimp -proj only
    repeat' first
      | with_reducible apply Keeps.ite | (with_reducible apply Keeps.via (ih ..); (· decide)) | with_reducible apply Keeps.rfl'
      | (with_reducible apply Keeps.via (evictNode_keeps ..); (· decide)) | split

theorem relieve_keeps (s a1 a2 a3 a4 a5) : Keeps [.parts, .slots, .hif, .log, .lnk, .ras] s (relieve s a1 a2 a3 a4 a5) := by
  unfold relieve
  try dsimp -proj only
  repeat' first
    | with_reducible apply Keeps.foldl | intro t_ x_ | with_reducible apply Keeps.rfl'
    | (with_reducible apply Keeps.via (doomFor_keeps ..); (· decide))
    | (with_reducible apply Keeps.via (preemptIdle_keeps ..); (· decide))
    | (with_reducible apply Keeps.via (evictFor_keeps ..); (· decide))

theorem startLanes_keeps (s a1 a2) : Keeps [.exps] s (startLanes s a1 a2) := by
  unfold startLanes
  try simp -proj only [mk_putExps]
  repeat' first
    | with_reducible apply Keeps.rfl' | (with_reducible apply Keeps.exps; (· decide))

theorem bindAgain_keeps (s a1) : Keeps [.slots] s (bindAgain s a1) := by
  unfold bindAgain
  try simp -proj only [mk_putSlots]
  repeat' first
    | with_reducible apply Keeps.rfl' | (with_reducible apply Keeps.slots; (· decide))

theorem pbFail_keeps (s a1 a2) : Keeps [.tiles, .mem, .cmp, .parts, .slots, .hif, .log, .lnk, .ras, .boot, .sec] s (pbFail s a1 a2) := by
  unfold pbFail
  try dsimp -proj only
  repeat' first
    | with_reducible apply Keeps.ite | with_reducible apply Keeps.same | intro t_ | with_reducible apply Keeps.rfl'
    | (with_reducible apply Keeps.via (makeSuspect_keeps ..); (· decide)) | (with_reducible apply countFault_keeps; (· decide))
    | (with_reducible apply Keeps.via (rerunFault_keeps ..); (· decide))
    | (with_reducible apply Keeps.via (tileErr_keeps ..); (· decide))
    | (with_reducible apply Keeps.via (fwFault_keeps ..); (· decide)) | split

theorem startStep_keeps (s a1 a2) : Keeps [.tiles, .mem, .exps, .cmp, .parts, .slots, .hif, .log, .lnk, .ras, .boot, .sec] s (startStep s a1 a2) := by
  unfold startStep
  try dsimp -proj only
  repeat' first
    | with_reducible apply Keeps.ite | with_reducible apply Keeps.foldl | intro t_ x_ | with_reducible apply Keeps.rfl'
    | (with_reducible apply Keeps.via (modPart_keeps ..); (· decide))
    | (with_reducible apply Keeps.via (modTile_keeps ..); (· decide))
    | (with_reducible apply Keeps.via (startLanes_keeps ..); (· decide))
    | (with_reducible apply Keeps.via (bindAgain_keeps ..); (· decide))
    | (with_reducible apply Keeps.via (pbFail_keeps ..); (· decide)) | split

theorem clearPoison_keeps (s a1) : Keeps [.mem] s (clearPoison s a1) := by
  unfold clearPoison
  try simp -proj only [mk_putMem]
  repeat' first
    | with_reducible apply Keeps.ite | with_reducible apply Keeps.rfl'
    | (with_reducible apply Keeps.via (drainSurplus_keeps ..); (· decide)) | (with_reducible apply Keeps.mem; (· decide))

theorem freshLines_keeps (s a1) : Keeps [.mem] s (freshLines s a1) := by
  unfold freshLines
  try simp -proj only [mk_putMem]
  repeat' first
    | with_reducible apply Keeps.rfl' | (with_reducible apply Keeps.via (clearPoison_keeps ..); (· decide))
    | (with_reducible apply Keeps.mem; (· decide))

theorem memWrite_keeps (s a1 a2) : Keeps [.mem] s (memWrite s a1 a2) := by
  unfold memWrite
  try dsimp -proj only
  repeat' first
    | with_reducible apply Keeps.ite | with_reducible apply Keeps.foldl | intro t_ x_ | with_reducible apply Keeps.rfl'
    | (with_reducible apply Keeps.via (setLen_keeps ..); (· decide))
    | (with_reducible apply Keeps.via (memPutRun_keeps ..); (· decide))
    | (with_reducible apply Keeps.via (freshLines_keeps ..); (· decide)) | split

theorem writeParams_keeps (s a1 a2) : Keeps [.mem] s (writeParams s a1 a2).1 := by
  unfold writeParams
  try dsimp -proj only
  repeat' first
    | with_reducible apply Keeps.rfl' | (with_reducible apply Keeps.via (memWrite_keeps ..); (· decide))
theorem writeParams_keeps_eq {s a1 a2 u v} (h : (writeParams s a1 a2) = (u, v)) : Keeps [.mem] s u := by
  have k := writeParams_keeps s a1 a2
  rw [h] at k
  exact k

theorem rewriteParams_keeps (s a1 a2) : Keeps [.tiles, .mem, .parts] s (rewriteParams s a1 a2) := by
  unfold rewriteParams
  try dsimp -proj only
  repeat' first
    | with_reducible apply Keeps.ite | with_reducible apply Keeps.foldl | intro t_ x_ | with_reducible apply Keeps.rfl'
    | (with_reducible apply Keeps.via (modPart_keeps ..); (· decide))
    | (with_reducible apply Keeps.via (modTile_keeps ..); (· decide))
    | (with_reducible apply Keeps.via (writeParams_keeps ..); (· decide)) | split

theorem startNext_keeps (s a1) : Keeps [.tiles, .mem, .exps, .cmp, .parts, .slots, .hif, .log, .lnk, .ras, .boot, .sec] s (startNext s a1) := by
  unfold startNext
  try dsimp -proj only
  repeat' first
    | with_reducible apply Keeps.ite | with_reducible apply Keeps.rfl'
    | (with_reducible apply Keeps.via (modPart_keeps ..); (· decide))
    | (with_reducible apply Keeps.via (startStep_keeps ..); (· decide))
    | (with_reducible apply Keeps.via (writeParams_keeps ..); (· decide)) | split

theorem setCand_keeps (s a1 a2) : Keeps [.parts] s (setCand s a1 a2) := by
  unfold setCand
  try dsimp -proj only
  repeat' first
    | with_reducible apply Keeps.rfl' | (with_reducible apply Keeps.via (modPart_keeps ..); (· decide))

theorem noteDefer_keeps (s a1 a2) : Keeps [.parts, .hif, .log, .ras] s (noteDefer s a1 a2) := by
  unfold noteDefer
  try dsimp -proj only
  repeat' first
    | with_reducible apply Keeps.ite | with_reducible apply Keeps.rfl'
    | (with_reducible apply Keeps.via (modPart_keeps ..); (· decide))
    | (with_reducible apply Keeps.via (pushErr_keeps ..); (· decide))

theorem staleTree_keeps (s a1) : Keeps [.parts, .slots, .hif, .log, .lnk, .ras] s (staleTree s a1) := by
  unfold staleTree
  try dsimp -proj only
  repeat' first
    | with_reducible apply Keeps.rfl' | (with_reducible apply Keeps.via (pushErr_keeps ..); (· decide))
    | (with_reducible apply Keeps.via (endTree_keeps ..); (· decide)) | split

theorem report_keeps (s a1) : Keeps [.parts] s (report s a1) := by
  unfold report
  try dsimp -proj only
  repeat' first
    | with_reducible apply Keeps.rfl' | (with_reducible apply Keeps.via (modPart_keeps ..); (· decide)) | split

theorem finishAbandon_keeps (s a1) : Keeps [.tiles, .parts] s (finishAbandon s a1) := by
  unfold finishAbandon
  try dsimp -proj only
  repeat' first
    | with_reducible apply Keeps.ite | with_reducible apply Keeps.rfl'
    | (with_reducible apply Keeps.via (setTile_keeps ..); (· decide))
    | (with_reducible apply Keeps.via (report_keeps ..); (· decide))

theorem abandonNow_keeps (s a1) : Keeps [.tiles, .parts] s (abandonNow s a1) := by
  unfold abandonNow
  try dsimp -proj only
  repeat' first
    | with_reducible apply Keeps.rfl' | (with_reducible apply Keeps.via (modTile_keeps ..); (· decide))
    | (with_reducible apply Keeps.via (finishAbandon_keeps ..); (· decide))

theorem holdAt_keeps (s a1 a2 a3) : Keeps [.tiles] s (holdAt s a1 a2 a3) := by
  unfold holdAt
  try dsimp -proj only
  repeat' first
    | with_reducible apply Keeps.rfl' | (with_reducible apply Keeps.via (modTile_keeps ..); (· decide))

theorem noticeDue_keeps (s a1) : Keeps [.tiles, .parts] s (noticeDue s a1) := by
  unfold noticeDue
  try dsimp -proj only
  repeat' first
    | with_reducible apply Keeps.ite | with_reducible apply Keeps.rfl'
    | (with_reducible apply Keeps.via (abandonNow_keeps ..); (· decide))

theorem markFaulty_keeps (s a1 a2) : Keeps [.cmp] s (markFaulty s a1 a2) := by
  unfold markFaulty
  try simp -proj only [mk_putCmp]
  repeat' first
    | with_reducible apply Keeps.rfl' | (with_reducible apply Keeps.cmp; (· decide))

theorem progFault_keeps (s a1 a2 a3 a4 a5) : Keeps [.tiles, .cmp, .parts, .hif, .log, .ras] s (progFault s a1 a2 a3 a4 a5) := by
  unfold progFault
  try dsimp -proj only
  repeat' first
    | with_reducible apply Keeps.rfl' | (with_reducible apply Keeps.via (modTile_keeps ..); (· decide))
    | (with_reducible apply Keeps.via (abandonStep_keeps ..); (· decide))
    | (with_reducible apply Keeps.via (tileErr_keeps ..); (· decide))
    | (with_reducible apply Keeps.via (markFaulty_keeps ..); (· decide)) | split

theorem runaway_keeps (s a1 a2) : Keeps [.tiles, .cmp, .parts, .hif, .log, .ras] s (runaway s a1 a2) := by
  unfold runaway
  try dsimp -proj only
  repeat' first
    | with_reducible apply Keeps.rfl' | (with_reducible apply Keeps.via (progFault_keeps ..); (· decide))

theorem ctlIssue_keeps {l : List Block} {s t : State} {n : Nat} {i : Instr} {c : Nat} {k : Tile → Check} {f : Tile → List Rng → State}
    (hk : ∀ b ∈ ([.tiles, .cmp, .parts, .hif, .log, .ras] : List Block), b ∈ l) (h : ∀ x g, Keeps l s (f x g)) (g : Keeps l s t) :
    Keeps l s (ctlIssue t n i c k f) := by
  unfold ctlIssue
  dsimp only
  repeat' first
    | with_reducible apply g | with_reducible apply h | with_reducible apply Keeps.ite
    | (with_reducible apply Keeps.via (noticeDue_keeps ..); (· intro b_ m_; exact hk b_ (by revert b_; decide)))
    | (with_reducible apply Keeps.via (progFault_keeps ..); (· intro b_ m_; exact hk b_ (by revert b_; decide)))
    | (with_reducible apply Keeps.via (runaway_keeps ..); (· intro b_ m_; exact hk b_ (by revert b_; decide)))
    | (with_reducible apply Keeps.via (holdAt_keeps ..); (· intro b_ m_; exact hk b_ (by revert b_; decide)))
    | split


theorem feedRunning_keeps (s a1) : Keeps [.tiles, .parts, .hif, .log, .ras] s (feedRunning s a1) := by
  unfold feedRunning
  try dsimp -proj only
  repeat' first
    | with_reducible apply Keeps.ite | with_reducible apply Keeps.foldl | intro t_ x_ | with_reducible apply Keeps.rfl'
    | (with_reducible apply Keeps.via (pvFeed_keeps ..); (· decide))
    | (with_reducible apply Keeps.via (qkFeed_keeps ..); (· decide)) | split

theorem poisonedRead_keeps (s a1 a2) : Keeps [.tiles, .mem, .cmp, .parts, .slots, .hif, .log, .lnk, .ras] s (poisonedRead s a1 a2) := by
  unfold poisonedRead
  try dsimp -proj only
  repeat' first
    | with_reducible apply Keeps.ite | intro t_ | with_reducible apply Keeps.rfl'
    | (with_reducible apply Keeps.via (abandonStep_keeps ..); (· decide)) | (with_reducible apply countFault_keeps; (· decide))
    | (with_reducible apply Keeps.via (rerunFault_keeps ..); (· decide))
    | (with_reducible apply Keeps.via (tileErr_keeps ..); (· decide)) | split

theorem undeclared_keeps (s a1 a2) : Keeps [.tiles, .cmp, .parts, .hif, .log, .ras] s (undeclared s a1 a2) := by
  unfold undeclared
  try dsimp -proj only
  repeat' first
    | with_reducible apply Keeps.rfl' | (with_reducible apply Keeps.via (dropInfl_keeps ..); (· decide))
    | (with_reducible apply Keeps.via (progFault_keeps ..); (· decide))

theorem startOp_keeps (s a1 a2) : Keeps [.tiles, .mem, .cmp, .parts, .slots, .hif, .log, .lnk, .ras] s (startOp s a1 a2) := by
  unfold startOp
  try dsimp -proj only
  repeat' first
    | with_reducible apply Keeps.ite | with_reducible apply Keeps.rfl'
    | (with_reducible apply Keeps.via (modTile_keeps ..); (· decide))
    | (with_reducible apply Keeps.via (modInfl_keeps ..); (· decide))
    | (with_reducible apply Keeps.via (applyCheck_keeps ..); (· decide))
    | (with_reducible apply Keeps.via (newFlow_keeps ..); (· decide))
    | (with_reducible apply Keeps.via (poisonedRead_keeps ..); (· decide))
    | (with_reducible apply Keeps.via (undeclared_keeps ..); (· decide)) | split

theorem startReady_keeps (s a1) : Keeps [.tiles, .mem, .cmp, .parts, .slots, .hif, .log, .lnk, .ras] s (startReady s a1) := by
  unfold startReady
  try dsimp -proj only
  repeat' first
    | with_reducible apply Keeps.ite | with_reducible apply Keeps.foldl | intro t_ x_ | with_reducible apply Keeps.rfl'
    | (with_reducible apply Keeps.via (startOp_keeps ..); (· decide)) | split

theorem pump_keeps (s a1) : Keeps [.tiles, .mem, .cmp, .parts, .slots, .hif, .log, .lnk, .ras] s (pump s a1) := by
  unfold pump
  try dsimp -proj only
  repeat' first
    | with_reducible apply Keeps.rfl' | (with_reducible apply Keeps.via (feedRunning_keeps ..); (· decide))
    | (with_reducible apply Keeps.via (startReady_keeps ..); (· decide)) | split

theorem barArrive_keeps (s a1 a2) : Keeps [.tiles] s (barArrive s a1 a2) := by
  unfold barArrive
  try dsimp -proj only
  repeat' first
    | with_reducible apply Keeps.rfl' | (with_reducible apply Keeps.via (modTile_keeps ..); (· decide)) | split

theorem syncPump_keeps (s a1) : Keeps [.tiles] s (syncPump s a1) := by
  unfold syncPump
  try dsimp -proj only
  repeat' first
    | with_reducible apply Keeps.ite | with_reducible apply Keeps.rfl'
    | (with_reducible apply Keeps.via (setTile_keeps ..); (· decide))
    | (with_reducible apply Keeps.via (barArrive_keeps ..); (· decide)) | split

theorem settle_keeps (s a1) : Keeps [.tiles, .mem, .cmp, .parts, .slots, .hif, .log, .lnk, .ras] s (settle s a1) := by
  unfold settle
  try dsimp -proj only
  repeat' first
    | with_reducible apply Keeps.rfl' | (with_reducible apply Keeps.via (finishAbandon_keeps ..); (· decide))
    | (with_reducible apply Keeps.via (noticeDue_keeps ..); (· decide))
    | (with_reducible apply Keeps.via (pump_keeps ..); (· decide))
    | (with_reducible apply Keeps.via (syncPump_keeps ..); (· decide))

theorem syncIssue_keeps (s a1 a2 a3 a4 a5) : Keeps [.tiles, .mem, .cmp, .parts, .slots, .hif, .log, .lnk, .ras] s (syncIssue s a1 a2 a3 a4 a5) := by
  unfold syncIssue
  try dsimp -proj only
  repeat' first
    | with_reducible apply Keeps.ite | intro t_ x_ | with_reducible apply Keeps.rfl'
    | (with_reducible apply Keeps.via (setTile_keeps ..); (· decide))
    | (with_reducible apply Keeps.via (abandonNow_keeps ..); (· decide)) | (with_reducible apply ctlIssue_keeps; (· decide))
    | (with_reducible apply Keeps.via (settle_keeps ..); (· decide))

theorem useSection_keeps (s a1 a2) : Keeps [.tiles, .mem, .cmp, .parts, .slots, .hif, .log, .lnk, .ras, .boot, .sec] s (useSection s a1 a2) := by
  unfold useSection
  try dsimp -proj only
  repeat' first
    | with_reducible apply Keeps.ite | with_reducible apply Keeps.rfl'
    | (with_reducible apply Keeps.via (setTile_keeps ..); (· decide))
    | (with_reducible apply Keeps.via (pbFail_keeps ..); (· decide))

theorem waitFault_keeps (s a1) : Keeps [.tiles, .parts] s (waitFault s a1) := by
  unfold waitFault
  try dsimp -proj only
  repeat' first
    | with_reducible apply Keeps.rfl' | (with_reducible apply Keeps.via (abandonStep_keeps ..); (· decide)) | split

theorem aCrcFault_keeps (s a1 a2) : Keeps [.tiles, .mem, .cmp, .parts, .slots, .hif, .log, .lnk, .ras] s (aCrcFault s a1 a2) := by
  unfold aCrcFault
  try simp -proj only [mk_putMem]
  repeat' first
    | with_reducible apply Keeps.ite | intro t_ | with_reducible apply Keeps.rfl'
    | (with_reducible apply Keeps.via (pushErr_keeps ..); (· decide))
    | (with_reducible apply Keeps.via (abandonStep_keeps ..); (· decide)) | (with_reducible apply countFault_keeps; (· decide))
    | (with_reducible apply Keeps.via (waitFault_keeps ..); (· decide)) | (with_reducible apply Keeps.mem; (· decide)) | split

theorem heard_keeps (s a1 a2) : Keeps [.mem] s (heard s a1 a2) := by
  unfold heard
  try simp -proj only [mk_putMem]
  repeat' first
    | with_reducible apply Keeps.rfl' | (with_reducible apply Keeps.mem; (· decide))

theorem lineACrc_keeps (s a1) : Keeps [.mem] s (lineACrc s a1) := by
  unfold lineACrc
  try simp -proj only [mk_putMem]
  repeat' first
    | with_reducible apply Keeps.rfl' | (with_reducible apply Keeps.mem; (· decide))

theorem lineCorrected_keeps (s a1 a2) : Keeps [.tiles, .mem, .cmp, .parts, .slots, .hif, .log, .lnk, .ras] s (lineCorrected s a1 a2) := by
  unfold lineCorrected
  try simp -proj only [mk_putMem]
  repeat' first
    | intro t_ | with_reducible apply Keeps.rfl' | (with_reducible apply Keeps.via (pushErr_keeps ..); (· decide))
    | (with_reducible apply countFault_keeps; (· decide)) | (with_reducible apply Keeps.mem; (· decide)) | apply Keeps.ite

theorem poisonBlock_keeps (s a1 a2) : Keeps [.tiles, .mem, .cmp, .parts, .slots, .hif, .log, .lnk, .ras] s (poisonBlock s a1 a2) := by
  unfold poisonBlock
  try dsimp -proj only
  repeat' first
    | with_reducible apply Keeps.ite | with_reducible apply Keeps.rfl'
    | (with_reducible apply Keeps.via (poisonLine_keeps ..); (· decide))
    | (with_reducible apply Keeps.via (makeSuspect_keeps ..); (· decide))
    | (with_reducible apply Keeps.via (judgeUnit_keeps ..); (· decide)) | split

theorem lineRead_keeps (s a1 a2 a3) : Keeps [.tiles, .mem, .cmp, .parts, .slots, .hif, .log, .lnk, .ras] s (lineRead s a1 a2 a3).1 := by
  unfold lineRead
  try simp -proj only [mk_putMem]
  repeat' first
    | with_reducible apply Keeps.iteFst | with_reducible apply Keeps.rfl'
    | (with_reducible apply Keeps.via (heard_keeps ..); (· decide))
    | (with_reducible apply Keeps.via (lineACrc_keeps ..); (· decide))
    | (with_reducible apply Keeps.via (lineCorrected_keeps ..); (· decide))
    | (with_reducible apply Keeps.via (poisonBlock_keeps ..); (· decide)) | (with_reducible apply Keeps.mem; (· decide)) | split
theorem lineRead_keeps_eq {s a1 a2 a3 u v} (h : (lineRead s a1 a2 a3) = (u, v)) : Keeps [.tiles, .mem, .cmp, .parts, .slots, .hif, .log, .lnk, .ras] s u := by
  have k := lineRead_keeps s a1 a2 a3
  rw [h] at k
  exact k

theorem linesRead_keeps (s a1 a2 a3) : Keeps [.tiles, .mem, .cmp, .parts, .slots, .hif, .log, .lnk, .ras] s (linesRead s a1 a2 a3).1 := by
  induction a2 generalizing s a1 a3 with
  | nil => exact Keeps.rfl'
  | cons x_ r_ ih =>
    unfold linesRead
    try dsimp -proj only
    repeat' first
      | with_reducible apply Keeps.iteFst | (with_reducible apply Keeps.via (ih ..); (· decide)) | with_reducible apply Keeps.rfl'
      | (with_reducible apply Keeps.via (lineRead_keeps ..); (· decide))

theorem linesRead_keeps_eq {s a1 a2 a3 u v} (h : (linesRead s a1 a2 a3) = (u, v)) : Keeps [.tiles, .mem, .cmp, .parts, .slots, .hif, .log, .lnk, .ras] s u := by
  have k := linesRead_keeps s a1 a2 a3
  rw [h] at k
  exact k

theorem prefetch_keeps (s a1 a2 a3 a4) : Keeps [.tiles, .mem, .cmp, .parts, .slots, .hif, .log, .lnk, .ras] s (prefetch s a1 a2 a3 a4).1 := by
  unfold prefetch
  try dsimp -proj only
  repeat' first
    | with_reducible apply Keeps.iteFst | with_reducible apply Keeps.rfl'
    | (with_reducible apply Keeps.via (aCrcFault_keeps ..); (· decide))
    | (with_reducible apply Keeps.via (linesRead_keeps ..); (· decide))
theorem prefetch_keeps_eq {s a1 a2 a3 a4 u v} (h : (prefetch s a1 a2 a3 a4) = (u, v)) : Keeps [.tiles, .mem, .cmp, .parts, .slots, .hif, .log, .lnk, .ras] s u := by
  have k := prefetch_keeps s a1 a2 a3 a4
  rw [h] at k
  exact k

theorem setLane_keeps (s a1 a2) : Keeps [.exps] s (setLane s a1 a2) := by
  unfold setLane
  try simp -proj only [mk_putExps]
  repeat' first
    | with_reducible apply Keeps.rfl' | (with_reducible apply Keeps.exps; (· decide))

theorem freeBlock_keeps (s) : Keeps [] s (freeBlock s).2 := by
  unfold freeBlock
  try dsimp -proj only
  repeat' first
    | with_reducible apply Keeps.rfl' | (with_reducible apply Keeps.via (drawFree_keeps ..); (· decide))
theorem freeBlock_keeps_eq {s u v} (h : (freeBlock s) = (v, u)) : Keeps [] s u := by
  have k := freeBlock_keeps s
  rw [h] at k
  exact k

theorem taintStep_keeps (s a1 a2 a3) : Keeps [.parts, .hif, .log, .ras] s (taintStep s a1 a2 a3) := by
  unfold taintStep
  try dsimp -proj only
  repeat' first
    | with_reducible apply Keeps.ite | with_reducible apply Keeps.rfl'
    | (with_reducible apply Keeps.via (modPart_keeps ..); (· decide))
    | (with_reducible apply Keeps.via (pushErr_keeps ..); (· decide)) | split

theorem readPoisoned_keeps (s a1 a2) : Keeps [.parts, .hif, .log, .ras] s (readPoisoned s a1 a2) := by
  unfold readPoisoned
  try dsimp -proj only
  repeat' first
    | with_reducible apply Keeps.rfl' | (with_reducible apply Keeps.via (taintStep_keeps ..); (· decide)) | split

theorem badBlock_keeps (s a1 a2 a3 a4 a5) : Keeps [.tiles, .mem, .cmp, .parts, .slots, .hif, .log, .lnk, .ras] s (badBlock s a1 a2 a3 a4 a5).2 := by
  unfold badBlock
  try dsimp -proj only
  repeat' first
    | with_reducible apply Keeps.rfl' | (with_reducible apply Keeps.via (pushErr_keeps ..); (· decide))
    | (with_reducible apply Keeps.via (poisonBlock_keeps ..); (· decide))
    | (with_reducible apply Keeps.via (freeBlock_keeps ..); (· decide))
    | (with_reducible apply Keeps.via (readPoisoned_keeps ..); (· decide))
theorem badBlock_keeps_eq {s a1 a2 a3 a4 a5 u v} (h : (badBlock s a1 a2 a3 a4 a5) = (v, u)) : Keeps [.tiles, .mem, .cmp, .parts, .slots, .hif, .log, .lnk, .ras] s u := by
  have k := badBlock_keeps s a1 a2 a3 a4 a5
  rw [h] at k
  exact k

theorem blockData_keeps (s a1 a2 a3 a4 a5 a6 a7) : Keeps [.tiles, .mem, .cmp, .parts, .slots, .hif, .log, .lnk, .ras] s (blockData s a1 a2 a3 a4 a5 a6 a7).2 := by
  unfold blockData
  try dsimp -proj only
  repeat' first
    | with_reducible apply Keeps.rfl' | (with_reducible apply Keeps.via (pushErr_keeps ..); (· decide))
    | (with_reducible apply Keeps.via (linesRead_keeps ..); (· decide))
    | (with_reducible apply Keeps.via (freeBlock_keeps ..); (· decide))
    | (with_reducible apply Keeps.via (readPoisoned_keeps ..); (· decide))
    | (with_reducible apply Keeps.via (badBlock_keeps ..); (· decide)) | split
theorem blockData_keeps_eq {s a1 a2 a3 a4 a5 a6 a7 u v} (h : (blockData s a1 a2 a3 a4 a5 a6 a7) = (v, u)) : Keeps [.tiles, .mem, .cmp, .parts, .slots, .hif, .log, .lnk, .ras] s u := by
  have k := blockData_keeps s a1 a2 a3 a4 a5 a6 a7
  rw [h] at k
  exact k

theorem decodeReads_keeps (s a1 a2 a3 a4 a5 a6 a7) : Keeps [.tiles, .mem, .cmp, .parts, .slots, .hif, .log, .lnk, .ras] s (decodeReads s a1 a2 a3 a4 a5 a6 a7).1 := by
  induction a5 generalizing s a1 a2 a3 a4 a6 a7 with
  | nil => exact Keeps.rfl'
  | cons x_ r_ ih =>
    unfold decodeReads
    try dsimp -proj only
    repeat' first
      | (with_reducible apply Keeps.via (ih ..); (· decide)) | with_reducible apply Keeps.rfl'
      | (with_reducible apply Keeps.via (blockData_keeps ..); (· decide))

theorem decodeReads_keeps_eq {s a1 a2 a3 a4 a5 a6 a7 u v} (h : (decodeReads s a1 a2 a3 a4 a5 a6 a7) = (u, v)) : Keeps [.tiles, .mem, .cmp, .parts, .slots, .hif, .log, .lnk, .ras] s u := by
  have k := decodeReads_keeps s a1 a2 a3 a4 a5 a6 a7
  rw [h] at k
  exact k

theorem sealBlock_keeps (s a1 a2 a3) : Keeps [.mem] s (sealBlock s a1 a2 a3) := by
  unfold sealBlock
  try dsimp -proj only
  repeat' first
    | with_reducible apply Keeps.ite | with_reducible apply Keeps.rfl'
    | (with_reducible apply Keeps.via (setLen_keeps ..); (· decide))
    | (with_reducible apply Keeps.via (memPutRun_keeps ..); (· decide)) | split

theorem sendControl_keeps (s a1 a2 a3) : Keeps [.lnk] s (sendControl s a1 a2 a3) := by
  unfold sendControl
  try dsimp -proj only
  repeat' first
    | with_reducible apply Keeps.rfl' | (with_reducible apply Keeps.via (emit_keeps ..); (· decide))
    | (with_reducible apply Keeps.via (modPort_keeps ..); (· decide))

theorem portFenced_keeps (s a1) : Keeps [.tiles, .parts, .slots, .hif, .log, .lnk, .ras] s (portFenced s a1) := by
  unfold portFenced
  try dsimp -proj only
  repeat' first
    | with_reducible apply Keeps.ite | with_reducible apply Keeps.rfl'
    | (with_reducible apply Keeps.via (declareEvent_keeps ..); (· decide))
    | (with_reducible apply Keeps.via (portOut_keeps ..); (· decide))
    | (with_reducible apply Keeps.via (sendControl_keeps ..); (· decide))

theorem fenceAny_keeps (s a1) : Keeps [.tiles, .mem, .cmp, .parts, .slots, .hif, .log, .lnk, .ras] s (fenceAny s a1) := by
  unfold fenceAny
  try dsimp -proj only
  repeat' first
    | with_reducible apply Keeps.ite | with_reducible apply Keeps.rfl'
    | (with_reducible apply Keeps.via (fenceUnit_keeps ..); (· decide))
    | (with_reducible apply Keeps.via (portFenced_keeps ..); (· decide))

theorem rebalLoading_keeps (s a1) : Keeps [.cmp, .parts, .slots, .hif, .log, .lnk, .ras] s (rebalLoading s a1) := by
  unfold rebalLoading
  try dsimp -proj only
  repeat' first
    | with_reducible apply Keeps.foldl | intro t_ x_ | with_reducible apply Keeps.rfl'
    | (with_reducible apply Keeps.via (rebalOne_keeps ..); (· decide))

theorem toTesting_keeps (s a1) : Keeps [.hif, .log, .ras] s (toTesting s a1) := by
  unfold toTesting
  try dsimp -proj only
  repeat' first
    | with_reducible apply Keeps.ite | with_reducible apply Keeps.rfl'
    | (with_reducible apply Keeps.via (unitTo_keeps ..); (· decide))

theorem beginTest_keeps (s a1) : Keeps [.hif, .log, .ras] s (beginTest s a1) := by
  unfold beginTest
  try simp -proj only [mk_putRas]
  repeat' first
    | with_reducible apply Keeps.rfl' | (with_reducible apply Keeps.via (toTesting_keeps ..); (· decide))
    | (with_reducible apply Keeps.ras; (· decide))

theorem setReduced_keeps (s a1 a2) : Keeps [.pwr] s (setReduced s a1 a2) := by
  unfold setReduced
  try simp -proj only [mk_putPwr]
  repeat' first
    | with_reducible apply Keeps.rfl' | (with_reducible apply Keeps.pwr; (· decide))

theorem beginSession_keeps (s a1) : Keeps [.pwr, .tiles, .hif, .log, .ras] s (beginSession s a1) := by
  unfold beginSession
  try simp -proj only [mk_putRas]
  repeat' first
    | with_reducible apply Keeps.foldl | intro t_ x_ | with_reducible apply Keeps.rfl'
    | (with_reducible apply Keeps.via (modTile_keeps ..); (· decide))
    | (with_reducible apply Keeps.via (toTesting_keeps ..); (· decide))
    | (with_reducible apply Keeps.via (beginTest_keeps ..); (· decide))
    | (with_reducible apply Keeps.via (setReduced_keeps ..); (· decide)) | (with_reducible apply Keeps.ras; (· decide))

theorem openGap_keeps (s a1 a2) : Keeps [.parts] s (openGap s a1 a2) := by
  unfold openGap
  try dsimp -proj only
  repeat' first
    | with_reducible apply Keeps.ite | with_reducible apply Keeps.rfl'
    | (with_reducible apply Keeps.via (modPart_keeps ..); (· decide))
    | (with_reducible apply Keeps.via (dropComposed_keeps ..); (· decide))

theorem beginOther_keeps (s a1) : Keeps [.parts, .hif, .log, .ras] s (beginOther s a1) := by
  unfold beginOther
  try dsimp -proj only
  repeat' first
    | with_reducible apply Keeps.foldl | intro t_ x_ | with_reducible apply Keeps.rfl'
    | (with_reducible apply Keeps.via (handCore_keeps ..); (· decide))
    | (with_reducible apply Keeps.via (beginTest_keeps ..); (· decide))
    | (with_reducible apply Keeps.via (openGap_keeps ..); (· decide)) | split

theorem unitPass_keeps (s a1 a2) : Keeps [.hif, .log, .ras] s (unitPass s a1 a2) := by
  unfold unitPass
  try dsimp -proj only
  repeat' first
    | with_reducible apply Keeps.rfl' | (with_reducible apply Keeps.via (pushErr_keeps ..); (· decide))
    | (with_reducible apply Keeps.via (setUnit_keeps ..); (· decide))
    | (with_reducible apply Keeps.via (unitTo_keeps ..); (· decide))
    | (with_reducible apply Keeps.via (homeCores_keeps ..); (· decide)) | split

theorem settleUnit_keeps (s a1 a2 a3) : Keeps [.tiles, .mem, .cmp, .parts, .slots, .hif, .log, .lnk, .ras] s (settleUnit s a1 a2 a3) := by
  unfold settleUnit
  try dsimp -proj only
  repeat' first
    | with_reducible apply Keeps.ite | with_reducible apply Keeps.rfl'
    | (with_reducible apply Keeps.via (fenceAny_keeps ..); (· decide))
    | (with_reducible apply Keeps.via (unitPass_keeps ..); (· decide))

theorem endTest_keeps (s a1 a2) : Keeps [.tiles, .mem, .cmp, .parts, .slots, .hif, .log, .lnk, .ras] s (endTest s a1 a2) := by
  unfold endTest
  try simp -proj only [mk_putRas]
  repeat' first
    | with_reducible apply Keeps.ite | intro t_ x_ | with_reducible apply Keeps.rfl'
    | (with_reducible apply Keeps.via (modPart_keeps ..); (· decide))
    | (with_reducible apply Keeps.via (pushErr_keeps ..); (· decide)) | (with_reducible apply forParts_keeps; (· decide))
    | (with_reducible apply Keeps.via (fenceAny_keeps ..); (· decide))
    | (with_reducible apply Keeps.via (unitPass_keeps ..); (· decide)) | (with_reducible apply Keeps.ras; (· decide))

theorem trackedBy_keeps (s a1) : Keeps [.ras] s (trackedBy s a1) := by
  unfold trackedBy
  try dsimp -proj only
  repeat' first
    | with_reducible apply Keeps.ite | with_reducible apply Keeps.rfl'
    | (with_reducible apply Keeps.via (handSlot_keeps ..); (· decide))

theorem endSession_keeps (s a1) : Keeps [.pwr, .tiles, .parts, .ras] s (endSession s a1) := by
  unfold endSession
  try simp -proj only [mk_putRas]
  repeat' first
    | intro t_ x_ | with_reducible apply Keeps.rfl' | (with_reducible apply Keeps.via (modPart_keeps ..); (· decide))
    | (with_reducible apply Keeps.via (modTile_keeps ..); (· decide)) | (with_reducible apply forParts_keeps; (· decide))
    | (with_reducible apply Keeps.via (setReduced_keeps ..); (· decide)) | (with_reducible apply Keeps.ras; (· decide))

theorem applyStaged_keeps (s a1 a2) : Keeps [.mem, .parts, .hif, .log, .ras, .boot, .sec, .side] s (applyStaged s a1 a2) := by
  unfold applyStaged
  try dsimp -proj only
  repeat' first
    | with_reducible apply Keeps.foldl | intro t_ x_ | with_reducible apply Keeps.rfl'
    | (with_reducible apply Keeps.via (modPart_keeps ..); (· decide))
    | (with_reducible apply Keeps.via (pushLedger_keeps ..); (· decide))
    | (with_reducible apply Keeps.via (fldSet_keeps ..); (· decide)) | split

theorem storeErr_keeps (s a1 a2 a3) : Keeps [.tiles, .mem, .cmp, .parts, .slots, .hif, .log, .lnk, .ras] s (storeErr s a1 a2 a3) := by
  unfold storeErr
  try dsimp -proj only
  repeat' first
    | intro t_ | with_reducible apply Keeps.rfl' | (with_reducible apply Keeps.via (modTile_keeps ..); (· decide))
    | (with_reducible apply countFault_keeps; (· decide)) | (with_reducible apply Keeps.via (rerunFault_keeps ..); (· decide))
    | (with_reducible apply Keeps.via (tileErr_keeps ..); (· decide))
    | (with_reducible apply Keeps.via (tileErrOnce_keeps ..); (· decide)) | split

theorem waitOut_keeps (s a1) : Keeps [.tiles, .parts] s (waitOut s a1) := by
  unfold waitOut
  try dsimp -proj only
  repeat' first
    | with_reducible apply Keeps.ite | with_reducible apply Keeps.rfl'
    | (with_reducible apply Keeps.via (abandonNow_keeps ..); (· decide))

theorem retire_keeps (s a1 a2) : Keeps [.tiles, .mem, .cmp, .parts, .slots, .hif, .log, .lnk, .ras] s (retire s a1 a2) := by
  unfold retire
  try dsimp -proj only
  repeat' first
    | with_reducible apply Keeps.rfl' | (with_reducible apply Keeps.via (modTile_keeps ..); (· decide))
    | (with_reducible apply Keeps.via (dropInfl_keeps ..); (· decide))
    | (with_reducible apply Keeps.via (settle_keeps ..); (· decide))

theorem issueOp_keeps (s a1 a2 a3 a4 a5 a6) : Keeps [.tiles, .cmp, .parts, .hif, .log, .ras] s (issueOp s a1 a2 a3 a4 a5 a6).1 := by
  unfold issueOp
  try dsimp -proj only
  repeat' first
    | with_reducible apply Keeps.iteFst | with_reducible apply Keeps.rfl'
    | (with_reducible apply Keeps.via (setTile_keeps ..); (· decide))
    | (with_reducible apply Keeps.via (holdAt_keeps ..); (· decide))
    | (with_reducible apply Keeps.via (progFault_keeps ..); (· decide))
    | (with_reducible apply Keeps.via (runaway_keeps ..); (· decide)) | split
theorem issueOp_keeps_eq {s a1 a2 a3 a4 a5 a6 u v} (h : (issueOp s a1 a2 a3 a4 a5 a6) = (u, v)) : Keeps [.tiles, .cmp, .parts, .hif, .log, .ras] s u := by
  have k := issueOp_keeps s a1 a2 a3 a4 a5 a6
  rw [h] at k
  exact k

theorem issue_keeps (s a1 a2 a3 a4 a5 a6) : Keeps [.tiles, .mem, .cmp, .parts, .slots, .hif, .log, .lnk, .ras] s (issue s a1 a2 a3 a4 a5 a6) := by
  unfold issue
  try dsimp -proj only
  repeat' first
    | with_reducible apply Keeps.ite | with_reducible apply Keeps.rfl'
    | (with_reducible apply Keeps.via (noticeDue_keeps ..); (· decide))
    | (with_reducible apply Keeps.via (settle_keeps ..); (· decide))
    | (with_reducible apply Keeps.via (issueOp_keeps ..); (· decide))

theorem ctlIssueNow_keeps {l : List Block} {s t : State} {n : Nat} {i : Instr} {c : Nat} {k : Tile → Check} {f : Tile → List Rng → State}
    (hk : ∀ b ∈ ([.tiles, .cmp, .parts, .hif, .log, .ras] : List Block), b ∈ l) (h : ∀ x g, Keeps l s (f x g)) (g : Keeps l s t) :
    Keeps l s (ctlIssueNow t n i c k f) := by
  unfold ctlIssueNow
  refine ctlIssue_keeps hk (fun x y => ?_) g
  split
  · exact h x y
  · exact (holdAt_keeps ..).via (fun b_ m_ => hk b_ (by revert b_; decide)) g


theorem fnReset_keeps (s a1) : Keeps [.hif, .log] s (fnReset s a1) := by
  unfold fnReset
  try dsimp -proj only
  repeat' first
    | with_reducible apply Keeps.foldl | intro t_ x_ | with_reducible apply Keeps.rfl'
    | (with_reducible apply Keeps.via (modFn_keeps ..); (· decide))
    | (with_reducible apply Keeps.via (modRing_keeps ..); (· decide))
    | (with_reducible apply Keeps.via (setRingSt_keeps ..); (· decide))

theorem vfsOff_keeps (s) : Keeps [.hif, .log] s (vfsOff s) := by
  unfold vfsOff
  try simp -proj only [mk_putHif]
  repeat' first
    | with_reducible apply Keeps.foldl | intro t_ x_ | with_reducible apply Keeps.rfl'
    | (with_reducible apply Keeps.via (fnReset_keeps ..); (· decide)) | (with_reducible apply Keeps.hif; (· decide))

theorem pf0Reset_keeps (s) : Keeps [.hif, .log] s (pf0Reset s) := by
  unfold pf0Reset
  try simp -proj only [mk_putHif]
  repeat' first
    | with_reducible apply Keeps.rfl' | (with_reducible apply Keeps.via (fnReset_keeps ..); (· decide))
    | (with_reducible apply Keeps.via (vfsOff_keeps ..); (· decide)) | (with_reducible apply Keeps.hif; (· decide))

theorem noBar_keeps (s a1 a2) : Keeps [.hif, .log, .ras] s (noBar s a1 a2) := by
  unfold noBar
  try dsimp -proj only
  repeat' first
    | intro t_ | with_reducible apply Keeps.rfl' | (with_reducible apply Keeps.via (emit_keeps ..); (· decide))
    | (with_reducible apply Keeps.via (pushErr_keeps ..); (· decide)) | (with_reducible apply violate_keeps; (· decide))

theorem bar4No_keeps (s a1 a2 a3 a4) : Keeps [.hif, .log, .ras] s (bar4No s a1 a2 a3 a4) := by
  unfold bar4No
  try dsimp -proj only
  repeat' first
    | intro t_ | with_reducible apply Keeps.rfl' | (with_reducible apply Keeps.via (emit_keeps ..); (· decide))
    | (with_reducible apply Keeps.via (pushErr_keeps ..); (· decide)) | (with_reducible apply violate_keeps; (· decide))

theorem bar4Poison_keeps (s a1 a2) : Keeps [.hif, .log, .ras] s (bar4Poison s a1 a2) := by
  unfold bar4Poison
  try dsimp -proj only
  repeat' first
    | with_reducible apply Keeps.rfl' | (with_reducible apply Keeps.via (pushErr_keeps ..); (· decide))

theorem absentWrite_keeps (s a1) : Keeps [.hif, .log, .ras] s (absentWrite s a1) := by
  unfold absentWrite
  try dsimp -proj only
  repeat' first
    | intro t_ | with_reducible apply Keeps.rfl' | (with_reducible apply Keeps.via (pushErr_keeps ..); (· decide))
    | (with_reducible apply violate_keeps; (· decide))

theorem unhold_keeps (s a1 a2) : Keeps [.parts, .slots] s (unhold s a1 a2) := by
  unfold unhold
  try dsimp -proj only
  repeat' first
    | with_reducible apply Keeps.rfl' | (with_reducible apply Keeps.via (modSlot_keeps ..); (· decide))
    | (with_reducible apply Keeps.via (modPart_keeps ..); (· decide)) | split

theorem drainCpls_keeps (s a1) : Keeps [.parts, .slots, .hif, .log, .ras] s (drainCpls s a1) := by
  unfold drainCpls
  try dsimp -proj only
  repeat' first
    | with_reducible apply Keeps.ite | with_reducible apply Keeps.foldl | intro t_ x_ | with_reducible apply Keeps.rfl'
    | (with_reducible apply Keeps.via (cplPut_keeps ..); (· decide))
    | (with_reducible apply Keeps.via (unhold_keeps ..); (· decide))

theorem noteFull_keeps (s a1) : Keeps [.parts, .hif, .log, .ras] s (noteFull s a1) := by
  unfold noteFull
  try dsimp -proj only
  repeat' first
    | with_reducible apply Keeps.ite | with_reducible apply Keeps.rfl'
    | (with_reducible apply Keeps.via (modPart_keeps ..); (· decide))
    | (with_reducible apply Keeps.via (pushErr_keeps ..); (· decide))

theorem outPut_keeps (s a1 a2) : Keeps [.hif, .log, .ras] s (outPut s a1 a2) := by
  unfold outPut
  try dsimp -proj only
  repeat' first
    | with_reducible apply Keeps.rfl' | (with_reducible apply Keeps.via (flushErrs_keeps ..); (· decide))
    | (with_reducible apply Keeps.via (ringPut_keeps ..); (· decide))

theorem drainRelayed_keeps (a0 s a2) : Keeps [.parts, .hif, .log, .ras] s (drainRelayed a0 s a2) := by
  induction a0 generalizing s a2 with
  | zero => exact Keeps.rfl'
  | succ n_ ih =>
    unfold drainRelayed
    try dsimp -proj only
    repeat' first
      | with_reducible apply Keeps.ite | (with_reducible apply Keeps.via (ih ..); (· decide)) | with_reducible apply Keeps.rfl'
      | (with_reducible apply Keeps.via (modPart_keeps ..); (· decide))
      | (with_reducible apply Keeps.via (noteFull_keeps ..); (· decide))
      | (with_reducible apply Keeps.via (outPut_keeps ..); (· decide)) | split

theorem lateCheck_keeps (s a1 a2) : Keeps [.parts, .hif, .log, .ras] s (lateCheck s a1 a2) := by
  unfold lateCheck
  try dsimp -proj only
  repeat' first
    | with_reducible apply Keeps.ite | with_reducible apply Keeps.rfl'
    | (with_reducible apply Keeps.via (modPart_keeps ..); (· decide))
    | (with_reducible apply Keeps.via (pushErr_keeps ..); (· decide))

theorem tokenWrite_keeps (s a1 a2 a3) : Keeps [.parts, .slots, .hif, .log, .ras] s (tokenWrite s a1 a2 a3) := by
  unfold tokenWrite
  try dsimp -proj only
  repeat' first
    | with_reducible apply Keeps.rfl' | (with_reducible apply Keeps.via (modSlot_keeps ..); (· decide))
    | (with_reducible apply Keeps.via (noteFull_keeps ..); (· decide))
    | (with_reducible apply Keeps.via (outPut_keeps ..); (· decide))
    | (with_reducible apply Keeps.via (lateCheck_keeps ..); (· decide))

theorem drainSlot_keeps (a0 s a2) : Keeps [.parts, .slots, .hif, .log, .ras] s (drainSlot a0 s a2) := by
  induction a0 generalizing s a2 with
  | zero => exact Keeps.rfl'
  | succ n_ ih =>
    unfold drainSlot
    try dsimp -proj only
    repeat' first
      | with_reducible apply Keeps.ite | (with_reducible apply Keeps.via (ih ..); (· decide)) | with_reducible apply Keeps.rfl'
      | (with_reducible apply Keeps.via (modSlot_keeps ..); (· decide))
      | (with_reducible apply Keeps.via (tokenWrite_keeps ..); (· decide)) | split

theorem handoffDue_keeps (s a1) : Keeps [.slots] s (handoffDue s a1) := by
  unfold handoffDue
  try dsimp -proj only
  repeat' first
    | with_reducible apply Keeps.rfl' | (with_reducible apply Keeps.via (modSlot_keeps ..); (· decide))

theorem drainTokens_keeps (s a1) : Keeps [.parts, .slots, .hif, .log, .lnk, .ras] s (drainTokens s a1) := by
  unfold drainTokens
  try dsimp -proj only
  repeat' first
    | with_reducible apply Keeps.ite | with_reducible apply Keeps.foldl | intro t_ x_ | with_reducible apply Keeps.rfl'
    | (with_reducible apply Keeps.via (modPart_keeps ..); (· decide))
    | (with_reducible apply Keeps.via (postFinal_keeps ..); (· decide))
    | (with_reducible apply Keeps.via (drainRelayed_keeps ..); (· decide))
    | (with_reducible apply Keeps.via (drainSlot_keeps ..); (· decide))
    | (with_reducible apply Keeps.via (handoffDue_keeps ..); (· decide))

theorem drainRing_keeps (s a1 a2) : Keeps [.parts, .slots, .hif, .log, .lnk, .ras] s (drainRing s a1 a2) := by
  unfold drainRing
  try dsimp -proj only
  repeat' first
    | with_reducible apply Keeps.ite | with_reducible apply Keeps.rfl'
    | (with_reducible apply Keeps.via (drainCpls_keeps ..); (· decide))
    | (with_reducible apply Keeps.via (drainTokens_keeps ..); (· decide))

theorem ringAck_keeps (s a1 a2 a3) : Keeps [.parts, .slots, .hif, .log, .lnk, .ras] s (ringAck s a1 a2 a3) := by
  unfold ringAck
  try dsimp -proj only
  repeat' first
    | with_reducible apply Keeps.rfl' | (with_reducible apply Keeps.via (modRing_keeps ..); (· decide))
    | (with_reducible apply Keeps.via (drainRing_keeps ..); (· decide))

theorem doorbell_keeps (s a1 a2 a3 a4) : Keeps [.parts, .slots, .hif, .log, .lnk, .ras] s (doorbell s a1 a2 a3 a4) := by
  unfold doorbell
  try dsimp -proj only
  repeat' first
    | with_reducible apply Keeps.ite | intro t_ | with_reducible apply Keeps.rfl'
    | (with_reducible apply Keeps.via (pushErr_keeps ..); (· decide))
    | (with_reducible apply Keeps.via (modRing_keeps ..); (· decide))
    | (with_reducible apply Keeps.via (ringTo_keeps ..); (· decide)) | (with_reducible apply violate_keeps; (· decide))
    | (with_reducible apply Keeps.via (ringAck_keeps ..); (· decide))

theorem dbWrite_keeps (s a1 a2 a3 a4) : Keeps [.pwr, .parts, .slots, .hif, .log, .lnk, .ras] s (dbWrite s a1 a2 a3 a4) := by
  unfold dbWrite
  try dsimp -proj only
  repeat' first
    | with_reducible apply Keeps.ite | intro t_ | with_reducible apply Keeps.rfl'
    | (with_reducible apply Keeps.via (pushErr_keeps ..); (· decide))
    | (with_reducible apply Keeps.via (modRing_keeps ..); (· decide)) | (with_reducible apply violate_keeps; (· decide))
    | (with_reducible apply Keeps.via (wakeUp_keeps ..); (· decide))
    | (with_reducible apply Keeps.via (absentWrite_keeps ..); (· decide))
    | (with_reducible apply Keeps.via (doorbell_keeps ..); (· decide))

theorem latchedBell_keeps (a0 s a2) : Keeps [.pwr, .parts, .slots, .hif, .log, .lnk, .ras] s (latchedBell a0 s a2) := by
  unfold latchedBell
  try dsimp -proj only
  repeat' first
    | with_reducible apply Keeps.rfl' | (with_reducible apply Keeps.via (modRing_keeps ..); (· decide))
    | (with_reducible apply Keeps.via (dbWrite_keeps ..); (· decide)) | split

theorem refuseUnknown_keeps (s a1 a2) : Keeps [.parts, .hif, .log, .lnk, .ras] s (refuseUnknown s a1 a2) := by
  unfold refuseUnknown
  try dsimp -proj only
  repeat' first
    | with_reducible apply Keeps.rfl' | (with_reducible apply Keeps.via (refuseCmd_keeps ..); (· decide))
    | (with_reducible apply Keeps.via (takeCmd_keeps ..); (· decide))

theorem takeOne_keeps (a0 a1 a2 s a4) : Keeps [.parts, .hif, .log, .lnk, .ras] s (takeOne a0 a1 a2 s a4) := by
  unfold takeOne
  try simp -proj only [mk_putHif]
  repeat' first
    | with_reducible apply Keeps.ite | with_reducible apply Keeps.rfl'
    | (with_reducible apply Keeps.via (journal_keeps ..); (· decide))
    | (with_reducible apply Keeps.via (modRing_keeps ..); (· decide))
    | (with_reducible apply Keeps.via (refuseUnknown_keeps ..); (· decide)) | (with_reducible apply Keeps.hif; (· decide))

theorem forwardOne_keeps (a0 a1 a2 s a4) : Keeps [.parts, .hif, .log, .lnk, .ras] s (forwardOne a0 a1 a2 s a4) := by
  unfold forwardOne
  try dsimp -proj only
  repeat' first
    | with_reducible apply Keeps.ite | with_reducible apply Keeps.rfl'
    | (with_reducible apply Keeps.via (modRing_keeps ..); (· decide))
    | (with_reducible apply Keeps.via (newFlow_keeps ..); (· decide))
    | (with_reducible apply Keeps.via (sendVc0_keeps ..); (· decide))
    | (with_reducible apply Keeps.via (takeOne_keeps ..); (· decide))

theorem mbxRefuse_keeps (s a1 a2 a3) : Keeps [.hif, .log, .ras] s (mbxRefuse s a1 a2 a3) := by
  unfold mbxRefuse
  try dsimp -proj only
  repeat' first
    | with_reducible apply Keeps.rfl' | (with_reducible apply Keeps.via (mbxAnswer_keeps ..); (· decide))

theorem mbxUnknown_keeps (s a1 a2) : Keeps [.parts, .hif, .log, .lnk, .ras] s (mbxUnknown s a1 a2) := by
  unfold mbxUnknown
  try dsimp -proj only
  repeat' first
    | with_reducible apply Keeps.rfl' | (with_reducible apply Keeps.via (refuseUnknown_keeps ..); (· decide))

theorem mbxViolate_keeps {l : List Block} {s t : State} {k : Nat} {f : State → State} (hk : ∀ b ∈ ([.hif, .log, .ras] : List Block), b ∈ l) (h : ∀ t, Keeps l t (f t))
    (g : Keeps l s t) : Keeps l s (mbxViolate t k f) := by
  unfold mbxViolate
  try dsimp -proj only
  repeat' first
    | with_reducible apply g | with_reducible apply h
    | (with_reducible apply Keeps.via (modFn_keeps ..); (· intro b_ m_; exact hk b_ (by revert b_; decide)))
    | (with_reducible apply violate_keeps; (· intro b_ m_; exact hk b_ (by revert b_; decide)))


theorem mbxGo_keeps (s a1 a2) : Keeps [.pwr, .parts, .hif, .log, .lnk, .ras] s (mbxGo s a1 a2) := by
  unfold mbxGo
  try dsimp -proj only
  repeat' first
    | with_reducible apply Keeps.ite | intro t_ | with_reducible apply Keeps.rfl'
    | (with_reducible apply Keeps.via (modFn_keeps ..); (· decide))
    | (with_reducible apply Keeps.via (pushErr_keeps ..); (· decide))
    | (with_reducible apply Keeps.via (sendVc0_keeps ..); (· decide))
    | (with_reducible apply Keeps.via (wakeUp_keeps ..); (· decide))
    | (with_reducible apply Keeps.via (absentWrite_keeps ..); (· decide))
    | (with_reducible apply Keeps.via (mbxRefuse_keeps ..); (· decide))
    | (with_reducible apply Keeps.via (mbxUnknown_keeps ..); (· decide)) | (with_reducible apply mbxViolate_keeps; (· decide))

theorem mbxDb_keeps (s a1 a2 a3) : Keeps [.pwr, .parts, .hif, .log, .lnk, .ras] s (mbxDb s a1 a2 a3) := by
  unfold mbxDb
  try dsimp -proj only
  repeat' first
    | with_reducible apply Keeps.ite | with_reducible apply Keeps.same | intro t_ | with_reducible apply Keeps.rfl'
    | (with_reducible apply Keeps.via (absentWrite_keeps ..); (· decide)) | (with_reducible apply mbxViolate_keeps; (· decide))
    | (with_reducible apply Keeps.via (mbxGo_keeps ..); (· decide))

theorem relayRecord_keeps (s a1) : Keeps [.hif, .log, .ras] s (relayRecord s a1) := by
  unfold relayRecord
  try dsimp -proj only
  repeat' first
    | with_reducible apply Keeps.rfl' | (with_reducible apply Keeps.via (pushErr_keeps ..); (· decide))

theorem msixWrite_keeps (s a1 a2 a3 a4) : Keeps [.hif] s (msixWrite s a1 a2 a3 a4) := by
  unfold msixWrite
  try dsimp -proj only
  repeat' first
    | with_reducible apply Keeps.ite | with_reducible apply Keeps.foldl | intro t_ x_ | with_reducible apply Keeps.rfl'
    | (with_reducible apply Keeps.via (modFn_keeps ..); (· decide))
    | (with_reducible apply Keeps.via (fire_keeps ..); (· decide))

theorem mbxCmdWrite_keeps (s a1 a2 a3 a4) : Keeps [.hif] s (mbxCmdWrite s a1 a2 a3 a4) := by
  unfold mbxCmdWrite
  try dsimp -proj only
  repeat' first
    | with_reducible apply Keeps.rfl' | (with_reducible apply Keeps.via (modFn_keeps ..); (· decide))

theorem mbxStatusWrite_keeps (s a1 a2) : Keeps [.hif] s (mbxStatusWrite s a1 a2) := by
  unfold mbxStatusWrite
  try dsimp -proj only
  repeat' first
    | with_reducible apply Keeps.rfl' | (with_reducible apply Keeps.via (modFn_keeps ..); (· decide))

theorem writeViol_keeps {l : List Block} {s t : State} {o : Origin} {f : State → State} (hk : ∀ b ∈ ([.hif, .log, .ras] : List Block), b ∈ l) (h : ∀ t, Keeps l t (f t))
    (g : Keeps l s t) : Keeps l s (writeViol t o f) := by
  unfold writeViol
  try dsimp -proj only
  repeat' first
    | with_reducible apply g | with_reducible apply h | (with_reducible apply Keeps.trans' ?_ (h _))
    | (with_reducible apply violate_keeps; (· intro b_ m_; exact hk b_ (by revert b_; decide))) | split


theorem writeIgnored_keeps (s a1 a2 a3 a4) : Keeps [.log] s (writeIgnored s a1 a2 a3 a4) := by
  unfold writeIgnored
  try dsimp -proj only
  repeat' first
    | with_reducible apply Keeps.ite | with_reducible apply Keeps.rfl'
    | (with_reducible apply Keeps.via (ledger_keeps ..); (· decide))

theorem writeField_keeps (s a1 a2 a3 a4 a5 a6) : Keeps [.mem, .parts, .hif, .log, .ras, .boot, .sec, .side] s (writeField s a1 a2 a3 a4 a5 a6) := by
  unfold writeField
  try dsimp -proj only
  repeat' first
    | with_reducible apply Keeps.ite | intro t_ | with_reducible apply Keeps.rfl'
    | (with_reducible apply Keeps.via (pushErr_keeps ..); (· decide))
    | (with_reducible apply Keeps.via (ledger_keeps ..); (· decide))
    | (with_reducible apply Keeps.via (fldSet_keeps ..); (· decide))
    | (with_reducible apply Keeps.via (stageStep_keeps ..); (· decide)) | (with_reducible apply writeViol_keeps; (· decide))
    | dsimp only | split

theorem writeAction_keeps_eq {s a1 a2 a3 a4 u} (h : (writeAction s a1 a2 a3 a4) = some u) : Keeps [.pwr, .tiles, .mem, .exps, .cmp, .parts, .slots, .hif, .log, .lnk, .ras, .boot, .sec] s u := by
  revert h
  unfold writeAction
  try simp -proj only [mk_putRas, mk_putSec]
  intro h
  (repeat' (split at h)) <;> (try cases h)
  repeat' first
    | with_reducible apply Keeps.rfl' | (with_reducible apply Keeps.via (drawFree_keeps ..); (· decide))
    | (with_reducible apply Keeps.via (ledger_keeps ..); (· decide))
    | (with_reducible apply Keeps.via (imgWrite_keeps ..); (· decide))
    | (with_reducible apply Keeps.via (regLedger_keeps ..); (· decide))
    | (with_reducible apply Keeps.via (fwAct_keeps ..); (· decide))
    | (with_reducible apply Keeps.via (rebootNow_keeps ..); (· decide))
    | (with_reducible apply Keeps.via (commitGo_keeps ..); (· decide))
    | (with_reducible apply Keeps.via (retrainPort_keeps ..); (· decide))
    | (with_reducible apply Keeps.via (revokeGo_keeps ..); (· decide))
    | (with_reducible apply Keeps.via (sleepAsk_keeps ..); (· decide))
    | (with_reducible apply Keeps.via (unfence_keeps ..); (· decide))
    | (with_reducible apply Keeps.via (wakeAsk_keeps ..); (· decide)) | (with_reducible apply Keeps.ras; (· decide))
    | (with_reducible apply Keeps.sec; (· decide))

theorem writeWhole_keeps (s a1 a2 a3 a4) : Keeps [.mem, .parts, .hif, .log, .ras, .boot, .sec, .side] s (writeWhole s a1 a2 a3 a4) := by
  unfold writeWhole
  try simp -proj only [mk_putLog]
  repeat' first
    | with_reducible apply Keeps.ite | with_reducible apply Keeps.foldl | with_reducible apply Keeps.same | intro t_ x_
    | intro t_ | with_reducible apply Keeps.rfl' | (with_reducible apply writeViol_keeps; (· decide))
    | (with_reducible apply Keeps.via (writeIgnored_keeps ..); (· decide))
    | (with_reducible apply Keeps.via (writeField_keeps ..); (· decide)) | (with_reducible apply Keeps.log; (· decide)) | split

theorem writeBar0_keeps (s a1 a2 a3 a4) : Keeps [.pwr, .tiles, .mem, .exps, .cmp, .parts, .slots, .hif, .log, .lnk, .ras, .boot, .sec, .side] s (writeBar0 s a1 a2 a3 a4) := by
  unfold writeBar0
  try simp -proj only [mk_putHalves]
  repeat' first
    | with_reducible apply Keeps.ite | with_reducible apply Keeps.same | intro t_ | with_reducible apply Keeps.rfl'
    | (with_reducible apply Keeps.via (ledger_keeps ..); (· decide))
    | (with_reducible apply Keeps.via (mbxGo_keeps ..); (· decide))
    | (with_reducible apply Keeps.via (msixWrite_keeps ..); (· decide))
    | (with_reducible apply Keeps.via (mbxCmdWrite_keeps ..); (· decide))
    | (with_reducible apply Keeps.via (mbxStatusWrite_keeps ..); (· decide))
    | (with_reducible apply writeViol_keeps; (· decide)) | (with_reducible apply Keeps.via (writeIgnored_keeps ..); (· decide))
    | (with_reducible apply Keeps.via (writeWhole_keeps ..); (· decide)) | (with_reducible apply Keeps.halves)
    | with_reducible refine Keeps.via (writeAction_keeps_eq (by assumption)) (by decide) ?_ | split

theorem writeVf_keeps (s a1 a2 a3 a4) : Keeps [.pwr, .parts, .hif, .log, .lnk, .ras] s (writeVf s a1 a2 a3 a4) := by
  unfold writeVf
  try dsimp -proj only
  repeat' first
    | with_reducible apply Keeps.ite | with_reducible apply Keeps.same | intro t_ | with_reducible apply Keeps.rfl'
    | (with_reducible apply violate_keeps; (· decide)) | (with_reducible apply Keeps.via (absentWrite_keeps ..); (· decide))
    | (with_reducible apply Keeps.via (mbxDb_keeps ..); (· decide))
    | (with_reducible apply Keeps.via (msixWrite_keeps ..); (· decide))
    | (with_reducible apply Keeps.via (mbxCmdWrite_keeps ..); (· decide))
    | (with_reducible apply Keeps.via (mbxStatusWrite_keeps ..); (· decide))

theorem pageWrite_keeps (s a1 a2 a3 a4 a5) : Keeps [.pwr, .parts, .slots, .hif, .log, .lnk, .ras] s (pageWrite s a1 a2 a3 a4 a5) := by
  unfold pageWrite
  try dsimp -proj only
  repeat' first
    | with_reducible apply Keeps.ite | with_reducible apply Keeps.same | intro t_ | with_reducible apply Keeps.rfl'
    | (with_reducible apply violate_keeps; (· decide)) | (with_reducible apply Keeps.via (absentWrite_keeps ..); (· decide))
    | (with_reducible apply Keeps.via (dbWrite_keeps ..); (· decide)) | split

theorem regWrite_keeps (a0 a1 a2 a3 a4 s) : Keeps [.pwr, .tiles, .mem, .exps, .cmp, .parts, .slots, .hif, .log, .lnk, .ras, .boot, .sec, .side] s (regWrite a0 a1 a2 a3 a4 s) := by
  unfold regWrite
  try dsimp -proj only
  repeat' first
    | with_reducible apply Keeps.ite | with_reducible apply Keeps.same | intro t_ | with_reducible apply Keeps.rfl'
    | (with_reducible apply violate_keeps; (· decide)) | (with_reducible apply Keeps.via (absentWrite_keeps ..); (· decide))
    | (with_reducible apply writeViol_keeps; (· decide)) | (with_reducible apply Keeps.via (writeIgnored_keeps ..); (· decide))
    | (with_reducible apply Keeps.via (writeBar0_keeps ..); (· decide))
    | (with_reducible apply Keeps.via (writeVf_keeps ..); (· decide))
    | (with_reducible apply Keeps.via (pageWrite_keeps ..); (· decide)) | split

theorem handoffPages_keeps (s a1 a2) : Keeps [.lnk] s (handoffPages s a1 a2) := by
  unfold handoffPages
  try dsimp -proj only
  repeat' first
    | with_reducible apply Keeps.rfl' | (with_reducible apply Keeps.via (newFlow_keeps ..); (· decide)) | split

theorem dropRemote_keeps (s a1 a2) : Keeps [.parts] s (dropRemote s a1 a2) := by
  unfold dropRemote
  try dsimp -proj only
  repeat' first
    | with_reducible apply Keeps.rfl' | (with_reducible apply Keeps.via (modPart_keeps ..); (· decide))

theorem spillDone_keeps (s a1 a2) : Keeps [.parts] s (spillDone s a1 a2) := by
  unfold spillDone
  try dsimp -proj only
  repeat' first
    | with_reducible apply Keeps.rfl' | (with_reducible apply Keeps.via (modPart_keeps ..); (· decide)) | split

theorem countPort_keeps {l : List Block} {s t : State} {p : Nat} {f : State → State} (hk : ∀ b ∈ ([.tiles, .mem, .cmp, .parts, .slots, .hif, .log, .lnk, .ras] : List Block), b ∈ l) (h : ∀ t, Keeps l t (f t))
    (g : Keeps l s t) : Keeps l s (countPort t p f) := by
  unfold countPort
  try dsimp -proj only
  repeat' first
    | with_reducible apply g | with_reducible apply h | with_reducible apply Keeps.ite
    | (with_reducible apply countFault_keeps; (· intro b_ m_; exact hk b_ (by revert b_; decide)))
    | (with_reducible apply Keeps.via (portFenced_keeps ..); (· intro b_ m_; exact hk b_ (by revert b_; decide)))


theorem portDown_keeps (s a1) : Keeps [.tiles, .mem, .cmp, .parts, .slots, .hif, .log, .lnk, .ras] s (portDown s a1) := by
  unfold portDown
  try dsimp -proj only
  repeat' first
    | intro t_ | with_reducible apply Keeps.rfl' | (with_reducible apply Keeps.via (pushErr_keeps ..); (· decide))
    | (with_reducible apply Keeps.via (modPort_keeps ..); (· decide))
    | (with_reducible apply Keeps.via (portOut_keeps ..); (· decide)) | (with_reducible apply countPort_keeps; (· decide))

theorem linkReset_keeps (s a1 a2) : Keeps [.tiles, .mem, .cmp, .parts, .slots, .hif, .log, .lnk, .ras] s (linkReset s a1 a2) := by
  unfold linkReset
  try dsimp -proj only
  repeat' first
    | with_reducible apply Keeps.ite | intro t_ | with_reducible apply Keeps.rfl'
    | (with_reducible apply Keeps.via (pushErr_keeps ..); (· decide))
    | (with_reducible apply Keeps.via (declareEvent_keeps ..); (· decide))
    | (with_reducible apply Keeps.via (modPort_keeps ..); (· decide))
    | (with_reducible apply Keeps.via (pumpFlows_keeps ..); (· decide)) | (with_reducible apply countPort_keeps; (· decide))

theorem setWidth_keeps (s a1 a2) : Keeps [.parts, .slots, .hif, .log, .lnk, .ras] s (setWidth s a1 a2) := by
  unfold setWidth
  try dsimp -proj only
  repeat' first
    | with_reducible apply Keeps.ite | with_reducible apply Keeps.rfl'
    | (with_reducible apply Keeps.via (pushErr_keeps ..); (· decide))
    | (with_reducible apply Keeps.via (declareEvent_keeps ..); (· decide))
    | (with_reducible apply Keeps.via (modPort_keeps ..); (· decide))

theorem dropLane_keeps (s a1 a2) : Keeps [.tiles, .mem, .cmp, .parts, .slots, .hif, .log, .lnk, .ras] s (dropLane s a1 a2) := by
  unfold dropLane
  try dsimp -proj only
  repeat' first
    | with_reducible apply Keeps.ite | with_reducible apply Keeps.rfl'
    | (with_reducible apply Keeps.via (modPort_keeps ..); (· decide))
    | (with_reducible apply Keeps.via (sendControl_keeps ..); (· decide))
    | (with_reducible apply Keeps.via (portDown_keeps ..); (· decide))
    | (with_reducible apply Keeps.via (setWidth_keeps ..); (· decide))

theorem replay_keeps (s a1) : Keeps [.tiles, .mem, .cmp, .parts, .slots, .hif, .log, .lnk, .ras] s (replay s a1) := by
  unfold replay
  try dsimp -proj only
  repeat' first
    | with_reducible apply Keeps.ite | with_reducible apply Keeps.rfl'
    | (with_reducible apply Keeps.via (modPort_keeps ..); (· decide))
    | (with_reducible apply Keeps.via (dropLane_keeps ..); (· decide))

theorem withCmd_keeps {l : List Block} {s t : State} {x : Src} {k : Nat} {c : State → Option No} {f : State → Nat → State} (hk : ∀ b ∈ ([.parts, .hif, .log, .lnk, .ras] : List Block), b ∈ l) (h : ∀ t x, Keeps l t (f t x))
    (g : Keeps l s t) : Keeps l s (withCmd t x k c f) := by
  unfold withCmd
  try dsimp -proj only
  repeat' first
    | with_reducible apply g | (with_reducible apply Keeps.trans' ?_ (h _ _))
    | (with_reducible apply Keeps.via (refuseCmd_keeps ..); (· intro b_ m_; exact hk b_ (by revert b_; decide)))
    | (with_reducible apply Keeps.via (takeCmd_keeps ..); (· intro b_ m_; exact hk b_ (by revert b_; decide))) | split


theorem loadTable_keeps (s a1 a2 a3 a4 a5) : Keeps [.cmp, .hif, .log, .ras] s (loadTable s a1 a2 a3 a4 a5).1 := by
  unfold loadTable
  try simp -proj only [mk_putCmp]
  repeat' first
    | with_reducible apply Keeps.iteFst | with_reducible apply Keeps.rfl'
    | (with_reducible apply Keeps.via (pushErr_keeps ..); (· decide))
    | (with_reducible apply Keeps.via (ledger_keeps ..); (· decide)) | (with_reducible apply Keeps.cmp; (· decide))
theorem loadTable_keeps_eq {s a1 a2 a3 a4 a5 u v} (h : (loadTable s a1 a2 a3 a4 a5) = (u, v)) : Keeps [.cmp, .hif, .log, .ras] s u := by
  have k := loadTable_keeps s a1 a2 a3 a4 a5
  rw [h] at k
  exact k

theorem loadTables_keeps (s a1 a2 a3) : Keeps [.cmp, .hif, .log, .ras] s (loadTables s a1 a2 a3).1 := by
  induction a3 generalizing s a1 a2 with
  | nil => exact Keeps.rfl'
  | cons x_ r_ ih =>
    unfold loadTables
    try dsimp -proj only
    repeat' first
      | with_reducible apply Keeps.iteFst | (with_reducible apply Keeps.via (ih ..); (· decide)) | with_reducible apply Keeps.rfl'
      | with_reducible refine Keeps.via (loadTable_keeps_eq (by assumption)) (by decide) ?_ | split

theorem loadTables_keeps_eq {s a1 a2 a3 u v} (h : (loadTables s a1 a2 a3) = (u, v)) : Keeps [.cmp, .hif, .log, .ras] s u := by
  have k := loadTables_keeps s a1 a2 a3
  rw [h] at k
  exact k

theorem writeBlock_keeps (s a1 a2) : Keeps [.mem] s (writeBlock s a1 a2) := by
  unfold writeBlock
  try dsimp -proj only
  repeat' first
    | with_reducible apply Keeps.rfl' | (with_reducible apply Keeps.via (setLen_keeps ..); (· decide))
    | (with_reducible apply Keeps.via (memWrite_keeps ..); (· decide))

theorem writeTensor_keeps (s a1 a2) : Keeps [.mem] s (writeTensor s a1 a2) := by
  unfold writeTensor
  try dsimp -proj only
  repeat' first
    | with_reducible apply Keeps.foldl | intro t_ x_ | with_reducible apply Keeps.rfl'
    | (with_reducible apply Keeps.via (memWrite_keeps ..); (· decide))
    | (with_reducible apply Keeps.via (writeBlock_keeps ..); (· decide))

theorem atMirror_keeps {l : List Block} {s t : State} {p b : Nat} {sh : Bool} {f : Nat → State} (_hk : ∀ b ∈ ([] : List Block), b ∈ l)
    (h : ∀ m, Keeps l s (f m)) (g : Keeps l s t) : Keeps l s (atMirror t p sh b f) := by
  unfold atMirror
  split
  · split
    · exact g
    · exact h _
  · exact g


theorem mirrorTensor_keeps (s a1 a2 a3) : Keeps [.mem] s (mirrorTensor s a1 a2 a3) := by
  unfold mirrorTensor
  try dsimp -proj only
  repeat' first
    | with_reducible apply Keeps.foldl | intro t_ x_ | intro t_ | with_reducible apply Keeps.rfl'
    | (with_reducible apply Keeps.via (memWrite_keeps ..); (· decide))
    | (with_reducible apply Keeps.via (writeBlock_keeps ..); (· decide)) | (with_reducible apply atMirror_keeps; (· decide))

theorem writeTensors_keeps (s a1 a2) : Keeps [.mem] s (writeTensors s a1 a2) := by
  unfold writeTensors
  try dsimp -proj only
  repeat' first
    | with_reducible apply Keeps.ite | with_reducible apply Keeps.foldl | intro t_ x_ | with_reducible apply Keeps.rfl'
    | (with_reducible apply Keeps.via (writeTensor_keeps ..); (· decide))
    | (with_reducible apply Keeps.via (mirrorTensor_keeps ..); (· decide))

theorem setLoad_keeps (s a1 a2) : Keeps [.cmp] s (setLoad s a1 a2) := by
  unfold setLoad
  try simp -proj only [mk_putCmp]
  repeat' first
    | with_reducible apply Keeps.rfl' | (with_reducible apply Keeps.cmp; (· decide))

theorem dropLoad_keeps (s a1 a2) : Keeps [.mem, .cmp, .parts, .hif, .log, .lnk, .ras] s (dropLoad s a1 a2) := by
  unfold dropLoad
  try simp -proj only [mk_putCmp]
  repeat' first
    | with_reducible apply Keeps.foldl | intro t_ x_ | with_reducible apply Keeps.rfl'
    | (with_reducible apply Keeps.via (finishLater_keeps ..); (· decide))
    | (with_reducible apply Keeps.via (clearLens_keeps ..); (· decide))
    | (with_reducible apply Keeps.via (setLoad_keeps ..); (· decide)) | (with_reducible apply Keeps.cmp; (· decide)) | split

theorem failLoad_keeps (s a1 a2) : Keeps [.mem, .cmp, .parts, .hif, .log, .lnk, .ras] s (failLoad s a1 a2) := by
  unfold failLoad
  try dsimp -proj only
  repeat' first
    | with_reducible apply Keeps.rfl' | (with_reducible apply Keeps.via (pushErr_keeps ..); (· decide))
    | (with_reducible apply Keeps.via (dropLoad_keeps ..); (· decide))

theorem bundleStages_keeps (s a1 a2 a3) : Keeps [.mem, .cmp, .parts, .hif, .log, .lnk, .ras] s (bundleStages s a1 a2 a3) := by
  unfold bundleStages
  try simp -proj only [mk_putCmp]
  repeat' first
    | with_reducible apply Keeps.rfl' | (with_reducible apply Keeps.via (loadTables_keeps ..); (· decide))
    | (with_reducible apply Keeps.via (writeTensors_keeps ..); (· decide))
    | (with_reducible apply Keeps.via (dropLoad_keeps ..); (· decide))
    | (with_reducible apply Keeps.via (failLoad_keeps ..); (· decide)) | (with_reducible apply Keeps.cmp; (· decide)) | split

theorem makeCurrent_keeps (s a1 a2) : Keeps [.cmp] s (makeCurrent s a1 a2) := by
  unfold makeCurrent
  try simp -proj only [mk_putCmp]
  repeat' first
    | with_reducible apply Keeps.rfl' | (with_reducible apply Keeps.cmp; (· decide))

theorem requesterTaint_keeps (s a1 a2) : Keeps [.parts, .hif, .log, .ras] s (requesterTaint s a1 a2) := by
  unfold requesterTaint
  try dsimp -proj only
  repeat' first
    | with_reducible apply Keeps.ite | with_reducible apply Keeps.rfl'
    | (with_reducible apply Keeps.via (readPoisoned_keeps ..); (· decide)) | split

theorem refuseAccess_keeps (s a1 a2 a3) : Keeps [.tiles, .cmp, .parts, .hif, .log, .ras] s (refuseAccess s a1 a2 a3) := by
  unfold refuseAccess
  try dsimp -proj only
  repeat' first
    | with_reducible apply Keeps.rfl' | (with_reducible apply Keeps.via (pushErr_keeps ..); (· decide))
    | (with_reducible apply Keeps.via (progFault_keeps ..); (· decide)) | split

theorem fwReturns_keeps (s a1 a2) : Keeps [.mem] s (fwReturns s a1 a2) := by
  unfold fwReturns
  try simp -proj only [mk_putMem]
  repeat' first
    | with_reducible apply Keeps.ite | with_reducible apply Keeps.rfl' | (with_reducible apply Keeps.mem; (· decide))

theorem aCrcTo_keeps (s a1 a2 a3) : Keeps [.tiles, .mem, .cmp, .parts, .slots, .hif, .log, .lnk, .ras] s (aCrcTo s a1 a2 a3) := by
  unfold aCrcTo
  try dsimp -proj only
  repeat' first
    | with_reducible apply Keeps.rfl' | (with_reducible apply Keeps.via (pushErr_keeps ..); (· decide))
    | (with_reducible apply Keeps.via (aCrcFault_keeps ..); (· decide)) | split

theorem markPass_keeps (s a1) : Keeps [.mem] s (markPass s a1) := by
  unfold markPass
  try simp -proj only [mk_putMem]
  repeat' first
    | with_reducible apply Keeps.ite | with_reducible apply Keeps.rfl' | (with_reducible apply Keeps.mem; (· decide))

theorem endPass_keeps (s) : Keeps [.pwr, .mem] s (endPass s) := by
  unfold endPass
  try simp -proj only [mk_putPwr, mk_putMem]
  repeat' first
    | with_reducible apply Keeps.ite | with_reducible apply Keeps.rfl' | (with_reducible apply Keeps.pwr; (· decide))
    | (with_reducible apply Keeps.mem; (· decide)) | apply Keeps.ite

theorem modMig_keeps (s a1 a2) : Keeps [.mem] s (modMig s a1 a2) := by
  unfold modMig
  try simp -proj only [mk_putMem]
  repeat' first
    | with_reducible apply Keeps.rfl' | (with_reducible apply Keeps.mem; (· decide))

theorem readmitChan_keeps (s a1) : Keeps [.parts] s (readmitChan s a1) := by
  unfold readmitChan
  try dsimp -proj only
  repeat' first
    | with_reducible apply Keeps.foldl | intro t_ x_ | with_reducible apply Keeps.rfl'
    | (with_reducible apply Keeps.via (modPart_keeps ..); (· decide))

theorem routeSome_keeps (s a1 a2 a3) : Keeps [] s (routeSome s a1 a2 a3).1 := by
  unfold routeSome
  try dsimp -proj only
  repeat' first
    | with_reducible apply Keeps.iteFst | with_reducible apply Keeps.rfl'
    | (with_reducible apply Keeps.via (drawFree_keeps ..); (· decide))
theorem routeSome_keeps_eq {s a1 a2 a3 u v} (h : (routeSome s a1 a2 a3) = (u, v)) : Keeps [] s u := by
  have k := routeSome_keeps s a1 a2 a3
  rw [h] at k
  exact k

theorem syncFollowers_keeps (s) : Keeps [.tmb] s (syncFollowers s) := by
  unfold syncFollowers
  try simp -proj only [mk_putTmb]
  repeat' first
    | with_reducible apply Keeps.rfl' | (with_reducible apply Keeps.tmb; (· decide))

theorem moveFault_keeps (s a1 a2) : Keeps [.tiles, .cmp, .parts] s (moveFault s a1 a2) := by
  unfold moveFault
  try dsimp -proj only
  repeat' first
    | with_reducible apply Keeps.rfl' | (with_reducible apply Keeps.via (modTile_keeps ..); (· decide))
    | (with_reducible apply Keeps.via (abandonStep_keeps ..); (· decide))
    | (with_reducible apply Keeps.via (markFaulty_keeps ..); (· decide)) | split

theorem tokenRelay_keeps (s a1 a2 a3) : Keeps [.parts, .slots, .hif, .log, .lnk, .ras] s (tokenRelay s a1 a2 a3) := by
  unfold tokenRelay
  try dsimp -proj only
  repeat' first
    | with_reducible apply Keeps.rfl' | (with_reducible apply Keeps.via (modSlot_keeps ..); (· decide))
    | (with_reducible apply Keeps.via (flushErrs_keeps ..); (· decide))
    | (with_reducible apply Keeps.via (relayOut_keeps ..); (· decide))
    | (with_reducible apply Keeps.via (lateCheck_keeps ..); (· decide))

theorem tokenOut_keeps (s a1 a2) : Keeps [.parts, .slots, .hif, .log, .lnk, .ras] s (tokenOut s a1 a2) := by
  unfold tokenOut
  try dsimp -proj only
  repeat' first
    | with_reducible apply Keeps.ite | with_reducible apply Keeps.rfl'
    | (with_reducible apply Keeps.via (modSlot_keeps ..); (· decide))
    | (with_reducible apply Keeps.via (noteFull_keeps ..); (· decide))
    | (with_reducible apply Keeps.via (tokenWrite_keeps ..); (· decide))
    | (with_reducible apply Keeps.via (tokenRelay_keeps ..); (· decide)) | split

theorem writeback_keeps (s a1 a2) : Keeps [] s (writeback s a1 a2) := by
  unfold writeback
  try dsimp -proj only
  repeat' first
    | with_reducible apply Keeps.rfl' | (with_reducible apply Keeps.via (emit_keeps ..); (· decide))

theorem fireRing_keeps (s a1 a2) : Keeps [.hif] s (fireRing s a1 a2) := by
  unfold fireRing
  try dsimp -proj only
  repeat' first
    | with_reducible apply Keeps.rfl' | (with_reducible apply Keeps.via (fire_keeps ..); (· decide))
    | (with_reducible apply Keeps.via (modRing_keeps ..); (· decide))

theorem stallSession_keeps (s a1) : Keeps [.pwr, .tiles, .mem, .cmp, .parts, .slots, .hif, .log, .lnk, .ras] s (stallSession s a1) := by
  unfold stallSession
  try dsimp -proj only
  repeat' first
    | with_reducible apply Keeps.rfl' | (with_reducible apply Keeps.via (pushErr_keeps ..); (· decide))
    | (with_reducible apply Keeps.via (fenceUnit_keeps ..); (· decide))
    | (with_reducible apply Keeps.via (endSession_keeps ..); (· decide))

theorem stallTile_keeps (s a1) : Keeps [.pwr, .tiles, .mem, .cmp, .parts, .slots, .hif, .log, .lnk, .ras] s (stallTile s a1) := by
  unfold stallTile
  try simp -proj only [mk_putPwr]
  repeat' first
    | with_reducible apply Keeps.ite | intro t_ | with_reducible apply Keeps.rfl'
    | (with_reducible apply Keeps.via (modTile_keeps ..); (· decide))
    | (with_reducible apply Keeps.via (abandonStep_keeps ..); (· decide)) | (with_reducible apply countFault_keeps; (· decide))
    | (with_reducible apply Keeps.via (tileErr_keeps ..); (· decide))
    | (with_reducible apply Keeps.via (stallSession_keeps ..); (· decide)) | (with_reducible apply Keeps.pwr; (· decide))

theorem unitWindowEnd_keeps (s a1 a2 a3) : Keeps [.pwr, .tiles, .mem, .cmp, .parts, .slots, .hif, .log, .lnk, .ras] s (unitWindowEnd s a1 a2 a3) := by
  unfold unitWindowEnd
  try simp -proj only [mk_putPwr]
  repeat' first
    | with_reducible apply Keeps.ite | with_reducible apply Keeps.rfl'
    | (with_reducible apply Keeps.via (stallTile_keeps ..); (· decide)) | (with_reducible apply Keeps.pwr; (· decide))

theorem paceLow_keeps (s a1 a2 a3) : Keeps [.parts, .slots, .hif, .log, .ras] s (paceLow s a1 a2 a3) := by
  unfold paceLow
  try dsimp -proj only
  repeat' first
    | with_reducible apply Keeps.ite | with_reducible apply Keeps.rfl'
    | (with_reducible apply Keeps.via (modPart_keeps ..); (· decide))
    | (with_reducible apply Keeps.via (pushErr_keeps ..); (· decide))
    | (with_reducible apply Keeps.via (declareEvent_keeps ..); (· decide))

theorem setRx_keeps (s a1) : Keeps [.lnk] s (setRx s a1) := by
  unfold setRx
  try simp -proj only [mk_putLnk]
  repeat' first
    | with_reducible apply Keeps.rfl' | (with_reducible apply Keeps.lnk; (· decide))

theorem stopRx_keeps (s a1 a2) : Keeps [.lnk] s (stopRx s a1 a2) := by
  unfold stopRx
  try dsimp -proj only
  repeat' first
    | with_reducible apply Keeps.rfl' | (with_reducible apply Keeps.via (setRx_keeps ..); (· decide))

theorem quenchRx_keeps (s a1 a2 a3) : Keeps [.lnk] s (quenchRx s a1 a2 a3) := by
  unfold quenchRx
  try dsimp -proj only
  repeat' first
    | with_reducible apply Keeps.rfl' | (with_reducible apply Keeps.via (sendVc0_keeps ..); (· decide))
    | (with_reducible apply Keeps.via (stopRx_keeps ..); (· decide))

theorem sendIn_keeps (s a1) : Keeps [.tiles, .mem, .cmp, .parts, .slots, .hif, .log, .lnk, .ras] s (sendIn s a1).1 := by
  unfold sendIn
  try dsimp -proj only
  repeat' first
    | with_reducible apply Keeps.iteFst | with_reducible apply Keeps.rfl'
    | (with_reducible apply Keeps.via (setTile_keeps ..); (· decide))
    | (with_reducible apply Keeps.via (modTile_keeps ..); (· decide))
    | (with_reducible apply Keeps.via (tileErr_keeps ..); (· decide))
    | (with_reducible apply Keeps.via (settle_keeps ..); (· decide)) | split
theorem sendIn_keeps_eq {s a1 u v} (h : (sendIn s a1) = (u, v)) : Keeps [.tiles, .mem, .cmp, .parts, .slots, .hif, .log, .lnk, .ras] s u := by
  have k := sendIn_keeps s a1
  rw [h] at k
  exact k

theorem sparseForm_keeps (s a1) : Keeps [.tiles, .parts, .hif, .log, .ras] s (sparseForm s a1) := by
  unfold sparseForm
  try dsimp -proj only
  repeat' first
    | with_reducible apply Keeps.rfl' | (with_reducible apply Keeps.via (rerunFault_keeps ..); (· decide))
    | (with_reducible apply Keeps.via (tileErr_keeps ..); (· decide))
    | (with_reducible apply Keeps.via (modCounters_keeps ..); (· decide))

theorem pageStored_keeps (a0 a1 s a3) : Keeps [.mem] s (pageStored a0 a1 s a3) := by
  unfold pageStored
  try dsimp -proj only
  repeat' first
    | with_reducible apply Keeps.ite | with_reducible apply Keeps.rfl'
    | (with_reducible apply Keeps.via (setLen_keeps ..); (· decide))
    | (with_reducible apply Keeps.via (memPutRun_keeps ..); (· decide)) | split

theorem pageRaw_keeps (a0 a1 s a3) : Keeps [.mem] s (pageRaw a0 a1 s a3) := by
  unfold pageRaw
  try dsimp -proj only
  repeat' first
    | with_reducible apply Keeps.ite | with_reducible apply Keeps.rfl'
    | (with_reducible apply Keeps.via (setLen_keeps ..); (· decide))
    | (with_reducible apply Keeps.via (memPut_keeps ..); (· decide)) | split

theorem pageData_keeps (s a1 a2 a3) : Keeps [.mem] s (pageData s a1 a2 a3) := by
  unfold pageData
  try dsimp -proj only
  repeat' first
    | with_reducible apply Keeps.ite | with_reducible apply Keeps.foldl | intro t_ x_ | with_reducible apply Keeps.rfl'
    | (with_reducible apply Keeps.via (pageStored_keeps ..); (· decide))
    | (with_reducible apply Keeps.via (pageRaw_keeps ..); (· decide))

theorem sealPages_keeps (s a1 a2 a3) : Keeps [.parts] s (sealPages s a1 a2 a3) := by
  unfold sealPages
  try dsimp -proj only
  repeat' first
    | with_reducible apply Keeps.rfl' | (with_reducible apply Keeps.via (modPart_keeps ..); (· decide))

theorem handoffAnswer_keeps (s a1 a2 a3) : Keeps [.lnk] s (handoffAnswer s a1 a2 a3) := by
  unfold handoffAnswer
  try dsimp -proj only
  repeat' first
    | with_reducible apply Keeps.rfl' | (with_reducible apply Keeps.via (emit_keeps ..); (· decide))
    | (with_reducible apply Keeps.via (newFlow_keeps ..); (· decide))

theorem handoffCheck_keeps (s a1 a2 a3) : Keeps [.hif, .log, .lnk, .ras] s (handoffCheck s a1 a2 a3) := by
  unfold handoffCheck
  try dsimp -proj only
  repeat' first
    | with_reducible apply Keeps.ite | with_reducible apply Keeps.rfl'
    | (with_reducible apply Keeps.via (pushErr_keeps ..); (· decide))
    | (with_reducible apply Keeps.via (handoffAnswer_keeps ..); (· decide))

theorem handoffLast_keeps (s a1 a2 a3) : Keeps [.parts, .slots, .lnk] s (handoffLast s a1 a2 a3) := by
  unfold handoffLast
  try dsimp -proj only
  repeat' first
    | with_reducible apply Keeps.rfl' | (with_reducible apply Keeps.via (modSlot_keeps ..); (· decide))
    | (with_reducible apply Keeps.via (modPart_keeps ..); (· decide))
    | (with_reducible apply Keeps.via (refreshAdm_keeps ..); (· decide))
    | (with_reducible apply Keeps.via (sealPages_keeps ..); (· decide))
    | (with_reducible apply Keeps.via (handoffAnswer_keeps ..); (· decide))

theorem pageAsk_keeps (s a1 a2 a3) : Keeps [.parts, .lnk] s (pageAsk s a1 a2 a3).1 := by
  unfold pageAsk
  try dsimp -proj only
  repeat' first
    | with_reducible apply Keeps.rfl' | (with_reducible apply Keeps.via (modPart_keeps ..); (· decide))
    | (with_reducible apply Keeps.via (newFlow_keeps ..); (· decide)) | split
theorem pageAsk_keeps_eq {s a1 a2 a3 u v} (h : (pageAsk s a1 a2 a3) = (u, v)) : Keeps [.parts, .lnk] s u := by
  have k := pageAsk_keeps s a1 a2 a3
  rw [h] at k
  exact k

theorem pageServe_keeps (s a1 a2 a3 a4) : Keeps [.parts, .lnk] s (pageServe s a1 a2 a3 a4).1 := by
  unfold pageServe
  try dsimp -proj only
  repeat' first
    | with_reducible apply Keeps.iteFst | with_reducible apply Keeps.rfl'
    | (with_reducible apply Keeps.via (modPart_keeps ..); (· decide))
    | (with_reducible apply Keeps.via (newFlow_keeps ..); (· decide)) | split
theorem pageServe_keeps_eq {s a1 a2 a3 a4 u v} (h : (pageServe s a1 a2 a3 a4) = (u, v)) : Keeps [.parts, .lnk] s u := by
  have k := pageServe_keeps s a1 a2 a3 a4
  rw [h] at k
  exact k

theorem offerCheck_keeps (s a1 a2 a3 a4) : Keeps [.hif, .log, .lnk, .ras] s (offerCheck s a1 a2 a3 a4) := by
  unfold offerCheck
  try dsimp -proj only
  repeat' first
    | with_reducible apply Keeps.ite | with_reducible apply Keeps.rfl'
    | (with_reducible apply Keeps.via (emit_keeps ..); (· decide))
    | (with_reducible apply Keeps.via (pushErr_keeps ..); (· decide))
    | (with_reducible apply Keeps.via (newFlow_keeps ..); (· decide))

theorem copyWhole_keeps (s a1 a2 a3 a4) : Keeps [.parts, .slots] s (copyWhole s a1 a2 a3 a4) := by
  unfold copyWhole
  try dsimp -proj only
  repeat' first
    | with_reducible apply Keeps.ite | with_reducible apply Keeps.foldl | intro t_ x_ | with_reducible apply Keeps.rfl'
    | (with_reducible apply Keeps.via (modSlot_keeps ..); (· decide))
    | (with_reducible apply Keeps.via (modPart_keeps ..); (· decide))
    | (with_reducible apply Keeps.via (sealPages_keeps ..); (· decide)) | split

theorem keepCopy_keeps (s a1 a2) : Keeps [.ras] s (keepCopy s a1 a2) := by
  unfold keepCopy
  try simp -proj only [mk_putRas]
  repeat' first
    | with_reducible apply Keeps.rfl' | (with_reducible apply Keeps.ras; (· decide))

theorem weightIn_keeps (s a1 a2 a3) : Keeps [.lnk, .ras] s (weightIn s a1 a2 a3).1 := by
  unfold weightIn
  try dsimp -proj only
  repeat' first
    | with_reducible apply Keeps.iteFst | with_reducible apply Keeps.rfl'
    | (with_reducible apply Keeps.via (newFlow_keeps ..); (· decide))
    | (with_reducible apply Keeps.via (keepCopy_keeps ..); (· decide)) | split
theorem weightIn_keeps_eq {s a1 a2 a3 u v} (h : (weightIn s a1 a2 a3) = (u, v)) : Keeps [.lnk, .ras] s u := by
  have k := weightIn_keeps s a1 a2 a3
  rw [h] at k
  exact k

theorem relayCommand_keeps (s a1 a2 a3) : Keeps [.parts, .hif, .log, .lnk, .ras] s (relayCommand s a1 a2 a3) := by
  unfold relayCommand
  try simp -proj only [mk_putHif]
  repeat' first
    | with_reducible apply Keeps.ite | with_reducible apply Keeps.rfl'
    | (with_reducible apply Keeps.via (journal_keeps ..); (· decide))
    | (with_reducible apply Keeps.via (refuseUnknown_keeps ..); (· decide)) | (with_reducible apply Keeps.hif; (· decide))

theorem latchReg_keeps (s a1 a2) : Keeps [] s (latchReg s a1 a2) := by
  unfold latchReg
  try simp -proj only [mk_putLatches]
  repeat' first
    | with_reducible apply Keeps.rfl' | (with_reducible apply Keeps.latches)

theorem readReg_keeps (s a1 a2 a3) : Keeps [.tmb] s (readReg s a1 a2 a3).1 := by
  unfold readReg
  try simp -proj only [mk_putTmb]
  repeat' first
    | with_reducible apply Keeps.iteFst | with_reducible apply Keeps.rfl'
    | (with_reducible apply Keeps.via (latchReg_keeps ..); (· decide)) | (with_reducible apply Keeps.tmb; (· decide))
    | dsimp only | split
theorem readReg_keeps_eq {s a1 a2 a3 u v} (h : (readReg s a1 a2 a3) = (u, v)) : Keeps [.tmb] s u := by
  have k := readReg_keeps s a1 a2 a3
  rw [h] at k
  exact k

theorem relayIn_keeps (s a1 a2) : Keeps [.tmb, .pwr, .tiles, .mem, .exps, .cmp, .parts, .slots, .hif, .log, .lnk, .ras, .boot, .sec, .side] s (relayIn s a1 a2) := by
  unfold relayIn
  try simp -proj only [mk_putLnk]
  repeat' first
    | with_reducible apply Keeps.ite | with_reducible apply Keeps.rfl'
    | (with_reducible apply Keeps.via (modPart_keeps ..); (· decide))
    | (with_reducible apply Keeps.via (emit_keeps ..); (· decide))
    | (with_reducible apply Keeps.via (postCmdCpl_keeps ..); (· decide))
    | (with_reducible apply Keeps.via (sendVc0_keeps ..); (· decide))
    | (with_reducible apply Keeps.via (mbxAnswer_keeps ..); (· decide))
    | (with_reducible apply Keeps.via (noteFull_keeps ..); (· decide))
    | (with_reducible apply Keeps.via (outPut_keeps ..); (· decide))
    | (with_reducible apply Keeps.via (regWrite_keeps ..); (· decide))
    | (with_reducible apply Keeps.via (relayCommand_keeps ..); (· decide))
    | (with_reducible apply Keeps.via (readReg_keeps ..); (· decide)) | (with_reducible apply Keeps.lnk; (· decide)) | split

theorem sendAck_keeps (s a1 a2) : Keeps [.lnk] s (sendAck s a1 a2) := by
  unfold sendAck
  try simp -proj only [mk_putLnk]
  repeat' first
    | with_reducible apply Keeps.rfl' | (with_reducible apply Keeps.via (sendVc0_keeps ..); (· decide))
    | (with_reducible apply Keeps.lnk; (· decide)) | split

theorem dropHandoff_keeps (s a1) : Keeps [.lnk] s (dropHandoff s a1) := by
  unfold dropHandoff
  try simp -proj only [mk_putLnk]
  repeat' first
    | with_reducible apply Keeps.rfl' | (with_reducible apply Keeps.lnk; (· decide))

theorem nakFlit_keeps (s a1) : Keeps [.lnk] s (nakFlit s a1) := by
  unfold nakFlit
  try dsimp -proj only
  repeat' first
    | with_reducible apply Keeps.rfl' | (with_reducible apply Keeps.via (sendControl_keeps ..); (· decide))

theorem takeControl_keeps (s a1 a2) : Keeps [.tiles, .mem, .cmp, .parts, .slots, .hif, .log, .lnk, .ras] s (takeControl s a1 a2) := by
  unfold takeControl
  try dsimp -proj only
  repeat' first
    | with_reducible apply Keeps.ite | with_reducible apply Keeps.rfl'
    | (with_reducible apply Keeps.via (modPort_keeps ..); (· decide))
    | (with_reducible apply Keeps.via (pumpFlows_keeps ..); (· decide))
    | (with_reducible apply Keeps.via (linkReset_keeps ..); (· decide))
    | (with_reducible apply Keeps.via (setWidth_keeps ..); (· decide)) | split

theorem bufferFlit_keeps_eq {s a1 a2 u} (h : (bufferFlit s a1 a2) = some u) : Keeps [.lnk] s u := by
  revert h
  unfold bufferFlit
  try dsimp -proj only
  intro h
  (repeat' (split at h)) <;> (try cases h)
  repeat' first
    | with_reducible apply Keeps.rfl' | (with_reducible apply Keeps.via (modPort_keeps ..); (· decide))

theorem takeFlit_keeps (s a1 a2) : Keeps [.tiles, .mem, .cmp, .parts, .slots, .hif, .log, .lnk, .ras] s (takeFlit s a1 a2) := by
  unfold takeFlit
  try dsimp -proj only
  repeat' first
    | with_reducible apply Keeps.ite | with_reducible apply Keeps.rfl'
    | (with_reducible apply Keeps.via (modPort_keeps ..); (· decide))
    | (with_reducible apply Keeps.via (linkReset_keeps ..); (· decide))
    | (with_reducible apply Keeps.via (takeControl_keeps ..); (· decide))
    | with_reducible refine Keeps.via (bufferFlit_keeps_eq (by assumption)) (by decide) ?_ | split

theorem flitIn_keeps (s a1 a2) : Keeps [.tiles, .mem, .cmp, .parts, .slots, .hif, .log, .lnk, .ras] s (flitIn s a1 a2) := by
  unfold flitIn
  try dsimp -proj only
  repeat' first
    | with_reducible apply Keeps.ite | with_reducible apply Keeps.rfl'
    | (with_reducible apply Keeps.via (modPort_keeps ..); (· decide))
    | (with_reducible apply Keeps.via (pumpFlows_keeps ..); (· decide))
    | (with_reducible apply Keeps.via (linkReset_keeps ..); (· decide))
    | (with_reducible apply Keeps.via (nakFlit_keeps ..); (· decide))
    | (with_reducible apply Keeps.via (takeFlit_keeps ..); (· decide)) | split

theorem dropArriving_keeps (s a1) : Keeps [.parts, .slots] s (dropArriving s a1) := by
  unfold dropArriving
  try dsimp -proj only
  repeat' first
    | with_reducible apply Keeps.foldl | intro t_ x_ | with_reducible apply Keeps.rfl'
    | (with_reducible apply Keeps.via (setSlot_keeps ..); (· decide))
    | (with_reducible apply Keeps.via (releasePages_keeps ..); (· decide))

theorem budgetCheck_keeps (s a1 a2) : Keeps [.pwr, .hif, .log, .ras] s (budgetCheck s a1 a2) := by
  unfold budgetCheck
  try simp -proj only [mk_putPwr]
  repeat' first
    | with_reducible apply Keeps.ite | with_reducible apply Keeps.rfl'
    | (with_reducible apply Keeps.via (pushErr_keeps ..); (· decide)) | (with_reducible apply Keeps.pwr; (· decide))

theorem planDie_keeps (s a1 a2) : Keeps [.pwr] s (planDie s a1 a2) := by
  unfold planDie
  try dsimp -proj only
  repeat' first
    | with_reducible apply Keeps.rfl' | (with_reducible apply Keeps.via (modDie_keeps ..); (· decide))

theorem takeTemps_keeps (s a1 a2) : Keeps [.pwr] s (takeTemps s a1 a2) := by
  unfold takeTemps
  try simp -proj only [mk_putPwr]
  repeat' first
    | with_reducible apply Keeps.foldl | intro t_ x_ | with_reducible apply Keeps.rfl'
    | (with_reducible apply Keeps.pwr; (· decide))

theorem errNow_keeps (s a1 a2) : Keeps [.hif, .log, .ras] s (errNow s a1 a2) := by
  unfold errNow
  try simp -proj only [mk_putLog]
  repeat' first
    | with_reducible apply Keeps.rfl' | (with_reducible apply Keeps.via (pushErr_keeps ..); (· decide))
    | (with_reducible apply Keeps.log; (· decide))

theorem throttleEvent_keeps (s a1) : Keeps [.parts, .slots, .hif, .log, .ras] s (throttleEvent s a1) := by
  unfold throttleEvent
  try dsimp -proj only
  repeat' first
    | with_reducible apply Keeps.rfl' | (with_reducible apply Keeps.via (pushErr_keeps ..); (· decide))
    | (with_reducible apply Keeps.via (declareEvent_keeps ..); (· decide))

theorem applyEnvelope_keeps (s) : Keeps [.pwr] s (applyEnvelope s) := by
  unfold applyEnvelope
  try dsimp -proj only
  repeat' first
    | with_reducible apply Keeps.foldl | intro t_ x_ | with_reducible apply Keeps.rfl'
    | (with_reducible apply Keeps.via (modDie_keeps ..); (· decide))

theorem keepTargets_keeps (s) : Keeps [.pwr] s (keepTargets s) := by
  unfold keepTargets
  try dsimp -proj only
  repeat' first
    | with_reducible apply Keeps.foldl | intro t_ x_ | with_reducible apply Keeps.rfl'
    | (with_reducible apply Keeps.via (modDie_keeps ..); (· decide))

theorem throttleBegin_keeps (s) : Keeps [.pwr] s (throttleBegin s) := by
  unfold throttleBegin
  try simp -proj only [mk_putPwr]
  repeat' first
    | with_reducible apply Keeps.rfl' | (with_reducible apply Keeps.via (applyEnvelope_keeps ..); (· decide))
    | (with_reducible apply Keeps.via (keepTargets_keeps ..); (· decide)) | (with_reducible apply Keeps.pwr; (· decide))

theorem throttleSet_keeps (s) : Keeps [.pwr, .side] s (throttleSet s) := by
  unfold throttleSet
  try simp -proj only [mk_putSide]
  repeat' first
    | with_reducible apply Keeps.ite | with_reducible apply Keeps.rfl'
    | (with_reducible apply Keeps.via (throttleBegin_keeps ..); (· decide)) | (with_reducible apply Keeps.side; (· decide))

theorem restoreTargets_keeps (s) : Keeps [.pwr] s (restoreTargets s) := by
  unfold restoreTargets
  try dsimp -proj only
  repeat' first
    | with_reducible apply Keeps.foldl | intro t_ x_ | with_reducible apply Keeps.rfl'
    | (with_reducible apply Keeps.via (modDie_keeps ..); (· decide))

theorem throttleEnd_keeps (s) : Keeps [.pwr] s (throttleEnd s) := by
  unfold throttleEnd
  try simp -proj only [mk_putPwr]
  repeat' first
    | with_reducible apply Keeps.rfl' | (with_reducible apply Keeps.via (applyEnvelope_keeps ..); (· decide))
    | (with_reducible apply Keeps.via (restoreTargets_keeps ..); (· decide)) | (with_reducible apply Keeps.pwr; (· decide))

theorem throttleClear_keeps (s) : Keeps [.pwr, .side] s (throttleClear s) := by
  unfold throttleClear
  try simp -proj only [mk_putSide]
  repeat' first
    | with_reducible apply Keeps.rfl' | (with_reducible apply Keeps.via (throttleEnd_keeps ..); (· decide))
    | (with_reducible apply Keeps.side; (· decide)) | apply Keeps.ite

theorem toggleBegin_keeps (s a1) : Keeps [.pwr, .parts, .slots, .hif, .log, .ras, .side] s (toggleBegin s a1) := by
  unfold toggleBegin
  try simp -proj only [mk_putSide]
  repeat' first
    | with_reducible apply Keeps.ite | with_reducible apply Keeps.rfl'
    | (with_reducible apply Keeps.via (pushErr_keeps ..); (· decide))
    | (with_reducible apply Keeps.via (throttleEvent_keeps ..); (· decide))
    | (with_reducible apply Keeps.via (throttleSet_keeps ..); (· decide)) | (with_reducible apply Keeps.side; (· decide))

theorem throttleEdge_keeps (s a1) : Keeps [.pwr, .parts, .slots, .hif, .log, .ras, .side] s (throttleEdge s a1) := by
  unfold throttleEdge
  try simp -proj only [mk_putSide]
  repeat' first
    | with_reducible apply Keeps.ite | with_reducible apply Keeps.rfl'
    | (with_reducible apply Keeps.via (throttleEvent_keeps ..); (· decide))
    | (with_reducible apply Keeps.via (throttleSet_keeps ..); (· decide))
    | (with_reducible apply Keeps.via (throttleClear_keeps ..); (· decide))
    | (with_reducible apply Keeps.via (toggleBegin_keeps ..); (· decide)) | (with_reducible apply Keeps.side; (· decide))

theorem powerLoss_keeps (s) : Keeps [.tmb, .pwr, .tiles, .mem, .exps, .cmp, .parts, .slots, .hif, .log, .lnk, .ras, .boot, .sec, .side] s (powerLoss s) := by
  refine ⟨⟨?_, ?_, ?_, ?_, ?_, ?_, ?_, ?_, ?_, ?_, ?_, ?_, ?_, ?_, ?_⟩, rfl⟩ <;> exact fun n_ => absurd (by decide) n_

theorem tick_keeps (s a1) : Keeps [.tmb] s (tick s a1) := by
  unfold tick
  try simp -proj only [mk_putTmb]
  repeat' first
    | with_reducible apply Keeps.rfl' | (with_reducible apply Keeps.tmb; (· decide))

theorem modRepair_keeps (s a1 a2) : Keeps [.ras] s (modRepair s a1 a2) := by
  unfold modRepair
  try simp -proj only [mk_putRas]
  repeat' first
    | with_reducible apply Keeps.rfl' | (with_reducible apply Keeps.ras; (· decide))

theorem askPeer_keeps (s a1 a2) : Keeps [.lnk, .ras] s (askPeer s a1 a2) := by
  unfold askPeer
  try dsimp -proj only
  repeat' first
    | with_reducible apply Keeps.rfl' | (with_reducible apply Keeps.via (newFlow_keeps ..); (· decide))
    | (with_reducible apply Keeps.via (modRepair_keeps ..); (· decide)) | split

theorem rewriteBlock_keeps (s a1 a2) : Keeps [.mem] s (rewriteBlock s a1 a2) := by
  unfold rewriteBlock
  try dsimp -proj only
  repeat' first
    | with_reducible apply Keeps.rfl' | (with_reducible apply Keeps.via (setLen_keeps ..); (· decide))
    | (with_reducible apply Keeps.via (memWrite_keeps ..); (· decide))

theorem repairedBy_keeps (s a1 a2 a3) : Keeps [.mem, .parts, .hif, .log, .ras] s (repairedBy s a1 a2 a3) := by
  unfold repairedBy
  try simp -proj only []
  repeat' first
    | with_reducible apply Keeps.ite | with_reducible apply Keeps.iteFst | with_reducible apply Keeps.foldl
    | with_reducible apply Keeps.foldlFst | with_reducible apply Keeps.same | intro t_ x_ | intro t_ | with_reducible assumption
    | with_reducible apply Keeps.rfl' | (with_reducible apply Keeps.via (pushErr_keeps ..); (· decide))
    | (with_reducible apply Keeps.via (endRepair_keeps ..); (· decide))
    | (with_reducible apply Keeps.via (rewriteBlock_keeps ..); (· decide)) | dsimp only | split

theorem repairLost_keeps (s a1) : Keeps [.cmp, .parts, .slots, .hif, .log, .lnk, .ras] s (repairLost s a1) := by
  unfold repairLost
  try simp -proj only [mk_putCmp]
  repeat' first
    | with_reducible apply Keeps.rfl' | (with_reducible apply Keeps.via (pushErr_keeps ..); (· decide))
    | (with_reducible apply Keeps.via (closeSlots_keeps ..); (· decide))
    | (with_reducible apply Keeps.via (endRepair_keeps ..); (· decide)) | (with_reducible apply Keeps.cmp; (· decide))

theorem askHost_keeps (s a1) : Keeps [] s (askHost s a1) := by
  unfold askHost
  try dsimp -proj only
  repeat' first
    | with_reducible apply Keeps.rfl' | (with_reducible apply Keeps.via (emit_keeps ..); (· decide)) | split

theorem badSlots_keeps (s a1) : Keeps [.boot] s (badSlots s a1) := by
  unfold badSlots
  try dsimp -proj only
  repeat' first
    | with_reducible apply Keeps.ite | with_reducible apply Keeps.foldl | intro t_ x_ | with_reducible apply Keeps.rfl'
    | (with_reducible apply Keeps.via (slotTo_keeps ..); (· decide)) | split

theorem commitEnd_keeps (s a1 a2 a3 a4) : Keeps [.hif, .log, .ras, .boot, .sec] s (commitEnd s a1 a2 a3 a4) := by
  unfold commitEnd
  try simp -proj only [mk_putSec]
  repeat' first
    | with_reducible apply Keeps.ite | with_reducible apply Keeps.rfl'
    | (with_reducible apply Keeps.via (pushErr_keeps ..); (· decide))
    | (with_reducible apply Keeps.via (ledger_keeps ..); (· decide))
    | (with_reducible apply Keeps.via (bumpMeas_keeps ..); (· decide))
    | (with_reducible apply Keeps.via (setCommit_keeps ..); (· decide))
    | (with_reducible apply Keeps.via (badSlots_keeps ..); (· decide)) | (with_reducible apply Keeps.sec; (· decide))

theorem revokeEnd_keeps (s a1 a2) : Keeps [.hif, .log, .ras, .boot, .sec] s (revokeEnd s a1 a2) := by
  unfold revokeEnd
  try simp -proj only [mk_putSec]
  repeat' first
    | with_reducible apply Keeps.ite | with_reducible apply Keeps.rfl'
    | (with_reducible apply Keeps.via (pushErr_keeps ..); (· decide))
    | (with_reducible apply Keeps.via (ledger_keeps ..); (· decide))
    | (with_reducible apply Keeps.via (bumpMeas_keeps ..); (· decide))
    | (with_reducible apply Keeps.via (setRevoke_keeps ..); (· decide))
    | (with_reducible apply Keeps.via (badSlots_keeps ..); (· decide)) | (with_reducible apply Keeps.sec; (· decide))

theorem setConn_keeps (s a1 a2) : Keeps [.sec] s (setConn s a1 a2) := by
  unfold setConn
  try simp -proj only [mk_putSec]
  repeat' first
    | with_reducible apply Keeps.rfl' | (with_reducible apply Keeps.sec; (· decide)) | split

theorem spdmSay_keeps (s a1 a2 a3 a4 a5) : Keeps [.log, .sec] s (spdmSay s a1 a2 a3 a4 a5) := by
  unfold spdmSay
  try dsimp -proj only
  repeat' first
    | with_reducible apply Keeps.rfl' | (with_reducible apply Keeps.via (emit_keeps ..); (· decide))
    | (with_reducible apply Keeps.via (setConn_keeps ..); (· decide))

theorem spdmErr_keeps (s a1 a2) : Keeps [.sec] s (spdmErr s a1 a2) := by
  unfold spdmErr
  try dsimp -proj only
  repeat' first
    | with_reducible apply Keeps.rfl' | (with_reducible apply Keeps.via (emit_keeps ..); (· decide))
    | (with_reducible apply Keeps.via (setConn_keeps ..); (· decide))

theorem spdmGuard_keeps {l : List Block} {s t : State} {x : Transport} {k : Nat} {f : State → State} (hk : ∀ b ∈ ([.sec] : List Block), b ∈ l) (h : ∀ t, Keeps l t (f t))
    (g : Keeps l s t) : Keeps l s (spdmGuard t x k f) := by
  unfold spdmGuard
  try dsimp -proj only
  repeat' first
    | with_reducible apply g | (with_reducible apply Keeps.trans' ?_ (h _)) | with_reducible apply Keeps.ite
    | (with_reducible apply Keeps.via (spdmErr_keeps ..); (· intro b_ m_; exact hk b_ (by revert b_; decide)))


theorem getVersion_keeps (s a1) : Keeps [.log, .sec] s (getVersion s a1) := by
  unfold getVersion
  try dsimp -proj only
  repeat' first
    | intro t_ | with_reducible apply Keeps.rfl' | (with_reducible apply Keeps.via (setConn_keeps ..); (· decide))
    | (with_reducible apply Keeps.via (spdmSay_keeps ..); (· decide)) | (with_reducible apply spdmGuard_keeps; (· decide))

theorem getCaps_keeps (s a1) : Keeps [.log, .sec] s (getCaps s a1) := by
  unfold getCaps
  try dsimp -proj only
  repeat' first
    | intro t_ | with_reducible apply Keeps.rfl' | (with_reducible apply Keeps.via (spdmSay_keeps ..); (· decide))
    | (with_reducible apply spdmGuard_keeps; (· decide))

theorem negotiate_keeps (s a1 a2) : Keeps [.hif, .log, .ras, .sec] s (negotiate s a1 a2) := by
  unfold negotiate
  try dsimp -proj only
  repeat' first
    | with_reducible apply Keeps.ite | intro t_ | with_reducible apply Keeps.rfl'
    | (with_reducible apply Keeps.via (pushErr_keeps ..); (· decide))
    | (with_reducible apply Keeps.via (spdmSay_keeps ..); (· decide))
    | (with_reducible apply Keeps.via (spdmErr_keeps ..); (· decide)) | (with_reducible apply spdmGuard_keeps; (· decide))

theorem getDigests_keeps (s a1) : Keeps [.log, .sec] s (getDigests s a1) := by
  unfold getDigests
  try dsimp -proj only
  repeat' first
    | intro t_ | with_reducible apply Keeps.rfl' | (with_reducible apply Keeps.via (spdmSay_keeps ..); (· decide))
    | (with_reducible apply spdmGuard_keeps; (· decide))

theorem getCert_keeps (s a1 a2) : Keeps [.log, .sec] s (getCert s a1 a2) := by
  unfold getCert
  try dsimp -proj only
  repeat' first
    | with_reducible apply Keeps.ite | intro t_ | with_reducible apply Keeps.rfl'
    | (with_reducible apply Keeps.via (spdmSay_keeps ..); (· decide))
    | (with_reducible apply Keeps.via (spdmErr_keeps ..); (· decide)) | (with_reducible apply spdmGuard_keeps; (· decide))

theorem drawNonce_keeps (s) : Keeps [.sec] s (drawNonce s).1 := by
  unfold drawNonce
  try simp -proj only [mk_putSec]
  repeat' first
    | with_reducible apply Keeps.rfl' | (with_reducible apply Keeps.sec; (· decide))
theorem drawNonce_keeps_eq {s u v} (h : (drawNonce s) = (u, v)) : Keeps [.sec] s u := by
  have k := drawNonce_keeps s
  rw [h] at k
  exact k

theorem spdmSigned_keeps (s a1 a2 a3 a4) : Keeps [.log, .sec] s (spdmSigned s a1 a2 a3 a4) := by
  unfold spdmSigned
  try dsimp -proj only
  repeat' first
    | with_reducible apply Keeps.ite | with_reducible apply Keeps.rfl'
    | (with_reducible apply Keeps.via (spdmSay_keeps ..); (· decide))
    | (with_reducible apply Keeps.via (spdmErr_keeps ..); (· decide))
    | (with_reducible apply Keeps.via (drawNonce_keeps ..); (· decide))

theorem challenge_keeps (s a1 a2 a3) : Keeps [.log, .sec] s (challenge s a1 a2 a3) := by
  unfold challenge
  try dsimp -proj only
  repeat' first
    | with_reducible apply Keeps.ite | intro t_ | with_reducible apply Keeps.rfl'
    | (with_reducible apply Keeps.via (spdmErr_keeps ..); (· decide)) | (with_reducible apply spdmGuard_keeps; (· decide))
    | (with_reducible apply Keeps.via (spdmSigned_keeps ..); (· decide))

theorem getMeas_keeps (s a1 a2 a3) : Keeps [.log, .sec] s (getMeas s a1 a2 a3) := by
  unfold getMeas
  try dsimp -proj only
  repeat' first
    | with_reducible apply Keeps.ite | intro t_ | with_reducible apply Keeps.rfl'
    | (with_reducible apply Keeps.via (spdmErr_keeps ..); (· decide)) | (with_reducible apply spdmGuard_keeps; (· decide))
    | (with_reducible apply Keeps.via (spdmSigned_keeps ..); (· decide))

theorem spdmOther_keeps (s a1 a2) : Keeps [.hif, .log, .ras, .sec] s (spdmOther s a1 a2) := by
  unfold spdmOther
  try dsimp -proj only
  repeat' first
    | intro t_ | with_reducible apply Keeps.rfl' | (with_reducible apply Keeps.via (pushErr_keeps ..); (· decide))
    | (with_reducible apply Keeps.via (spdmErr_keeps ..); (· decide)) | (with_reducible apply spdmGuard_keeps; (· decide))

theorem spdmAsk_keeps (s a1 a2) : Keeps [.hif, .log, .ras, .sec] s (spdmAsk s a1 a2) := by
  unfold spdmAsk
  try dsimp -proj only
  repeat' first
    | with_reducible apply Keeps.rfl' | (with_reducible apply Keeps.via (getVersion_keeps ..); (· decide))
    | (with_reducible apply Keeps.via (getCaps_keeps ..); (· decide))
    | (with_reducible apply Keeps.via (negotiate_keeps ..); (· decide))
    | (with_reducible apply Keeps.via (getDigests_keeps ..); (· decide))
    | (with_reducible apply Keeps.via (getCert_keeps ..); (· decide))
    | (with_reducible apply Keeps.via (challenge_keeps ..); (· decide))
    | (with_reducible apply Keeps.via (getMeas_keeps ..); (· decide))
    | (with_reducible apply Keeps.via (spdmOther_keeps ..); (· decide)) | split

theorem violateSrc_keeps {l : List Block} {s t : State} {x : Src} {f : State → State} (hk : ∀ b ∈ ([.hif, .log, .ras] : List Block), b ∈ l) (h : ∀ t, Keeps l t (f t))
    (g : Keeps l s t) : Keeps l s (violateSrc t x f) := by
  unfold violateSrc
  try dsimp -proj only
  repeat' first
    | with_reducible apply g | with_reducible apply h | (with_reducible apply Keeps.trans' ?_ (h _))
    | with_reducible apply Keeps.ite | (with_reducible apply violate_keeps; (· intro b_ m_; exact hk b_ (by revert b_; decide)))


theorem dmaFailedFor_keeps (s a1 a2) : Keeps [.hif, .log, .ras] s (dmaFailedFor s a1 a2) := by
  unfold dmaFailedFor
  try dsimp -proj only
  repeat' first
    | with_reducible apply Keeps.ite | with_reducible apply Keeps.rfl'
    | (with_reducible apply Keeps.via (dmaFailed_keeps ..); (· decide))

theorem sideCountUp_keeps (s a1) : Keeps [.side] s (sideCountUp s a1) := by
  unfold sideCountUp
  try simp -proj only [mk_putSide]
  repeat' first
    | with_reducible apply Keeps.rfl' | (with_reducible apply Keeps.side; (· decide))

theorem takeModId_keeps (s a1 a2) : Keeps [.lnk, .side] s (takeModId s a1 a2) := by
  refine ⟨⟨?_, ?_, ?_, ?_, ?_, ?_, ?_, ?_, ?_, ?_, ?_, ?_, ?_, ?_, ?_⟩, rfl⟩ <;> first | exact fun n_ => absurd (by decide) n_ | exact fun _ => rfl


theorem mgmtRefused_keeps (s a1 a2) : Keeps [.hif, .log, .ras] s (mgmtRefused s a1 a2) := by
  unfold mgmtRefused
  try dsimp -proj only
  repeat' first
    | with_reducible apply Keeps.rfl' | (with_reducible apply Keeps.via (pushErr_keeps ..); (· decide))

theorem liveField_keeps (s a1 a2) : Keeps [.mem, .parts, .hif, .log, .ras, .boot, .sec, .side] s (liveField s a1 a2) := by
  unfold liveField
  try dsimp -proj only
  repeat' first
    | with_reducible apply Keeps.rfl' | (with_reducible apply Keeps.via (pushErr_keeps ..); (· decide))
    | (with_reducible apply Keeps.via (fldSet_keeps ..); (· decide)) | split

theorem writeLedger_keeps (s a1 a2 a3 a4 a5) : Keeps [.log] s (writeLedger s a1 a2 a3 a4 a5) := by
  unfold writeLedger
  try dsimp -proj only
  repeat' first
    | with_reducible apply Keeps.rfl' | (with_reducible apply Keeps.via (ledger_keeps ..); (· decide))

theorem pushStepRec_keeps (s a1 a2) : Keeps [.parts, .log] s (pushStepRec s a1 a2) := by
  unfold pushStepRec
  try dsimp -proj only
  repeat' first
    | with_reducible apply Keeps.rfl' | (with_reducible apply Keeps.via (modPart_keeps ..); (· decide))
    | (with_reducible apply Keeps.via (unlose_keeps ..); (· decide))

theorem settlePages_keeps (s a1 a2) : Keeps [.parts, .slots] s (settlePages s a1 a2) := by
  unfold settlePages
  try dsimp -proj only
  repeat' first
    | with_reducible apply Keeps.rfl' | (with_reducible apply Keeps.via (modSlot_keeps ..); (· decide))
    | (with_reducible apply Keeps.via (modPart_keeps ..); (· decide))
    | (with_reducible apply Keeps.via (dropPages_keeps ..); (· decide))

theorem insertNode_keeps (s a1 a2) : Keeps [.parts] s (insertNode s a1 a2) := by
  unfold insertNode
  dsimp only
  split
  · exact Keeps.rfl'
  · split
    · exact (modPart_keeps ..).mono' (by decide)
    · rename_i s1 h
      have k : Keeps [.parts] s s1 := by
        revert h
        split
        · intro h
          obtain ⟨_, _, rfl⟩ := Option.map_eq_some_iff.mp h
          exact removeNode_keeps ..
        · intro h
          cases h
          exact Keeps.rfl'
      split <;> exact (modPart_keeps ..).via (by decide) k


theorem sealWaiting_keeps (s a1 a2) : Keeps [.parts] s (sealWaiting s a1 a2) := by
  unfold sealWaiting
  try dsimp -proj only
  repeat' first
    | with_reducible apply Keeps.rfl' | (with_reducible apply Keeps.via (modPart_keeps ..); (· decide))

theorem uncand_keeps (s a1 a2) : Keeps [.parts] s (uncand s a1 a2) := by
  unfold uncand
  try dsimp -proj only
  repeat' first
    | with_reducible apply Keeps.rfl' | (with_reducible apply Keeps.via (modPart_keeps ..); (· decide))

theorem resolveComposed_keeps (s a1) : Keeps [.tiles, .mem, .parts, .slots, .hif, .log, .lnk, .ras] s (resolveComposed s a1) := by
  unfold resolveComposed
  try dsimp -proj only
  repeat' first
    | with_reducible apply Keeps.foldl | intro t_ x_ | with_reducible apply Keeps.rfl'
    | (with_reducible apply Keeps.via (modPart_keeps ..); (· decide))
    | (with_reducible apply Keeps.via (rewriteParams_keeps ..); (· decide))
    | (with_reducible apply Keeps.via (staleTree_keeps ..); (· decide))
    | (with_reducible apply Keeps.via (uncand_keeps ..); (· decide)) | split

theorem taintedOut_keeps (s a1 a2) : Keeps [.parts, .hif, .log, .ras] s (taintedOut s a1 a2) := by
  unfold taintedOut
  try dsimp -proj only
  repeat' first
    | with_reducible apply Keeps.foldl | intro t_ x_ | with_reducible apply Keeps.rfl'
    | (with_reducible apply Keeps.via (toDlq_keeps ..); (· decide))

theorem endTiles_keeps (s a1) : Keeps [.tiles] s (endTiles s a1) := by
  unfold endTiles
  try dsimp -proj only
  repeat' first
    | with_reducible apply Keeps.foldl | intro t_ x_ | with_reducible apply Keeps.rfl'
    | (with_reducible apply Keeps.via (modTile_keeps ..); (· decide))

theorem stagedNow_keeps (s a1) : Keeps [.mem, .parts, .hif, .log, .ras, .boot, .sec, .side] s (stagedNow s a1) := by
  unfold stagedNow
  try dsimp -proj only
  repeat' first
    | with_reducible apply Keeps.rfl' | (with_reducible apply Keeps.via (applyStaged_keeps ..); (· decide))

theorem taintedEnd_keeps (s a1 a2 a3) : Keeps [.tiles, .mem, .parts, .hif, .log, .ras, .boot, .sec, .side] s (taintedEnd s a1 a2 a3) := by
  unfold taintedEnd
  try dsimp -proj only
  repeat' first
    | with_reducible apply Keeps.rfl' | (with_reducible apply Keeps.via (modPart_keeps ..); (· decide))
    | (with_reducible apply Keeps.via (pushStepRec_keeps ..); (· decide))
    | (with_reducible apply Keeps.via (taintedOut_keeps ..); (· decide))
    | (with_reducible apply Keeps.via (endTiles_keeps ..); (· decide))
    | (with_reducible apply Keeps.via (stagedNow_keeps ..); (· decide))

theorem forgetRepeat_keeps (s a1 a2) : Keeps [.mem] s (forgetRepeat s a1 a2) := by
  unfold forgetRepeat
  try simp -proj only [mk_putMem]
  repeat' first
    | with_reducible apply Keeps.rfl' | (with_reducible apply Keeps.mem; (· decide))

theorem clearLanes_keeps (s a1) : Keeps [.exps] s (clearLanes s a1) := by
  unfold clearLanes
  try simp -proj only [mk_putExps]
  repeat' first
    | with_reducible apply Keeps.rfl' | (with_reducible apply Keeps.exps; (· decide))

theorem preemptSlots_keeps (s a1 a2) : Keeps [.parts, .slots, .hif, .log, .lnk, .ras] s (preemptSlots s a1 a2) := by
  unfold preemptSlots
  try dsimp -proj only
  repeat' first
    | with_reducible apply Keeps.foldl | intro t_ x_ | with_reducible apply Keeps.rfl'
    | (with_reducible apply Keeps.via (doom_keeps ..); (· decide))
    | (with_reducible apply Keeps.via (preemptDoomed_keeps ..); (· decide))

theorem afterAbandon_keeps (s a1 a2 a3) : Keeps [.parts, .slots, .hif, .log, .lnk, .ras] s (afterAbandon s a1 a2 a3) := by
  unfold afterAbandon
  try dsimp -proj only
  repeat' first
    | with_reducible apply Keeps.ite | with_reducible apply Keeps.rfl'
    | (with_reducible apply Keeps.via (modPart_keeps ..); (· decide))
    | (with_reducible apply Keeps.via (closeSlots_keeps ..); (· decide))
    | (with_reducible apply Keeps.via (preemptSlots_keeps ..); (· decide))

theorem reportAbandon_keeps (s a1 a2) : Keeps [.slots, .hif, .log, .lnk, .ras] s (reportAbandon s a1 a2) := by
  unfold reportAbandon
  try dsimp -proj only
  repeat' first
    | with_reducible apply Keeps.ite | with_reducible apply Keeps.foldl | intro t_ x_ | with_reducible apply Keeps.rfl'
    | (with_reducible apply Keeps.via (postNotice_keeps ..); (· decide))

theorem recordAbandon_keeps (s a1 a2 a3) : Keeps [.hif, .log, .ras] s (recordAbandon s a1 a2 a3) := by
  unfold recordAbandon
  try dsimp -proj only
  repeat' first
    | with_reducible apply Keeps.ite | with_reducible apply Keeps.rfl'
    | (with_reducible apply Keeps.via (pushErr_keeps ..); (· decide))

theorem endCancelled_keeps (s a1 a2) : Keeps [.parts, .slots, .hif, .log, .lnk, .ras] s (endCancelled s a1 a2) := by
  unfold endCancelled
  try dsimp -proj only
  repeat' first
    | with_reducible apply Keeps.ite | with_reducible apply Keeps.foldl | intro t_ x_ | with_reducible apply Keeps.rfl'
    | (with_reducible apply Keeps.via (closeSlot_keeps ..); (· decide))

theorem abandonEnd_keeps (s a1 a2 a3) : Keeps [.tiles, .mem, .exps, .parts, .slots, .hif, .log, .lnk, .ras, .boot, .sec, .side] s (abandonEnd s a1 a2 a3) := by
  unfold abandonEnd
  try dsimp -proj only
  repeat' first
    | with_reducible apply Keeps.rfl' | (with_reducible apply Keeps.via (modPart_keeps ..); (· decide))
    | (with_reducible apply Keeps.via (preemptDoomed_keeps ..); (· decide))
    | (with_reducible apply Keeps.via (routeSome_keeps ..); (· decide))
    | (with_reducible apply Keeps.via (pushStepRec_keeps ..); (· decide))
    | (with_reducible apply Keeps.via (endTiles_keeps ..); (· decide))
    | (with_reducible apply Keeps.via (stagedNow_keeps ..); (· decide))
    | (with_reducible apply Keeps.via (clearLanes_keeps ..); (· decide))
    | (with_reducible apply Keeps.via (afterAbandon_keeps ..); (· decide))
    | (with_reducible apply Keeps.via (reportAbandon_keeps ..); (· decide))
    | (with_reducible apply Keeps.via (recordAbandon_keeps ..); (· decide))
    | (with_reducible apply Keeps.via (endCancelled_keeps ..); (· decide))

theorem putSwap_keeps (s a1 a2 a3 a4) : Keeps [.mem] s (putSwap s a1 a2 a3 a4) := by
  unfold putSwap
  try dsimp -proj only
  repeat' first
    | with_reducible apply Keeps.foldl | intro t_ x_ | with_reducible apply Keeps.rfl'
    | (with_reducible apply Keeps.via (setLen_keeps ..); (· decide))
    | (with_reducible apply Keeps.via (memPutRun_keeps ..); (· decide))

theorem postState_keeps (s a1) : Keeps [.slots, .hif, .log, .lnk, .ras] s (postState s a1) := by
  unfold postState
  try dsimp -proj only
  repeat' first
    | with_reducible apply Keeps.rfl' | (with_reducible apply Keeps.via (journal_keeps ..); (· decide))
    | (with_reducible apply Keeps.via (postSlotCpl_keeps ..); (· decide))

theorem returnRecompute_keeps (s a1) : Keeps [.parts, .slots, .hif, .log, .lnk, .ras] s (returnRecompute s a1) := by
  unfold returnRecompute
  try dsimp -proj only
  repeat' first
    | with_reducible apply Keeps.rfl' | (with_reducible apply Keeps.via (modSlot_keeps ..); (· decide))
    | (with_reducible apply Keeps.via (dropPages_keeps ..); (· decide))
    | (with_reducible apply Keeps.via (postState_keeps ..); (· decide))

theorem readmitRoom_keeps (s a1) : Keeps [.parts, .slots, .hif, .log, .lnk, .ras] s (readmitRoom s a1) := by
  unfold readmitRoom
  try dsimp -proj only
  repeat' first
    | with_reducible apply Keeps.rfl' | (with_reducible apply Keeps.via (displace_keeps ..); (· decide))
    | (with_reducible apply Keeps.via (preemptIdle_keeps ..); (· decide))

theorem restoreFails_keeps (s a1) : Keeps [.parts, .slots, .hif, .log, .ras] s (restoreFails s a1) := by
  unfold restoreFails
  try dsimp -proj only
  repeat' first
    | with_reducible apply Keeps.rfl' | (with_reducible apply Keeps.via (modSlot_keeps ..); (· decide))
    | (with_reducible apply Keeps.via (modPart_keeps ..); (· decide))
    | (with_reducible apply Keeps.via (pushErr_keeps ..); (· decide))
    | (with_reducible apply Keeps.via (refreshSwap_keeps ..); (· decide))

theorem restoreCtx_keeps (s a1) : Keeps [.tiles, .exps, .parts] s (restoreCtx s a1) := by
  unfold restoreCtx
  try simp -proj only [mk_putExps]
  repeat' first
    | with_reducible apply Keeps.foldl | intro t_ x_ | with_reducible apply Keeps.rfl'
    | (with_reducible apply Keeps.via (modPart_keeps ..); (· decide))
    | (with_reducible apply Keeps.via (modTile_keeps ..); (· decide)) | (with_reducible apply Keeps.exps; (· decide))

theorem refuseMove_keeps (s a1 a2 a3 a4 a5 a6) : Keeps [.tiles, .mem, .cmp, .parts, .slots, .hif, .log, .lnk, .ras] s (refuseMove s a1 a2 a3 a4 a5 a6) := by
  unfold refuseMove
  try dsimp -proj only
  repeat' first
    | with_reducible apply Keeps.ite | with_reducible apply Keeps.rfl'
    | (with_reducible apply Keeps.via (setTile_keeps ..); (· decide))
    | (with_reducible apply Keeps.via (tileErr_keeps ..); (· decide))
    | (with_reducible apply Keeps.via (retire_keeps ..); (· decide))
    | (with_reducible apply Keeps.via (moveFault_keeps ..); (· decide)) | split

theorem moveDone_keeps (s a1 a2) : Keeps [.tiles] s (moveDone s a1 a2) := by
  unfold moveDone
  try dsimp -proj only
  repeat' first
    | with_reducible apply Keeps.rfl' | (with_reducible apply Keeps.via (modInfl_keeps ..); (· decide))

theorem deliver_keeps (s a1 a2 a3 a4 a5 a6) : Keeps [.tiles, .mem, .cmp, .parts, .slots, .hif, .log, .lnk, .ras] s (deliver s a1 a2 a3 a4 a5 a6).1 := by
  unfold deliver
  try dsimp -proj only
  repeat' first
    | with_reducible apply Keeps.rfl' | (with_reducible apply Keeps.via (modTile_keeps ..); (· decide))
    | (with_reducible apply Keeps.via (settle_keeps ..); (· decide))
    | (with_reducible apply Keeps.via (refuseMove_keeps ..); (· decide))
    | (with_reducible apply Keeps.via (moveDone_keeps ..); (· decide)) | split
theorem deliver_keeps_eq {s a1 a2 a3 a4 a5 a6 u v} (h : (deliver s a1 a2 a3 a4 a5 a6) = (u, v)) : Keeps [.tiles, .mem, .cmp, .parts, .slots, .hif, .log, .lnk, .ras] s u := by
  have k := deliver_keeps s a1 a2 a3 a4 a5 a6
  rw [h] at k
  exact k

theorem checkVec_keeps (s a1 a2 a3) : Keeps [.tiles, .parts, .hif, .log, .ras] s (checkVec s a1 a2 a3) := by
  unfold checkVec
  try dsimp -proj only
  repeat' first
    | with_reducible apply Keeps.ite | with_reducible apply Keeps.rfl'
    | (with_reducible apply Keeps.via (sparseForm_keeps ..); (· decide))

theorem loadLine_keeps (s a1 a2 a3 a4) : Keeps [.tiles, .mem, .cmp, .parts, .slots, .hif, .log, .lnk, .ras] s (loadLine s a1 a2 a3 a4) := by
  unfold loadLine
  try dsimp -proj only
  repeat' first
    | with_reducible apply Keeps.rfl' | (with_reducible apply Keeps.via (drawFree_keeps ..); (· decide))
    | (with_reducible apply Keeps.via (modTile_keeps ..); (· decide))
    | (with_reducible apply Keeps.via (aCrcFault_keeps ..); (· decide))
    | (with_reducible apply Keeps.via (lineRead_keeps ..); (· decide))
    | (with_reducible apply Keeps.via (readPoisoned_keeps ..); (· decide)) | split

theorem loadRun_keeps (s a1 a2 a3 a4 a5) : Keeps [.tiles, .mem, .cmp, .parts, .slots, .hif, .log, .lnk, .ras] s (loadRun s a1 a2 a3 a4 a5) := by
  unfold loadRun
  try dsimp -proj only
  repeat' first
    | with_reducible apply Keeps.foldl | intro t_ x_ | with_reducible apply Keeps.rfl'
    | (with_reducible apply Keeps.via (loadLine_keeps ..); (· decide))

theorem finishGet_keeps (s a1 a2 a3 a4 a5 a6) : Keeps [.tiles, .mem, .cmp, .parts, .slots, .hif, .log, .lnk, .ras] s (finishGet s a1 a2 a3 a4 a5 a6) := by
  unfold finishGet
  try dsimp -proj only
  repeat' first
    | with_reducible apply Keeps.ite | with_reducible apply Keeps.rfl'
    | (with_reducible apply Keeps.via (modTile_keeps ..); (· decide))
    | (with_reducible apply Keeps.via (poisonedRead_keeps ..); (· decide))
    | (with_reducible apply Keeps.via (settle_keeps ..); (· decide))
    | (with_reducible apply Keeps.via (retire_keeps ..); (· decide)) | split

theorem refetch_keeps (s a1 a2 a3 a4) : Keeps [.tiles] s (refetch s a1 a2 a3 a4) := by
  unfold refetch
  try dsimp -proj only
  repeat' first
    | with_reducible apply Keeps.ite | with_reducible apply Keeps.rfl'
    | (with_reducible apply Keeps.via (modInfl_keeps ..); (· decide)) | split

theorem readNamed_keeps (s a1 a2 a3) : Keeps [] s (readNamed s a1 a2 a3) := by
  unfold readNamed
  try dsimp -proj only
  repeat' first
    | with_reducible apply Keeps.ite | with_reducible apply Keeps.rfl'
    | (with_reducible apply Keeps.via (emit_keeps ..); (· decide))

theorem refuseSubmit_keeps (s a1 a2) : Keeps [.parts, .hif, .log, .lnk, .ras] s (refuseSubmit s a1 a2) := by
  unfold refuseSubmit
  try dsimp -proj only
  repeat' first
    | with_reducible apply Keeps.rfl' | (with_reducible apply Keeps.via (journal_keeps ..); (· decide))
    | (with_reducible apply Keeps.via (answer_keeps ..); (· decide))

theorem refuseSubmitRec_keeps (s a1 a2) : Keeps [.parts, .hif, .log, .lnk, .ras] s (refuseSubmitRec s a1 a2) := by
  unfold refuseSubmitRec
  try dsimp -proj only
  repeat' first
    | with_reducible apply Keeps.rfl' | (with_reducible apply Keeps.via (pushErr_keeps ..); (· decide))
    | (with_reducible apply Keeps.via (refuseSubmit_keeps ..); (· decide))

theorem joinBlock_keeps (a0 s a2) : Keeps [.parts, .slots, .lnk] s (joinBlock a0 s a2) := by
  unfold joinBlock
  try dsimp -proj only
  repeat' first
    | with_reducible apply Keeps.ite | with_reducible apply Keeps.rfl'
    | (with_reducible apply Keeps.via (modSlot_keeps ..); (· decide))
    | (with_reducible apply Keeps.via (modPart_keeps ..); (· decide))
    | (with_reducible apply Keeps.via (newFlow_keeps ..); (· decide)) | split

theorem pickTarget_keeps (s a1) : Keeps [] s (pickTarget s a1).1 := by
  unfold pickTarget
  try dsimp -proj only
  repeat' first
    | with_reducible apply Keeps.iteFst | with_reducible apply Keeps.rfl'
    | (with_reducible apply Keeps.via (drawFree_keeps ..); (· decide)) | split
theorem pickTarget_keeps_eq {s a1 u v} (h : (pickTarget s a1) = (u, v)) : Keeps [] s u := by
  have k := pickTarget_keeps s a1
  rw [h] at k
  exact k

theorem admitInto_keeps (s a1 a2 a3 a4 a5) : Keeps [.parts, .slots, .hif, .log, .lnk, .ras] s (admitInto s a1 a2 a3 a4 a5) := by
  unfold admitInto
  try dsimp -proj only
  repeat' first
    | with_reducible apply Keeps.foldl | intro t_ x_ | with_reducible apply Keeps.rfl'
    | (with_reducible apply Keeps.via (setSlot_keeps ..); (· decide))
    | (with_reducible apply Keeps.via (modSlot_keeps ..); (· decide))
    | (with_reducible apply Keeps.via (refreshAdm_keeps ..); (· decide))
    | (with_reducible apply Keeps.via (journal_keeps ..); (· decide))
    | (with_reducible apply Keeps.via (postSlotCpl_keeps ..); (· decide))
    | (with_reducible apply Keeps.via (trackedBy_keeps ..); (· decide))
    | (with_reducible apply Keeps.via (joinBlock_keeps ..); (· decide))

theorem admitNew_keeps (s a1 a2 a3 a4) : Keeps [.parts, .slots, .hif, .log, .lnk, .ras] s (admitNew s a1 a2 a3 a4) := by
  unfold admitNew
  try dsimp -proj only
  repeat' first
    | with_reducible apply Keeps.ite | with_reducible apply Keeps.rfl'
    | (with_reducible apply Keeps.via (displace_keeps ..); (· decide))
    | (with_reducible apply Keeps.via (modPart_keeps ..); (· decide))
    | (with_reducible apply Keeps.via (pushErr_keeps ..); (· decide))
    | (with_reducible apply Keeps.via (admRefuse_keeps ..); (· decide))
    | (with_reducible apply Keeps.via (preemptIdle_keeps ..); (· decide))
    | (with_reducible apply Keeps.via (refuseSubmit_keeps ..); (· decide))
    | (with_reducible apply Keeps.via (refuseSubmitRec_keeps ..); (· decide))
    | (with_reducible apply Keeps.via (pickTarget_keeps ..); (· decide))
    | (with_reducible apply Keeps.via (admitInto_keeps ..); (· decide)) | dsimp only | split

theorem waitCancel_keeps (s a1 a2) : Keeps [.parts, .hif, .log, .lnk, .ras] s (waitCancel s a1 a2) := by
  unfold waitCancel
  try dsimp -proj only
  repeat' first
    | with_reducible apply Keeps.ite | with_reducible apply Keeps.rfl'
    | (with_reducible apply Keeps.via (startCmd_keeps ..); (· decide))
    | (with_reducible apply Keeps.via (acceptCmd_keeps ..); (· decide))

theorem tritCodes_keeps (s a1 a2 a3) : Keeps [.tiles, .mem, .cmp, .parts, .slots, .hif, .log, .lnk, .ras] s (tritCodes s a1 a2 a3) := by
  unfold tritCodes
  try dsimp -proj only
  repeat' first
    | with_reducible apply Keeps.ite | with_reducible apply Keeps.foldl | intro t_ x_ | with_reducible apply Keeps.rfl'
    | (with_reducible apply Keeps.via (rerunFault_keeps ..); (· decide))
    | (with_reducible apply Keeps.via (tileErrOnce_keeps ..); (· decide))
    | (with_reducible apply Keeps.via (markFaulty_keeps ..); (· decide))
    | (with_reducible apply Keeps.via (poisonBlock_keeps ..); (· decide))
    | (with_reducible apply Keeps.via (readPoisoned_keeps ..); (· decide)) | split

theorem arrayErr_keeps (s a1 a2 a3) : Keeps [.tiles, .mem, .cmp, .parts, .slots, .hif, .log, .lnk, .ras] s (arrayErr s a1 a2 a3) := by
  unfold arrayErr
  try dsimp -proj only
  repeat' first
    | intro t_ | with_reducible apply Keeps.rfl' | (with_reducible apply Keeps.via (modTile_keeps ..); (· decide))
    | (with_reducible apply countFault_keeps; (· decide)) | (with_reducible apply Keeps.via (rerunFault_keeps ..); (· decide))
    | (with_reducible apply Keeps.via (tileErr_keeps ..); (· decide))
    | (with_reducible apply Keeps.via (tileErrOnce_keeps ..); (· decide)) | split

theorem feedSilent_keeps (s a1 a2 a3 a4 a5) : Keeps [.tiles, .mem, .cmp, .parts, .slots, .hif, .log, .lnk, .ras] s (feedSilent s a1 a2 a3 a4 a5) := by
  unfold feedSilent
  try dsimp -proj only
  repeat' first
    | with_reducible apply Keeps.ite | with_reducible apply Keeps.same | intro t_ | with_reducible apply Keeps.rfl'
    | (with_reducible apply Keeps.via (makeSuspect_keeps ..); (· decide)) | (with_reducible apply countFault_keeps; (· decide))
    | (with_reducible apply Keeps.via (tileErr_keeps ..); (· decide))
    | (with_reducible apply Keeps.via (waitFault_keeps ..); (· decide))
    | (with_reducible apply Keeps.via (waitOut_keeps ..); (· decide)) | split

theorem vecEffect_keeps (s a1 a2) : Keeps [.tiles, .parts, .hif, .log, .ras] s (vecEffect s a1 a2) := by
  unfold vecEffect
  try dsimp -proj only
  repeat' first
    | with_reducible apply Keeps.ite | with_reducible apply Keeps.foldl | intro t_ x_ | with_reducible apply Keeps.rfl'
    | (with_reducible apply Keeps.via (drawFree_keeps ..); (· decide))
    | (with_reducible apply Keeps.via (setTile_keeps ..); (· decide))
    | (with_reducible apply Keeps.via (tileErr_keeps ..); (· decide))
    | (with_reducible apply Keeps.via (countNonfinite_keeps ..); (· decide))
    | (with_reducible apply Keeps.via (shuffle_keeps ..); (· decide)) | dsimp only | split

theorem bandEffect_keeps (s a1 a2) : Keeps [.tiles, .parts, .hif, .log, .ras] s (bandEffect s a1 a2) := by
  unfold bandEffect
  try dsimp -proj only
  repeat' first
    | with_reducible apply Keeps.rfl' | (with_reducible apply Keeps.via (setTile_keeps ..); (· decide))
    | (with_reducible apply Keeps.via (modCounters_keeps ..); (· decide))
    | (with_reducible apply Keeps.via (countNonfinite_keeps ..); (· decide))
    | (with_reducible apply Keeps.via (modBand_keeps ..); (· decide)) | split

theorem saveRunning_keeps (s a1) : Keeps [.tiles, .parts] s (saveRunning s a1) := by
  unfold saveRunning
  try dsimp -proj only
  repeat' first
    | with_reducible apply Keeps.ite | with_reducible apply Keeps.foldl | intro t_ x_ | with_reducible apply Keeps.rfl'
    | (with_reducible apply Keeps.via (modPart_keeps ..); (· decide))
    | (with_reducible apply Keeps.via (modTile_keeps ..); (· decide))

theorem applyParked_keeps (s a1) : Keeps [.mem, .parts, .hif, .log, .ras, .boot, .sec, .side] s (applyParked s a1) := by
  unfold applyParked
  try dsimp -proj only
  repeat' first
    | with_reducible apply Keeps.rfl' | (with_reducible apply Keeps.via (fldSet_keeps ..); (· decide)) | split

theorem contextBack_keeps (s a1) : Keeps [.tiles, .parts] s (contextBack s a1) := by
  unfold contextBack
  try dsimp -proj only
  repeat' first
    | with_reducible apply Keeps.ite | with_reducible apply Keeps.foldl | intro t_ x_ | with_reducible apply Keeps.rfl'
    | (with_reducible apply Keeps.via (modPart_keeps ..); (· decide))
    | (with_reducible apply Keeps.via (modTile_keeps ..); (· decide))

end Sys2Proof.Machine
end

