-- ==== Sys2Proof/WellFormed.lean ====
section
/-! DEFINITION. Which commands are well formed: the ranges the spec gives their operands' encodings. -/

namespace Sys2Proof

/-- An operand's constant fits `w` bits; a register operand always does (R218). -/
def Opd.fits (w : Nat) : Opd → Bool
  | .imm v => decide (v < 2 ^ w)
  | .reg _ => true

/-- A range set declares at most 7 ranges of 16-bit granules and counts (Table 9-3, Table 9-4). -/
def RangeSet.wf (r : RangeSet) : Bool :=
  decide (r.ranges.length ≤ 7) && r.ranges.all fun d => d.first.fits 16 && d.cntm1.fits 16

/-- A descriptor's source: VF 1-8 or PF0, a tag of 64 bits, a slot of 32 bits (Table 17-1). -/
def Src.wf (s : Src) : Bool := decide (s.tag < 2 ^ 64) && decide (s.slot < 2 ^ 32) && decide (s.ridx < 2 ^ 32)

/-- A flit header's fields fit Table 18-2. -/
def Flit.wf (f : Flit) : Bool :=
  decide (f.fkind < 4) && decide (f.seq < 1024) && decide (f.ackSeq < 1024) && decide (f.crN < 4) && decide (f.errs.length ≤ 256) && f.errs.all fun e => decide (e < 256)

/-- A packet header's fields fit Table 18-4. -/
def Packet.wf (k : Packet) : Bool :=
  decide (k.dmod < 64) && decide (k.smod < 64) && decide (k.flow < 2 ^ 32) && decide (k.pseq < 2 ^ 32) && decide (k.dtile < 65536)

/-- Whether a command's operands lie in the ranges their encodings admit. -/
def Instr.wf : Instr → Bool
  | .tbuild _ rs a => rs.wf && a.src.fits 16 && decide (a.fmt < 8)
  | .tlook _ rs a => rs.wf && decide (a.amode < 4) && decide (a.fmt < 8)
  | .drain _ rs a _ => rs.wf && decide (a.outFmt < 16) && decide (a.wmode < 4)
  | .vecOp _ rs a | .vecXred _ rs a | .vecRed _ rs a | .vecMerge _ rs a | .vecNorm _ rs a | .vecRope _ rs a
  | .vecQuant _ rs a | .vecTopk _ rs a | .vecSample _ rs a => rs.wf && decide (a.func < 64)
  | .flitReceive _ f => f.wf
  | .sendPacketReceive k _ | .relayPacketReceive k _ | .expertPacketReceive k _ => k.wf
  | .handoffPacketReceive k _ _ | .pagePacketReceive k .. | .weightPacketReceive k _ _ => k.wf
  | .submit s _ _ | .speculate s .. | .cancel s | .cancelAll s | .config s .. => s.wf
  | .registerWrite _ _ off width _ => decide (off < 2 ^ 32) && decide (width ≤ 8)
  | .mgmtWrite off _ | .mgmtRead off => decide (off < 2 ^ 32)
  | .mgmtImageData off d => decide (off < 2 ^ 32) && decide (1 ≤ d.length) && decide (d.length ≤ 240)
  | .modidSample f g => f.length == 8 && decide (g.length ≤ 10)
  | _ => true

end Sys2Proof
end

