-- ==== Sys2Proof/Tests/Slice0.lean ====
section
/-! SUPPORT. Witnesses that the hypotheses of the statements can be met, and small tests on values of the spec. -/

namespace Sys2Proof.Tests

set_option Elab.async false

set_option maxRecDepth 100000

open Sys2Proof Sys2Proof.Machine

/-- A step of partition 0. -/
def step5 : Step :=
  { num := 5, ctx := 0, version := 1, bundle := 1, cols := [], rerun := false, tStart := 0, suspended := false, event := 0,
    cnt := Counters.zero, emissions := [], ended := [], why := none, taint := none, sLim := none, trees := [], reports := [], block := 0, facts := [] }

/-- A partition of die 0, its context 0 running, executing `e`. -/
def part0 (e : Option Step) : Part :=
  { Part.init with dies := 1, valid := true, nctx := 1, ctxs := [(0, { Ctx.init with st := .running })], exec := e }

/-- An instruction in flight and started, tag 3. -/
def infl (op : Op) (prog : Nat) : Infl := ⟨3, 7, op, [], none, true, prog, 0, [], false⟩

/-- Tile 0 of partition 0 with these instructions in flight. -/
def tile0 (l : List Infl) : Tile := { Tile.init with st := .run, version := 1, inflight := l }

/-- A machine whose tile 0 is `x` and runs step 5. -/
def onTile (x : Tile) : State := { State.reset with parts := [(0, part0 (some step5))], tiles := [(0, x)] }

/-- Tile 0 with nothing in flight. -/
def idle0 : State := onTile (tile0 [])

/-- Tile 0 with one instruction in flight. -/
def busy (op : Op) (prog : Nat) : State := onTile (tile0 [infl op prog])

/-- A range set of one READ range, the last granule of scratch. -/
def rs1 : RangeSet := ⟨[⟨.imm 65535, .imm 0, false⟩], none⟩
/-- Its range. -/
def g1 : List Rng := [⟨65535, 1, false⟩]
/-- A range set of no range. -/
def rs0 : RangeSet := ⟨[], none⟩

/-- VEC operands. -/
def vecA (ncols aux : Nat) : VecArgs := ⟨.imm 0, .imm 0, .imm 0, .imm 65535, ncols, 0, 0, 0, aux⟩
/-- ATTN operands on row 0, 64 keys from the store. -/
def attnA : AttnArgs := ⟨.imm 1, 1, .imm 64, 0, 8, 0, .imm 0, .imm 0⟩
/-- Row 0 after INIT, its second buffer as given. -/
def rowB (st : BufSt) (n : Nat) : Row := { initRow Row.init false with buf1 := { ScoreBuf.init with st := st, nkeys := n } }
/-- Tile 0 with that row. -/
def onRow (st : BufSt) (n : Nat) (l : List Infl) : State := onTile { tile0 l with rows := [(0, rowB st n)] }
/-- Buffer 1 of the TLA built: 32 groups, 64 columns. -/
def onTags : State := onTile { tile0 [] with tags := [(1, ⟨true, 3, 32, 64⟩)] }
/-- A class A region of partition 0 at address 0. -/
def regionA : Region := { Region.init with valid := true, cls := .a, size := 1 }
/-- Memory whose region 0 is that region. -/
def memA : Mem := { Mem.init with regions := [(0, regionA)] }
/-- Tile 0 with memory. -/
def onMem (x : Tile) : State := { onTile x with mem := memA }
/-- Tile 0 in a group of four modules. -/
def onLnk (x : Tile) : State := { onTile x with lnk := { Lnk.init with modules := 4 } }
/-- SELECT, APPLY and AUDIT operands. -/
def selA : SelectArgs := ⟨.imm 0, 256, .imm 255, 64, true, .imm 0, .imm 0, 0, 0⟩
/-- APPLY operands. -/
def appA : ApplyArgs := ⟨.imm 0, false, 256, .imm 255, .imm 0, .imm 0, 0, 0, 16, 0⟩
/-- AUDIT operands. -/
def audA : AuditArgs := ⟨.imm 0, .imm 16, 64, .imm 0, 1, 2, 0, 0⟩
/-- Tile 0 with a threshold of 1 and the policy word of a STRICT layer of 256 bands. -/
def onAud : State := onTile { tile0 [] with regs := [(1, 0x3F800000), (2, 0xFF0002)] }
/-- A window's fields. -/
def win (base len : Nat) (closing : Bool) (dir pend : Nat) : Win := ⟨base, len, true, 31, dir, 0, pend, closing, false, []⟩
/-- Tile 0 with window 7. -/
def onWin (w : Win) : State := onTile { tile0 [] with wins := [(7, w)] }
/-- A parameter section of the step. -/
def sec5 : Section := ⟨5, 1, true, none, [1, 2]⟩
/-- Tile 0 with its section. -/
def onSec : State := onTile { tile0 [] with sec := some sec5, bankVer := [(0, 1)] }
/-- A tile image of one instruction, SYNC.END, with barrier 0 of two participants and home tile 0 (R237, Table 9-17): its
header, barrier table and instruction, with the CHECK of those bytes. -/
def image0 : List Byte :=
  leBytes 4 1 ++ leBytes 2 1 ++ leBytes 2 0 ++ leBytes 4 0 ++ leBytes 4 0x8A39C04D ++ leBytes 48 0 ++ leBytes 4 1 ++ leBytes 252 0 ++
    leBytes 16 0x3FFA2
/-- A program of partition 0 with that image for tiles 0 and 1. -/
def prog1 : Prog :=
  { part := 0, ctx := 0, bundle := 1, bver := 1, version := 1, bank := 0, current := true, loading := false, faulty := false,
    cannotRun := false, homes := [],
    img := { images := [⟨[0, 1], image0⟩], feeds := [], divs := [], loops := [], placement := [], nsel := [] } }
/-- A machine with that program. -/
def onProg (x : Tile) : State := { onTile x with cmp := { Cmp.init with progs := [prog1] } }

/-- Die 0 on. -/
def die0 : State := { State.reset with pwr := { Pwr.init with dies := [(0, { DiePwr.init with powered := true })] } }
/-- Partition 0 with PACE_LOW declared and both its dies good for 16 windows. -/
def lowP : State :=
  { State.reset with
    parts := [(0, { part0 none with paceLow := true })],
    pwr := { Pwr.init with dies := [(0, { DiePwr.init with goodRun := 16 }), (16, { DiePwr.init with goodRun := 16 })] } }

/-- The TLA's instructions in flight. -/
def opDrain : Op := .drain 2047 1 64 1 0 0 none 0 1 true .clean
/-- A TLOOK of one row from the store. -/
def opTlook (nr : Nat) (exp : Bool) : Op := .tlook 0 nr 2047 0 1 exp 0 32 64
/-- QK of 64 keys. -/
def opQk (k : Nat) : Op := .qk 1 1 k 0 1 0 0 0
/-- A QK whose last key is drawn. -/
def qkFed : Infl := { infl (opQk 64) 63 with fed := 64 }
/-- Row 0 with every lane's partial of that key, tile 0 with that QK. -/
def onKey : State :=
  onTile { tile0 [qkFed] with rows := [(0, { rowB .empty 0 with skew := [⟨63, 2 ^ 128 - 1, [(0, 5), (127, 3)]⟩] })] }
/-- PV of 64 keys. -/
def opPv (k : Nat) : Op := .pv 1 1 k 1 0 0 0
/-- The band entry an APPLY waits with. -/
def band1 : BandSt := ⟨0, 0, 0, false, true, 9, [0], [], 256, 1, 0, 2, none, [], 0, false, false, false⟩
/-- A machine whose tile 0 waits for its peers' verdicts. -/
def onBand (np : Nat) : State :=
  onTile { tile0 [infl (.bandApply 0 false 256 256 0 0 0 0 np 0) 0] with bands := [{ band1 with npeer := np }] }
/-- Tile 0 with a window, a session holding the tile at Reduced. -/
def shutN (w : Win) : State :=
  { onWin w with pwr := { Pwr.init with sense := [(0, { TileSense.init with reduced := true })] } }
/-- Tiles 0 and 1 with the same selection, the window of verdicts open at tile 0. -/
def onPeers : State :=
  { onBand 2 with tiles :=
    [(0, { tile0 [infl (.bandApply 0 false 256 256 0 0 0 0 2 0) 0] with bands := [{ band1 with npeer := 2 }], wins := [(0, win 64 1 false 1 0)] }),
      (1, { tile0 [] with bands := [{ band1 with npeer := 2 }] })] }
/-- Tile 0 with a group of a STRICT layer audited, a band missed. -/
def onStrict : State :=
  onTile { tile0 [] with bands := [{ band1 with policy := 2, audited := true, verdict := some true, misses := [1] }] }
/-- Windows of tile 9 on die 0 open IN and OUT, tile 1 its neighbour to the north with a put or a get. -/
def onPair (op : Op) (w : Win) : State :=
  { State.reset with parts := [(0, part0 (some step5))], tiles := [(1, tile0 [infl op 0]), (9, { tile0 [] with wins := [(0, w)] })] }
/-- The state of a step's partition whose step has one column. -/
def col1 : Column := ⟨.decode, 0, 0, 0, 0, true, none⟩
/-- Tile 0 with a draw of the random generator. -/
def onRng (dom : Nat) : State :=
  { onTile (tile0 [infl (.rng 0 1 dom 0 0 0) 0]) with parts := [(0, part0 (some { step5 with cols := [col1] }))] }

/-- A load whose line 0 is still to come. -/
def missing (l : Nat) : Infl := { infl (.load 65535 0 1 true false) 0 with waits := [l] }
/-- Tile 0, idle outside a step, its window 7 as given. -/
def idleWin (w : Win) : State := { State.reset with tiles := [(0, { Tile.init with wins := [(7, w)] })] }
/-- A TLOOK that waits for an expander's row. -/
def feedTlook : Infl := infl (opTlook 1 true) 0
/-- A QK fed by EXP_A. -/
def feedQk : Op := .qk 1 1 64 0 1 1 0 0
/-- A RED whose partials have not come. -/
def redOp : Infl := { infl (.vec 0x72 0 0 0 1 1 0 0 0 2 0 0) 0 with await := some (0, 1) }
/-- Tile 0 held at a SYNC that waits for its blocks and a count. -/
def onSync : State := onTile { tile0 [] with st := .held, waitBlocks := some 63, waitCount := some (0, 1) }
/-- Tile 0 held for a count. -/
def onCount : State :=
  onTile { tile0 [] with hold := 6, held := some (.tbuild 0 ⟨[], some (0, 1)⟩ ⟨.imm 0, .imm 1, .imm 1, 0, 1⟩) }
/-- Tile 0 at barrier 0, tile 1 not there. -/
def onBar (here : List Nat) : State := onProg { tile0 [] with st := .held, waitBar := some 0, bars := [(0, here)] }
/-- Tile 0 at the issue limit. -/
def onLimit : State := onProg { tile0 [] with issued := 2 ^ 24 }
/-- Tile 0 at the end of its program, one granule its emission range. -/
def onEnd : State := onTile { tile0 [] with st := .idle, ended := true, endRange := some ⟨65535, 1, false⟩ }
/-- Tile 0 with an abandonment notice and an instruction that has not started. -/
def onAbandon : State := onTile { tile0 [{ infl opDrain 0 with started := false }] with abandonOn := true }
/-- Tile 0 at a SYNC with an abandonment notice. -/
def outAbandon : State :=
  onTile { tile0 [{ infl opDrain 0 with started := false }] with st := .held, waitBlocks := some 31, abandonOn := true }
/-- What tile 0 prefetches of a parameter block with no words. -/
def sec0 : Section := ⟨0, 1, true, none, []⟩
/-- Tile 0 with that block at line 0. -/
def onBlock : State :=
  { onTile { tile0 [] with bankVer := [(0, 1)] } with
    mem := { memA with bytes := [(8, 1), (248, 0xC9), (249, 0x3D), (250, 0x0C), (251, 0xBA)] } }
/-- The same with the tile's section in use and the next step composed. -/
def onNext : State :=
  { onBlock with
    tiles := [(0, { tile0 [] with sec := some sec5, bankVer := [(0, 1)] })]
    parts := [(0, { part0 (some step5) with composed := some step5 })] }
/-- Partition 0 switching: QUIESCE, no step. -/
def quiesce (e : Option Step) : State :=
  { State.reset with parts := [(0, { part0 e with switchSt := .quiesce, nctx := 2, incoming := 1 })] }
/-- A step that an event taints. -/
def tainted5 : Step := { step5 with taint := some 7, ended := List.range 64 }
/-- A step being abandoned. -/
def why5 : Step := { step5 with why := some (toRerun none) }
/-- Partition 0 with a step, no tile busy. -/
def stepped (e : Step) : State := { State.reset with parts := [(0, part0 (some e))] }
/-- Slot 3 of partition 0, in decode under version 1, its tracker as given. -/
def slot3 (st : SlotSt) : Slot := { Slot.init with st := st, bundle := 1, bver := 1, pver := 1, tokens := [5], nprompt := 1, maxNew := 4 }
/-- A machine with that slot and a program, in RUN. -/
def served (x : Slot) : State :=
  { State.reset with
    parts := [(0, part0 none)], slots := [(3, x)], cmp := { Cmp.init with progs := [prog1] },
    boot := { Boot.init with st := .run } }
/-- A page of partition 0. -/
def page0 (st : PageSt) : Page := { Page.init with st := st, refs := 1 }
/-- A placement of one page a set on die 0. -/
def placed1 : Prog := { prog1 with img := { prog1.img with placement := [⟨0, 0, [0]⟩] } }
/-- A machine whose slot 3 is pre-empted, with these pages at the host. -/
def swapped (x : Slot) (r : List SwapRec) : State :=
  { served x with
    hif := { Hif.init with fns := [(0, { Fn.init with bme := true })] }
    parts := [(0, { part0 none with swaps := r, swapArea := some (0, 4096), poolPage := 1, poolMeta := 1, pages := [(2 ^ 32, page0 .open_)] })]
    cmp := { Cmp.init with progs := [placed1] },
    mem := { Mem.init with regions := [(1, { Region.init with valid := true, cls := .s, size := 1, pool := 1 })] } }
/-- A swap record. -/
def rec0 (i : Nat) : SwapRec := ⟨3, i, 0, page0 .open_, 0, 0⟩
/-- Step 5 with every tile's end notice. -/
def ended5 : Step := { step5 with ended := List.range 64 }
/-- That step with every tile's report. -/
def whyOut : Step := { why5 with reports := (List.range 64).map fun n => (n, 0) }
/-- Partition 0 with a step being abandoned and every tile done with it. -/
def allOut : State := { stepped whyOut with tiles := (List.range 64).map fun n => (n, { Tile.init with st := .abandoning }) }
/-- Slot 3 closing, its FINAL done. -/
def slotDone : State := served { slot3 .closing with finDone := true, admits := 2 }
/-- Slot 3 waiting to hand off again. -/
def slotRetry : State := served { slot3 .handoff with retryAt := some 0 }
/-- Slot 3 pre-empted with one private page still here. -/
def slotSwap : State := swapped { slot3 .preempted with sets := [[2 ^ 32]], swapped := [2 ^ 32] } []
/-- Slot 3 pre-empted, from decode, with nothing at the host. -/
def slotBack : State := swapped { slot3 .preempted with back := .decode } []
/-- Slot 3 pre-empted with one record at the host. -/
def slotRec : State := swapped { slot3 .preempted with back := .decode } [rec0 0]
/-- Slot 3 to be recomputed. -/
def slotAgain : State := swapped { slot3 .preempted with recompute := true } []
/-- Slot 3 restoring its last page. -/
def slotLast : State := swapped { slot3 .preempted with toRestore := [0] } [rec0 0]
/-- Slot 3 restoring its first page of two. -/
def slotTwo : State := swapped { slot3 .preempted with toRestore := [0, 1] } [rec0 0, rec0 1]
/-- A swap record's bytes, of no block. -/
def swap1 : List Byte := leBytes 16 0 ++ leBytes 4 0xECBB4B55
/-- That state with a page taken for it. -/
def slotTwoPage : State × Nat := (allocPage slotTwo 0 1 0 0 3).getD (slotTwo, 0)
/-- Two contexts, the other with a request. -/
def twoCtx (due : Bool) : State :=
  { State.reset with
    parts := [(0, { part0 none with nctx := 2, switchDue := due, ctxs := [(0, { Ctx.init with st := .running }), (1, { Ctx.init with st := .ready })] })],
    slots := [(3, { slot3 .decode with ctx := 1 })], cmp := { Cmp.init with progs := [prog1] } }
/-- A partition in a stage of a switch to context 1. -/
def switching (st : SwitchSt) (e : Option Step) : State :=
  { State.reset with
    parts := [(0, { part0 e with nctx := 2, switchSt := st, incoming := 1, ctxs := [(0, { Ctx.init with st := .saving }), (1, { Ctx.init with st := .restoring })] })] }
/-- A feed entry. -/
def feed1 (k : FeedKind) : FeedEntry := ⟨k, 0, 0, 0, 0, [0], 0, 0, 0⟩
/-- A lane on die 0. -/
def onLane (x : Lane) : State := { stepped step5 with exps := { Exps.init with lanes := [(0, x)] } }
/-- A band entry with its verdict at tile 0. -/
def applied (mk : Bool) : State := { onTile { tile0 [] with bands := [{ band1 with verdict := some true }] ++
  (if mk then [{ band1 with makeup := true, verdict := some true, list := [1] }] else []) } with mem := memA }
/-- A migration off channel 0. -/
def migrating (st : BucketSt) : State :=
  { State.reset with mem := { Mem.init with migs := [⟨0, [⟨false, 0, 1, st⟩], 0, 0, true⟩] } }
/-- A class W region of partition 0. -/
def memW : State :=
  { stepped step5 with mem := { Mem.init with regions := [(0, { regionA with cls := .w })], lmap := [(0, some 0)] } }

/-- A descriptor of PF0 through its mailbox. -/
def x0 : Src := ⟨0, 0, 0, none, 0, 9, 3, none, none, none⟩
/-- A descriptor of PF0 through the BE submit ring. -/
def x2 : Src := { x0 with ring := some 2 }
/-- The same image of version 2, with no barrier. -/
def image2 : List Byte :=
  leBytes 4 2 ++ leBytes 2 1 ++ leBytes 2 0 ++ leBytes 4 0 ++ leBytes 4 0xB718A2E0 ++ leBytes 304 0 ++ leBytes 16 0x3FFA2
/-- A step program of version 2 for die 0. -/
def img2 : ProgramImage := { prog1.img with images := [⟨List.range 64, image2⟩] }
/-- A bundle of one tensor. -/
def bundle1 : Bundle :=
  { id := 1, version := 1, base := none, shared := false, mirror := false, moe := false, stochastic := false, page4k := 1,
    nlayers := 1, dModel := 5, vocab := 262144, codes := [], kvSlot := 0, kvGen := 0, checkOk := true, reserved := true,
    tensors := [⟨0, 0, 0, 1, 5, 1, 6, 0, 0, 0, 0, 2 ^ 19, [], [0]⟩], dataAt := 0, params := ⟨64, 2 ^ 20, 32, [], []⟩, program := prog1.img }
/-- A load's data of which nothing stands. -/
def noBundle : BundleImage := ⟨[], bundle1.params, prog1.img⟩
/-- Its entry, resident and current or being loaded. -/
def ent1 (loading : Bool) : BundleEnt := ⟨!loading, loading, !loading, false, false, 0, 0, 0, 0, bundle1⟩
/-- A machine with that bundle and its program in partition 0. -/
def loaded : State :=
  { served Slot.init with slots := [], cmp := { Cmp.init with progs := [prog1], bundles := [(0, some (ent1 false))] } }
/-- The load of that bundle under way. -/
def loading : State :=
  { loaded with cmp := { Cmp.init with
    progs := [{ prog1 with loading := true, current := false }], bundles := [(0, some (ent1 true))],
    loads := [(0, some ⟨x0, 0x20, 1, 1, 1, none⟩)] } }
/-- An adapter record. -/
def adp1 : AdapterImage :=
  ⟨leBytes 4 1 ++ leBytes 2 1023 ++ leBytes 2 1 ++ leBytes 4 2 ++ leBytes 4 0x17C9EDEF ++
    leBytes 4 0x1000000 ++ leBytes 4 0 ++ leBytes 4 32 ++ leBytes 4 0 ++ leBytes 84 0⟩
/-- The adapter as it lies in memory. -/
def ad1 (loading : Bool) : Adapter := ⟨0, 0, 1, 1023, 1, 2, 2 ^ 20, !loading, loading, false⟩
/-- A machine with a bundle and a class S region. -/
def adapted (a : List Adapter) (l : List (Nat × Option Load)) : State :=
  { loaded with
    cmp := { loaded.cmp with adapters := a, loads := l },
    mem := { Mem.init with regions := [(1, { Region.init with valid := true, cls := .s, size := 1 })] } }
/-- A code table of one symbol. -/
def table1 : List Byte := leBytes 4 0x0F01 ++ leBytes 4 0x49D98188 ++ leBytes 128 12
/-- SUBMIT arguments. -/
def sub1 : SubmitArgs := ⟨true, true, false, 1, none, 0, 0, 0x3F800000, 1024, 0, 0, 1, 1, 0, 0, 0, 0⟩
/-- Its block. -/
def blk1 : List Byte := leBytes 8 7 ++ leBytes 32 0 ++ leBytes 4 262143
/-- A machine with slot 3 running in step 5 or not. -/
def slotted (x : Slot) (run : Bool) : State :=
  { loaded with
    slots := [(3, { x with tag := 9 })],
    parts := [(0, part0 (if run then some { step5 with cols := [{ col1 with slot := 3 }] } else none))] }
/-- A tree of one node. -/
def tree1 : List Byte := leBytes 4 0xFF ++ leBytes 4 5 ++ leBytes 4 0
/-- Ring 2 of partition 0 in a state. -/
def ringed (st : RingSt) : State :=
  { loaded with hif := { Hif.init with rings := [(2, { Ring.init with st := st, pidx := 5, cidx := 5, log2 := 6 })] } }
/-- Output ring 3 of partition 0 active, its function a bus master. -/
def ringed3 (u : Nat) : State :=
  { loaded with hif := { Hif.init with
    rings := [(3, { Ring.init with st := .active, log2 := 6, unsig := u })], fns := [(0, { Fn.init with bme := true })] } }
/-- Partition 0 with a second context. -/
def ctx1 : State :=
  { loaded with parts := [(0, { part0 none with nctx := 2, ctxs := [(0, { Ctx.init with st := .running }), (1, { Ctx.init with st := .ready })] })] }
/-- A descriptor for context 1. -/
def x1 : Src := { x0 with ctx := 1 }
/-- Partition 0 with one dead-letter record. -/
def lettered : State := { loaded with parts := [(0, { part0 none with dlq := [⟨0, 0, 0, .ok, 0, 0, 0, 0⟩] })] }
/-- A machine with one queued journal entry. -/
def journalled : State :=
  { loaded with log := { Log.init with journals := [(0, ⟨0, [], [⟨0, 9, 0, 0, 0, .accepted, 0x40, 5, 0, 3, 0, 0⟩]⟩)] } }

/-- Partition 0 in QUIESCE, every tile stopped. -/
def stoppedAll : State :=
  { quiesce (some step5) with tiles := (List.range 64).map fun n => (n, { Tile.init with st := .run, stopped := true }) }
/-- A restore of a context saved in the middle of its step. -/
def whole1 : State :=
  { State.reset with parts := [(0, { part0 none with
    nctx := 2, switchSt := .restore, incoming := 1,
    ctxs := [(0, { Ctx.init with st := .saved }), (1, { Ctx.init with st := .restoring, held := some step5 })] })] }
/-- Partition 0 with a declared event. -/
def declaredP : State := { loaded with parts := [(0, { part0 none with declared := some ⟨0x31, 0x32⟩ })] }
/-- Partition 0 with a page that is being sealed. -/
def sealing : State := { stepped step5 with parts := [(0, { part0 (some step5) with pages := [(5, page0 .sealing)] })] }
/-- Memory with the class A region. -/
def memA' : State := { stepped step5 with mem := memA }
/-- That memory with its first block poisoned. -/
def memP : State :=
  { stepped step5 with mem := { Mem.init with regions := [(0, { regionA with cls := .s })], poison := [0], badLine := [(0, 0)] } }
/-- Ring 0 of partition 0 paused, its owner a bus master. -/
def pausedMaster : State :=
  { loaded with hif := { Hif.init with
    rings := [(0, { Ring.init with st := .paused, log2 := 6 })], fns := [(0, { Fn.init with bme := true })] } }

/-- The module in RUN with its host up and PF0 a bus master. -/
def hosted (f : Fn) (rings : List (Nat × Ring)) : State :=
  { loaded with hif := { Hif.init with hostUp := true, fns := [(0, { f with bme := true })], rings := rings } }
/-- An active ring of 64 entries. -/
def ring6 (p c : Nat) : Ring := { Ring.init with st := .active, pidx := p, cidx := c, log2 := 6 }
/-- PF0 with a command in its mailbox. -/
def mailed : State := hosted { Fn.init with mbxWord := 0x40 } []
/-- BAR4 over a class S region whose first block is poisoned. -/
def barP : State :=
  { loaded with
    mem := { Mem.init with regions := [(1, { Region.init with valid := true, cls := .s, base := 0, size := 1 })], poison := [0], badLine := [(0, 0)] } }
/-- Function VF 1 of a module with one VF. -/
def oneVf : State := { loaded with hif := { Hif.init with numVfs := 1 } }
/-- The relay window to a reachable module 3. -/
def relayed : State :=
  { loaded with
    hif := { Hif.init with front := true, relayMod := 3 },
    lnk := { Lnk.init with routes := [(3, { Route.init with reachable := true })] } }
/-- Port 0 in a state, module 1 its peer. -/
def ported (x : LnkPort) : State :=
  { loaded with
    lnk := { Lnk.init with topo := 1, modules := 4, groupId := 7, ports := [(0, x)], routes := [(1, { Route.init with primary := 1 })] },
    boot := { loaded.boot with applied := true } }
/-- A flow of one packet in this state. -/
def flowing (op : FlowOp) (tries : Nat) : State :=
  { ported { LnkPort.init with st := .up, width := 8, lanesOk := 0xFF } with
    lnk := { (ported { LnkPort.init with st := .up }).lnk with tx := [⟨5, 1, 3, 1, op, [⟨0, 1, some 0, tries, 0⟩]⟩] },
    tmb := { Tmb.init with now := 100000 }, tiles := [(0, tile0 [infl (.send 0 0 1 63 (some 1) 3) 0])] }
/-- A SEND to module 2, whose route is down. -/
def asleepFlow : State :=
  { flowing (.send 0 3) 0 with
    lnk := { (flowing (.send 0 3) 0).lnk with tx := [⟨5, 2, 3, 1, .send 0 3, [⟨0, 1, none, 0, 0⟩]⟩] } }
/-- An arriving flow with a delivery not acknowledged. -/
def arriving : State :=
  { loaded with lnk := { Lnk.init with rx := [⟨1, 5, 1, 1, 0, [], false, []⟩] }, tmb := { Tmb.init with now := 5000 } }
/-- Its entry. -/
def rx1 : RxFlow := ⟨1, 5, 1, 1, 0, [], false, []⟩
/-- A packet of module 1 for this module. -/
def pkt (vc : Fin 4) : Packet := ⟨0, 1, 0, vc, true, true, false, 0, 5, 0, 0, 0, 1, true, [1], false⟩
/-- Port 0 up, slot 3 handed off or not. -/
def handing (st : SlotSt) : State :=
  { ported { LnkPort.init with st := .up } with slots := [(3, slot3 st)] }

/-- The host's functions presented. -/
def shown : State := { loaded with boot := { loaded.boot with presented := true } }
/-- BAR4 over a class S region of partition 0. -/
def bar4 : State :=
  { loaded with mem := { Mem.init with regions := [(1, { Region.init with valid := true, cls := .s, base := 0, size := 1 })] } }
/-- This module follows time master 1. -/
def mastered : State := { ported { LnkPort.init with st := .up } with lnk := { Lnk.init with topo := 1, master := 1, masters := [2, 0] } }
/-- A tracker. -/
def trk : Tracker := ⟨1, 9, 2, 0, false, sub1, [], 7, [], 1, none, [5], 0, 0, 0⟩

/-- A unit of each kind. -/
def tileU : UnitId := ⟨.tile, 15, 63⟩
/-- A channel. -/
def chanU : UnitId := ⟨.channel, 15, 31⟩
/-- A unit in a state. -/
def unitIn (u : UnitId) (st : USt) : State :=
  { loaded with ras := { Ras.init with units := [⟨u, st, [0], 0, none⟩] }, tmb := { Tmb.init with now := 600000000000 } }
/-- RAS with these fields. -/
def withRas (r : Ras) : State := { loaded with ras := r }
/-- The header of a Pollis image: KEY_ID 7, CTR 63, SVN 63. -/
def image1 : List Byte :=
  leBytes 4 0x534C4C50 ++ leBytes 2 1 ++ [7, 63] ++ leBytes 4 320 ++ leBytes 4 1 ++ leBytes 4 63 ++ leBytes 4 1 ++ leBytes 296 0
/-- A flash with that image VALID in slot A, or none valid. -/
def flash1 (ok : Bool) : Flash :=
  { Flash.blank with sel0 := selBytes ⟨1, if ok then 1 else 3, 0, 0, 1, 0⟩, imgA := image1 }
/-- A machine with a boot block. -/
def booting (b : Boot) : State := { State.reset with boot := b }
/-- A machine in RUN whose flash holds the image, activation at a stage. -/
def activation (st : ActSt) (trial : Bool) : State :=
  booting { Boot.init with
    st := .run, actSt := st, fw := some image1, switchAt := 0,
    flash := { flash1 true with sel0 := selBytes ⟨1, if trial then 2 else 1, 0, 0, 1, 0⟩ } }
/-- Fuses being blown. -/
def fusing (f : FuseOp) : State := { activation .idle false with sec := { Sec.init with fuse := some f } }
/-- SPDM at a stage. -/
def spoken (n : Nat) : State :=
  { loaded with sec := { Sec.init with rngOk := true, doe := { Conn.init with stage := n }, mctp := { Conn.init with stage := n } } }
/-- A machine with a sideband state. -/
def sided (d : Side) : State := { loaded with side := d, tmb := { Tmb.init with now := 20000000000 } }
/-- A machine with a power state. -/
def powered (w : Pwr) : State := { loaded with pwr := w }
/-- Tile 1,023 out of line since time 0, ten seconds on. -/
def sensing : State :=
  { powered { Pwr.init with sense := [(1023, { TileSense.init with offFrom := some 0 })] } with tmb := { Tmb.init with now := 10000000000 } }
/-- Later. -/
def later (s : State) (n : Nat) : State := { s with tmb := { Tmb.init with now := n } }

/-- A state or a value that a witness below names. -/
def controlIssueAt1 :=
  onTile { tile0 [] with regs := [(3, 2)] }
/-- A state or a value that a witness below names. -/
def vectorRetiresAt1 :=
  { step5 with cols := [col1] }
/-- A state or a value that a witness below names. -/
def bandVerdictsAt1 :=
  { band1 with npeer := 2 }
/-- A state or a value that a witness below names. -/
def expandersAt1 :=
  onLane { Lane.init with list := [feed1 (.run 1)] }
/-- A state or a value that a witness below names. -/
def expandersAt2 :=
  onLane { Lane.init with list := [feed1 (.run 1)], reads := [(⟨0, 2048⟩, 255)] }
/-- A state or a value that a witness below names. -/
def expandersAt3 :=
  onLane { Lane.init with list := [feed1 (.gather 1 1 1)], reads := [(⟨0, 2048⟩, 255)], nrec := 1 }
/-- A state or a value that a witness below names. -/
def expandersAt4 :=
  onLane { Lane.init with list := [feed1 (.run 1)], places := [[(0, 1)]] }
/-- A state or a value that a witness below names. -/
def expandersAt5 :=
  { band1 with verdict := some true }
/-- A state or a value that a witness below names. -/
def expandersAt6 :=
  onLane { Lane.init with list := [feed1 (.gather 1 1 1)] }
/-- A state or a value that a witness below names. -/
def hostLinkAt1 :=
  hosted Fn.init [(0, { ring6 1 0 with st := .paused })]
/-- A state or a value that a witness below names. -/
def doorbellsAt1 :=
  hosted { Fn.init with paused := true } [(2, ring6 0 0)]
/-- A state or a value that a witness below names. -/
def doorbellsAt2 :=
  hosted Fn.init [(3, { ring6 1 0 with unsig := 1 })]
/-- A state or a value that a witness below names. -/
def doorbellsAt3 :=
  hosted { Fn.init with paused := true } [(0, { ring6 1 0 with st := .paused })]
/-- A state or a value that a witness below names. -/
def hostAccessAt1 :=
  { relayed with lnk := { relayed.lnk with relays := [⟨.pf0, 3, 0, 8, 0⟩] }, tmb := { Tmb.init with now := 50000 } }
/-- A state or a value that a witness below names. -/
def portLifeAt1 :=
  ported { LnkPort.init with st := .training }
/-- A state or a value that a witness below names. -/
def portLifeAt2 :=
  ported { LnkPort.init with st := .up }
/-- A state or a value that a witness below names. -/
def portLifeAt3 :=
  ported { LnkPort.init with st := .up, retry := [1, 2] }
/-- A state or a value that a witness below names. -/
def portLifeAt4 :=
  ported { LnkPort.init with st := .up, width := 8, lanesOk := 0xFF }
/-- A state or a value that a witness below names. -/
def portLifeAt5 :=
  ported { LnkPort.init with st := .up, width := 4, lanesOk := 0xFF }
/-- A state or a value that a witness below names. -/
def portLifeAt6 :=
  ported { LnkPort.init with st := .sleep }
/-- A state or a value that a witness below names. -/
def portLifeAt7 :=
  ported { LnkPort.init with st := .up, stopRx := true }
/-- A state or a value that a witness below names. -/
def faultCountingAt1 :=
  withRas { Ras.init with listDirty := true, units := [⟨tileU, .fenced, [], 0, none⟩] }
/-- A state or a value that a witness below names. -/
def testsAndRepairsAt1 :=
  withRas { Ras.init with test := some tileU, nextTile := 1023 }
/-- A state or a value that a witness below names. -/
def testsAndRepairsAt2 :=
  withRas { Ras.init with scheduled := [1023] }
/-- A state or a value that a witness below names. -/
def testsAndRepairsAt3 :=
  withRas { Ras.init with scheduled := [63] }
/-- A state or a value that a witness below names. -/
def testsAndRepairsAt4 :=
  withRas { Ras.init with test := some (tileUnit 63) }
/-- A state or a value that a witness below names. -/
def testsAndRepairsAt5 :=
  withRas { Ras.init with rebal := [⟨.core, 16, 0⟩] }
/-- A state or a value that a witness below names. -/
def testsAndRepairsAt6 :=
  withRas { Ras.init with repairs := [⟨5, 2, 0, none⟩] }
/-- A state or a value that a witness below names. -/
def bootStepsAt1 :=
  booting { Boot.init with flash := flash1 true }
/-- A state or a value that a witness below names. -/
def bootStepsAt2 :=
  booting { Boot.init with flash := flash1 false }
/-- A state or a value that a witness below names. -/
def bootStepsAt3 :=
  booting { Boot.init with flash := flash1 true, presented := true }
/-- A state or a value that a witness below names. -/
def bootStepsAt4 :=
  booting { Boot.init with st := .config, conf := some image1 }
/-- A state or a value that a witness below names. -/
def bootStepsAt5 :=
  booting { Boot.init with st := .config, applied := true, flash := flash1 true }
/-- A state or a value that a witness below names. -/
def bootStepsAt6 :=
  booting { Boot.init with st := .config, applied := true, tried := true }
/-- A state or a value that a witness below names. -/
def bootStepsAt7 :=
  booting { Boot.init with st := .recovery }
/-- A state or a value that a witness below names. -/
def imagesAndActivationAt1 :=
  booting { Boot.init with imgLen := 320 }
/-- A state or a value that a witness below names. -/
def imagesAndActivationAt2 :=
  booting { Boot.init with writing := some image1, imgSt := 1 }
/-- A state or a value that a witness below names. -/
def tripsAndThrottleAt1 :=
  sided { Side.init with thrPin := true, throttle := true }
/-- A state or a value that a witness below names. -/
def tripsAndThrottleAt2 :=
  sided { Side.init with held := true, throttle := true }
/-- A state or a value that a witness below names. -/
def tripsAndThrottleAt3 :=
  sided { Side.init with throttle := true }
/-- A state or a value that a witness below names. -/
def tripsAndThrottleAt4 :=
  powered { Pwr.init with supply := 1 }
/-- A state or a value that a witness below names. -/
def sleepAndPowerAt1 :=
  powered { Pwr.init with sleep := .entering }
/-- A state or a value that a witness below names. -/
def sleepAndPowerAt2 :=
  powered { Pwr.init with sleep := .asleep }
/-- A state or a value that a witness below names. -/
def sleepAndPowerAt3 :=
  powered { Pwr.init with sleep := .waking }
/-- A state or a value that a witness below names. -/
def sleepAndPowerAt4 :=
  sided { Side.init with mainOn := false, pwrEn := false }
/-- A state or a value that a witness below names. -/
def sidePinsAt1 :=
  sided { Side.init with perst := true }
/-- A state or a value that a witness below names. -/
def sidePinsAt2 :=
  sided { Side.init with sampled := true, modId := 5, modPins := 5 }

/-! ### Witnesses -/

/-- Hypotheses of IssueTla met together, clause by clause. -/
theorem witness_IssueTla :
    MayIssue idle0 0 ∧ Placed idle0 0 rs1 (Op.tbuild 65535 32 64 3 1) g1 ∧
    mkTbuild (TbuildArgs.mk (Opd.imm 65535) (Opd.imm 32) (Opd.imm 64) 3 1) (tileOf idle0 0) = some (Op.tbuild 65535 32 64 3
      1) ∧ Takes idle0 0 (Instr.tbuild 0 rs1 (TbuildArgs.mk (Opd.imm 65535) (Opd.imm 32) (Opd.imm 64) 3 1)) ∧
    MayIssue onTags 0 ∧ Placed onTags 0 rs1 (Op.tlook 3 1 2047 2 1 true 2 32 64) g1 ∧
    mkTlook (TlookArgs.mk (Opd.imm 3) (Opd.imm 1) (Opd.imm 2047) 2 1 true 2 (Opd.imm 32) 64) (tileOf onTags 0) = some
      (Op.tlook 3 1 2047 2 1 true 2 32 64) ∧ chkTlook (tileOf onTags 0) (Op.tlook 3 1 2047 2 1 true 2 32 64) = Check.go ∧
    Takes onTags 0 (Instr.tlook 0 rs1 (TlookArgs.mk (Opd.imm 3) (Opd.imm 1) (Opd.imm 2047) 2 1 true 2 (Opd.imm 32) 64)) ∧
    Placed idle0 0 rs1 (Op.drain 2047 1 64 5 0 0 none 0 255 true ArrayErr.clean) g1 ∧
    mkDrain (DrainArgs.mk (Opd.imm 2047) (Opd.imm 1) 64 5 0 (Opd.imm 0) none (Opd.imm 0) 255 true) ArrayErr.clean (tileOf
      idle0 0) = some (Op.drain 2047 1 64 5 0 0 none 0 255 true ArrayErr.clean) ∧
    Takes idle0 0 (Instr.drain 0 rs1 (DrainArgs.mk (Opd.imm 2047) (Opd.imm 1) 64 5 0 (Opd.imm 0) none (Opd.imm 0) 255 true)
      ArrayErr.clean) := by decide +kernel

/-- Hypotheses of IssueAttention met together, clause by clause. -/
theorem witness_IssueAttention :
    MayIssue (onRow BufSt.empty 0 []) 0 ∧ Placed (onRow BufSt.empty 0 []) 0 rs1 (Op.qk 1 1 64 0 8 0 0 0) g1 ∧
    mkAttnQk attnA (tileOf (onRow BufSt.empty 0 []) 0) = some (Op.qk 1 1 64 0 8 0 0 0) ∧
    bufCheck (onRow BufSt.empty 0 []) 0 (tileOf (onRow BufSt.empty 0 []) 0) (Op.qk 1 1 64 0 8 0 0 0) = Check.go ∧
    Takes (onRow BufSt.empty 0 []) 0 (Instr.attnQk 0 rs1 attnA) ∧ MayIssue idle0 0 ∧
    Placed idle0 0 rs1 (Op.softInit 1 0 false) g1 ∧
    mkAttnSoftInit (Opd.imm 1) (Opd.imm 0) false (tileOf idle0 0) = some (Op.softInit 1 0 false) ∧
    chkAttnSoftInit idle0 0 rs1 (tileOf idle0 0) (Op.softInit 1 0 false) = Check.go ∧
    Takes idle0 0 (Instr.attnSoftInit 0 rs1 (Opd.imm 1) (Opd.imm 0) false) ∧ MayIssue (onRow BufSt.scored 64 []) 0 ∧
    Placed (onRow BufSt.scored 64 []) 0 rs1 (Op.softBlock 1 1) g1 ∧
    fieldOf (tileOf (onRow BufSt.scored 64 []) 0) 32 (Opd.imm 1) = some 1 ∧ Op.softBlock 1 1 = Op.softBlock 1 1 ∧
    bufCheck (onRow BufSt.scored 64 []) 0 (tileOf (onRow BufSt.scored 64 []) 0) (Op.softBlock 1 1) = Check.go ∧
    Takes (onRow BufSt.scored 64 []) 0 (Instr.attnSoftBlock 0 rs1 (Opd.imm 1) 1) ∧
    Placed (onRow BufSt.empty 0 []) 0 rs1 (Op.softExport 1 65535) g1 ∧
    mkAttnSoftExport (Opd.imm 1) (Opd.imm 65535) (tileOf (onRow BufSt.empty 0 []) 0) = some (Op.softExport 1 65535) ∧
    bufCheck (onRow BufSt.empty 0 []) 0 (tileOf (onRow BufSt.empty 0 []) 0) (Op.softExport 1 65535) = Check.go ∧
    Takes (onRow BufSt.empty 0 []) 0 (Instr.attnSoftExport 0 rs1 (Opd.imm 1) (Opd.imm 65535)) ∧
    MayIssue (onRow BufSt.logp 64 []) 0 ∧ Placed (onRow BufSt.logp 64 []) 0 rs1 (Op.pv 1 1 64 8 0 0 0) g1 ∧
    mkAttnPv attnA (tileOf (onRow BufSt.logp 64 []) 0) = some (Op.pv 1 1 64 8 0 0 0) ∧
    bufCheck (onRow BufSt.logp 64 []) 0 (tileOf (onRow BufSt.logp 64 []) 0) (Op.pv 1 1 64 8 0 0 0) = Check.go ∧
    Takes (onRow BufSt.logp 64 []) 0 (Instr.attnPv 0 rs1 attnA) := by decide +kernel

/-- Hypotheses of IssueVector met together, clause by clause. -/
theorem witness_IssueVector_1 :
    MayIssue idle0 0 ∧ Placed idle0 0 rs1 (Op.vec 112 0 0 0 65535 64 0 0 0 0 0 0) g1 ∧
    mkVecOp (vecA 64 0) (tileOf idle0 0) = some (Op.vec 112 0 0 0 65535 64 0 0 0 0 0 0) ∧
    Takes idle0 0 (Instr.vecOp 0 rs1 (vecA 64 0)) ∧ Placed idle0 0 rs1 (Op.vec 113 0 0 0 65535 64 0 0 0 254 0 0) g1 ∧
    mkVecXred (vecA 64 254) (tileOf idle0 0) = some (Op.vec 113 0 0 0 65535 64 0 0 0 254 0 0) ∧
    Takes idle0 0 (Instr.vecXred 0 rs1 (vecA 64 254)) ∧ Placed idle0 0 rs1 (Op.vec 114 0 0 0 65535 64 0 0 0 8 0 0) g1 ∧
    mkVecRed (vecA 64 8) (tileOf idle0 0) = some (Op.vec 114 0 0 0 65535 64 0 0 0 8 0 0) ∧
    Takes idle0 0 (Instr.vecRed 0 rs1 (vecA 64 8)) ∧ Placed idle0 0 rs1 (Op.vec 115 0 0 0 65535 0 0 0 0 8 0 0) g1 ∧
    mkVecMerge (vecA 0 8) (tileOf idle0 0) = some (Op.vec 115 0 0 0 65535 0 0 0 0 8 0 0) ∧
    Takes idle0 0 (Instr.vecMerge 0 rs1 (vecA 0 8)) ∧ Placed idle0 0 rs1 (Op.vec 116 0 0 0 65535 64 2 0 0 255 0 0) g1 ∧
    mkVecNorm (VecArgs.mk (Opd.imm 0) (Opd.imm 0) (Opd.imm 0) (Opd.imm 65535) 64 2 0 0 255) (tileOf idle0 0) = some (Op.vec
      116 0 0 0 65535 64 2 0 0 255 0 0) ∧
    Takes idle0 0 (Instr.vecNorm 0 rs1 (VecArgs.mk (Opd.imm 0) (Opd.imm 0) (Opd.imm 0) (Opd.imm 65535) 64 2 0 0 255)) := by decide +kernel

/-- Hypotheses of IssueVector met together, clause by clause. -/
theorem witness_IssueVector_2 :
    MayIssue idle0 0 ∧ Placed idle0 0 rs1 (Op.vec 117 0 0 0 65535 64 0 0 0 0 0 0) g1 ∧
    mkVecRope (vecA 64 0) (tileOf idle0 0) = some (Op.vec 117 0 0 0 65535 64 0 0 0 0 0 0) ∧
    Takes idle0 0 (Instr.vecRope 0 rs1 (vecA 64 0)) ∧ Placed idle0 0 rs1 (Op.vec 118 0 0 0 65535 64 0 0 0 255 0 0) g1 ∧
    mkVecQuant (vecA 64 255) (tileOf idle0 0) = some (Op.vec 118 0 0 0 65535 64 0 0 0 255 0 0) ∧
    Takes idle0 0 (Instr.vecQuant 0 rs1 (vecA 64 255)) ∧ Placed idle0 0 rs1 (Op.vec 119 0 0 0 65535 64 0 0 0 0 0 0) g1 ∧
    mkVecTopk (vecA 64 0) (tileOf idle0 0) = some (Op.vec 119 0 0 0 65535 64 0 0 0 0 0 0) ∧
    Takes idle0 0 (Instr.vecTopk 0 rs1 (vecA 64 0)) ∧ Placed idle0 0 rs1 (Op.vec 120 0 0 0 65535 64 0 0 0 0 0 0) g1 ∧
    mkVecSample (vecA 64 0) (tileOf idle0 0) = some (Op.vec 120 0 0 0 65535 64 0 0 0 0 0 0) ∧
    Takes idle0 0 (Instr.vecSample 0 rs1 (vecA 64 0)) ∧ Placed idle0 0 rs1 (Op.rng 0 255 2 0 0 0) g1 ∧
    mkRngDraw idle0 0 (RngArgs.mk (Opd.imm 0) (Opd.imm 255) 2 0 0 0) (tileOf idle0 0) = some (Op.rng 0 255 2 0 0 0) ∧
    Takes idle0 0 (Instr.rngDraw 0 rs1 (RngArgs.mk (Opd.imm 0) (Opd.imm 255) 2 0 0 0)) := by decide +kernel

/-- Hypotheses of IssueBandMove met together, clause by clause. -/
theorem witness_IssueBandMove_1 :
    MayIssue idle0 0 ∧ Placed idle0 0 rs1 (Op.bandSelect 0 256 256 64 true 0 0 0 0 0) g1 ∧
    mkBandSelect selA (tileOf idle0 0) = some (Op.bandSelect 0 256 256 64 true 0 0 0 0 0) ∧
    Takes idle0 0 (Instr.bandSelect 0 rs1 selA) ∧ Placed idle0 0 rs1 (Op.bandApply 0 false 256 256 0 0 0 0 16 0) g1 ∧
    mkBandApply appA (tileOf idle0 0) = some (Op.bandApply 0 false 256 256 0 0 0 0 16 0) ∧
    Takes idle0 0 (Instr.bandApply 0 rs1 appA) ∧ MayIssue onAud 0 ∧
    Placed onAud 0 rs1 (Op.bandAudit 0 16 64 0 1065353216 16711682 0 0 0) g1 ∧
    mkBandAudit audA (tileOf onAud 0) = some (Op.bandAudit 0 16 64 0 1065353216 16711682 0 0 0) ∧
    chkBandAudit (tileOf onAud 0) (Op.bandAudit 0 16 64 0 1065353216 16711682 0 0 0) = Check.go ∧
    Takes onAud 0 (Instr.bandAudit 0 rs1 audA) ∧ MayIssue (onMem (tile0 [])) 0 ∧
    Placed (onMem (tile0 [])) 0 rs1 (Op.load 65535 16777215 1 false true) g1 ∧
    mkMoveLoad (MoveArgs.mk (Opd.imm 65535) (Opd.imm 16777215) (Opd.imm 0) false true) (tileOf (onMem (tile0 [])) 0) = some
      (Op.load 65535 16777215 1 false true) ∧
    chkMoveLoad (onMem (tile0 [])) 0 (tileOf (onMem (tile0 [])) 0) (Op.load 65535 16777215 1 false true) = Check.go ∧
    Takes (onMem (tile0 [])) 0 (Instr.moveLoad 0 rs1 (MoveArgs.mk (Opd.imm 65535) (Opd.imm 16777215) (Opd.imm 0) false
      true)) ∧ Placed (onMem (tile0 [])) 0 rs1 (Op.store 65535 16777215 1 true) g1 ∧
    mkMoveStore (MoveArgs.mk (Opd.imm 65535) (Opd.imm 16777215) (Opd.imm 0) false true) (tileOf (onMem (tile0 [])) 0) = some
      (Op.store 65535 16777215 1 true) ∧
    chkMoveStore (onMem (tile0 [])) 0 (MoveArgs.mk (Opd.imm 65535) (Opd.imm 16777215) (Opd.imm 0) false true) (tileOf (onMem
      (tile0 [])) 0) (Op.store 65535 16777215 1 true) = Check.go ∧
    Takes (onMem (tile0 [])) 0 (Instr.moveStore 0 rs1 (MoveArgs.mk (Opd.imm 65535) (Opd.imm 16777215) (Opd.imm 0) false
      true)) := by decide +kernel

/-- Hypotheses of IssueBandMove met together, clause by clause. -/
theorem witness_IssueBandMove_2 :
    MayIssue idle0 0 ∧ Placed idle0 0 rs1 (Op.put 0 0 16384 Port.s none) g1 ∧
    mkMovePut 0 (PutArgs.mk (Opd.imm 0) (Opd.imm 0) (Opd.imm 16383) Port.s none) (tileOf idle0 0) = some (Op.put 0 0 16384
      Port.s none) ∧ Takes idle0 0 (Instr.movePut 0 rs1 (PutArgs.mk (Opd.imm 0) (Opd.imm 0) (Opd.imm 16383) Port.s none)) ∧
    Placed idle0 0 rs1 (Op.getm 0 0 16384 Port.e) g1 ∧
    mkMoveGet 0 (PutArgs.mk (Opd.imm 0) (Opd.imm 0) (Opd.imm 16383) Port.e none) (tileOf idle0 0) = some (Op.getm 0 0 16384
      Port.e) ∧ Takes idle0 0 (Instr.moveGet 0 rs1 (PutArgs.mk (Opd.imm 0) (Opd.imm 0) (Opd.imm 16383) Port.e none)) ∧
    MayIssue (onLnk (tile0 [])) 0 ∧ Placed (onLnk (tile0 [])) 0 rs1 (Op.send 0 0 16384 63 (some 3) 3) g1 ∧
    mkMoveSend (SendArgs.mk (Opd.imm 0) (Opd.imm 0) (Opd.imm 16383) (Opd.imm 63) (some 3) 3) (tileOf (onLnk (tile0 [])) 0) =
      some (Op.send 0 0 16384 63 (some 3) 3) ∧
    chkMoveSend (onLnk (tile0 [])) 0 (tileOf (onLnk (tile0 [])) 0) (Op.send 0 0 16384 63 (some 3) 3) = Check.go ∧
    Takes (onLnk (tile0 [])) 0 (Instr.moveSend 0 rs1 (SendArgs.mk (Opd.imm 0) (Opd.imm 0) (Opd.imm 16383) (Opd.imm 63) (some
      3) 3)) := by decide +kernel

/-- Hypotheses of ControlIssue met together, clause by clause. -/
theorem witness_ControlIssue :
    MayIssue idle0 0 ∧ Unheld idle0 0 rs1 g1 ∧ arrived (tileOf idle0 0) (awaitOf rs1) = true ∧
    fieldOf (tileOf idle0 0) 16 (WinArgs.mk 7 (Opd.imm 49152) (Opd.imm 16384) 31 3).base = some 49152 ∧
    fieldIn (tileOf idle0 0) 15 1 16384 (WinArgs.mk 7 (Opd.imm 49152) (Opd.imm 16384) 31 3).len = some 16384 ∧
    (winOf (tileOf idle0 0) ↑(WinArgs.mk 7 (Opd.imm 49152) (Opd.imm 16384) 31 3).id).opened = false ∧
    49152 + 16384 ≤ scratchTop (tileOf idle0 0) ∧
    (findWin (tileOf idle0 0) fun w => w.opened && overlaps (winRng w) (Rng.mk 49152 16384 true)) = none ∧
    (boardOf (tileOf idle0 0)).any (conflicts (Rng.mk 49152 16384 true)) = false ∧
    Takes idle0 0 (Instr.winOpen 0 (WinArgs.mk 7 (Opd.imm 49152) (Opd.imm 16384) 31 3) rs1) ∧
    MayIssue (onWin (win 0 1 false 3 1)) 0 ∧ Unheld (onWin (win 0 1 false 3 1)) 0 rs1 g1 ∧
    arrived (tileOf (onWin (win 0 1 false 3 1)) 0) (awaitOf rs1) = true ∧
    (winOf (tileOf (onWin (win 0 1 false 3 1)) 0) 7).opened = true ∧
    (winOf (tileOf (onWin (win 0 1 false 3 1)) 0) 7).closing = false ∧
    Takes (onWin (win 0 1 false 3 1)) 0 (Instr.winClose 0 7 rs1) ∧ MayIssue onSec 0 ∧ Unheld onSec 0 rs1 g1 ∧
    arrived (tileOf onSec 0) (awaitOf rs1) = true ∧ (tileOf onSec 0).sec = some sec5 ∧
    fieldOf (tileOf onSec 0) 12 (Opd.imm 0) = some 0 ∧ 0 + (1 + 1) ≤ sec5.words.length ∧
    Takes onSec 0 (Instr.stageLoad 0 (Opd.imm 0) 1 254 rs1) ∧ Takes idle0 0 (Instr.stageLoop 0 16383 255 255 (-1) rs1) ∧
    MayIssue controlIssueAt1 0 ∧ Unheld controlIssueAt1 0 rs1 g1 ∧ arrived (tileOf controlIssueAt1 0) (awaitOf rs1) = true ∧
    Takes controlIssueAt1 0 (Instr.stageLoop 0 16384 3 255 (-1) rs1) := by decide +kernel

/-- Hypotheses of SyncIssue met together, clause by clause. -/
theorem witness_SyncIssue :
    MayIssue idle0 0 ∧ Unheld idle0 0 rs1 g1 ∧ (tileOf idle0 0).inflight = [] ∧ rs1.await = none ∧
    (tileOf idle0 0).noticed = false ∧ Takes idle0 0 (Instr.syncWait 0 rs1 31) ∧ Takes idle0 0 (Instr.syncBar 0 rs1 31 63) ∧
    (∀ w < 8, (winOf (tileOf idle0 0) w).opened = true → (winOf (tileOf idle0 0) w).pend = 0) ∧
    Takes idle0 0 (Instr.syncEnd 0 rs1) := by decide +kernel

/-- Hypotheses of PaceWindow met together, clause by clause. -/
theorem witness_PaceWindow :
    (dieOf die0 0).powered = true := by decide +kernel

/-- Hypotheses of PaceAndTime met together, clause by clause. -/
theorem witness_PaceAndTime :
    (partOf lowP 0).paceLow = true ∧ QueueOpen lowP ∧
    (∀ d ∈ diesOf (partOf lowP 0) ++ [16 + (partOf lowP 0).soInst], (d < 16 → isFenced lowP (dieUnit d) = false) → 16 ≤
      (dieOf lowP d).goodRun) ∧ (dieOf die0 0).powered = true ∧ State.reset.side.mainOn = true ∧
    timeShown State.reset Origin.pf0 = true := by decide +kernel

/-- Hypotheses of TlaRetires met together, clause by clause. -/
theorem witness_TlaRetires :
    (tileOf (busy (Op.tbuild 0 1 1 0 1) 0) 0).st ≠ CpSt.abandoning ∧ Calm (busy (Op.tbuild 0 1 1 0 1) 0) 0 ∧
    startedOp (busy (Op.tbuild 0 1 1 0 1) 0) 0 isTbuildOp = some (infl (Op.tbuild 0 1 1 0 1) 0) ∧
    (infl (Op.tbuild 0 1 1 0 1) 0).op = Op.tbuild 0 1 1 0 1 ∧ (tileOf (busy (opTlook 1 false) 1) 0).st ≠ CpSt.abandoning ∧
    Calm (busy (opTlook 1 false) 1) 0 ∧ startedOp (busy (opTlook 1 false) 1) 0 tlookDone = some (infl (opTlook 1 false) 1) ∧
    (tileOf (busy opDrain 0) 0).st ≠ CpSt.abandoning ∧ Calm (busy opDrain 0) 0 ∧
    startedOp (busy opDrain 0) 0 isDrainOp = some (infl opDrain 0) ∧
    (infl opDrain 0).op = Op.drain 2047 1 64 1 0 0 none 0 1 true ArrayErr.clean ∧
    rowsDone (tileOf (busy opDrain 0) 0) (infl opDrain 0) 2047 1 = true ∧
    (drainAll (tileOf (busy opDrain 0) 0) 2047 1 64 1 0 0 none 0 1 true).bad = [] ∧
    (∀ r < 1, acmErr (tabGet (tileOf (busy opDrain 0) 0).acm (2047 + r) AcmRow.init) 64 = ArrayErr.clean) := by decide +kernel

/-- Hypotheses of LookupRow met together, clause by clause. -/
theorem witness_LookupRow :
    Alone (busy (opTlook 1 false) 0) 0 (infl (opTlook 1 false) 0) ∧
    (infl (opTlook 1 false) 0).op = Op.tlook 0 1 2047 0 1 false 0 32 64 ∧ (infl (opTlook 1 false) 0).prog < 1 ∧
    rowBytes (tileOf (busy (opTlook 1 false) 0) 0) 0 (infl (opTlook 1 false) 0).prog false = some ((List.replicate 32 (0, 0)
      : List (Nat × Byte)), tile0 [infl (opTlook 1 false) 0]) ∧
    (∀ e ∈ (List.replicate 32 (0, 0) : List (Nat × Byte)), BitVec.toNat e.2 ≤ 242) ∧
    (0 = 0 ∨ (tabGet (tileOf (busy (opTlook 1 false) 0) 0).acm (2047 + (infl (opTlook 1 false) 0).prog) AcmRow.init).ty =
      AcmTy.empty ∨ ((tabGet (tileOf (busy (opTlook 1 false) 0) 0).acm (2047 + (infl (opTlook 1 false) 0).prog)
      AcmRow.init).ty = AcmTy.int32 ↔ 0 = 0)) ∧
    (0 = 0 ∨ acmErr (tabGet (tileOf (busy (opTlook 1 false) 0) 0).acm (2047 + (infl (opTlook 1 false) 0).prog) AcmRow.init)
      64 = ArrayErr.clean) ∧
    rowParity (tile0 [infl (opTlook 1 false) 0]) 1 32 64 0 (List.map (fun e => cleanCode (BitVec.toNat e.2))
      ((List.replicate 32 (0, 0) : List (Nat × Byte)))) = false := by decide +kernel

/-- Hypotheses of AttentionRetires met together, clause by clause. -/
theorem witness_AttentionRetires_1 :
    (startedOp onKey 0 fun j => j.tag == qkFed.tag) = some qkFed ∧ qkFed.op = Op.qk 1 1 64 0 1 0 0 0 ∧ qkFed.prog < qkFed.fed ∧
    Alone onKey 0 qkFed ∧
    (∀ r ∈ softRows (tileOf onKey 0) (rowsFor onKey 0 (tileOf onKey 0) 1), keyWhole (rowAt (tileOf onKey 0) r) qkFed.prog =
      true) ∧
    (startedOp (onRow BufSt.empty 0 [infl (opQk 64) 64]) 0 fun j => j.tag == (infl (opQk 64) 64).tag) = some (infl (opQk 64)
      64) ∧ (infl (opQk 64) 64).op = Op.qk 1 1 64 0 1 0 0 0 ∧ 64 ≤ (infl (opQk 64) 64).prog ∧
    (startedOp (busy (Op.softInit 1 0 false) 0) 0 fun j => j.tag == (infl (Op.softInit 1 0 false) 0).tag) = some (infl
      (Op.softInit 1 0 false) 0) ∧ (infl (Op.softInit 1 0 false) 0).op = Op.softInit 1 0 false ∧
    initOk (busy (Op.softInit 1 0 false) 0) 0 (tileOf (busy (Op.softInit 1 0 false) 0) 0) 1 0 false = true ∧
    (startedOp (onRow BufSt.scored 64 [infl (Op.softBlock 1 1) 0]) 0 fun j => j.tag == (infl (Op.softBlock 1 1) 0).tag) =
      some (infl (Op.softBlock 1 1) 0) ∧ (infl (Op.softBlock 1 1) 0).op = Op.softBlock 1 1 ∧
    (startedOp (onRow BufSt.scored 64 [infl (Op.softExport 1 65527) 0]) 0 fun j => j.tag == (infl (Op.softExport 1 65527)
      0).tag) = some (infl (Op.softExport 1 65527) 0) ∧ (infl (Op.softExport 1 65527) 0).op = Op.softExport 1 65527 := by decide +kernel

/-- Hypotheses of AttentionRetires met together, clause by clause. -/
theorem witness_AttentionRetires_2 :
    (startedOp (onRow BufSt.logp 64 [infl (opPv 64) 64]) 0 fun j => j.tag == (infl (opPv 64) 64).tag) = some (infl (opPv 64)
      64) ∧ (infl (opPv 64) 64).op = Op.pv 1 1 64 1 0 0 0 ∧ 64 ≤ (infl (opPv 64) 64).prog := by decide +kernel

/-- Hypotheses of VectorRetires met together, clause by clause. -/
theorem witness_VectorRetires :
    (startedOp (busy (Op.vec 112 0 0 0 1 64 0 0 0 0 0 0) 0) 0 fun j => vecDone (tileOf (busy (Op.vec 112 0 0 0 1 64 0 0 0 0
      0 0) 0) 0) j.op) = some (infl (Op.vec 112 0 0 0 1 64 0 0 0 0 0 0) 0) ∧
    (startedOp (onRng 2) 0 fun j => j.op.blk == Blk.rng) = some (infl (Op.rng 0 1 2 0 0 0) 0) ∧
    Alone (onRng 2) 0 (infl (Op.rng 0 1 2 0 0 0) 0) ∧ (infl (Op.rng 0 1 2 0 0 0) 0).op = Op.rng 0 1 2 0 0 0 ∧
    partOfTile (onRng 2) 0 = some 0 ∧ 2 = 2 ∧
    (startedOp (onRng 3) 0 fun j => j.op.blk == Blk.rng) = some (infl (Op.rng 0 1 3 0 0 0) 0) ∧
    Alone (onRng 3) 0 (infl (Op.rng 0 1 3 0 0 0) 0) ∧ (infl (Op.rng 0 1 3 0 0 0) 0).op = Op.rng 0 1 3 0 0 0 ∧
    Runs (onRng 3) 0 0 vectorRetiresAt1 ∧ 3 ≠ 2 ∧ vectorRetiresAt1.cols[0]? = some col1 := by decide +kernel

/-- Hypotheses of MovesRetire met together, clause by clause. -/
theorem witness_MovesRetire_1 :
    (startedOp (busy (Op.load 65535 0 1 true false) 0) 0 fun j => j.tag == (infl (Op.load 65535 0 1 true false) 0).tag &&
      !moveWaits (tileOf (busy (Op.load 65535 0 1 true false) 0) 0) j) = some (infl (Op.load 65535 0 1 true false) 0) ∧
    (infl (Op.load 65535 0 1 true false) 0).op = Op.load 65535 0 1 true false ∧
    (infl (Op.load 65535 0 1 true false) 0).waits = [] ∧
    (startedOp (onMem (tile0 [infl (Op.load 65535 0 1 false true) 0])) 0 fun j => j.tag == (infl (Op.load 65535 0 1 false
      true) 0).tag && !moveWaits (tileOf (onMem (tile0 [infl (Op.load 65535 0 1 false true) 0])) 0) j) = some (infl (Op.load
      65535 0 1 false true) 0) ∧ (infl (Op.load 65535 0 1 false true) 0).op = Op.load 65535 0 1 false true ∧
    (startedOp (onMem (tile0 [infl (Op.store 0 16777215 1 true) 0])) 0 fun j => j.tag == (infl (Op.store 0 16777215 1 true)
      0).tag && !moveWaits (tileOf (onMem (tile0 [infl (Op.store 0 16777215 1 true) 0])) 0) j) = some (infl (Op.store 0
      16777215 1 true) 0) ∧ (infl (Op.store 0 16777215 1 true) 0).op = Op.store 0 16777215 1 true ∧
    (startedOp (busy (Op.put 0 0 16384 Port.s none) 1) 0 fun j => j.tag == (infl (Op.put 0 0 16384 Port.s none) 1).tag &&
      !moveWaits (tileOf (busy (Op.put 0 0 16384 Port.s none) 1) 0) j) = some (infl (Op.put 0 0 16384 Port.s none) 1) ∧
    (infl (Op.put 0 0 16384 Port.s none) 1).op = Op.put 0 0 16384 Port.s none ∧
    (infl (Op.put 0 0 16384 Port.s none) 1).prog ≠ 0 ∧
    (startedOp (busy (Op.getm 0 0 1 Port.e) 1) 0 fun j => j.tag == (infl (Op.getm 0 0 1 Port.e) 1).tag && !moveWaits (tileOf
      (busy (Op.getm 0 0 1 Port.e) 1) 0) j) = some (infl (Op.getm 0 0 1 Port.e) 1) ∧
    (infl (Op.getm 0 0 1 Port.e) 1).op = Op.getm 0 0 1 Port.e ∧ (infl (Op.getm 0 0 1 Port.e) 1).prog ≠ 0 := by decide +kernel

/-- Hypotheses of MovesRetire met together, clause by clause. -/
theorem witness_MovesRetire_2 :
    (startedOp (busy (Op.send 0 0 1 63 none 1) 1) 0 fun j => j.tag == (infl (Op.send 0 0 1 63 none 1) 1).tag && !moveWaits
      (tileOf (busy (Op.send 0 0 1 63 none 1) 1) 0) j) = some (infl (Op.send 0 0 1 63 none 1) 1) ∧
    (infl (Op.send 0 0 1 63 none 1) 1).op = Op.send 0 0 1 63 none 1 ∧ (infl (Op.send 0 0 1 63 none 1) 1).prog ≠ 0 ∧
    (startedOp (busy (Op.send 0 0 1 63 (some 3) 3) 0) 0 fun j => j.tag == (infl (Op.send 0 0 1 63 (some 3) 3) 0).tag &&
      !moveWaits (tileOf (busy (Op.send 0 0 1 63 (some 3) 3) 0) 0) j) = some (infl (Op.send 0 0 1 63 (some 3) 3) 0) ∧
    (infl (Op.send 0 0 1 63 (some 3) 3) 0).op = Op.send 0 0 1 63 (some 3) 3 ∧
    (∀ f ∈ (busy (Op.send 0 0 1 63 (some 3) 3) 0).lnk.tx, f.op ≠ FlowOp.send 0 (infl (Op.send 0 0 1 63 (some 3) 3) 0).tag) ∧
    (startedOp (onMem (tile0 [missing 0])) 0 fun j => j.tag == (missing 0).tag && !moveWaits (tileOf (onMem (tile0 [missing
      0])) 0) j) = some (missing 0) ∧ (missing 0).op = Op.load 65535 0 1 true false ∧ 0 ∈ (missing 0).waits ∧
    (∀ j ∈ (tileOf (onMem (tile0 [missing 0])) 0).inflight, j.tag = (missing 0).tag → j = missing 0) ∧
    fillWaits (tileOf (onMem (tile0 [missing 0])) 0) (missing 0) 0 = false ∧ partOfTile (onMem (tile0 [missing 0])) 0 = some 0 ∧
    (linesRead (onMem (tile0 [missing 0])) (Reader.mk 2 0) [0 * 2, 0 * 2 + 1] []).2.1 = 0 ∧
    isPoisoned (linesRead (onMem (tile0 [missing 0])) (Reader.mk 2 0) [0 * 2, 0 * 2 + 1] []).1 (blockOf (0 * 128)) = false := by decide +kernel

/-- Hypotheses of IssueLimit met together, clause by clause. -/
theorem witness_IssueLimit :
    Runs onLimit 0 0 step5 ∧ canIssue onLimit 0 = true ∧ 2 ^ 24 ≤ (tileOf onLimit 0).issued ∧
    (tileOf onLimit 0).noticed = false ∧ QueueOpen onLimit := by decide +kernel

/-- Hypotheses of Letterbox met together, clause by clause. -/
theorem witness_Letterbox_1 :
    (tileOf (onWin (win 0 1 false 1 0)) 0).inflight = [] ∧ (tileOf (onWin (win 0 1 false 1 0)) 0).st ≠ CpSt.abandoning ∧
    (tileOf (onWin (win 0 1 false 1 0)) 0).waitBlocks = none ∧ (tileOf (onWin (win 0 1 false 1 0)) 0).noticed = false ∧
    portReaches 0 Port.mover 1 = true ∧ portsShut (onWin (win 0 1 false 1 0)) 1 = false ∧
    portsShut (onWin (win 0 1 false 1 0)) 0 = false ∧ putOf (onWin (win 0 1 false 1 0)) 0 Port.mover 1 0 = none ∧
    permits (tileOf (onWin (win 0 1 false 1 0)) 0) Port.mover 0 (ceilDiv [1].length 64) false = some 7 ∧
    (tileOf (onPair (Op.put 0 0 1 Port.s none) (win 0 1 false 1 0)) 9).inflight = [] ∧
    (tileOf (onPair (Op.put 0 0 1 Port.s none) (win 0 1 false 1 0)) 9).st ≠ CpSt.abandoning ∧
    (tileOf (onPair (Op.put 0 0 1 Port.s none) (win 0 1 false 1 0)) 9).waitBlocks = none ∧
    (tileOf (onPair (Op.put 0 0 1 Port.s none) (win 0 1 false 1 0)) 9).noticed = false ∧ portReaches 9 Port.n 1 = true ∧
    portsShut (onPair (Op.put 0 0 1 Port.s none) (win 0 1 false 1 0)) 1 = false ∧
    portsShut (onPair (Op.put 0 0 1 Port.s none) (win 0 1 false 1 0)) 9 = false ∧
    putOf (onPair (Op.put 0 0 1 Port.s none) (win 0 1 false 1 0)) 9 Port.n 1 0 = some (3, List.replicate 64 0) ∧ 9 ≠ 1 ∧
    permits (tileOf (onPair (Op.put 0 0 1 Port.s none) (win 0 1 false 1 0)) 9) Port.n 0 (ceilDiv (List.replicate 64
      0).length 64) false = some 0 ∧ (tileOf (shutN (win 0 1 false 1 0)) 0).inflight = [] ∧
    (tileOf (shutN (win 0 1 false 1 0)) 0).st ≠ CpSt.abandoning ∧ (tileOf (shutN (win 0 1 false 1 0)) 0).waitBlocks = none ∧
    (tileOf (shutN (win 0 1 false 1 0)) 0).noticed = false ∧ portsShut (shutN (win 0 1 false 1 0)) 1 = false ∧
    portsShut (shutN (win 0 1 false 1 0)) 0 = true ∧ putOf (shutN (win 0 1 false 1 0)) 0 Port.mover 1 0 = none ∧
    (tileOf (idleWin (win 0 1 true 1 0)) 0).inflight = [] ∧ (tileOf (idleWin (win 0 1 true 1 0)) 0).st ≠ CpSt.abandoning ∧
    (tileOf (idleWin (win 0 1 true 1 0)) 0).waitBlocks = none ∧ (tileOf (idleWin (win 0 1 true 1 0)) 0).noticed = false ∧
    portsShut (idleWin (win 0 1 true 1 0)) 1 = false ∧ portsShut (idleWin (win 0 1 true 1 0)) 0 = false ∧
    putOf (idleWin (win 0 1 true 1 0)) 0 Port.mover 1 0 = none ∧
    permits (tileOf (idleWin (win 0 1 true 1 0)) 0) Port.mover 0 (ceilDiv [1].length 64) false = none ∧
    (tileOf (onWin (win 0 1 false 2 0)) 0).inflight = [] ∧ (tileOf (onWin (win 0 1 false 2 0)) 0).st ≠ CpSt.abandoning ∧
    (tileOf (onWin (win 0 1 false 2 0)) 0).waitBlocks = none ∧ (tileOf (onWin (win 0 1 false 2 0)) 0).noticed = false ∧
    portsShut (onWin (win 0 1 false 2 0)) 1 = false ∧ portsShut (onWin (win 0 1 false 2 0)) 0 = false ∧
    putOf (onWin (win 0 1 false 2 0)) 0 Port.mover 1 0 = none ∧
    permits (tileOf (onWin (win 0 1 false 2 0)) 0) Port.mover 0 (ceilDiv [1].length 64) false = none ∧
    Runs (onWin (win 0 1 false 2 0)) 0 0 step5 ∧ step5.why = none ∧ QueueOpen (onWin (win 0 1 false 2 0)) := by decide +kernel

/-- Hypotheses of Letterbox met together, clause by clause. -/
theorem witness_Letterbox_2 :
    (tileOf (onPair (Op.getm 0 0 1 Port.s) (win 0 1 false 2 0)) 9).inflight = [] ∧
    (tileOf (onPair (Op.getm 0 0 1 Port.s) (win 0 1 false 2 0)) 9).st ≠ CpSt.abandoning ∧
    (tileOf (onPair (Op.getm 0 0 1 Port.s) (win 0 1 false 2 0)) 9).waitBlocks = none ∧
    (tileOf (onPair (Op.getm 0 0 1 Port.s) (win 0 1 false 2 0)) 9).noticed = false ∧ portReaches 9 Port.n 1 = true ∧
    portsShut (onPair (Op.getm 0 0 1 Port.s) (win 0 1 false 2 0)) 1 = false ∧
    portsShut (onPair (Op.getm 0 0 1 Port.s) (win 0 1 false 2 0)) 9 = false ∧
    getOf (onPair (Op.getm 0 0 1 Port.s) (win 0 1 false 2 0)) 9 Port.n 1 0 1 = some 3 ∧ 9 ≠ 1 ∧
    permits (tileOf (onPair (Op.getm 0 0 1 Port.s) (win 0 1 false 2 0)) 9) Port.n 0 1 true = some 0 ∧
    (tileOf (onWin (win 0 1 false 3 0)) 0).inflight = [] ∧ (tileOf (onWin (win 0 1 false 3 0)) 0).st ≠ CpSt.abandoning ∧
    (tileOf (onWin (win 0 1 false 3 0)) 0).waitBlocks = none ∧ (tileOf (onWin (win 0 1 false 3 0)) 0).noticed = false ∧
    portReaches 0 Port.mover 1 = true ∧ portsShut (onWin (win 0 1 false 3 0)) 1 = false ∧
    portsShut (onWin (win 0 1 false 3 0)) 0 = false ∧ (tileOf (onWin (win 0 1 true 3 0)) 0).inflight = [] ∧
    (tileOf (onWin (win 0 1 true 3 0)) 0).st ≠ CpSt.abandoning ∧ (tileOf (onWin (win 0 1 true 3 0)) 0).waitBlocks = none ∧
    (tileOf (onWin (win 0 1 true 3 0)) 0).noticed = false ∧ portsShut (onWin (win 0 1 true 3 0)) 1 = false ∧
    (winOf (tileOf (onWin (win 0 1 true 3 0)) 0) 7).opened = true ∧
    (winOf (tileOf (onWin (win 0 1 true 3 0)) 0) 7).closing = true ∧ (winOf (tileOf (onWin (win 0 1 true 3 0)) 0) 7).pend = 0 := by decide +kernel

/-- Hypotheses of SilentWaits met together, clause by clause. -/
theorem witness_SilentWaits_1 :
    Runs (onTile (tile0 [feedTlook])) 0 0 step5 ∧ step5.rerun = false ∧ QueueOpen (onTile (tile0 [feedTlook])) ∧
    startedOp (onTile (tile0 [feedTlook])) 0 tlookFed = some feedTlook ∧
    (tileOf (onTile (tile0 [feedTlook])) 0).tlaFifo.length < 32 ∧ Runs (busy feedQk 63) 0 0 step5 ∧ QueueOpen (busy feedQk 63) ∧
    (startedOp (busy feedQk 63) 0 fun j => j.tag == (infl feedQk 63).tag) = some (infl feedQk 63) ∧
    aeFeed (infl feedQk 63).op = some (1, 64, 16, 0) ∧ 1 ≠ 0 ∧ keysDrawn (infl feedQk 63) < 64 ∧
    keysDrawn (infl feedQk 63) < (infl feedQk 63).prog + 16 ∧
    takeKey (tileOf (busy feedQk 63) 0) (infl feedQk 63) (keysDrawn (infl feedQk 63)) = none ∧
    Runs (onTile (tile0 [redOp])) 0 0 step5 ∧ QueueOpen (onTile (tile0 [redOp])) ∧
    (List.find? (redWaits (tileOf (onTile (tile0 [redOp])) 0)) (tileOf (onTile (tile0 [redOp])) 0).inflight).isSome = true ∧
    Runs (onBand 2) 0 0 step5 ∧ QueueOpen (onBand 2) ∧
    startedOp (onBand 2) 0 (applyWaits (tileOf (onBand 2) 0)) = some (infl (Op.bandApply 0 false 256 256 0 0 0 0 2 0) 0) ∧
    (infl (Op.bandApply 0 false 256 256 0 0 0 0 2 0) 0).op = Op.bandApply 0 false 256 256 0 0 0 0 2 0 ∧
    List.find? (fun j => !arrived (tileOf (onTile (tile0 [redOp])) 0) j.await) (tileOf (onTile (tile0 [redOp])) 0).inflight
      = some redOp := by decide +kernel

/-- Hypotheses of SilentWaits met together, clause by clause. -/
theorem witness_SilentWaits_2 :
    Runs onSync 0 0 step5 ∧ step5.rerun = false ∧ QueueOpen onSync ∧
    List.find? (fun j => !arrived (tileOf onSync 0) j.await) (tileOf onSync 0).inflight = none ∧
    (tileOf onSync 0).waitBlocks.isSome = true ∧ arrived (tileOf onSync 0) (tileOf onSync 0).waitCount = false ∧
    Runs onCount 0 0 step5 ∧ QueueOpen onCount ∧
    List.find? (fun j => !arrived (tileOf onCount 0) j.await) (tileOf onCount 0).inflight = none ∧
    (tileOf onCount 0).waitBlocks = none ∧ heldCount (tileOf onCount 0) = true ∧ Runs (onBar [0]) 0 0 step5 ∧
    QueueOpen (onBar [0]) ∧ (tileOf (onBar [0]) 0).waitBar = some 0 ∧ (tileOf (onBar [0]) 0).waitBlocks = none ∧
    barrierOf (onBar [0]) 0 0 = some ([0, 1], 2, 0) ∧ Runs idle0 0 0 step5 ∧ QueueOpen idle0 ∧ (tileOf idle0 0).sec = none ∧
    ((tileOf idle0 0).st = CpSt.run ∨ (tileOf idle0 0).st = CpSt.held) ∧ idle0.boot.actSt ≠ ActSt.config ∧
    idle0.boot.actSt ≠ ActSt.switch := by decide +kernel

/-- Hypotheses of BandVerdicts met together, clause by clause. -/
theorem witness_BandVerdicts :
    (tileOf onPeers 0).st ≠ CpSt.abandoning ∧ Calm onPeers 0 ∧
    startedOp onPeers 0 (applyWaits (tileOf onPeers 0)) = some (infl (Op.bandApply 0 false 256 256 0 0 0 0 2 0) 0) ∧
    (infl (Op.bandApply 0 false 256 256 0 0 0 0 2 0) 0).op = Op.bandApply 0 false 256 256 0 0 0 0 2 0 ∧
    partOfTile onPeers 0 = some 0 ∧ bandOf (tileOf onPeers 0) 0 0 0 false = some bandVerdictsAt1 ∧
    peerVerdicts onPeers 0 bandVerdictsAt1 0 [1] = some [(true, 9)] ∧
    (bandVerdictsAt1.pass = true ∨ ∀ f ∈ onPeers.ras.faultRep, f.2.1 ≠ 1) ∧ (partOf onStrict 0).exec = some step5 ∧
    (strictLayer onStrict 0 0 = true ∨ ∃ c ∈ List.flatMap (fun n => List.filter (fun c => c.layer == 0 && c.set == 0 &&
      !c.makeup) (tileOf onStrict n).bands) (tilesOf onStrict 0), c.policy = 2) ∧
    (∃ c ∈ List.flatMap (fun n => List.filter (fun c => c.layer == 0 && c.set == 0 && !c.makeup) (tileOf onStrict n).bands)
      (tilesOf onStrict 0), c.joined = false) ∧
    (∀ a ∈ layerGroups onStrict 0 0 0 ++ List.map BandSt.group (List.flatMap (fun n => List.filter (fun c => c.layer == 0 &&
      c.set == 0 && !c.makeup) (tileOf onStrict n).bands) (tilesOf onStrict 0)), ∃ d ∈ List.flatMap (fun n => List.filter
      (fun c => c.layer == 0 && c.set == 0 && !c.makeup) (tileOf onStrict n).bands) (tilesOf onStrict 0), d.group = a ∧
      (d.audited = true ∨ d.verdict = some false)) := by decide +kernel

/-- Hypotheses of Notices met together, clause by clause. -/
theorem witness_Notices_1 :
    barrierOf (onBar [1, 0]) 0 0 = some ([0, 1], 2, 0) ∧ 2 ≤ (tabGet (tileOf (onBar [1, 0]) 0).bars 0 []).length ∧
    Runs onEnd 0 0 step5 ∧ (tileOf onEnd 0).ended = true ∧ 0 ∉ step5.ended ∧ (tileOf onAbandon 0).abandonOn = true ∧
    (tileOf onAbandon 0).faulted = false ∧ (tileOf onAbandon 0).ended = false ∧ (tileOf onAbandon 0).waitBlocks = none ∧
    (tileOf onAbandon 0).waitBar = none ∧ ((tileOf onAbandon 0).st = CpSt.run ∨ (tileOf onAbandon 0).st = CpSt.held) ∧
    stuckHold (tileOf onAbandon 0) = false ∧ (tileOf outAbandon 0).abandonOn = true ∧
    (tileOf outAbandon 0).st ≠ CpSt.fieldTest ∧
    ((tileOf outAbandon 0).faulted = true ∨ (tileOf outAbandon 0).ended = true ∨ (tileOf outAbandon 0).waitBlocks.isSome =
      true ∨ (tileOf outAbandon 0).waitBar.isSome = true ∨ (tileOf outAbandon 0).st ≠ CpSt.run ∧ (tileOf outAbandon 0).st ≠
      CpSt.held ∨ stuckHold (tileOf outAbandon 0) = true) ∧ Runs onBlock 0 0 step5 ∧ (tileOf onBlock 0).sec = none ∧
    ((tileOf onBlock 0).st = CpSt.run ∨ (tileOf onBlock 0).st = CpSt.held) ∧ (prefetch onBlock 0 0 step5 []).2 = some sec0 ∧
    sectionOk (tileOf (prefetch onBlock 0 0 step5 []).1 0) sec0 = true := by decide +kernel

/-- Hypotheses of Notices met together, clause by clause. -/
theorem witness_Notices_2 :
    partOfTile onNext 0 = some 0 ∧ (partOf onNext 0).composed = some step5 ∧ (tileOf onNext 0).sec.isSome = true ∧
    partOfTile (quiesce (some step5)) 0 = some 0 ∧ (partOf (quiesce (some step5)) 0).switchSt = SwitchSt.quiesce ∧
    (tileOf (quiesce (some step5)) 0).st ≠ CpSt.abandoning ∧ (tileOf (quiesce (some step5)) 0).poison = [] := by decide +kernel

/-- Hypotheses of StepEnds met together, clause by clause. -/
theorem witness_StepEnds :
    (partOf (stepped tainted5) 0).exec = some tainted5 ∧ allEnded (stepped tainted5) 0 tainted5 = true ∧ tainted5.why = none ∧
    tainted5.taint = some 7 ∧ (partOf (stepped ended5) 0).exec = some ended5 ∧ allEnded (stepped ended5) 0 ended5 = true ∧
    ended5.why = none ∧ ended5.taint = none ∧ (partOf allOut 0).exec = some whyOut ∧ whyOut.why = some (toRerun none) ∧
    (∀ n ∈ tilesOf allOut 0, tileOut allOut whyOut n = true) ∧ composeHeld (served (slot3 SlotSt.decode)) 0 = false ∧
    nextVersion (preemptIdle (served (slot3 SlotSt.decode)) 0) 0 = some 1 ∧
    (compose (preemptIdle (served (slot3 SlotSt.decode)) 0) 0 1).wait = false ∧
    (compose (preemptIdle (served (slot3 SlotSt.decode)) 0) 0 1).cols ≠ [] := by decide +kernel

/-- Hypotheses of SlotLife met together, clause by clause. -/
theorem witness_SlotLife_1 :
    (slotOf slotDone 3).st = SlotSt.closing ∧ (slotOf slotDone 3).finDone = true ∧ (slotOf slotDone 3).heldFin = none ∧
    (slotOf slotDone 3).heldAdm = none ∧ (slotOf slotDone 3).heldNote = none ∧ (slotOf slotDone 3).hold = [] ∧
    (slotOf slotRetry 3).retryAt = some 0 ∧ (slotOf slotRetry 3).st = SlotSt.handoff ∧ 0 ≤ nowNs slotRetry ∧
    List.find? (fun n => (slotOf slotSwap n).swapped.contains (2 ^ 32)) (slotsOf slotSwap 0) = some 3 ∧
    placeIn (slotOf slotSwap 3) (2 ^ 32) = some (0, 0) ∧ (partOf slotSwap 0).swapArea = some (0, 4096) ∧
    (pageOf (partOf slotSwap 0) (2 ^ 32)).st ≠ PageSt.sealing ∧ isShared (pageOf (partOf slotSwap 0) (2 ^ 32)) = false ∧
    (fnOf slotSwap (driverOf slotSwap 0)).bme = true ∧ (slotOf slotBack 3).part = 0 ∧
    (slotOf slotBack 3).st = SlotSt.preempted ∧ (readmitQueue slotBack 0).head? = some 3 ∧ (slotOf slotBack 3).swapped = [] ∧
    (isLc (slotOf slotBack 3) = true → readmitLc slotBack 3 = true) ∧
    (∀ q ∈ poolsOf (if isLc (slotOf slotBack 3) = true then readmitRoom slotBack 3 else slotBack) 0, (readmitNeed (if isLc
      (slotOf slotBack 3) = true then readmitRoom slotBack 3 else slotBack) 3 q + if isLc (slotOf slotBack 3) = true then 0
      else poolReserved (if isLc (slotOf slotBack 3) = true then readmitRoom slotBack 3 else slotBack) 0 q) ≤ poolFree (if
      isLc (slotOf slotBack 3) = true then readmitRoom slotBack 3 else slotBack) 0 q) ∧ (slotOf slotRec 3).part = 0 ∧
    (slotOf slotRec 3).st = SlotSt.preempted ∧ (readmitQueue slotRec 0).head? = some 3 ∧ (slotOf slotRec 3).swapped = [] ∧
    (isLc (slotOf slotRec 3) = true → readmitLc slotRec 3 = true) ∧
    (∀ q ∈ poolsOf (if isLc (slotOf slotRec 3) = true then readmitRoom slotRec 3 else slotRec) 0, (readmitNeed (if isLc
      (slotOf slotRec 3) = true then readmitRoom slotRec 3 else slotRec) 3 q + if isLc (slotOf slotRec 3) = true then 0 else
      poolReserved (if isLc (slotOf slotRec 3) = true then readmitRoom slotRec 3 else slotRec) 0 q) ≤ poolFree (if isLc
      (slotOf slotRec 3) = true then readmitRoom slotRec 3 else slotRec) 0 q) := by decide +kernel

/-- Hypotheses of SlotLife met together, clause by clause. -/
theorem witness_SlotLife_2 :
    (slotOf slotAgain 3).part = 0 ∧ (slotOf slotAgain 3).st = SlotSt.preempted ∧ (readmitQueue slotAgain 0).head? = some 3 ∧
    (slotOf slotAgain 3).swapped = [] ∧ (isLc (slotOf slotAgain 3) = true → readmitLc slotAgain 3 = true) ∧
    (∀ q ∈ poolsOf (if isLc (slotOf slotAgain 3) = true then readmitRoom slotAgain 3 else slotAgain) 0, (readmitNeed (if
      isLc (slotOf slotAgain 3) = true then readmitRoom slotAgain 3 else slotAgain) 3 q + if isLc (slotOf slotAgain 3) =
      true then 0 else poolReserved (if isLc (slotOf slotAgain 3) = true then readmitRoom slotAgain 3 else slotAgain) 0 q) ≤
      poolFree (if isLc (slotOf slotAgain 3) = true then readmitRoom slotAgain 3 else slotAgain) 0 q) ∧
    (slotOf slotLast 3).toRestore = [0] ∧ swapsOf slotLast 3 = [rec0 0] ∧ (slotOf slotLast 3).st = SlotSt.preempted ∧
    swapStands [] = false ∧ (slotOf slotTwo 3).toRestore = [0, 1] ∧ swapsOf slotTwo 3 = [rec0 0, rec0 1] ∧
    (slotOf slotTwo 3).st = SlotSt.preempted ∧ swapStands swap1 = true ∧
    poolFor slotTwo (slotOf slotTwo 3).part (placeDie ((placesOf slotTwo (slotOf slotTwo 3).part (slotOf slotTwo
      3).pver).getD (rec0 0).place (Place.mk 0 0 [])) (rec0 0).idx) = some 1 ∧
    allocPage slotTwo (slotOf slotTwo 3).part 1 ((placesOf slotTwo (slotOf slotTwo 3).part (slotOf slotTwo 3).pver).getD
      (rec0 0).place (Place.mk 0 0 [])).layer ((placesOf slotTwo (slotOf slotTwo 3).part (slotOf slotTwo 3).pver).getD (rec0
      0).place (Place.mk 0 0 [])).kvHead 3 = some slotTwoPage := by decide +kernel

/-- Hypotheses of ContextSwitch met together, clause by clause. -/
theorem witness_ContextSwitch_1 :
    (partOf (twoCtx false) 0).valid = true ∧ (partOf (twoCtx false) 0).switchSt = SwitchSt.idle ∧
    1 < (ctxsOf (partOf (twoCtx false) 0)).length ∧ nextCtx (twoCtx true) 0 = some 1 ∧ (partOf (twoCtx true) 0).valid = true ∧
    (partOf (twoCtx true) 0).switchSt = SwitchSt.idle ∧
    ((partOf (twoCtx true) 0).switchDue = true ∨ ctxYields (twoCtx true) 0 = true) ∧
    ((partOf (twoCtx true) 0).exec = none ∨ (partOf (twoCtx true) 0).barPoint = some (issuedIn (twoCtx true) 0)) ∧
    (twoCtx true).pwr.sleep = SleepSt.awake ∧ (partOf (quiesce none) 0).switchSt = SwitchSt.quiesce ∧
    (partOf (quiesce none) 0).exec = none ∧ (partOf stoppedAll 0).switchSt = SwitchSt.quiesce ∧
    (partOf stoppedAll 0).exec = some step5 ∧ step5.why = none ∧
    (∀ n ∈ tilesOf stoppedAll 0, ((tileOf stoppedAll n).stopped = true ∨ (tileOf stoppedAll n).ended = true) ∧ tileQuiet
      (tileOf stoppedAll n) = true) ∧ (partOf (switching SwitchSt.save (some step5)) 0).switchSt = SwitchSt.save ∧
    (partOf (switching SwitchSt.save (some step5)) 0).incoming ≠ (partOf (switching SwitchSt.save (some step5)) 0).running := by decide +kernel

/-- Hypotheses of ContextSwitch met together, clause by clause. -/
theorem witness_ContextSwitch_2 :
    (partOf (switching SwitchSt.restore none) 0).switchSt = SwitchSt.restore ∧ (partOf whole1 0).switchSt = SwitchSt.restore ∧
    restoresWhole whole1 (ctxOf (partOf whole1 0) (partOf whole1 0).incoming) = true ∧
    restoresWhole (switching SwitchSt.restore none) (ctxOf (partOf (switching SwitchSt.restore none) 0) (partOf (switching
      SwitchSt.restore none) 0).incoming) = false ∧ (partOf (quiesce (some step5)) 0).switchSt = SwitchSt.quiesce ∧
    (partOf (quiesce (some step5)) 0).exec = some step5 ∧ step5.why = none ∧ QueueOpen (quiesce (some step5)) ∧
    (partOf declaredP 0).declared = some (Declared.mk 49 50) ∧ eventsOpen declaredP 0 = false := by decide +kernel

/-- Hypotheses of Expanders met together, clause by clause. -/
theorem witness_Expanders_1 :
    partOfDie expandersAt1 0 = some 0 ∧ laneLive expandersAt1 0 0 = true ∧ gatherTakes expandersAt1 0 0 0 = false ∧
    (openLane expandersAt1 0 0 0 0 ((laneOf expandersAt1 (laneKey 0 0 0)).list.length + 1) (laneOf expandersAt1 (laneKey 0 0
      0))).todo = [FeedItem.mk 0 2048] ∧
    (openLane expandersAt1 0 0 0 0 ((laneOf expandersAt1 (laneKey 0 0 0)).list.length + 1) (laneOf expandersAt1 (laneKey 0 0
      0))).reads.length < readRoom (openLane expandersAt1 0 0 0 0 ((laneOf expandersAt1 (laneKey 0 0 0)).list.length + 1)
      (laneOf expandersAt1 (laneKey 0 0 0))) ∧ partOfDie expandersAt2 0 = some 0 ∧ laneLive expandersAt2 0 0 = true ∧
    (laneOf expandersAt2 (laneKey 0 0 0)).list = [feed1 (FeedKind.run 1)] ∧
    (laneOf expandersAt2 (laneKey 0 0 0)).reads = [(FeedItem.mk 0 2048, 255)] ∧
    (laneOf expandersAt2 (laneKey 0 0 0)).places.length < 2 ∧ isGather (feed1 (FeedKind.run 1)) = false ∧
    partOfDie expandersAt3 0 = some 0 ∧ laneLive expandersAt3 0 0 = true ∧
    (laneOf expandersAt3 (laneKey 0 0 0)).list = [feed1 (FeedKind.gather 1 1 1)] ∧
    (feed1 (FeedKind.gather 1 1 1)).kind = FeedKind.gather 1 1 1 ∧ (laneOf expandersAt3 (laneKey 0 0 0)).places.length ≤ 5 ∧
    0 < (gatherWindow (laneOf expandersAt3 (laneKey 0 0 0)).nrec (laneOf expandersAt3 (laneKey 0 0 0)).chunk).length ∧
    (gatherWindow (laneOf expandersAt3 (laneKey 0 0 0)).nrec (laneOf expandersAt3 (laneKey 0 0 0)).chunk).length ≤ (laneOf
      expandersAt3 (laneKey 0 0 0)).reads.length ∧ partOfDie expandersAt4 0 = some 0 ∧ laneLive expandersAt4 0 0 = true ∧
    (laneOf expandersAt4 (laneKey 0 0 0)).list = [feed1 (FeedKind.run 1)] ∧
    (laneOf expandersAt4 (laneKey 0 0 0)).places = [[(0, 1)]] ∧
    (∀ r ∈ (feed1 (FeedKind.run 1)).rcp, fifoLen (tileOf expandersAt4 (0 * 64 + r)) ↑(feed1 (FeedKind.run 1)).fifo ≤ 2048) ∧
    partOfDie (applied true) 0 = some 0 ∧ laneLive (applied true) 0 0 = true ∧
    appliedOf (applied true) 0 0 0 0 0 false = [expandersAt5] ∧
    (∀ c ∈ (if appliedOf (applied true) 0 0 0 0 0 true = [] then List.map computedOf [expandersAt5] else List.map
      BandSt.list (appliedOf (applied true) 0 0 0 0 0 true)) ++ [], ((if appliedOf (applied true) 0 0 0 0 0 true = [] then
      List.map computedOf [expandersAt5] else List.map BandSt.list (appliedOf (applied true) 0 0 0 0 0 true)) ++ []).head? =
      some c) := by decide +kernel

/-- Hypotheses of Expanders met together, clause by clause. -/
theorem witness_Expanders_2 :
    partOfDie (applied false) 0 = some 0 ∧ laneLive (applied false) 0 0 = true ∧
    appliedOf (applied false) 0 0 0 0 0 false = [expandersAt5] ∧
    (∃ c ∈ (if appliedOf (applied false) 0 0 0 0 0 true = [] then List.map computedOf [expandersAt5] else List.map
      BandSt.list (appliedOf (applied false) 0 0 0 0 0 true)) ++ [[1]], ((if appliedOf (applied false) 0 0 0 0 0 true = []
      then List.map computedOf [expandersAt5] else List.map BandSt.list (appliedOf (applied false) 0 0 0 0 0 true)) ++
      [[1]]).head? ≠ some c) ∧ QueueOpen (applied false) ∧ (partOf (applied false) 0).exec = some step5 ∧
    partOfDie expandersAt6 0 = some 0 ∧ laneLive expandersAt6 0 0 = true ∧
    (laneOf expandersAt6 (laneKey 0 0 0)).list = [feed1 (FeedKind.gather 1 1 1)] ∧
    (laneOf expandersAt6 (laneKey 0 0 0)).opened = false ∧
    waitsList expandersAt6 0 ((laneOf expandersAt6 (laneKey 0 0 0)).home.headD 0) (feed1 (FeedKind.gather 1 1 1)) = true ∧
    QueueOpen expandersAt6 ∧ (partOf expandersAt6 0).exec = some step5 ∧ step5.rerun = false ∧ partOfDie sealing 0 = some 0 ∧
    laneLive sealing 0 0 = true ∧ (pageOf (partOf sealing 0) 5).st = PageSt.sealing := by decide +kernel

/-- Hypotheses of MemoryCommands met together, clause by clause. -/
theorem witness_MemoryCommands_1 :
    regionAt memA' (16777215 * 64) = some 0 ∧ requesterMay memA' (Requester.tile 0) (regionOf memA' 0) true = true ∧
    requesterMay memA' (Requester.tile 0) (regionOf memA' 0) false = true ∧
    (lineRead memA' (16777215 * 64) LineErr.clean (requesterReader (Requester.tile 0))).2 = 0 ∧ chanOk memW 0 = true ∧
    nextScrub memW 0 = some 0 ∧ regionAt memP (0 * 64) = some 0 ∧
    requesterMay memP (Requester.tile 0) (regionOf memP 0) false = true ∧
    migOf (migrating BucketSt.copying) 0 = some (Migration.mk 0 [BucketMove.mk false 0 1 BucketSt.copying] 0 0 true) ∧
    List.find? (fun w => w.spread == false && w.bucket == 0 && w.st == BucketSt.copying) (Migration.mk 0 [BucketMove.mk
      false 0 1 BucketSt.copying] 0 0 true).moves = some (BucketMove.mk false 0 1 BucketSt.copying) := by decide +kernel

/-- Hypotheses of MemoryCommands met together, clause by clause. -/
theorem witness_MemoryCommands_2 :
    migOf (migrating BucketSt.new) 0 = some (Migration.mk 0 [BucketMove.mk false 0 1 BucketSt.new] 0 0 true) ∧
    (∀ v ∈ (Migration.mk 0 [BucketMove.mk false 0 1 BucketSt.new] 0 0 true).moves, v.st = BucketSt.new) ∧
    QueueOpen (migrating BucketSt.new) := by decide +kernel

/-- Hypotheses of LoadCommands met together, clause by clause. -/
theorem witness_LoadCommands_1 :
    loadCmdNo (takeCmd loaded (takerOf loaded x0) 32).s x0 0 = none ∧
    loadCmdNo (takeCmd loaded (takerOf loaded x0) 33).s x0 0 = none ∧
    List.find? (fun e => e.current && e.ctx == ↑x0.ctx) (versionsOf (takeCmd loaded (takerOf loaded x0) 33).s (↑x0.part) 1)
      = some (ent1 false) ∧
    (freeBank (setLoad (emit (acceptCmd (takeCmd loaded (takerOf loaded x0) 33).s x0 33 (takeCmd loaded (takerOf loaded x0)
      33).jseq) (Out.hostRead (↑x0.fn) 0 4096)) (↑x0.part) (some (Load.mk x0 33 1 0 (progVersion img2) none))) ↑x0.part
      ↑x0.ctx).isSome = true ∧
    progNo (setLoad (emit (acceptCmd (takeCmd loaded (takerOf loaded x0) 33).s x0 33 (takeCmd loaded (takerOf loaded x0)
      33).jseq) (Out.hostRead (↑x0.fn) 0 4096)) (↑x0.part) (some (Load.mk x0 33 1 0 (progVersion img2) none))) (↑x0.part)
      img2 = none ∧ loadOf loading 0 = some (Load.mk x0 32 1 1 1 none) ∧ (Load.mk x0 32 1 1 1 none).src.part = 0 ∧
    (Load.mk x0 32 1 1 1 none).adapter = none ∧
    (∀ e ∈ bundleEnts loading, e.loading = true → e.part = 0 → ∀ r ∈ bundleRuns loading e, ∀ b ∈ loading.mem.poison, ¬(r.1 ≤
      b ∧ b < r.1 + r.2)) ∧ cmdNo (takeCmd loaded (takerOf loaded x0) 34).s x0 Carrier.control false = none ∧
    ctxPresent (takeCmd loaded (takerOf loaded x0) 34).s x0 = true ∧
    sameLoad (takeCmd loaded (takerOf loaded x0) 34).s (↑x0.part) 1 = false ∧
    List.find? (fun e => e.current && e.ctx == ↑x0.ctx) (versionsOf (takeCmd loaded (takerOf loaded x0) 34).s (↑x0.part) 1)
      = some (ent1 false) ∧ ((ent1 false).img.shared = true → namedBase (takeCmd loaded (takerOf loaded x0) 34).s 1 = false) ∧
    List.find? (fun g => g.current && g.bundle == 1 && g.ctx == ↑x0.ctx) (progsOf (takeCmd loaded (takerOf loaded x0) 34).s
      ↑x0.part) = some prog1 := by decide +kernel

/-- Hypotheses of LoadCommands met together, clause by clause. -/
theorem witness_LoadCommands_2 :
    cmdNo (takeCmd (adapted [] []) (takerOf (adapted [] []) x0) 35).s x0 Carrier.control false [addrNo 0 24] = none ∧
    ctxPresent (takeCmd (adapted [] []) (takerOf (adapted [] []) x0) 35).s x0 = true ∧
    loadOf (takeCmd (adapted [] []) (takerOf (adapted [] []) x0) 35).s ↑x0.part = none ∧
    adapterNo (setLoad (emit (acceptCmd (takeCmd (adapted [] []) (takerOf (adapted [] []) x0) 35).s x0 35 (takeCmd (adapted
      [] []) (takerOf (adapted [] []) x0) 35).jseq) (Out.hostRead (↑x0.fn) 0 64)) (↑x0.part) (some (Load.mk x0 35 (adBundle
      adp1) (adVersion adp1) 0 (some (adId adp1))))) x0 adp1 = none ∧
    loadOf (adapted [ad1 true] [(0, some (Load.mk x0 35 1 1 0 (some 1023)))]) 0 = some (Load.mk x0 35 1 1 0 (some 1023)) ∧
    (Load.mk x0 35 1 1 0 (some 1023)).src.part = 0 ∧ (Load.mk x0 35 1 1 0 (some 1023)).adapter = some 1023 ∧
    (∀ a ∈ adaptersOf (adapted [ad1 true] [(0, some (Load.mk x0 35 1 1 0 (some 1023)))]) 0, a.id = 1023 → a.loading = true →
      ∀ b ∈ blocksOf a.addr a.bytes, b ∉ (adapted [ad1 true] [(0, some (Load.mk x0 35 1 1 0 (some 1023)))]).mem.poison) ∧
    cmdNo (takeCmd (adapted [ad1 false] []) (takerOf (adapted [ad1 false] []) x0) 36).s x0 Carrier.control false = none ∧
    ctxPresent (takeCmd (adapted [ad1 false] []) (takerOf (adapted [ad1 false] []) x0) 36).s x0 = true ∧
    List.find? (fun a => a.id == 1023 && a.bundle == 1 && a.current && a.ctx == ↑x0.ctx) (adaptersOf (takeCmd (adapted [ad1
      false] []) (takerOf (adapted [ad1 false] []) x0) 36).s ↑x0.part) = some (ad1 false) ∧
    cmdNo (takeCmd loaded (takerOf loaded x0) 37).s (takerOf loaded x0) Carrier.control true [addrNo 64 24] = none ∧
    (loadTable (emit (takeCmd loaded (takerOf loaded x0) 37).s (Out.hostRead (↑(takerOf loaded x0).fn) 64 136)) (srcOrigin
      (takerOf loaded x0)) 8 0 15 (codeTableOf table1)).2 = none := by decide +kernel

/-- Hypotheses of RequestCommands met together, clause by clause. -/
theorem witness_RequestCommands_1 :
    submitNo (readNamed (takeCmd loaded (takerOf loaded x2) 1).s x2 sub1.block (reqBytes sub1)) x2 sub1 (some (reqBlockOf
      sub1 blk1)) = none ∧
    specNo (takeCmd (slotted (slot3 SlotSt.decode) false) (takerOf (slotted (slot3 SlotSt.decode) false) x2) 2).s x2 1 64
      (some (Tree.mk 0 (nodesOf tree1 1))) = none ∧
    cmdNo (takeCmd (slotted (slot3 SlotSt.closing) false) (takerOf (slotted (slot3 SlotSt.closing) false) x0) 3).s x0
      Carrier.any false = none ∧
    slotNo (takeCmd (slotted (slot3 SlotSt.closing) false) (takerOf (slotted (slot3 SlotSt.closing) false) x0) 3).s x0 =
      none ∧
    inRunning (takeCmd (slotted (slot3 SlotSt.closing) false) (takerOf (slotted (slot3 SlotSt.closing) false) x0) 3).s
      x0.slot = false ∧
    (slotOf (takeCmd (slotted (slot3 SlotSt.closing) false) (takerOf (slotted (slot3 SlotSt.closing) false) x0) 3).s
      x0.slot).st = SlotSt.closing ∧
    cmdNo (takeCmd (slotted (slot3 SlotSt.decode) false) (takerOf (slotted (slot3 SlotSt.decode) false) x0) 3).s x0
      Carrier.any false = none ∧
    slotNo (takeCmd (slotted (slot3 SlotSt.decode) false) (takerOf (slotted (slot3 SlotSt.decode) false) x0) 3).s x0 = none
      ∧
    inRunning (takeCmd (slotted (slot3 SlotSt.decode) false) (takerOf (slotted (slot3 SlotSt.decode) false) x0) 3).s x0.slot
      = false ∧
    (slotOf (takeCmd (slotted (slot3 SlotSt.decode) false) (takerOf (slotted (slot3 SlotSt.decode) false) x0) 3).s
      x0.slot).st ≠ SlotSt.closing ∧
    cmdNo (takeCmd (slotted (slot3 SlotSt.decode) true) (takerOf (slotted (slot3 SlotSt.decode) true) x0) 3).s x0
      Carrier.any false = none ∧
    slotNo (takeCmd (slotted (slot3 SlotSt.decode) true) (takerOf (slotted (slot3 SlotSt.decode) true) x0) 3).s x0 = none := by decide +kernel

/-- Hypotheses of RequestCommands met together, clause by clause. -/
theorem witness_RequestCommands_2 :
    cmdNo (takeCmd (slotted (slot3 SlotSt.decode) false) (takerOf (slotted (slot3 SlotSt.decode) false) x0) 3).s x0
      Carrier.any false = none ∧
    ctxPresent (takeCmd (slotted (slot3 SlotSt.decode) false) (takerOf (slotted (slot3 SlotSt.decode) false) x0) 3).s x0 =
      true ∧
    (∀ n ∈ slotsOf (takeCmd (slotted (slot3 SlotSt.decode) false) (takerOf (slotted (slot3 SlotSt.decode) false) x0) 3).s
      ↑x0.part, (slotOf (takeCmd (slotted (slot3 SlotSt.decode) false) (takerOf (slotted (slot3 SlotSt.decode) false) x0)
      3).s n).ctx = ↑x0.ctx → inRunning (takeCmd (slotted (slot3 SlotSt.decode) false) (takerOf (slotted (slot3
      SlotSt.decode) false) x0) 3).s n = false) := by decide +kernel

/-- Hypotheses of RingCommands met together, clause by clause. -/
theorem witness_RingCommands_1 :
    attachNo (takeCmd (ringed RingSt.detached) (takerOf (ringed RingSt.detached) x0) 16).s x0 2 16 4096 64 256 1000 = none ∧
    attachNo (takeCmd (ringed RingSt.haltedDma) (takerOf (ringed RingSt.haltedDma) x0) 16).s x0 2 6 4096 64 1 0 = none ∧
    ringUsed (ringOf (takeCmd (ringed RingSt.haltedDma) (takerOf (ringed RingSt.haltedDma) x0) 16).s ↑x0.part 2) ≤ 2 ^ 6 ∧
    cmdNo (takeCmd (ringed RingSt.detached) (takerOf (ringed RingSt.detached) x0) 17).s x0 Carrier.control false = none ∧
    cmdNo (takeCmd (ringed RingSt.active) (takerOf (ringed RingSt.active) x0) 18).s x0 Carrier.control false = none ∧
    ((ringOf (takeCmd (ringed RingSt.active) (takerOf (ringed RingSt.active) x0) 18).s ↑x0.part 2).st = RingSt.active ∨
      (ringOf (takeCmd (ringed RingSt.active) (takerOf (ringed RingSt.active) x0) 18).s ↑x0.part 2).st = RingSt.paused) ∧
    cmdNo (takeCmd (ringed RingSt.active) (takerOf (ringed RingSt.active) x0) 19).s x0 Carrier.control false = none ∧
    ((ringOf (takeCmd (ringed RingSt.active) (takerOf (ringed RingSt.active) x0) 19).s ↑x0.part 2).st = RingSt.active ∨
      (ringOf (takeCmd (ringed RingSt.active) (takerOf (ringed RingSt.active) x0) 19).s ↑x0.part 2).st = RingSt.paused ∧
      (fnOf (takeCmd (ringed RingSt.active) (takerOf (ringed RingSt.active) x0) 19).s (ringOf (takeCmd (ringed
      RingSt.active) (takerOf (ringed RingSt.active) x0) 19).s ↑x0.part 2).owner).paused = false ∧ (fnOf (takeCmd (ringed
      RingSt.active) (takerOf (ringed RingSt.active) x0) 19).s (ringOf (takeCmd (ringed RingSt.active) (takerOf (ringed
      RingSt.active) x0) 19).s ↑x0.part 2).owner).bme = true) := by decide +kernel

/-- Hypotheses of RingCommands met together, clause by clause. -/
theorem witness_RingCommands_2 :
    cmdNo (takeCmd pausedMaster (takerOf pausedMaster x0) 19).s x0 Carrier.control false = none ∧
    ((ringOf (takeCmd pausedMaster (takerOf pausedMaster x0) 19).s ↑x0.part 0).st = RingSt.active ∨ (ringOf (takeCmd
      pausedMaster (takerOf pausedMaster x0) 19).s ↑x0.part 0).st = RingSt.paused ∧ (fnOf (takeCmd pausedMaster (takerOf
      pausedMaster x0) 19).s (ringOf (takeCmd pausedMaster (takerOf pausedMaster x0) 19).s ↑x0.part 0).owner).paused = false
      ∧ (fnOf (takeCmd pausedMaster (takerOf pausedMaster x0) 19).s (ringOf (takeCmd pausedMaster (takerOf pausedMaster x0)
      19).s ↑x0.part 0).owner).bme = true) := by decide +kernel

/-- Hypotheses of ControlCommands met together, clause by clause. -/
theorem witness_ControlCommands_1 :
    configNo (takeCmd loaded (takerOf loaded x0) 48).s x0 266240 4 1000 1023 = none ∧
    fldFor 266240 4 1023 = some (Fld.slice 0 0) ∧
    configExists (takeCmd loaded (takerOf loaded x0) 48).s (Fld.slice 0 0) = true ∧
    fldRange (takeCmd loaded (takerOf loaded x0) 48).s (Fld.slice 0 0) (fldNew (takeCmd loaded (takerOf loaded x0) 48).s
      (Fld.slice 0 0) 266240 1000 1023) = none ∧
    cmdNo (takeCmd loaded (takerOf loaded x1) 49).s x1 Carrier.control false = none ∧ (partOf loaded ↑x1.part).valid = true ∧
    (ctxOf (partOf loaded ↑x1.part) ↑x1.ctx).st = CtxSt.empty ∧ quiescent loaded ↑x1.part = true ∧
    cmdNo (takeCmd ctx1 (takerOf ctx1 x1) 49).s x1 Carrier.control false = none ∧
    ctxPresent (takeCmd ctx1 (takerOf ctx1 x1) 49).s x1 = true ∧ ctxActive (partOf ctx1 ↑x1.part) ↑x1.ctx = false ∧
    swapNo (takeCmd loaded (takerOf loaded x0) 50).s x0 64 (2 ^ 21) = none ∧
    swapNo (takeCmd loaded (takerOf loaded x0) 50).s x0 0 0 = none := by decide +kernel

/-- Hypotheses of ControlCommands met together, clause by clause. -/
theorem witness_ControlCommands_2 :
    readNo (takeCmd loaded (takerOf loaded x0) 64).s x0 65536 64 = none ∧
    selJournal x0 0 (takeCmd loaded (takerOf loaded x0) 64).s (takeCmd loaded (takerOf loaded x0) 64).jseq (takeCmd loaded
      (takerOf loaded x0) 64).time = some [] ∧ readNo (takeCmd loaded (takerOf loaded x0) 64).s x0 1 64 = none ∧
    selLedger x0 0 (takeCmd loaded (takerOf loaded x0) 64).s (takeCmd loaded (takerOf loaded x0) 64).jseq (takeCmd loaded
      (takerOf loaded x0) 64).time = some [] ∧
    selDlq x0 (takeCmd loaded (takerOf loaded x0) 64).s (takeCmd loaded (takerOf loaded x0) 64).jseq (takeCmd loaded
      (takerOf loaded x0) 64).time = some [] ∧
    selSteps x0 0 (takeCmd loaded (takerOf loaded x0) 64).s (takeCmd loaded (takerOf loaded x0) 64).jseq (takeCmd loaded
      (takerOf loaded x0) 64).time = some [] ∧
    selErrors x0 0 (takeCmd loaded (takerOf loaded x0) 64).s (takeCmd loaded (takerOf loaded x0) 64).jseq (takeCmd loaded
      (takerOf loaded x0) 64).time = some [] := by decide +kernel

/-- Hypotheses of ControlCommands met together, clause by clause. -/
theorem witness_ControlCommands_3 :
    cmdNo (takeCmd lettered (takerOf lettered x0) 65).s x0 Carrier.control false = none ∧
    1 ≤ (partOf (takeCmd lettered (takerOf lettered x0) 65).s ↑x0.part).dlq.length := by decide +kernel

/-- Hypotheses of HostLink met together, clause by clause. -/
theorem witness_HostLink :
    loaded.side.mainOn = true ∧ loaded.side.perst = false ∧ modeRank 5 4 ≠ 0 ∧ oneVf.side.mainOn = true ∧ 1 ≠ 0 ∧
    1 ≤ oneVf.hif.numVfs ∧ 8 ≤ 8 ∧ shown.boot.presented = true ∧ shown.boot.st ≠ BootSt.recovery ∧
    (fnOf hostLinkAt1 0).paused = false := by decide +kernel

/-- Hypotheses of Bar4AndTlp met together, clause by clause. -/
theorem witness_Bar4AndTlp :
    barP.boot.st = BootSt.run ∧ barP.pwr.sleep = SleepSt.awake ∧ 0 + [7].length ≤ (fnOf barP 0).bar4Size * gib ∧
    bar4Refuses barP true (linesOf (barP.hif.bar4Base * gib + 0) [7].length) = none ∧
    (linesRead barP (Reader.mk 3 0) (List.filter (fun l => !(wholeLines (barP.hif.bar4Base * gib + 0) [7].length).contains
      l) (linesOf (barP.hif.bar4Base * gib + 0) [7].length)) []).2.1 ≠ 0 ∧ bar4.boot.st = BootSt.run ∧
    bar4.pwr.sleep = SleepSt.awake ∧ 0 + (List.replicate 64 7).length ≤ (fnOf bar4 0).bar4Size * gib ∧
    bar4Refuses bar4 true (linesOf (bar4.hif.bar4Base * gib + 0) (List.replicate 64 7).length) = none ∧
    (linesRead bar4 (Reader.mk 3 0) (List.filter (fun l => !(wholeLines (bar4.hif.bar4Base * gib + 0) (List.replicate 64
      7).length).contains l) (linesOf (bar4.hif.bar4Base * gib + 0) (List.replicate 64 7).length)) []).2.1 = 0 ∧
    0 + 1 ≤ (fnOf bar4 0).bar4Size * gib ∧ bar4Refuses bar4 false (linesOf (bar4.hif.bar4Base * gib + 0) 1) = none ∧
    (linesRead bar4 (Reader.mk 3 0) (linesOf (bar4.hif.bar4Base * gib + 0) 1) []).2.1 = 0 ∧ bar4.side.mainOn = true ∧
    (fnOf bar4 0).paused = false := by decide +kernel

/-- Hypotheses of Doorbells met together, clause by clause. -/
theorem witness_Doorbells_1 :
    doorbellsAt1.boot.st = BootSt.run ∧ fnLive doorbellsAt1 0 = true ∧ vfAbsent doorbellsAt1 0 = false ∧
    driverOf doorbellsAt1 0 = 0 ∧ (fnOf doorbellsAt1 0).paused = true ∧ (hosted Fn.init [(2, ring6 0 0)]).boot.st = BootSt.run ∧
    fnLive (hosted Fn.init [(2, ring6 0 0)]) 0 = true ∧ vfAbsent (hosted Fn.init [(2, ring6 0 0)]) 0 = false ∧
    driverOf (hosted Fn.init [(2, ring6 0 0)]) 0 = 0 ∧ (fnOf (hosted Fn.init [(2, ring6 0 0)]) 0).paused = false ∧
    ((ringOf (hosted Fn.init [(2, ring6 0 0)]) 0 2).st = RingSt.active ∨ (ringOf (hosted Fn.init [(2, ring6 0 0)]) 0 2).st =
      RingSt.paused) ∧ 2 < 3 ∧
    doorbellOk (ringOf (hosted Fn.init [(2, ring6 0 0)]) 0 2) 2 (BitVec.toNat (64 : BitVec 32)) = true ∧
    (hosted Fn.init [(3, ring6 64 0)]).boot.st = BootSt.run ∧ fnLive (hosted Fn.init [(3, ring6 64 0)]) 0 = true ∧
    vfAbsent (hosted Fn.init [(3, ring6 64 0)]) 0 = false ∧ driverOf (hosted Fn.init [(3, ring6 64 0)]) 0 = 0 ∧
    (fnOf (hosted Fn.init [(3, ring6 64 0)]) 0).paused = false ∧
    ((ringOf (hosted Fn.init [(3, ring6 64 0)]) 0 3).st = RingSt.active ∨ (ringOf (hosted Fn.init [(3, ring6 64 0)]) 0 3).st
      = RingSt.paused) ∧ 3 ≤ 3 ∧
    doorbellOk (ringOf (hosted Fn.init [(3, ring6 64 0)]) 0 3) 3 (BitVec.toNat (64 : BitVec 32)) = true ∧
    doorbellOk (ringOf (hosted Fn.init [(2, ring6 0 0)]) 0 2) 2 (BitVec.toNat (65 : BitVec 32)) = false ∧
    QueueOpen (hosted Fn.init [(2, ring6 0 0)]) ∧ (hosted Fn.init [(2, ring6 1 0)]).boot.st = BootSt.run ∧
    (hosted Fn.init [(2, ring6 1 0)]).pwr.sleep = SleepSt.awake ∧ (hosted Fn.init [(2, ring6 1 0)]).hif.hostUp = true ∧ 2 ≤ 2 ∧
    [Fetched.mk 1 2 3 0] ≠ [] ∧ [Fetched.mk 1 2 3 0].length ≤ min 64 (ringWaiting (hosted Fn.init [(2, ring6 1 0)]) 0 2) ∧
    (∀ d ∈ [Fetched.mk 1 2 3 0], cmdKnown d.cmd = true) ∧ (∀ q < 2, ringWaiting (hosted Fn.init [(2, ring6 1 0)]) 0 q = 0) ∧
    (partOf (hosted Fn.init [(2, ring6 1 0)]) 0).hold.length < 4096 ∧
    (journalOf (hosted Fn.init [(2, ring6 1 0)]) 0).queue.length ≤ 32768 ∧ relayTo (hosted Fn.init [(2, ring6 1 0)]) 0 = none := by decide +kernel

/-- Hypotheses of Doorbells met together, clause by clause. -/
theorem witness_Doorbells_2 :
    3 ≤ 3 ∧ ringWritable doorbellsAt2 0 3 = true ∧ 0 < (ringOf doorbellsAt2 0 3).unsig ∧
    (ringOf doorbellsAt2 0 3).unsigFrom + (ringOf doorbellsAt2 0 3).modTime * 1000 ≤ nowNs doorbellsAt2 ∧
    mailed.side.mainOn = true ∧ mailed.boot.st = BootSt.run ∧ BitVec.getLsbD (1 : BitVec 32) 0 = true ∧ fnLive mailed 0 = true ∧
    vfAbsent mailed 0 = false ∧ (0 = 0 ∨ (vfBind mailed 0).remote = false) ∧ (fnOf mailed 0).mbxBusy = false ∧
    mailed.pwr.sleep = SleepSt.awake ∧ (∀ (q : ℕ), fnPart mailed 0 = some q → (partOf mailed q).hold.length < 4096) ∧
    cmdKnown (mbxFetched (fnOf mailed 0)).cmd = true ∧ mailed.boot.st ≠ BootSt.recovery ∧ 2 ≠ 4 ∧
    (fnOf doorbellsAt3 0).paused = true ∧ (fnOf doorbellsAt3 0).pauseEnd ≤ nowNs doorbellsAt3 ∧ QueueOpen doorbellsAt3 ∧
    (∀ q ∈ drivenRings doorbellsAt3 0, (ringOf doorbellsAt3 q.1 q.2).latched = none) := by decide +kernel

/-- Hypotheses of HostAccess met together, clause by clause. -/
theorem witness_HostAccess_1 :
    loaded.side.mainOn = true ∧ writeSized 197121 4 = false ∧ (hosted Fn.init [(2, ring6 0 0)]).side.mainOn = true ∧
    regOrigin Origin.pf0 = true ∧ (loaded.boot.st = BootSt.recovery → Origin.pf0 = Origin.mgmt) ∧ loaded.boot.st = BootSt.run ∧
    (loaded.hif.front = false ∨ (routeOf loaded loaded.hif.relayMod).reachable = false) ∧ QueueOpen loaded := by decide +kernel

/-- Hypotheses of HostAccess met together, clause by clause. -/
theorem witness_HostAccess_2 :
    relayed.boot.st = BootSt.run ∧ relayed.hif.front = true ∧ (routeOf relayed relayed.hif.relayMod).reachable = true ∧ 2 ≤ 2 ∧
    (ringOf (hosted Fn.init [(2, ring6 1 0)]) 0 2).st ≠ RingSt.detached := by decide +kernel

/-- Hypotheses of PortLife met together, clause by clause. -/
theorem witness_PortLife_1 :
    (portOf portLifeAt1 0).st = PortSt.training ∧ portLifeAt1.pwr.sleep = SleepSt.awake ∧ peerOk portLifeAt1 0 1 9 = true ∧
    7 = portLifeAt1.lnk.groupId ∧ 1 = portLifeAt1.lnk.topo ∧ QueueOpen portLifeAt1 ∧
    (peerOk portLifeAt1 0 1 9 = false ∨ 8 ≠ portLifeAt1.lnk.groupId ∨ 1 ≠ portLifeAt1.lnk.topo) ∧
    portLive portLifeAt2 0 = true ∧ portLive portLifeAt3 0 = true ∧ 2 ∈ (portOf portLifeAt3 0).retry ∧
    (portOf portLifeAt3 0).burst.length < 64 ∧ 99999 < 1 * 100000 := by decide +kernel

/-- Hypotheses of PortLife met together, clause by clause. -/
theorem witness_PortLife_2 :
    (portOf portLifeAt5 0).lanesOk.testBit 7 = true ∧ (portOf portLifeAt5 0).st = PortSt.up ∧
    laneWidth ((portOf portLifeAt5 0).lanesOk - 2 ^ 7) ≠ 0 ∧
    ((portOf portLifeAt6 0).st = PortSt.up ∨ (portOf portLifeAt6 0).st = PortSt.sleep ∨ (portOf portLifeAt6 0).st =
      PortSt.training) ∧ (portOf (ported LnkPort.init) 0).st = PortSt.down ∧ (ported LnkPort.init).boot.applied = true ∧
    (ported LnkPort.init).side.mainOn = true ∧ (ported LnkPort.init).boot.st = BootSt.run ∧
    ((portOf portLifeAt2 0).st = PortSt.up ∨ (portOf portLifeAt2 0).st = PortSt.sleep) := by decide +kernel

/-- Hypotheses of PortLife met together, clause by clause. -/
theorem witness_PortLife_3 :
    (portOf portLifeAt7 0).stopRx = true := by decide +kernel

/-- Hypotheses of FlowsAndTime met together, clause by clause. -/
theorem witness_FlowsAndTime_1 :
    rx1 ∈ arriving.lnk.rx ∧ rx1.smod = 1 ∧ rx1.flow = 5 ∧ rx1.unacked ≠ 0 ∧ rx1.since + 5000 ≤ nowNs arriving ∧
    List.find? (fun f => f.flow == 5) (flowing (FlowOp.send 0 3) 3).lnk.tx = some (TxFlow.mk 5 1 3 1 (FlowOp.send 0 3)
      [TxPkt.mk 0 1 (some 0) 3 0]) ∧
    List.find? (fun k => k.pseq == 0) (TxFlow.mk 5 1 3 1 (FlowOp.send 0 3) [TxPkt.mk 0 1 (some 0) 3 0]).pkts = some
      (TxPkt.mk 0 1 (some 0) 3 0) ∧ (TxPkt.mk 0 1 (some 0) 3 0).sentAt = some 0 ∧
    0 + 100000 ≤ nowNs (flowing (FlowOp.send 0 3) 3) ∧ 3 ≤ (TxPkt.mk 0 1 (some 0) 3 0).tries ∧
    List.find? (fun f => f.flow == 5) (flowing (FlowOp.send 0 3) 2).lnk.tx = some (TxFlow.mk 5 1 3 1 (FlowOp.send 0 3)
      [TxPkt.mk 0 1 (some 0) 2 0]) ∧
    List.find? (fun k => k.pseq == 0) (TxFlow.mk 5 1 3 1 (FlowOp.send 0 3) [TxPkt.mk 0 1 (some 0) 2 0]).pkts = some
      (TxPkt.mk 0 1 (some 0) 2 0) ∧ (TxPkt.mk 0 1 (some 0) 2 0).sentAt = some 0 ∧
    0 + 100000 ≤ nowNs (flowing (FlowOp.send 0 3) 2) ∧ (TxPkt.mk 0 1 (some 0) 2 0).tries < 3 ∧
    List.find? (fun f => f.flow == 5) (flowing (FlowOp.send 0 3) 0).lnk.tx = some (TxFlow.mk 5 1 3 1 (FlowOp.send 0 3)
      [TxPkt.mk 0 1 (some 0) 0 0]) ∧ (TxFlow.mk 5 1 3 1 (FlowOp.send 0 3) [TxPkt.mk 0 1 (some 0) 0 0]).op = FlowOp.send 0 3 ∧
    Quench.cancelled ≠ Quench.refused ∧ 1 ≠ portLifeAt2.lnk.modNum ∧
    (routeNow portLifeAt2 (routeOf portLifeAt2 1)).reachable = true ∧ (routeOf portLifeAt2 1).reachable = false := by decide +kernel

/-- Hypotheses of FlowsAndTime met together, clause by clause. -/
theorem witness_FlowsAndTime_2 :
    3 ≠ relayed.lnk.modNum ∧ (routeOf relayed 3).reachable = true ∧
    (∃ f ∈ asleepFlow.lnk.tx, f.flow = 5 ∧ (∃ k ∈ f.pkts, k.sentAt = none) ∧ sleepHeld asleepFlow f.dst f.vc = true) ∧
    mastered.lnk.topo ≠ 0 ∧ mastered.side.gsyncLock = false ∧
    follows (State.mk mastered.tmb mastered.latches mastered.halves mastered.pwr mastered.tiles mastered.mem mastered.exps
      mastered.cmp mastered.parts mastered.slots mastered.hif mastered.log (have __src := mastered.lnk; Lnk.mk __src.modNum
      __src.topo __src.modules __src.groupId __src.master __src.masters __src.ports __src.routes __src.tx __src.nextFlow
      __src.rx __src.relays __src.transit (List.filter (fun h => h.1 != 1) mastered.lnk.hops ++ [(1, 1)])) mastered.ras
      mastered.boot mastered.sec mastered.side mastered.free mastered.out mastered.pending) 1 1 = true ∧
    canReach mastered mastered.lnk.master = false := by decide +kernel

/-- Hypotheses of PacketsAct met together, clause by clause. -/
theorem witness_PacketsAct_1 :
    (portOf (handing SlotSt.decode) ↑(pkt 1).port).st = PortSt.up ∧ (pkt 1).dmod = (handing SlotSt.decode).lnk.modNum ∧
    (pkt 1).dmod ∈ groupMods (handing SlotSt.decode) ∧ (pkt 1).data ≠ [] ∧
    ((pkt 1).data.length ≤ if ↑(pkt 1).vc = 0 then 212 else 3872) ∧ (pkt 1).crcOk = true ∧
    kindVc (PktBody.send false) ↑(pkt 1).vc = true ∧ (portOf (handing SlotSt.decode) ↑(pkt 0).port).st = PortSt.up ∧
    (pkt 0).dmod = (handing SlotSt.decode).lnk.modNum ∧ (pkt 0).dmod ∈ groupMods (handing SlotSt.decode) ∧ (pkt 0).data ≠ [] ∧
    ((pkt 0).data.length ≤ if ↑(pkt 0).vc = 0 then 212 else 3872) ∧ (pkt 0).crcOk = true ∧
    kindVc (PktBody.relay (RelayBody.access 0 8 none)) ↑(pkt 0).vc = true ∧
    (portOf (handing SlotSt.decode) ↑(pkt 3).port).st = PortSt.up ∧ (pkt 3).dmod = (handing SlotSt.decode).lnk.modNum ∧
    (pkt 3).dmod ∈ groupMods (handing SlotSt.decode) ∧ (pkt 3).data ≠ [] ∧
    ((pkt 3).data.length ≤ if ↑(pkt 3).vc = 0 then 212 else 3872) ∧ (pkt 3).crcOk = true ∧
    kindVc (PktBody.handoff 0 trk) ↑(pkt 3).vc = true ∧ kindVc (PktBody.page 0 77 PageMsg.ask) ↑(pkt 3).vc = true ∧
    kindVc (PktBody.weight none 77) ↑(pkt 3).vc = true := by decide +kernel

/-- Hypotheses of PacketsAct met together, clause by clause. -/
theorem witness_PacketsAct_2 :
    (portOf (handing SlotSt.decode) ↑(pkt 1).port).st = PortSt.up ∧ (pkt 1).dmod = (handing SlotSt.decode).lnk.modNum ∧
    (pkt 1).dmod ∈ groupMods (handing SlotSt.decode) ∧ (pkt 1).data ≠ [] ∧
    ((pkt 1).data.length ≤ if ↑(pkt 1).vc = 0 then 212 else 3872) ∧ (pkt 1).crcOk = true ∧
    (portOf (handing SlotSt.handoff) ↑(pkt 3).port).st = PortSt.up ∧ (pkt 3).dmod = (handing SlotSt.handoff).lnk.modNum ∧
    (pkt 3).dmod ∈ groupMods (handing SlotSt.handoff) ∧ (pkt 3).data ≠ [] ∧
    ((pkt 3).data.length ≤ if ↑(pkt 3).vc = 0 then 212 else 3872) ∧ (pkt 3).crcOk = true ∧
    (slotOf (handing SlotSt.handoff) 3).st = SlotSt.handoff ∧ Status.noResource ≠ Status.badState := by decide +kernel

/-- Hypotheses of FaultCounting met together, clause by clause. -/
theorem witness_FaultCounting_1 :
    chanU.kind = UKind.channel ∧ unitExists chanU = true ∧ 10000 < 10001 ∧ tileU.kind = UKind.tile ∧ unitExists tileU = true ∧
    1000 < 1001 ∧ isFenced loaded tileU = false ∧ (unitRec (unitIn tileU USt.suspect) tileU).st = USt.suspect ∧
    (unitRec (unitIn tileU USt.suspect) tileU).since + 600000000000 ≤ nowNs (unitIn tileU USt.suspect) ∧
    faultCountingAt1.side.mainOn = true ∧ faultCountingAt1.ras.listDirty = true := by decide +kernel

/-- Hypotheses of FaultCounting met together, clause by clause. -/
theorem witness_FaultCounting_2 :
    (unitIn tileU USt.fenced).side.mainOn = true ∧ (unitIn tileU USt.fenced).boot.st = BootSt.run ∧ tileU.kind ≠ UKind.port ∧
    isFenced (unitIn tileU USt.fenced) tileU = true ∧
    (∀ p ∈ dieUsers (unitIn tileU USt.fenced) tileU.die, quiescent (unitIn tileU USt.fenced) p = true) := by decide +kernel

/-- Hypotheses of TestsAndRepairs met together, clause by clause. -/
theorem witness_TestsAndRepairs_1 :
    testsAndRepairsAt1.boot.st = BootSt.run ∧ testsAndRepairsAt1.pwr.sleep = SleepSt.awake ∧
    (∀ r ∈ testsAndRepairsAt1.ras.units, r.st = USt.inService) ∧ testsAndRepairsAt1.ras.test.isSome = true ∧
    testsAndRepairsAt1.ras.nextTile ∉ testsAndRepairsAt1.ras.scheduled ∧ 1023 ∈ testsAndRepairsAt2.ras.scheduled ∧
    1023 ∉ testsAndRepairsAt2.ras.overdue ∧ testsAndRepairsAt2.pwr.sleep = SleepSt.awake ∧ QueueOpen testsAndRepairsAt2 ∧
    (partOf testsAndRepairsAt3 0).valid = true ∧ testsAndRepairsAt3.pwr.sleep = SleepSt.awake ∧
    partOfTile testsAndRepairsAt3 63 = some 0 ∧ testsAndRepairsAt3.ras.test = none ∧
    (63 ∈ testsAndRepairsAt3.ras.scheduled ∨ unitSt testsAndRepairsAt3 (tileUnit 63) = USt.suspect) ∧
    isFenced testsAndRepairsAt3 (tileUnit 63) = false ∧ gapFits testsAndRepairsAt3 0 = true ∧
    testsAndRepairsAt4.ras.test = some (tileUnit 63) ∧ unitSt testsAndRepairsAt4 (tileUnit 63) = USt.inService ∧
    unitSt testsAndRepairsAt4 (expUnit (63 / 64) (63 % 4)) = USt.inService ∧
    (∀ r < 32, unitSt testsAndRepairsAt4 (rowUnit 63 r) = USt.inService) ∧
    ((UnitId.mk UKind.soInst 16 0).kind = UKind.core ∨ (UnitId.mk UKind.soInst 16 0).kind = UKind.soInst) := by decide +kernel

/-- Hypotheses of TestsAndRepairs met together, clause by clause. -/
theorem witness_TestsAndRepairs_2 :
    UnitId.mk UKind.core 16 0 ∈ testsAndRepairsAt5.ras.rebal ∧ (UnitId.mk UKind.core 16 0).kind ≠ UKind.tile ∧
    (UnitId.mk UKind.core 16 0).kind ≠ UKind.scoreRow ∧
    List.find? (fun r => r.block == 5 && r.source == 2) testsAndRepairsAt6.ras.repairs = some (Repair.mk 5 2 0 none) ∧
    Option.filter (copyGood testsAndRepairsAt6 5) (copyFrom testsAndRepairsAt6 5 2 (some (255, List.replicate 2048 7))) =
      some (255, List.replicate 2048 7) ∧ linkFenced loaded 15 0 = false := by decide +kernel

/-- Hypotheses of BootSteps met together, clause by clause. -/
theorem witness_BootSteps_1 :
    bootStepsAt1.side.mainOn = true ∧ bootStepsAt1.boot.st = BootSt.rom ∧ bootStepsAt1.boot.presented = false ∧
    chooseSlot (selOr bootStepsAt1.boot.flash) = some 0 ∧ bootStepsAt2.side.mainOn = true ∧ bootStepsAt2.boot.st = BootSt.rom ∧
    bootStepsAt2.boot.presented = false ∧ chooseSlot (selOr bootStepsAt2.boot.flash) = none ∧ bootStepsAt3.side.mainOn = true ∧
    bootStepsAt3.boot.st = BootSt.rom ∧ bootStepsAt3.boot.presented = true ∧
    slotImg bootStepsAt3 bootStepsAt3.boot.slot = some image1 ∧ bootStepsAt4.side.mainOn = true ∧
    bootStepsAt4.boot.st = BootSt.config ∧ bootStepsAt4.boot.applied = false ∧ bootStepsAt4.boot.conf = some image1 ∧
    bootStepsAt5.side.mainOn = true ∧ bootStepsAt5.boot.st = BootSt.config ∧ bootStepsAt5.boot.applied = true := by decide +kernel

/-- Hypotheses of BootSteps met together, clause by clause. -/
theorem witness_BootSteps_2 :
    bootStepsAt6.side.mainOn = true ∧ bootStepsAt6.boot.st = BootSt.config ∧ bootStepsAt6.boot.applied = true ∧
    bootStepsAt6.boot.tried = true ∧ bootStepsAt7.side.mainOn = true ∧ canReboot bootStepsAt7 = true := by decide +kernel

/-- Hypotheses of ImagesAndActivation met together, clause by clause. -/
theorem witness_ImagesAndActivation_1 :
    loaded.side.mainOn = true ∧ regOrigin Origin.mgmt = true ∧ imagesAndActivationAt1.side.mainOn = true ∧
    imagesAndActivationAt1.boot.imgSt ≠ 1 ∧ activating imagesAndActivationAt1 = false ∧
    polLen (fitTo imagesAndActivationAt1.boot.imgLen image1) = imagesAndActivationAt1.boot.imgLen ∧
    imagesAndActivationAt2.boot.writing = some image1 ∧ regOrigin Origin.pf0 = true ∧
    (activation ActSt.idle true).side.mainOn = true ∧ (activation ActSt.idle true).boot.imgSt ≠ 1 ∧
    activating (activation ActSt.idle true) = false ∧ (activation ActSt.idle true).pwr.sleep = SleepSt.awake ∧
    (activation ActSt.idle true).boot.st = BootSt.run ∧ trialSlot (activation ActSt.idle true) = some 0 ∧
    slotImg (activation ActSt.idle true) 0 = some image1 := by decide +kernel

/-- Hypotheses of ImagesAndActivation met together, clause by clause. -/
theorem witness_ImagesAndActivation_2 :
    (activation ActSt.load true).boot.actSt = ActSt.load ∧ (activation ActSt.switch true).boot.actSt = ActSt.switch ∧
    (activation ActSt.switch true).ras.rebal = [] ∧ (activation ActSt.switch true).ras.repairs = [] ∧
    0 ∉ (activation ActSt.switch true).boot.switched ∧ 35 ≠ 0 ∧ 35 ∉ (activation ActSt.switch true).boot.switched ∧
    isFenced (activation ActSt.switch true) (switchUnit 35) = false ∧
    (later (activation ActSt.config true) 10000000000).boot.actSt = ActSt.config ∧
    trialSlot (later (activation ActSt.config true) 10000000000) = some 0 ∧
    (later (activation ActSt.config true) 10000000000).boot.switchAt + 10000000000 ≤ nowNs (later (activation ActSt.config
      true) 10000000000) := by decide +kernel

/-- Hypotheses of FusesAndLock met together, clause by clause. -/
theorem witness_FusesAndLock_1 :
    (activation ActSt.idle false).side.mainOn = true ∧ secBusy (activation ActSt.idle false) = false ∧
    (activation ActSt.idle false).boot.st = BootSt.run ∧ activeImg (activation ActSt.idle false) = some image1 ∧
    ctrOf (activation ActSt.idle false) (polCtr image1) < polSvn image1 ∧ 6 < polKey image1 ∧
    (activation ActSt.idle false).sec.revoked.testBit 6 = false ∧ (fusing (FuseOp.commit 63 63)).side.mainOn = true ∧
    (fusing (FuseOp.commit 63 63)).sec.fuse = some (FuseOp.commit 63 63) ∧ (fusing (FuseOp.revoke 7)).side.mainOn = true ∧
    (fusing (FuseOp.revoke 7)).sec.fuse = some (FuseOp.revoke 7) ∧ loaded.side.mainOn = true ∧ QueueOpen loaded := by decide +kernel

/-- Hypotheses of FusesAndLock met together, clause by clause. -/
theorem witness_FusesAndLock_2 :
    loaded.side.mainOn = true ∧ QueueOpen loaded ∧ loaded.sec.debugLock = true ∧ 1 < 2 ∧ loaded.sec.lastDebug = none ∧ 1 ≤ 1 := by decide +kernel

/-- Hypotheses of SpdmAnswers met together, clause by clause. -/
theorem witness_SpdmAnswers_1 :
    (spoken 0).side.standby = true ∧ (spoken 0).side.mainOn = true ∧ (spoken 0).boot.st = BootSt.run ∧
    (spoken 1).side.standby = true ∧ (spoken 1).side.mainOn = true ∧ (spoken 1).boot.st = BootSt.run ∧
    1 ≤ (connOf (spoken 1) Transport.mctp).stage ∧ (spoken 2).side.standby = true ∧ (spoken 2).side.mainOn = true ∧
    (spoken 2).boot.st = BootSt.run ∧ 2 ≤ (connOf (spoken 2) Transport.mctp).stage ∧ (spoken 3).side.standby = true ∧
    (spoken 3).side.mainOn = true ∧ (spoken 3).boot.st = BootSt.run ∧ 3 ≤ (connOf (spoken 3) Transport.doe).stage ∧
    (spoken 3).sec.rngOk = true := by decide +kernel

/-- Hypotheses of SpdmAnswers met together, clause by clause. -/
theorem witness_SpdmAnswers_2 :
    (spoken 0).side.standby = true ∧ (spoken 0).side.mainOn = true ∧ (spoken 0).boot.st = BootSt.run ∧ QueueOpen (spoken 0) := by decide +kernel

/-- Hypotheses of PowerTicks met together, clause by clause. -/
theorem witness_PowerTicks :
    die0.side.mainOn = true ∧ sensing.side.mainOn = true ∧ (tempOf sensing 1023).sensorBad = false ∧
    (tempOf sensing 1023).offFrom = some 0 ∧ 0 + 10000000000 ≤ nowNs sensing ∧ QueueOpen sensing := by decide +kernel

/-- Hypotheses of TripsAndThrottle met together, clause by clause. -/
theorem witness_TripsAndThrottle_1 :
    loaded.side.mainOn = true ∧ 0 ≠ 16 ∧ loaded.side.standby = true ∧ loaded.side.thrPin = false ∧ loaded.side.held = false ∧
    loaded.side.edges = [] ∧ tripsAndThrottleAt1.side.mainOn = true ∧ tripsAndThrottleAt1.side.standby = true ∧
    tripsAndThrottleAt1.side.thrPin = true ∧ tripsAndThrottleAt1.side.held = false ∧ tripsAndThrottleAt1.side.edges = [] ∧
    tripsAndThrottleAt2.side.mainOn = true ∧ tripsAndThrottleAt2.side.held = true ∧
    tripsAndThrottleAt2.side.lastEdge + tripsAndThrottleAt2.side.holdMs * 1000000 ≤ nowNs tripsAndThrottleAt2 := by decide +kernel

/-- Hypotheses of TripsAndThrottle met together, clause by clause. -/
theorem witness_TripsAndThrottle_2 :
    tripsAndThrottleAt3.side.mainOn = true ∧ tripsAndThrottleAt3.side.throttle = true ∧ tripsAndThrottleAt3.side.stuck = false ∧
    tripsAndThrottleAt3.side.thrAt + tripsAndThrottleAt3.side.stuckS * 1000000000 < nowNs tripsAndThrottleAt3 ∧
    QueueOpen tripsAndThrottleAt3 ∧ loaded.side.mainOn = true ∧ (60001 < 40000 ∨ 60000 < 60001) ∧ loaded.pwr.supply = 0 ∧
    tripsAndThrottleAt4.side.mainOn = true ∧ tripsAndThrottleAt4.pwr.supply ≠ 0 ∧ 41000 ≤ 59000 ∧ 59000 ≤ 59000 ∧
    QueueOpen tripsAndThrottleAt4 := by decide +kernel

/-- Hypotheses of SleepAndPower met together, clause by clause. -/
theorem witness_SleepAndPower_1 :
    loaded.side.mainOn = true ∧ loaded.boot.st ≠ BootSt.recovery ∧ loaded.pwr.sleep = SleepSt.awake ∧ canSleep loaded = true ∧
    (slotted (slot3 SlotSt.decode) true).side.mainOn = true ∧ (slotted (slot3 SlotSt.decode) true).boot.st ≠ BootSt.recovery ∧
    (slotted (slot3 SlotSt.decode) true).pwr.sleep = SleepSt.awake ∧ canSleep (slotted (slot3 SlotSt.decode) true) = false ∧
    sleepAndPowerAt1.pwr.sleep = SleepSt.entering ∧ sleepAndPowerAt1.pwr.wakePend = none ∧ sleepAndPowerAt2.side.mainOn = true ∧
    sleepAndPowerAt2.boot.st ≠ BootSt.recovery ∧ sleepAndPowerAt2.pwr.sleep = SleepSt.asleep ∧
    sleepAndPowerAt3.pwr.sleep = SleepSt.waking ∧ sleepAndPowerAt3.pwr.parked = [] ∧
    (∀ p < 8, (partOf sleepAndPowerAt3 p).staged = []) := by decide +kernel

/-- Hypotheses of SleepAndPower met together, clause by clause. -/
theorem witness_SleepAndPower_2 :
    sleepAndPowerAt2.pwr.sleep = SleepSt.asleep ∧ sleepAndPowerAt4.side.standby = true ∧ sleepAndPowerAt4.side.mainOn = false := by decide +kernel

/-- Hypotheses of SidePins met together, clause by clause. -/
theorem witness_SidePins_1 :
    loaded.side.mainOn = true ∧ glitchCount SideInput.pwrEn = some 1 ∧ sidePinsAt1.side.mainOn = true ∧
    sidePinsAt1.side.perst = true ∧ sidePinsAt1.side.perstStuck = false ∧
    sidePinsAt1.side.perstAt + 10000000000 < nowNs sidePinsAt1 ∧ QueueOpen sidePinsAt1 ∧ (-5001 < -5000 ∨ 5000 < -5001) ∧
    -5000 ≤ -5000 ∧ -5000 ≤ 5000 ∧ loaded.side.gsyncLock = false ∧ loaded.side.gsyncRun + 1 < 1000 := by decide +kernel

/-- Hypotheses of SidePins met together, clause by clause. -/
theorem witness_SidePins_2 :
    loaded.side.mainOn = true ∧ loaded.side.gsyncLock = false ∧ loaded.side.sampled = false ∧ sidePinsAt2.side.mainOn = true ∧
    sidePinsAt2.side.sampled = true ∧ QueueOpen sidePinsAt2 := by decide +kernel

/-- Hypotheses of ManagementPort met together, clause by clause. -/
theorem witness_ManagementPort_1 :
    loaded.side.mainOn = true ∧ mgmtReads 131072 = true ∧ mgmtReads 196608 = false ∧ QueueOpen loaded ∧
    loaded.boot.st ≠ BootSt.recovery ∧ 4 ∉ [65568, 40, 48, 64, 655376, 655384, 720904, 786440] := by decide +kernel

/-- Hypotheses of ManagementPort met together, clause by clause. -/
theorem witness_ManagementPort_2 :
    loaded.side.mainOn = true ∧ (¬(loaded.boot.imgSt = 1 ∧ loaded.boot.byMgmt = true)) ∧ [1, 2] ≠ [] ∧ [1, 2].length ≤ 240 ∧
    24 * 2 ^ 20 - 2 + [1, 2].length ≤ 24 * 2 ^ 20 ∧ 159 ≠ 1 ∧
    (BitVec.toNat (159 : Byte) < 160 ∨ 162 < BitVec.toNat (159 : Byte)) := by decide +kernel

/-- A machine with power on and one command waiting. -/
def waiting (c : Instr) : State := { loaded with pending := [c, .timeWord] }
/-- The state after one step, itself where there is none. -/
def after (s : State) : State := match step s with
  | .next t => t
  | _ => s

/-- Hypotheses of StepRunsCommand: a command in front of another, and an empty queue. -/
theorem witness_StepRunsCommand : (waiting .vfEnableClear).pending = .vfEnableClear :: [.timeWord] ∧ State.reset.pending = [] := by
  decide +kernel

/-- Hypotheses of QueueOnlyShrinks, MemoryStaysCanonical and FusesOnlyBurn: a step from a canonical state with no burn in
progress answers. -/
theorem witness_steps : (∃ t, step (waiting .timeWord) = .next t) ∧ Safe (waiting .timeWord) ∧
    (waiting .timeWord).sec.fuse = none := ⟨⟨_, rfl⟩, by decide +kernel, by decide +kernel⟩

/-- A burn in progress that raises its counter meets FusesOnlyBurn's premise. -/
theorem witness_FusesOnlyBurn : (fusing (.commit 0 1)).sec.fuse = some (.commit 0 1) ∧ ctrOf (fusing (.commit 0 1)) 0 < 1 := by
  decide +kernel

/-- Hypotheses of FoldMirrors at both ends of the codes, and of TableEntriesFit and LookupIsDotProduct at both ends of INT8. -/
theorem witness_trits : (0 ≤ 242 ∧ 242 ≤ 242) ∧ ([-128, 127, -128, 127, 0] : List Int).length = 5 ∧
    (∀ x ∈ ([-128, 127, -128, 127, 0] : List Int), -128 ≤ x ∧ x ≤ 127) ∧
    ([-1, 1, -1, 1, 0] : List Int).length = 5 ∧ (∀ y ∈ ([-1, 1, -1, 1, 0] : List Int), -1 ≤ y ∧ y ≤ 1) := by decide +kernel

/-- Hypotheses of TimeReads: PF0 sees the timebase, VF 1 does not, and no one sees it in RECOVERY. -/
theorem witness_TimeReads : loaded.side.mainOn = true ∧ timeShown loaded .pf0 = true ∧ timeShown loaded (.vf 1) = false ∧
    timeShown { loaded with boot := { loaded.boot with st := .recovery } } .pf0 = false := by decide +kernel

/-- Hypotheses of MemoryReadsBack: class A memory has no length table, so the top of the region is plain. -/
theorem witness_MemoryReadsBack : regionAt (onMem (tile0 [])) (2 ^ 30 - 1) = some 0 ∧
    inLenTable (regionOf (onMem (tile0 [])) 0) (2 ^ 30 - 1) = false ∧ regionAt State.reset 0 = none := by decide +kernel

/-- Hypotheses of TileIssueFrame: WIN.OPEN issues on its tile and answers. -/
theorem witness_TileIssueFrame : issuesOn (.winOpen 5 ⟨7, .imm 0, .imm 1, 1, 1⟩) = some 5 ∧
    ∃ u, exec (.winOpen 5 ⟨7, .imm 0, .imm 1, 1, 1⟩) idle0 = .next u := ⟨rfl, _, rfl⟩

/-- Hypotheses of QuietFrame: RING_PAUSE is quiet and answers. -/
theorem witness_QuietFrame : quiet (.ringPause x0 2) = true ∧ ∃ u, exec (.ringPause x0 2) loaded = .next u := ⟨rfl, _, rfl⟩

/-! ### Well-formedness: a term that each check refuses -/

/-- An operand of 17 bits in a 16-bit field. -/
theorem test_wf_operand : Instr.wf (.tbuild 0 rs0 ⟨.imm 65536, .imm 1, .imm 1, 0, 0⟩) = false := by decide +kernel
/-- A format code of 4 bits. -/
theorem test_wf_format : Instr.wf (.tbuild 0 rs0 ⟨.imm 0, .imm 1, .imm 1, 8, 0⟩) = false := by decide +kernel
/-- Eight declared ranges (Table 9-3). -/
theorem test_wf_ranges : Instr.wf (.syncEnd 0 ⟨List.replicate 8 ⟨.imm 0, .imm 0, false⟩, none⟩) = true ∧
    Instr.wf (.vecOp 0 ⟨List.replicate 8 ⟨.imm 0, .imm 0, false⟩, none⟩ (vecA 1 0)) = false := by decide +kernel
/-- An accumulation mode, an output format and a function outside their fields. -/
theorem test_wf_fields : Instr.wf (.tlook 0 rs0 ⟨.imm 0, .imm 1, .imm 0, 4, 0, false, 0, .imm 1, 1⟩) = false ∧
    Instr.wf (.drain 0 rs0 ⟨.imm 0, .imm 1, 1, 16, 0, .imm 0, none, .imm 0, 0, false⟩ .clean) = false ∧
    Instr.wf (.vecOp 0 rs0 ⟨.imm 0, .imm 0, .imm 0, .imm 1, 1, 64, 0, 0, 0⟩) = false := by decide +kernel
/-- A flit's sequence number of 11 bits (Table 18-2). -/
theorem test_wf_flit : Instr.wf (.flitReceive 0 ⟨0, false, false, true, 0, 1024, 0, 0, false, 0, [], .unknown⟩) = false := by decide +kernel
/-- A packet to module 64 (Table 18-4). -/
theorem test_wf_packet : Instr.wf (.sendPacketReceive { pkt 1 with dmod := 64 } false) = false := by decide +kernel
/-- A descriptor's tag of 65 bits (Table 17-1). -/
theorem test_wf_source : Instr.wf (.cancel { x0 with tag := 2 ^ 64 }) = false := by decide +kernel
/-- A register write of 9 bytes, a management access above 32 bits, an empty block of image data, one sample of the pins. -/
theorem test_wf_sizes : Instr.wf (.registerWrite .pf0 0 0 9 0) = false ∧ Instr.wf (.mgmtRead (2 ^ 32)) = false ∧
    Instr.wf (.mgmtImageData 0 []) = false ∧ Instr.wf (.modidSample [0] []) = false := by decide +kernel
/-- A well-formed command of each of these kinds. -/
theorem test_wf_good : Instr.wf (.tbuild 0 rs1 ⟨.imm 65535, .imm 32, .imm 64, 3, 1⟩) = true ∧ Instr.wf (.cancel x0) = true ∧
    Instr.wf (.sendPacketReceive (pkt 1) false) = true ∧ Instr.wf (.mgmtRead 0x20000) = true := by decide +kernel

/-- The table gives its rows no bits: no word spells a command, and the queue stays as it was. -/
theorem test_no_table_words : decodeTableWord 32 7 = none ∧ State.reset.withFetchWord 32 7 = State.reset := ⟨rfl, rfl⟩

/-! ### Instruction words (chapter 9) -/

/-- The worked TLOOK of chapter 9, its bytes in memory as listed there. -/
theorem test_worked_tlook : tileWord 0 ⟨[], none⟩ (leNat [0x20, 0xFF, 3, 0, 2, 0, 0xF0, 0, 0, 0x0D, 0x20, 0x40, 0, 0, 0, 0]) =
    some (.tlook 0 ⟨[], none⟩ ⟨.imm 2, .imm 240, .imm 0, 1, 1, true, 0, .imm 32, 64⟩) := by decide +kernel
/-- Hypotheses of InstructionWords: a word that spells an instruction, an index past an image's end, an index in it whose word
declares no range. -/
theorem witness_InstructionWords : tileWord 0 ⟨[], none⟩ 0x3FFA2 = some (.syncEnd 0 ⟨[], none⟩) ∧ imgCount image0 ≤ 1 ∧
    0 < imgCount image0 ∧ imgWord image0 0 / 256 % 1024 = 0x3FF := by decide +kernel
/-- A word of STAGE.LOOP TARGET 40, CNTR r1, STEPR r0, STRIDE 24, by Tables 9-1, 9-2 and 9-14. -/
theorem test_word_loop : tileWord 0 ⟨[], none⟩ (0xC1 + 0x3FF * 2 ^ 8 + 40 * 2 ^ 32 + 1 * 2 ^ 46 + 0 * 2 ^ 54 + 24 * 2 ^ 62) =
    some (.stageLoop 0 40 1 0 24) := by decide +kernel
/-- STAGE.LOAD SECOFF [r0], N 24, FIRST r64: F0 indirect, N less one in NM1. -/
theorem test_word_load : tileWord 0 ⟨[], none⟩ (0xC0 + 0x3FF * 2 ^ 8 + 1 * 2 ^ 18 + 0 * 2 ^ 32 + 23 * 2 ^ 44 + 64 * 2 ^ 52) =
    some (.stageLoad 0 (.reg 0) 23 64) := by decide +kernel
/-- SYNC.BAR BLOCKS TLA+VEC, BAR 3. -/
theorem test_word_bar : tileWord 0 ⟨[], none⟩ (0xA1 + 0x3FF * 2 ^ 8 + 5 * 2 ^ 32 + 3 * 2 ^ 40) = some (.syncBar 0 ⟨[], none⟩ 5 3) := by
  decide +kernel
/-- VEC.OP CVT of 16 elements in 64 columns from granule 7 to granule 9, INT32 to BF16 (Table 9-9). -/
theorem test_word_vec : tileWord 0 ⟨[], none⟩ (0x70 + 0x3FF * 2 ^ 8 + 7 * 2 ^ 32 + 9 * 2 ^ 64 + 16 * 2 ^ 80 + 64 * 2 ^ 96 + 8 * 2 ^ 104 +
      5 * 2 ^ 112 + 3 * 2 ^ 116) = some (.vecOp 0 ⟨[], none⟩ ⟨.imm 7, .imm 0, .imm 9, .imm 16, 64, 8, 5, 3, 0⟩) := by decide +kernel
/-- A reserved bit of the header, an opcode the table does not list, a class bit SYNC.END does not have: no instruction. -/
theorem test_word_reserved : tileWord 0 ⟨[], none⟩ (0xA2 + 0x3FF * 2 ^ 8 + 2 ^ 22) = none ∧
    tileWord 0 ⟨[], none⟩ (0xA3 + 0x3FF * 2 ^ 8) = none ∧ tileWord 0 ⟨[], none⟩ (0xA2 + 0x3FF * 2 ^ 8 + 2 ^ 127) = none := by
  decide +kernel
/-- WIN.OPEN of window 3, 64 granules from 512, from the neighbours N and W, both ways (Table 9-13). -/
theorem test_word_win : tileWord 0 ⟨[], none⟩ (0xB0 + 0x3FF * 2 ^ 8 + 3 * 2 ^ 32 + 512 * 2 ^ 35 + 64 * 2 ^ 51 + 9 * 2 ^ 66 + 3 * 2 ^ 71) =
    some (.winOpen 0 ⟨3, .imm 512, .imm 64, 9, 3⟩) := by decide +kernel

/-! ### Values the spec works out -/

/-- Chapter 3's worked example: code 167 is (+1, 0, −1, −1, +1). -/
theorem test_code_167 : (List.range 5).map (tritOf 167) = [1, 0, -1, -1, 1] := by decide +kernel
/-- Chapter 3's worked example: its lookup against (12, −7, 30, 5, −100) is −123. -/
theorem test_lookup_167 : lookupInt (cellInt [12, -7, 30, 5, -100]) 167 = -123 := by decide +kernel
/-- Chapter 3's worked example: the negated code 75 has the opposite trits. -/
theorem test_code_75 : (List.range 5).map (tritOf 75) = [-1, 0, 1, 1, -1] := by decide +kernel
/-- R56: a disturbed code above 242 reads as five zeros. -/
theorem test_code_243 : cleanCode 243 = 121 ∧ cleanCode 242 = 242 := by decide +kernel
/-- Chapter 5's worked example: LV[37] = 1,334 and LT[154] = 174. -/
theorem test_logs : aeLv 37 = 1334 ∧ aeLt 154 = 174 := by decide +kernel
/-- Chapter 5's worked example: SV = 0.0125 has ls = −1,618. -/
theorem test_log_scale : logScale 0x3C4CCCCD = some (-1618) := by decide +kernel
/-- Chapter 16's worked example: of C = 0xFFFFFF00 and P = 0xFFFFFF40, DB = 0x200 is valid on 1,024 entries. -/
theorem test_doorbell_wrap : doorbellOk { ring6 0xFFFFFF40 0xFFFFFF00 with log2 := 10 } 2 0x200 = true ∧
    doorbellOk { ring6 0xFFFFFF40 0xFFFFFF00 with log2 := 9 } 2 0x200 = false := by decide +kernel
/-- Chapter 8's worked example: TILE_TS_WIN 2 of tile 619. -/
theorem test_window_register :
    (readReg { State.reset with tiles := [(619, { Tile.init with wins := [(2, ⟨0x8000, 960, true, 5, 1, 960, 0, false, false, []⟩)] })] }
      .pf0 (0x1000000 + 619 * 0x4000 + 0x150) 8).2 =
      0x8000 + 960 * 2 ^ 16 + 2 ^ 31 + 5 * 2 ^ 32 + 2 ^ 37 + 960 * 2 ^ 40 := by decide +kernel
/-- Chapter 24's worked example: offset 0x01638140 is TILE_TS_WIN 0 of tile 398. -/
theorem test_tile_offset :
    (readReg { State.reset with tiles := [(398, { Tile.init with wins := [(0, ⟨1, 1, true, 0, 0, 0, 0, false, false, []⟩)] })] }
      .pf0 0x01638140 8).2 = 1 + 2 ^ 16 + 2 ^ 31 := by decide +kernel
/-- Chapter 24's worked example: SRV_PART 2's COLBUDGET is at 0x50158, bits [9:0]. -/
theorem test_colbudget_place : (fldPos (.colBudget 2)).off = 0x50158 ∧ (fldPos (.colBudget 2)).lo = 0 ∧ (fldPos (.colBudget 2)).w = 10 := by decide +kernel
/-- R31: turns of a window to Mturn/s: 1,874 turns in 1,024 ns. -/
theorem test_pace : toPace 1874 = 1830 ∧ toPace 1915 = 1870 ∧ toPace 1956 = 1910 := by decide +kernel
/-- FP32: 1 + 2, 1.5 × 1.5 and 1 / 3, by the format's own rules. -/
theorem test_fp : fpAdd 0x3F800000 0x40000000 = 0x40400000 ∧ fpMul 0x3FC00000 0x3FC00000 = 0x40100000 ∧
    fpDiv 0x3F800000 0x40400000 = 0x3EAAAAAB := by decide +kernel
/-- The check value of CRC-32 over the digits 1 to 9. -/
theorem test_crc32 : crc32 [0x31, 0x32, 0x33, 0x34, 0x35, 0x36, 0x37, 0x38, 0x39] = 0xCBF43926 := by decide +kernel
/-- SHA-256 of "abc" begins with BA7816BF. -/
theorem test_sha256 : (sha256 [0x61, 0x62, 0x63]).take 4 = [0xBA, 0x78, 0x16, 0xBF] := by decide +kernel
/-- The quarter round of RFC 8439. -/
theorem test_quarter : chaQuarter 0 1 2 3 [0x11111111, 0x01020304, 0x9B8D6F43, 0x01234567] =
    [0xEA2A92F4, 0xCB1CF8CE, 0x4581472E, 0x5881C4BB] := by decide +kernel

/-! ### One step -/

/-- A time word passes 1,024 ns with a rate of zero, and the command leaves the queue. -/
theorem test_time_word : (after (waiting .timeWord)).tmb.now = 1024 ∧ (after (waiting .timeWord)).pending = [.timeWord] := by
  decide +kernel
/-- A step on an empty queue idles. -/
theorem test_idle : step State.reset = .next State.reset := rfl

end Sys2Proof.Tests
end

section
/-! PROOFS. Every step answers a next state (O52): each meaning ends in `.next` on each of its branches. -/

namespace Sys2Proof.Machine

/-- The outcome is a next state: neither a fault nor a refusal. -/
def Answers (r : Res) : Prop := ∃ t, r = .next t

theorem Answers.next {s : State} : Answers (.next s) := ⟨s, rfl⟩

/-- A choice answers when both of its ways do. -/
theorem Answers.ite {c : Prop} {d : Decidable c} {a b : Res} (h : Answers a) (k : Answers b) :
    Answers (if c then a else b) := by
  split
  · exact h
  · exact k

/-! The commands that branch on data, by the branches of their meaning. `exec_answers` below reads off the commands that
branch on conditions only, where `.ite` and `.next` follow the branches by themselves. -/

/-! ### Fuses and SPDM (Machine/Sec.lean) -/

theorem execFuseBlowDone_answers (good blown s) : Answers (execFuseBlowDone good blown s) := by
  fun_cases execFuseBlowDone good blown s <;> exact .next

theorem execDoeAbort_answers (t s) : Answers (execDoeAbort t s) := by
  fun_cases execDoeAbort t s <;> exact .next

/-! ### Boot, images and activation (Machine/Boot.lean) -/

theorem execBootRomStart_answers (fast s) : Answers (execBootRomStart fast s) := by
  fun_cases execBootRomStart fast s <;> exact .next

theorem execImageVerified_answers (s) : Answers (execImageVerified s) := by
  fun_cases execImageVerified s <;> exact .next

theorem execStacksTrained_answers (failed s) : Answers (execStacksTrained failed s) := by
  fun_cases execStacksTrained failed s <;> exact .next

theorem execImageWriteDone_answers (readBack s) : Answers (execImageWriteDone readBack s) := by
  fun_cases execImageWriteDone readBack s <;> exact .next

theorem execCoreBankSwitch_answers (c s) : Answers (execCoreBankSwitch c s) := by
  fun_cases execCoreBankSwitch c s <;> exact .next

theorem execActivationConfirm_answers (s) : Answers (execActivationConfirm s) := by
  fun_cases execActivationConfirm s <;> exact .next

theorem execReboot_answers (o s) : Answers (execReboot o s) := by
  fun_cases execReboot o s <;> exact .next

/-! ### Links and flows (Machine/Ports.lean) -/

theorem execResendTimer_answers (flow pseq s) : Answers (execResendTimer flow pseq s) := by
  fun_cases execResendTimer flow pseq s <;> exact .next

theorem execQuenchReceive_answers (flow why s) : Answers (execQuenchReceive flow why s) := by
  fun_cases execQuenchReceive flow why s <;> exact .next

theorem execPortDown_answers (p s) : Answers (execPortDown p s) := by
  fun_cases execPortDown p s <;> exact .next

theorem execLnkRetrainWrite_answers (o p s) : Answers (execLnkRetrainWrite o p s) := by
  fun_cases execLnkRetrainWrite o p s <;> exact .next

/-! ### Fault handling and field tests (Machine/Faults.lean) -/

theorem execCountAgeOut_answers (u s) : Answers (execCountAgeOut u s) := by
  fun_cases execCountAgeOut u s
  exact .next

theorem execCeRateHour_answers (u count s) : Answers (execCeRateHour u count s) := by
  fun_cases execCeRateHour u count s <;> exact .next

theorem execRasUnfenceGo_answers (o u s) : Answers (execRasUnfenceGo o u s) := by
  fun_cases execRasUnfenceGo o u s <;> exact .next

theorem execFtRotation_answers (s) : Answers (execFtRotation s) := by
  fun_cases execFtRotation s <;> exact .next

theorem execCoreTestDone_answers (u pass s) : Answers (execCoreTestDone u pass s) := by
  fun_cases execCoreTestDone u pass s <;> exact .next

/-! ### The trit lookup array (Machine/Tla.lean) -/

theorem execTbuildComplete_answers (t s err) : Answers (execTbuildComplete t s err) := by
  fun_cases execTbuildComplete t s err <;> exact .next

theorem execTlookRowEntry_answers (t err s st) : Answers (execTlookRowEntry t err s st) := by
  fun_cases execTlookRowEntry t err s st <;> exact .next

theorem execTlookRetire_answers (t s) : Answers (execTlookRetire t s) := by
  fun_cases execTlookRetire t s <;> exact .next

theorem execDrainRetire_answers (t s se) : Answers (execDrainRetire t s se) := by
  fun_cases execDrainRetire t s se <;> exact .next

theorem execTlookFeedTimeout_answers (t s) : Answers (execTlookFeedTimeout t s) := by
  fun_cases execTlookFeedTimeout t s <;> exact .next

/-! ### The attention engine (Machine/Ae.lean) -/

theorem execKeyJoin_answers (t tag parity s err) : Answers (execKeyJoin t tag parity s err) := by
  fun_cases execKeyJoin t tag parity s err <;> exact .next

theorem execAttnQkRetire_answers (t tag s) : Answers (execAttnQkRetire t tag s) := by
  fun_cases execAttnQkRetire t tag s <;> exact .next

theorem execAttnSoftRetire_answers (t tag s parity err) : Answers (execAttnSoftRetire t tag s parity err) := by
  fun_cases execAttnSoftRetire t tag s parity err <;> exact .next

theorem execAttnPvRetire_answers (t tag parity s err) : Answers (execAttnPvRetire t tag parity s err) := by
  fun_cases execAttnPvRetire t tag parity s err <;> exact .next

theorem execAeFeedTimeout_answers (t tag s) : Answers (execAeFeedTimeout t tag s) := by
  fun_cases execAeFeedTimeout t tag s <;> exact .next

/-! ### The vector unit (Machine/Vec.lean) -/

theorem execVecRetire_answers (t parity s err) : Answers (execVecRetire t parity s err) := by
  fun_cases execVecRetire t parity s err <;> exact .next

theorem execVecRedTimeout_answers (t s) : Answers (execVecRedTimeout t s) := by
  fun_cases execVecRedTimeout t s <;> exact .next

theorem execRngDrawRetire_answers (t s) : Answers (execRngDrawRetire t s) := by
  fun_cases execRngDrawRetire t s <;> exact .next

/-! ### Bands (Machine/Bands.lean) -/

theorem execBandGroupVerdict_answers (t peers writer s) : Answers (execBandGroupVerdict t peers writer s) := by
  fun_cases execBandGroupVerdict t peers writer s <;> exact .next

theorem execBandVerdictTimeout_answers (t s) : Answers (execBandVerdictTimeout t s) := by
  fun_cases execBandVerdictTimeout t s <;> exact .next

/-! ### The tile store and transfers (Machine/Store.lean) -/

theorem execPutArrive_answers (t src writer gran data s) : Answers (execPutArrive t src writer gran data s) := by
  fun_cases execPutArrive t src writer gran data s <;> exact .next

theorem execGetArrive_answers (t src reader gran len s) : Answers (execGetArrive t src reader gran len s) := by
  fun_cases execGetArrive t src reader gran len s <;> exact .next

theorem execDieSendArrive_answers (t writer gran data vec s route) :
    Answers (execDieSendArrive t writer gran data vec s route) := by
  fun_cases execDieSendArrive t writer gran data vec s route
  exact .next

theorem execMoveRetire_answers (t tag s0 err lines) : Answers (execMoveRetire t tag s0 err lines) := by
  fun_cases execMoveRetire t tag s0 err lines <;> exact .next

theorem execCacheFillArrive_answers (t tag line errs s) : Answers (execCacheFillArrive t tag line errs s) := by
  fun_cases execCacheFillArrive t tag line errs s <;> exact .next

theorem execArrivalTimeout_answers (t s) : Answers (execArrivalTimeout t s) := by
  fun_cases execArrivalTimeout t s <;> exact .next

/-! ### Sync and the control processor (Machine/Cp.lean) -/

theorem execBarrierRelease_answers (t bar s) : Answers (execBarrierRelease t bar s) := by
  fun_cases execBarrierRelease t bar s <;> exact .next

theorem execSyncTimeout_answers (t bar s) : Answers (execSyncTimeout t bar s) := by
  fun_cases execSyncTimeout t bar s <;> exact .next

theorem execEndNotice_answers (t s) : Answers (execEndNotice t s) := by
  fun_cases execEndNotice t s <;> exact .next

theorem execPbPrefetchDone_answers (t errs s) : Answers (execPbPrefetchDone t errs s) := by
  fun_cases execPbPrefetchDone t errs s <;> exact .next

theorem execSwitchStopNotice_answers (t s) : Answers (execSwitchStopNotice t s) := by
  fun_cases execSwitchStopNotice t s <;> exact .next

/-! ### The weight expander (Machine/Expand.lean) -/

theorem execLengthByteArrive_answers (d e l s) : Answers (execLengthByteArrive d e l s) := by
  fun_cases execLengthByteArrive d e l s <;> exact .next

theorem execBlockDecode_answers (d e l errs s) : Answers (execBlockDecode d e l errs s) := by
  fun_cases execBlockDecode d e l errs s <;> exact .next

theorem execBlockForward_answers (d e l s) : Answers (execBlockForward d e l s) := by
  fun_cases execBlockForward d e l s <;> exact .next

theorem execBandListArrive_answers (d e layer group set copies s) :
    Answers (execBandListArrive d e layer group set copies s) := by
  fun_cases execBandListArrive d e layer group set copies s <;> exact .next

theorem execExpListTimeout_answers (d e l s) : Answers (execExpListTimeout d e l s) := by
  fun_cases execExpListTimeout d e l s <;> exact .next

/-! ### The host interface (Machine/Host.lean) -/

theorem execBar4Access_answers (off len data ep errs s) : Answers (execBar4Access off len data ep errs s) := by
  fun_cases execBar4Access off len data ep errs s <;> exact .next

theorem execRelayAccess_answers (rd off width value s) : Answers (execRelayAccess rd off width value s) := by
  fun_cases execRelayAccess rd off width value s <;> exact .next

theorem execWideRegisterLowRead_answers (rd off s) : Answers (execWideRegisterLowRead rd off s) := by
  fun_cases execWideRegisterLowRead rd off s <;> exact .next

/-! ### Module memory (Machine/MemCtl.lean) -/

theorem execMemoryAccess_answers (x s) : Answers (execMemoryAccess x s) := by
  fun_cases execMemoryAccess x s <;> exact .next

theorem execPatrolScrubStep_answers (ch line err s) : Answers (execPatrolScrubStep ch line err s) := by
  fun_cases execPatrolScrubStep ch line err s <;> exact .next

theorem execMigrationBucketDone_answers (ch spread bucket poisoned s) :
    Answers (execMigrationBucketDone ch spread bucket poisoned s) := by
  fun_cases execMigrationBucketDone ch spread bucket poisoned s <;> exact .next

theorem execMigrationEnd_answers (ch s) : Answers (execMigrationEnd ch s) := by
  fun_cases execMigrationEnd ch s <;> exact .next

/-! ### Bundles and adapters (Machine/Loads.lean) -/

theorem execBundleCommit_answers (p s) : Answers (execBundleCommit p s) := by
  fun_cases execBundleCommit p s <;> exact .next

theorem execAdapterCommit_answers (p adapter s) : Answers (execAdapterCommit p adapter s) := by
  fun_cases execAdapterCommit p adapter s <;> exact .next

/-! ### Steps, pages and contexts (Machine/Steps.lean) -/

theorem execStepBoundary_answers (p s) : Answers (execStepBoundary p s) := by
  fun_cases execStepBoundary p s <;> exact .next

theorem execStepAbandonComplete_answers (p s) : Answers (execStepAbandonComplete p s) := by
  fun_cases execStepAbandonComplete p s <;> exact .next

theorem execHandoffRetryTimer_answers (slot s) : Answers (execHandoffRetryTimer slot s) := by
  fun_cases execHandoffRetryTimer slot s <;> exact .next

theorem execSwapRecordWritten_answers (p page s) : Answers (execSwapRecordWritten p page s) := by
  fun_cases execSwapRecordWritten p page s <;> exact .next

theorem execReadmit_answers (slot s) : Answers (execReadmit slot s) := by
  fun_cases execReadmit slot s <;> exact .next

theorem execRestorePage_answers (slot data s) : Answers (execRestorePage slot data s) := by
  fun_cases execRestorePage slot data s <;> exact .next

theorem execContextSwitch_answers (p s) : Answers (execContextSwitch p s) := by
  fun_cases execContextSwitch p s <;> exact .next

theorem execQuiesceTimeout_answers (p s) : Answers (execQuiesceTimeout p s) := by
  fun_cases execQuiesceTimeout p s <;> exact .next

theorem execReadmission_answers (p s) : Answers (execReadmission p s) := by
  fun_cases execReadmission p s <;> exact .next

/-! ### SUBMIT (Machine/Submit.lean) -/

theorem execSubmit_answers (x a blk s) : Answers (execSubmit x a blk s) := by
  fun_cases execSubmit x a blk s <;> exact .next

/-! ### Reads of host memory (Machine/Commands.lean) -/

theorem execDmaReadComplete_answers (why bad s) : Answers (execDmaReadComplete why bad s) := by
  fun_cases execDmaReadComplete why bad s <;> exact .next

/-! ### Pace windows (Machine/Pace.lean) -/

theorem execPaceWindowEnd_answers (die turns s) : Answers (execPaceWindowEnd die turns s) := by
  fun_cases execPaceWindowEnd die turns s <;> exact .next

/-! ### Packets of the links (Machine/Packets.lean) -/

theorem execHandoffAckReceive_answers (slot accepted st s) : Answers (execHandoffAckReceive slot accepted st s) := by
  fun_cases execHandoffAckReceive slot accepted st s <;> exact .next

/-! ### Repair (Machine/Repair.lean) -/

theorem execRepairAttemptResult_answers (block source host s) :
    Answers (execRepairAttemptResult block source host s) := by
  fun_cases execRepairAttemptResult block source host s <;> exact .next

/-! ### Pins and the management port (Machine/Side.lean) -/

theorem execSideInputGlitch_answers (i s) : Answers (execSideInputGlitch i s) := by
  fun_cases execSideInputGlitch i s <;> exact .next

theorem execModidSample_answers (first further s) : Answers (execModidSample first further s) := by
  fun_cases execModidSample first further s <;> exact .next

theorem execMgmtRead_answers (off s) : Answers (execMgmtRead off s) := by
  fun_cases execMgmtRead off s <;> exact .next

/-- By hand: the offsets it matches on are literals too large for `fun_cases`. -/
theorem execMgmtWrite_answers (off value s) : Answers (execMgmtWrite off value s) := by
  refine .ite .next (.ite .next ?_)
  split <;> exact .next

/-! ### Sleep (Machine/Wake.lean) -/

theorem execSleepEntered_answers (s) : Answers (execSleepEntered s) := by
  fun_cases execSleepEntered s <;> exact .next

/-! ### All commands -/

/-- Also a command whose precondition does not hold answers a next state (notes/assumptions/3.md). The arms stand by the
shape of the meaning: no choice, one, a chain of choices, and the commands that branch on data. -/
theorem exec_answers (c : Instr) (s : State) : Answers (exec c s) :=
  match c with
  | .voltageSettled .. | .tbuild .. | .tlook .. | .drain .. | .attnQk .. | .attnSoftInit .. | .attnSoftBlock ..
  | .attnSoftExport .. | .attnPv .. | .vecOp .. | .vecXred .. | .vecRed .. | .vecMerge .. | .vecNorm .. | .vecRope ..
  | .vecQuant .. | .vecTopk .. | .vecSample .. | .rngDraw .. | .bandSelect .. | .bandApply .. | .bandAudit ..
  | .moveLoad .. | .moveStore .. | .movePut .. | .moveGet .. | .moveSend .. | .winOpen .. | .winClose ..
  | .syncWait .. | .syncBar .. | .syncEnd .. | .stageLoad .. | .stageLoop .. | .loadBundle .. | .loadProgram ..
  | .unloadBundle .. | .unloadProgram .. | .loadAdapter .. | .deleteAdapter .. | .loadCode .. | .pf0Flr
  | .vfEnableClear | .doorbellWrite .. | .mbxDbWrite .. | .relayTimeout .. | .registerWrite .. | .speculate ..
  | .cancel .. | .cancelAll .. | .ringAttach .. | .ringAttachKeep .. | .ringDetach .. | .ringPause .. | .ringResume ..
  | .config .. | .contextCreate .. | .contextDelete .. | .swapArea .. | .swapAreaUnregister .. | .readJournal ..
  | .readLedger .. | .readDlq .. | .readStepRecords .. | .readErrors .. | .dlqAck .. | .journalWrite ..
  | .sendPacketReceive .. | .relayPacketReceive .. | .handoffPacketReceive .. | .pagePacketReceive ..
  | .weightPacketReceive .. | .expertPacketReceive .. | .ackReceive .. | .ackTimer .. | .timeExchange
  | .wakeMessage .. | .laneErrorWindow .. | .laneDrop .. | .linkLayerReset .. | .stopTimeout ..
  | .sleepPacketTimeout .. | .errorRecordWrite .. | .ftOverdue .. | .channelTestDone .. | .unitFence ..
  | .secCommitGo .. | .secRevokeGo .. | .getVersion .. | .getCapabilities .. | .negotiateAlgorithms ..
  | .getDigests .. | .getCertificate .. | .challenge .. | .getMeasurements .. | .spdmUnsupported .. | .supplyShutoff
  | .pwrEnDeassert | .perstDeassert | .standbyPowerUp => .next
  | .paceLowClear .. | .timeWord | .tmbNowLowRead .. | .strictLayerVerdict .. | .winCloseRetire .. | .issueLimit ..
  | .pbPrefetchTimeout .. | .stepCompose .. | .slotRelease .. | .sealComplete .. | .sliceExpiry ..
  | .switchQuiesceDone .. | .switchSaveDone .. | .linkTrained .. | .hostLinkReset .. | .vfFlr .. | .pauseEnd ..
  | .ringFetch .. | .outputBatchWrite .. | .msixModerationTimer .. | .ledgerSelWrite .. | .flitReceive ..
  | .fenceReceive .. | .retrainAttempt .. | .masterTimeout | .suspectTimeout .. | .testGapOpen .. | .ftSessionDone ..
  | .rebalanceDone .. | .fenceListWrite | .edgeLinkTimeout .. | .coreWatchdog .. | .firmwareRun | .runTimeout
  | .imgWriteGo .. | .fwActGo .. | .fwLoadDone | .rngHealthFail | .powerGrantTick .. | .sensorFail ..
  | .throttleAssert | .throttleDeassert | .throttleHoldEnd | .throttleStuckTimer | .supplyRestored ..
  | .sleepRequest .. | .wakeRequest .. | .wakeComplete | .scrubWake | .perstStuckTimeout | .gsyncMissing
  | .modidPinChange .. | .i3cDaa .. | .mctpPacket .. | .mgmtBadByte .. | .vfEnableSet .. | .rngHealthPass
    => .ite .next .next
  | .switchRestoreDone .. | .tlpError .. | .identReceive .. | .timeReceive .. | .routeReceive .. | .jtagInstruction ..
  | .thermalVlimitTick .. | .thermalTrip .. | .supplyOutOfRange .. | .pwrEnAssert | .mgmtImageData ..
    => .ite .next (.ite .next .next)
  | .busMasterEnableChange .. => .ite (.ite .next .next) .next
  | .abandonNotice .. | .nakReceive .. => .ite .next (.ite .next (.ite .next .next))
  | .gsyncEdge .. => .ite .next (.ite .next (.ite .next (.ite .next .next)))
  | .paceWindowEnd .. => execPaceWindowEnd_answers ..
  | .tbuildComplete .. => execTbuildComplete_answers ..
  | .tlookRowEntry .. => execTlookRowEntry_answers ..
  | .tlookRetire .. => execTlookRetire_answers ..
  | .drainRetire .. => execDrainRetire_answers ..
  | .keyJoin .. => execKeyJoin_answers ..
  | .attnQkRetire .. => execAttnQkRetire_answers ..
  | .attnPvRetire .. => execAttnPvRetire_answers ..
  | .aeFeedTimeout .. => execAeFeedTimeout_answers ..
  | .vecRetire .. => execVecRetire_answers ..
  | .vecRedTimeout .. => execVecRedTimeout_answers ..
  | .bandGroupVerdict .. => execBandGroupVerdict_answers ..
  | .bandVerdictTimeout .. => execBandVerdictTimeout_answers ..
  | .moveRetire .. => execMoveRetire_answers ..
  | .cacheFillArrive .. => execCacheFillArrive_answers ..
  | .putArrive .. => execPutArrive_answers ..
  | .getArrive .. => execGetArrive_answers ..
  | .dieSendArrive .. => execDieSendArrive_answers ..
  | .arrivalTimeout .. => execArrivalTimeout_answers ..
  | .barrierRelease .. => execBarrierRelease_answers ..
  | .syncTimeout .. => execSyncTimeout_answers ..
  | .endNotice .. => execEndNotice_answers ..
  | .stepAbandonComplete .. => execStepAbandonComplete_answers ..
  | .pbPrefetchDone .. => execPbPrefetchDone_answers ..
  | .switchStopNotice .. => execSwitchStopNotice_answers ..
  | .stepBoundary .. => execStepBoundary_answers ..
  | .handoffRetryTimer .. => execHandoffRetryTimer_answers ..
  | .swapRecordWritten .. => execSwapRecordWritten_answers ..
  | .readmit .. => execReadmit_answers ..
  | .restorePage .. => execRestorePage_answers ..
  | .lengthByteArrive .. => execLengthByteArrive_answers ..
  | .blockDecode .. => execBlockDecode_answers ..
  | .blockForward .. => execBlockForward_answers ..
  | .bandListArrive .. => execBandListArrive_answers ..
  | .expListTimeout .. => execExpListTimeout_answers ..
  | .tlookFeedTimeout .. => execTlookFeedTimeout_answers ..
  | .memoryAccess .. => execMemoryAccess_answers ..
  | .patrolScrubStep .. => execPatrolScrubStep_answers ..
  | .migrationBucketDone .. => execMigrationBucketDone_answers ..
  | .migrationEnd .. => execMigrationEnd_answers ..
  | .bundleCommit .. => execBundleCommit_answers ..
  | .adapterCommit .. => execAdapterCommit_answers ..
  | .contextSwitch .. => execContextSwitch_answers ..
  | .quiesceTimeout .. => execQuiesceTimeout_answers ..
  | .readmission .. => execReadmission_answers ..
  | .bar4Access .. => execBar4Access_answers ..
  | .dmaReadComplete .. => execDmaReadComplete_answers ..
  | .relayAccess .. => execRelayAccess_answers ..
  | .submit .. => execSubmit_answers ..
  | .handoffAckReceive .. => execHandoffAckReceive_answers ..
  | .resendTimer .. => execResendTimer_answers ..
  | .quenchReceive .. => execQuenchReceive_answers ..
  | .portDown .. => execPortDown_answers ..
  | .lnkRetrainWrite .. => execLnkRetrainWrite_answers ..
  | .countAgeOut .. => execCountAgeOut_answers ..
  | .ceRateHour .. => execCeRateHour_answers ..
  | .ftRotation => execFtRotation_answers ..
  | .coreTestDone .. => execCoreTestDone_answers ..
  | .rasUnfenceGo .. => execRasUnfenceGo_answers ..
  | .repairAttemptResult .. => execRepairAttemptResult_answers ..
  | .bootRomStart .. => execBootRomStart_answers ..
  | .modidSample .. => execModidSample_answers ..
  | .imageVerified => execImageVerified_answers ..
  | .stacksTrained .. => execStacksTrained_answers ..
  | .imageWriteDone .. => execImageWriteDone_answers ..
  | .coreBankSwitch .. => execCoreBankSwitch_answers ..
  | .activationConfirm => execActivationConfirm_answers ..
  | .reboot .. => execReboot_answers ..
  | .fuseBlowDone .. => execFuseBlowDone_answers ..
  | .doeAbort .. => execDoeAbort_answers ..
  | .sleepEntered => execSleepEntered_answers ..
  | .sideInputGlitch .. => execSideInputGlitch_answers ..
  | .mgmtRead .. => execMgmtRead_answers ..
  | .mgmtWrite .. => execMgmtWrite_answers ..
  | .attnSoftRetire .. => execAttnSoftRetire_answers ..
  | .rngDrawRetire .. => execRngDrawRetire_answers ..
  | .wideRegisterLowRead .. => execWideRegisterLowRead_answers ..

/-! ### The step -/

/-- An empty queue idles (notes/assumptions/4.md). -/
theorem step_of_pending_nil {s : State} (h : s.pending = []) : step s = .next s := by
  simp only [step, h]

theorem step_of_pending_cons {s : State} {c : Instr} {r : List Instr} (h : s.pending = c :: r) :
    step s = exec c { s with pending := r } := by
  simp only [step, h]

theorem step_answers (s : State) : Answers (step s) := by
  cases h : s.pending with
  | nil => rw [step_of_pending_nil h]; exact .next
  | cons c r => rw [step_of_pending_cons h]; exact exec_answers c _

/-- Settles O52: an empty queue idles, and the command at the front of the queue answers by `exec_answers`, where each of
the 249 meanings is taken branch by branch. -/
theorem everyStepAnswers : Obligations.EveryStepAnswers := step_answers

end Sys2Proof.Machine
end

section
/-! PROOFS. What a record, an abandonment and a released wait do to the state, and the waits that end in silence (O15). -/

namespace Sys2Proof.Machine

/-! ### One record into an open queue -/

theorem Keeps.log_eq {l : List Block} {s u : State} (h : Keeps l s u) (hl : Block.log ∉ l) : u.log = s.log := by
  obtain ⟨⟨_, _, _, _, _, _, _, _, _, hlog, _⟩, _⟩ := h
  exact hlog hl

theorem Keeps.boot_eq {l : List Block} {s u : State} (h : Keeps l s u) (hl : Block.boot ∉ l) : u.boot = s.boot := by
  obtain ⟨⟨_, _, _, _, _, _, _, _, _, _, _, _, hboot, _⟩, _⟩ := h
  exact hboot hl

@[simp] theorem drainErrs_zero (s : State) : drainErrs 0 s = s := by
  simp [drainErrs]

/-- An open queue needs no room made, and drops nothing (R453). -/
theorem pushErr_of_open {s : State} (ho : QueueOpen s) (c : RecCode) (a : ErrArgs) :
    ∃ r, pushErr s c a = queueErr s r ∧ r.code = c ∧ r.detail = a.detail := by
  have hfull : ¬ 4096 ≤ s.log.errQueue.length := by omega
  have hroom : errExcess s = 0 := Nat.sub_eq_zero_of_le (Nat.le_of_lt_succ ho)
  simp only [pushErr, hfull, false_and, if_false, hroom, drainErrs_zero]
  exact ⟨_, rfl, rfl, rfl⟩

theorem tileErr_recorded {s : State} (ho : QueueOpen s) (t : Nat) (c : RecCode) (st : Status) (opc : Nat) (d : List Nat) :
    Recorded s (tileErr s t c st opc d) c d := by
  obtain ⟨r, hr, hc, hd⟩ := pushErr_of_open ho c
    { status := st, unit := tileUnit t, opc := opc, part := (partOfTile s t).getD 8,
      step := execNum s ((partOfTile s t).getD 8), detail := d, fromTile := true }
  exact ⟨r, congrArg (fun u => u.log.errQueue) hr, hc, hd⟩

/-- A later operation that leaves the logs alone leaves the record where it is. -/
theorem recorded_of_log_eq {s t u : State} {c : RecCode} {d : List Nat} (h : Recorded s t c d)
    (hlog : u.log = t.log) : Recorded s u c d := by
  obtain ⟨r, hq, hc, hd⟩ := h
  exact ⟨r, by rw [hlog, hq], hc, hd⟩

@[simp] theorem partOf_tileErr (s : State) (t : Nat) (c : RecCode) (st : Status) (opc : Nat) (d : List Nat) (p : Nat) :
    partOf (tileErr s t c st opc d) p = partOf s p := by
  simp [tileErr]

@[simp] theorem partOfTile_tileErr (s : State) (t : Nat) (c : RecCode) (st : Status) (opc : Nat) (d : List Nat) (i : Nat) :
    partOfTile (tileErr s t c st opc d) i = partOfTile s i := by
  simp [partOfTile, partOfDie]

@[simp] theorem inRerun_tileErr (s : State) (t : Nat) (c : RecCode) (st : Status) (opc : Nat) (d : List Nat) (i : Nat) :
    inRerun (tileErr s t c st opc d) i = inRerun s i := by
  simp [inRerun]

/-! ### The tiles of a partition -/

/-- The tiles of a partition follow its dies and the units' states. -/
theorem tilesOf_congr {s u : State} {p : Nat} (hras : u.ras = s.ras) (hd : (partOf u p).dies = (partOf s p).dies) :
    tilesOf u p = tilesOf s p := by
  simp only [tilesOf, diesOf, hd, isFenced, unitSt, unitRec, hras]

@[simp] theorem tilesOf_modTile (s : State) (t : Nat) (f : Tile → Tile) (p : Nat) : tilesOf (modTile s t f) p = tilesOf s p :=
  tilesOf_congr rfl (by simp)

@[simp] theorem tilesOf_setTile (s : State) (t : Nat) (x : Tile) (p : Nat) : tilesOf (setTile s t x) p = tilesOf s p :=
  tilesOf_congr rfl (by simp)

/-- A change of tile `t` that leaves a field alone leaves it alone at every tile. -/
theorem tileOf_modTile_field {β : Type} (v : Tile → β) {s : State} {t : Nat} {f : Tile → Tile}
    (h : v (f (tileOf s t)) = v (tileOf s t)) (i : Nat) : v (tileOf (modTile s t f) i) = v (tileOf s i) := by
  by_cases hi : i = t
  · rw [hi, tileOf_modTile_same, h]
  · rw [tileOf_modTile_other _ _ _ _ hi]

/-- A change of partition `p` that leaves a field alone leaves it alone at every partition. -/
theorem partOf_modPart_field {β : Type} (v : Part → β) {s : State} {p : Nat} {f : Part → Part}
    (h : v (f (partOf s p)) = v (partOf s p)) (q : Nat) : v (partOf (modPart s p f) q) = v (partOf s q) := by
  by_cases hq : q = p
  · rw [hq, partOf_modPart_same, h]
  · rw [partOf_modPart_other _ _ _ _ hq]

theorem tilesOf_modPart {s : State} {p : Nat} {f : Part → Part} (h : (f (partOf s p)).dies = (partOf s p).dies) (q : Nat) :
    tilesOf (modPart s p f) q = tilesOf s q :=
  tilesOf_congr rfl (partOf_modPart_field Part.dies h q)

/-! ### The abandonment of a step -/

/-- Put the abandonment notice at each tile of a list. -/
def noticeAll (s : State) (ts : List Nat) : State := ts.foldl (fun s t => modTile s t fun x => { x with abandonOn := true }) s

theorem partOf_noticeAll (s : State) (ts : List Nat) (p : Nat) : partOf (noticeAll s ts) p = partOf s p :=
  foldl_same (partOf · p) (fun s t => partOf_modTile s t _ p) ts s

theorem tilesOf_noticeAll (s : State) (ts : List Nat) (p : Nat) : tilesOf (noticeAll s ts) p = tilesOf s p :=
  foldl_same (tilesOf · p) (fun s t => tilesOf_modTile s t _ p) ts s

/-- A tile has the notice when it is in the list, or had it. -/
theorem abandonOn_noticeAll (s : State) (ts : List Nat) (i : Nat) (h : i ∈ ts ∨ (tileOf s i).abandonOn = true) :
    (tileOf (noticeAll s ts) i).abandonOn = true := by
  induction ts generalizing s with
  | nil => exact h.resolve_left (List.not_mem_nil)
  | cons t r ih =>
    refine ih (modTile s t fun x => { x with abandonOn := true }) ?_
    by_cases hi : i = t
    · exact .inr (by rw [hi, tileOf_modTile_same])
    · rw [tileOf_modTile_other _ _ _ _ hi]
      exact h.imp_left fun hm => (List.mem_cons.1 hm).resolve_left hi

/-- An abandonment marks the executing step with a cause, the given one where none stood (R236), and notices every tile. -/
theorem abandonStep_of_exec {s : State} {p : Nat} {e : Step} (h : (partOf s p).exec = some e) (a : Abandon) :
    ∃ w, (e.why = none → w = a) ∧ abandonStep s p a =
      noticeAll (modPart s p fun x => { x with exec := some { e with why := some w } }) (tilesOf s p) := by
  simp only [abandonStep, h]
  cases e.why with
  | none => exact ⟨a, fun _ => rfl, rfl⟩
  | some b => exact ⟨_, nofun, rfl⟩

theorem abandonStep_abandons {s : State} {p : Nat} {e : Step} (h : (partOf s p).exec = some e) (a : Abandon) :
    Abandons p e a (abandonStep s p a) := by
  obtain ⟨w, hw, hstep⟩ := abandonStep_of_exec h a
  rw [hstep]
  refine ⟨{ e with why := some w }, ?_, rfl, rfl, fun hnone => congrArg some (hw hnone), fun t ht => ?_⟩
  · rw [partOf_noticeAll, partOf_modPart_same]
  · rw [tilesOf_noticeAll, tilesOf_modPart rfl] at ht
    exact abandonOn_noticeAll _ _ _ (.inl ht)

/-- What leaves the tiles' notices, the partition's tiles and its step's number and cause alone keeps an abandonment. -/
theorem abandons_of_kept {p : Nat} {e : Step} {a : Abandon} {s u : State} (h : Abandons p e a s)
    (htiles : tilesOf u p = tilesOf s p) (hon : ∀ t, (tileOf u t).abandonOn = (tileOf s t).abandonOn)
    (hexec : ∀ f, (partOf s p).exec = some f → ∃ g, (partOf u p).exec = some g ∧ g.num = f.num ∧ g.why = f.why) :
    Abandons p e a u := by
  obtain ⟨f, hf, hnum, hwhy, hcause, hall⟩ := h
  obtain ⟨g, hg, hgnum, hgwhy⟩ := hexec f hf
  refine ⟨g, hg, hgnum.trans hnum, hgwhy ▸ hwhy, fun hw => hgwhy ▸ hcause hw, fun t ht => ?_⟩
  rw [hon]
  exact hall t (htiles ▸ ht)

/-! ### A wait released after the notice (R235 step 1) -/

section Kept
variable {p : Nat} {e : Step} {a : Abandon} {s : State}

theorem modTile_abandons (h : Abandons p e a s) {t : Nat} {f : Tile → Tile}
    (hf : (f (tileOf s t)).abandonOn = (tileOf s t).abandonOn) : Abandons p e a (modTile s t f) :=
  abandons_of_kept h (tilesOf_modTile ..) (tileOf_modTile_field Tile.abandonOn hf) fun g hg => ⟨g, by simpa using hg, rfl, rfl⟩

theorem modWin_fold_abandonOn (f : Win → Win) (ws : List Nat) (x : Tile) :
    (ws.foldl (fun x w => modWin x w f) x).abandonOn = x.abandonOn := by
  induction ws generalizing x with
  | nil => rfl
  | cons w r ih => exact ih (modWin x w f)

theorem clearStep_abandonOn (x : Tile) : (clearStep x).abandonOn = x.abandonOn := modWin_fold_abandonOn ..

/-- A report changes only the reports of the step that its tile's partition executes. -/
theorem report_abandons (h : Abandons p e a s) (t : Nat) : Abandons p e a (report s t) := by
  unfold report
  cases partOfTile s t with
  | none => exact h
  | some q =>
    refine abandons_of_kept h (tilesOf_modPart rfl p) (fun i => by rw [tileOf_modPart]) fun f hf => ?_
    by_cases hq : p = q
    · subst hq
      rw [partOf_modPart_same, hf]
      refine ⟨_, rfl, ?_, ?_⟩ <;> dsimp only <;> split <;> rfl
    · exact ⟨f, by rw [partOf_modPart_other _ _ _ _ hq, hf], rfl, rfl⟩

theorem finishAbandon_abandons (h : Abandons p e a s) (t : Nat) : Abandons p e a (finishAbandon s t) := by
  have hclear : (dropCache (clearStep (tileOf s t))).abandonOn = (tileOf s t).abandonOn := clearStep_abandonOn _
  unfold finishAbandon
  dsimp only
  split
  · exact report_abandons (modTile_abandons (f := fun x => dropCache (clearStep x)) h hclear) t
  · exact h

theorem abandonNow_abandons (h : Abandons p e a s) (t : Nat) : Abandons p e a (abandonNow s t) :=
  finishAbandon_abandons (modTile_abandons h rfl) t

theorem waitOut_abandons (h : Abandons p e a s) (t : Nat) : Abandons p e a (waitOut s t) := by
  unfold waitOut
  split
  · exact abandonNow_abandons h t
  · exact h

end Kept

theorem waitOut_log (s : State) (t : Nat) : (waitOut s t).log = s.log := (waitOut_keeps s t).log_eq (by decide)

/-! ### Silence: a record, and the step abandoned to run once more -/

/-- A wait of tile `n` in vain, from state `s`: its record, and the step abandoned for a cause. -/
abbrev Silent (s : State) (c : RecCode) (d : List Nat) (p : Nat) (e : Step) (a : Abandon) (u : State) : Prop :=
  Recorded s u c d ∧ Abandons p e a u

theorem Silent.waitOut {s u : State} {c : RecCode} {d : List Nat} {p : Nat} {e : Step} {a : Abandon} (h : Silent s c d p e a u)
    (t : Nat) : Silent s c d p e a (waitOut u t) :=
  ⟨recorded_of_log_eq h.1 (waitOut_log u t), waitOut_abandons h.2 t⟩

section Silence
variable {s : State} {n p : Nat} {e : Step}

theorem inRerun_of_runs (h : Runs s n p e) : inRerun s n = e.rerun := by
  simp [inRerun, h.1, h.2]

theorem stepOf_of_runs (h : Runs s n p e) : stepOf s n = some e := by
  simp [stepOf, h.1, h.2]

theorem abandonStep_tileErr_silent (h : Runs s n p e) (ho : QueueOpen s) (c : RecCode) (st : Status) (opc : Nat) (d : List Nat)
    (a : Abandon) : Silent s c d p e a (abandonStep (tileErr s n c st opc d) p a) :=
  ⟨recorded_of_log_eq (tileErr_recorded ho n c st opc d) ((abandonStep_keeps ..).log_eq (by decide)),
    abandonStep_abandons (by rw [partOf_tileErr, h.2]) a⟩

theorem waitFault_of_partOfTile (h : partOfTile s n = some p) : waitFault s n = abandonStep s p toRetell := by
  simp only [waitFault, h]
  rfl

theorem rerunFault_of_partOfTile (h : partOfTile s n = some p) (again : Option Status) :
    rerunFault s n again = abandonStep s p (toRerun again) := by
  simp only [rerunFault, h]
  rfl

/-- A tile's record and the fault of its wait (R24, R208). -/
theorem waitFault_silent (h : Runs s n p e) (ho : QueueOpen s) (c : RecCode) (opc : Nat) (d : List Nat) :
    Silent s c d p e toRetell (waitFault (tileErr s n c .ok opc d) n) := by
  rw [waitFault_of_partOfTile (by rw [partOfTile_tileErr, h.1])]
  exact abandonStep_tileErr_silent h ho ..

/-- A silent feed in a first run counts nothing against its expander (R134). -/
theorem feedSilent_silent (h : Runs s n p e) (hr : e.rerun = false) (ho : QueueOpen s) (f : Nat) (c : RecCode) (opc tag : Nat) :
    Silent s c [n, f, tag] p e toRetell (feedSilent s n f c opc tag) := by
  simp only [feedSilent, inRerun_of_runs h, hr, Bool.false_eq_true, if_false]
  exact (waitFault_silent h ho c opc _).waitOut n

/-- With no activation under way a fault is none of new firmware (R489). -/
theorem fwFault_of_idle (hc : s.boot.actSt ≠ .config) (hw : s.boot.actSt ≠ .switch) : fwFault s = s := by
  simp [fwFault, hc, hw]

/-- A parameter section that does not come in a first run (R241). -/
theorem pbFail_silent (h : Runs s n p e) (hr : e.rerun = false) (ho : QueueOpen s) (hc : s.boot.actSt ≠ .config)
    (hw : s.boot.actSt ≠ .switch) : Silent s .pbCheck [n] p e (toRerun (some .preempted)) (pbFail s n none) := by
  have hboot : (rerunFault (tileErr s n .pbCheck .ok 0xFF [n]) n (some .preempted)).boot = s.boot :=
    ((rerunFault_keeps ..).boot_eq (by decide)).trans ((tileErr_keeps ..).boot_eq (by decide))
  simp only [pbFail, inRerun_of_runs h, hr]
  rw [if_neg (by decide), fwFault_of_idle (hboot ▸ hc) (hboot ▸ hw), rerunFault_of_partOfTile (by rw [partOfTile_tileErr, h.1])]
  exact abandonStep_tileErr_silent h ho ..

end Silence

/-! ### The commands of the waits -/

/-- A TLOOK that waits for its feed finds less than a row in its FIFO. -/
theorem rowBytes_exp_of_short {x : Tile} (h : x.tlaFifo.length < 32) (feed r : Nat) : rowBytes x feed r true = none := by
  have hshort : (x.tlaFifo.take 32).length < 32 := by rw [List.length_take]; omega
  simp only [rowBytes, hshort, true_or, if_true]

/-- What waits on an EXP FIFO for a row is a TLOOK. -/
theorem op_of_tlookFed {i : Infl} (h : tlookFed i = true) :
    ∃ f nr ab am bf fm ng nc, i.op = .tlook f nr ab am bf true fm ng nc := by
  unfold tlookFed at h
  split at h
  next f nr ab am bf exp fm ng nc hop =>
    obtain ⟨rfl, _⟩ : exp = true ∧ _ := by simpa using h
    exact ⟨_, _, _, _, _, _, _, _, hop⟩
  next => cases h

theorem startedOp_ok {s : State} {t : Nat} {ok : Infl → Bool} {i : Infl} (h : startedOp s t ok = some i) : ok i = true := by
  have hi := List.find?_some h
  simp only [Bool.and_eq_true] at hi
  exact hi.2

section Commands
variable {n : Fin 1024} {s : State}

theorem execTlookFeedTimeout_of_waits {i : Infl} (hi : startedOp s n tlookFed = some i) (hf : (tileOf s n).tlaFifo.length < 32) :
    execTlookFeedTimeout n s = .next (feedSilent s n 0 .tlaFeed 0x20 i.tag) := by
  obtain ⟨f, nr, ab, am, bf, fm, ng, nc, hop⟩ := op_of_tlookFed (startedOp_ok hi)
  simp [execTlookFeedTimeout, hi, hop, rowBytes_exp_of_short hf]

theorem execAeFeedTimeout_of_waits {i : Infl} {tag f k hw a : Nat} (hi : startedOp s n (fun j => j.tag == tag) = some i)
    (hfeed : aeFeed i.op = some (f, k, hw, a)) (hf : f ≠ 0) (hk : keysDrawn i < k) (hahead : keysDrawn i < i.prog + 16)
    (hkey : takeKey (tileOf s n) i (keysDrawn i) = none) :
    execAeFeedTimeout n tag s = .next (feedSilent s n f .aeFeed i.op.opc tag) := by
  have hstays : ¬ (f = 0 ∨ k ≤ keysDrawn i ∨ i.prog + 16 ≤ keysDrawn i) := by omega
  simp [execAeFeedTimeout, hi, hfeed, hkey, hstays]

theorem execVecRedTimeout_of_waits {i : Infl} (hi : (tileOf s n).inflight.find? (redWaits (tileOf s n)) = some i) :
    execVecRedTimeout n s = .next (waitFault (tileErr s n .vecRedTimeout .ok 0x72 [n]) n) := by
  simp only [execVecRedTimeout, hi]

theorem execBandVerdictTimeout_of_waits {i : Infl} {rg b k l g t w q fe : Nat} {m : Bool}
    (hi : startedOp s n (applyWaits (tileOf s n)) = some i) (hop : i.op = .bandApply rg m b k l g t w q fe) :
    execBandVerdictTimeout n s = .next (waitFault (tileErr s n .bandMeta .ok 0x81 [l, g, t, 0, n]) n) := by
  simp only [execBandVerdictTimeout, hi, hop]

theorem execArrivalTimeout_of_inflight {i : Infl}
    (hi : ((tileOf s n).inflight.find? fun j => !arrived (tileOf s n) j.await) = some i) :
    execArrivalTimeout n s = .next (waitOut (waitFault (tileErr s n (arrivalCode i.op) .ok i.op.opc [n]) n) n) := by
  simp only [execArrivalTimeout, hi]

theorem execArrivalTimeout_of_sync (hi : ((tileOf s n).inflight.find? fun j => !arrived (tileOf s n) j.await) = none)
    (hw : (tileOf s n).waitBlocks.isSome = true) (hc : arrived (tileOf s n) (tileOf s n).waitCount = false) :
    execArrivalTimeout n s =
      .next (waitOut (waitFault (tileErr s n .tsArrivalTimeout .ok (syncOpc (tileOf s n)) [n]) n) n) := by
  simp [execArrivalTimeout, hi, hw, hc]

theorem execArrivalTimeout_of_held (hi : ((tileOf s n).inflight.find? fun j => !arrived (tileOf s n) j.await) = none)
    (hw : (tileOf s n).waitBlocks = none) (hh : heldCount (tileOf s n) = true) :
    execArrivalTimeout n s = .next (waitOut (waitFault (tileErr s n .tsArrivalTimeout .ok 0xFF [n]) n) n) := by
  simp [execArrivalTimeout, hi, hw, hh]

/-- In a first run no absent tile becomes suspect (R233). -/
theorem execSyncTimeout_of_waits {bar : Fin 64} {ps : List Nat} {c home : Nat} (hb : (tileOf s n).waitBar = some bar.val)
    (hw : (tileOf s n).waitBlocks = none) (he : barrierOf s n bar = some (ps, c, home)) (hr : inRerun s n = false) :
    execSyncTimeout n bar s = .next (waitFault (tileErr s n .syncTimeout .ok 0xA1
      (bar.val :: ps.filter fun q => !(tabGet (tileOf s home).bars bar []).contains q)) n) := by
  simp [execSyncTimeout, hb, hw, he, hr]

theorem execPbPrefetchTimeout_of_waits (hstep : (stepOf s n).isSome = true) (hsec : (tileOf s n).sec = none)
    (hst : (tileOf s n).st = .run ∨ (tileOf s n).st = .held) :
    execPbPrefetchTimeout n s = .next (waitOut (pbFail s n none) n) := by
  simp [execPbPrefetchTimeout, hstep, hsec, hst]

end Commands

/-- Settles O15: each command whose wait stands comes to one record and one abandonment (`waitFault_silent`,
`feedSilent_silent`, `pbFail_silent`), which the release of the tile's own wait keeps (`Silent.waitOut`). The record of an
arrival count is the model's choice for the classes that R208 does not name (notes/assumptions/55.md). -/
theorem silentWaits : Obligations.SilentWaits := by
  unfold Obligations.SilentWaits
  intro n s p e h hr ho
  refine ⟨?tlook, ?ae, ?red, ?band, ?inflight, ?sync, ?held, ?barrier, ?params⟩
  case tlook =>
    intro i hi hf
    exact ⟨_, execTlookFeedTimeout_of_waits hi hf, feedSilent_silent h hr ho ..⟩
  case ae =>
    intro i f k hw a hi hfeed hf hk hahead hkey
    exact ⟨_, execAeFeedTimeout_of_waits hi hfeed hf hk hahead hkey, feedSilent_silent h hr ho ..⟩
  case red =>
    rintro ⟨i, hi⟩
    exact ⟨_, execVecRedTimeout_of_waits hi, waitFault_silent h ho ..⟩
  case band =>
    intro i rg m b k l g t w q fe hi hop
    exact ⟨_, execBandVerdictTimeout_of_waits hi hop, waitFault_silent h ho ..⟩
  case inflight =>
    intro i hi
    exact ⟨_, execArrivalTimeout_of_inflight hi, (waitFault_silent h ho ..).waitOut n⟩
  case sync =>
    intro hi hw hc
    exact ⟨_, execArrivalTimeout_of_sync hi hw hc, (waitFault_silent h ho ..).waitOut n⟩
  case held =>
    intro hi hw hh
    exact ⟨_, execArrivalTimeout_of_held hi hw hh, (waitFault_silent h ho ..).waitOut n⟩
  case barrier =>
    intro bar ps c home hb hw he
    exact ⟨_, execSyncTimeout_of_waits hb hw he ((inRerun_of_runs h).trans hr), (waitFault_silent h ho ..).symm⟩
  case params =>
    intro hsec hst hc hw
    exact ⟨_, execPbPrefetchTimeout_of_waits (by rw [stepOf_of_runs h]; rfl) hsec hst, (pbFail_silent h hr ho hc hw).waitOut n⟩

end Sys2Proof.Machine
end

section
/-! PROOFS. How steps end, run again and are composed (O19). -/

namespace Sys2Proof.Machine

theorem Keeps.parts_eq {l : List Block} {s u : State} (h : Keeps l s u) (hl : Block.parts ∉ l) : u.parts = s.parts := by
  obtain ⟨⟨_, _, _, _, _, _, hparts, _⟩, _⟩ := h
  exact hparts hl

/-! ### What is staged, through a tainted step's end -/

theorem setPart_unlose_staged {s : State} {p : Nat} {x : Part} (hx : x.staged = (partOf s p).staged) (l i q : Nat) :
    (partOf (setPart (unlose s l i) p x) q).staged = (partOf s q).staged := by
  have hx' : x.staged = (partOf (unlose s l i) p).staged := hx.trans (by rw [partOf_unlose])
  exact (partOf_modPart_field Part.staged (f := fun _ => x) hx' q).trans (by rw [partOf_unlose])

/-- A dead letter changes only the queue of its partition (R328). -/
theorem toDlq_staged (s : State) (p : Nat) (r : OutRec) (q : Nat) : (partOf (toDlq s p r) q).staged = (partOf s q).staged := by
  unfold toDlq
  dsimp only
  split
  · split
    · exact setPart_unlose_staged (by rfl) ..
    · exact (congrArg Part.staged (partOf_pushErr ..)).trans (setPart_unlose_staged (by rfl) ..)
  · split
    · exact (congrArg Part.staged (partOf_fire ..)).trans (setPart_unlose_staged (by rfl) ..)
    · exact setPart_unlose_staged (by rfl) ..

theorem partOf_endTiles (s : State) (p q : Nat) : partOf (endTiles s p) q = partOf s q :=
  foldl_same (partOf · q) (fun s t => partOf_modTile s t _ q) _ s

theorem taintedOut_staged (s : State) (p : Nat) (e : Step) (q : Nat) :
    (partOf (taintedOut s p e) q).staged = (partOf s q).staged :=
  foldl_same (fun s => (partOf s q).staged)
    (fun _ _ => foldl_same (fun s => (partOf s q).staged) (fun s _ => toDlq_staged s p _ q) _ _) _ s

theorem pushStepRec_staged (s : State) (p : Nat) (r : StepRec) (q : Nat) :
    (partOf (pushStepRec s p r) q).staged = (partOf s q).staged := by
  unfold pushStepRec
  exact (partOf_modPart_field Part.staged rfl q).trans (by rw [partOf_unlose])

/-- With nothing staged, nothing applies (R23). -/
theorem stagedNow_of_nil {s : State} {p : Nat} (h : (partOf s p).staged = []) :
    stagedNow s p = modPart s p fun x => { x with staged := [] } := by
  simp [stagedNow, applyStaged, h]

theorem taintedEnd_rerunStep {s : State} {p : Nat} (h : (partOf s p).staged = []) (e : Step) (ev : Nat) :
    (partOf (taintedEnd s p e ev) p).rerunStep = some (runAgain e) := by
  unfold taintedEnd
  dsimp only
  rw [stagedNow_of_nil]
  · simp
  · rw [partOf_modPart_same]
    exact (pushStepRec_staged ..).trans ((taintedOut_staged ..).trans (by rw [partOf_endTiles, h]))

/-! ### What follows an abandonment -/

theorem afterAbandon_rerunStep {s : State} {p : Nat} {e : Step} {a : Abandon} (hrep : a.replaced = false) (hre : a.rerun = true)
    (hfirst : e.rerun = false) : (partOf (afterAbandon s p e a) p).rerunStep = some (runAgain e) := by
  simp [afterAbandon, hrep, hre, hfirst]

/-! ### Composition -/

theorem modPage_fold_stepNext (f : Page → Page) (ks : List Nat) (x : Part) :
    (ks.foldl (fun x k => modPage x k f) x).stepNext = x.stepNext := by
  induction ks generalizing x with
  | nil => rfl
  | cons k r ih => exact ih (modPage x k f)

theorem setCand_stepNext (s : State) (p : Nat) (cols : List Column) : (partOf (setCand s p cols) p).stepNext = (partOf s p).stepNext :=
  partOf_modPart_field Part.stepNext (modPage_fold_stepNext ..) p

theorem noteDefer_stepNext (s : State) (p : Nat) (c : Comp) : (partOf (noteDefer s p c) p).stepNext = (partOf s p).stepNext := by
  unfold noteDefer
  dsimp only
  split
  · rw [partOf_pushErr, partOf_modPart_same]
  · rfl

theorem partOf_writeParams (s : State) (p : Nat) (e : Step) (q : Nat) : partOf (writeParams s p e).1 q = partOf s q := by
  simp only [partOf, (writeParams_keeps s p e).parts_eq (by decide)]

/-- The composed step has the version and the columns of its composition and the partition's next number, which it uses up
(R312). -/
theorem takeComposed_composed (p v : Nat) (c : Comp) : ∃ e, (partOf (takeComposed p v c) p).composed = some e ∧ e.version = v ∧
    e.rerun = false ∧ e.cols = c.cols ∧ e.num = (partOf c.s p).stepNext ∧ (partOf (takeComposed p v c) p).stepNext = e.num + 1 := by
  unfold takeComposed
  dsimp only
  refine ⟨_, by rw [partOf_modPart_same], rfl, rfl, rfl, rfl, ?_⟩
  rw [partOf_modPart_same]
  dsimp only
  rw [partOf_writeParams, setCand_stepNext, noteDefer_stepNext]
  rfl

theorem versionOrder_of_nextVersion {s : State} {p v : Nat} (h : nextVersion s p = some v) : ∃ r, versionOrder s p = v :: r :=
  List.head?_eq_some_iff.1 h

theorem composeFirst_of_cols {s : State} {p v : Nat} (r : List Nat) (hw : (compose s p v).wait = false)
    (hc : (compose s p v).cols ≠ []) : composeFirst s p (v :: r) = startNext (takeComposed p v (compose s p v)) p := by
  simp [composeFirst, hw, hc]

/-! ### The commands -/

section Commands
variable {p : Fin 8} {s : State} {e : Step}

theorem execStepBoundary_of_taint {ev : Nat} (h : (partOf s p).exec = some e) (hend : allEnded s p e = true) (hw : e.why = none)
    (ht : e.taint = some ev) : execStepBoundary p s = .next (startNext (taintedEnd s p e ev) p) := by
  simp [execStepBoundary, h, hend, hw, ht]

theorem execStepBoundary_of_clean (h : (partOf s p).exec = some e) (hend : allEnded s p e = true) (hw : e.why = none)
    (ht : e.taint = none) : execStepBoundary p s = .next (startNext (cleanEnd s p e) p) := by
  simp [execStepBoundary, h, hend, hw, ht]

theorem execStepAbandonComplete_of_out {a : Abandon} (h : (partOf s p).exec = some e) (hw : e.why = some a)
    (hout : ∀ n ∈ tilesOf s p, tileOut s e n = true) :
    execStepAbandonComplete p s = .next (startNext (abandonEnd s p e a) p) := by
  have hall : (tilesOf s p).all (tileOut s e) = true := List.all_eq_true.2 hout
  simp [execStepAbandonComplete, h, hw, hall]

theorem execStepCompose_of_cols {v : Nat} (hheld : composeHeld s p = false) (hv : nextVersion (preemptIdle s p) p = some v)
    (hw : (compose (preemptIdle s p) p v).wait = false) (hc : (compose (preemptIdle s p) p v).cols ≠ []) :
    execStepCompose p s = .next (startNext (takeComposed p v (compose (preemptIdle s p) p v)) p) := by
  obtain ⟨r, hr⟩ := versionOrder_of_nextVersion hv
  simp [execStepCompose, hheld, hr, composeFirst_of_cols r hw hc]

end Commands

/-- Settles O19: each command takes the branch its clause names; what runs again is read off the ends of the step
(`taintedEnd_rerunStep`, `afterAbandon_rerunStep`), the composed step off `takeComposed_composed`. -/
theorem stepEnds : Obligations.StepEnds := by
  unfold Obligations.StepEnds
  refine ⟨fun p s e h => ⟨?tainted, ?clean, ?abandoned⟩, ?composed⟩
  case tainted =>
    intro ev hend hw ht
    exact ⟨_, execStepBoundary_of_taint h hend hw ht, rfl, fun hs => taintedEnd_rerunStep hs e ev⟩
  case clean =>
    intro hend hw ht
    exact ⟨_, execStepBoundary_of_clean h hend hw ht, rfl⟩
  case abandoned =>
    intro a hw hout
    exact ⟨_, execStepAbandonComplete_of_out h hw hout, rfl, afterAbandon_rerunStep⟩
  case composed =>
    intro p s v hheld s0 c hv hw hc
    exact ⟨_, execStepCompose_of_cols hheld hv hw hc, rfl, takeComposed_composed p v c⟩

end Sys2Proof.Machine
end

section
/-! PROOFS. Reads of the timebase (O50). -/

namespace Sys2Proof.Machine

/-! ### Bytes of a number -/

/-- Little-endian bytes of a number put together give the number, cut to them (R4). -/
theorem leNat_bytes (n v : Nat) :
    leNat ((List.range n).map fun i => BitVec.ofNat 8 (v / 2 ^ (8 * i))) = v % 2 ^ (8 * n) := by
  induction n generalizing v with
  | zero => simp [leNat, Nat.mod_one]
  | succ n ih =>
    have hpow : ∀ i, 2 ^ (8 * (i + 1)) = 256 * 2 ^ (8 * i) := fun i => by
      rw [Nat.mul_succ, Nat.pow_add, Nat.mul_comm]
    have hbyte : ∀ i, v / 2 ^ (8 * (i + 1)) = v / 256 / 2 ^ (8 * i) := fun i => by
      rw [hpow, Nat.div_div_eq_div_mul]
    simp only [List.range_succ_eq_map, List.map_cons, List.map_map, Function.comp_def, Nat.succ_eq_add_one, hbyte, leNat, ih]
    simp [hpow, Nat.mod_mul]

/-! ### TMB_NOW in the register map (Table 24-2, R48, R483, R546) -/

section TmbNow
variable {s : State} {rd : Origin} {i : Nat}

theorem regAt_tmbNow (s : State) (hi : i < 8) : regAt s (0x20000 + i) =
    some ⟨0x20000, 8, if s.boot.st = .recovery then 0 else s.tmb.now % 2 ^ 64⟩ := by
  have hblock : ¬ 0x20000 + i < 0x10000 ∧ ¬ 0x20000 + i < 0x20000 ∧ 0x20000 + i < 0x30000 ∧ 0x10000 ≤ 0x20000 + i := by omega
  have hnow : 0x20000 + i < 0x20008 := by omega
  by_cases hr : s.boot.st = .recovery <;> simp [regAt, regTmb, hblock, hnow, hr]

/-- A virtual function has no register there (R546). -/
theorem vfRegAt_tmbNow (s : State) (k : Nat) : vfRegAt s k (0x20000 + i) = none := by
  have hcopies : ¬ 0x20000 + i < 0x1008 ∧ ¬ 0x20000 + i < 0x1020 ∧ ¬ 0x20000 + i < 0x1040 ∧ ¬ 0x20000 + i < 0x1060 := by omega
  have hmbx : ¬ 0x20000 + i < 0x40 ∧ ¬ 0x20000 + i < 0x44 ∧ ¬ 0x20000 + i < 0x4C ∧ ¬ 0x20000 + i < 0x80 := by omega
  have hmsix : ¬ 0x20000 + i < 0x8080 ∧ ¬ 0x20000 + i < 0x9008 := by omega
  simp [vfRegAt, regMbx, regMsix, inArr, hcopies, hmbx, hmsix]

/-- Who sees the timebase finds the count there. -/
theorem regFor_of_timeShown (h : timeShown s rd = true) (hi : i < 8) :
    regFor s rd (0x20000 + i) = some ⟨0x20000, 8, s.tmb.now % 2 ^ 64⟩ := by
  obtain ⟨hrun, hfn⟩ : s.boot.st ≠ .recovery ∧ _ := by simpa [timeShown] using h
  have hnow := regAt_tmbNow s hi
  rw [if_neg hrun] at hnow
  cases rd with
  | vf k => rw [regFor, if_pos (by simpa using hfn), hnow]
  | pf0 | relay | mgmt | firmware | bootImage => exact hnow

/-- Who does not see it finds no register, or in RECOVERY one that reads zero (R483). -/
theorem regFor_of_not_timeShown (h : timeShown s rd = false) (hi : i < 8) :
    regFor s rd (0x20000 + i) = none ∨ regFor s rd (0x20000 + i) = some ⟨0x20000, 8, 0⟩ := by
  have hnow := regAt_tmbNow s hi
  by_cases hr : s.boot.st = .recovery
  · rw [if_pos hr] at hnow
    cases rd with
    | vf k =>
      rw [regFor]
      split
      · exact .inr hnow
      · exact .inl (vfRegAt_tmbNow ..)
    | pf0 | relay | mgmt | firmware | bootImage => exact .inr hnow
  · have hfn := (by simpa [timeShown, hr] using h :)
    cases rd with
    | vf k => exact .inl (by rw [regFor, if_neg (by simpa using hfn), vfRegAt_tmbNow])
    | pf0 | relay | mgmt | firmware | bootImage => cases hfn

/-- TMB_NOW is no wide register: no read of it latches the register whole (R547). -/
theorem lowWord_tmbNow (s : State) (rd : Origin) (hi : i < 8) : lowWord s rd (0x20000 + i) = none := by
  cases h : timeShown s rd with
  | true => simp [lowWord, regFor_of_timeShown h hi]
  | false => rcases regFor_of_not_timeShown h hi with hreg | hreg <;> simp [lowWord, hreg]

theorem readByte_of_timeShown (h : timeShown s rd = true) (hi : i < 8) :
    readByte s rd (0x20000 + i) = BitVec.ofNat 8 (s.tmb.now % 2 ^ 64 / 2 ^ (8 * i)) := by
  simp [readByte, regFor_of_timeShown h hi, latched]

theorem readByte_of_not_timeShown (h : timeShown s rd = false) (hi : i < 8) :
    readByte s rd (0x20000 + i) = BitVec.ofNat 8 (0 / 2 ^ (8 * i)) := by
  rcases regFor_of_not_timeShown h hi with hreg | hreg <;> simp [readByte, hreg, latched]

/-- A read of TMB_NOW that does not go by the latch puts the register's bytes together. -/
theorem readReg_tmbNow_bytes {n v : Nat} (hn : n ≤ 8) (hplain : n = 4 → timeShown s rd = false)
    (hbyte : ∀ i < 8, readByte s rd (0x20000 + i) = BitVec.ofNat 8 (v / 2 ^ (8 * i))) :
    readReg s rd 0x20000 n = (s, v % 2 ^ (8 * n)) := by
  have hlow : lowWord s rd 0x20000 = none := lowWord_tmbNow s rd (i := 0) (by decide)
  have hbytes : ((List.range n).map fun i => readByte s rd (0x20000 + i)) =
      (List.range n).map fun i => BitVec.ofNat 8 (v / 2 ^ (8 * i)) :=
    List.map_congr_left fun i hi => hbyte i (by have := List.mem_range.1 hi; omega)
  have hplain' : ¬ (n = 4 ∧ timeShown s rd = true) := fun ⟨h4, hs⟩ => by simp [hplain h4] at hs
  simp [readReg, hlow, hbytes, leNat_bytes, hplain']

/-- A 64-bit read gives the count of one moment (R48). -/
theorem readReg_tmbNow_whole (h : timeShown s rd = true) : readReg s rd 0x20000 8 = (s, s.tmb.now % 2 ^ 64) := by
  rw [readReg_tmbNow_bytes (by decide) (by omega) fun i hi => readByte_of_timeShown h hi, Nat.mod_mod]

theorem readReg_tmbNow_hidden (h : timeShown s rd = false) {n : Nat} (hn : n ≤ 8) : readReg s rd 0x20000 n = (s, 0) := by
  rw [readReg_tmbNow_bytes hn (fun _ => h) fun i hi => readByte_of_not_timeShown h hi, Nat.zero_mod]

/-- The state after a reader has latched the high half of the count (R48). -/
def latchHigh (s : State) (rd : Origin) : State :=
  { s with tmb := { s.tmb with halfLatch := (rd, s.tmb.now / 2 ^ 32) :: s.tmb.halfLatch.filter fun e => e.1 != rd } }

theorem find_latchHigh (s : State) (rd : Origin) :
    (latchHigh s rd).tmb.halfLatch.find? (fun x => x.1 == rd) = some (rd, s.tmb.now / 2 ^ 32) := by
  simp [latchHigh]

/-- A 32-bit read of the low half latches the high half. -/
theorem readReg_tmbNow_low (h : timeShown s rd = true) :
    readReg s rd 0x20000 4 = (latchHigh s rd, s.tmb.now % 2 ^ 32) := by
  have hlow : lowWord s rd 0x20000 = none := lowWord_tmbNow s rd (i := 0) (by decide)
  simp [readReg, hlow, h, latchHigh]

/-- A 32-bit read of the high half gives what its reader latched. -/
theorem readReg_tmbNow_high (h : timeShown s rd = true) {e : Origin × Nat}
    (he : s.tmb.halfLatch.find? (fun x => x.1 == rd) = some e) : (readReg s rd 0x20004 4).2 = e.2 := by
  have hlow : lowWord s rd 0x20004 = none := lowWord_tmbNow s rd (i := 4) (by decide)
  simp [readReg, hlow, h, he]

/-! ### The command -/

theorem exec_tmbNowLowRead_of_on (hon : s.side.mainOn = true) {t : State} {v : Nat} (hread : readReg s rd 0x20000 4 = (t, v)) :
    exec (.tmbNowLowRead rd) s = .next (emit t (.reply rd 0x20000 (.data v))) := by
  simp [exec, execTmbNowLowRead, hon, hread]

end TmbNow

/-- Settles O50: a 64-bit read joins the register's bytes of one moment, a 32-bit read of the low half latches what the
next read of the high half returns. That a virtual function has no such register is R546, that it reads zero in RECOVERY
R483 (notes/assumptions/45.md). -/
theorem timeReads : Obligations.TimeReads := by
  unfold Obligations.TimeReads
  refine fun s rd hon => ⟨fun hshown => ⟨?whole, ?halves⟩, fun hhidden => ⟨?zero, ?lowZero⟩⟩
  case whole => rw [readReg_tmbNow_whole hshown]
  case halves =>
    refine ⟨_, exec_tmbNowLowRead_of_on hon (readReg_tmbNow_low hshown), rfl, fun v hlatch hv => ?_⟩
    exact readReg_tmbNow_high hv (hlatch ▸ find_latchHigh s rd)
  case zero => rw [readReg_tmbNow_hidden hhidden (by decide)]
  case lowZero => exact ⟨_, exec_tmbNowLowRead_of_on hon (readReg_tmbNow_hidden hhidden (by decide)), rfl⟩

end Sys2Proof.Machine
end

section
/-! PROOFS. The end of a pace window (O7); PACE_LOW clears, the core voltage settles, a time word passes (O8). -/

namespace Sys2Proof.Machine

theorem Keeps.pwr_eq {l : List Block} {s u : State} (h : Keeps l s u) (hl : Block.pwr ∉ l) : u.pwr = s.pwr := by
  obtain ⟨⟨_, hpwr, _⟩, _⟩ := h
  exact hpwr hl

theorem Keeps.side_eq {l : List Block} {s u : State} (h : Keeps l s u) (hl : Block.side ∉ l) : u.side = s.side := by
  obtain ⟨⟨_, _, _, _, _, _, _, _, _, _, _, _, _, _, hside⟩, _⟩ := h
  exact hside hl

/-! ### What the regulators go by, through a window's stalls -/

/-- What the dies' regulators go by: the dies' power states and the envelope in force (R36, R514). -/
def regulation (s : State) : Tab DiePwr × Envelope := (s.pwr.dies, envNow s)

theorem dieOf_of_regulation {s u : State} (h : regulation u = regulation s) (d : Nat) : dieOf u d = dieOf s d :=
  congrArg (fun r : Tab DiePwr × Envelope => tabGet r.1 d DiePwr.init) h

theorem envNow_of_regulation {s u : State} (h : regulation u = regulation s) : envNow u = envNow s := congrArg Prod.snd h

theorem Keeps.regulation_eq {l : List Block} {s u : State} (h : Keeps l s u) (hpwr : Block.pwr ∉ l) (hside : Block.side ∉ l) :
    regulation u = regulation s := by
  unfold regulation envNow throttleOn
  rw [h.pwr_eq hpwr, h.side_eq hside]

/-- A session's end changes only the tile's delay lines among the power states (R42). -/
theorem endSession_regulation (s : State) (t : Nat) : regulation (endSession s t) = regulation s :=
  foldl_same regulation (f := fun s p => modPart s p fun q => { q with gap := if q.gap = some t then none else q.gap })
    (fun _ _ => rfl) ..

theorem stallSession_regulation (s : State) (t : Nat) : regulation (stallSession s t) = regulation s :=
  ((fenceUnit_keeps ..).regulation_eq (by decide) (by decide)).trans
    (((pushErr_keeps ..).regulation_eq (by decide) (by decide)).trans (endSession_regulation s t))

/-- A fault counted against a unit leaves the regulators alone, where its record does. -/
theorem countFault_regulation {f : State → State} (hf : ∀ s, Keeps [.hif, .log, .ras] s (f s)) (s : State) (u : UnitId) :
    regulation (countFault s u f) = regulation s :=
  (countFault_keeps (l := [.tiles, .mem, .cmp, .parts, .slots, .hif, .log, .lnk, .ras]) (fun _ h => h)
    (fun s => (hf s).mono' (by decide)) Keeps.rfl').regulation_eq (by decide) (by decide)

/-- A stalled tile's fault reaches its tile, its partition and its unit, not the regulators (R33). -/
theorem stallTile_regulation (s : State) (t : Nat) : regulation (stallTile s t) = regulation s := by
  unfold stallTile
  dsimp only
  split
  · rw [stallSession_regulation, countFault_regulation fun _ => tileErr_keeps ..]
    rfl
  · rw [(abandonStep_keeps ..).regulation_eq (by decide) (by decide), countFault_regulation fun _ => tileErr_keeps ..]
    rfl

theorem unitWindowEnd_regulation (s : State) (d i : Nat) (n : Stages) : regulation (unitWindowEnd s d i n) = regulation s := by
  unfold unitWindowEnd
  dsimp only
  split
  · exact stallTile_regulation ..
  · rfl

/-! ### What a window's end publishes -/

/-- A die after its window: the least and mean of the paces published, the regulator stepped to a target (R32, R36). -/
def publish (x : DiePwr) (paces : List Nat) (target : Nat) : DiePwr :=
  { x with paceMin := leastPace paces, paceMean := meanPace paces, target := target,
           vset := regulate x.vset target (leastPace paces) (vLimitOf x) }

/-- No regulator goes below 550 mV (R36). -/
theorem le_regulate (v target paceMin vLimit : Nat) : 550 ≤ regulate v target paceMin vLimit := Nat.le_max_left ..

/-- A partition's PACE_LOW changes no die. -/
theorem dieOf_paceLow (s : State) (p : Nat) (u : UnitId) (detail : List Nat) (d : Nat) :
    dieOf (paceLow s p u detail) d = dieOf s d := by
  simp only [dieOf, (paceLow_keeps s p u detail).pwr_eq (by decide)]

/-- The paces of what serves on a die, by a window's counts (R32). -/
def servingPaces (s : State) (d : Nat) (turns : List Stages) : List Nat :=
  (((List.range (senseUnits d)).map fun i => (i, turns.getD i ⟨0, 0, 0, 0⟩)).filter fun w => paceServing s d w.1).map
    fun w => toPace (stagesLow w.2)

/-- What the regulator of a die steps to: its own target, an XD die's the least of the envelope in force (R36, R554). -/
def windowTarget (s : State) (d : Nat) : Nat := if d < 16 then (dieOf s d).target else envMinTarget (envNow s)

/-- A powered die publishes its window and steps its regulator; what else it changes is its run of good windows (R39). -/
theorem exec_paceWindowEnd_of_powered {die : Fin 20} {s : State} (hp : (dieOf s die).powered = true) (turns : List Stages) :
    ∃ u run, exec (.paceWindowEnd die turns) s = .next u ∧ dieOf u die =
      { publish (dieOf s die) (servingPaces s die turns) (windowTarget s die) with goodRun := run } := by
  simp only [exec, execPaceWindowEnd, hp, Bool.not_true, Bool.false_eq_true, if_false]
  generalize hs1 : List.foldl (fun s w => unitWindowEnd s _ _ _) s _ = s1
  have hreg : regulation s1 = regulation s := hs1 ▸ foldl_same regulation (fun s w => unitWindowEnd_regulation s ..) _ s
  generalize hs2 : modDie s1 _ _ = s2
  have hdie : dieOf s2 die = publish (dieOf s die) (servingPaces s die turns) (windowTarget s die) := by
    rw [← hs2, dieOf_modDie_same, dieOf_of_regulation hreg, envNow_of_regulation hreg]
    rfl
  rw [← hdie]
  split
  · exact ⟨_, _, rfl, dieOf_modDie_same ..⟩
  · refine ⟨_, 0, rfl, ?_⟩
    rw [foldl_same (dieOf · die) (fun s p => dieOf_paceLow s p ..)]
    exact dieOf_modDie_same s2 die fun x => { x with goodRun := 0 }

/-- Settles O7: the window's stalls leave the regulators alone (`unitWindowEnd_regulation`), so what a die publishes and where
its regulator steps follow from the state before (`exec_paceWindowEnd_of_powered`). The target of an XD die is R554's, the
envelope in force R514's; paces round down (notes/assumptions/11.md). -/
theorem paceWindow : Obligations.PaceWindow := by
  unfold Obligations.PaceWindow
  intro die turns s hp
  obtain ⟨u, run, hu, hdie⟩ := exec_paceWindowEnd_of_powered hp turns
  refine ⟨u, hu, ?_⟩
  beta_reduce
  rw [hdie]
  exact ⟨rfl, rfl, le_regulate .., rfl⟩

/-! ### PACE_LOW clears (R39, R40) -/

theorem pushErr_recorded {s : State} (ho : QueueOpen s) (c : RecCode) (a : ErrArgs) : Recorded s (pushErr s c a) c a.detail := by
  obtain ⟨r, hr, hc, hd⟩ := pushErr_of_open ho c a
  exact ⟨r, by rw [hr]; rfl, hc, hd⟩

theorem pushErr_modPart_recorded {s : State} (ho : QueueOpen s) (p : Nat) (f : Part → Part) (c : RecCode) (a : ErrArgs) :
    Recorded s (pushErr (modPart s p f) c a) c a.detail :=
  pushErr_recorded (s := modPart s p f) ho c a

theorem exec_paceLowClear_of_good {p : Fin 8} {s : State} (hlow : (partOf s p).paceLow = true)
    (hgood : ∀ d ∈ diesOf (partOf s p) ++ [16 + (partOf s p).soInst], (d < 16 → isFenced s (dieUnit d) = false) →
      16 ≤ (dieOf s d).goodRun) :
    exec (.paceLowClear p) s = .next (pushErr (modPart s p fun x => { x with paceLow := false }) .paceLow
      { part := p, event := 0x30, detail := [p, 1] }) := by
  have hall : (((diesOf (partOf s p) ++ [16 + (partOf s p).soInst]).filter fun d =>
      !(decide (d < 16) && isFenced s (dieUnit d))).all fun d => decide (16 ≤ (dieOf s d).goodRun)) = true := by
    refine List.all_eq_true.2 fun d hd => decide_eq_true ?_
    obtain ⟨hmem, hserves⟩ := List.mem_filter.1 hd
    exact hgood d hmem (by simpa [imp_iff_not_or] using hserves)
  simp only [exec, execPaceLowClear, hlow, hall, Bool.and_self, if_true]

/-! ### A time word (R45 to R47) -/

/-- A table written with one value at every place of a list reads that value at each. -/
theorem tabGet_foldl_tabSet {α : Type} [DecidableEq α] (d v : α) (ks : List Nat) (t : Tab α) {i : Nat}
    (h : i ∈ ks ∨ tabGet t i d = v) : tabGet (ks.foldl (fun t k => tabSet t k v d) t) i d = v := by
  induction ks generalizing t with
  | nil => exact h.resolve_left List.not_mem_nil
  | cons k r ih =>
    refine ih (tabSet t k v d) ?_
    by_cases hi : i = k
    · exact .inr (by rw [hi, tabGet_set_same])
    · rw [tabGet_set_other _ _ _ _ _ hi]
      exact h.imp_left fun hm => (List.mem_cons.1 hm).resolve_left hi

/-- Every follower reads the count (R46). -/
theorem follower_syncFollowers (s : State) {d : Nat} (hd : d < 20) :
    tabGet (syncFollowers s).tmb.followers d 0 = (syncFollowers s).tmb.now := by
  simp only [syncFollowers]
  exact tabGet_foldl_tabSet 0 s.tmb.now _ _ (.inl (List.mem_range.2 hd))

theorem now_syncFollowers (s : State) : (syncFollowers s).tmb.now = s.tmb.now := by
  simp only [syncFollowers]

/-- The count goes on by the oscillator's time at the present rate, whole nanoseconds of it (R45, R47). -/
theorem now_tick (s : State) (n : Nat) : (tick s n).tmb.now =
    s.tmb.now + (n * (1000000000 + s.tmb.ratePpb) + s.tmb.frac).toNat / 1000000000 := rfl

theorem exec_timeWord_of_on {s : State} (hon : s.side.mainOn = true) : exec .timeWord s = .next (syncFollowers (tick s 1024)) := by
  simp [exec, execTimeWord, hon]

theorem dieOf_voltageSettled {die : Fin 20} {s : State} (hp : (dieOf s die).powered = true) :
    ∃ u, exec (.voltageSettled die) s = .next u ∧ dieOf u die = { dieOf s die with vcore := (dieOf s die).vset } :=
  ⟨_, rfl, by rw [dieOf_modDie_same, if_pos hp]⟩

/-- Settles O8, by one lemma a command. The XD die among those of PACE_LOW is R40's; that a fenced die does not count is the
model's reading of R39; that a time word is 1,024 ns is the model's choice (notes/assumptions/4.md). -/
theorem paceAndTime : Obligations.PaceAndTime := by
  unfold Obligations.PaceAndTime
  refine fun s => ⟨?clears, ?settles, ?word, ?lowRead⟩
  case clears =>
    intro p hlow ho hgood
    refine ⟨_, exec_paceLowClear_of_good hlow hgood, ?_, pushErr_modPart_recorded ho ..⟩
    rw [partOf_pushErr, partOf_modPart_same]
  case settles =>
    intro die hp
    obtain ⟨u, hu, hdie⟩ := dieOf_voltageSettled hp
    exact ⟨u, hu, (congrArg DiePwr.vcore hdie :), (congrArg DiePwr.vset hdie :)⟩
  case word =>
    refine fun hon => ⟨_, exec_timeWord_of_on hon, ?_, fun d hd => follower_syncFollowers _ hd⟩
    rw [now_syncFollowers, now_tick, Nat.cast_ofNat]
  case lowRead =>
    intro rd hon hshown
    exact ⟨_, exec_tmbNowLowRead_of_on hon (readReg_tmbNow_low hshown), rfl, rfl, find_latchHigh s rd⟩

end Sys2Proof.Machine
end

section
/-! PROOFS. What reading, ring and SPDM commands leave alone (O59). -/

namespace Sys2Proof.Machine

/-! ### The part of the state that a quiet command may not touch -/

/-- What reading, ring and SPDM commands leave alone: all blocks but requests, host interface, logs and links; of the
timebase all but the readers' latches, of the fault state all but ALERT, of security the fuses, of a partition its step and
its pages. -/
structure Still where
  tiles   : Tab Tile
  mem     : Mem
  exps    : Exps
  boot    : Boot
  side    : Side
  pwr     : Pwr
  tmb     : Tmb
  ras     : Ras
  cmp     : Cmp
  revoked : Nat
  ctrs    : Tab Nat
  pending : List Instr
  parts   : Nat → Option Step × Tab Page

/-- That part of a state. -/
def still (s : State) : Still :=
  { tiles := s.tiles, mem := s.mem, exps := s.exps, boot := s.boot, side := s.side, pwr := s.pwr,
    tmb := { s.tmb with halfLatch := [] }, ras := { s.ras with alert := false }, cmp := s.cmp, revoked := s.sec.revoked,
    ctrs := s.sec.ctrs, pending := s.pending, parts := fun p => ((partOf s p).exec, (partOf s p).pages) }

/-- What keeps every block but requests, host interface, logs and links leaves that part alone. -/
theorem Keeps.still_eq {l : List Block} {s u : State} (h : Keeps l s u) (hl : ∀ b ∈ l, b ∈ [Block.slots, .hif, .log, .lnk]) :
    still u = still s := by
  obtain ⟨⟨htmb, hpwr, htiles, hmem, hexps, hcmp, hparts, _, _, _, _, hras, hboot, hsec, hside⟩, hpending⟩ := h.mono' hl
  simp only [still, partOf, htmb (by decide), hpwr (by decide), htiles (by decide), hmem (by decide), hexps (by decide),
    hcmp (by decide), hparts (by decide), hras (by decide), hboot (by decide), hsec (by decide), hside (by decide), hpending]

/-- A change of a partition that leaves its step and its pages. -/
theorem still_modPart {s : State} {p : Nat} {f : Part → Part} (hexec : (f (partOf s p)).exec = (partOf s p).exec)
    (hpages : (f (partOf s p)).pages = (partOf s p).pages) : still (modPart s p f) = still s := by
  have hparts : ∀ q, ((partOf (modPart s p f) q).exec, (partOf (modPart s p f) q).pages) =
      ((partOf s q).exec, (partOf s q).pages) :=
    partOf_modPart_field (fun x => (x.exec, x.pages)) (by rw [hexec, hpages])
  simp [still, hparts]

/-- A security state with the same fuses. -/
theorem still_sec {s : State} {c : Sec} (hrevoked : c.revoked = s.sec.revoked) (hctrs : c.ctrs = s.sec.ctrs) :
    still { s with sec := c } = still s := by
  simp [still, hrevoked, hctrs, partOf]

/-! ### Records, answers and token output -/

@[simp] theorem still_emit (s : State) (o : Out) : still (emit s o) = still s := rfl
@[simp] theorem still_modRing (s : State) (p r : Nat) (f : Ring → Ring) : still (modRing s p r f) = still s := rfl
@[simp] theorem still_modFn (s : State) (k : Nat) (f : Fn → Fn) : still (modFn s k f) = still s := rfl
@[simp] theorem still_setSlot (s : State) (n : Nat) (x : Slot) : still (setSlot s n x) = still s := rfl
@[simp] theorem still_modSlot (s : State) (n : Nat) (f : Slot → Slot) : still (modSlot s n f) = still s := rfl
@[simp] theorem still_queueErr (s : State) (e : ErrRec) : still (queueErr s e) = still s := rfl

@[simp] theorem still_fire (s : State) (k v : Nat) : still (fire s k v) = still s :=
  (fire_keeps s k v).still_eq (by decide)

@[simp] theorem still_ledger (s : State) (o : Origin) (a : LedgerArgs) : still (ledger s o a) = still s :=
  (ledger_keeps s o a).still_eq (by decide)

@[simp] theorem still_journal (s : State) (j : JSrc) (k : Nat) (st : Status) (d : Nat) : still (journal s j k st d) = still s :=
  (journal_keeps s j k st d).still_eq (by decide)

@[simp] theorem still_takeCmd (s : State) (x : Src) (cmd : Nat) : still (takeCmd s x cmd).s = still s :=
  (takeCmd_keeps s x cmd).still_eq (by decide)

@[simp] theorem still_startCmd (s : State) (x : Src) (cmd : Nat) : still (startCmd s x cmd) = still s :=
  (startCmd_keeps s x cmd).still_eq (by decide)

@[simp] theorem still_ringPut (s : State) (p r : Nat) (bs : List Byte) (f : Ring → Ring) : still (ringPut s p r bs f) = still s :=
  (ringPut_keeps s p r bs f).still_eq (by decide)

/-- A record written raises ALERT at most. -/
@[simp] theorem still_writeErr (s : State) (e : ErrRec) : still (writeErr s e) = still s := by
  unfold writeErr
  dsimp only
  split
  · rfl
  · split
    · rw [still_emit, still_fire]; rfl
    · rw [still_fire]; rfl

@[simp] theorem still_drainErrs (n : Nat) (s : State) : still (drainErrs n s) = still s :=
  foldl_same still still_writeErr _ _

@[simp] theorem still_flushErrs (s : State) : still (flushErrs s) = still s := still_drainErrs ..

@[simp] theorem still_pushErr (s : State) (c : RecCode) (a : ErrArgs) : still (pushErr s c a) = still s := by
  unfold pushErr
  dsimp only
  split
  · rfl
  · rw [still_queueErr, still_drainErrs]

@[simp] theorem still_cplPut (s : State) (p : Nat) (c : Cpl) : still (cplPut s p c) = still s := by
  simp [cplPut]

@[simp] theorem still_outPut (s : State) (p : Nat) (r : OutRec) : still (outPut s p r) = still s := by
  simp [outPut]

@[simp] theorem still_relayOut (s : State) (m vc ring : Nat) (bs : List Byte) : still (relayOut s m vc ring bs) = still s := by
  unfold relayOut
  dsimp only
  split
  · simp
  · exact still_flushErrs s

@[simp] theorem still_postCmdCpl (s : State) (p : Nat) (c : Cpl) : still (postCmdCpl s p c) = still s := by
  unfold postCmdCpl
  split
  · exact still_cplPut ..
  · exact still_modPart rfl rfl

@[simp] theorem still_postFor (s : State) (x : Src) (c : Cpl) : still (postFor s x c) = still s := by
  unfold postFor
  split
  · exact still_relayOut ..
  · exact still_postCmdCpl ..

@[simp] theorem still_mbxAnswer (s : State) (f : Nat) (c : Cpl) : still (mbxAnswer s f c) = still s := by
  unfold mbxAnswer
  split
  · rfl
  · simp

@[simp] theorem still_answer (s : State) (x : Src) (c : Cpl) : still (answer s x c) = still s := by
  unfold answer
  split
  · split
    · exact still_relayOut ..
    · exact still_mbxAnswer ..
  · exact still_postFor ..

@[simp] theorem still_postSlotCpl (s : State) (n : Nat) (c : Cpl) : still (postSlotCpl s n c) = still s := by
  unfold postSlotCpl
  dsimp only
  split
  · exact still_relayOut ..
  · split
    · exact still_cplPut ..
    · split
      · rfl
      · rfl
      · split <;> rfl

@[simp] theorem still_postFinal (s : State) (n : Nat) : still (postFinal s n) = still s := by
  unfold postFinal
  dsimp only
  split
  · rw [still_postSlotCpl, still_setSlot, still_journal]
  · rfl

/-! ### The course of a command -/

@[simp] theorem still_endCmd (s : State) (x : Src) (cmd : Nat) (st : Status) (r : Nat) : still (endCmd s x cmd st r) = still s := by
  simp [endCmd]

@[simp] theorem still_finishCmd (s : State) (x : Src) (cmd : Nat) (st : Status) (r : Nat) :
    still (finishCmd s x cmd st r) = still s := by
  unfold finishCmd
  rw [still_endCmd]
  split
  · exact still_startCmd ..
  · rfl

@[simp] theorem still_refuseCmd (s : State) (x : Src) (cmd : Nat) (st : Status) (c : RecCode) (d : List Nat) :
    still (refuseCmd s x cmd st c d) = still s := by
  simp [refuseCmd]

@[simp] theorem still_acceptCmd (s : State) (x : Src) (cmd jseq : Nat) : still (acceptCmd s x cmd jseq) = still s := by
  simp [acceptCmd]

@[simp] theorem still_finishLater (s : State) (x : Src) (cmd : Nat) (st : Status) (r : Nat) :
    still (finishLater s x cmd st r) = still s := by
  simp [finishLater]

/-- A command is quiet where its meaning is: taking and refusing it are. -/
theorem still_withCmd {f : State → Nat → State} (hf : ∀ s j, still (f s j) = still s) (s : State) (x : Src) (cmd : Nat)
    (checks : State → Option No) : still (withCmd s x cmd checks f) = still s := by
  unfold withCmd
  dsimp only
  split
  · simp
  · exact (hf ..).trans (still_takeCmd ..)

/-! ### Reads of the logs -/

@[simp] theorem still_readDone (s : State) (x : Src) (jseq addr : Nat) (es : List (List Byte)) :
    still (readDone s x jseq addr es) = still s := by
  unfold readDone
  dsimp only
  split <;> split <;> simp

theorem still_runRead (s : State) (x : Src) (count addr : Nat) (sel : State → Nat → Nat → Option (List (List Byte))) :
    still (runRead s x count addr sel) = still s := by
  unfold runRead
  dsimp only
  split
  · simp
  · split <;> simp

/-! ### Held output of a ring -/

@[simp] theorem still_lateCheck (s : State) (n t : Nat) : still (lateCheck s n t) = still s := by
  unfold lateCheck
  dsimp only
  split
  · exact (still_pushErr ..).trans (still_modPart rfl rfl)
  · rfl

@[simp] theorem still_noteFull (s : State) (p : Nat) : still (noteFull s p) = still s := by
  unfold noteFull
  split
  · exact (still_pushErr ..).trans (still_modPart rfl rfl)
  · rfl

@[simp] theorem still_tokenWrite (s : State) (n : Nat) (r : OutRec) (ready : Nat) : still (tokenWrite s n r ready) = still s := by
  simp [tokenWrite]

@[simp] theorem still_drainSlot (f : Nat) (s : State) (n : Nat) : still (drainSlot f s n) = still s := by
  induction f generalizing s with
  | zero => rfl
  | succ f ih =>
    unfold drainSlot
    split
    · rfl
    · split
      · simp [ih]
      · rfl

@[simp] theorem still_drainRelayed (f : Nat) (s : State) (p : Nat) : still (drainRelayed f s p) = still s := by
  induction f generalizing s with
  | zero => rfl
  | succ f ih =>
    unfold drainRelayed
    split
    · rfl
    · split
      · rw [ih, still_noteFull, still_outPut]
        exact still_modPart rfl rfl
      · rfl

@[simp] theorem still_handoffDue (s : State) (n : Nat) : still (handoffDue s n) = still s := still_modSlot ..

@[simp] theorem still_drainTokens (s : State) (p : Nat) : still (drainTokens s p) = still s := by
  unfold drainTokens
  dsimp only
  rw [foldl_same still (fun s n => by simp), still_drainRelayed]
  split
  · exact still_modPart rfl rfl
  · rfl

@[simp] theorem still_unhold (s : State) (p : Nat) (h : Nat × Nat × Cpl) : still (unhold s p h) = still s := by
  unfold unhold
  split
  · rfl
  · rfl
  · rfl
  · exact still_modPart rfl rfl

@[simp] theorem still_drainCpls (s : State) (p : Nat) : still (drainCpls s p) = still s := by
  refine foldl_same still (fun s h => ?_) _ s
  split
  · simp
  · rfl

@[simp] theorem still_drainRing (s : State) (p r : Nat) : still (drainRing s p r) = still s := by
  unfold drainRing
  split
  · exact still_drainCpls ..
  · split
    · exact still_drainTokens ..
    · rfl

/-! ### Rings -/

@[simp] theorem still_ringLedger (s : State) (x : Src) (r old new act : Nat) (st : Status) :
    still (ringLedger s x r old new act st) = still s := still_ledger ..

@[simp] theorem still_attachRing (s : State) (x : Src) (r log2 base wb mc mt : Nat) (f : Ring → Ring) :
    still (attachRing s x r log2 base wb mc mt f) = still s := by
  simp [attachRing]

@[simp] theorem still_rewriteKept (s : State) (p r : Nat) : still (rewriteKept s p r) = still s := by
  unfold rewriteKept
  dsimp only
  rw [still_modRing]
  exact foldl_same still (fun _ _ => still_emit ..) _ s

/-! ### SPDM -/

@[simp] theorem still_setConn (s : State) (t : Transport) (c : Conn) : still (setConn s t c) = still s := by
  cases t <;> exact still_sec rfl rfl

@[simp] theorem still_spdmSay (s : State) (t : Transport) (code : Nat) (body : List Nat) (stage : Nat) (req : List Nat) :
    still (spdmSay s t code body stage req) = still s := by
  simp [spdmSay]

@[simp] theorem still_spdmErr (s : State) (t : Transport) (e : Nat) : still (spdmErr s t e) = still s := by
  simp [spdmErr]

theorem still_spdmGuard {f : State → State} {s : State} (hf : still (f s) = still s) (t : Transport) (k : Nat) :
    still (spdmGuard s t k f) = still s := by
  unfold spdmGuard
  split
  · rfl
  · split
    · exact still_spdmErr ..
    · split
      · exact still_spdmErr ..
      · exact hf

@[simp] theorem still_spdmSigned (s : State) (t : Transport) (code : Nat) (req body : List Nat) :
    still (spdmSigned s t code req body) = still s := by
  unfold spdmSigned
  split
  · exact still_spdmErr ..
  · exact (still_spdmSay ..).trans (still_sec rfl rfl)

@[simp] theorem still_getVersion (s : State) (t : Transport) : still (getVersion s t) = still s :=
  still_spdmGuard (by simp) ..

@[simp] theorem still_getCaps (s : State) (t : Transport) : still (getCaps s t) = still s := still_spdmGuard (by simp) ..

@[simp] theorem still_negotiate (s : State) (t : Transport) (ok : Bool) : still (negotiate s t ok) = still s :=
  still_spdmGuard (by split <;> simp) ..

@[simp] theorem still_getDigests (s : State) (t : Transport) : still (getDigests s t) = still s := still_spdmGuard (by simp) ..

@[simp] theorem still_getCert (s : State) (t : Transport) (slot : Nat) : still (getCert s t slot) = still s :=
  still_spdmGuard (by split <;> simp) ..

@[simp] theorem still_challenge (s : State) (t : Transport) (slot nonce : Nat) : still (challenge s t slot nonce) = still s :=
  still_spdmGuard (by split <;> simp) ..

@[simp] theorem still_getMeas (s : State) (t : Transport) (index nonce : Nat) : still (getMeas s t index nonce) = still s :=
  still_spdmGuard (by simp [apply_ite still]) ..

@[simp] theorem still_spdmOther (s : State) (t : Transport) (code : Nat) : still (spdmOther s t code) = still s :=
  still_spdmGuard (by simp) ..

@[simp] theorem still_spdmAsk (s : State) (t : Transport) (q : Spdm) : still (spdmAsk s t q) = still s := by
  cases q <;> simp [spdmAsk]

/-! ### A read of the timebase -/

/-- A read of TMB_NOW's low half latches at most, for its reader (R48). -/
theorem still_readReg_tmbNow_low (s : State) (rd : Origin) : still (readReg s rd 0x20000 4).1 = still s := by
  cases h : timeShown s rd with
  | true => rw [readReg_tmbNow_low h]; rfl
  | false => rw [readReg_tmbNow_hidden h (by decide)]

/-! ### The commands -/

/-- The outcome is a next state in which that part stands as before. -/
def LeavesStill (s : State) (r : Res) : Prop := ∃ u, r = .next u ∧ still u = still s

theorem LeavesStill.next {s u : State} (h : still u = still s) : LeavesStill s (.next u) := ⟨u, rfl, h⟩

theorem LeavesStill.ite {s : State} {c : Prop} {d : Decidable c} {a b : Res} (h : LeavesStill s a) (k : LeavesStill s b) :
    LeavesStill s (if c then a else b) := by
  split
  · exact h
  · exact k

theorem execJtagInstruction_still (ir : Nat) (s : State) : LeavesStill s (execJtagInstruction ir s) := by
  have hdebug : still { s with sec := { s.sec with lastDebug := some (nowNs s) } } = still s := still_sec rfl rfl
  exact .ite (.next rfl) (.ite (.next rfl) (.next ((still_pushErr ..).trans hdebug)))

theorem execDoeAbort_still (t : Transport) (s : State) : LeavesStill s (execDoeAbort t s) := by
  cases t with
  | doe => exact .next (still_setConn ..)
  | mctp => exact .next rfl

/-- A quiet command leaves that part alone. -/
theorem exec_still_of_quiet {c : Instr} (hq : quiet c = true) (s : State) : LeavesStill s (exec c s) := by
  cases c with
  | tmbNowLowRead rd => exact .ite (.next rfl) (.next ((still_emit ..).trans (still_readReg_tmbNow_low ..)))
  | ringAttach | ringAttachKeep | ringDetach | ringPause | ringResume =>
    exact .next (still_withCmd (fun s j => by simp) ..)
  | readJournal | readLedger | readDlq | readStepRecords | readErrors => exact .next (still_runRead ..)
  | getVersion => exact .next (still_getVersion ..)
  | getCapabilities => exact .next (still_getCaps ..)
  | negotiateAlgorithms => exact .next (still_negotiate ..)
  | getDigests => exact .next (still_getDigests ..)
  | getCertificate => exact .next (still_getCert ..)
  | challenge => exact .next (still_challenge ..)
  | getMeasurements => exact .next (still_getMeas ..)
  | spdmUnsupported => exact .next (still_spdmOther ..)
  | mctpPacket => exact .ite (.next rfl) (.next (still_spdmAsk ..))
  | doeAbort => exact execDoeAbort_still ..
  | ledgerSelWrite => exact .ite (.next rfl) (.next rfl)
  | rngHealthFail => exact .ite (.next rfl) (.next ((still_pushErr ..).trans (still_sec rfl rfl)))
  | rngHealthPass => exact .ite (.next rfl) (.next (still_sec rfl rfl))
  | jtagInstruction => exact execJtagInstruction_still ..
  | _ => cases hq

/-- Settles O59: what a quiet command leaves alone is one part of the state, `still`, which each operation it is made of
leaves as it was (`exec_still_of_quiet`). -/
theorem quietFrame : Obligations.QuietFrame := by
  unfold Obligations.QuietFrame
  intro c s u hq hx
  obtain ⟨t, ht, hstill⟩ := exec_still_of_quiet hq s
  obtain rfl : t = u := by simpa [ht] using hx
  obtain ⟨htiles, hmem, hexps, hboot, hside, hpwr, htmb, hras, hcmp, hrevoked, hctrs, hpending, hparts⟩ :=
    Still.mk.inj hstill
  refine ⟨htiles, hmem, hexps, hboot, hside, hpwr, ?_, ?_, hcmp, hrevoked, hctrs, hpending, fun p => ?_⟩
  · exact congrArg (fun b : Tmb => { b with halfLatch := s.tmb.halfLatch }) htmb
  · exact congrArg (fun b : Ras => { b with alert := s.ras.alert }) hras
  · exact Prod.mk.inj (congrFun hparts p)

end Sys2Proof.Machine
end

section
/-! PROOFS. Trit codes, the table walk, and lookups (O46, O48, O49). -/

namespace Sys2Proof.Machine

/-! ### Sums of trits with five activations -/

/-- The sum of five activations under coefficients `c`: with the trits of a code, what a lookup of it is to give. -/
def weightedSum (a : List Int) (c : Nat → Int) : Int := ((List.range 5).map fun i => c i * a.getD i 0).sum

theorem weightedSum_congr {c c' : Nat → Int} (h : ∀ i < 5, c i = c' i) (a : List Int) :
    weightedSum a c = weightedSum a c' := by
  unfold weightedSum
  exact congrArg List.sum (List.map_congr_left fun i hi => by rw [h i (List.mem_range.mp hi)])

@[simp] theorem weightedSum_zero (a : List Int) : weightedSum a 0 = 0 := by simp [weightedSum]

@[simp] theorem weightedSum_neg (a : List Int) (c : Nat → Int) : weightedSum a (-c) = -weightedSum a c := by
  simp [weightedSum, List.sum_neg, Function.comp_def]

@[simp] theorem weightedSum_first (a : List Int) : weightedSum a (Pi.single 0 1) = a.getD 0 0 := by
  simp [weightedSum, List.range_succ]

/-- One coefficient changed by `d`. -/
def addTrit (c : Nat → Int) (d : Int) (i : Nat) : Nat → Int := fun k => if k = i then c k + d else c k

/-- Changing one trit is one add of the walk (R79). -/
theorem weightedSum_addTrit {a : List Int} (ha : a.length = 5) (c : Nat → Int) (d : Int) (i : Nat) :
    weightedSum a (addTrit c d i) = weightedSum a c + d * a.getD i 0 := by
  by_cases hi : i < 5
  · interval_cases i <;> simp [weightedSum, addTrit, List.range_succ] <;> ring
  · have hpast : a.getD i 0 = 0 := List.getD_eq_default _ _ (by omega)
    rw [hpast, mul_zero, add_zero]
    exact weightedSum_congr (fun k hk => if_neg (by omega)) a

theorem trit_mul_int8_bounds {x y : Int} (hx : -128 ≤ x ∧ x ≤ 127) (hy : -1 ≤ y ∧ y ≤ 1) :
    -128 ≤ y * x ∧ y * x ≤ 128 := by
  obtain ⟨hlo, hhi⟩ := hy
  interval_cases y <;> omega

/-- Five products of trits with INT8 activations sum to at most 640 in magnitude (R54). -/
theorem sum_bounds_of_five_products {l : List Int} (hl : l.length = 5) (h : ∀ z ∈ l, -128 ≤ z ∧ z ≤ 128) :
    -640 ≤ l.sum ∧ l.sum ≤ 640 := by
  have hlo := List.card_nsmul_le_sum l (-128) fun z hz => (h z hz).1
  have hhi := List.sum_le_card_nsmul l 128 fun z hz => (h z hz).2
  rw [hl] at hlo hhi
  exact ⟨hlo, hhi⟩

theorem getD_int8_bounds {a : List Int} (ha : ∀ x ∈ a, -128 ≤ x ∧ x ≤ 127) (i : Nat) :
    -128 ≤ a.getD i 0 ∧ a.getD i 0 ≤ 127 := by
  rcases lt_or_ge i a.length with hi | hi
  · rw [List.getD_eq_getElem _ _ hi]
    exact ha _ (List.getElem_mem hi)
  · rw [List.getD_eq_default _ _ hi]
    decide

theorem weightedSum_bounds {a : List Int} (ha : ∀ x ∈ a, -128 ≤ x ∧ x ≤ 127) {c : Nat → Int}
    (hc : ∀ i, -1 ≤ c i ∧ c i ≤ 1) : -640 ≤ weightedSum a c ∧ weightedSum a c ≤ 640 := by
  refine sum_bounds_of_five_products (by simp) fun z hz => ?_
  obtain ⟨i, -, rfl⟩ := List.mem_map.mp hz
  exact trit_mul_int8_bounds (getD_int8_bounds ha i) (hc i)

/-! ### Trits and the fold of codes (R51 to R53) -/

theorem tritOf_bounds (c i : Nat) : -1 ≤ tritOf c i ∧ tritOf c i ≤ 1 := by
  unfold tritOf
  omega

/-- The digits of c and 242 − c add up to 2 in base 3. -/
theorem tritOf_mirror {c i : Nat} (hc : c ≤ 242) (hi : i < 5) : tritOf (242 - c) i = -tritOf c i := by
  unfold tritOf
  interval_cases i <;> omega

/-- Code 121 is its own mirror. -/
theorem tritOf_zero_code {i : Nat} (hi : i < 5) : tritOf 121 i = 0 := by
  have hmirror : tritOf 121 i = -tritOf 121 i := tritOf_mirror (c := 121) (by decide) hi
  omega

@[simp] theorem foldCode_zero_code (z : Nat) : foldCode z z = none := if_pos rfl

theorem foldCode_above {z c : Nat} (h : z < c) : foldCode z c = some (c - z - 1, false) := by
  rw [foldCode, if_neg (by omega), if_pos h]

theorem foldCode_below {z c : Nat} (h : c < z) : foldCode z c = some (z - 1 - c, true) := by
  rw [foldCode, if_neg (by omega), if_neg (by omega)]

/-- Table 3-2: a code is the zero code, or one above it, which reads its own entry, or the mirror of one above it. -/
theorem foldCode_cases {c : Nat} (hc : c ≤ 242) : c = 121 ∨ ∃ j ≤ 120,
    (foldCode 121 c = some (j, false) ∧ c = 122 + j) ∨ (foldCode 121 c = some (j, true) ∧ 242 - c = 122 + j) := by
  rcases lt_trichotomy c 121 with h | h | h
  · exact .inr ⟨121 - 1 - c, by omega, .inr ⟨foldCode_below h, by omega⟩⟩
  · exact .inl h
  · exact .inr ⟨c - 121 - 1, by omega, .inl ⟨foldCode_above h, by omega⟩⟩

/-! ### What a lookup answers, by the fold of its code -/

@[simp] theorem lookupInt_zero_code (tab : List (BitVec 16)) : lookupInt tab 121 = 0 := by
  simp [lookupInt]

theorem lookupInt_of_fold {c j : Nat} {neg : Bool} (h : foldCode 121 c = some (j, neg)) (tab : List (BitVec 16)) :
    lookupInt tab c = if neg then -(tab.getD j 0).toInt else (tab.getD j 0).toInt := by
  simp [lookupInt, h]

/-! ### The walk under a map of its sums

The trits, the directions and the indices of a walk do not depend on its sums, so a map that respects the add takes one walk to
another. -/

section WalkMap

variable {α β : Type} {add : α → Int → Nat → α} {add' : β → Int → Nat → β} {f : α → β}

/-- The walk with a map applied to every sum. -/
def Walk.map (f : α → β) (w : Walk α) : Walk β := ⟨w.t, w.d, f w.s, w.out.map (Prod.map id f)⟩

/-- The walk's start: its first trit +1, the others 0, and the first activation copied (R79). -/
def walkStart (a0 : α) (n : Nat) : Walk α :=
  ⟨(List.range n).map fun i => if i = 0 then 1 else 0, List.replicate n 0, a0,
    [(walkIndex ((List.range n).map fun i => if i = 0 then 1 else 0), a0)]⟩

variable (hf : ∀ s d i, f (add s d i) = add' (f s) d i)
include hf

theorem walkStep_map (w : Walk α) : walkStep add' (w.map f) = (walkStep add w).map f := by
  simp [walkStep, Walk.map, hf]

theorem repeatN_walkStep_map (n : Nat) (w : Walk α) :
    walkBlock.repeatN (walkStep add') n (w.map f) = (walkBlock.repeatN (walkStep add) n w).map f := by
  induction n generalizing w with
  | zero => rfl
  | succ n ih => simp only [walkBlock.repeatN, walkStep_map hf, ih]

theorem walkBlock_map (w : Walk α) (m : Nat) : walkBlock add' (w.map f) m = (walkBlock add w m).map f := by
  rw [walkBlock, walkBlock, ← repeatN_walkStep_map hf]
  simp [Walk.map, hf]

theorem foldl_walkBlock_map (ms : List Nat) (w : Walk α) :
    ms.foldl (fun w m => walkBlock add' w (m + 1)) (w.map f) = (ms.foldl (fun w m => walkBlock add w (m + 1)) w).map f := by
  induction ms generalizing w with
  | nil => rfl
  | cons m ms ih => simp only [List.foldl_cons, walkBlock_map hf, ih]

theorem walkAll_map (a0 : α) (n : Nat) : walkAll add' (f a0) n = (walkAll add a0 n).map (Prod.map id f) :=
  congrArg Walk.out (foldl_walkBlock_map hf (List.range (n - 1)) (walkStart a0 n))

end WalkMap

theorem walkTable_map {α β : Type} (f : α → β) (out : List (Nat × α)) (n : Nat) (d : α) :
    walkTable (out.map (Prod.map id f)) n (f d) = (walkTable out n d).map f := by
  simp [walkTable, List.find?_map, Function.comp_def, ← Option.getD_map f]

/-! ### The integer table (R79, R80) -/

/-- The table of the walk that sums the trits themselves: entry j is the trit vector whose sum the builder stores there. -/
def tritTable : List (Nat → Int) := walkTable (walkAll addTrit (Pi.single 0 1) 5) 121 0

/-- The builder's table is the weighted sum of the activations under each trit vector of the walk. -/
theorem buildInt_eq_map_tritTable {a : List Int} (ha : a.length = 5) : buildInt a = tritTable.map (weightedSum a) := by
  have hwalk := walkAll_map (add' := fun s d i => s + d * a.getD i 0) (weightedSum_addTrit ha) (Pi.single 0 1) 5
  rw [weightedSum_first] at hwalk
  rw [buildInt, hwalk, ← weightedSum_zero a, walkTable_map, tritTable]

/-- The five-trit walk reaches every entry, with the trits of code 122 + j at entry j. No activation stands in it. -/
theorem tritTable_trits : ∀ j < 121, ∀ i < 5, tritTable.getD j 0 i = tritOf (122 + j) i := by decide +kernel

@[simp] theorem walkTable_length {α : Type} (out : List (Nat × α)) (n : Nat) (d : α) : (walkTable out n d).length = n := by
  simp [walkTable]

@[simp] theorem buildInt_length (a : List Int) : (buildInt a).length = 121 := walkTable_length ..

/-- Entry j holds the sum for code 122 + j (R53). -/
theorem buildInt_getD {a : List Int} (ha : a.length = 5) {j : Nat} (hj : j < 121) :
    (buildInt a).getD j 0 = weightedSum a (tritOf (122 + j)) := by
  have hlen : j < tritTable.length := by simpa [tritTable] using hj
  have htrits := tritTable_trits j hj
  rw [List.getD_eq_getElem _ _ hlen] at htrits
  rw [buildInt_eq_map_tritTable ha, List.getD_eq_getElem _ _ (by simpa using hlen), List.getElem_map]
  exact weightedSum_congr htrits a

/-- Every stored entry of INT8 activations is at most 640 in magnitude (R54). -/
theorem buildInt_getD_bounds {a : List Int} (ha : a.length = 5) (hint8 : ∀ x ∈ a, -128 ≤ x ∧ x ≤ 127) {j : Nat} (hj : j < 121) :
    -640 ≤ (buildInt a).getD j 0 ∧ (buildInt a).getD j 0 ≤ 640 := by
  rw [buildInt_getD ha hj]
  exact weightedSum_bounds hint8 (tritOf_bounds _)

/-- The 16-bit word of an entry holds the entry exactly (Table 4-1). -/
theorem cellInt_getD_toInt {a : List Int} (ha : a.length = 5) (hint8 : ∀ x ∈ a, -128 ≤ x ∧ x ≤ 127) {j : Nat} (hj : j < 121) :
    ((cellInt a).getD j 0).toInt = weightedSum a (tritOf (122 + j)) := by
  obtain ⟨hlo, hhi⟩ := buildInt_getD_bounds ha hint8 hj
  have hword : (cellInt a).getD j 0 = BitVec.ofInt 16 ((buildInt a).getD j 0) := by
    simp [cellInt, hj]
  rw [hword, BitVec.toInt_ofInt_eq_self (by decide) (by omega) (by omega), buildInt_getD ha hj]

/-! ### The obligations -/

/-- Settles O46: base-3 digits mirror (`tritOf_mirror`), the fold's three cases, and entry j of the walk's table. -/
theorem foldMirrors : Obligations.FoldMirrors := by
  unfold Obligations.FoldMirrors
  exact ⟨fun c hc i hi => tritOf_mirror hc hi, fun i hi => tritOf_zero_code hi, foldCode_zero_code 121, lookupInt_zero_code,
    fun c hc hne => (foldCode_cases hc).resolve_left hne,
    fun a ha => ⟨buildInt_length a, fun j hj => buildInt_getD ha hj⟩⟩

/-- Settles O48: each product of a trit with an INT8 activation is at most 128 in magnitude, so five sum to at most 640, and a
stored entry is such a sum. -/
theorem tableEntriesFit : Obligations.TableEntriesFit := by
  unfold Obligations.TableEntriesFit
  refine fun a ha hint8 => ⟨fun t ht htrit => ?_, fun z hz => ?_⟩
  · refine sum_bounds_of_five_products (by simp [ht, ha]) fun z hz => ?_
    obtain ⟨i, hi, rfl⟩ := List.mem_iff_getElem.mp hz
    rw [List.getElem_zipWith]
    exact trit_mul_int8_bounds (hint8 _ (List.getElem_mem _)) (htrit _ (List.getElem_mem _))
  · obtain ⟨j, hj, rfl⟩ := List.mem_iff_getElem.mp hz
    have hbounds := buildInt_getD_bounds ha hint8 (buildInt_length a ▸ hj)
    rw [List.getD_eq_getElem _ _ hj] at hbounds
    omega

/-- Settles O49: the zero code adds nothing, a code above it reads its own entry, and a code below it the negated entry of its
mirror, whose trits are opposite. -/
theorem lookupIsDotProduct : Obligations.LookupIsDotProduct := by
  unfold Obligations.LookupIsDotProduct
  intro a ha hint8 c hc
  change lookupInt (cellInt a) c = weightedSum a (tritOf c)
  rcases foldCode_cases hc with rfl | ⟨j, hj, ⟨hfold, rfl⟩ | ⟨hfold, hmirror⟩⟩
  · rw [lookupInt_zero_code, weightedSum_congr (c' := 0) (fun i hi => tritOf_zero_code hi), weightedSum_zero]
  · rw [lookupInt_of_fold hfold, if_neg Bool.false_ne_true, cellInt_getD_toInt ha hint8 (by omega)]
  · have hneg : weightedSum a (tritOf (122 + j)) = -weightedSum a (tritOf c) := by
      rw [← weightedSum_neg, ← hmirror]
      exact weightedSum_congr (fun i hi => tritOf_mirror hc hi) a
    rw [lookupInt_of_fold hfold, if_pos rfl, cellInt_getD_toInt ha hint8 (by omega), hneg, neg_neg]

end Sys2Proof.Machine
end

section
/-! PROOFS. What the blocks of a tile leave alone as they start, feed and settle what is in flight. -/

namespace Sys2Proof.Machine

/-- What every step of a fold leaves alone, the fold leaves alone, whatever it folds. -/
theorem foldl_field {σ α β : Type} (v : σ → β) {f : σ → α → σ} (h : ∀ x a, v (f x a) = v x) (as : List α) (x : σ) :
    v (as.foldl f x) = v x :=
  (List.foldl_hom v (g₂ := fun b _ => b) fun x a => (h x a).symm).symm.trans (List.foldl_fixed ..)

theorem Keeps.tileOf_eq {l : List Block} {s u : State} (h : Keeps l s u) (hl : Block.tiles ∉ l) (t : Nat) :
    tileOf u t = tileOf s t := by
  obtain ⟨⟨_, _, htiles, _⟩, _⟩ := h
  rw [tileOf, htiles hl, tileOf]

/-! ### What a tile's blocks work on, and what they leave alone -/

/-- What no block of a tile changes by starting or feeding its instructions. -/
def Tile.core (x : Tile) : (Nat × Nat × Nat) × List Nat × Bool × Tab AcmRow × Tab BufTag × Tab (List (BitVec 17)) :=
  ((x.pc, x.issued, x.lastIdx), x.poison, x.noticed, x.acm, x.tags, x.tables)

/-- The core, the control processor's state and what is in flight: what rows, buffers, FIFOs, store and cache leave alone. -/
def Tile.control (x : Tile) := (x.core, x.st, x.inflight)

/-- From tile `x` to `y` the blocks have worked: the core stands, no abandonment has begun, and nothing new is in flight. -/
structure Worked (x y : Tile) : Prop where
  core  : y.core = x.core
  st    : y.st = .abandoning → x.st = .abandoning
  infl  : y.inflight.map Infl.tag ⊆ x.inflight.map Infl.tag

theorem Worked.refl (x : Tile) : Worked x x := ⟨rfl, id, List.Subset.refl _⟩

theorem Worked.trans {x y z : Tile} (h : Worked x y) (k : Worked y z) : Worked x z :=
  ⟨k.core.trans h.core, fun hz => h.st (k.st hz), List.Subset.trans k.infl h.infl⟩

theorem Worked.of_control {x y : Tile} (h : y.control = x.control) : Worked x y := by
  obtain ⟨hcore, hst, hinfl⟩ : y.core = x.core ∧ y.st = x.st ∧ y.inflight = x.inflight := by simpa [Tile.control] using h
  exact ⟨hcore, fun hy => hst ▸ hy, hinfl ▸ List.Subset.refl _⟩

theorem Worked.poison {x y : Tile} (h : Worked x y) : y.poison = x.poison := congrArg (fun c => c.2.1) h.core

theorem Worked.noticed {x y : Tile} (h : Worked x y) : y.noticed = x.noticed := congrArg (fun c => c.2.2.1) h.core

/-- A change in flight that keeps the tags. -/
theorem map_tag_listUpd {p : Infl → Bool} {f : Infl → Infl} (h : ∀ i, p i = true → (f i).tag = i.tag) (l : List Infl) :
    (listUpd p f l).map Infl.tag = l.map Infl.tag := by
  rw [listUpd, List.map_map]
  refine List.map_congr_left fun i _ => ?_
  rw [Function.comp_apply]
  split
  · exact h i ‹_›
  · rfl

theorem worked_listUpd {p : Infl → Bool} {f : Infl → Infl} (h : ∀ i, p i = true → (f i).tag = i.tag) (x : Tile) :
    Worked x { x with inflight := listUpd p f x.inflight } :=
  ⟨rfl, id, (map_tag_listUpd h x.inflight) ▸ List.Subset.refl _⟩

theorem worked_filter (p : Infl → Bool) (x : Tile) : Worked x { x with inflight := x.inflight.filter p } :=
  ⟨rfl, id, List.map_subset _ (List.filter_subset_self _)⟩

/-! ### The work of the blocks on a tile -/

theorem control_depositKey (x : Tile) (rows : List Nat) (n : Nat) (key : List Int) :
    (depositKey x rows n key).control = x.control :=
  foldl_field Tile.control (fun _ _ => by rfl) rows x

theorem control_takeKey {x y : Tile} {i : Infl} {n : Nat} {bs : List Byte} (h : takeKey x i n = some (bs, y)) :
    y.control = x.control := by
  unfold takeKey at h
  split at h
  · cases h
  · split at h
    · cases h; rfl
    · split at h
      · cases h
      · cases h
        split <;> rfl

/-- A PV takes keys from the FIFOs, and stays the same instruction. -/
theorem pvTake_takes (fuel : Nat) (x : Tile) (i : Infl) (ks : List (Nat × List Byte)) :
    (pvTake fuel x i ks).1.control = x.control ∧ (pvTake fuel x i ks).2.1.tag = i.tag := by
  induction fuel generalizing x i ks with
  | zero => exact ⟨rfl, rfl⟩
  | succ f ih =>
    unfold pvTake
    split
    · exact ⟨rfl, rfl⟩
    · split
      · exact ⟨rfl, rfl⟩
      · split
        · exact ⟨rfl, rfl⟩
        · next hkey => exact ⟨(ih ..).1.trans (control_takeKey hkey), (ih ..).2⟩

theorem control_pvKeys (s : State) (t m b ma : Nat) (ks : List (Nat × List Byte)) (x : Tile) :
    (ks.foldl (fun x k => (rowsFor s t x m).foldl (fun x r =>
      pvKey x b k.1 r (stWord x (ma * 64 + 32 * k.1 + 4)) (keyInts k.2)) x) x).control = x.control :=
  foldl_field Tile.control (fun _ _ => by exact foldl_field Tile.control (fun _ _ => by rfl) ..) ks x

theorem control_copyLine (x : Tile) (l m n line : Nat) (data : List Byte) : (copyLine x l m n line data).control = x.control :=
  foldl_field Tile.control (fun _ _ => by rfl) _ x

theorem control_cacheTouch (x : Tile) (c : CLine) : (cacheTouch x c).control = x.control := by
  unfold cacheTouch
  split <;> rfl

theorem startCached_worked (x : Tile) (tag l m n : Nat) : Worked x (startCached x tag l m n) := by
  unfold startCached
  refine .trans (.of_control ?_) (worked_listUpd (fun _ _ => by rfl) _)
  refine foldl_field (fun acc : Tile × List Nat => acc.1.control) (fun acc line => ?_) _ (x, [])
  dsimp only
  split
  · exact (control_cacheTouch ..).trans (control_copyLine ..)
  · rfl

theorem control_closeWins (x : Tile) : (closeWins x).control = x.control :=
  foldl_field Tile.control (fun _ _ => by rfl) _ x

/-! ### Records, faults and abandonments at a tile -/

@[simp] theorem tileOf_tileErr (s : State) (t : Nat) (c : RecCode) (st : Status) (opc : Nat) (d : List Nat) (i : Nat) :
    tileOf (tileErr s t c st opc d) i = tileOf s i := tileOf_pushErr ..

@[simp] theorem tileOf_modCounters (s : State) (t : Nat) (f : Counters → Counters) (i : Nat) :
    tileOf (modCounters s t f) i = tileOf s i :=
  (modCounters_keeps s t f).tileOf_eq (by decide) i

/-- From tile `x` to `y` at most a note is made of which records are written. -/
def Noted (x y : Tile) : Prop := ∃ r, y = { x with recOnce := r }

theorem Noted.refl (x : Tile) : Noted x x := ⟨x.recOnce, rfl⟩

theorem Noted.trans {x y z : Tile} (h : Noted x y) (k : Noted y z) : Noted x z := by
  obtain ⟨_, rfl⟩ := h
  obtain ⟨r, rfl⟩ := k
  exact ⟨r, rfl⟩

theorem Noted.worked {x y : Tile} (h : Noted x y) : Worked x y := by
  obtain ⟨_, rfl⟩ := h
  exact .of_control rfl

theorem noted_of_eq {x y : Tile} (h : y = x) : Noted x y := h ▸ .refl y

theorem tileErrOnce_noted (s : State) (t : Nat) (c : RecCode) (opc key : Nat) (d : List Nat) :
    Noted (tileOf s t) (tileOf (tileErrOnce s t c opc key d) t) := by
  unfold tileErrOnce
  dsimp only
  split
  · exact .refl _
  · rw [tileOf_tileErr, tileOf_setTile_same]
    exact ⟨_, rfl⟩

theorem countNonfinite_noted (s : State) (t opc n : Nat) : Noted (tileOf s t) (tileOf (countNonfinite s t opc n) t) := by
  unfold countNonfinite
  split
  · exact .refl _
  · exact .trans (noted_of_eq (tileOf_modCounters ..)) (tileErrOnce_noted ..)

/-- What the notice of an abandonment leaves alone at a tile, the abandonment leaves alone. -/
theorem tileOf_abandonStep_field {β : Type} (v : Tile → β) (h : ∀ x : Tile, v { x with abandonOn := true } = v x) (s : State)
    (p : Nat) (a : Abandon) (i : Nat) : v (tileOf (abandonStep s p a) i) = v (tileOf s i) := by
  unfold abandonStep
  split
  · rfl
  · exact (foldl_same (fun s => v (tileOf s i)) (fun s t => tileOf_modTile_field v (h _) i) _ _).trans
      (congrArg v (tileOf_modPart ..))

/-- What the fault and the notice leave alone at a tile, a program fault leaves alone. -/
theorem tileOf_progFault_field {β : Type} (v : Tile → β) (hon : ∀ x : Tile, v { x with abandonOn := true } = v x) (s : State)
    (t : Nat) (c : RecCode) (st : Status) (opc : Nat) (d : List Nat) :
    v (tileOf (progFault s t c st opc d) t) = v { tileOf s t with faulted := true } := by
  have hmod : tileOf (modTile (tileErr s t c st opc d) t fun x => { x with faulted := true }) t =
      { tileOf s t with faulted := true } := by rw [tileOf_modTile_same, tileOf_tileErr]
  unfold progFault
  dsimp only
  split
  · exact congrArg v hmod
  · refine (tileOf_abandonStep_field v hon ..).trans (congrArg v ?_)
    rw [(markFaulty_keeps ..).tileOf_eq (by decide), hmod]

/-! ### Starting and feeding -/

section Pump
variable {s : State} {t : Nat}

/-- The blocks of tile `t` have worked between two states. -/
abbrev WorkedAt (t : Nat) (s u : State) : Prop := Worked (tileOf s t) (tileOf u t)

theorem workedAt_modTile {f : Tile → Tile} (h : Worked (tileOf s t) (f (tileOf s t))) : WorkedAt t s (modTile s t f) := by
  rwa [WorkedAt, tileOf_modTile_same]

theorem workedAt_setTile {y : Tile} (h : Worked (tileOf s t) y) : WorkedAt t s (setTile s t y) := by
  rwa [WorkedAt, tileOf_setTile_same]

theorem workedAt_of_tileOf_eq {u : State} (h : tileOf u t = tileOf s t) : WorkedAt t s u := by
  rw [WorkedAt, h]
  exact .refl _

theorem workedAt_modInfl {tag : Nat} {f : Infl → Infl} (h : ∀ i, (f i).tag = i.tag) : WorkedAt t s (modInfl s t tag f) :=
  workedAt_modTile (worked_listUpd (fun i _ => h i) _)

theorem undeclared_worked (s : State) (t : Nat) (i : Infl) : WorkedAt t s (undeclared s t i) :=
  .trans (.of_control (tileOf_progFault_field Tile.control (fun _ => rfl) s t ..)) (workedAt_modTile (worked_filter _ _))

/-- With no poisoned granule no read meets one (R189). -/
theorem readsPoison_of_clean {x : Tile} (h : x.poison = []) (as : List Access) : readsPoison x as = false := by
  simp [readsPoison, h]

theorem applyCheck_worked (s : State) (t : Nat) (i : Infl) : WorkedAt t s (applyCheck s t i) := by
  unfold applyCheck
  split
  · rw [WorkedAt, tileOf_setTile_same]
    exact Worked.of_control rfl
  · exact Worked.refl _

theorem startOp_worked (h : (tileOf s t).poison = []) (i : Infl) : WorkedAt t s (startOp s t i) := by
  have hstart : WorkedAt t s (modInfl s t i.tag fun j => { j with started := true }) := workedAt_modInfl fun _ => rfl
  unfold startOp
  simp only [readsPoison_of_clean h, Bool.false_eq_true, if_false]
  split
  · exact undeclared_worked ..
  · refine hstart.trans ?_
    split
    next => exact workedAt_modTile (.of_control (foldl_field Tile.control (fun _ _ => by rfl) ..))
    next => exact applyCheck_worked ..
    next inv _ =>
      have hinv (x : Tile) : Worked x (if inv then dropCache x else x) := by
        split
        · exact .of_control rfl
        · exact .refl _
      refine workedAt_modTile ?_
      split
      · exact (hinv _).trans (startCached_worked ..)
      · exact hinv _
    next =>
      split
      · exact workedAt_modTile (.of_control rfl)
      · exact .refl _
    next => exact workedAt_of_tileOf_eq ((newFlow_keeps ..).tileOf_eq (by decide) t)
    next => exact .refl _

/-- A fold whose every step is work of tile `t`'s blocks, on a tile without poisoned granules. -/
theorem foldl_worked {α : Type} {f : State → α → State} (hf : ∀ s a, (tileOf s t).poison = [] → WorkedAt t s (f s a))
    (as : List α) (h : (tileOf s t).poison = []) : WorkedAt t s (as.foldl f s) := by
  induction as generalizing s with
  | nil => exact .refl _
  | cons a r ih => exact (hf s a h).trans (ih ((hf s a h).poison.trans h))

theorem startReady_worked (h : (tileOf s t).poison = []) : WorkedAt t s (startReady s t) := by
  refine foldl_worked (fun s tag h => ?_) _ h
  split
  · split
    · exact startOp_worked h _
    · exact .refl _
  · exact .refl _

theorem countKey_worked (s : State) (t pos m : Nat) (key : List Int) : WorkedAt t s (countKey s t pos m key) := by
  unfold countKey
  split
  · exact .refl _
  · exact Noted.worked (.trans (noted_of_eq (tileOf_modCounters ..)) (tileErrOnce_noted ..))

theorem pvFeed_worked (s : State) (t : Nat) (i : Infl) : WorkedAt t s (pvFeed s t i) := by
  unfold pvFeed
  split
  · next m b _ _ _ _ ma _ =>
    obtain ⟨hx, hj⟩ := pvTake_takes 64 (tileOf s t) i []
    dsimp only
    refine .trans ?_ (countNonfinite_noted ..).worked
    rw [tileOf_setTile_same]
    exact (Worked.of_control ((control_pvKeys ..).trans hx)).trans
      (worked_listUpd (fun e he => hj.trans (by simpa using he : e.tag = i.tag).symm) _)
  · exact .refl _

theorem qkFeed_worked (fuel : Nat) (s : State) (t tag : Nat) : WorkedAt t s (qkFeed fuel s t tag) := by
  induction fuel generalizing s with
  | zero => exact .refl _
  | succ f ih =>
    unfold qkFeed
    split
    · exact .refl _
    · split
      · split
        · exact .refl _
        · split
          · exact .refl _
          · next hkey =>
            refine Worked.trans ?_ (ih _)
            refine Worked.trans ?_ (countKey_worked ..)
            refine Worked.trans ?_ (workedAt_modInfl fun _ => rfl)
            exact workedAt_setTile (.of_control ((control_depositKey ..).trans (control_takeKey hkey)))
      · exact .refl _

theorem feedRunning_worked (h : (tileOf s t).poison = []) : WorkedAt t s (feedRunning s t) := by
  refine foldl_worked (fun s tag _ => ?_) _ h
  split
  · split
    · exact (pvFeed_worked ..).trans (qkFeed_worked ..)
    · exact .refl _
  · exact .refl _

theorem pump_worked (h : (tileOf s t).poison = []) : WorkedAt t s (pump s t) := by
  have hboth : WorkedAt t s (feedRunning (startReady s t) t) :=
    (startReady_worked h).trans (feedRunning_worked ((startReady_worked h).poison.trans h))
  unfold pump
  split
  · exact hboth
  · exact hboth
  · exact feedRunning_worked h
  · exact .refl _

theorem barArrive_worked (s : State) (t u bar : Nat) : WorkedAt t s (barArrive s u bar) := by
  unfold barArrive
  split
  · exact .refl _
  · exact .of_control (tileOf_modTile_field Tile.control rfl t)

theorem syncPump_worked (s : State) (t : Nat) : WorkedAt t s (syncPump s t) := by
  have hwins := control_closeWins (tileOf s t)
  unfold syncPump
  dsimp only
  split
  · exact .refl _
  · split
    · exact .refl _
    · split
      · rw [WorkedAt, tileOf_setTile_same]
        refine (Worked.of_control hwins).trans ?_
        split
        · exact ⟨rfl, nofun, List.Subset.refl _⟩
        · exact .refl _
      · split
        · refine .trans ?_ (barArrive_worked ..)
          rw [tileOf_setTile_same]
          exact .of_control rfl
        · rw [WorkedAt, tileOf_setTile_same]
          exact ⟨rfl, nofun, List.Subset.refl _⟩

/-! ### Settling -/

/-- The place in the program: next index, instructions issued, last index (R224, R227). -/
def Tile.place (x : Tile) : Nat × Nat × Nat := (x.pc, x.issued, x.lastIdx)

theorem Worked.place {x y : Tile} (h : Worked x y) : y.place = x.place := congrArg Prod.fst h.core

theorem place_modWins (f : Win → Win) (ws : List Nat) (x : Tile) : (ws.foldl (fun x w => modWin x w f) x).place = x.place :=
  foldl_field Tile.place (fun _ _ => by rfl) ws x

theorem place_clearStep (x : Tile) : (dropCache (clearStep x)).place = x.place := by
  simp only [Tile.place, dropCache, clearStep]
  exact place_modWins _ _ x

theorem place_finishAbandon (s : State) (t : Nat) : (tileOf (finishAbandon s t) t).place = (tileOf s t).place := by
  unfold finishAbandon
  dsimp only
  split
  · rw [(report_keeps ..).tileOf_eq (by decide), tileOf_setTile_same, place_clearStep]
  · rfl

theorem place_noticeDue (s : State) (t : Nat) : (tileOf (noticeDue s t) t).place = (tileOf s t).place := by
  unfold noticeDue
  dsimp only
  split
  · refine (place_finishAbandon ..).trans ?_
    rw [tileOf_modTile_same]
    rfl
  · rfl

/-- Settling a tile without poisoned granules issues nothing. -/
theorem place_settle (h : (tileOf s t).poison = []) : (tileOf (settle s t) t).place = (tileOf s t).place :=
  (place_finishAbandon ..).trans <| (place_noticeDue ..).trans ((pump_worked h).trans (syncPump_worked ..)).place

theorem noticeDue_of_not_noticed (h : (tileOf s t).noticed = false) : noticeDue s t = s := by
  simp [noticeDue, h]

theorem finishAbandon_of_not_abandoning (h : (tileOf s t).st ≠ .abandoning) : finishAbandon s t = s := by
  simp [finishAbandon, h]

/-- With no abandonment at hand a tile that settles only works. -/
theorem settle_worked (hst : (tileOf s t).st ≠ .abandoning) (h : Calm s t) : WorkedAt t s (settle s t) := by
  obtain ⟨hnot, hpoison⟩ := h
  have hwork : WorkedAt t s (syncPump (pump s t) t) := (pump_worked hpoison).trans (syncPump_worked ..)
  rwa [settle, noticeDue_of_not_noticed (hwork.noticed.trans hnot), finishAbandon_of_not_abandoning fun ha => hst (hwork.st ha)]

theorem mem_of_inflOf {x : Tile} {tag : Nat} {i : Infl} (h : inflOf x tag = some i) : i ∈ x.inflight :=
  List.mem_of_find?_eq_some h

theorem startReady_of_started (h : ∀ i ∈ (tileOf s t).inflight, i.started = true) : startReady s t = s := by
  refine List.foldl_fixed' (fun tag => ?_) _
  split
  · next i hi => simp [ready, h i (mem_of_inflOf hi)]
  · rfl

theorem pvFeed_of_no_feed {i : Infl} (h : aeFeed i.op = none) : pvFeed s t i = s := by
  unfold pvFeed
  split
  · next hop => simp [aeFeed, hop] at h
  · rfl

theorem qkFeed_of_no_feed (h : ∀ i ∈ (tileOf s t).inflight, aeFeed i.op = none) (fuel tag : Nat) :
    qkFeed fuel s t tag = s := by
  cases fuel with
  | zero => rfl
  | succ f =>
    unfold qkFeed
    split
    · rfl
    · next i hi =>
      split
      · next hop => exact absurd (h i (mem_of_inflOf hi)) (by simp [aeFeed, hop])
      · rfl

theorem feedRunning_of_no_feed (h : ∀ i ∈ (tileOf s t).inflight, aeFeed i.op = none) : feedRunning s t = s := by
  refine List.foldl_fixed' (fun tag => ?_) _
  split
  · next i hi =>
    rw [pvFeed_of_no_feed (h i (mem_of_inflOf hi)), qkFeed_of_no_feed h, ite_self]
  · rfl

/-- A tile that runs, waits for nothing, and has in flight only instructions that have started and draw on no feed, has nothing
to settle. -/
theorem settle_of_quiet (hst : (tileOf s t).st = .run) (hwait : (tileOf s t).waitBlocks = none)
    (hnot : (tileOf s t).noticed = false) (hstarted : ∀ i ∈ (tileOf s t).inflight, i.started = true)
    (hfeed : ∀ i ∈ (tileOf s t).inflight, aeFeed i.op = none) : settle s t = s := by
  have hpump : pump s t = s := by
    simp only [pump, hst, startReady_of_started hstarted, feedRunning_of_no_feed hfeed]
  have hsync : syncPump s t = s := by simp only [syncPump, hwait]
  rw [settle, hpump, hsync, noticeDue_of_not_noticed hnot, finishAbandon_of_not_abandoning (by simp [hst])]

end Pump

end Sys2Proof.Machine
end

section
/-! PROOFS. TBUILD, TLOOK and DRAIN issue (O1) and retire (O9). -/

namespace Sys2Proof.Machine

/-! ### Issue (R228) -/

section Issue
variable {s : State} {n : Nat} {c : Instr} {rs : RangeSet} {op : Op} {g : List Rng} {mk : Tile → Option Op}
  {chk : Tile → Op → Check}

theorem rangeFault_of_ranged (h : Ranged s n rs g) (bad : RecCode) : rangeFault (tileOf s n) rs bad = none := by
  obtain ⟨hwide, hranges, hwins⟩ := h
  simp [rangeFault, hwide, hranges, hwins]

/-- An instruction that the tile takes, whose operation and ranges stand and which nothing holds, goes in flight. -/
theorem issue_of_placed (hmay : MayIssue s n) (hplaced : Placed s n rs op g) (htakes : Takes s n c) (hset : setOf c = rs)
    (hmk : mk (tileOf s n) = some op) (hchk : chk (tileOf s n) op = .go) (opc : Nat) (bad : RecCode) :
    issue s n c opc bad mk chk = settle (setTile s n (enter (tileOf s n) op g (awaitOf rs))) n := by
  subst hset
  obtain ⟨hcan, hlimit⟩ := hmay
  obtain ⟨hranged, hfree⟩ := hplaced
  obtain ⟨hfetched, hword⟩ := htakes
  have hroom : ¬ 2 ^ 24 ≤ (tileOf s n).issued := Nat.not_le.2 hlimit
  have hfault := rangeFault_of_ranged hranged bad
  have hissue : issueOp s n c opc bad mk chk = (setTile s n (enter (tileOf s n) op g (awaitOf (setOf c))), true) := by
    obtain ⟨_, hranges, _⟩ := hranged
    simp only [issueOp, hcan, hfetched, hroom, hword, hmk, hchk, hfault, hranges, Option.getD_some, hfree, Bool.not_true,
      Bool.or_self, Bool.false_eq_true, if_false, if_true]
  rw [issue, hissue, if_pos rfl]

/-- An instruction that goes in flight on a tile without poisoned granules is one more issued, however far the blocks take what
is in flight. -/
theorem entered_settle (s : State) (n : Nat) (rs : RangeSet) (op : Op) (g : List Rng) :
    Entered s n rs op g (settle (setTile s n (enter (tileOf s n) op g (awaitOf rs))) n) := by
  refine ⟨rfl, fun hclean => ?_⟩
  have hplace := place_settle (s := setTile s n (enter (tileOf s n) op g (awaitOf rs))) (t := n)
    (by rw [tileOf_setTile_same]; exact hclean)
  rw [tileOf_setTile_same] at hplace
  obtain ⟨hpc, hissued, hlast⟩ : _ ∧ _ ∧ _ := by simpa only [Tile.place, Prod.mk.injEq] using hplace
  exact ⟨hpc, hissued, hlast⟩

theorem issue_entered (hmay : MayIssue s n) (hplaced : Placed s n rs op g) (htakes : Takes s n c) (hset : setOf c = rs)
    (hmk : mk (tileOf s n) = some op) (hchk : chk (tileOf s n) op = .go) (opc : Nat) (bad : RecCode) :
    Entered s n rs op g (issue s n c opc bad mk chk) := by
  rw [issue_of_placed hmay hplaced htakes hset hmk hchk]
  exact entered_settle ..

end Issue

/-- Settles O1: each of the three goes in flight as any instruction of a block does (`issue_entered`). -/
theorem issueTla : Obligations.IssueTla := by
  unfold Obligations.IssueTla
  intro n rs s op g hmay hplaced
  refine ⟨?tbuild, ?tlook, ?drain⟩
  case tbuild =>
    intro a hmk htakes
    exact ⟨_, rfl, issue_entered hmay hplaced htakes rfl hmk rfl ..⟩
  case tlook =>
    intro a hmk hchk htakes
    exact ⟨_, rfl, issue_entered hmay hplaced htakes rfl hmk hchk ..⟩
  case drain =>
    intro a err hmk htakes
    exact ⟨_, rfl, issue_entered hmay hplaced htakes rfl hmk rfl ..⟩

/-! ### Retirement (R230) -/

section Retire
variable {s : State} {n : Nat} {i : Infl}

/-- A tile whose instruction `i` has left. -/
def Tile.without (x : Tile) (tag : Nat) : Tile := { x with inflight := x.inflight.filter fun j => j.tag != tag }

/-- Without poisoned granules no mark goes. -/
theorem cleanPoison_of_clean {x : Tile} (h : x.poison = []) (as : List Access) : cleanPoison x as = x := by
  obtain ⟨⟩ := x
  simp only at h
  simp [cleanPoison, h]

/-- On a tile without poisoned granules retirement takes the instruction out and settles. -/
theorem retire_of_clean (h : (tileOf s n).poison = []) (tag : Nat) :
    ∃ s', retire s n tag = settle s' n ∧ tileOf s' n = (tileOf s n).without tag := by
  refine ⟨_, rfl, ?_⟩
  rw [dropInfl, tileOf_modTile_same, tileOf_modTile_same]
  refine congrArg (Tile.without · tag) ?_
  split
  · exact cleanPoison_of_clean h _
  · rfl

/-- What retires with no abandonment at hand is in flight no more; rows, tags and tables stand. -/
theorem retire_left (hst : (tileOf s n).st ≠ .abandoning) (h : Calm s n) (tag : Nat) :
    Left n tag (retire s n tag) ∧ (tileOf (retire s n tag) n).acm = (tileOf s n).acm ∧
      (tileOf (retire s n tag) n).tags = (tileOf s n).tags ∧ (tileOf (retire s n tag) n).tables = (tileOf s n).tables := by
  obtain ⟨s', hretire, htile⟩ := retire_of_clean h.2 tag
  have hwork : Worked ((tileOf s n).without tag) (tileOf (settle s' n) n) :=
    htile ▸ settle_worked (htile ▸ hst) (by rw [Calm, htile]; exact h)
  rw [hretire]
  obtain ⟨_, _, _, harrays⟩ : _ ∧ _ ∧ _ ∧ _ := by simpa only [Tile.core, Prod.mk.injEq] using hwork.core
  refine ⟨fun j hj heq => ?_, harrays⟩
  obtain ⟨k, hk, hkeq⟩ := List.mem_map.1 (hwork.infl (List.mem_map_of_mem hj))
  have hne : k.tag ≠ tag := by simpa using (List.mem_filter.1 hk).2
  exact hne (hkeq.trans heq)

/-- Where the instruction was alone, nothing follows its retirement. -/
theorem retire_alone (h : Alone s n i) (hclean : (tileOf s n).poison = []) :
    tileOf (retire s n i.tag) n = { tileOf s n with inflight := [] } := by
  obtain ⟨hinfl, _, hst, hwait, hnot⟩ := h
  obtain ⟨s', hretire, htile⟩ := retire_of_clean hclean i.tag
  have hempty : (tileOf s n).without i.tag = { tileOf s n with inflight := [] } := by simp [Tile.without, hinfl]
  rw [hempty] at htile
  have hquiet : settle s' n = s' := by
    apply settle_of_quiet <;> rw [htile]
    · exact hst
    · exact hwait
    · exact hnot
    · nofun
    · nofun
  rw [hretire, hquiet, htile]

end Retire

/-! ### TBUILD, TLOOK and DRAIN retire (R83, R87, R102) -/

section Tla
variable {n : Fin 1024} {s : State} {i : Infl}

/-- A tile whose TBUILD has filled its tables and its tag (R83). -/
def filled (src ng nc f buf : Nat) (x : Tile) : Tile :=
  { x with tables := builtTables x src ng nc f buf, tags := tabSet x.tags buf ⟨true, f, ng, nc⟩ BufTag.init }

theorem execTbuildComplete_of_started {src ng nc f buf : Nat} (hi : startedOp s n isTbuildOp = some i)
    (hop : i.op = .tbuild src ng nc f buf) :
    execTbuildComplete n s .clean = .next (retire (modTile s n (filled src ng nc f buf)) n i.tag) := by
  simp only [execTbuildComplete, hi, hop, storeErr]
  rfl

theorem execTlookRetire_of_started (hi : startedOp s n tlookDone = some i) :
    execTlookRetire n s = .next (retire s n i.tag) := by
  simp only [execTlookRetire, hi]

/-- Draining writes accumulator rows and the store only. -/
theorem drainAll_field {β : Type} (v : Tile → β) (hacm : ∀ x a, v { x with acm := a } = v x)
    (hstore : ∀ x m, v { x with store := m } = v x) (x : Tile) (ab nr nc f wm wa : Nat) (asc : Option Nat) (dst st : Nat)
    (clear : Bool) : v (drainAll x ab nr nc f wm wa asc dst st clear).x = v x := by
  refine foldl_field (fun d : Drained => v d.x) (fun d r => ?_) (List.range nr) ⟨x, 0, 0, []⟩
  have hwipe (y : Tile) (a : AcmRow) :
      v (if clear then { y with acm := tabSet y.acm (ab + r) a AcmRow.init } else y) = v y := by
    split
    · exact hacm ..
    · rfl
  dsimp only
  split
  · exact hwipe ..
  · exact (hwipe ..).trans (hstore ..)

/-- What a retirement goes by at a tile: what is in flight, the control processor's state, a SYNC that waits, the notice,
poison. -/
def Tile.bearing (x : Tile) := (x.inflight, x.st, x.waitBlocks, x.noticed, x.poison)

theorem bearing_drained (x : Tile) (ab nr nc f wm wa : Nat) (asc : Option Nat) (dst st : Nat) (clear : Bool) :
    (drainAll x ab nr nc f wm wa asc dst st clear).x.bearing = x.bearing :=
  drainAll_field Tile.bearing (fun _ _ => rfl) (fun _ _ => rfl) ..

theorem Noted.bearing {x y : Tile} (h : Noted x y) : y.bearing = x.bearing := by
  obtain ⟨_, rfl⟩ := h
  rfl

/-- Rows whose words pass their checks meet no error. -/
theorem acmErr_rows_clean (x : Tile) (ab nr nc : Nat) (h : ∀ r < nr, acmErr (tabGet x.acm (ab + r) AcmRow.init) nc = .clean) :
    (List.range nr).foldl (fun e r => worseErr e (acmErr (tabGet x.acm (ab + r) AcmRow.init) nc)) .clean = .clean := by
  refine List.foldlRecOn (motive := (· = ArrayErr.clean)) (List.range nr) _ rfl fun e he r hr => ?_
  rw [he, h r (List.mem_range.1 hr)]
  rfl

/-- A DRAIN whose words pass their checks retires from a tile that has drained its rows, with at most a note of the records of
values that are not finite and of saturated rows. -/
theorem execDrainRetire_of_clean {ab nr nc f wm wa dst st : Nat} {asc : Option Nat} {clear : Bool} {d : Drained}
    (hi : startedOp s n isDrainOp = some i) (hop : i.op = .drain ab nr nc f wm wa asc dst st clear .clean)
    (hrows : rowsDone (tileOf s n) i ab nr = true) (hd : drainAll (tileOf s n) ab nr nc f wm wa asc dst st clear = d)
    (hbad : d.bad = []) (hacm : ∀ r < nr, acmErr (tabGet (tileOf s n).acm (ab + r) AcmRow.init) nc = .clean) :
    ∃ u, execDrainRetire n s .clean = .next (retire u n i.tag) ∧ Noted d.x (tileOf u n) := by
  have hnonfinite : Noted d.x (tileOf (countNonfinite (setTile s n d.x) n 0x30 d.nf) n) :=
    .trans (noted_of_eq (tileOf_setTile_same ..)) (countNonfinite_noted ..)
  simp only [execDrainRetire, hi, hop, hrows, hd, hbad, acmErr_rows_clean _ _ _ _ hacm, List.foldl_nil, arrayErr, storeErr,
    Bool.not_true, Bool.false_eq_true, if_false]
  split
  · exact ⟨_, rfl, hnonfinite⟩
  · exact ⟨_, rfl, hnonfinite.trans (.trans (noted_of_eq (tileOf_modCounters ..)) (tileErrOnce_noted ..))⟩

end Tla

/-- Settles O9: what a retirement leaves of a tile without abandonment or poison (`retire_left`, `retire_alone`), after the
tables are filled (`filled`), after nothing more, and after the rows are drained (`execDrainRetire_of_clean`). -/
theorem tlaRetires : Obligations.TlaRetires := by
  unfold Obligations.TlaRetires
  intro n s i hst hcalm
  refine ⟨?tbuild, ?tlook, ?drain⟩
  case tbuild =>
    intro src ng nc f buf hi hop
    obtain ⟨hleft, hacm, htags, htables⟩ := retire_left (s := modTile s n (filled src ng nc f buf)) (n := n)
      (by rw [tileOf_modTile_same]; exact hst) (by rw [Calm, tileOf_modTile_same]; exact hcalm) i.tag
    rw [tileOf_modTile_same] at hacm htags htables
    refine ⟨_, execTbuildComplete_of_started hi hop, hleft, ?_, htables, hacm⟩
    rw [htags]
    exact tabGet_set_same ..
  case tlook =>
    intro hi
    obtain ⟨hleft, hacm, htags, _⟩ := retire_left hst hcalm i.tag
    exact ⟨_, execTlookRetire_of_started hi, hleft, hacm, htags⟩
  case drain =>
    intro ab nr nc f wm wa asc dst st clear hi hop hrows hbad hacm
    obtain ⟨u, hexec, hnoted⟩ := execDrainRetire_of_clean hi hop hrows rfl hbad hacm
    obtain ⟨hinfl, hust, hwait, hnot, hpoison⟩ : _ ∧ _ ∧ _ ∧ _ ∧ _ := by
      simpa only [Tile.bearing, Prod.mk.injEq] using hnoted.bearing.trans (bearing_drained ..)
    obtain ⟨hleft, hrest, _⟩ := retire_left (s := u) (n := n) (hust ▸ hst) ⟨hnot.trans hcalm.1, hpoison.trans hcalm.2⟩ i.tag
    obtain ⟨_, htile⟩ := hnoted
    refine ⟨_, hexec, hleft, hrest.trans (by rw [htile]), fun ⟨hone, hstarted, hrun, hnowait, _⟩ => ?_⟩
    rw [retire_alone ⟨hinfl.trans hone, hstarted, hust.trans hrun, hwait.trans hnowait, hnot.trans hcalm.1⟩
      (hpoison.trans hcalm.2), htile]

end Sys2Proof.Machine
end

section
/-! PROOFS. A row of TLOOK (O10) and the issue limit (O16). -/

namespace Sys2Proof.Machine

/-! ### One row of a TLOOK (R87) -/

/-- A weight row takes from its tile only what its FIFO gives up. -/
theorem tile_of_rowBytes {x y : Tile} {feed r : Nat} {exp : Bool} {bs : List (Nat × Byte)}
    (h : rowBytes x feed r exp = some (bs, y)) : ∃ q, y = { x with tlaFifo := q } := by
  unfold rowBytes at h
  split at h
  · dsimp only at h
    split at h
    · cases h
    · cases h
      exact ⟨_, rfl⟩
  · cases h
    exact ⟨_, rfl⟩

/-- A row of valid codes has no record (R57). -/
theorem tritCodes_of_valid {bs : List (Nat × Byte)} (h : ∀ e ∈ bs, e.2.toNat ≤ 242) (s : State) (t : Nat) (exp : Option Nat) :
    tritCodes s t exp bs = s := by
  have hbad : (bs.filter fun e => decide (242 < e.2.toNat)) = [] :=
    List.filter_eq_nil_iff.2 fun e he => by simpa using h e he
  simp [tritCodes, hbad]

/-- No DRAIN goes before the only instruction in flight. -/
theorem drainWaits_of_alone {x : Tile} {i : Infl} (h : x.inflight = [i]) (r : Nat) :
    drainWaits (earlier x i.tag) r = false := by
  simp [earlier, drainWaits, h]

/-- An instruction once one more of its rows has entered. -/
def Infl.entered (i : Infl) : Infl := { i with prog := i.prog + 1 }

/-- An accumulator row once a row's lookups are added (R85, R91). -/
def lookedUp (x : Tile) (buf ng nc f mode : Nat) (bs : List (Nat × Byte)) (r : AcmRow) : AcmRow :=
  accRow r (f == 0) mode ((List.range nc).map (rowSum x buf ng f (bs.map fun e => cleanCode e.2.toNat)))

/-- The tile `x` once instruction `i`, alone in flight, has put row `r` at place `k` and gone on (R87). -/
def rowEntered (x : Tile) (i : Infl) (k : Nat) (r : AcmRow) : Tile :=
  { x with acm := tabSet x.acm k r AcmRow.init, inflight := [i.entered] }

theorem ty_lookedUp (x : Tile) (buf ng nc f mode : Nat) (bs : List (Nat × Byte)) (r : AcmRow) :
    (lookedUp x buf ng nc f mode bs r).ty = if f = 0 then .int32 else .fp32 := by
  simp [lookedUp, accRow]

section Row
variable {n : Fin 1024} {s : State} {i : Infl} {feed nr ab mode buf f ng nc : Nat} {exp : Bool} {bs : List (Nat × Byte)}
  {x : Tile}

theorem startedOp_tlookLeft (halone : Alone s n i) (hop : i.op = .tlook feed nr ab mode buf exp f ng nc) (hleft : i.prog < nr) :
    startedOp s n tlookLeft = some i := by
  obtain ⟨hinfl, hstarted, _⟩ := halone
  simp [startedOp, hinfl, hstarted, tlookLeft, hop, hleft]

/-- A row of valid codes, with no clash of types and words that pass their checks, enters: its accumulator row is updated, and
at most a record of saturation leaves its note; then the tile settles. -/
theorem execTlookRowEntry_of_valid (halone : Alone s n i) (hop : i.op = .tlook feed nr ab mode buf exp f ng nc)
    (hleft : i.prog < nr) (hbytes : rowBytes (tileOf s n) feed i.prog exp = some (bs, x)) (hvalid : ∀ e ∈ bs, e.2.toNat ≤ 242)
    (htype : mode = 0 ∨ (tabGet x.acm (ab + i.prog) AcmRow.init).ty = .empty ∨
      ((tabGet x.acm (ab + i.prog) AcmRow.init).ty = .int32 ↔ f = 0))
    (hwords : mode = 0 ∨ acmErr (tabGet x.acm (ab + i.prog) AcmRow.init) nc = .clean)
    (hparity : rowParity x buf ng nc f (bs.map fun e => cleanCode e.2.toNat) = false) :
    ∃ u, execTlookRowEntry n .clean s .clean = .next (settle u n) ∧ Noted (rowEntered x i (ab + i.prog)
      (lookedUp x buf ng nc f mode bs (tabGet x.acm (ab + i.prog) AcmRow.init))) (tileOf u n) := by
  have hinfl : x.inflight = [i] := by
    obtain ⟨q, rfl⟩ := tile_of_rowBytes hbytes
    exact halone.1
  have hclash : ¬ (mode ≠ 0 ∧ (tabGet x.acm (ab + i.prog) AcmRow.init).ty ≠ .empty ∧
      ((tabGet x.acm (ab + i.prog) AcmRow.init).ty = .int32) ≠ (f = 0)) := by
    rintro ⟨hmode, hempty, hdiff⟩
    exact hdiff (propext ((htype.resolve_left hmode).resolve_left hempty))
  have hmet : (if mode = 0 then ArrayErr.clean else acmErr (tabGet x.acm (ab + i.prog) AcmRow.init) nc) = .clean := by
    split
    · rfl
    · exact hwords.resolve_left ‹_›
  have hnext : listUpd (fun j => j.tag == i.tag) (fun j => { j with prog := j.prog + 1 }) x.inflight =
      [i.entered] := by simp [listUpd, hinfl, Infl.entered]
  simp only [execTlookRowEntry, startedOp_tlookLeft halone hop hleft, hop, hbytes, drainWaits_of_alone hinfl,
    hclash, hmet, hnext, hparity, tritCodes_of_valid hvalid, Bool.false_eq_true, if_false, arrayErr, worseErr, storeErr,
    ite_self]
  split
  · exact ⟨_, rfl, .trans (noted_of_eq (tileOf_setTile_same ..)) (tileErrOnce_noted ..)⟩
  · exact ⟨_, rfl, noted_of_eq (tileOf_setTile_same ..)⟩

end Row

/-- Settles O10: the row enters (`execTlookRowEntry_of_valid`), and a TLOOK alone, which has started and draws on no AE feed,
has nothing more to settle (`settle_of_quiet`). -/
theorem lookupRow : Obligations.LookupRow := by
  unfold Obligations.LookupRow
  intro n s i feed nr ab mode buf exp f ng nc bs x halone hop hleft hbytes hvalid r htype hwords hparity
  obtain ⟨q, hx⟩ := tile_of_rowBytes hbytes
  have hr : r = tabGet x.acm (ab + i.prog) AcmRow.init := by rw [hx]
  rw [hr] at htype hwords ⊢
  obtain ⟨u, hexec, _, htile⟩ := execTlookRowEntry_of_valid halone hop hleft hbytes hvalid htype hwords hparity
  obtain ⟨_, hstarted, hrun, hwait, hnot⟩ := halone
  have hquiet : settle u n = u := by
    apply settle_of_quiet <;> rw [htile, hx]
    · exact hrun
    · exact hwait
    · exact hnot
    · exact List.forall_mem_singleton.2 hstarted
    · exact List.forall_mem_singleton.2 (by simp [Infl.entered, hop, aeFeed])
  rw [hquiet] at hexec
  have hacm : tabGet (tileOf u n).acm (ab + i.prog) AcmRow.init =
      lookedUp x buf ng nc f mode bs (tabGet x.acm (ab + i.prog) AcmRow.init) := by
    rw [htile]
    exact tabGet_set_same ..
  refine ⟨u, hexec, hacm, ?_, by rw [htile]; rfl, by rw [htile, hx]; rfl⟩
  rw [hacm, ty_lookedUp]

/-! ### The issue limit (R106, R227) -/

theorem Keeps.cmp_eq {l : List Block} {s u : State} (h : Keeps l s u) (hl : Block.cmp ∉ l) : u.cmp = s.cmp := by
  obtain ⟨⟨_, _, _, _, _, hcmp, _⟩, _⟩ := h
  exact hcmp hl

/-- Every program of the version that a fault marks is faulty (R106). -/
theorem faulty_of_markFaulty {s : State} {p ver : Nat} {g : Prog} (hg : g ∈ (markFaulty s p ver).cmp.progs) (hp : g.part = p)
    (hv : g.version = ver) : g.faulty = true := by
  obtain ⟨h, _, rfl⟩ := List.mem_map.1 hg
  by_cases hit : (h.part == p && h.version == ver) = true
  · simp only [hit, if_true]
  · simp only [hit] at hp hv
    exact absurd (by simpa using ⟨hp, hv⟩) hit

section Fault
variable {n p : Nat} {s : State} {e : Step} {c : RecCode} {st : Status} {opc : Nat} {d : List Nat}

/-- A program fault of a tile whose partition executes a step: its record, the fault, the step abandoned for good, the version
faulty (R106, R235). -/
theorem progFault_of_runs (hruns : Runs s n p e) (ho : QueueOpen s) : Recorded s (progFault s n c st opc d) c d ∧
    (tileOf (progFault s n c st opc d) n).faulted = true ∧
    Abandons p e ⟨st, 0, false, none, false, 0, none, false, false⟩ (progFault s n c st opc d) ∧
    ∀ g ∈ (progFault s n c st opc d).cmp.progs, g.part = p → g.version = (tileOf s n).version → g.faulty = true := by
  obtain ⟨hpart, hexec⟩ := hruns
  refine ⟨?recorded, tileOf_progFault_field Tile.faulted (fun _ => rfl) .., ?_⟩
  case recorded =>
    refine recorded_of_log_eq (tileErr_recorded ho n c st opc d) ?_
    simp only [progFault, hpart]
    exact ((abandonStep_keeps ..).log_eq (by decide)).trans ((markFaulty_keeps ..).log_eq (by decide))
  simp only [progFault, hpart]
  refine ⟨abandonStep_abandons ?_ _, fun g hg hp hv => ?_⟩
  · rw [← hexec]
    simp only [partOf, (markFaulty_keeps ..).parts_eq (by decide : Block.parts ∉ [.cmp]), modTile_parts,
      (tileErr_keeps ..).parts_eq (by decide : Block.parts ∉ [.hif, .log, .ras])]
  · rw [(abandonStep_keeps ..).cmp_eq (by decide)] at hg
    exact faulty_of_markFaulty hg hp hv

end Fault

/-- Settles O16: the limit is a program fault (`progFault_of_runs`), after which a tile without the notice goes on as it is. -/
theorem issueLimit : Obligations.IssueLimit := by
  unfold Obligations.IssueLimit
  intro n s p e hruns hcan hlimit hnot ho
  obtain ⟨hrecorded, hfaulted, habandons, hfaulty⟩ := progFault_of_runs (c := .spRunaway) (st := .badState) (opc := 0xFF)
    (d := [(tileOf s n).pc]) hruns ho
  have hquiet : noticeDue (runaway s n 0xFF) n = runaway s n 0xFF :=
    noticeDue_of_not_noticed ((tileOf_progFault_field Tile.noticed (fun _ => rfl) ..).trans hnot)
  have hexec : execIssueLimit n s = .next (runaway s n 0xFF) := by
    simp only [execIssueLimit, hcan, hlimit, decide_true, Bool.and_self, if_true, hquiet]
  exact ⟨_, hexec, ⟨_, hrecorded⟩, hfaulted, ⟨_, habandons⟩, hfaulty⟩

end Sys2Proof.Machine
end

section
/-! PROOFS. The expanders' lanes (O22). -/

namespace Sys2Proof.Machine

@[simp] theorem laneOf_setLane_same (s : State) (k : Nat) (x : Lane) : laneOf (setLane s k x) k = x := tabGet_set_same _ _ _ _

@[simp] theorem pageOf_modPage_same (x : Part) (k : Nat) (f : Page → Page) : pageOf (modPage x k f) k = f (pageOf x k) :=
  tabGet_set_same _ _ _ _

section Lanes
variable {d : Fin 16} {e : Fin 4} {l : Fin 32} {s : State} {p : Nat}

/-- A lane that works belongs to a die of a partition whose step is not being abandoned. -/
theorem exec_of_laneLive (hp : partOfDie s d = some p) (hlive : laneLive s d e = true) :
    isFenced s (dieUnit d) = false ∧ ((partOf s p).exec.map fun x => x.why.isNone).getD false = true := by
  simp only [laneLive, hp, Bool.and_eq_true, Bool.not_eq_true'] at hlive
  obtain ⟨⟨_, hdie⟩, hstep⟩ := hlive
  exact ⟨hdie, hstep⟩

/-! ### Length bytes and blocks (R277, R278, R283, R285) -/

variable {x : Lane} {f : FeedEntry} {fs : List FeedEntry}

theorem execLengthByteArrive_of_todo (hp : partOfDie s d = some p) (hlive : laneLive s d e = true)
    (hfree : gatherTakes s d e l = false) {i : FeedItem} {r : List FeedItem}
    (hx : openLane s d e p l ((laneOf s (laneKey d e l)).list.length + 1) (laneOf s (laneKey d e l)) = x)
    (htodo : x.todo = i :: r) (hroom : x.reads.length < readRoom x) : execLengthByteArrive d e l s =
      .next (setLane s (laneKey d e l) { x with todo := r, reads := x.reads ++ [(i, lenOf s i.blk)] }) := by
  simp [execLengthByteArrive, hp, hlive, hfree, hx, htodo, Nat.not_le.2 hroom]

theorem execBlockDecode_of_plain (hp : partOfDie s d = some p) (hlive : laneLive s d e = true)
    (hx : laneOf s (laneKey d e l) = x) (hlist : x.list = f :: fs) {i : FeedItem} {len : Nat} {rest : List (FeedItem × Nat)}
    (hreads : x.reads = (i, len) :: rest) (hplaces : x.places.length < 2) (hplain : isGather f = false) (errs : List LineErr) :
    execBlockDecode d e l errs s = .next (setLane (blockData s d e p f i.blk len errs).2 (laneKey d e l) { x with
      reads := rest
      places := x.places ++ [((blockData s d e p f i.blk len errs).1.take i.take).map fun b => (i.blk, b)] }) := by
  cases hkind : f.kind with
  | gather => simp [isGather, hkind] at hplain
  | _ => simp [execBlockDecode, hp, hlive, hx, hlist, hkind, hreads, hplaces, decodeReads]

theorem execBlockDecode_of_gather (hp : partOfDie s d = some p) (hlive : laneLive s d e = true)
    (hx : laneOf s (laneKey d e l) = x) (hlist : x.list = f :: fs) {rg rb nr w : Nat} (hkind : f.kind = .gather rg rb nr)
    (hplaces : x.places.length ≤ 5) (hw : (gatherWindow x.nrec x.chunk).length = w) (hpos : 0 < w) (hreads : w ≤ x.reads.length)
    (errs : List LineErr) : execBlockDecode d e l errs s =
      .next (setLane (decodeReads s d e p f (x.reads.take w) errs []).1 (laneKey d e l) (nextEntry
        (gatherStep { x with reads := x.reads.drop w } f rb nr (decodeReads s d e p f (x.reads.take w) errs []).2))) := by
  have hstays : ¬ (w = 0 ∨ x.reads.length < w ∨ 5 < x.places.length) := by omega
  simp [execBlockDecode, hp, hlive, hx, hlist, hkind, hw, hstays]

/-! ### Forwarding (R98) -/

theorem execBlockForward_of_room (hlive : laneLive s d e = true) (hx : laneOf s (laneKey d e l) = x) (hlist : x.list = f :: fs)
    {c : List (Nat × Byte)} {rest : List (List (Nat × Byte))} (hplaces : x.places = c :: rest)
    (hroom : ∀ r ∈ f.rcp, fifoLen (tileOf s (d * 64 + r)) f.fifo ≤ 2048) :
    execBlockForward d e l s = .next ((f.rcp.map fun r => d.val * 64 + r).foldl (fun s' t => settle (modTile s' t fun y =>
      fifoPush y (x.home.headD e) (laneKey d e l) f.fifo (c.drop (skipOf x (t % 64)))) t)
      (setLane s (laneKey d e l) (forwarded x e f c))) := by
  have hall : ((f.rcp.map fun r => d.val * 64 + r).all fun t => decide (fifoLen (tileOf s t) f.fifo ≤ 2048)) = true := by
    simpa using hroom
  simp only [execBlockForward, hx, hlist, hplaces, List.head?_cons, hlive, hall, Bool.not_true, Bool.or_self,
    Bool.false_eq_true, if_false]

/-! ### Band lists (R284, R288) -/

/-- The record of a list that is absent or differs, and the step abandoned to run once more (R288). -/
theorem expList_abandons (ho : QueueOpen s) {st : Step} (hexec : (partOf s p).exec = some st) (a : ErrArgs) :
    Recorded s (abandonStep (pushErr s .expList a) p toRetell) .expList a.detail ∧
      Abandons p st toRetell (abandonStep (pushErr s .expList a) p toRetell) :=
  ⟨recorded_of_log_eq (pushErr_recorded ho .expList a) ((abandonStep_keeps ..).log_eq (by decide)),
    abandonStep_abandons (by rw [partOf_pushErr, hexec]) _⟩

/-- The lists that recipients send: those of their make-up APPLYs, else of their selections. -/
def sentLists (sels mks : List BandSt) : List (List Nat) := if mks = [] then sels.map computedOf else mks.map BandSt.list

theorem sentLists_ne_nil (sel : BandSt) (more mks : List BandSt) : sentLists (sel :: more) mks ≠ [] := by
  unfold sentLists
  split
  · simp
  · simpa using ‹_›

/-- Some list differs from the first. -/
theorem any_differs_iff {sent : List (List Nat)} (h : sent ≠ []) (copies : List (List Nat)) :
    ((sent ++ copies).any (some · != sent.head?)) = true ↔ ∃ c ∈ sent ++ copies, (sent ++ copies).head? ≠ some c := by
  simp only [List.any_eq_true, bne_iff_ne, List.head?_append_of_ne_nil sent h, ne_comm]

variable {layer group : Nat} {set : Fin 8} {copies : List (List Nat)} {sel : BandSt} {more : List BandSt}

/-- The expander takes a list in place of the one it had of its layer, group and set (R284). -/
def takeList (s : State) (b : BandList) : State :=
  let keep := s.exps.lists.filter fun x =>
    !(x.die == b.die && x.exp == b.exp && x.layer == b.layer && x.group == b.group && x.set == b.set)
  { s with exps := { s.exps with lists := keep ++ [b] } }

theorem mem_takeList (s : State) (b : BandList) : b ∈ (takeList s b).exps.lists :=
  List.mem_append_right _ (List.mem_singleton.2 rfl)

theorem execBandListArrive_of_applied (hp : partOfDie s d = some p) (hlive : laneLive s d e = true)
    (hsel : appliedOf s d e layer group set false = sel :: more) {sent : List (List Nat)}
    (hsent : sentLists (sel :: more) (appliedOf s d e layer group set true) = sent) :
    execBandListArrive d e layer group set copies s =
      if ((sent ++ copies).any (some · != sent.head?)) = true then
        .next (abandonStep (pushErr s .expList
          { unit := expUnit d e, part := p, step := execNum s p, detail := [layer, group, set.val] }) p toRetell)
      else .next (takeList s (bandLists d e layer group set sel (appliedOf s d e layer group set true).head?)) := by
  subst hsent
  obtain ⟨hdie, hstep⟩ := exec_of_laneLive hp hlive
  simp only [execBandListArrive, hp, hsel, hdie, hstep, Bool.not_true, Bool.or_self, Bool.false_eq_true, if_false]
  cases appliedOf s d e layer group set true <;> rfl

/-! ### A list that does not come (R288) -/

theorem execExpListTimeout_of_waits (hp : partOfDie s d = some p) (hlive : laneLive s d e = true)
    (hx : laneOf s (laneKey d e l) = x) (hlist : x.list = f :: fs) (hshut : x.opened = false)
    (hwaits : waitsList s d (x.home.headD e) f = true) {st : Step} (hexec : (partOf s p).exec = some st)
    (hfirst : st.rerun = false) : execExpListTimeout d e l s = .next (abandonStep (pushErr s .expList
      { unit := expUnit d e, part := p, step := execNum s p, detail := [f.layer, f.group, f.set] }) p toRetell) := by
  simp only [execExpListTimeout, hp, hx, hlist, List.head?_cons, hlive, hshut, hwaits, hexec, hfirst, Option.map_some,
    Option.getD_some, Bool.not_true, Bool.or_self, Bool.false_eq_true, if_false]
  rfl

/-! ### Seals (R287) -/

theorem partOf_sealBlocks (s : State) (lens : List Nat) (hdr b n q : Nat) :
    partOf ((List.range n).foldl (fun s i => sealBlock s lens hdr (b + i)) s) q = partOf s q :=
  foldl_same (partOf · q) (fun s i =>
    congrArg (tabGet · q Part.init) ((sealBlock_keeps s lens hdr (b + i)).parts_eq (by decide))) _ s

theorem execSealComplete_of_sealing {a : Fin 8} {page : Nat} (h : (pageOf (partOf s a) page).st = .sealing) :
    ∃ u, execSealComplete a page s = .next u ∧ pageOf (partOf u a) page = if (pageOf (partOf s a) page).refs = 0 then Page.init
      else { pageOf (partOf s a) page with st := .sealed, writer := none } := by
  have hsealing : ((pageOf (partOf s a) page).st != .sealing) = false := by simp [h]
  simp only [execSealComplete, hsealing, Bool.false_eq_true, if_false]
  exact ⟨_, rfl, by rw [partOf_modPart_same, pageOf_modPage_same, partOf_sealBlocks]⟩

end Lanes

/-- Settles O22: each command takes the branch its clause names; what a lane then holds is what was written to it, a list that
differs or does not come is recorded and the step abandoned (`expList_abandons`), and a seal leaves the partition as it was
but for the page. -/
theorem expanders : Obligations.Expanders := by
  unfold Obligations.Expanders
  intro d e l s p hp hlive k
  refine ⟨?length, ?plain, ?gather, ?forward, ?lists, ?timeout, ?page⟩
  case length =>
    intro i r x hfree htodo hroom
    exact ⟨_, execLengthByteArrive_of_todo hp hlive hfree rfl htodo hroom, by rw [laneOf_setLane_same],
      by rw [laneOf_setLane_same]⟩
  case plain =>
    intro f fs i len rest errs hlist hreads hplaces hplain
    exact ⟨_, execBlockDecode_of_plain hp hlive rfl hlist hreads hplaces hplain errs, by rw [laneOf_setLane_same],
      by rw [laneOf_setLane_same]⟩
  case gather =>
    intro f fs errs rg rb nr hlist hkind hplaces w hpos hreads
    exact ⟨_, execBlockDecode_of_gather hp hlive rfl hlist hkind hplaces rfl hpos hreads errs, laneOf_setLane_same ..⟩
  case forward =>
    intro f fs c rest hlist hplaces hroom
    exact ⟨_, execBlockForward_of_room hlive rfl hlist hplaces hroom, rfl⟩
  case lists =>
    intro layer group set copies sel more hsel mks sent
    have hexec := execBandListArrive_of_applied (copies := copies) hp hlive hsel rfl
    have hdiffers := any_differs_iff (sentLists_ne_nil sel more mks) copies
    refine ⟨fun hsame => ⟨_, hexec.trans (if_neg fun hany => ?_), mem_takeList ..⟩, fun st hdiff ho hst => ?_⟩
    · obtain ⟨c, hc, hne⟩ := hdiffers.1 hany
      exact hne (hsame c hc)
    · exact ⟨_, hexec.trans (if_pos (hdiffers.2 hdiff)), expList_abandons ho hst _⟩
  case timeout =>
    intro f fs st hlist hshut hwaits ho hst hfirst
    exact ⟨_, execExpListTimeout_of_waits hp hlive rfl hlist hshut hwaits hst hfirst, expList_abandons ho hst _⟩
  case page =>
    intro a page hsealing
    exact execSealComplete_of_sealing hsealing

end Sys2Proof.Machine
end

section
/-! PROOFS. Nothing that follows a change at a tile puts an instruction in flight: what retires has left, whatever happens. -/

namespace Sys2Proof.Machine

/-- The tags in flight at a tile. -/
def Tile.flying (x : Tile) : List Nat := x.inflight.map Infl.tag

/-- From state `s` to `u` nothing new is in flight at tile `t`. -/
def NoneEnters (t : Nat) (s u : State) : Prop := (tileOf u t).flying ⊆ (tileOf s t).flying

section Enters
variable {s u v : State} {t : Nat}

theorem NoneEnters.refl (s : State) : NoneEnters t s s := List.Subset.refl _

theorem NoneEnters.trans (h : NoneEnters t s u) (k : NoneEnters t u v) : NoneEnters t s v := List.Subset.trans k h

theorem noneEnters_of_flying_eq (h : (tileOf u t).flying = (tileOf s t).flying) : NoneEnters t s u := by
  rw [NoneEnters, h]
  exact List.Subset.refl _

theorem Keeps.noneEnters {l : List Block} (h : Keeps l s u) (hl : Block.tiles ∉ l) : NoneEnters t s u :=
  noneEnters_of_flying_eq (congrArg Tile.flying (h.tileOf_eq hl t))

theorem WorkedAt.noneEnters (h : WorkedAt t s u) : NoneEnters t s u := h.infl

theorem noneEnters_modTile {i : Nat} {f : Tile → Tile} (h : (f (tileOf s i)).flying ⊆ (tileOf s i).flying) :
    NoneEnters t s (modTile s i f) := by
  by_cases ht : t = i
  · rwa [NoneEnters, ht, tileOf_modTile_same]
  · rw [NoneEnters, tileOf_modTile_other _ _ _ _ ht]
    exact List.Subset.refl _

theorem NoneEnters.foldl {α : Type} {f : State → α → State} (h : ∀ s a, NoneEnters t s (f s a)) (as : List α) (s : State) :
    NoneEnters t s (as.foldl f s) :=
  List.foldlRecOn (motive := NoneEnters t s) as f (.refl s) fun u hu a _ => hu.trans (h u a)

theorem NoneEnters.ite {c : Prop} [Decidable c] (h : NoneEnters t s u) (k : NoneEnters t s v) :
    NoneEnters t s (if c then u else v) := by
  split
  · exact h
  · exact k

theorem noneEnters_putMem (s : State) (m : Mem) : NoneEnters t s (s.putMem m) := .refl s

theorem noneEnters_putRas (s : State) (r : Ras) : NoneEnters t s (s.putRas r) := .refl s

/-! ### Abandonments and fences -/

theorem abandonStep_noneEnters (s : State) (p : Nat) (a : Abandon) : NoneEnters t s (abandonStep s p a) :=
  noneEnters_of_flying_eq (tileOf_abandonStep_field Tile.flying (fun _ => rfl) ..)

theorem abandonParts_noneEnters (s : State) (ps : List Nat) (event : Nat) : NoneEnters t s (abandonParts s ps event) :=
  .foldl (fun _ _ => abandonStep_noneEnters ..) ps s

theorem rerunFault_noneEnters (s : State) (i : Nat) (again : Option Status) : NoneEnters t s (rerunFault s i again) := by
  unfold rerunFault
  split
  · exact .refl s
  · exact abandonStep_noneEnters ..

/-- A change of every entry changes what is read, where it keeps the default. -/
theorem tabGet_map {α β : Type} (f : α → β) (d : α) (tab : Tab α) (k : Nat) :
    tabGet (tab.map fun e => (e.1, f e.2)) k (f d) = f (tabGet tab k d) := by
  induction tab with
  | nil => rfl
  | cons e r ih =>
    simp only [List.map_cons, tabGet]
    split
    · rfl
    · exact ih

/-- A tile's cache without the lines of a memory block. -/
def Tile.uncache (b : Nat) (x : Tile) : Tile :=
  { x with
    cache := (x.cache.map fun e => (e.1, e.2.filter fun l => decide (l.line * 128 / 2048 ≠ b))).filter fun e => !e.2.isEmpty }

theorem tileOf_dropCached (s : State) (b i : Nat) : tileOf (dropCached s b) i = (tileOf s i).uncache b :=
  tabGet_map (Tile.uncache b) Tile.init s.tiles i

theorem poisonLine_noneEnters (s : State) (line c : Nat) (rd : Reader) : NoneEnters t s (poisonLine s line c rd) := by
  have hdrop (u : State) (b : Nat) : NoneEnters t u (dropCached u b) := by
    rw [NoneEnters, tileOf_dropCached]
    exact List.Subset.refl _
  unfold poisonLine
  simp -proj only [mk_putMem]
  split
  · exact .refl s
  · refine .ite (.refl s) ?_
    refine .trans ?_ ((afterPoison_keeps ..).noneEnters (by decide))
    refine .trans ?_ (.ite ((pushErr_keeps ..).noneEnters (by decide)) (.refl _))
    refine .trans ?_ ((pushErr_keeps ..).noneEnters (by decide))
    refine .trans ?_ ((setUnit_keeps ..).noneEnters (by decide))
    exact .trans (noneEnters_putMem ..) (hdrop ..)

theorem loseLines_noneEnters (s : State) (c : Nat) (ls as' : List Nat) : NoneEnters t s (loseLines s c ls as') :=
  NoneEnters.foldl (fun _ _ => poisonLine_noneEnters ..) ls s

theorem fenceChannel_noneEnters (s : State) (c : Nat) : NoneEnters t s (fenceChannel s c) := by
  unfold fenceChannel
  simp -proj only [mk_putMem]
  refine .trans ?_ (.ite (loseLines_noneEnters ..) (.refl _))
  refine .trans ?_ ((drainSurplus_keeps ..).noneEnters (by decide))
  refine .trans ?_ ((withdrawAll_keeps ..).noneEnters (by decide))
  refine .trans ?_ (noneEnters_putMem ..)
  exact (applyMoves_keeps ..).noneEnters (by decide)

/-- A tile out of service has nothing in flight. -/
theorem fencedTile_noneEnters (s : State) (i : Nat) : NoneEnters t s (modTile s i fencedTile) :=
  noneEnters_modTile (List.nil_subset _)

theorem fenceDie_noneEnters (s : State) (d : Nat) : NoneEnters t s (fenceDie s d) := by
  unfold fenceDie
  simp -proj only [mk_putRas]
  refine .ite (.refl s) ?_
  refine .trans ?_ (noneEnters_putRas ..)
  refine .trans ?_ (.foldl (fun _ _ => fencedTile_noneEnters ..) ..)
  refine .trans ?_ ((stopParts_keeps ..).noneEnters (by decide))
  refine .trans ?_ (abandonParts_noneEnters ..)
  refine .trans ?_ ((declareEvent_keeps ..).noneEnters (by decide))
  refine .trans ?_ ((dieProgs_keeps ..).noneEnters (by decide))
  refine .trans ?_ ((closeSlots_keeps ..).noneEnters (by decide))
  exact (unitTo_keeps ..).noneEnters (by decide)

theorem fenceOne_noneEnters (s : State) (x : UnitId) : NoneEnters t s (fenceOne s x) := by
  have hevent (r : Ras) (c : Prop) [Decidable c] (m n : Nat) (ps : List Nat) :
      NoneEnters t s (if c then (unitTo s x .fenced .unitFence m []).putRas r else
        declareEvent ((unitTo s x .fenced .unitFence m []).putRas r) n ps) := by
    have hfenced : NoneEnters t s ((unitTo s x .fenced .unitFence m []).putRas r) :=
      ((unitTo_keeps ..).noneEnters (by decide)).trans (noneEnters_putRas ..)
    exact .ite hfenced (hfenced.trans ((declareEvent_keeps ..).noneEnters (by decide)))
  have hstop (u : State) (ps : List Nat) (event why : Nat) (r : Ras) :
      NoneEnters t u ((stopParts (abandonParts u ps event) ps why).putRas r) :=
    (abandonParts_noneEnters ..).trans (((stopParts_keeps ..).noneEnters (by decide)).trans (noneEnters_putRas ..))
  unfold fenceOne
  simp -proj only [mk_putRas]
  refine .ite (.refl s) (.ite (fenceDie_noneEnters ..) (.ite (fenceDie_noneEnters ..) ?_))
  split
  case h_1 =>
    refine .trans ?_ (.ite (fenceDie_noneEnters ..) (.refl _))
    refine .trans ?_ (fencedTile_noneEnters ..)
    exact (hevent ..).trans (hstop ..)
  case h_2 => exact (hevent ..).trans (hstop ..)
  case h_3 => exact (hevent ..).trans (hstop ..)
  case h_4 =>
    refine .trans ?_ (fenceChannel_noneEnters ..)
    exact (hevent ..).trans (abandonParts_noneEnters ..)
  case h_5 => exact (hevent ..).trans ((handCore_keeps ..).noneEnters (by decide))
  case h_6 =>
    refine .trans ?_ (noneEnters_putRas ..)
    refine .trans ?_ ((stopParts_keeps ..).noneEnters (by decide))
    split
    · exact (hevent ..).trans (.foldl (fun _ _ => (modPart_keeps ..).noneEnters (by decide)) ..)
    · exact hevent _ (x.kind = .port) ..
  case h_7 =>
    refine .trans ?_ (.foldl (fun _ _ => fenceDie_noneEnters ..) ..)
    exact (hevent ..).trans (hstop ..)
  case h_8 => exact hevent _ (x.kind = .port) ..

theorem suspectBy_noneEnters {fence : State → UnitId → State} (h : ∀ s x, NoneEnters t s (fence s x)) (s : State) (x : UnitId) :
    NoneEnters t s (suspectBy fence s x) :=
  .ite (.refl s) (.ite (h s x) ((unitTo_keeps ..).noneEnters (by decide)))

theorem fenceDeep_noneEnters (fuel : Nat) (s : State) (x : UnitId) : NoneEnters t s (fenceDeep fuel s x) := by
  induction fuel generalizing s x with
  | zero => exact fenceOne_noneEnters s x
  | succ f ih => exact (fenceOne_noneEnters s x).trans (.foldl (fun u c => suspectBy_noneEnters ih u (chanUnit c)) ..)

theorem judgeUnit_noneEnters (s : State) (x : UnitId) : NoneEnters t s (judgeUnit s x) := by
  have hunit (r : UnitRec) : NoneEnters t s (setUnit s r) := (setUnit_keeps ..).noneEnters (by decide)
  exact .ite (hunit _) ((hunit _).trans (suspectBy_noneEnters (fenceDeep_noneEnters 512) ..))

theorem countFault_noneEnters {rec : State → State} (h : ∀ s, NoneEnters t s (rec s)) (s : State) (x : UnitId) :
    NoneEnters t s (countFault s x rec) := by
  unfold countFault
  exact .trans ((setUnit_keeps ..).noneEnters (by decide)) ((h _).trans (judgeUnit_noneEnters ..))

/-! ### Starting, feeding and settling, poisoned granules read or not -/

theorem poisonedRead_noneEnters (s : State) (i opc : Nat) : NoneEnters t s (poisonedRead s i opc) := by
  have hcount (st : Status) : NoneEnters t s (countFault s (tileUnit i) fun s => tileErr s i .tsUe st opc [i]) :=
    countFault_noneEnters (fun _ => (tileErr_keeps ..).noneEnters (by decide)) ..
  unfold poisonedRead
  dsimp only
  refine .ite ?_ ((hcount _).trans (rerunFault_noneEnters ..))
  split
  · exact (hcount _).trans (abandonStep_noneEnters ..)
  · exact hcount _

theorem startOp_noneEnters (s : State) (t : Nat) (i : Infl) : NoneEnters t s (startOp s t i) := by
  unfold startOp
  dsimp only
  refine .ite (undeclared_worked ..).noneEnters ?_
  refine .trans (.ite (c := readsPoison (tileOf s t) (opAccess s t (tileOf s t) i.op) = true)
    (poisonedRead_noneEnters s t i.op.opc) (.refl s)) ?_
  generalize (if readsPoison _ _ then _ else s : State) = u
  have hstart : WorkedAt t u (modInfl u t i.tag fun j => { j with started := true }) := workedAt_modInfl fun _ => rfl
  refine hstart.noneEnters.trans ?_
  split
  next => exact noneEnters_modTile (Worked.of_control (foldl_field Tile.control (fun _ _ => by rfl) ..)).infl
  next => exact (applyCheck_worked ..).noneEnters
  next l m n c inv _ =>
    have hinv (x : Tile) : Worked x (if inv then dropCache x else x) := by
      split
      · exact .of_control rfl
      · exact .refl x
    refine noneEnters_modTile ?_
    split
    · exact ((hinv _).trans (startCached_worked ..)).infl
    · exact (hinv _).infl
  next => exact .ite (noneEnters_modTile (List.Subset.refl _)) (.refl _)
  next => exact (newFlow_keeps ..).noneEnters (by decide)
  next => exact .refl _

theorem startReady_noneEnters (s : State) (t : Nat) : NoneEnters t s (startReady s t) := by
  refine .foldl (fun u tag => ?_) _ s
  split
  · exact .ite (startOp_noneEnters ..) (.refl u)
  · exact .refl u

theorem feedRunning_noneEnters (s : State) (t : Nat) : NoneEnters t s (feedRunning s t) := by
  refine .foldl (fun u tag => ?_) _ s
  split
  · exact .ite ((pvFeed_worked ..).noneEnters.trans (qkFeed_worked ..).noneEnters) (.refl u)
  · exact .refl u

theorem pump_noneEnters (s : State) (t : Nat) : NoneEnters t s (pump s t) := by
  unfold pump
  split
  · exact (startReady_noneEnters ..).trans (feedRunning_noneEnters ..)
  · exact (startReady_noneEnters ..).trans (feedRunning_noneEnters ..)
  · exact feedRunning_noneEnters ..
  · exact .refl s

theorem finishAbandon_noneEnters (s : State) (t : Nat) : NoneEnters t s (finishAbandon s t) := by
  refine .ite (.trans ?_ ((report_keeps ..).noneEnters (by decide))) (.refl s)
  exact noneEnters_modTile (f := fun x => dropCache (clearStep x)) (List.nil_subset _)

theorem noticeDue_noneEnters (s : State) (t : Nat) : NoneEnters t s (noticeDue s t) := by
  refine .ite (.trans ?_ (finishAbandon_noneEnters ..)) (.refl s)
  exact noneEnters_modTile (List.map_subset _ (List.filter_subset_self _))

theorem settle_noneEnters (s : State) (t : Nat) : NoneEnters t s (settle s t) :=
  (pump_noneEnters ..).trans <| (syncPump_worked ..).noneEnters.trans <|
    (noticeDue_noneEnters ..).trans (finishAbandon_noneEnters ..)

end Enters

/-! ### Retirement -/

/-- What retires is in flight no more, whatever follows its retirement. -/
theorem left_retire (s : State) (n tag : Nat) : Left n tag (retire s n tag) := by
  intro j hj heq
  have hmem := settle_noneEnters _ n (List.mem_map_of_mem hj)
  rw [dropInfl, tileOf_modTile_same] at hmem
  obtain ⟨k, hk, hkeq⟩ := List.mem_map.1 hmem
  have hne : k.tag ≠ tag := by simpa using (List.mem_filter.1 hk).2
  exact hne (hkeq.trans heq)

/-- Where the instruction was alone, its retirement takes it out and at most clears poison marks; nothing follows. -/
theorem retire_of_alone {s : State} {n : Nat} {i : Infl} (h : Alone s n i) :
    ∃ q, tileOf (retire s n i.tag) n = { tileOf s n with inflight := [], poison := q } := by
  obtain ⟨hinfl, _, hst, hwait, hnot⟩ := h
  obtain ⟨s', hretire, q, htile⟩ : ∃ s', retire s n i.tag = settle s' n ∧
      ∃ q, tileOf s' n = { tileOf s n with inflight := [], poison := q } := by
    refine ⟨_, rfl, (cleanPoison (tileOf s n) (opAccess s n (tileOf s n) i.op)).poison, ?_⟩
    rw [dropInfl, tileOf_modTile_same, tileOf_modTile_same]
    simp [inflOf, hinfl, cleanPoison]
  have hquiet : settle s' n = s' := by
    apply settle_of_quiet <;> rw [htile]
    · exact hst
    · exact hwait
    · exact hnot
    · nofun
    · nofun
  exact ⟨q, by rw [hretire, hquiet, htile]⟩

end Sys2Proof.Machine
end

section
/-! PROOFS. The attention engine's instructions issue (O2) and retire (O11). -/

namespace Sys2Proof.Machine

/-- Settles O2: each of the five goes in flight as any instruction of a block does (`issue_entered`). -/
theorem issueAttention : Obligations.IssueAttention := by
  unfold Obligations.IssueAttention
  intro n rs s op g hmay hplaced
  refine ⟨?qk, ?init, ?block, ?exported, ?pv⟩
  case qk =>
    intro a hmk hchk htakes
    exact ⟨_, rfl, issue_entered hmay hplaced htakes rfl hmk hchk ..⟩
  case init =>
    intro rows addr gang hmk hchk htakes
    exact ⟨_, rfl, issue_entered hmay hplaced htakes rfl hmk hchk ..⟩
  case block =>
    intro rows sbuf m hfield hop hchk htakes
    have hmk : (fieldOf (tileOf s n) 32 rows).map (fun m => Op.softBlock m sbuf) = some op := by
      rw [hfield, hop, Option.map_some]
    exact ⟨_, rfl, issue_entered (mk := fun x => (fieldOf x 32 rows).map fun m => .softBlock m sbuf) hmay hplaced htakes rfl
      hmk hchk ..⟩
  case exported =>
    intro rows addr hmk hchk htakes
    exact ⟨_, rfl, issue_entered hmay hplaced htakes rfl hmk hchk ..⟩
  case pv =>
    intro a hmk hchk htakes
    exact ⟨_, rfl, issue_entered hmay hplaced htakes rfl hmk hchk ..⟩

/-! ### Rows and buffers -/

@[simp] theorem rowAt_modRow_same (x : Tile) (r : Nat) (f : Row → Row) : rowAt (modRow x r f) r = f (rowAt x r) :=
  tabGet_set_same ..

theorem rowAt_modRow_other (x : Tile) (r k : Nat) (f : Row → Row) (h : k ≠ r) : rowAt (modRow x r f) k = rowAt x k :=
  tabGet_set_other _ _ _ _ _ h

/-- What a change of a row leaves alone of that row stands in every row. -/
theorem rowAt_modRow_field {β : Type} (v : Row → β) {x : Tile} {r : Nat} {f : Row → Row} (h : ∀ w, v (f w) = v w)
    (k : Nat) : v (rowAt (modRow x r f) k) = v (rowAt x k) := by
  by_cases hk : k = r
  · rw [hk, rowAt_modRow_same, h]
  · rw [rowAt_modRow_other _ _ _ _ hk]

/-- What one change brings about in every row it is made of, whatever the row was, the row holds after all. -/
theorem rowAt_foldl_modRow {P : Row → Prop} {f : Row → Row} (h : ∀ w, P (f w)) {rs : List Nat} {r : Nat} (hr : r ∈ rs)
    (x : Tile) : P (rowAt (rs.foldl (fun y k => modRow y k f) x) r) := by
  induction rs using List.reverseRecOn with
  | nil => cases hr
  | append_singleton ks k ih =>
    rw [List.foldl_concat]
    by_cases hk : r = k
    · rw [hk, rowAt_modRow_same]
      exact h _
    · rw [rowAt_modRow_other _ _ _ _ hk]
      exact ih ((List.mem_append.1 hr).resolve_right fun h => hk (List.mem_singleton.1 h))

@[simp] theorem bufOf_modBuf_same (w : Row) (b : Nat) (f : ScoreBuf → ScoreBuf) : bufOf (modBuf w b f) b = f (bufOf w b) := by
  unfold modBuf bufOf
  split <;> rfl

/-! ### Alone at a tile -/

/-- What leaves what is in flight, the control processor's state and its waits alone leaves an instruction alone. -/
theorem alone_of_bearing {s u : State} {n : Nat} {i : Infl} (h : Alone s n i)
    (hu : (tileOf u n).bearing = (tileOf s n).bearing) : Alone u n i := by
  obtain ⟨hinfl, hst, hwait, hnot, _⟩ : _ ∧ _ ∧ _ ∧ _ ∧ _ := by simpa only [Tile.bearing, Prod.mk.injEq] using hu
  rw [Alone, hinfl, hst, hwait, hnot]
  exact h

/-- After work that leaves what is in flight alone the instruction retires; where it was alone, the rows and the store stand as
that work left them. -/
theorem retire_after {s u : State} {n : Nat} {i : Infl} (hu : (tileOf u n).bearing = (tileOf s n).bearing) :
    Left n i.tag (retire u n i.tag) ∧ (Alone s n i → (tileOf (retire u n i.tag) n).rows = (tileOf u n).rows ∧
      (tileOf (retire u n i.tag) n).store = (tileOf u n).store) := by
  refine ⟨left_retire u n i.tag, fun halone => ?_⟩
  obtain ⟨_, htile⟩ := retire_of_alone (alone_of_bearing halone hu)
  rw [htile]
  exact ⟨rfl, rfl⟩

theorem retire_after_setTile {s : State} {n : Nat} {i : Infl} {y : Tile} (hy : y.bearing = (tileOf s n).bearing) :
    Left n i.tag (retire (setTile s n y) n i.tag) ∧ (Alone s n i →
      (tileOf (retire (setTile s n y) n i.tag) n).rows = y.rows ∧
      (tileOf (retire (setTile s n y) n i.tag) n).store = y.store) := by
  have h := retire_after (s := s) (u := setTile s n y) (n := n) (i := i) (by rw [tileOf_setTile_same, hy])
  rwa [tileOf_setTile_same] at h

/-! ### QK, SOFT and PV retire (R114, R120, R121, R125, R128) -/

section Retire
variable {s : State} {n : Fin 1024} {i : Infl} {m a b k pos0 hw f ma : Nat} {g : Bool}

/-- A tile whose rows `rs` hold `k` scores in buffer `b` (R120). -/
def Tile.scored (x : Tile) (rs : List Nat) (b k : Nat) : Tile :=
  rs.foldl (fun y r => modRow y r fun w => modBuf w b fun c => { c with st := .scored, nkeys := k }) x

/-- A tile whose rows `rs` have taken the values of buffer `b`, which is EMPTY (R125). -/
def Tile.valued (x : Tile) (rs : List Nat) (b : Nat) : Tile :=
  rs.foldl (fun y r => modRow y r fun w => { modBuf w b fun _ => ScoreBuf.init with pvs := w.pvs + 1 }) x

theorem bearing_scored (x : Tile) (rs : List Nat) (b k : Nat) : (x.scored rs b k).bearing = x.bearing :=
  foldl_field Tile.bearing (fun _ _ => by rfl) rs x

theorem bearing_valued (x : Tile) (rs : List Nat) (b : Nat) : (x.valued rs b).bearing = x.bearing :=
  foldl_field Tile.bearing (fun _ _ => by rfl) rs x

theorem bearing_loaded (x : Tile) (g : Bool) (es : List (Nat × Nat)) :
    (es.foldl (fun x e => loadRow x g e) x).bearing = x.bearing :=
  foldl_field Tile.bearing (fun _ _ => by rfl) es x

theorem bufOf_scored {x : Tile} {rs : List Nat} {r : Nat} (hr : r ∈ rs) (b k : Nat) :
    (bufOf (rowAt (x.scored rs b k) r) b).st = .scored ∧ (bufOf (rowAt (x.scored rs b k) r) b).nkeys = k :=
  rowAt_foldl_modRow (P := fun w => (bufOf w b).st = .scored ∧ (bufOf w b).nkeys = k) (fun w => by simp) hr x

theorem bufOf_valued {x : Tile} {rs : List Nat} {r : Nat} (hr : r ∈ rs) (b : Nat) :
    bufOf (rowAt (x.valued rs b) r) b = ScoreBuf.init :=
  rowAt_foldl_modRow (P := fun w => bufOf w b = ScoreBuf.init)
    (fun w => by exact bufOf_modBuf_same w b fun _ => ScoreBuf.init) hr x

/-- The rows whose buffers an instruction's mask names at a tile. -/
abbrev servedRows (s : State) (n m : Nat) : List Nat := softRows (tileOf s n) (rowsFor s n (tileOf s n) m)

theorem execAttnQkRetire_of_joined (hi : startedOp s n (fun j => j.tag == i.tag) = some i)
    (hop : i.op = .qk m b k pos0 hw f a ma) (hk : k ≤ i.prog) :
    execAttnQkRetire n i.tag s = .next (retire (setTile s n ((tileOf s n).scored (servedRows s n m) b k)) n i.tag) := by
  simp only [execAttnQkRetire, hi, hop, Nat.not_lt.2 hk, if_false]
  rfl

theorem execAttnPvRetire_of_added (hi : startedOp s n (fun j => j.tag == i.tag) = some i)
    (hop : i.op = .pv m b k hw f a ma) (hk : k ≤ i.prog) :
    execAttnPvRetire n i.tag none s .clean = .next (retire (setTile s n ((tileOf s n).valued (servedRows s n m) b)) n i.tag) := by
  simp only [execAttnPvRetire, hi, hop, Nat.not_lt.2 hk, if_false]
  rfl

theorem execAttnSoftRetire_of_init (hi : startedOp s n (fun j => j.tag == i.tag) = some i) (hop : i.op = .softInit m a g)
    (hok : initOk s n (tileOf s n) m a g = true) :
    execAttnSoftRetire n i.tag s none .clean =
      .next (retire (setTile s n ((initRecs s n m a g).foldl (fun x e => loadRow x g e) (tileOf s n))) n i.tag) := by
  simp only [execAttnSoftRetire, hi, hop, hok, Bool.not_true, Bool.false_eq_true, if_false]
  rfl

theorem execAttnSoftRetire_of_block (hi : startedOp s n (fun j => j.tag == i.tag) = some i) (hop : i.op = .softBlock m b) :
    ∃ u, execAttnSoftRetire n i.tag s none .clean = .next (retire u n i.tag) ∧
      Noted (tileOf (blockRows s n m b) n) (tileOf u n) := by
  simp only [execAttnSoftRetire, hi, hop]
  exact ⟨_, rfl, countNonfinite_noted ..⟩

theorem execAttnSoftRetire_of_export (hi : startedOp s n (fun j => j.tag == i.tag) = some i) (hop : i.op = .softExport m a) :
    execAttnSoftRetire n i.tag s none .clean =
      .next (retire (setTile s n (stWrite (tileOf s n) (a * 64) (exportRows s n (tileOf s n) m))) n i.tag) := by
  simp only [execAttnSoftRetire, hi, hop]
  rfl

theorem bearing_blockRows (s : State) (n m b : Nat) : (tileOf (blockRows s n m b) n).bearing = (tileOf s n).bearing := by
  refine foldl_same (fun u => (tileOf u n).bearing) (fun u r => ?_) ..
  rw [tileOf_modTile_same]
  rfl

end Retire

/-! ### A key joins (R117, R118, R120) -/

section Join
variable {s : State} {n : Fin 1024} {i : Infl} {m a b k pos0 hw f ma : Nat}

/-- What a row shows of the keys that have joined: its buffers, its maximum and its accumulators. -/
def Row.outcome (w : Row) := (w.buf0, w.buf1, w.m, w.acc)

/-- An instruction but for the keys its lanes have been fed (R118). -/
def Infl.unfed (i : Infl) : Infl := { i with fed := 0 }

theorem outcome_eq_iff {w z : Row} :
    w.outcome = z.outcome ↔ w.buf0 = z.buf0 ∧ w.buf1 = z.buf1 ∧ w.m = z.m ∧ w.acc = z.acc := by
  simp [Row.outcome]

/-- Only how many keys it has been fed can differ of an instruction alone in flight. -/
theorem fed_of_map_unfed {l : List Infl} {j : Infl} (h : l.map Infl.unfed = [j.unfed]) : ∃ d, l = [{ j with fed := d }] := by
  obtain ⟨e, rfl, he⟩ := List.map_eq_singleton_iff.1 h
  refine ⟨e.fed, congrArg ([·]) ?_⟩
  exact congrArg (fun k : Infl => { k with fed := e.fed }) he

/-- What a QK's lanes leave alone as they run on (R118): the store, the control processor's state and its waits, what is in
flight but for the keys fed, and of every row its buffers, its maximum and its accumulators. -/
def Tile.joined (x : Tile) :=
  (x.store, (x.st, x.waitBlocks, x.noticed), x.inflight.map Infl.unfed, fun r => (rowAt x r).outcome)

theorem joined_modRow {x : Tile} {r : Nat} {f : Row → Row} (h : ∀ w, (f w).outcome = w.outcome) :
    (modRow x r f).joined = x.joined :=
  congrArg (fun rows => (x.store, (x.st, x.waitBlocks, x.noticed), x.inflight.map Infl.unfed, rows))
    (funext (rowAt_modRow_field Row.outcome h))

theorem joined_depositKey (x : Tile) (rows : List Nat) (n : Nat) (key : List Int) :
    (depositKey x rows n key).joined = x.joined :=
  foldl_field Tile.joined (fun _ _ => joined_modRow fun w =>
    foldl_field Row.outcome (fun _ _ => by rfl) _ w) rows x

theorem joined_takeKey {x y : Tile} {i : Infl} {n : Nat} {bs : List Byte} (h : takeKey x i n = some (bs, y)) :
    y.joined = x.joined := by
  unfold takeKey at h
  split at h
  · cases h
  · split at h
    · cases h; rfl
    · split at h
      · cases h
      · cases h
        split <;> rfl

theorem Noted.joined {x y : Tile} (h : Noted x y) : y.joined = x.joined := by
  obtain ⟨_, rfl⟩ := h
  rfl

theorem countKey_noted (s : State) (t pos meta' : Nat) (key : List Int) :
    Noted (tileOf s t) (tileOf (countKey s t pos meta' key) t) := by
  unfold countKey
  split
  · exact .refl _
  · exact .trans (noted_of_eq (tileOf_modCounters ..)) (tileErrOnce_noted ..)

/-- A key fed counts in its QK. -/
theorem joined_fed (x : Tile) (tag : Nat) :
    { x with inflight := listUpd (fun j => j.tag == tag) (fun j => { j with fed := j.fed + 1 }) x.inflight }.joined =
      x.joined := by
  have hunfed : (listUpd (fun j => j.tag == tag) (fun j => { j with fed := j.fed + 1 }) x.inflight).map
      Infl.unfed = x.inflight.map Infl.unfed := by
    rw [listUpd, List.map_map]
    refine List.map_congr_left fun j _ => ?_
    rw [Function.comp_apply]
    split <;> rfl
  exact congrArg (fun l => (x.store, (x.st, x.waitBlocks, x.noticed), l, fun r => (rowAt x r).outcome)) hunfed

theorem joined_qkFeed (fuel : Nat) (s : State) (t tag : Nat) : (tileOf (qkFeed fuel s t tag) t).joined = (tileOf s t).joined := by
  induction fuel generalizing s with
  | zero => rfl
  | succ fuel ih =>
    unfold qkFeed
    split
    · rfl
    · split
      · split
        · rfl
        · split
          · rfl
          · next hkey =>
            refine (ih _).trans ((countKey_noted ..).joined.trans ?_)
            rw [modInfl, tileOf_modTile_same, tileOf_setTile_same, joined_fed, joined_depositKey, joined_takeKey hkey]
      · rfl

/-- The blocks of a tile with a QK alone in flight only feed it. -/
theorem pump_of_qk_alone (halone : Alone s n i) (hop : i.op = .qk m b k pos0 hw f a ma) :
    pump s n = qkFeed 64 s n i.tag := by
  obtain ⟨hinfl, hstarted, hst, _⟩ := halone
  have hready : startReady s n = s := startReady_of_started fun j hj => by
    rw [hinfl, List.mem_singleton] at hj
    rw [hj, hstarted]
  have hpv : pvFeed s n i = s := by simp only [pvFeed, hop]
  simp [pump, hst, hready, feedRunning, hinfl, inflOf, hstarted, hpv]

/-- A tile that runs with one QK alone in flight feeds it as it settles, and does nothing else. -/
theorem joined_settle (halone : Alone s n i) (hop : i.op = .qk m b k pos0 hw f a ma) :
    (tileOf (settle s n) n).joined = (tileOf s n).joined := by
  have hpump := pump_of_qk_alone halone hop
  obtain ⟨_, _, hst, hwait, hnot⟩ := halone
  have hfed := joined_qkFeed 64 s n i.tag
  obtain ⟨_, ⟨hust, huwait, hunot⟩, _⟩ : _ ∧ (_ ∧ _ ∧ _) ∧ _ := by simpa only [Tile.joined, Prod.mk.injEq] using hfed
  have hsync : syncPump (qkFeed 64 s n i.tag) n = qkFeed 64 s n i.tag := by simp only [syncPump, huwait.trans hwait]
  rw [settle, hpump, hsync, noticeDue_of_not_noticed (hunot.trans hnot),
    finishAbandon_of_not_abandoning (by simp [hust.trans hst]), hfed]

/-- A tile whose rows `rs` have joined key `j` of a QK with buffer `b`, at position `pos` (R119, R120). -/
def Tile.keyJoined (x : Tile) (rs : List Nat) (b j pos : Nat) (sk : Word) : Tile :=
  rs.foldl (fun y r => scoreRow y r b j pos sk) x

theorem bearing_keyJoined (x : Tile) (rs : List Nat) (b j pos : Nat) (sk : Word) :
    (x.keyJoined rs b j pos sk).bearing = x.bearing :=
  foldl_field Tile.bearing (fun _ _ => by rfl) rs x

theorem store_keyJoined (x : Tile) (rs : List Nat) (b j pos : Nat) (sk : Word) : (x.keyJoined rs b j pos sk).store = x.store :=
  foldl_field Tile.store (fun _ _ => by rfl) rs x

/-- An instruction once one more key has joined. -/
def Infl.joined (i : Infl) : Infl := { i with prog := i.prog + 1 }

theorem inflight_joined {y : Tile} (h : y.inflight = [i]) :
    { y with inflight := listUpd (fun j => j.tag == i.tag) (fun j => { j with prog := j.prog + 1 }) y.inflight } =
      { y with inflight := [i.joined] } := by
  simp [h, listUpd, Infl.joined]

/-- The QK of a key that has joined is alone in flight still. -/
theorem alone_of_keyJoined {u : State} {rs : List Nat} {j pos : Nat} {sk : Word} (halone : Alone s n i)
    (hu : Noted { (tileOf s n).keyJoined rs b j pos sk with inflight := [i.joined] } (tileOf u n)) : Alone u n i.joined := by
  obtain ⟨_, hstarted, hst, hwait, hnot⟩ := halone
  obtain ⟨_, hyst, hywait, hynot, _⟩ : _ ∧ _ ∧ _ ∧ _ ∧ _ := by
    simpa only [Tile.bearing, Prod.mk.injEq] using bearing_keyJoined (tileOf s n) rs b j pos sk
  obtain ⟨_, htile⟩ := hu
  rw [Alone, htile]
  exact ⟨rfl, hstarted, hyst.trans hst, hywait.trans hwait, hynot.trans hnot⟩

/-- A key that every lane has delivered joins: its rows are scored, the QK goes on to the next, and the tile settles, at most a
note made of a record of values that are not finite. -/
theorem execKeyJoin_of_whole (hi : startedOp s n (fun j => j.tag == i.tag) = some i)
    (hop : i.op = .qk m b k pos0 hw f a ma) (hfed : i.prog < i.fed)
    (hwhole : ∀ r ∈ servedRows s n m, keyWhole (rowAt (tileOf s n) r) i.prog = true) (hinfl : (tileOf s n).inflight = [i]) :
    ∃ u, execKeyJoin n i.tag none s .clean = .next (settle u n) ∧
      Noted { (tileOf s n).keyJoined (servedRows s n m) b i.prog (pos0 + i.prog)
                (stWord (tileOf s n) (ma * 64 + 32 * i.prog)) with inflight := [i.joined] } (tileOf u n) := by
  have hgo : (decide (i.fed ≤ i.prog) || !(servedRows s n m).all fun r => keyWhole (rowAt (tileOf s n) r) i.prog) = false := by
    simp [Nat.not_le.2 hfed, List.all_eq_true.2 hwhole]
  simp only [execKeyJoin, hi, hop, hgo, Bool.false_eq_true, if_false]
  refine ⟨_, rfl, .trans (noted_of_eq ?_) (countNonfinite_noted ..)⟩
  rw [modInfl, tileOf_modTile_same, tileOf_setTile_same]
  exact inflight_joined (hinfl ▸ congrArg Prod.fst (bearing_keyJoined ..))

end Join

/-- Settles O11: what retires has left whatever follows (`left_retire`), and where it was alone the tile stands as the
instruction's work left it (`retire_after`); a key that joins leaves its QK alone in flight, whose lanes then run on over keys
already there and change no score (`joined_settle`). -/
theorem attentionRetires : Obligations.AttentionRetires := by
  unfold Obligations.AttentionRetires
  intro n s i hi
  refine ⟨?key, ?qk, ?init, ?block, ?exported, ?pv⟩
  case key =>
    intro m b k pos0 hw f a ma hop hfed halone hwhole x y
    obtain ⟨u, hexec, hnoted⟩ := execKeyJoin_of_whole hi hop hfed hwhole halone.1
    obtain ⟨hstore, _, hinfl, hrows⟩ : _ ∧ _ ∧ _ ∧ _ := by
      simpa only [Tile.joined, Prod.mk.injEq] using (joined_settle (alone_of_keyJoined halone hnoted) hop).trans hnoted.joined
    exact ⟨_, hexec, hstore.trans (store_keyJoined ..), fed_of_map_unfed hinfl, fun r => outcome_eq_iff.1 (congrFun hrows r)⟩
  case qk =>
    intro m b k pos0 hw f a ma hop hk
    obtain ⟨hleft, hrest⟩ := retire_after_setTile (i := i) (bearing_scored (tileOf s n) (servedRows s n m) b k)
    refine ⟨_, execAttnQkRetire_of_joined hi hop hk, hleft, fun halone r hr => ?_⟩
    rw [rowAt, (hrest halone).1]
    exact bufOf_scored hr b k
  case init =>
    intro m a g hop hok
    obtain ⟨hleft, hrest⟩ := retire_after_setTile (i := i) (bearing_loaded (tileOf s n) g (initRecs s n m a g))
    exact ⟨_, execAttnSoftRetire_of_init hi hop hok, hleft, fun halone => (hrest halone).1⟩
  case block =>
    intro m b hop
    obtain ⟨u, hexec, hnoted⟩ := execAttnSoftRetire_of_block hi hop
    obtain ⟨hleft, hrest⟩ := retire_after (i := i) (hnoted.bearing.trans (bearing_blockRows ..))
    refine ⟨_, hexec, hleft, fun halone => (hrest halone).1.trans ?_⟩
    obtain ⟨_, htile⟩ := hnoted
    rw [htile]
  case exported =>
    intro m a hop
    obtain ⟨hleft, hrest⟩ := retire_after_setTile (i := i)
      (y := stWrite (tileOf s n) (a * 64) (exportRows s n (tileOf s n) m)) rfl
    exact ⟨_, execAttnSoftRetire_of_export hi hop, hleft, fun halone => (hrest halone).symm⟩
  case pv =>
    intro m b k hw f a ma hop hk
    obtain ⟨hleft, hrest⟩ := retire_after_setTile (i := i) (bearing_valued (tileOf s n) (servedRows s n m) b)
    refine ⟨_, execAttnPvRetire_of_added hi hop hk, hleft, fun halone r hr => ?_⟩
    rw [rowAt, (hrest halone).1]
    exact bufOf_valued hr b

end Sys2Proof.Machine
end

section
/-! PROOFS. The vector unit's instructions and RNG.DRAW issue (O3) and retire (O12). -/

namespace Sys2Proof.Machine

/-- A command that issues without a check of its own puts its instruction in flight. -/
theorem gives_entered {s : State} {n : Nat} {c : Instr} {rs : RangeSet} {op : Op} {g : List Rng} {mk : Tile → Option Op}
    {opc : Nat} {bad : RecCode} (hmay : MayIssue s n) (hplaced : Placed s n rs op g) (htakes : Takes s n c)
    (hset : setOf c = rs) (hmk : mk (tileOf s n) = some op) (hexec : exec c s = .next (issue s n c opc bad mk noCheck)) :
    Gives c s (Entered s n rs op g) :=
  ⟨_, hexec, issue_entered hmay hplaced htakes hset hmk rfl opc bad⟩

/-- Settles O3: all ten issue without a check of their own, and go in flight as any instruction of a block does
(`gives_entered`). -/
theorem issueVector : Obligations.IssueVector := by
  unfold Obligations.IssueVector
  intro n rs s op g hmay hplaced
  refine ⟨?op, ?xred, ?red, ?merge, ?norm, ?rope, ?quant, ?topk, ?sample, ?draw⟩
  all_goals exact fun a hmk htakes => gives_entered hmay hplaced htakes rfl hmk rfl

/-! ### Retirement (R142, R154) -/

section Retire
variable {n : Fin 1024} {s : State} {i : Infl} {d k dom col stream ctr p : Nat}

theorem execVecRetire_of_started (hi : startedOp s n (fun j => vecDone (tileOf s n) j.op) = some i) :
    execVecRetire n false s .clean = .next (retire (bandEffect (vecEffect s n i.op) n i.op) n i.tag) := by
  simp only [execVecRetire, hi, storeErr, Bool.false_eq_true, if_false]

/-- The key of a draw (Table 6-3): the partition's audit key under domain 2, else the column's request's. -/
def drawKey (s : State) (n p dom col : Nat) : List Word :=
  if dom = 2 then auditKey (partOf s p).secret
  else (((stepOf s n).bind fun e => e.cols[col]?).map fun c => (slotOf s c.slot).key).getD []

theorem drawKey_audit (s : State) (n p col : Nat) : drawKey s n p 2 col = auditKey (partOf s p).secret := if_pos rfl

theorem drawKey_request {e : Step} {c : Column} (hp : partOfTile s n = some p) (he : (partOf s p).exec = some e)
    (hdom : dom ≠ 2) (hcol : e.cols[col]? = some c) :
    drawKey s n p dom col = (slotOf s c.slot).key := by
  simp [drawKey, hdom, stepOf, hp, he, hcol]

/-- The bytes of `k` blocks drawn from counter `ctr` on (R154). -/
def drawnBytes (key : List Word) (k dom stream ctr : Nat) : List Byte :=
  (List.range k).flatMap fun j => wordsLe (chachaBlock key dom stream ((ctr + j) % 2 ^ 64))

theorem execRngDrawRetire_of_started (hi : startedOp s n (fun j => j.op.blk == .rng) = some i)
    (hop : i.op = .rng d k dom col stream ctr) (hp : partOfTile s n = some p) :
    execRngDrawRetire n s = .next (retire (setTile s n
      (stWrite (tileOf s n) (d * 64) (drawnBytes (drawKey s n p dom col) k dom stream ctr))) n i.tag) := by
  simp only [execRngDrawRetire, hi, hop, hp]
  rfl

theorem rngDrawRetire_gives (hi : startedOp s n (fun j => j.op.blk == .rng) = some i) (halone : Alone s n i)
    (hop : i.op = .rng d k dom col stream ctr) (hp : partOfTile s n = some p) :
    Gives (.rngDrawRetire n) s fun u => Left n i.tag u ∧ (tileOf u n).store =
      (stWrite (tileOf s n) (d * 64) (drawnBytes (drawKey s n p dom col) k dom stream ctr)).store := by
  obtain ⟨hleft, hrest⟩ := retire_after_setTile (i := i)
    (y := stWrite (tileOf s n) (d * 64) (drawnBytes (drawKey s n p dom col) k dom stream ctr)) rfl
  obtain ⟨_, hstore⟩ := hrest halone
  exact ⟨_, execRngDrawRetire_of_started hi hop hp, hleft, hstore⟩

end Retire

/-- Settles O12: what retires has left whatever follows (`left_retire`), and a draw alone at its tile leaves its blocks in the
store (`rngDrawRetire_gives`), under the audit key or its column's (`drawKey_audit`, `drawKey_request`). -/
theorem vectorRetires : Obligations.VectorRetires := by
  unfold Obligations.VectorRetires
  intro n s i
  refine ⟨?vec, ?audit, ?request⟩
  case vec =>
    intro hi
    exact ⟨_, execVecRetire_of_started hi, left_retire _ n i.tag, rfl⟩
  case audit =>
    intro d k dom col stream ctr p hi halone hop hp hdom
    subst hdom
    have hgives := rngDrawRetire_gives hi halone hop hp
    rwa [drawKey_audit] at hgives
  case request =>
    intro d k dom col stream ctr p e c hi halone hop hruns hdom hcol
    obtain ⟨hp, he⟩ := hruns
    have hgives := rngDrawRetire_gives hi halone hop hp
    rwa [drawKey_request hp he hdom hcol] at hgives

end Sys2Proof.Machine
end

section
/-! PROOFS. The BAND and MOVE instructions issue (O4); a group's verdict on an APPLY with another ahead of it (O17). -/

namespace Sys2Proof.Machine

/-- Settles O4: the eight issue with the check of their own or without one (`gives_entered`), and go in flight as any
instruction of a block does (`issue_entered`). -/
theorem issueBandMove : Obligations.IssueBandMove := by
  unfold Obligations.IssueBandMove
  intro n rs s op g hmay hplaced
  refine ⟨?select, ?apply, ?audit, ?load, ?store, ?put, ?get, ?send⟩
  case audit | load | store | send =>
    exact fun a hmk hchk htakes => ⟨_, rfl, issue_entered hmay hplaced htakes rfl hmk hchk ..⟩
  case select | apply | put | get =>
    exact fun a hmk htakes => gives_entered hmay hplaced htakes rfl hmk rfl

/-! ### A group's verdict (R171) -/

/-- A BAND.APPLY of the selection of layer 0, group 0, set 0 by two tiles, its record at granule 0, the verdicts in window 0. -/
def pairApply : Op := .bandApply 0 false 256 1 0 0 0 0 2 0

/-- That APPLY in flight; it declares granule 0. -/
def pairApplyInfl (tag : Nat) (started : Bool) : Infl := ⟨tag, 0, pairApply, [⟨0, 1, false⟩], none, started, 0, 0, [], false⟩

/-- What the own check of either tile, which passed, left for the group's verdict: band 0, CRC 9. -/
def pairEntry : BandSt :=
  { layer := 0, group := 0, set := 0, makeup := false, pass := true, crc := 9, list := [0], audit := [], b := 256, nsel := 1,
    feedExp := 0, npeer := 2, verdict := none, misses := [], policy := 0, dense := false, audited := false, joined := false }

/-- Tiles 0 and 1 of die 0 hold the same entry. At tile 0, whose window takes the peer's verdict, the APPLY with tag 1 waits for
that verdict, behind one with tag 0 that has not started. -/
def overtaken : State :=
  { State.reset with
    parts := [(0, { Part.init with dies := 1, valid := true })],
    tiles := [
      (0, { Tile.init with
        st := .run, bands := [pairEntry], inflight := [pairApplyInfl 0 false, pairApplyInfl 1 true],
        wins := [(0, { Win.init with base := 64, len := 1, opened := true, dir := 1 })] }),
      (1, { Tile.init with bands := [pairEntry] })] }

/-- The APPLY ahead starts as tile 0 settles, and its own check (R170) puts an entry without a verdict in place of the one that
the group's verdict has just reached. -/
theorem overtaken_has_no_verdict {u : State} (h : exec (.bandGroupVerdict 0 [1] 1) overtaken = .next u) :
    (bandOf (tileOf u 0) 0 0 0 false).bind BandSt.verdict = none := by
  have hrun : (match exec (.bandGroupVerdict 0 [1] 1) overtaken with
      | .next u => ((bandOf (tileOf u 0) 0 0 0 false).bind BandSt.verdict).isNone
      | _ => false) = true := by decide +kernel
  rw [h] at hrun
  exact Option.isNone_iff_eq_none.1 hrun

/-- Refutes O17: the statement speaks of every state, so also of one in which an APPLY of the same selection that has not started
lies ahead of the one that waits (taken in order, the vector unit would have started it first). There the entry is without a
verdict once the tile has settled (`overtaken_has_no_verdict`). -/
theorem not_bandVerdicts : ¬ Obligations.BandVerdicts := by
  unfold Obligations.BandVerdicts
  intro h
  obtain ⟨hgroup, _⟩ := h overtaken
  have hst : (tileOf overtaken 0).st ≠ .abandoning := by decide +kernel
  have hcalm : Calm overtaken 0 := by decide +kernel
  have hstarted : startedOp overtaken 0 (applyWaits (tileOf overtaken 0)) = some (pairApplyInfl 1 true) := by decide +kernel
  have hpart : partOfTile overtaken 0 = some 0 := by decide +kernel
  have hentry : bandOf (tileOf overtaken 0) 0 0 0 false = some pairEntry := by decide +kernel
  have hpeers : peerVerdicts overtaken 0 pairEntry 0 [1] = some [(true, 9)] := by decide +kernel
  obtain ⟨u, hexec, d, hband, hverdict⟩ :=
    hgroup 0 1 [1] _ _ _ _ _ _ _ _ _ _ _ _ _ _ hst hcalm hstarted rfl hpart hentry hpeers (.inl rfl)
  have hnone := overtaken_has_no_verdict hexec
  rw [Fin.val_zero] at hband
  simp [hband, hverdict] at hnone

end Sys2Proof.Machine
end

section
/-! PROOFS. What issuing a tile instruction leaves alone (O58). -/

namespace Sys2Proof.Machine

/-! ### What an issuing tile leaves alone outside itself -/

/-- What an issue at one tile leaves alone at every other: store, accumulators, score rows, registers, index, what is in
flight, windows. -/
def Tile.holdings (x : Tile) := (x.store, x.acm, x.rows, x.regs, x.pc, x.inflight, x.wins)

/-- A function without its pending vectors. -/
def Fn.unpended (x : Fn) : Fn := { x with pba := [] }

/-- What an issue at tile `n` leaves alone outside the tile: module memory, requests, of the fault state all but ALERT, of the
host's functions all but the pending bits, and at every other tile its arrays, registers and what is in flight. -/
def outside (n : Nat) (s : State) :=
  (s.mem, s.slots, { s.ras with alert := false }, { s.hif with fns := [] }, (fun k => (fnOf s k).unpended),
    fun m => if m = n then none else some (tileOf s m).holdings)

section Outside
variable {n : Nat} {s u : State}

/-- What keeps memory, requests, fault state, functions and tiles leaves that part alone. -/
theorem Keeps.outside_eq {l : List Block} (h : Keeps l s u) (hl : ∀ b ∈ l, b ∈ [Block.cmp, .parts, .log, .lnk]) :
    outside n u = outside n s := by
  obtain ⟨⟨_, _, htiles, hmem, _, _, _, hslots, hhif, _, _, hras, _⟩, _⟩ := h.mono' hl
  simp only [outside, fnOf, tileOf, htiles (by decide), hmem (by decide), hslots (by decide), hhif (by decide),
    hras (by decide)]

/-- Tile `n` itself is no part of it. -/
@[simp] theorem outside_setTile (s : State) (x : Tile) : outside n (setTile s n x) = outside n s := by
  have hothers : (fun m => if m = n then none else some (tileOf (setTile s n x) m).holdings) =
      fun m => if m = n then none else some (tileOf s m).holdings := by
    funext m
    split
    · rfl
    · rw [tileOf_setTile_other _ _ _ _ ‹_›]
  simp only [outside, fnOf, hothers, setTile_mem, setTile_slots, setTile_ras, setTile_hif]

@[simp] theorem outside_modTile_same (s : State) (f : Tile → Tile) : outside n (modTile s n f) = outside n s :=
  outside_setTile ..

/-- A change at any tile that leaves arrays, registers and flight alone. -/
theorem outside_modTile {t : Nat} {f : Tile → Tile} (h : (f (tileOf s t)).holdings = (tileOf s t).holdings) :
    outside n (modTile s t f) = outside n s := by
  simp only [outside, fnOf, tileOf_modTile_field Tile.holdings h, modTile_mem, modTile_slots, modTile_ras, modTile_hif]

/-! ### Records -/

@[simp] theorem outside_emit (s : State) (o : Out) : outside n (emit s o) = outside n s := rfl
@[simp] theorem outside_queueErr (s : State) (e : ErrRec) : outside n (queueErr s e) = outside n s := rfl

/-- A function's change that touches only its pending vectors. -/
theorem outside_modFn {k : Nat} {f : Fn → Fn} (h : (f (fnOf s k)).unpended = (fnOf s k).unpended) :
    outside n (modFn s k f) = outside n s := by
  have hfns : (fun i => (fnOf (modFn s k f) i).unpended) = fun i => (fnOf s i).unpended := by
    funext i
    by_cases hi : i = k
    · rw [hi, fnOf_modFn_same, h]
    · exact congrArg Fn.unpended (tabGet_set_other _ _ _ _ _ hi)
  unfold outside
  rw [hfns]
  rfl

/-- A masked vector sets its pending bit at most (R398). -/
@[simp] theorem outside_fire (s : State) (k v : Nat) : outside n (fire s k v) = outside n s := by
  unfold fire
  split
  · exact outside_modFn rfl
  · rfl

/-- A record written raises ALERT and sets a pending bit at most (R455). -/
@[simp] theorem outside_writeErr (s : State) (e : ErrRec) : outside n (writeErr s e) = outside n s := by
  unfold writeErr
  dsimp only
  split
  · rfl
  · split
    · rw [outside_emit, outside_fire]; rfl
    · rw [outside_fire]; rfl

@[simp] theorem outside_drainErrs (k : Nat) (s : State) : outside n (drainErrs k s) = outside n s :=
  foldl_same (outside n) outside_writeErr _ _

@[simp] theorem outside_pushErr (s : State) (c : RecCode) (a : ErrArgs) : outside n (pushErr s c a) = outside n s := by
  unfold pushErr
  dsimp only
  split
  · rfl
  · rw [outside_queueErr, outside_drainErrs]

@[simp] theorem outside_tileErr (s : State) (t : Nat) (c : RecCode) (st : Status) (opc : Nat) (d : List Nat) :
    outside n (tileErr s t c st opc d) = outside n s := outside_pushErr ..

@[simp] theorem outside_tileErrOnce (s : State) (c : RecCode) (opc key : Nat) (d : List Nat) :
    outside n (tileErrOnce s n c opc key d) = outside n s := by
  unfold tileErrOnce
  dsimp only
  split
  · rfl
  · rw [outside_tileErr, outside_setTile]

@[simp] theorem outside_modCounters (s : State) (t : Nat) (f : Counters → Counters) :
    outside n (modCounters s t f) = outside n s := (modCounters_keeps ..).outside_eq (by decide)

@[simp] theorem outside_countNonfinite (s : State) (opc k : Nat) : outside n (countNonfinite s n opc k) = outside n s := by
  unfold countNonfinite
  split
  · rfl
  · rw [outside_tileErrOnce, outside_modCounters]

/-! ### Faults and abandonments (R235) -/

/-- The notice of an abandonment is all that other tiles take. -/
@[simp] theorem outside_abandonStep (s : State) (p : Nat) (a : Abandon) : outside n (abandonStep s p a) = outside n s := by
  unfold abandonStep
  split
  · rfl
  · exact (foldl_same (outside n) (fun _ _ => outside_modTile rfl) _ _).trans ((modPart_keeps ..).outside_eq (by decide))

@[simp] theorem outside_progFault (s : State) (c : RecCode) (st : Status) (opc : Nat) (d : List Nat) :
    outside n (progFault s n c st opc d) = outside n s := by
  unfold progFault
  dsimp only
  split
  · simp
  · rw [outside_abandonStep, (markFaulty_keeps ..).outside_eq (by decide)]
    simp

@[simp] theorem outside_runaway (s : State) (opc : Nat) : outside n (runaway s n opc) = outside n s := outside_progFault ..

@[simp] theorem outside_holdAt (s : State) (c : Instr) (why : Nat) : outside n (holdAt s n c why) = outside n s :=
  outside_modTile_same ..

@[simp] theorem outside_undeclared (s : State) (i : Infl) : outside n (undeclared s n i) = outside n s :=
  (outside_modTile_same ..).trans (outside_progFault ..)

@[simp] theorem outside_finishAbandon (s : State) : outside n (finishAbandon s n) = outside n s := by
  unfold finishAbandon
  dsimp only
  split
  · rw [(report_keeps ..).outside_eq (by decide), outside_setTile]
  · rfl

@[simp] theorem outside_abandonNow (s : State) : outside n (abandonNow s n) = outside n s :=
  (outside_finishAbandon _).trans (outside_modTile_same ..)

@[simp] theorem outside_noticeDue (s : State) : outside n (noticeDue s n) = outside n s := by
  unfold noticeDue
  dsimp only
  split
  · exact outside_abandonNow s
  · rfl

/-! ### Starting and feeding -/

@[simp] theorem outside_applyCheck (s : State) (i : Infl) : outside n (applyCheck s n i) = outside n s := by
  unfold applyCheck
  split
  · exact outside_setTile ..
  · rfl

/-- Without a poisoned granule an instruction starts within its tile, but for the flow of a Mirist send (R189). -/
theorem outside_startOp (h : (tileOf s n).poison = []) (i : Infl) : outside n (startOp s n i) = outside n s := by
  have hstart : outside n (modInfl s n i.tag fun j => { j with started := true }) = outside n s := outside_modTile_same ..
  unfold startOp
  simp only [readsPoison_of_clean h, Bool.false_eq_true, if_false]
  split
  · exact outside_undeclared ..
  · refine .trans ?_ hstart
    split
    next => exact outside_modTile_same ..
    next => exact outside_applyCheck ..
    next => exact outside_modTile_same ..
    next =>
      split
      · exact outside_modTile_same ..
      · rfl
    next => exact (newFlow_keeps ..).outside_eq (by decide)
    next => rfl

theorem outside_startReady (h : (tileOf s n).poison = []) : outside n (startReady s n) = outside n s := by
  have hfold : (tileOf (startReady s n) n).poison = [] ∧ outside n (startReady s n) = outside n s := by
    refine List.foldlRecOn (motive := fun u => (tileOf u n).poison = [] ∧ outside n u = outside n s) _ _ ⟨h, rfl⟩ ?_
    intro u ⟨hclean, hout⟩ tag _
    split
    · split
      · exact ⟨(startOp_worked hclean _).poison.trans hclean, (outside_startOp hclean _).trans hout⟩
      · exact ⟨hclean, hout⟩
    · exact ⟨hclean, hout⟩
  exact hfold.2

@[simp] theorem outside_countKey (s : State) (pos m : Nat) (key : List Int) :
    outside n (countKey s n pos m key) = outside n s := by
  unfold countKey
  split
  · rfl
  · rw [outside_tileErrOnce, outside_modCounters]

@[simp] theorem outside_pvFeed (s : State) (i : Infl) : outside n (pvFeed s n i) = outside n s := by
  unfold pvFeed
  split
  · dsimp only
    rw [outside_countNonfinite, outside_setTile]
    exact (shuffle_keeps ..).outside_eq (by decide)
  · rfl

@[simp] theorem outside_qkFeed (fuel : Nat) (s : State) (tag : Nat) : outside n (qkFeed fuel s n tag) = outside n s := by
  induction fuel generalizing s with
  | zero => rfl
  | succ f ih =>
    unfold qkFeed
    split
    · rfl
    · split
      · split
        · rfl
        · split
          · rfl
          · rw [ih, outside_countKey, modInfl, outside_modTile_same, outside_setTile]
      · rfl

@[simp] theorem outside_feedRunning (s : State) : outside n (feedRunning s n) = outside n s := by
  refine foldl_same (outside n) (fun u tag => ?_) _ s
  split
  · split
    · rw [outside_qkFeed, outside_pvFeed]
    · rfl
  · rfl

theorem outside_pump (h : (tileOf s n).poison = []) : outside n (pump s n) = outside n s := by
  unfold pump
  split
  · rw [outside_feedRunning, outside_startReady h]
  · rw [outside_feedRunning, outside_startReady h]
  · exact outside_feedRunning s
  · rfl

/-! ### SYNC and settling -/

/-- An arrival at a barrier changes only the home tile's list of arrivals (R233). -/
@[simp] theorem outside_barArrive (s : State) (t bar : Nat) : outside n (barArrive s t bar) = outside n s := by
  unfold barArrive
  split
  · rfl
  · exact outside_modTile rfl

@[simp] theorem outside_syncPump (s : State) : outside n (syncPump s n) = outside n s := by
  unfold syncPump
  dsimp only
  split
  · rfl
  · split
    · rfl
    · split
      · exact outside_setTile ..
      · split
        · rw [outside_barArrive, outside_setTile]
        · exact outside_setTile ..

theorem outside_settle (h : (tileOf s n).poison = []) : outside n (settle s n) = outside n s := by
  rw [settle, outside_finishAbandon, outside_noticeDue, outside_syncPump, outside_pump h]

/-! ### Issue (R228) -/

/-- At issue an instruction either goes in flight, or holds, faults or is not taken, and then nothing outside its tile changes. -/
theorem issueOp_cases (s : State) (c : Instr) (opc : Nat) (bad : RecCode) (mk : Tile → Option Op) (chk : Tile → Op → Check) :
    (∃ op g a, issueOp s n c opc bad mk chk = (setTile s n (enter (tileOf s n) op g a), true)) ∨
      (issueOp s n c opc bad mk chk).2 = false ∧ outside n (issueOp s n c opc bad mk chk).1 = outside n s := by
  unfold issueOp
  dsimp only
  split
  · exact .inr ⟨rfl, rfl⟩
  · split
    · exact .inr ⟨rfl, outside_runaway ..⟩
    · split
      · exact .inr ⟨rfl, outside_progFault ..⟩
      · exact .inr ⟨rfl, outside_progFault ..⟩
      · split
        · exact .inr ⟨rfl, outside_progFault ..⟩
        · exact .inr ⟨rfl, outside_holdAt ..⟩
        · exact .inr ⟨rfl, outside_progFault ..⟩
        · split
          · exact .inl ⟨_, _, _, rfl⟩
          · exact .inr ⟨rfl, outside_holdAt ..⟩

theorem outside_issue (h : (tileOf s n).poison = []) (c : Instr) (opc : Nat) (bad : RecCode) (mk : Tile → Option Op)
    (chk : Tile → Op → Check) : outside n (issue s n c opc bad mk chk) = outside n s := by
  unfold issue
  obtain ⟨op, g, a, hin⟩ | ⟨hout, heq⟩ := issueOp_cases (n := n) s c opc bad mk chk
  · rw [hin, if_pos rfl, outside_settle (by rw [tileOf_setTile_same]; exact h), outside_setTile]
  · simp only [hout, Bool.false_eq_true, if_false, outside_noticeDue, heq]

/-- An instruction of the control processor changes outside its tile only what its own effect `go` changes. -/
theorem outside_ctlIssue {go : Tile → List Rng → State} (hgo : ∀ g, outside n (go (tileOf s n) g) = outside n s) (c : Instr)
    (opc : Nat) (chk : Tile → Check) : outside n (ctlIssue s n c opc chk go) = outside n s := by
  have hfault (r : RecCode) (st : Status) : outside n (noticeDue (progFault s n r st opc [(tileOf s n).pc]) n) = outside n s := by
    simp
  unfold ctlIssue
  dsimp only
  split
  · rfl
  · split
    · simp
    · split
      · exact hfault ..
      · exact hfault ..
      · exact outside_holdAt ..
      · exact hfault ..
      · split
        · exact outside_holdAt ..
        · split
          · exact outside_holdAt ..
          · exact hgo _

theorem outside_ctlIssueNow (s : State) (c : Instr) (opc : Nat) (chk : Tile → Check) (f : Tile → List Rng → Tile) :
    outside n (ctlIssueNow s n c opc chk fun x g => setTile s n (f x g)) = outside n s := by
  refine outside_ctlIssue (fun g => ?_) ..
  split
  · exact outside_setTile ..
  · exact outside_holdAt ..

theorem outside_syncIssue (h : (tileOf s n).poison = []) (c : Instr) (opc blocks : Nat) {done : Tile → Tile}
    (hdone : ∀ x, (done x).poison = x.poison) : outside n (syncIssue s n c opc blocks done) = outside n s := by
  refine outside_ctlIssue (fun g => ?_) ..
  dsimp only
  split
  · rw [outside_abandonNow, outside_setTile]
  · rw [outside_settle (by rw [tileOf_setTile_same, hdone]; exact h), outside_setTile]

/-- The three ways of issuing an instruction of tile `n`: to a block, at the control processor, a SYNC. -/
inductive IssuesAs (n : Nat) (s : State) : State → Prop
  | block (c : Instr) (opc : Nat) (bad : RecCode) (mk : Tile → Option Op) (chk : Tile → Op → Check) :
      IssuesAs n s (issue s n c opc bad mk chk)
  | control (c : Instr) (opc : Nat) (chk : Tile → Check) (f : Tile → List Rng → Tile) :
      IssuesAs n s (ctlIssueNow s n c opc chk fun x g => setTile s n (f x g))
  | sync (c : Instr) (opc blocks : Nat) (done : Tile → Tile) (hdone : ∀ x, (done x).poison = x.poison) :
      IssuesAs n s (syncIssue s n c opc blocks done)

/-- A command that issues on a tile does so in one of the three ways. -/
theorem exec_of_issuesOn {c : Instr} {t : Fin 1024} (h : issuesOn c = some t) (s : State) :
    ∃ u, exec c s = .next u ∧ IssuesAs t s u := by
  cases c with
  | winOpen | winClose | stageLoad | stageLoop => cases h; exact ⟨_, rfl, .control ..⟩
  | syncWait | syncBar | syncEnd => cases h; exact ⟨_, rfl, .sync _ _ _ _ fun _ => rfl⟩
  | tbuild | tlook | drain | attnQk | attnSoftInit | attnSoftBlock | attnSoftExport | moveSend | attnPv | vecOp | vecXred
  | vecRed | vecMerge | vecNorm | vecRope | vecQuant | vecTopk | vecSample | rngDraw | bandSelect | bandApply | bandAudit
  | moveLoad | moveStore | movePut | moveGet => cases h; exact ⟨_, rfl, .block ..⟩
  | _ => cases h

/-- What keeps the blocks that an issue may change, whichever way it goes. -/
theorem IssuesAs.keeps (h : IssuesAs n s u) : Keeps [.tiles, .mem, .cmp, .parts, .slots, .hif, .log, .lnk, .ras] s u := by
  cases h with
  | block => exact issue_keeps ..
  | control => exact ctlIssueNow_keeps (by decide) (fun x g => (setTile_keeps ..).mono' (by decide)) .rfl'
  | sync => exact syncIssue_keeps ..

theorem IssuesAs.outside_eq (h : IssuesAs n s u) (hclean : (tileOf s n).poison = []) : outside n u = outside n s := by
  cases h with
  | block => exact outside_issue hclean ..
  | control => exact outside_ctlIssueNow ..
  | sync _ _ _ _ hdone => exact outside_syncIssue hclean _ _ _ hdone

end Outside

/-- Settles O58: an instruction issues in one of three ways (`exec_of_issuesOn`); none of them touches a block that issue may
not change (`IssuesAs.keeps`), nor, without poisoned granules, what lies outside its tile (`IssuesAs.outside_eq`). -/
theorem tileIssueFrame : Obligations.TileIssueFrame := by
  unfold Obligations.TileIssueFrame
  intro c n s u hc hx
  obtain ⟨v, hv, hissue⟩ := exec_of_issuesOn hc s
  obtain rfl : v = u := by simpa [hv] using hx
  obtain ⟨⟨htmb, hpwr, _, _, hexps, _, _, _, _, _, _, _, hboot, hsec, hside⟩, hpending⟩ := hissue.keeps
  refine ⟨hexps (by decide), hboot (by decide), hsec (by decide), hside (by decide), hpwr (by decide), htmb (by decide),
    hpending, fun hclean => ?_⟩
  obtain ⟨hmem, hslots, hras, hhif, hfns, hothers⟩ : _ ∧ _ ∧ _ ∧ _ ∧ _ ∧ _ := by
    simpa only [outside, Prod.mk.injEq] using hissue.outside_eq hclean
  refine ⟨hmem, hslots, ⟨?alert, ?fns, fun k => ?pba⟩, fun m hm => ?others⟩
  case alert => exact congrArg (fun r : Ras => { r with alert := s.ras.alert }) hras
  case fns => exact congrArg (fun r : Hif => { r with fns := s.hif.fns }) hhif
  case pba => exact congrArg (fun x : Fn => { x with pba := (fnOf s k).pba }) (congrFun hfns k)
  case others =>
    have heq := congrFun hothers m
    simpa only [hm, if_false, Option.some.injEq, Tile.holdings, Prod.mk.injEq] using heq

end Sys2Proof.Machine
end

section
/-! PROOFS. WIN and STAGE instructions take effect as they issue (O5). -/

namespace Sys2Proof.Machine

/-! ### A run of table entries -/

theorem tabGet_setRun_before {α : Type} [DecidableEq α] (d : α) (vs : List α) (t : Tab α) {k i : Nat} (h : i < k) :
    tabGet (tabSetRun t k vs d) i d = tabGet t i d := by
  induction vs generalizing t k with
  | nil => rfl
  | cons v r ih => rw [tabSetRun, ih _ (Nat.lt_succ_of_lt h), tabGet_set_other _ _ _ _ _ (Nat.ne_of_lt h)]

/-- A run of entries reads back, each at its place. -/
theorem tabGet_setRun_same {α : Type} [DecidableEq α] (d : α) (vs : List α) (t : Tab α) (k : Nat) {i : Nat} (h : i < vs.length) :
    tabGet (tabSetRun t k vs d) (k + i) d = vs[i] := by
  induction vs generalizing t k i with
  | nil => exact absurd h (Nat.not_lt_zero i)
  | cons v r ih =>
    cases i with
    | zero => exact (tabGet_setRun_before d r _ (Nat.lt_add_one k)).trans (tabGet_set_same ..)
    | succ j =>
      have hplace : k + (j + 1) = k + 1 + j := by omega
      rw [hplace]
      exact ih _ _ (Nat.lt_of_succ_lt_succ h)

/-! ### Issue at the control processor -/

section Control
variable {s : State} {n : Nat} {c : Instr} {rs : RangeSet} {g : List Rng} {chk : Tile → Check}

/-- An instruction of the control processor that nothing faults and nothing holds takes effect at once (R210, R220, R228). -/
theorem ctlIssueNow_of_unheld (hmay : MayIssue s n) (hfree : Unheld s n rs g) (harr : arrived (tileOf s n) (awaitOf rs) = true)
    (htakes : Takes s n c) (hset : setOf c = rs) (hchk : chk (tileOf s n) = .go) (opc : Nat) (go : Tile → List Rng → State) :
    ctlIssueNow s n c opc chk go = go (tileOf s n) g := by
  subst hset
  obtain ⟨hcan, hlimit⟩ := hmay
  obtain ⟨hranged, hboard, hcount⟩ := hfree
  obtain ⟨hfetched, hword⟩ := htakes
  have hroom : ¬ 2 ^ 24 ≤ (tileOf s n).issued := Nat.not_le.2 hlimit
  have hfault := rangeFault_of_ranged hranged .spRange
  obtain ⟨_, hranges, _⟩ := hranged
  simp only [ctlIssueNow, ctlIssue, hcan, hfetched, hroom, hword, hchk, hfault, hranges, Option.getD_some, hboard,
    Nat.not_le.2 hcount, harr, Bool.not_true, Bool.or_self, Bool.false_eq_true, ne_eq, not_true_eq_false, if_false, if_true]

/-- What holds of every state whose tile is as the effect `f` leaves it, holds of what such a command answers. -/
theorem gives_control (hmay : MayIssue s n) (hfree : Unheld s n rs g) (harr : arrived (tileOf s n) (awaitOf rs) = true)
    (htakes : Takes s n c) (hset : setOf c = rs) (hchk : chk (tileOf s n) = .go) {opc : Nat} {f : Tile → List Rng → Tile}
    (hexec : exec c s = .next (ctlIssueNow s n c opc chk fun x g => setTile s n (f x g))) {P : State → Prop}
    (h : ∀ u, tileOf u n = f (tileOf s n) g → P u) : Gives c s P := by
  refine ⟨_, hexec, h _ ?_⟩
  rw [ctlIssueNow_of_unheld hmay hfree harr htakes hset hchk, tileOf_setTile_same]

end Control

/-! ### Checks and effects of the four -/

section Effects
variable {x : Tile}

theorem fieldOf_of_fieldIn {w lo hi v : Nat} {o : Opd} (h : fieldIn x w lo hi o = some v) : fieldOf x w o = some v := by
  obtain ⟨u, hu, hv⟩ := Option.bind_eq_some_iff.1 h
  split at hv
  · rwa [← Option.some.inj hv]
  · cases hv

@[simp] theorem winOf_modWin_same (x : Tile) (w : Nat) (f : Win → Win) : winOf (modWin x w f) w = f (winOf x w) := tabGet_set_same ..

@[simp] theorem winOf_stepPc (x : Tile) (pc w : Nat) : winOf (stepPc x pc) w = winOf x w := rfl

theorem chkWinOpen_of_free {a : WinArgs} {b len : Nat} (hb : fieldOf x 16 a.base = some b)
    (hlen : fieldIn x 15 1 16384 a.len = some len) (hclosed : (winOf x a.id).opened = false) (htop : b + len ≤ scratchTop x)
    (hover : (findWin x fun w => w.opened && overlaps (winRng w) ⟨b, len, true⟩) = none)
    (hboard : (boardOf x).any (conflicts ⟨b, len, true⟩) = false) : chkWinOpen a x = .go := by
  simp [chkWinOpen, hb, hlen, hclosed, Nat.not_lt.2 htop, hover, hboard]

theorem chkWinClose_of_opened {id : Nat} (hopen : (winOf x id).opened = true) (hclosing : (winOf x id).closing = false) :
    chkWinClose id x = .go := by
  simp [chkWinClose, hopen, hclosing]

theorem chkStageLoad_of_section {secoff : Opd} {k o : Nat} {sec : Section} (hsec : x.sec = some sec)
    (ho : fieldOf x 12 secoff = some o) (hfit : o + k ≤ sec.words.length) : chkStageLoad secoff k x = .go := by
  simp [chkStageLoad, hsec, ho, Nat.not_lt.2 hfit]

/-- The words of a STAGE.LOAD are those of the section from its offset (R225). -/
theorem stageWords_of_section {secoff : Opd} {k o : Nat} {sec : Section} (hsec : x.sec = some sec)
    (ho : fieldOf x 12 secoff = some o) : stageWords secoff k x = (sec.words.drop o).take k := by
  simp [stageWords, hsec, ho]

/-- A STAGE.LOOP steps STEPR, counts CNTR down, not below zero, and goes to TARGET while it counted above 1 (R226). -/
theorem looped_effect (x : Tile) (target : Nat) (cntr stepr : Fin 256) (stride : BitVec 16) :
    let step := regOf x stepr + stride.signExtend 32
    let count := if cntr = stepr then step else regOf x cntr
    (cntr ≠ stepr → regOf (looped x target cntr stepr stride) stepr = step) ∧
      (regOf (looped x target cntr stepr stride) cntr).toNat = count.toNat - 1 ∧
      (looped x target cntr stepr stride).pc = (if 1 < count.toNat then target else x.pc + 1) % 16384 ∧
      (looped x target cntr stepr stride).issued = x.issued + 1 ∧ (looped x target cntr stepr stride).lastIdx = x.pc := by
  intro step count
  have hcount : tabGet (tabMod x.regs stepr 0 fun w => w + stride.signExtend 32) cntr 0 = count := by
    by_cases h : cntr = stepr
    · subst h
      simp only [count, if_pos]
      exact tabGet_set_same ..
    · simp only [count, if_neg h]
      exact tabGet_set_other _ _ _ _ _ (Fin.val_ne_of_ne h)
  refine ⟨fun hne => ?_, ?_, ?_, rfl, rfl⟩
  · refine (tabGet_set_other _ _ _ _ _ (Fin.val_ne_of_ne hne.symm)).trans ?_
    exact tabGet_set_same ..
  · have hreg : regOf (looped x target cntr stepr stride) cntr =
        BitVec.ofNat 32 (if 1 < count.toNat then count.toNat - 1 else 0) := by
      rw [← hcount]
      exact tabGet_set_same ..
    have hlt := count.isLt
    rw [hreg, BitVec.toNat_ofNat]
    split <;> omega
  · rw [← hcount]
    rfl

end Effects

/-- Settles O5: the four issue at the control processor, where nothing holds them (`gives_control`), each with its own check
passed and its own effect. -/
theorem controlIssue : Obligations.ControlIssue := by
  unfold Obligations.ControlIssue
  intro n rs s g hmay hfree harr
  refine ⟨?winOpen, ?winClose, ?stageLoad, ?stageLoop⟩
  case winOpen =>
    intro a b len hb hlen hclosed htop hover hboard htakes
    refine gives_control hmay hfree harr htakes rfl (chkWinOpen_of_free hb hlen hclosed htop hover hboard) rfl fun u hu => ?_
    rw [Issued, hu]
    refine ⟨⟨rfl, rfl, rfl⟩, ?_⟩
    simp [openWin, hb, fieldOf_of_fieldIn hlen]
  case winClose =>
    intro id hopen hclosing htakes
    refine gives_control hmay hfree harr htakes rfl (chkWinClose_of_opened hopen hclosing) rfl fun u hu => ?_
    rw [Issued, hu]
    exact ⟨⟨rfl, rfl, rfl⟩, by rw [winOf_stepPc, winOf_modWin_same]⟩
  case stageLoad =>
    intro secoff nm1 first sec o hsec ho hfit htakes
    refine gives_control hmay hfree harr htakes rfl (chkStageLoad_of_section hsec ho hfit) rfl fun u hu => ?_
    rw [Issued, hu]
    refine ⟨⟨rfl, rfl, rfl⟩, fun k hk => ?_⟩
    have hlen : k < (stageWords secoff (nm1.val + 1) (tileOf s n)).length := by
      rw [stageWords_of_section hsec ho, List.length_take, List.length_drop]
      omega
    refine (tabGet_setRun_same _ _ _ _ hlen).trans ?_
    simp only [stageWords_of_section hsec ho, List.getElem_take, List.getElem_drop]
    exact List.getElem_eq_getD _
  case stageLoop =>
    intro target cntr stepr stride step count htakes
    refine gives_control hmay hfree harr htakes rfl (chk := fun _ => .go) rfl rfl fun u hu => ?_
    rw [hu]
    exact looped_effect ..

end Sys2Proof.Machine
end

section
/-! PROOFS. Transfers retire once performed, and a missed line arrives (O13). -/

namespace Sys2Proof.Machine

section Moves
variable {n : Fin 1024} {s : State} {i : Infl}

/-- The instruction that MOVE_RETIRE finds for a tag: it has started, and no earlier MOVE is to be performed first (R252). -/
abbrev MoveDue (s : State) (n : Nat) (i : Infl) : Prop :=
  startedOp s n (fun j => j.tag == i.tag && !moveWaits (tileOf s n) j) = some i

/-! ### MOVE_RETIRE (R230) -/

theorem execMoveRetire_of_bypass_load (hi : MoveDue s n i) {l m k : Nat} {inv : Bool} (hop : i.op = .load l m k true inv)
    (hwaits : i.waits = []) : execMoveRetire n i.tag s .clean [] = .next (retire s n i.tag) := by
  simp only [execMoveRetire, hi, hop, hwaits, storeErr, List.isEmpty_nil, Bool.not_true, Bool.false_eq_true, if_false, if_true]

theorem execMoveRetire_of_load (hi : MoveDue s n i) {l m k : Nat} {inv : Bool} (hop : i.op = .load l m k false inv)
    (lines : List LineErr) :
    execMoveRetire n i.tag s .clean lines = .next (retire (loadRun s n l m k lines) n i.tag) := by
  simp only [execMoveRetire, hi, hop, storeErr, Bool.false_eq_true, if_false]

theorem execMoveRetire_of_store (hi : MoveDue s n i) {l m k : Nat} {inv : Bool} (hop : i.op = .store l m k inv) :
    execMoveRetire n i.tag s .clean [] =
      .next (retire (memWrite s (m * 64) (stRead (tileOf s n) (l * 64) (k * 64))) n i.tag) := by
  simp only [execMoveRetire, hi, hop, storeErr]

theorem execMoveRetire_of_put (hi : MoveDue s n i) {l r k : Nat} {d : Port} {via : Option Nat} (hop : i.op = .put l r k d via)
    (hlanded : i.prog ≠ 0) : execMoveRetire n i.tag s .clean [] = .next (retire s n i.tag) := by
  simp only [execMoveRetire, hi, hop, storeErr, hlanded, if_false]

theorem execMoveRetire_of_get (hi : MoveDue s n i) {l r k : Nat} {d : Port} (hop : i.op = .getm l r k d)
    (hstarted : i.prog ≠ 0) : execMoveRetire n i.tag s .clean [] = .next (finishGet s n i.tag l r k d) := by
  simp only [execMoveRetire, hi, hop, storeErr, hstarted, if_false]

theorem execMoveRetire_of_die_send (hi : MoveDue s n i) {l r k g vc : Nat} (hop : i.op = .send l r k g none vc)
    (hlanded : i.prog ≠ 0) : execMoveRetire n i.tag s .clean [] = .next (retire s n i.tag) := by
  simp only [execMoveRetire, hi, hop, storeErr, beq_eq_false_iff_ne.2 hlanded, Bool.false_eq_true, if_false]

/-- A Mirist send whose flow is over is acknowledged (R230, R435). -/
theorem execMoveRetire_of_mirist_send (hi : MoveDue s n i) {l r k g m vc : Nat} (hop : i.op = .send l r k g (some m) vc)
    (hdone : ∀ f ∈ s.lnk.tx, f.op ≠ .send n.val i.tag) :
    execMoveRetire n i.tag s .clean [] = .next (retire s n i.tag) := by
  have hover : (s.lnk.tx.any fun f => f.op == .send n.val i.tag) = false :=
    List.any_eq_false.2 fun f hf => by simpa using hdone f hf
  simp only [execMoveRetire, hi, hop, storeErr, hover, Bool.false_eq_true, if_false]

/-! ### CACHE_FILL_ARRIVE (R196) -/

/-- A load that no longer waits for a line. -/
def Infl.unwait (line : Nat) (j : Infl) : Infl := { j with waits := j.waits.filter (· != line) }

theorem not_mem_waits_unwait (line : Nat) (j : Infl) : line ∉ (j.unwait line).waits := by
  simp [Infl.unwait]

/-- What is changed by tag leaves nothing unchanged under the tag. -/
theorem mem_modInfl {tag : Nat} {f : Infl → Infl} {t : Nat} {j : Infl}
    (hj : j ∈ (tileOf (modInfl s t tag f) t).inflight) (htag : j.tag = tag) : ∃ k, j = f k := by
  rw [modInfl, tileOf_modTile_same] at hj
  obtain ⟨k, _, rfl⟩ := List.mem_map.1 hj
  by_cases hk : k.tag = tag
  · exact ⟨k, by simp [hk]⟩
  · simp [hk] at htag

theorem started_of_startedOp {t : Nat} {ok : Infl → Bool} (h : startedOp s t ok = some i) : i.started = true := by
  unfold startedOp at h
  have hok := List.find?_some h
  simp only [Bool.and_eq_true] at hok
  exact hok.1

/-- The load that waits for a line is the one that the line's arrival finds, where no earlier store is to be performed first. -/
theorem startedOp_fillDue (hi : MoveDue s n i) {line : Nat} (hline : line ∈ i.waits)
    (honly : ∀ j ∈ (tileOf s n).inflight, j.tag = i.tag → j = i) (hfill : fillWaits (tileOf s n) i line = false) :
    startedOp s n (fun j => j.tag == i.tag && j.waits.contains line && !fillWaits (tileOf s n) j line) = some i := by
  have hmem : i ∈ (tileOf s n).inflight := List.mem_of_find?_eq_some hi
  have hstarted : i.started = true := started_of_startedOp hi
  have hfound : (startedOp s n fun j => j.tag == i.tag && j.waits.contains line && !fillWaits (tileOf s n) j line).isSome :=
    List.find?_isSome.2 ⟨i, hmem, by simp [hstarted, hline, hfill]⟩
  obtain ⟨j, hj⟩ := Option.isSome_iff_exists.1 hfound
  have htag : j.tag = i.tag := by
    have hok := startedOp_ok hj
    simp only [Bool.and_eq_true, beq_iff_eq] at hok
    exact hok.1.1
  rw [hj, honly j (List.mem_of_find?_eq_some hj) htag]

/-- A whole line's arrival ends with the load waiting for it no longer. -/
theorem execCacheFillArrive_of_whole {line l m k : Nat} {inv : Bool} (hop : i.op = .load l m k true inv)
    (hi : startedOp s n (fun j => j.tag == i.tag && j.waits.contains line && !fillWaits (tileOf s n) j line) = some i)
    (hread : (linesRead s ⟨2, n⟩ [line * 2, line * 2 + 1] []).2.1 = 0)
    (hpoison : isPoisoned (linesRead s ⟨2, n⟩ [line * 2, line * 2 + 1] []).1 (blockOf (line * 128)) = false) :
    ∃ v, execCacheFillArrive n i.tag line [] s = .next (modInfl v n i.tag (Infl.unwait line)) := by
  simp only [execCacheFillArrive, hi, hop, hread, hpoison, ne_eq, not_true_eq_false, decide_false, Bool.or_self,
    Bool.false_eq_true, if_false]
  split <;> exact ⟨_, rfl⟩

end Moves

/-- Settles O13: each transfer's own condition lets MOVE_RETIRE retire it, and what retires has left (`left_retire`); a line that
arrives whole is waited for no longer (`not_mem_waits_unwait`). -/
theorem movesRetire : Obligations.MovesRetire := by
  unfold Obligations.MovesRetire
  intro n s i hi
  refine ⟨?bypass, ?load, ?store, ?put, ?get, ?dieSend, ?miristSend, ?fill⟩
  case bypass =>
    intro l m k inv hop hwaits
    exact ⟨_, execMoveRetire_of_bypass_load hi hop hwaits, left_retire _ _ _⟩
  case load =>
    intro l m k inv lines hop
    exact ⟨_, execMoveRetire_of_load hi hop lines, left_retire _ _ _, rfl⟩
  case store =>
    intro l m k inv hop
    exact ⟨_, execMoveRetire_of_store hi hop, left_retire _ _ _, rfl⟩
  case put =>
    intro l r k d via hop hlanded
    exact ⟨_, execMoveRetire_of_put hi hop hlanded, left_retire _ _ _⟩
  case get =>
    intro l r k d hop hstarted
    exact ⟨_, execMoveRetire_of_get hi hop hstarted, rfl⟩
  case dieSend =>
    intro l r k g vc hop hlanded
    exact ⟨_, execMoveRetire_of_die_send hi hop hlanded, left_retire _ _ _⟩
  case miristSend =>
    intro l r k g m vc hop hdone
    exact ⟨_, execMoveRetire_of_mirist_send hi hop hdone, left_retire _ _ _⟩
  case fill =>
    intro l m k inv line p hop hline honly hfill _ hread hpoison
    obtain ⟨v, hexec⟩ := execCacheFillArrive_of_whole hop (startedOp_fillDue hi hline honly hfill) hread hpoison
    refine ⟨_, hexec, fun j hj htag => ?_⟩
    obtain ⟨j, rfl⟩ := mem_modInfl hj htag
    exact not_mem_waits_unwait line j

end Sys2Proof.Machine
end

section
/-! PROOFS. Packets arrive and act, and a hand-off goes on or ends by its answer (O34). -/

namespace Sys2Proof.Machine

section Packets
variable {k : Packet} {s : State}

/-- The packet is for this module and passes its port's checks (Table 18-6). -/
structure Arrives (k : Packet) (s : State) : Prop where
  up    : (portOf s k.port).st = .up
  mine  : k.dmod = s.lnk.modNum
  group : k.dmod ∈ groupMods s
  data  : k.data ≠ []
  fits  : k.data.length ≤ if k.vc.val = 0 then 212 else 3872
  whole : k.crcOk = true

/-- The state once the packet's buffer is free again (R433). -/
def freed (s : State) (k : Packet) : State := freeRx s k.port k.vc (flitsOf k.data.length) k.clsH

/-- A packet that arrives on a channel of its kind acts at once on VC0, and is taken by its flow on any other (R435). -/
theorem packetIn_of_arrives (h : Arrives k s) {b : PktBody} (hkind : kindVc b k.vc = true) :
    packetIn s k b = if k.vc.val = 0 then (deliverPkt (freed s k) k b).1 else rxTake (freed s k) k b := by
  obtain ⟨hup, hmine, hgroup, hsome, hfits, hwhole⟩ := h
  have hlive : ¬ (!((portOf s k.port).st == .up || (portOf s k.port).st == .sleep && k.vc.val == 0)) = true := by simp [hup]
  have hkinds : ¬ (!kindVc b k.vc.val || !(groupMods s).contains k.dmod) = true := by simp [hkind, hgroup]
  have hlength : ¬ (decide (k.data.length = 0) || decide (3872 < k.data.length) ||
      k.vc.val == 0 && decide (212 < k.data.length)) = true := by
    have hpos : k.data.length ≠ 0 := by simpa using hsome
    simp only [Bool.or_eq_true, Bool.and_eq_true, decide_eq_true_eq, beq_iff_eq]
    split at hfits <;> omega
  have hcrc : ¬ (!k.crcOk) = true := by simp [hwhole]
  unfold packetIn
  dsimp only
  rw [if_neg hlive, if_neg hkinds, if_neg hlength, if_neg (not_not.2 hmine), if_neg hcrc]
  rfl

/-- On a channel other than VC0. -/
theorem packetIn_of_flow (h : Arrives k s) {b : PktBody} (hkind : kindVc b k.vc = true) (hvc : k.vc.val ≠ 0) :
    packetIn s k b = rxTake (freed s k) k b := by
  rw [packetIn_of_arrives h hkind, if_neg hvc]

end Packets

/-! ### The answer to a hand-off (R332, R333) -/

section Answer
variable {s : State} {n : Fin 65536} (h : (slotOf s n).st = .handoff)
include h

theorem execHandoffAckReceive_ok : execHandoffAckReceive n true .ok s =
    .next (refreshAdm (modSlot (releasePages (dropHandoff s n) n) n fun x =>
      { x with st := .closing, endSt := .ok, finDone := true }) (slotOf s n).part) := by
  simp only [execHandoffAckReceive, h, bne_self_eq_false, Bool.false_eq_true, if_false]

theorem execHandoffAckReceive_accepted : execHandoffAckReceive n true .accepted s =
    .next (handoffPages (dropHandoff s n) n false) := by
  simp only [execHandoffAckReceive, h, bne_self_eq_false, Bool.false_eq_true, if_false]

theorem execHandoffAckReceive_badState : execHandoffAckReceive n true .badState s =
    .next (handoffPages (dropHandoff s n) n true) := by
  simp only [execHandoffAckReceive, h, bne_self_eq_false, Bool.false_eq_true, if_false]

theorem execHandoffAckReceive_missing : execHandoffAckReceive n false .badState s =
    .next (closeSlot (dropHandoff s n) n 5 .badState) := by
  simp only [execHandoffAckReceive, h, bne_self_eq_false, Bool.false_eq_true, if_false]

theorem execHandoffAckReceive_refused {st : Status} (hst : st ≠ .badState) : execHandoffAckReceive n false st s =
    .next (handoffTry (dropHandoff s n) n) := by
  simp only [execHandoffAckReceive, h, bne_self_eq_false, Bool.false_eq_true, if_false]

end Answer

/-- Releasing a request's pages leaves its hold. -/
theorem hold_releasePages (s : State) (n : Nat) : (slotOf (releasePages s n) n).hold = (slotOf s n).hold := by
  simp [releasePages]

theorem slotOf_refreshAdm (s : State) (p i : Nat) : slotOf (refreshAdm s p) i = slotOf s i := slotOf_modPart ..

/-- Settles O34: a packet that passes its port's checks is delivered or taken (`packetIn_of_arrives`), by the channel of its
kind; each answer of a hand-off has its own outcome. -/
theorem packetsAct : Obligations.PacketsAct := by
  unfold Obligations.PacketsAct
  intro k s hup hmine hgroup hsome hfits hwhole v
  have h : Arrives k s := ⟨hup, hmine, hgroup, hsome, hfits, hwhole⟩
  refine ⟨?send, ?relay, ?handoff, ?page, ?weight, ?expert, ?whole, ?stored, ?decoded, ?missing, ?refused⟩
  case send =>
    intro vec hkind
    have hvc : k.vc.val ≠ 0 := by
      have hpos : 1 ≤ k.vc.val := by simpa [kindVc] using hkind
      omega
    exact ⟨_, rfl, packetIn_of_flow h hkind hvc⟩
  case relay => exact fun b hkind => ⟨_, rfl, packetIn_of_arrives h hkind⟩
  case handoff =>
    intro p tr hkind
    have hvc : k.vc.val = 3 := by simpa [kindVc] using hkind
    exact ⟨_, rfl, packetIn_of_flow h hkind (by omega)⟩
  case page =>
    intro p hash msg hkind
    have hvc : k.vc.val = 3 := by simpa [kindVc] using hkind
    exact ⟨_, rfl, packetIn_of_flow h hkind (by omega)⟩
  case weight =>
    intro q block hkind
    have hvc : k.vc.val = 3 := by simpa [kindVc] using hkind
    exact ⟨_, rfl, packetIn_of_flow h hkind (by omega)⟩
  case expert =>
    intro route hkind
    have hvc : k.vc.val = 1 := by simpa [kindVc] using hkind
    exact ⟨_, rfl, packetIn_of_flow h hkind (by omega)⟩
  case whole =>
    intro n hst
    refine ⟨_, execHandoffAckReceive_ok hst, ?_⟩
    dsimp only
    rw [slotOf_refreshAdm, slotOf_modSlot_same]
    exact ⟨rfl, rfl, hold_releasePages ..⟩
  case stored => exact fun n hst => ⟨_, execHandoffAckReceive_accepted hst, rfl⟩
  case decoded => exact fun n hst => ⟨_, execHandoffAckReceive_badState hst, rfl⟩
  case missing => exact fun n hst => ⟨_, execHandoffAckReceive_missing hst, rfl⟩
  case refused => exact fun n st hst hne => ⟨_, execHandoffAckReceive_refused hst hne, rfl⟩

end Sys2Proof.Machine
end

section
/-! PROOFS. What each command may change, block by block (O60): how the facts of Laws/Writes.lean compose into a command. The
blocks are summed up along a composition, and held against those the command may change once, at its end. -/

namespace Sys2Proof.Machine

variable {k l m : List Block} {s t u v : State}

/-- A list that contains each element of another holds them all; the test runs, so that `rfl` answers it also where `l` is
`mayChange` of a command with open arguments. -/
theorem mem_of_all (h : k.all l.contains = true) : ∀ b ∈ k, b ∈ l := by simpa using h

/-! ### Composition -/

theorem Keeps.within (h : Keeps k s u) (hk : k.all l.contains = true) : Keeps l s u := h.mono' (mem_of_all hk)

theorem Keeps.left (h : Keeps k s u) : Keeps (k ++ m) s u := h.mono' fun _ => List.mem_append_left m

theorem Keeps.right (h : Keeps m s u) : Keeps (k ++ m) s u := h.mono' fun _ => List.mem_append_right k

theorem Keeps.nothing : Keeps [] s s := .rfl'

/-- One more operation, after what is kept so far. -/
theorem Keeps.after (h : Keeps k t u) (g : Keeps m s t) : Keeps (k ++ m) s u := g.right.trans' h.left

theorem Keeps.either {c : Prop} {d : Decidable c} (h : Keeps k s u) (g : Keeps m s v) :
    Keeps (k ++ m) s (if c then u else v) := .ite h.left g.right

theorem Keeps.fold {α : Type} {f : State → α → State} {xs : List α} (h : ∀ t x, Keeps k t (f t x)) (g : Keeps m s t) :
    Keeps (k ++ m) s (xs.foldl f t) := .foldl (fun t x => (h t x).left) g.right xs

/-- A fold over a value that holds a state. -/
theorem Keeps.foldOf {α β : Type} {st : β → State} {f : β → α → β} {b : β} {xs : List α}
    (h : ∀ b x, Keeps k (st b) (st (f b x))) (g : Keeps m s (st b)) : Keeps (k ++ m) s (st (xs.foldl f b)) :=
  List.foldlRecOn xs f (motive := fun b => Keeps (k ++ m) s (st b)) g.right fun b hb x _ => hb.trans' (h b x).left

theorem Keeps.foldFst {α β : Type} {p : State × β} {f : State × β → α → State × β} {xs : List α}
    (h : ∀ q x, Keeps k q.1 (f q x).1) (g : Keeps m s p.1) : Keeps (k ++ m) s (xs.foldl f p).1 := .foldOf (st := Prod.fst) h g

/-- Either way of a choice between values that hold a state. -/
theorem Keeps.eitherOf {β : Type} {st : β → State} {a b : β} {c : Prop} {d : Decidable c} (h : Keeps k s (st a))
    (g : Keeps m s (st b)) : Keeps (k ++ m) s (st (if c then a else b)) := by
  split
  · exact h.left
  · exact g.right

/-- What an operation that carries a value beside the state answers. -/
theorem Keeps.ofFst {β : Type} {r : State × β} {v : β} (h : r = (u, v)) (g : Keeps l s r.1) : Keeps l s u := by
  rwa [h] at g

/-! ### Fields written in place -/

/-- A field written in place, after what is kept so far. -/
theorem Keeps.put {b : Block} (h : ∀ {l : List Block}, b ∈ l → Keeps l t u) (g : Keeps m s t) : Keeps (b :: m) s u :=
  .after (k := [b]) (h (List.mem_singleton_self b)) g

theorem Keeps.setPwr (g : Keeps m s t) {v : Pwr} : Keeps (.pwr :: m) s { t with pwr := v } := .put (fun h => .pwr h .rfl' v) g
theorem Keeps.setMem (g : Keeps m s t) {v : Mem} : Keeps (.mem :: m) s { t with mem := v } := .put (fun h => .mem h .rfl' v) g
theorem Keeps.setExps (g : Keeps m s t) {v : Exps} : Keeps (.exps :: m) s { t with exps := v } :=
  .put (fun h => .exps h .rfl' v) g
theorem Keeps.setCmp (g : Keeps m s t) {v : Cmp} : Keeps (.cmp :: m) s { t with cmp := v } := .put (fun h => .cmp h .rfl' v) g
theorem Keeps.setSlots (g : Keeps m s t) {v : Tab Slot} : Keeps (.slots :: m) s { t with slots := v } :=
  .put (fun h => .slots h .rfl' v) g
theorem Keeps.setHif (g : Keeps m s t) {v : Hif} : Keeps (.hif :: m) s { t with hif := v } := .put (fun h => .hif h .rfl' v) g
theorem Keeps.setLog (g : Keeps m s t) {v : Log} : Keeps (.log :: m) s { t with log := v } := .put (fun h => .log h .rfl' v) g
theorem Keeps.setLnk (g : Keeps m s t) {v : Lnk} : Keeps (.lnk :: m) s { t with lnk := v } := .put (fun h => .lnk h .rfl' v) g
theorem Keeps.setRas (g : Keeps m s t) {v : Ras} : Keeps (.ras :: m) s { t with ras := v } := .put (fun h => .ras h .rfl' v) g
theorem Keeps.setBoot (g : Keeps m s t) {v : Boot} : Keeps (.boot :: m) s { t with boot := v } :=
  .put (fun h => .boot h .rfl' v) g
theorem Keeps.setSec (g : Keeps m s t) {v : Sec} : Keeps (.sec :: m) s { t with sec := v } := .put (fun h => .sec h .rfl' v) g
theorem Keeps.setSide (g : Keeps m s t) {v : Side} : Keeps (.side :: m) s { t with side := v } :=
  .put (fun h => .side h .rfl' v) g
theorem Keeps.setTmb (g : Keeps m s t) {v : Tmb} : Keeps (.tmb :: m) s { t with tmb := v } := .put (fun h => .tmb h .rfl' v) g

/-! Two or three fields written at once are written one after another. -/

theorem Keeps.setRasBoot (g : Keeps m s t) {v : Ras} {w : Boot} :
    Keeps (.boot :: .ras :: m) s { t with ras := v, boot := w } :=
  (g.setRas (v := v)).setBoot
theorem Keeps.setPwrSec (g : Keeps m s t) {v : Pwr} {w : Sec} : Keeps (.sec :: .pwr :: m) s { t with pwr := v, sec := w } :=
  (g.setPwr (v := v)).setSec
theorem Keeps.setHifLnk (g : Keeps m s t) {v : Hif} {w : Lnk} : Keeps (.lnk :: .hif :: m) s { t with hif := v, lnk := w } :=
  (g.setHif (v := v)).setLnk
theorem Keeps.setTmbSide (g : Keeps m s t) {v : Tmb} {w : Side} :
    Keeps (.side :: .tmb :: m) s { t with tmb := v, side := w } :=
  (g.setTmb (v := v)).setSide
theorem Keeps.setBootPwrHif (g : Keeps m s t) {v : Boot} {w : Pwr} {x : Hif} :
    Keeps (.hif :: .pwr :: .boot :: m) s { t with boot := v, pwr := w, hif := x } :=
  ((g.setBoot (v := v)).setPwr (v := w)).setHif
/-- The free counter belongs to no block. -/
theorem Keeps.setTmbFree (g : Keeps m s t) {v : Tmb} {n : Nat} : Keeps (.tmb :: m) s { t with tmb := v, free := n } :=
  .free (g.setTmb (v := v)) n

/-! ### Operations that take an operation -/

theorem countFault_keeps_of {x : UnitId} {f : State → State} (h : ∀ t, Keeps k t (f t)) :
    Keeps ([.tiles, .mem, .cmp, .parts, .slots, .hif, .log, .lnk, .ras] ++ k) s (countFault s x f) :=
  countFault_keeps (fun _ => List.mem_append_left k) (fun t => (h t).right) .rfl'

theorem ctlIssueNow_keeps_of {n c : Nat} {i : Instr} {chk : Tile → Check} {f : Tile → List Rng → State}
    (h : ∀ x g, Keeps k s (f x g)) :
    Keeps ([.tiles, .cmp, .parts, .hif, .log, .ras] ++ k) s (ctlIssueNow s n i c chk f) :=
  ctlIssueNow_keeps (fun _ => List.mem_append_left k) (fun x g => (h x g).right) .rfl'

theorem withCmd_keeps_of {x : Src} {c : Nat} {no : State → Option No} {f : State → Nat → State}
    (h : ∀ t j, Keeps k t (f t j)) : Keeps ([.parts, .hif, .log, .lnk, .ras] ++ k) s (withCmd s x c no f) :=
  withCmd_keeps (fun _ => List.mem_append_left k) (fun t j => (h t j).right) .rfl'

theorem violate_keeps_of {n : Nat} {f : State → State} (h : ∀ t, Keeps k t (f t)) :
    Keeps ([.hif, .log, .ras] ++ k) s (violate s n f) :=
  violate_keeps (fun _ => List.mem_append_left k) (fun t => (h t).right) .rfl'

theorem refuseReg_keeps_of {c : RecCode} {a : ErrArgs} {f : State → State} (h : ∀ t, Keeps k t (f t)) :
    Keeps ([.hif, .log, .ras] ++ k) s (refuseReg s c a f) :=
  refuseReg_keeps (fun _ => List.mem_append_left k) (fun t => (h t).right) .rfl'

theorem forParts_keeps_of {f : State → Nat → State} (h : ∀ t p, Keeps k t (f t p)) : Keeps k s (forParts s f) :=
  forParts_keeps (fun _ => by simp) h .rfl'

/-! ### The outcome of a command -/

/-- A command's outcome keeps, where it is a next state, every block outside a list and the queue. -/
structure NextKeeps (l : List Block) (s : State) (r : Res) : Prop where
  kept : ∀ u, r = .next u → Keeps l s u

theorem NextKeeps.next (h : Keeps k s t) (hk : k.all l.contains = true) : NextKeeps l s (.next t) where
  kept := by
    rintro u ⟨⟩
    exact h.within hk

/-- A command that does not act. -/
theorem NextKeeps.idle : NextKeeps l s (.next s) := .next .nothing rfl

theorem NextKeeps.either {c : Prop} {d : Decidable c} {a b : Res} (h : NextKeeps l s a) (g : NextKeeps l s b) :
    NextKeeps l s (if c then a else b) := by
  split
  · exact h
  · exact g

end Sys2Proof.Machine
end

section
/-! PROOFS. What the shared operations that Laws/Writes.lean leaves out may write: BAR4, the timebase, re-admission. -/

namespace Sys2Proof.Machine

/-! ### Module memory from the host (R254 to R260) -/

theorem bar4Bad_keeps (s0 s k n) : Keeps [.hif, .log, .ras] s (bar4Bad s0 s k n) := by
  unfold bar4Bad
  split
  · exact .rfl'
  · exact .within (.either (pushErr_keeps ..) (.either (bar4Poison_keeps ..) .nothing)) rfl

theorem bar4Write_keeps (s off a bs errs) :
    Keeps [.tiles, .mem, .cmp, .parts, .slots, .hif, .log, .lnk, .ras] s (bar4Write s off a bs errs) := by
  unfold bar4Write
  exact .within (.either ((emit_keeps ..).after ((memWrite_keeps ..).after (linesRead_keeps ..)))
    ((emit_keeps ..).after ((bar4Bad_keeps ..).after (linesRead_keeps ..)))) rfl

/-! ### The timebase (R47, R449, R535) -/

theorem discipline_keeps (s source off) : Keeps [.tmb, .log] s (discipline s source off) := by
  unfold discipline
  exact .within (.either ((ledger_keeps ..).after ((syncFollowers_keeps ..).after (.setTmb .nothing)))
    (.either (.setTmb .nothing) (.either (.setTmb .nothing) (.setTmbFree .nothing)))) rfl

theorem gsyncExpect_keeps (s arrived) : Keeps [.tmb, .hif, .log, .ras, .side] s (gsyncExpect s arrived) := by
  unfold gsyncExpect
  exact .within (.either ((pushErr_keeps ..).after (.setTmbSide (.setSide .nothing))) (.setSide .nothing)) rfl

/-! ### Re-admission (R379 to R381) -/

theorem verdictPromised_keeps (p d a v) :
    Keeps [.slots, .hif, .log, .lnk, .ras] a.1 (verdictPromised p d a v).1 := by
  fun_cases verdictPromised p d a v
  · exact .rfl'
  · exact .within ((modSlot_keeps ..).after (drawFree_keeps_eq ‹_›)) rfl
  · exact .within ((postNotice_keeps ..).after ((modSlot_keeps ..).after (drawFree_keeps_eq ‹_›))) rfl

theorem runReadmission_keeps (s p d) : Keeps [.parts, .slots, .hif, .log, .lnk, .ras] s (runReadmission s p d) := by
  unfold runReadmission
  exact .within (.either (.fold (fun _ _ => .either .nothing ((postNotice_keeps ..).after (modSlot_keeps ..))) .nothing)
    (.setSlots ((modPart_keeps ..).after ((refreshAdm_keeps ..).after ((shedFor_keeps ..).after
      (.foldFst (fun _ _ => verdictPromised_keeps ..) (.foldFst (fun _ _ => verdictOne_keeps ..) .nothing))))))) rfl

end Sys2Proof.Machine
end

section
/-! PROOFS. What pages taken and columns composed may write. -/

namespace Sys2Proof.Machine

variable {l : List Block} {s u : State}

/-! ### Pages taken (R343 to R351) -/

/-- A fold that may stop: where it comes to its end, it keeps what each of its steps keeps. -/
theorem Keeps.foldSome {α β : Type} {st : β → State} {f : Option β → α → Option β} (hnone : ∀ x, f none x = none)
    (hstep : ∀ b x r, f (some b) x = some r → Keeps l (st b) (st r)) {xs : List α} {b r : β}
    (h : xs.foldl f (some b) = some r) : Keeps l (st b) (st r) := by
  have stopped (xs : List α) : xs.foldl f none = none := 
    List.foldlRecOn xs f (motive := (· = none)) rfl fun o ho x _ => ho ▸ hnone x
  induction xs generalizing b with
  | nil =>
    cases h
    exact .rfl'
  | cons x xs ih =>
    rw [List.foldl_cons] at h
    cases hx : f (some b) x with
    | none => rw [hx, stopped] at h; cases h
    | some c => exact (hstep b x c hx).trans' (ih (hx ▸ h))

theorem allocPage_keeps {p n layer kvHead writer : Nat} {r : State × Nat}
    (h : allocPage s p n layer kvHead writer = some r) : Keeps [.parts] s r.1 := by
  simp only [allocPage, Option.ite_none_right_eq_some, Option.some.injEq] at h
  obtain ⟨-, rfl⟩ := h
  exact setPart_keeps ..

/-- The pages of one set, each taken where the one before left. -/
theorem allocSet_keeps {p i writer : Nat} {pls : List Place} {r : State × List Nat}
    (h : allocSet s p pls i writer = some r) : Keeps [.parts] s r.1 := by
  refine Keeps.foldSome (st := Prod.fst) (fun _ => rfl) (fun b pl q hq => ?_) h
  dsimp only at hq
  split at hq
  · cases hq
  · obtain ⟨a, ha, rfl⟩ := Option.map_eq_some_iff.mp hq
    exact allocPage_keeps ha

theorem allocSets_keeps {p n : Nat} {pls : List Place} {is : List Nat} {r : State × List (List Nat)}
    (h : allocSets p pls n is s = some r) : Keeps [.parts] s r.1 := by
  induction is generalizing s r with
  | nil =>
    cases h
    exact .rfl'
  | cons i is ih =>
    obtain ⟨a, ha, h⟩ := Option.bind_eq_some_iff.mp h
    obtain ⟨b, hb, rfl⟩ := Option.map_eq_some_iff.mp h
    have rest : Keeps [.parts] a.1 b.1 := ih hb
    exact (allocSet_keeps ha).trans' rest

theorem cachePages_keeps {p fuel : Nat} {ds : List (Nat × Nat × Nat)} {r : State × List Nat}
    (h : cachePages p fuel ds s = some r) : Keeps [.parts] s r.1 := by
  fun_induction cachePages p fuel ds s generalizing r with
  | case1 => cases h
  | case2 =>
    cases h
    exact .rfl'
  | case3 f d ds s s1 g hp ih =>
    obtain ⟨q, hq, rfl⟩ := Option.map_eq_some_iff.mp h
    obtain ⟨k, -, hk⟩ := List.exists_of_findSome?_eq_some hp
    have taken : Keeps [.parts] s s1 := allocPage_keeps hk
    have rest : Keeps [.parts] _ q.1 := ih hq
    exact Keeps.trans' (.within ((modPart_keeps ..).after taken) rfl) rest
  | case4 _ _ _ _ _ _ _ ih => exact (removeNode_keeps ..).trans' (ih h)
  | case5 => cases h

theorem takeSet_keeps {p n : Nat} (h : takeSet s p n = some u) : Keeps [.mem, .parts, .slots] s u := by
  simp only [takeSet, Option.ite_none_left_eq_some, Option.map_eq_some_iff] at h
  obtain ⟨-, r, hr, rfl⟩ := h
  exact .within ((freshPages_keeps ..).after ((modSlot_keeps ..).after (allocSet_keeps hr))) rfl

theorem copyPage_keeps {p src dst hw m : Nat} (h : copyPage s p src dst hw m = some u) : Keeps [.mem] s u := by
  obtain ⟨bs, -, rfl⟩ := Option.map_eq_some_iff.mp h
  exact .within (.fold (fun _ _ => memPutRun_keeps ..)
    (.fold (fun _ _ => (memPutRun_keeps ..).after (memPutRun_keeps ..)) .nothing)) rfl

/-- A shared set copied before it is written (R346). -/
theorem copySet_keeps {p n i m : Nat} (h : copySet s p n i m = some u) : Keeps [.mem, .parts, .slots] s u := by
  simp only [copySet, Option.ite_none_left_eq_some, Option.map_eq_some_iff] at h
  obtain ⟨-, r, hr, rfl⟩ := h
  have fresh : Keeps _ s (freshPages r.1 p r.2) := (freshPages_keeps ..).after (allocSet_keeps hr)
  split
  · exact .within ((copyStops_keeps ..).after fresh) rfl
  · next s2 hs2 =>
    have copied : Keeps [.mem] (freshPages r.1 p r.2) s2 :=
      Keeps.foldSome (st := id) (fun _ => rfl) (fun _ _ _ hq => copyPage_keeps hq) hs2
    exact .within ((modPart_keeps ..).after ((dropPages_keeps ..).after ((modSlot_keeps ..).after (copied.after fresh)))) rfl

theorem supply_keeps {p n upto first fuel : Nat} (h : supply p n upto first fuel s = some u) :
    Keeps [.mem, .parts, .slots] s u := by
  induction fuel generalizing s with
  | zero => cases h
  | succ fuel ih =>
    simp only [supply] at h
    split at h
    · cases h
      exact .rfl'
    · split at h
      · obtain ⟨t, ht, h⟩ := Option.bind_eq_some_iff.mp h
        exact (copySet_keeps ht).trans' (ih h)
      · split at h
        · cases h
          exact .rfl'
        · obtain ⟨t, ht, h⟩ := Option.bind_eq_some_iff.mp h
          exact (takeSet_keeps ht).trans' (ih h)

/-! ### Columns composed (R311 to R322, R350) -/

theorem addCols_keeps (c p n cols tree) :
    Keeps [.mem, .parts, .slots, .hif, .log, .lnk, .ras] c.s (addCols c p n cols tree).s := by
  fun_cases addCols c p n cols tree
  case case4 h _ => exact .within (supply_keeps h) rfl
  case case5 h _ => exact .within (supply_keeps h) rfl
  case case6 h _ => exact .within ((supply_keeps h).after (relieve_keeps ..)) rfl
  case case7 h _ => exact .within ((supply_keeps h).after (relieve_keeps ..)) rfl
  case case8 => exact .within (relieve_keeps ..) rfl
  all_goals exact .rfl'

theorem addWithin_keeps (lim c p n cols tree) :
    Keeps [.mem, .parts, .slots, .hif, .log, .lnk, .ras] c.s (addWithin lim c p n cols tree).s := by
  have taken (k : Nat) (t : Option Tree) : Keeps _ c.s (if k = 0 then c else addCols c p n (cols.take k) t).s :=
    .eitherOf (st := Comp.s) .nothing (addCols_keeps ..)
  fun_cases addWithin lim c p n cols tree
  · exact addCols_keeps ..
  · exact addCols_keeps ..
  · exact .within (taken ..) rfl
  · exact .within (taken ..) rfl

theorem rungDecode_keeps (p budget lim c n) :
    Keeps [.mem, .parts, .slots, .hif, .log, .lnk, .ras] c.s (rungDecode p budget lim c n).s := by
  fun_cases rungDecode p budget lim c n
  · exact addWithin_keeps ..
  · exact .rfl'

theorem rungCand_keeps (p budget lim c n) :
    Keeps [.mem, .parts, .slots, .hif, .log, .lnk, .ras] c.s (rungCand p budget lim c n).s := by
  fun_cases rungCand p budget lim c n
  case case3 => exact .within (staleTree_keeps ..) rfl
  case case4 => exact addWithin_keeps ..
  all_goals exact .rfl'

theorem rungChunk_keeps (p budget lim c n) :
    Keeps [.mem, .parts, .slots, .hif, .log, .lnk, .ras] c.s (rungChunk p budget lim c n).s := by
  fun_cases rungChunk p budget lim c n
  · exact addWithin_keeps ..
  · exact .rfl'

theorem compose_keeps (s p v) : Keeps [.mem, .parts, .slots, .hif, .log, .lnk, .ras] s (compose s p v).s := by
  have run (m : List Block) (c : Comp) (ns : List Nat) (budget : Nat) (lim : Option Nat) (h : Keeps m s c.s) :
      Keeps _ s (ns.foldl (rungChunk p budget lim)
        (ns.foldl (rungCand p budget lim) (ns.foldl (rungDecode p budget lim) c))).s :=
    .foldOf (st := Comp.s) (fun _ _ => rungChunk_keeps ..) (.foldOf (st := Comp.s) (fun _ _ => rungCand_keeps ..)
      (.foldOf (st := Comp.s) (fun _ _ => rungDecode_keeps ..) h))
  exact .within (run _ _ _ _ _ (run _ _ _ _ _ .nothing)) rfl

theorem takeComposed_keeps (p v c) : Keeps [.mem, .parts, .hif, .log, .ras] c.s (takeComposed p v c) := by
  unfold takeComposed
  dsimp only
  exact .within ((modPart_keeps ..).after ((writeParams_keeps ..).after ((setCand_keeps ..).after (noteDefer_keeps ..)))) rfl

theorem composeFirst_keeps (s p vs) :
    Keeps [.tiles, .mem, .exps, .cmp, .parts, .slots, .hif, .log, .lnk, .ras, .boot, .sec] s (composeFirst s p vs) := by
  fun_induction composeFirst s p vs with
  | case1 => exact .rfl'
  | case2 => exact .within (compose_keeps ..) rfl
  | case3 _ _ _ _ _ _ ih => exact .within (Keeps.after ih ((noteDefer_keeps ..).after (compose_keeps ..))) rfl
  | case4 => exact .within ((startNext_keeps ..).after ((takeComposed_keeps ..).after (compose_keeps ..))) rfl

/-! ### The end of a step (R323 to R329, R342, R347) -/

theorem outToken_keeps (n a t) : Keeps [.parts, .slots, .hif, .log, .lnk, .ras] a.s (outToken n a t).s := by
  fun_cases outToken n a t
  · exact .rfl'
  · have kept (y : Slot) : Keeps _ a.s (setSlot a.s n y) := setSlot_keeps ..
    refine .ite (.within ((toDlq_keeps ..).after (kept _)) rfl) ?_
    split
    · exact .within (.either ((tokenOut_keeps ..).after (kept _)) ((toDlq_keeps ..).after (kept _))) rfl
    · exact .within ((tokenOut_keeps ..).after (kept _)) rfl

/-- The tokens that a column gives, one after another. -/
theorem outTokens_keeps (n) (a : Tally) (ts : List (Nat × Bool)) :
    Keeps [.parts, .slots, .hif, .log, .lnk, .ras] a.s (ts.foldl (outToken n) a).s :=
  .within (.foldOf (st := Tally.s) (fun _ _ => outToken_keeps ..) .nothing) rfl

theorem endColumns_keeps (a n nf) : Keeps [.parts, .slots, .hif, .log, .lnk, .ras] a.s (endColumns a n nf).s := by
  fun_cases endColumns a n nf
  refine .ite (closeSlot_keeps ..) ?_
  split
  · exact closeSlot_keeps ..
  · exact .within (.either (closeSlot_keeps ..) .nothing) rfl

theorem finishDecode_keeps (e a n) : Keeps [.parts, .slots, .hif, .log, .lnk, .ras] a.s (finishDecode e a n).s := by
  fun_cases finishDecode e a n
  · exact .rfl'
  · exact .within ((endColumns_keeps ..).after ((settlePages_keeps ..).after ((modSlot_keeps ..).after
      (.either ((endTree_keeps ..).after (outTokens_keeps ..)) (outTokens_keeps ..))))) rfl

theorem finishPrefill_keeps (e a n) : Keeps [.parts, .slots, .hif, .log, .lnk, .ras] a.s (finishPrefill e a n).s := by
  have columns (s1 : State) (b : Tally) (ks : List Nat) (ts : List (Nat × Bool)) (nf : Bool) (h : Keeps [.slots] a.s s1) :
      Keeps [.parts, .slots, .hif, .log, .lnk, .ras] a.s (endColumns (ts.foldl (outToken n)
        { b with s := ks.foldl (fun s i => insertNode s n i) (settlePages s1 n false) }) n nf).s :=
    .within ((endColumns_keeps ..).after ((outTokens_keeps ..).after
      (.fold (fun _ _ => insertNode_keeps ..) ((settlePages_keeps ..).after h)))) rfl
  fun_cases finishPrefill e a n
  · exact columns _ a _ _ _ (modSlot_keeps ..)
  · exact .within (.either ((handoffTry_keeps ..).after ((modSlot_keeps ..).after (columns _ a _ _ _ (modSlot_keeps ..))))
      ((modSlot_keeps ..).after (columns _ a _ _ _ (modSlot_keeps ..)))) rfl
  · exact .within ((modSlot_keeps ..).after (columns _ a _ _ _ (modSlot_keeps ..))) rfl

theorem finishSlot_keeps (e a n) : Keeps [.parts, .slots, .hif, .log, .lnk, .ras] a.s (finishSlot e a n).s := by
  fun_cases finishSlot e a n
  case case1 | case3 => exact finishPrefill_keeps ..
  case case2 | case4 => exact finishDecode_keeps ..
  case case5 => exact .within (.fold (fun _ _ => toDlq_keeps ..) .nothing) rfl
  case case6 => exact .rfl'

theorem cleanEnd_keeps (s p e) : Keeps [.tiles, .mem, .parts, .slots, .hif, .log, .lnk, .ras, .boot, .sec, .side] s
    (cleanEnd s p e) := by
  unfold cleanEnd
  exact .within ((stagedNow_keeps ..).after ((refreshAdm_keeps ..).after ((preemptDoomed_keeps ..).after
    ((forgetRepeat_keeps ..).after ((resolveComposed_keeps ..).after ((modPart_keeps ..).after ((pushStepRec_keeps ..).after
      (.foldOf (st := Tally.s) (fun _ _ => finishSlot_keeps ..) ((sealWaiting_keeps ..).after (endTiles_keeps ..)))))))))) rfl

end Sys2Proof.Machine
end

section
/-! PROOFS. What a packet's delivery may write (R203, R204, R305, R331 to R334, R435). -/

namespace Sys2Proof.Machine

variable {s u : State}

/-! ### What each kind delivers -/

theorem vectorIn_keeps (s k) : Keeps [.tiles, .parts, .hif, .log, .ras] s (vectorIn s k sparseForm) := by
  unfold vectorIn
  exact .within (.either .nothing (.either (sparseForm_keeps ..) (.either (modTile_keeps ..) .nothing))) rfl

theorem expertIn_keeps (s k route) : Keeps [.tiles, .parts, .hif, .log, .ras] s (expertIn s k route) := by
  unfold expertIn
  exact .within (.either (checkRoute_keeps ..) (vectorIn_keeps ..)) rfl

theorem handoffFirst_keeps (s k p tr) : Keeps [.parts, .slots, .hif, .log, .lnk, .ras] s (handoffFirst s k p tr).1 := by
  fun_cases handoffFirst s k p tr
  case case1 => exact .within ((stopRx_keeps ..).after ((handoffAnswer_keeps ..).after (pushErr_keeps ..))) rfl
  case case2 => exact .within ((stopRx_keeps ..).after ((handoffAnswer_keeps ..).after (pushErr_keeps ..))) rfl
  case case5 h =>
    obtain ⟨-, hs⟩ := Option.ite_none_right_eq_some.mp h
    exact .within ((handoffCheck_keeps ..).after ((setSlot_keeps ..).after
      ((trackedBy_keeps ..).after (allocSets_keeps hs)))) rfl
  all_goals exact .rfl'

theorem handoffIn_keeps (s k p tr) : Keeps [.mem, .parts, .slots, .hif, .log, .lnk, .ras] s (handoffIn s k p tr).1 := by
  fun_cases handoffIn s k p tr
  case case1 => exact .within (handoffFirst_keeps ..) rfl
  case case2 => exact .rfl'
  case case3 => exact .within ((handoffCheck_keeps ..).after (modSlot_keeps ..)) rfl
  case case4 =>
    exact .within (.after (.either (handoffLast_keeps ..) .nothing) ((pageData_keeps ..).after (modSlot_keeps ..))) rfl

theorem copyPages_keeps {k : Packet} {p h : Nat} {r : State × List Nat} (hr : copyPages s k p h = some r) :
    Keeps [.parts] s r.1 := by
  simp only [copyPages] at hr
  split at hr
  · obtain ⟨nd, -, rfl⟩ := Option.map_eq_some_iff.mp hr
    exact .rfl'
  · split at hr
    · cases hr
      exact .rfl'
    · obtain ⟨w, -, hr⟩ := Option.bind_eq_some_iff.mp hr
      exact allocSet_keeps hr

theorem pageCopy_keeps (s k p h) : Keeps [.mem, .parts, .slots, .lnk] s (pageCopy s k p h).1 := by
  fun_cases pageCopy s k p h
  case case1 => exact .within (.either .nothing (copyFails_keeps ..)) rfl
  case case2 hr _ =>
    exact .within (.after (.either ((copyWhole_keeps ..).after (setRx_keeps ..)) .nothing)
      ((pageData_keeps ..).after ((setRx_keeps ..).after (copyPages_keeps hr)))) rfl

theorem offerIn_keeps (s k p h pages) : Keeps [.parts, .hif, .log, .lnk, .ras] s (offerIn s k p h pages).1 := by
  fun_cases offerIn s k p h pages
  case case2 => exact .within (offerCheck_keeps ..) rfl
  case case3 => exact .within (offerCheck_keeps ..) rfl
  case case5 hr _ => exact .within ((offerCheck_keeps ..).after ((modPart_keeps ..).after (cachePages_keeps hr))) rfl
  all_goals exact .rfl'

theorem pageIn_keeps (s k p h m) : Keeps [.mem, .parts, .slots, .hif, .log, .lnk, .ras] s (pageIn s k p h m).1 := by
  cases m with
  | data => exact .within (pageCopy_keeps ..) rfl
  | ask => exact .within (pageAsk_keeps ..) rfl
  | offer pages => exact .within (offerIn_keeps ..) rfl
  | go => exact .within (pageServe_keeps ..) rfl
  | raw => exact .within (pageServe_keeps ..) rfl

/-! ### Delivery in the order of the flow; a relayed access may reach any block -/

/-- All blocks: what a packet may reach, since a relayed write goes to any register. -/
abbrev everyBlock : List Block :=
  [.tmb, .pwr, .tiles, .mem, .exps, .cmp, .parts, .slots, .hif, .log, .lnk, .ras, .boot, .sec, .side]

theorem deliverPkt_keeps (s k b) : Keeps everyBlock s (deliverPkt s k b).1 := by
  cases b with
  | send v => exact .within (.either ((vectorIn_keeps ..).after (sendIn_keeps ..)) (sendIn_keeps ..)) rfl
  | expert route => exact .within (.either ((expertIn_keeps ..).after (sendIn_keeps ..)) (sendIn_keeps ..)) rfl
  | relay b => exact relayIn_keeps ..
  | handoff p tr => exact .within (handoffIn_keeps ..) rfl
  | page p h m => exact .within (pageIn_keeps ..) rfl
  | weight q b => exact .within (weightIn_keeps ..) rfl

theorem deliverRun_keeps (fuel s k b) : Keeps everyBlock s (deliverRun fuel s k b) := by
  induction fuel generalizing s k b with
  | zero => exact .rfl'
  | succ fuel ih =>
    have delivered (r : RxFlow) : Keeps _ s (deliverPkt (setRx s r) k b).1 :=
      (deliverPkt_keeps ..).after (setRx_keeps ..)
    simp only [deliverRun]
    split
    · next h => exact .within ((quenchRx_keeps ..).after (.ofFst h (delivered _))) rfl
    · next s2 h =>
      have acked (c : Prop) [Decidable c] : Keeps _ s (if c then sendAck s2 k.smod k.flow else s2) :=
        .either ((sendAck_keeps ..).after (.ofFst h (delivered _))) (.ofFst h (delivered _))
      split
      · exact .within ((ih ..).after ((setRx_keeps ..).after (acked _))) rfl
      · exact .within (acked _) rfl

theorem rxTake_keeps (s k b) : Keeps everyBlock s (rxTake s k b) := by
  unfold rxTake
  exact .within (.either (modPort_keeps ..) (.either (setRx_keeps ..) (.either (.either .nothing (setRx_keeps ..))
    (deliverRun_keeps ..)))) rfl

theorem packetIn_keeps (s k b) : Keeps everyBlock s (packetIn s k b) := by
  unfold packetIn
  have freed : Keeps _ s (freed s k) := freeRx_keeps ..
  exact .within (.either .nothing (.either (linkReset_keeps ..) (.either (linkReset_keeps ..)
    (.either ((pumpFlows_keeps ..).after (passOn_keeps ..))
      (.either ((modPort_keeps ..).after freed) (.either ((deliverPkt_keeps ..).after freed)
        ((rxTake_keeps ..).after freed))))))) rfl

end Sys2Proof.Machine
end

section
/-! PROOFS. What each command of a tile's program and of its transfers may change: the commands that branch on data, by the
branches of their meaning. -/

namespace Sys2Proof.Machine

/-! ### The trit lookup array (Machine/Tla.lean) -/

theorem execTbuildComplete_keeps (t s err) :
    NextKeeps (mayChange (.tbuildComplete t err)) s (execTbuildComplete t s err) := by
  fun_cases execTbuildComplete t s err
  case case2 => exact .next ((retire_keeps ..).after ((modTile_keeps ..).after (storeErr_keeps ..))) rfl
  all_goals exact .idle

theorem execTlookRowEntry_keeps (t err s st) :
    NextKeeps (mayChange (.tlookRowEntry t err st)) s (execTlookRowEntry t err s st) := by
  fun_cases execTlookRowEntry t err s st
  case case4 =>
    exact .next ((settle_keeps ..).after ((arrayErr_keeps ..).after (.after (.either .nothing (storeErr_keeps ..))
      (.after (.either (progFault_keeps ..) (.either (tileErrOnce_keeps ..) .nothing))
        ((tritCodes_keeps ..).after (setTile_keeps ..)))))) rfl
  all_goals exact .idle

theorem execTlookRetire_keeps (t s) : NextKeeps (mayChange (.tlookRetire t)) s (execTlookRetire t s) := by
  fun_cases execTlookRetire t s
  · exact .idle
  · exact .next (retire_keeps ..) rfl

theorem execDrainRetire_keeps (t s err) : NextKeeps (mayChange (.drainRetire t err)) s (execDrainRetire t s err) := by
  fun_cases execDrainRetire t s err
  case case3 =>
    exact .next ((retire_keeps ..).after ((arrayErr_keeps ..).after ((storeErr_keeps ..).after
      (.fold (fun _ _ => progFault_keeps ..) (.after
        (.either .nothing ((tileErrOnce_keeps ..).after (modCounters_keeps ..)))
        ((countNonfinite_keeps ..).after (setTile_keeps ..))))))) rfl
  all_goals exact .idle

theorem execTlookFeedTimeout_keeps (t s) : NextKeeps (mayChange (.tlookFeedTimeout t)) s (execTlookFeedTimeout t s) := by
  fun_cases execTlookFeedTimeout t s
  case case3 => exact .next (feedSilent_keeps ..) rfl
  all_goals exact .idle

/-! ### The attention engine (Machine/Ae.lean) -/

theorem execKeyJoin_keeps (t tag parity s err) :
    NextKeeps (mayChange (.keyJoin t tag parity err)) s (execKeyJoin t tag parity s err) := by
  fun_cases execKeyJoin t tag parity s err
  case case3 => exact .next ((settle_keeps ..).after ((aeParity_keeps ..).after ((storeErr_keeps ..).after
      ((countNonfinite_keeps ..).after ((modInfl_keeps ..).after (setTile_keeps ..)))))) rfl
  all_goals exact .idle

theorem execAttnQkRetire_keeps (t tag s) : NextKeeps (mayChange (.attnQkRetire t tag)) s (execAttnQkRetire t tag s) := by
  fun_cases execAttnQkRetire t tag s
  case case3 => exact .next ((retire_keeps ..).after (modTile_keeps ..)) rfl
  all_goals exact .idle

theorem execAttnSoftRetire_keeps (t tag s parity err) :
    NextKeeps (mayChange (.attnSoftRetire t tag parity err)) s (execAttnSoftRetire t tag s parity err) := by
  fun_cases execAttnSoftRetire t tag s parity err
  case case2 => exact .next ((retire_keeps ..).after (progFault_keeps ..)) rfl
  case case3 => exact .next ((retire_keeps ..).after ((storeErr_keeps ..).after (modTile_keeps ..))) rfl
  case case4 => exact .next ((retire_keeps ..).after ((aeParity_keeps ..).after ((countNonfinite_keeps ..).after
      (blockRows_keeps ..)))) rfl
  case case5 => exact .next ((retire_keeps ..).after ((aeParity_keeps ..).after (modTile_keeps ..))) rfl
  all_goals exact .idle

theorem execAttnPvRetire_keeps (t tag parity s err) :
    NextKeeps (mayChange (.attnPvRetire t tag parity err)) s (execAttnPvRetire t tag parity s err) := by
  fun_cases execAttnPvRetire t tag parity s err
  case case3 => exact .next ((retire_keeps ..).after ((aeParity_keeps ..).after ((storeErr_keeps ..).after
      (modTile_keeps ..)))) rfl
  all_goals exact .idle

theorem execAeFeedTimeout_keeps (t tag s) : NextKeeps (mayChange (.aeFeedTimeout t tag)) s (execAeFeedTimeout t tag s) := by
  fun_cases execAeFeedTimeout t tag s
  case case3 => exact .next (feedSilent_keeps ..) rfl
  all_goals exact .idle

/-! ### The vector unit (Machine/Vec.lean) -/

theorem execVecRetire_keeps (t parity s err) :
    NextKeeps (mayChange (.vecRetire t parity err)) s (execVecRetire t parity s err) := by
  fun_cases execVecRetire t parity s err
  · exact .idle
  · exact .next ((retire_keeps ..).after (.after
      (.either ((rerunFault_keeps ..).after (countFault_keeps_of fun _ => tileErr_keeps ..)) .nothing)
      ((storeErr_keeps ..).after ((bandEffect_keeps ..).after (vecEffect_keeps ..))))) rfl

theorem execVecRedTimeout_keeps (t s) : NextKeeps (mayChange (.vecRedTimeout t)) s (execVecRedTimeout t s) := by
  fun_cases execVecRedTimeout t s
  · exact .idle
  · exact .next ((waitFault_keeps ..).after (tileErr_keeps ..)) rfl

theorem execRngDrawRetire_keeps (t s) : NextKeeps (mayChange (.rngDrawRetire t)) s (execRngDrawRetire t s) := by
  fun_cases execRngDrawRetire t s
  case case2 => exact .next ((retire_keeps ..).after (modTile_keeps ..)) rfl
  all_goals exact .idle

/-! ### Bands (Machine/Bands.lean) -/

theorem execBandGroupVerdict_keeps (t peers writer s) :
    NextKeeps (mayChange (.bandGroupVerdict t peers writer)) s (execBandGroupVerdict t peers writer s) := by
  fun_cases execBandGroupVerdict t peers writer s
  case case3 =>
    exact .next ((settle_keeps ..).after (.after (.either (layerDense_keeps ..) .nothing)
      (.after (.either .nothing (bandMeta_keeps ..))
        ((modBand_keeps ..).after ((countVerdict_keeps ..).after (modTile_keeps ..)))))) rfl
  all_goals exact .idle

theorem execStrictLayerVerdict_keeps (p step layer set s) :
    NextKeeps (mayChange (.strictLayerVerdict p step layer set)) s (execStrictLayerVerdict p step layer set s) := by
  fun_cases execStrictLayerVerdict p step layer set s
  · exact .idle
  · exact .next (.after (.either (layerDense_keeps ..) .nothing) (.fold (fun _ _ => modTile_keeps ..) .nothing)) rfl

theorem execBandVerdictTimeout_keeps (t s) :
    NextKeeps (mayChange (.bandVerdictTimeout t)) s (execBandVerdictTimeout t s) := by
  fun_cases execBandVerdictTimeout t s
  case case2 => exact .next ((waitFault_keeps ..).after (tileErr_keeps ..)) rfl
  all_goals exact .idle

/-! ### The tile store and transfers (Machine/Store.lean) -/

theorem execMoveRetire_keeps (t tag s err lines) :
    NextKeeps (mayChange (.moveRetire t tag err lines)) s (execMoveRetire t tag s err lines) := by
  have read (v : StoreErr) (n c : Nat) : Keeps _ s (storeErr s n c v) :=
    (storeErr_keeps ..)
  fun_cases execMoveRetire t tag s err lines
  case case3 => exact .next ((refetch_keeps ..).after (read ..)) rfl
  case case4 => exact .next ((refetch_keeps ..).after (read ..)) rfl
  case case5 => exact .next ((retire_keeps ..).after (read ..)) rfl
  case case6 => exact .next ((retire_keeps ..).after ((loadRun_keeps ..).after (read ..))) rfl
  case case7 => exact .next ((retire_keeps ..).after ((memWrite_keeps ..).after (read ..))) rfl
  case case9 => exact .next ((retire_keeps ..).after (read ..)) rfl
  case case11 => exact .next ((finishGet_keeps ..).after (read ..)) rfl
  case case13 => exact .next ((retire_keeps ..).after (read ..)) rfl
  all_goals exact .idle

theorem execCacheFillArrive_keeps (t tag line errs s) :
    NextKeeps (mayChange (.cacheFillArrive t tag line errs)) s (execCacheFillArrive t tag line errs s) := by
  fun_cases execCacheFillArrive t tag line errs s
  case case2 =>
    exact .next (.after (.either (readPoisoned_keeps ..) .nothing)
      ((modInfl_keeps ..).after ((modTile_keeps ..).after (linesRead_keeps_eq ‹_›)))) rfl
  case case3 => exact .next ((modInfl_keeps ..).after ((modTile_keeps ..).after (linesRead_keeps_eq ‹_›))) rfl
  all_goals exact .idle

theorem execWinCloseRetire_keeps (t id s) : NextKeeps (mayChange (.winCloseRetire t id)) s (execWinCloseRetire t id s) := by
  fun_cases execWinCloseRetire t id s
  · exact .next ((settle_keeps ..).after (modTile_keeps ..)) rfl
  · exact .idle

theorem execPutArrive_keeps (t src writer gran data s) :
    NextKeeps (mayChange (.putArrive t src writer gran data)) s (execPutArrive t src writer gran data s) := by
  fun_cases execPutArrive t src writer gran data s
  · exact .idle
  · exact .next (deliver_keeps ..) rfl
  · exact .next (deliver_keeps ..) rfl

theorem execGetArrive_keeps (t src reader gran len s) :
    NextKeeps (mayChange (.getArrive t src reader gran len)) s (execGetArrive t src reader gran len s) := by
  fun_cases execGetArrive t src reader gran len s
  case case2 => exact .next ((moveDone_keeps ..).after (modTile_keeps ..)) rfl
  case case4 => exact .next (refuseMove_keeps ..) rfl
  all_goals exact .idle

theorem execDieSendArrive_keeps (t writer gran data vec s route) :
    NextKeeps (mayChange (.dieSendArrive t writer gran data vec route)) s
      (execDieSendArrive t writer gran data vec s route) := by
  fun_cases execDieSendArrive t writer gran data vec s route
  exact .next (.either ((checkRoute_keeps ..).after ((checkVec_keeps ..).after (deliver_keeps ..))) (deliver_keeps ..)) rfl

theorem execArrivalTimeout_keeps (t s) : NextKeeps (mayChange (.arrivalTimeout t)) s (execArrivalTimeout t s) := by
  have silent (c : RecCode) (o : Nat) (d : List Nat) : NextKeeps (mayChange (.arrivalTimeout t)) s
      (.next (waitOut (waitFault (tileErr s t c .ok o d) t) t)) :=
    .next ((waitOut_keeps ..).after ((waitFault_keeps ..).after (tileErr_keeps ..))) rfl
  fun_cases execArrivalTimeout t s
  · exact silent ..
  · exact silent ..
  · exact silent ..
  · exact .idle

/-! ### Sync and the control processor (Machine/Cp.lean) -/

theorem execBarrierRelease_keeps (t bar s) :
    NextKeeps (mayChange (.barrierRelease t bar)) s (execBarrierRelease t bar s) := by
  have freed (f : Tile → Tile) (ps : List Nat) : Keeps _ s
      (ps.foldl (fun s p => modTile s p (freeBar bar)) (modTile s t f)) :=
    .fold (fun _ _ => modTile_keeps ..) (modTile_keeps ..)
  fun_cases execBarrierRelease t bar s
  · exact .idle
  · exact .idle
  · exact .next (freed ..) rfl
  · exact .next (.either ((modPart_keeps ..).after (freed ..)) (freed ..)) rfl

theorem execSyncTimeout_keeps (t bar s) : NextKeeps (mayChange (.syncTimeout t bar)) s (execSyncTimeout t bar s) := by
  fun_cases execSyncTimeout t bar s
  case case3 => exact .next ((waitFault_keeps ..).after (.after
      (.either (.fold (fun _ _ => (makeSuspect_keeps ..).after (countFault_keeps_of fun _ => .nothing)) .nothing) .nothing)
      (tileErr_keeps ..))) rfl
  all_goals exact .idle

theorem execEndNotice_keeps (t s) : NextKeeps (mayChange (.endNotice t)) s (execEndNotice t s) := by
  fun_cases execEndNotice t s
  case case4 => exact .next (modPart_keeps ..) rfl
  all_goals exact .idle

theorem execAbandonNotice_keeps (t s) : NextKeeps (mayChange (.abandonNotice t)) s (execAbandonNotice t s) := by
  fun_cases execAbandonNotice t s
  · exact .idle
  · exact .next ((report_keeps ..).after ((modTile_keeps ..).after (setTile_keeps ..))) rfl
  · exact .next ((abandonNow_keeps ..).after (setTile_keeps ..)) rfl
  · exact .next (setTile_keeps ..) rfl

theorem execPbPrefetchDone_keeps (t errs s) :
    NextKeeps (mayChange (.pbPrefetchDone t errs)) s (execPbPrefetchDone t errs s) := by
  fun_cases execPbPrefetchDone t errs s
  case case2 => exact .next ((useSection_keeps ..).after (prefetch_keeps_eq ‹_›)) rfl
  case case3 => exact .next (prefetch_keeps_eq ‹_›) rfl
  case case4 => exact .next ((modTile_keeps ..).after (prefetch_keeps_eq ‹_›)) rfl
  case case6 => exact .next ((modTile_keeps ..).after (prefetch_keeps_eq ‹_›)) rfl
  all_goals exact .idle

theorem execSwitchStopNotice_keeps (t s) : NextKeeps (mayChange (.switchStopNotice t)) s (execSwitchStopNotice t s) := by
  fun_cases execSwitchStopNotice t s
  case case2 => exact .next ((settle_keeps ..).after (modTile_keeps ..)) rfl
  all_goals exact .idle

end Sys2Proof.Machine
end

section
/-! PROOFS. What each command of the steps, the expanders, the memory and the loads may change. -/

namespace Sys2Proof.Machine

/-! ### The weight expander (Machine/Expand.lean) -/

theorem execLengthByteArrive_keeps (d e l s) :
    NextKeeps (mayChange (.lengthByteArrive d e l)) s (execLengthByteArrive d e l s) := by
  fun_cases execLengthByteArrive d e l s
  case case3 => exact .next (setLane_keeps ..) rfl
  case case5 => exact .next (setLane_keeps ..) rfl
  all_goals exact .idle

theorem execBlockDecode_keeps (d e l errs s) :
    NextKeeps (mayChange (.blockDecode d e l errs)) s (execBlockDecode d e l errs s) := by
  fun_cases execBlockDecode d e l errs s
  case case3 => exact .next ((setLane_keeps ..).after (decodeReads_keeps_eq ‹_›)) rfl
  case case5 => exact .next ((setLane_keeps ..).after (decodeReads_keeps_eq ‹_›)) rfl
  all_goals exact .idle

theorem execBlockForward_keeps (d e l s) : NextKeeps (mayChange (.blockForward d e l)) s (execBlockForward d e l s) := by
  fun_cases execBlockForward d e l s
  case case2 => exact .next (.fold (fun _ _ => (settle_keeps ..).after (modTile_keeps ..)) (setLane_keeps ..)) rfl
  all_goals exact .idle

theorem execBandListArrive_keeps (d e layer group set copies s) :
    NextKeeps (mayChange (.bandListArrive d e layer group set copies)) s
      (execBandListArrive d e layer group set copies s) := by
  fun_cases execBandListArrive d e layer group set copies s
  case case2 => exact .next ((abandonStep_keeps ..).after (pushErr_keeps ..)) rfl
  case case3 => exact .next (.setExps .nothing) rfl
  all_goals exact .idle

theorem execExpListTimeout_keeps (d e l s) :
    NextKeeps (mayChange (.expListTimeout d e l)) s (execExpListTimeout d e l s) := by
  fun_cases execExpListTimeout d e l s
  case case2 => exact .next ((abandonStep_keeps ..).after (.after
      (.either ((makeSuspect_keeps ..).after (countFault_keeps_of fun _ => .nothing)) .nothing) (pushErr_keeps ..))) rfl
  all_goals exact .idle

theorem execSealComplete_keeps (p page s) : NextKeeps (mayChange (.sealComplete p page)) s (execSealComplete p page s) := by
  fun_cases execSealComplete p page s
  · exact .idle
  · exact .next ((modPart_keeps ..).after (.fold (fun _ _ => sealBlock_keeps ..) .nothing)) rfl

/-! ### Module memory (Machine/MemCtl.lean) -/

theorem execMemoryAccess_keeps (x s) : NextKeeps (mayChange (.memoryAccess x)) s (execMemoryAccess x s) := by
  fun_cases execMemoryAccess x s
  · exact .next ((fwReturns_keeps ..).after (refuseAccess_keeps ..)) rfl
  · exact .next ((fwReturns_keeps ..).after (refuseAccess_keeps ..)) rfl
  · exact .next ((fwReturns_keeps ..).after (memWrite_keeps ..)) rfl
  · exact .next ((fwReturns_keeps ..).after ((requesterTaint_keeps ..).after (lineRead_keeps_eq ‹_›))) rfl
  · exact .next ((fwReturns_keeps ..).after ((aCrcTo_keeps ..).after (lineRead_keeps_eq ‹_›))) rfl
  · exact .next ((fwReturns_keeps ..).after (lineRead_keeps_eq ‹_›)) rfl

theorem execPatrolScrubStep_keeps (ch line err s) :
    NextKeeps (mayChange (.patrolScrubStep ch line err)) s (execPatrolScrubStep ch line err s) := by
  fun_cases execPatrolScrubStep ch line err s
  · exact .idle
  · exact .next ((endPass_keeps ..).after ((markPass_keeps ..).after (.setMem (lineRead_keeps ..)))) rfl

theorem execMigrationBucketDone_keeps (ch spread bucket poisoned s) :
    NextKeeps (mayChange (.migrationBucketDone ch spread bucket poisoned)) s
      (execMigrationBucketDone ch spread bucket poisoned s) := by
  fun_cases execMigrationBucketDone ch spread bucket poisoned s
  case case3 => exact .next (.fold (fun _ _ => poisonBlock_keeps ..) (.setMem (modMig_keeps ..))) rfl
  all_goals exact .idle

theorem execMigrationEnd_keeps (ch s) : NextKeeps (mayChange (.migrationEnd ch)) s (execMigrationEnd ch s) := by
  fun_cases execMigrationEnd ch s
  case case3 => exact .next (.either ((readmitChan_keeps ..).after ((pushErr_keeps ..).after (.setMem .nothing)))
      ((pushErr_keeps ..).after (.setMem .nothing))) rfl
  all_goals exact .idle

/-! ### Bundles, programs and adapters (Machine/Loads.lean) -/

theorem execBundleCommit_keeps (p s) : NextKeeps (mayChange (.bundleCommit p)) s (execBundleCommit p s) := by
  fun_cases execBundleCommit p s
  case case3 => exact .next (failLoad_keeps ..) rfl
  case case4 =>
    exact .next ((finishLater_keeps ..).after (.after (.either (bumpMeas_keeps ..) .nothing)
      ((freeVersions_keeps ..).after ((setLoad_keeps ..).after ((ledger_keeps ..).after (.after
        (.either .nothing (ledger_keeps ..)) ((makeCurrent_keeps ..).after (rebalLoading_keeps ..)))))))) rfl
  all_goals exact .idle

theorem execAdapterCommit_keeps (p adapter s) :
    NextKeeps (mayChange (.adapterCommit p adapter)) s (execAdapterCommit p adapter s) := by
  fun_cases execAdapterCommit p adapter s
  case case3 => exact .next (failLoad_keeps ..) rfl
  case case4 => exact .next ((finishLater_keeps ..).after ((freeVersions_keeps ..).after ((setLoad_keeps ..).after
      ((ledger_keeps ..).after (.setCmp .nothing))))) rfl
  all_goals exact .idle

theorem execLoadCode_keeps (x die slot rec s) :
    NextKeeps (mayChange (.loadCode x die slot rec)) s (execLoadCode x die slot rec s) := by
  refine .next (withCmd_keeps_of (k := mayChange (.loadCode x die slot rec)) fun s _ => ?_) rfl
  dsimp only
  split
  · exact .within ((finishCmd_keeps ..).after ((dmaFailedFor_keeps ..).after (emit_keeps ..))) rfl
  · exact .within ((finishCmd_keeps ..).after ((loadTable_keeps ..).after (emit_keeps ..))) rfl

theorem execLoadBundle_keeps (x addr len b s) :
    NextKeeps (mayChange (.loadBundle x addr len b)) s (execLoadBundle x addr len b s) :=
  .next (withCmd_keeps_of fun _ _ => (bundleStages_keeps ..).after ((setLoad_keeps ..).after
    ((emit_keeps ..).after (acceptCmd_keeps ..)))) rfl

theorem execLoadProgram_keeps (x addr len bundle pr s) :
    NextKeeps (mayChange (.loadProgram x addr len bundle pr)) s (execLoadProgram x addr len bundle pr s) := by
  refine .next (withCmd_keeps_of (k := mayChange (.loadProgram x addr len bundle pr)) fun s j => ?_) rfl
  have held (e : Out) (w : Option Load) : Keeps _ s (setLoad (emit (acceptCmd s x 0x21 j) e) x.part w) :=
    (setLoad_keeps ..).after ((emit_keeps ..).after (acceptCmd_keeps ..))
  dsimp only
  split
  · exact .within ((failLoad_keeps ..).after (held ..)) rfl
  · exact .within (.setCmp (held ..)) rfl

theorem execUnloadBundle_keeps (x bundle s) :
    NextKeeps (mayChange (.unloadBundle x bundle)) s (execUnloadBundle x bundle s) :=
  .next (withCmd_keeps_of fun _ _ => (finishCmd_keeps ..).after ((freeVersions_keeps ..).after
    ((ledger_keeps ..).after (.setCmp .nothing)))) rfl

theorem execUnloadProgram_keeps (x bundle s) :
    NextKeeps (mayChange (.unloadProgram x bundle)) s (execUnloadProgram x bundle s) :=
  .next (withCmd_keeps_of fun _ _ => (finishCmd_keeps ..).after ((freeVersions_keeps ..).after
    ((ledger_keeps ..).after (.setCmp .nothing)))) rfl

theorem execLoadAdapter_keeps (x addr len a s) :
    NextKeeps (mayChange (.loadAdapter x addr len a)) s (execLoadAdapter x addr len a s) := by
  refine .next (withCmd_keeps_of (k := mayChange (.loadAdapter x addr len a)) fun s j => ?_) rfl
  have held (e : Out) (w : Option Load) : Keeps _ s (setLoad (emit (acceptCmd s x 0x23 j) e) x.part w) :=
    (setLoad_keeps ..).after ((emit_keeps ..).after (acceptCmd_keeps ..))
  dsimp only
  split
  · exact .within ((failLoad_keeps ..).after (held ..)) rfl
  · exact .within ((memWrite_keeps ..).after (.setCmp (held ..))) rfl

theorem execDeleteAdapter_keeps (x bundle adapter s) :
    NextKeeps (mayChange (.deleteAdapter x bundle adapter)) s (execDeleteAdapter x bundle adapter s) :=
  .next (withCmd_keeps_of fun _ _ => (finishCmd_keeps ..).after ((freeVersions_keeps ..).after
    ((ledger_keeps ..).after (.setCmp .nothing)))) rfl

/-! ### Steps, slots and contexts (Machine/Compose.lean, Machine/Steps.lean) -/

theorem execStepCompose_keeps (p s) : NextKeeps (mayChange (.stepCompose p)) s (execStepCompose p s) := by
  fun_cases execStepCompose p s
  · exact .next ((startNext_keeps ..).after (preemptIdle_keeps ..)) rfl
  · exact .next ((composeFirst_keeps ..).after (preemptIdle_keeps ..)) rfl

theorem execStepBoundary_keeps (p s) : NextKeeps (mayChange (.stepBoundary p)) s (execStepBoundary p s) := by
  fun_cases execStepBoundary p s
  · exact .idle
  · exact .idle
  · exact .next ((startNext_keeps ..).after (taintedEnd_keeps ..)) rfl
  · exact .next ((startNext_keeps ..).after (cleanEnd_keeps ..)) rfl

theorem execStepAbandonComplete_keeps (p s) :
    NextKeeps (mayChange (.stepAbandonComplete p)) s (execStepAbandonComplete p s) := by
  fun_cases execStepAbandonComplete p s
  case case4 => exact .next ((startNext_keeps ..).after (abandonEnd_keeps ..)) rfl
  all_goals exact .idle

theorem execSlotRelease_keeps (k s) : NextKeeps (mayChange (.slotRelease k)) s (execSlotRelease k s) := by
  fun_cases execSlotRelease k s
  · exact .idle
  · exact .next ((refreshAdm_keeps ..).after ((refreshSwap_keeps ..).after ((freeVersions_keeps ..).after
      (setSlot_keeps ..)))) rfl

theorem execHandoffRetryTimer_keeps (k s) : NextKeeps (mayChange (.handoffRetryTimer k)) s (execHandoffRetryTimer k s) := by
  fun_cases execHandoffRetryTimer k s
  · exact .next ((handoffTry_keeps ..).after (modSlot_keeps ..)) rfl
  · exact .idle
  · exact .idle

theorem execSwapRecordWritten_keeps (p page s) :
    NextKeeps (mayChange (.swapRecordWritten p page)) s (execSwapRecordWritten p page s) := by
  fun_cases execSwapRecordWritten p page s
  case case2 => exact .next ((refreshSwap_keeps ..).after (modSlot_keeps ..)) rfl
  case case4 => exact .next ((refreshSwap_keeps ..).after ((modSlot_keeps ..).after ((modPart_keeps ..).after
      ((emit_keeps ..).after (drawFree_keeps_eq ‹_›))))) rfl
  all_goals exact .idle

theorem execReadmit_keeps (k s) : NextKeeps (mayChange (.readmit k)) s (execReadmit k s) := by
  have room (c : Prop) [Decidable c] (n : Nat) : Keeps _ s (if c then readmitRoom s n else s) :=
    .either (readmitRoom_keeps ..) .nothing
  fun_cases execReadmit k s
  · exact .idle
  · exact .next (room ..) rfl
  · exact .next ((returnRecompute_keeps ..).after (room ..)) rfl
  · exact .next ((postState_keeps ..).after ((modSlot_keeps ..).after (room ..))) rfl
  · exact .next (room ..) rfl
  · exact .next ((modSlot_keeps ..).after (.fold (fun _ _ => emit_keeps ..) (room ..))) rfl

theorem execRestorePage_keeps (k data s) : NextKeeps (mayChange (.restorePage k data)) s (execRestorePage k data s) := by
  fun_cases execRestorePage k data s
  case case2 => exact .next ((restoreFails_keeps ..).after (dmaFailed_keeps ..)) rfl
  case case3 => exact .next (restoreFails_keeps ..) rfl
  case case5 hp _ _ _ _ _ =>
    obtain ⟨q, -, hq⟩ := Option.bind_eq_some_iff.mp hp
    exact .next (.after (.either ((postState_keeps ..).after (modSlot_keeps ..)) .nothing)
      ((refreshSwap_keeps ..).after ((modSlot_keeps ..).after ((modPart_keeps ..).after ((putSwap_keeps ..).after
        (allocPage_keeps hq)))))) rfl
  all_goals exact .idle

theorem execContextSwitch_keeps (p s) : NextKeeps (mayChange (.contextSwitch p)) s (execContextSwitch p s) := by
  fun_cases execContextSwitch p s
  case case3 => exact .next (modPart_keeps ..) rfl
  all_goals exact .idle

theorem execSwitchSaveDone_keeps (p s) : NextKeeps (mayChange (.switchSaveDone p)) s (execSwitchSaveDone p s) := by
  fun_cases execSwitchSaveDone p s
  · exact .idle
  · exact .next ((modPart_keeps ..).after (.fold (fun _ _ => modTile_keeps ..) (clearLanes_keeps ..))) rfl

theorem execSwitchRestoreDone_keeps (p s) : NextKeeps (mayChange (.switchRestoreDone p)) s (execSwitchRestoreDone p s) := by
  fun_cases execSwitchRestoreDone p s
  · exact .idle
  · exact .next ((startNext_keeps ..).after (.fold (fun _ _ => settle_keeps ..) (restoreCtx_keeps ..))) rfl
  · exact .next ((startNext_keeps ..).after (restoreCtx_keeps ..)) rfl

theorem execQuiesceTimeout_keeps (p s) : NextKeeps (mayChange (.quiesceTimeout p)) s (execQuiesceTimeout p s) := by
  fun_cases execQuiesceTimeout p s
  case case3 => exact .next ((abandonStep_keeps ..).after (pushErr_keeps ..)) rfl
  all_goals exact .idle

theorem execReadmission_keeps (p s) : NextKeeps (mayChange (.readmission p)) s (execReadmission p s) := by
  fun_cases execReadmission p s
  case case3 => exact .next (runReadmission_keeps ..) rfl
  all_goals exact .idle

end Sys2Proof.Machine
end

section
/-! PROOFS. What each command of the host, the links and the faults may change. -/

namespace Sys2Proof.Machine

/-! ### The host interface (Machine/Host.lean) -/

theorem execHostLinkReset_keeps (perst s) : NextKeeps (mayChange (.hostLinkReset perst)) s (execHostLinkReset perst s) := by
  fun_cases execHostLinkReset perst s
  · exact .next (.either (.setSide .nothing) .nothing) rfl
  · exact .next (.setHif ((modFn_keeps ..).after ((pf0Reset_keeps ..).after (.either (.setSide .nothing) .nothing)))) rfl

theorem execBusMasterEnableChange_keeps (fn on s) :
    NextKeeps (mayChange (.busMasterEnableChange fn on)) s (execBusMasterEnableChange fn on s) := by
  fun_cases execBusMasterEnableChange fn on s
  · exact .next (modFn_keeps ..) rfl
  · exact .next (.fold (fun _ _ => .either (setRingSt_keeps ..) .nothing) (modFn_keeps ..)) rfl
  · exact .next (.fold (fun _ _ => .either (setRingSt_keeps ..) .nothing) (modFn_keeps ..)) rfl

theorem execTlpError_keeps (fn unsupported s) :
    NextKeeps (mayChange (.tlpError fn unsupported)) s (execTlpError fn unsupported s) := by
  fun_cases execTlpError fn unsupported s
  · exact .idle
  · exact .next (noBar_keeps ..) rfl
  · exact .next (violate_keeps_of fun _ => pushErr_keeps ..) rfl

theorem execBar4Access_keeps (off len data ep errs s) :
    NextKeeps (mayChange (.bar4Access off len data ep errs)) s (execBar4Access off len data ep errs s) := by
  fun_cases execBar4Access off len data ep errs s
  · exact .next (emit_keeps ..) rfl
  · exact .next (noBar_keeps ..) rfl
  · exact .next ((emit_keeps ..).after (violate_keeps_of fun _ => pushErr_keeps ..)) rfl
  · exact .next (bar4No_keeps ..) rfl
  · exact .next (bar4Write_keeps ..) rfl
  · exact .next (bar4No_keeps ..) rfl
  · exact .next ((emit_keeps ..).after (linesRead_keeps_eq ‹_›)) rfl
  · exact .next ((emit_keeps ..).after ((bar4Bad_keeps ..).after (linesRead_keeps_eq ‹_›))) rfl

theorem execPauseEnd_keeps (fn s) : NextKeeps (mayChange (.pauseEnd fn)) s (execPauseEnd fn s) := by
  fun_cases execPauseEnd fn s
  · exact .idle
  · exact .next (.fold (fun _ _ => latchedBell_keeps ..) (.fold (fun _ _ => .either (setRingSt_keeps ..) .nothing)
      ((pushErr_keeps ..).after (modFn_keeps ..)))) rfl

theorem execRingFetch_keeps (p r descs s) : NextKeeps (mayChange (.ringFetch p r descs)) s (execRingFetch p r descs s) := by
  have read (e f : Out) (c : Prop) [Decidable c] : Keeps _ s
      (if c then emit (emit s e) f else emit s e) := .after (.either (emit_keeps ..) .nothing) (emit_keeps ..)
  unfold execRingFetch
  refine .either .idle (.next (k := mayChange (.ringFetch p r descs)) ((writeback_keeps ..).via (mem_of_all rfl) ?_) rfl)
  split
  · exact .within (.fold (fun _ _ => forwardOne_keeps ..) (read ..)) rfl
  · exact .within (.fold (fun _ _ => takeOne_keeps ..) (read ..)) rfl

theorem execOutputBatchWrite_keeps (p r s) :
    NextKeeps (mayChange (.outputBatchWrite p r)) s (execOutputBatchWrite p r s) := by
  fun_cases execOutputBatchWrite p r s
  · exact .idle
  · exact .next (.after (.either (fireRing_keeps ..) .nothing) ((writeback_keeps ..).after (drainRing_keeps ..))) rfl

theorem execRelayAccess_keeps (rd off width value s) :
    NextKeeps (mayChange (.relayAccess rd off width value)) s (execRelayAccess rd off width value s) := by
  fun_cases execRelayAccess rd off width value s
  · exact .idle
  · refine .next (k := [.hif, .log, .ras]) ?_ rfl
    split
    · exact .within ((emit_keeps ..).after (relayRecord_keeps ..)) rfl
    · exact .within (relayRecord_keeps ..) rfl
  · exact .next ((sendVc0_keeps ..).after (.setLnk .nothing)) rfl
  · exact .next (sendVc0_keeps ..) rfl

theorem execRelayTimeout_keeps (m s) : NextKeeps (mayChange (.relayTimeout m)) s (execRelayTimeout m s) :=
  .next (.fold (fun _ _ => (emit_keeps ..).after (relayRecord_keeps ..)) (.setLnk .nothing)) rfl

theorem execWideRegisterLowRead_keeps (rd off s) :
    NextKeeps (mayChange (.wideRegisterLowRead rd off)) s (execWideRegisterLowRead rd off s) := by
  fun_cases execWideRegisterLowRead rd off s
  · exact .idle
  · exact .next ((emit_keeps ..).after (readReg_keeps_eq ‹_›)) rfl

/-! ### Requests (Machine/Submit.lean) -/

theorem execSubmit_keeps (x a blk s) : NextKeeps (mayChange (.submit x a blk)) s (execSubmit x a blk s) := by
  have read (y : Src) (c : Prop) [Decidable c] (b n : Nat) : Keeps _ s
      (if c then readNamed (takeCmd s y 1).s x b n else (takeCmd s y 1).s) :=
    .after (.either (readNamed_keeps ..) .nothing) (takeCmd_keeps ..)
  fun_cases execSubmit x a blk s
  · exact .next ((refuseSubmitRec_keeps ..).after (read ..)) rfl
  · exact .next ((refuseSubmit_keeps ..).after ((dmaFailedFor_keeps ..).after (read ..))) rfl
  · exact .next ((admitNew_keeps ..).after (read ..)) rfl

theorem execSpeculate_keeps (x tree s) : NextKeeps (mayChange (.speculate x tree)) s (execSpeculate x tree s) := by
  refine .next (withCmd_keeps_of (k := mayChange (.speculate x tree)) fun s _ => ?_) rfl
  dsimp only
  split
  · exact .within ((finishCmd_keeps ..).after ((dmaFailedFor_keeps ..).after (readNamed_keeps ..))) rfl
  · exact .within ((modSlot_keeps ..).after ((startCmd_keeps ..).after ((endTree_keeps ..).after (readNamed_keeps ..)))) rfl

theorem execCancel_keeps (x s) : NextKeeps (mayChange (.cancel x)) s (execCancel x s) :=
  .next (withCmd_keeps_of fun _ _ => .either ((cancelSlot_keeps ..).after (waitCancel_keeps ..))
    (.either (finishCmd_keeps ..) ((endCmd_keeps ..).after ((cancelSlot_keeps ..).after (startCmd_keeps ..))))) rfl

theorem execCancelAll_keeps (x s) : NextKeeps (mayChange (.cancelAll x)) s (execCancelAll x s) :=
  .next (withCmd_keeps_of fun _ _ => .either
    ((endCmd_keeps ..).after (.fold (fun _ _ => .either (cancelSlot_keeps ..) (.either .nothing (cancelSlot_keeps ..)))
      (startCmd_keeps ..)))
    (.fold (fun _ _ => .either (cancelSlot_keeps ..) (.either .nothing (cancelSlot_keeps ..))) (waitCancel_keeps ..))) rfl

/-! ### Rings, contexts, configuration (Machine/Commands.lean) -/

theorem execDmaReadComplete_keeps (why bad s) :
    NextKeeps (mayChange (.dmaReadComplete why bad)) s (execDmaReadComplete why bad s) := by
  fun_cases execDmaReadComplete why bad s
  case case3 => exact .next ((dmaFailed_keeps ..).after (ringTo_keeps ..)) rfl
  case case5 => exact .next ((failLoad_keeps ..).after (dmaFailedFor_keeps ..)) rfl
  case case7 => exact .next ((restoreFails_keeps ..).after (dmaFailed_keeps ..)) rfl
  case case8 => exact .next (dmaFailedFor_keeps ..) rfl
  case case9 => exact .next ((refuseSubmit_keeps ..).after ((takeCmd_keeps ..).after (dmaFailedFor_keeps ..))) rfl
  case case10 => exact .next ((finishCmd_keeps ..).after ((takeCmd_keeps ..).after (dmaFailedFor_keeps ..))) rfl
  all_goals exact .idle

theorem execConfig_keeps (x off width value mask s) :
    NextKeeps (mayChange (.config x off width value mask)) s (execConfig x off width value mask s) := by
  refine .next (withCmd_keeps_of (k := mayChange (.config x off width value mask)) fun s _ => ?_) rfl
  split
  · exact .rfl'
  · refine .ite (.within (configRefuse_keeps ..) rfl) ?_
    split
    · exact .within (configRefuse_keeps ..) rfl
    · exact .within (configDo_keeps ..) rfl

theorem execContextCreate_keeps (x s) : NextKeeps (mayChange (.contextCreate x)) s (execContextCreate x s) :=
  .next (withCmd_keeps_of fun _ _ => .either
    ((finishCmd_keeps ..).after ((nctxLedger_keeps ..).after (pushErr_keeps ..)))
    ((finishCmd_keeps ..).after ((nctxLedger_keeps ..).after (modPart_keeps ..)))) rfl

/-! ### Links (Machine/Ports.lean) -/

theorem execIdentReceive_keeps (p m q g o s) :
    NextKeeps (mayChange (.identReceive p m q g o)) s (execIdentReceive p m q g o s) := by
  fun_cases execIdentReceive p m q g o s
  · exact .idle
  · exact .next (.after (.either (pickMaster_keeps ..) .nothing) ((refreshRoutes_keeps ..).after (modPort_keeps ..))) rfl
  · exact .next ((pushErr_keeps ..).after (modPort_keeps ..)) rfl

theorem execNakReceive_keeps (p seq s) : NextKeeps (mayChange (.nakReceive p seq)) s (execNakReceive p seq s) := by
  fun_cases execNakReceive p seq s
  · exact .idle
  · exact .next ((replay_keeps ..).after (modPort_keeps ..)) rfl
  · exact .next ((replay_keeps ..).after (modPort_keeps ..)) rfl
  · exact .next (linkReset_keeps ..) rfl

theorem execAckReceive_keeps (flow pseq s) :
    NextKeeps (mayChange (.ackReceive flow pseq)) s (execAckReceive flow pseq s) := by
  refine .next (.fold (k := [.parts, .lnk]) (fun _ f => ?_) (.setLnk .nothing)) rfl
  split
  · exact .within (serveEnd_keeps ..) rfl
  · exact .within (spillDone_keeps ..) rfl
  · exact .rfl'

theorem execResendTimer_keeps (flow pseq s) :
    NextKeeps (mayChange (.resendTimer flow pseq)) s (execResendTimer flow pseq s) := by
  fun_cases execResendTimer flow pseq s
  · exact .idle
  · exact .idle
  · exact .next (flowFail_keeps ..) rfl
  · exact .next ((pumpFlows_keeps ..).after (.setLnk .nothing)) rfl

theorem execQuenchReceive_keeps (flow why s) :
    NextKeeps (mayChange (.quenchReceive flow why)) s (execQuenchReceive flow why s) := by
  fun_cases execQuenchReceive flow why s
  · exact .next (.either (dropArriving_keeps ..) .nothing) rfl
  · exact .next ((moveFault_keeps ..).after ((dropInfl_keeps ..).after (.setLnk .nothing))) rfl
  · exact .next ((dropInfl_keeps ..).after (.setLnk .nothing)) rfl
  · exact .next ((modSlot_keeps ..).after (.setLnk .nothing)) rfl
  · exact .next (.either ((handoffTry_keeps ..).after (.setLnk .nothing)) (.setLnk .nothing)) rfl
  · exact .next ((serveEnd_keeps ..).after (.setLnk .nothing)) rfl
  · exact .next ((spillFails_keeps ..).after (.setLnk .nothing)) rfl
  · exact .next ((copyFails_keeps ..).after ((dropRemote_keeps ..).after (.setLnk .nothing))) rfl
  · exact .next (.setLnk .nothing) rfl

theorem execRouteReceive_keeps (dst reachable s) :
    NextKeeps (mayChange (.routeReceive dst reachable)) s (execRouteReceive dst reachable s) := by
  fun_cases execRouteReceive dst reachable s
  · exact .idle
  · exact .next ((pumpFlows_keeps ..).after (.setLnk .nothing)) rfl
  · exact .next ((lostModule_keeps ..).after (.either (.setLnk .nothing)
      ((declareEvent_keeps ..).after (.setLnk .nothing)))) rfl

theorem execPortDown_keeps (p s) : NextKeeps (mayChange (.portDown p)) s (execPortDown p s) := by
  fun_cases execPortDown p s
  case case4 => exact .idle
  all_goals exact .next (portDown_keeps ..) rfl

theorem execLnkRetrainWrite_keeps (o p s) : NextKeeps (mayChange (.lnkRetrainWrite o p)) s (execLnkRetrainWrite o p s) := by
  fun_cases execLnkRetrainWrite o p s
  · exact .next (.either (retrainPort_keeps ..) .nothing) rfl
  · exact .next (.either (retrainPort_keeps ..) .nothing) rfl
  · exact .idle

theorem execSleepPacketTimeout_keeps (flow s) :
    NextKeeps (mayChange (.sleepPacketTimeout flow)) s (execSleepPacketTimeout flow s) :=
  .next (.either ((flowFail_keeps ..).after (dropTransit_keeps ..)) (dropTransit_keeps ..)) rfl

theorem execTimeReceive_keeps (peer hops t1 t2 t3 t4 s) :
    NextKeeps (mayChange (.timeReceive peer hops t1 t2 t3 t4)) s (execTimeReceive peer hops t1 t2 t3 t4 s) := by
  fun_cases execTimeReceive peer hops t1 t2 t3 t4 s
  · exact .next (.setLnk .nothing) rfl
  · exact .next (.either (.setLnk .nothing) ((discipline_keeps ..).after (.setLnk .nothing))) rfl
  · exact .next ((discipline_keeps ..).after (.setLnk .nothing)) rfl

theorem execHandoffAckReceive_keeps (k accepted st s) :
    NextKeeps (mayChange (.handoffAckReceive k accepted st)) s (execHandoffAckReceive k accepted st s) := by
  fun_cases execHandoffAckReceive k accepted st s
  · exact .idle
  · exact .next ((handoffPages_keeps ..).after (dropHandoff_keeps ..)) rfl
  · exact .next ((handoffPages_keeps ..).after (dropHandoff_keeps ..)) rfl
  · exact .next ((refreshAdm_keeps ..).after ((modSlot_keeps ..).after ((releasePages_keeps ..).after
      (dropHandoff_keeps ..)))) rfl
  · exact .next ((closeSlot_keeps ..).after (dropHandoff_keeps ..)) rfl
  · exact .next ((handoffTry_keeps ..).after (dropHandoff_keeps ..)) rfl

/-! ### Faults, tests and repairs (Machine/Faults.lean, Machine/Repair.lean) -/

theorem execCountAgeOut_keeps (u s) : NextKeeps (mayChange (.countAgeOut u)) s (execCountAgeOut u s) := by
  fun_cases execCountAgeOut u s
  exact .next (setUnit_keeps ..) rfl

theorem execCeRateHour_keeps (u count s) : NextKeeps (mayChange (.ceRateHour u count)) s (execCeRateHour u count s) := by
  fun_cases execCeRateHour u count s
  · exact .next (.either (countFault_keeps_of fun _ => .nothing) .nothing) rfl
  · exact .idle

theorem execRasUnfenceGo_keeps (o u s) : NextKeeps (mayChange (.rasUnfenceGo o u)) s (execRasUnfenceGo o u s) := by
  fun_cases execRasUnfenceGo o u s
  · exact .next (.either (unfence_keeps ..) .nothing) rfl
  · exact .next (.either (unfence_keeps ..) .nothing) rfl
  · exact .idle

theorem execFtRotation_keeps (s) : NextKeeps (mayChange .ftRotation) s (execFtRotation s) := by
  fun_cases execFtRotation s
  · exact .idle
  · exact .next ((beginOther_keeps ..).after (.setRas .nothing)) rfl
  · exact .next ((beginSession_keeps ..).after (.setRas .nothing)) rfl
  · exact .next (.setRas .nothing) rfl

theorem execFtSessionDone_keeps (t tileOk badRows expOk s) :
    NextKeeps (mayChange (.ftSessionDone t tileOk badRows expOk)) s (execFtSessionDone t tileOk badRows expOk s) := by
  fun_cases execFtSessionDone t tileOk badRows expOk s
  · exact .idle
  · exact .next ((settleUnit_keeps ..).after (.fold (fun _ _ => settleUnit_keeps ..)
      (.either ((unitPass_keeps ..).after (endSession_keeps ..))
        ((fenceAny_keeps ..).after ((pushErr_keeps ..).after (endSession_keeps ..)))))) rfl

theorem execCoreTestDone_keeps (u pass s) : NextKeeps (mayChange (.coreTestDone u pass)) s (execCoreTestDone u pass s) := by
  fun_cases execCoreTestDone u pass s
  · exact .next (endTest_keeps ..) rfl
  · exact .next (endTest_keeps ..) rfl
  · exact .idle

theorem execRebalanceDone_keeps (u s) : NextKeeps (mayChange (.rebalanceDone u)) s (execRebalanceDone u s) := by
  fun_cases execRebalanceDone u s
  · exact .idle
  · exact .next (.after (forParts_keeps_of fun _ _ => modPart_keeps ..)
      (.after (.either (rebalDie_keeps ..) .nothing) (.setRas .nothing))) rfl

theorem execFenceListWrite_keeps (s) : NextKeeps (mayChange .fenceListWrite) s (execFenceListWrite s) := by
  fun_cases execFenceListWrite s
  · exact .idle
  · exact .next (.setRasBoot .nothing) rfl

theorem execEdgeLinkTimeout_keeps (d dir s parity) :
    NextKeeps (mayChange (.edgeLinkTimeout d dir parity)) s (execEdgeLinkTimeout d dir s parity) := by
  fun_cases execEdgeLinkTimeout d dir s parity
  · exact .idle
  · exact .next (countFault_keeps_of fun _ => pushErr_keeps ..) rfl

theorem execCoreWatchdog_keeps (xd core inSo s) :
    NextKeeps (mayChange (.coreWatchdog xd core inSo)) s (execCoreWatchdog xd core inSo s) := by
  fun_cases execCoreWatchdog xd core inSo s
  · exact .idle
  · exact .next ((fwFault_keeps ..).after (countFault_keeps_of fun _ => pushErr_keeps ..)) rfl

theorem execRepairAttemptResult_keeps (block source host s) :
    NextKeeps (mayChange (.repairAttemptResult block source host)) s (execRepairAttemptResult block source host s) := by
  fun_cases execRepairAttemptResult block source host s
  · exact .idle
  · exact .next (repairedBy_keeps ..) rfl
  · exact .next (.either ((askPeer_keeps ..).after (modRepair_keeps ..)) ((askHost_keeps ..).after (modRepair_keeps ..))) rfl
  · exact .next (repairLost_keeps ..) rfl

end Sys2Proof.Machine
end

section
/-! PROOFS. What each command of the boot, the security engine, the power and thermal control, the sleep and the side band
may change (O60). -/

namespace Sys2Proof.Machine

/-! ### Boot and activation (Machine/Boot.lean, Machine/Activate.lean) -/

theorem execBootRomStart_keeps (fast s) : NextKeeps (mayChange (.bootRomStart fast)) s (execBootRomStart fast s) := by
  have slow : Keeps _ s (if fast then s else pushErr s .bootSlow {}) :=
    .either .nothing (pushErr_keeps ..)
  fun_cases execBootRomStart fast s
  · exact .idle
  · exact .next (.setBoot (.setPwrSec slow)) rfl
  · exact .next ((toRecovery_keeps ..).after (.setBoot (.setPwrSec slow))) rfl

theorem execModidSample_keeps (first further s) :
    NextKeeps (mayChange (.modidSample first further)) s (execModidSample first further s) := by
  fun_cases execModidSample first further s
  · exact .idle
  · exact .next (takeModId_keeps ..) rfl
  · exact .next (takeModId_keeps ..) rfl
  · exact .idle
  · exact .next ((pushErr_keeps ..).after (takeModId_keeps ..)) rfl

theorem execImageVerified_keeps (s) : NextKeeps (mayChange .imageVerified) s (execImageVerified s) := by
  have derived (b : Boot) (i : List Byte) : Keeps _ s (deriveAlias { s with boot := b } i) :=
    (deriveAlias_keeps ..).after (.setBoot .nothing)
  fun_cases execImageVerified s
  · exact .idle
  · exact .next (slotFails_keeps ..) rfl
  · exact .next (slotFails_keeps ..) rfl
  · exact .next (.either ((pushErr_keeps ..).after (derived ..)) (derived ..)) rfl

theorem execStacksTrained_keeps (failed s) :
    NextKeeps (mayChange (.stacksTrained failed)) s (execStacksTrained failed s) := by
  fun_cases execStacksTrained failed s
  case case2 =>
    exact .next (.setRasBoot ((pickMaster_keeps ..).after ((trainPorts_keeps ..).after ((withdrawAll_keeps ..).after
      ((dropLost_keeps ..).after (.fold (fun _ _ => applyRec_keeps ..) (.fold (fun _ _ => applyRec_keeps ..)
        ((applyList_keeps ..).after ((powerDies_keeps ..).after ((applyEnv_keeps ..).after (.setHifLnk .nothing))))))))))) rfl
  all_goals exact .idle

theorem execFirmwareRun_keeps (s) : NextKeeps (mayChange .firmwareRun) s (execFirmwareRun s) :=
  .either .idle (.next (.either (.setBoot .nothing) ((writeSel_keeps ..).after (.setBoot .nothing))) rfl)

theorem execRunTimeout_keeps (s) : NextKeeps (mayChange .runTimeout) s (execRunTimeout s) :=
  .either .idle (.next ((slotFails_keeps ..).after (.fold (fun _ _ => powerDown_keeps ..)
    ((keepIsland_keeps ..).after (.setBoot .nothing)))) rfl)

theorem execImageWriteDone_keeps (readBack s) :
    NextKeeps (mayChange (.imageWriteDone readBack)) s (execImageWriteDone readBack s) := by
  fun_cases execImageWriteDone readBack s
  · exact .idle
  · exact .next ((ledger_keeps ..).after ((pushErr_keeps ..).after ((imgOut_keeps ..).after ((writeSel_keeps ..).after
      ((putImg_keeps ..).after (.setBoot .nothing)))))) rfl
  · exact .next (.after (refuseReg_keeps_of fun _ => imgOut_keeps ..)
      ((slotTo_keeps ..).after (.setBoot .nothing))) rfl

theorem execCoreBankSwitch_keeps (c s) : NextKeeps (mayChange (.coreBankSwitch c)) s (execCoreBankSwitch c s) := by
  fun_cases execCoreBankSwitch c s
  · exact .idle
  · exact .next ((switchAll_keeps ..).after (.setBoot .nothing)) rfl
  · exact .next (.setBoot .nothing) rfl

theorem execActivationConfirm_keeps (s) : NextKeeps (mayChange .activationConfirm) s (execActivationConfirm s) := by
  fun_cases execActivationConfirm s
  case case2 =>
    exact .next ((ledger_keeps ..).after ((bumpMeas_keeps ..).after (.setBoot ((writeSel_keeps ..).after
      (actOut_keeps ..))))) rfl
  all_goals exact .idle

theorem execReboot_keeps (o s) : NextKeeps (mayChange (.reboot o)) s (execReboot o s) := by
  have rebooted : Keeps _ s (if s.side.mainOn then rebootNow s o else s) :=
    .either (rebootNow_keeps ..) .nothing
  fun_cases execReboot o s
  · exact .next rebooted rfl
  · exact .next rebooted rfl
  · exact .idle

/-! ### Security (Machine/Security.lean, Machine/Spdm.lean) -/

theorem execFuseBlowDone_keeps (good blown s) :
    NextKeeps (mayChange (.fuseBlowDone good blown)) s (execFuseBlowDone good blown s) := by
  fun_cases execFuseBlowDone good blown s
  · exact .idle
  · exact .next (commitEnd_keeps ..) rfl
  · exact .next (revokeEnd_keeps ..) rfl

theorem execDoeAbort_keeps (t s) : NextKeeps (mayChange (.doeAbort t)) s (execDoeAbort t s) := by
  fun_cases execDoeAbort t s
  · exact .next (setConn_keeps ..) rfl
  · exact .idle

theorem execJtagInstruction_keeps (ir s) : NextKeeps (mayChange (.jtagInstruction ir)) s (execJtagInstruction ir s) :=
  .either .idle (.either .idle (.next ((pushErr_keeps ..).after (.setSec .nothing)) rfl))

/-! ### Pace and time (Machine/Pace.lean, Machine/Timebase.lean) -/

theorem execPaceWindowEnd_keeps (die turns s) :
    NextKeeps (mayChange (.paceWindowEnd die turns)) s (execPaceWindowEnd die turns s) := by
  have ended (ws : List (Nat × Stages)) (f : DiePwr → DiePwr) : Keeps _ s
      (modDie (ws.foldl (fun s w => unitWindowEnd s die.val w.1 w.2) s) die.val f) :=
    (modDie_keeps ..).after (.fold (fun _ _ => unitWindowEnd_keeps ..) .nothing)
  fun_cases execPaceWindowEnd die turns s
  · exact .idle
  · exact .next ((modDie_keeps ..).after (ended ..)) rfl
  · exact .next (.fold (fun _ _ => paceLow_keeps ..) (.setPwr ((modDie_keeps ..).after (ended ..)))) rfl

theorem execPaceLowClear_keeps (p s) : NextKeeps (mayChange (.paceLowClear p)) s (execPaceLowClear p s) :=
  .either (.next ((pushErr_keeps ..).after (modPart_keeps ..)) rfl) .idle

/-! ### Power and heat (Machine/Power.lean, Machine/Throttle.lean) -/

theorem execPowerGrantTick_keeps (mv ma10 p1 p10 dieW s) :
    NextKeeps (mayChange (.powerGrantTick mv ma10 p1 p10 dieW)) s (execPowerGrantTick mv ma10 p1 p10 dieW s) :=
  .either .idle (.next (.fold (fun _ _ => planDie_keeps ..) (.fold (fun _ _ => modDie_keeps ..)
    ((budgetCheck_keeps ..).after (.setPwr .nothing)))) rfl)

theorem execThermalVlimitTick_keeps (die north south io s) :
    NextKeeps (mayChange (.thermalVlimitTick die north south io)) s (execThermalVlimitTick die north south io s) := by
  have taken (f : DiePwr → DiePwr) : Keeps _ s
      (modDie (if die.val < 16 then takeTemps s die.val (dieTemps north south) else s) die.val f) :=
    (modDie_keeps ..).after (.either (takeTemps_keeps ..) .nothing)
  exact .either .idle (.either (.next ((pushErr_keeps ..).after (.setPwr (taken ..))) rfl) (.next (taken ..) rfl))

theorem execSensorFail_keeps (t s) : NextKeeps (mayChange (.sensorFail t)) s (execSensorFail t s) :=
  .either .idle (.next ((pushErr_keeps ..).after (.setPwr .nothing)) rfl)

theorem execThermalTrip_keeps (die s) : NextKeeps (mayChange (.thermalTrip die)) s (execThermalTrip die s) :=
  .either .idle (.either (.next (powerLoss_keeps ..) rfl) (.next (.setBootPwrHif (.setRas
    (.fold (fun _ _ => powerDown_keeps ..) ((keepIsland_keeps ..).after ((errNow_keeps ..).after (modDie_keeps ..)))))) rfl))

theorem execThrottleAssert_keeps (s) : NextKeeps (mayChange .throttleAssert) s (execThrottleAssert s) :=
  .either .idle (.next (.either (throttleEdge_keeps ..) (.setSide .nothing)) rfl)

theorem execThrottleDeassert_keeps (s) : NextKeeps (mayChange .throttleDeassert) s (execThrottleDeassert s) :=
  .either .idle (.next (.either (throttleEdge_keeps ..) (.setSide .nothing)) rfl)

theorem execThrottleHoldEnd_keeps (s) : NextKeeps (mayChange .throttleHoldEnd) s (execThrottleHoldEnd s) :=
  .either (.next (.either (.setSide .nothing)
    ((throttleEvent_keeps ..).after ((throttleClear_keeps ..).after (.setSide .nothing)))) rfl)
    .idle

theorem execSupplyOutOfRange_keeps (mv s) : NextKeeps (mayChange (.supplyOutOfRange mv)) s (execSupplyOutOfRange mv s) :=
  .either .idle (.either (.next (.setPwr .nothing) rfl) (.next ((declareEvent_keeps ..).after ((pushErr_keeps ..).after
    (.either (.setPwr .nothing) ((throttleBegin_keeps ..).after (.setPwr .nothing))))) rfl))

theorem execSupplyRestored_keeps (mv s) : NextKeeps (mayChange (.supplyRestored mv)) s (execSupplyRestored mv s) :=
  .either .idle (.next ((pushErr_keeps ..).after (.either (.setPwr .nothing)
    ((throttleEnd_keeps ..).after (.setPwr .nothing)))) rfl)

/-! ### Sleep (Machine/Wake.lean) -/

theorem execSleepEntered_keeps (s) : NextKeeps (mayChange .sleepEntered) s (execSleepEntered s) := by
  have asleep : Keeps _ s (((List.range 16) ++ [17, 18, 19]).foldl powerDown (forParts s saveRunning)) :=
    .fold (fun _ _ => powerDown_keeps ..) (forParts_keeps_of fun _ _ => saveRunning_keeps ..)
  fun_cases execSleepEntered s
  · exact .idle
  · exact .next ((pushErr_keeps ..).after (.setPwr (.setLnk asleep))) rfl
  · exact .next ((wakeUp_keeps ..).after ((pushErr_keeps ..).after (.setPwr (.setLnk asleep)))) rfl

theorem execWakeComplete_keeps (s) : NextKeeps (mayChange .wakeComplete) s (execWakeComplete s) :=
  .either .idle (.next ((refreshRoutes_keeps ..).after (.after (forParts_keeps_of fun _ _ => applyStaged_keeps ..)
    (.fold (fun _ _ => applyParked_keeps ..) (.setPwr (.after (forParts_keeps_of fun _ _ => contextBack_keeps ..)
      (.setLnk (.fold (fun _ _ => powerUp_keeps ..) .nothing))))))) rfl)

theorem execScrubWake_keeps (s) : NextKeeps (mayChange .scrubWake) s (execScrubWake s) :=
  .either (.next ((wakeUp_keeps ..).after (.setPwr .nothing)) rfl) .idle

theorem execPwrEnAssert_keeps (s) : NextKeeps (mayChange .pwrEnAssert) s (execPwrEnAssert s) :=
  .either .idle (.either (.next (.setSide .nothing) rfl) (.next (.setSide (powerLoss_keeps ..)) rfl))

/-! ### The side band (Machine/Side.lean, Machine/Mgmt.lean) -/

theorem execSideInputGlitch_keeps (w s) : NextKeeps (mayChange (.sideInputGlitch w)) s (execSideInputGlitch w s) := by
  fun_cases execSideInputGlitch w s
  case case1 => exact .next (sideCountUp_keeps ..) rfl
  case case2 => exact .next ((pushErr_keeps ..).after (.setSide (sideCountUp_keeps ..))) rfl
  all_goals exact .idle

theorem execGsyncEdge_keeps (offset s) : NextKeeps (mayChange (.gsyncEdge offset)) s (execGsyncEdge offset s) := by
  have expected : Keeps _ s (gsyncExpect { s with side := { s.side with gsyncRun := s.side.gsyncRun + 1 } } true) :=
    (gsyncExpect_keeps ..).after (.setSide .nothing)
  exact .either .idle (.either (.next (.setSide (sideCountUp_keeps ..)) rfl) (.either
    (.next ((discipline_keeps ..).after expected) rfl) (.either
      (.next ((pushErr_keeps ..).after ((discipline_keeps ..).after (.setSide expected))) rfl) (.next expected rfl))))

theorem execGsyncMissing_keeps (s) : NextKeeps (mayChange .gsyncMissing) s (execGsyncMissing s) :=
  .either .idle (.next ((gsyncExpect_keeps ..).after (.setSide (sideCountUp_keeps ..))) rfl)

theorem execModidPinChange_keeps (pins s) : NextKeeps (mayChange (.modidPinChange pins)) s (execModidPinChange pins s) :=
  .either (.next (.setSide .nothing) rfl)
    (.next ((pushErr_keeps ..).after ((sideCountUp_keeps ..).after (.setSide .nothing))) rfl)

theorem execMgmtRead_keeps (off s) : NextKeeps (mayChange (.mgmtRead off)) s (execMgmtRead off s) := by
  fun_cases execMgmtRead off s
  · exact .idle
  · exact .next ((emit_keeps ..).after (readReg_keeps_eq ‹_›)) rfl
  · exact .next (mgmtRefused_keeps ..) rfl

/-- By hand: the offsets it matches on are literals too large for `fun_cases`. -/
theorem execMgmtWrite_keeps (off value s) : NextKeeps (mayChange (.mgmtWrite off value)) s (execMgmtWrite off value s) := by
  have written (o w old new : Nat) : Keeps _ s (writeLedger s .mgmt o w old new) := writeLedger_keeps ..
  have asked (c : Prop) [Decidable c] : Keeps _ s (if c then sleepAsk s .mgmt else s) :=
    .either (sleepAsk_keeps ..) .nothing
  refine .either .idle (.either .idle ?_)
  split
  · exact .next (.either ((wakeAsk_keeps ..).after (asked ..))
      (.either ((writeLedger_keeps ..).after (asked ..)) (asked ..))) rfl
  · exact .next ((liveField_keeps ..).after (written ..)) rfl
  · exact .next (.either ((imgWrite_keeps ..).after (written ..)) (written ..)) rfl
  · exact .next (.either (fwAct_keeps ..) (written ..)) rfl
  · exact .next (.either (commitGo_keeps ..) (written ..)) rfl
  · exact .next (.either (revokeGo_keeps ..) (written ..)) rfl
  · exact .next (.setLog .nothing) rfl
  · exact .next ((liveField_keeps ..).after ((liveField_keeps ..).after (written ..))) rfl
  · exact .next ((mgmtRefused_keeps ..).after (ledger_keeps ..)) rfl

theorem execMgmtImageData_keeps (off data s) :
    NextKeeps (mayChange (.mgmtImageData off data)) s (execMgmtImageData off data s) :=
  .either .idle (.either (.next (mgmtRefused_keeps ..) rfl) (.next (.setBoot .nothing) rfl))

end Sys2Proof.Machine
end

section
/-! PROOFS. Every command changes only the blocks it may change (O60). -/

namespace Sys2Proof.Machine

/-- The arms stand by the shape of the meaning: an instruction that issues, a control command, a packet that arrives, a
command of one operation, one behind a condition, and the commands that branch on data, whose lemmas stand above. -/
theorem exec_keeps (c : Instr) (s : State) : NextKeeps (mayChange c) s (exec c s) :=
  match c with
  | .tbuild .. | .tlook .. | .drain .. | .attnQk .. | .attnSoftInit .. | .attnSoftBlock .. | .attnSoftExport .. | .attnPv ..
  | .vecOp .. | .vecXred .. | .vecRed .. | .vecMerge .. | .vecNorm .. | .vecRope .. | .vecQuant .. | .vecTopk ..
  | .vecSample .. | .rngDraw .. | .bandSelect .. | .bandApply .. | .bandAudit .. | .moveLoad .. | .moveStore ..
  | .movePut .. | .moveGet .. | .moveSend .. => .next (issue_keeps ..) rfl
  | .syncWait .. | .syncBar .. | .syncEnd .. => .next (syncIssue_keeps ..) rfl
  | .winOpen .. | .winClose .. | .stageLoad .. | .stageLoop .. =>
    .next (ctlIssueNow_keeps_of fun _ _ => setTile_keeps ..) rfl
  | .sendPacketReceive .. | .relayPacketReceive .. | .handoffPacketReceive .. | .pagePacketReceive ..
  | .weightPacketReceive .. | .expertPacketReceive .. => .next (packetIn_keeps ..) rfl
  | .readJournal .. | .readLedger .. | .readDlq .. | .readStepRecords .. | .readErrors .. => .next (runRead_keeps ..) rfl
  | .ringAttach .. => .next (withCmd_keeps_of fun _ _ => (finishCmd_keeps ..).after
      ((drainRing_keeps ..).after (attachRing_keeps ..))) rfl
  | .ringAttachKeep .. => .next (withCmd_keeps_of fun _ _ => (finishCmd_keeps ..).after
      ((drainRing_keeps ..).after ((rewriteKept_keeps ..).after (attachRing_keeps ..)))) rfl
  | .ringDetach .. | .ringPause .. | .ringResume .. => .next (withCmd_keeps_of fun _ _ =>
      (finishCmd_keeps ..).after ((ringLedger_keeps ..).after (modRing_keeps ..))) rfl
  | .contextDelete .. => .next (withCmd_keeps_of fun _ _ => (endCmd_keeps ..).after ((nctxLedger_keeps ..).after
      ((modPart_keeps ..).after ((dropCtx_keeps ..).after (startCmd_keeps ..))))) rfl
  | .swapArea .. | .swapAreaUnregister .. | .dlqAck .. => .next (withCmd_keeps_of fun _ _ =>
      (finishCmd_keeps ..).after (modPart_keeps ..)) rfl
  | .voltageSettled .. => .next (modDie_keeps ..) rfl
  | .pf0Flr => .next (pf0Reset_keeps ..) rfl
  | .vfEnableClear => .next (vfsOff_keeps ..) rfl
  | .doorbellWrite .. => .next (dbWrite_keeps ..) rfl
  | .mbxDbWrite .. => .next (mbxDb_keeps ..) rfl
  | .registerWrite .. => .next (regWrite_keeps ..) rfl
  | .journalWrite .. => .next (journalDrain_keeps ..) rfl
  | .ackTimer .. => .next (.either (sendAck_keeps ..) .nothing) rfl
  | .timeExchange => .next (.fold (fun _ _ => (emit_keeps ..).after (portSend_keeps ..)) .nothing) rfl
  | .wakeMessage .. => .next (wakeUp_keeps ..) rfl
  | .laneErrorWindow .. => .next (.either (dropLane_keeps ..) .nothing) rfl
  | .laneDrop .. => .next (dropLane_keeps ..) rfl
  | .linkLayerReset .. => .next (linkReset_keeps ..) rfl
  | .stopTimeout .. => .next (.either (linkReset_keeps ..) .nothing) rfl
  | .errorRecordWrite .. => .next (drainErrs_keeps ..) rfl
  | .ftOverdue .. => .next (.either .nothing ((pushErr_keeps ..).after (.setRas .nothing))) rfl
  | .channelTestDone .. => .next ((endTest_keeps ..).after (heard_keeps ..)) rfl
  | .unitFence .. => .next (.either (fenceAny_keeps ..) .nothing) rfl
  | .secCommitGo .. => .next (.either (commitGo_keeps ..) .nothing) rfl
  | .secRevokeGo .. => .next (.either (revokeGo_keeps ..) .nothing) rfl
  | .getVersion .. => .next (getVersion_keeps ..) rfl
  | .getCapabilities .. => .next (getCaps_keeps ..) rfl
  | .negotiateAlgorithms .. => .next (negotiate_keeps ..) rfl
  | .getDigests .. => .next (getDigests_keeps ..) rfl
  | .getCertificate .. => .next (getCert_keeps ..) rfl
  | .challenge .. => .next (challenge_keeps ..) rfl
  | .getMeasurements .. => .next (getMeas_keeps ..) rfl
  | .spdmUnsupported .. => .next (spdmOther_keeps ..) rfl
  | .supplyShutoff => .next (.setSide (powerLoss_keeps ..)) rfl
  | .pwrEnDeassert => .next (.setSide (.either (powerLoss_keeps ..) .nothing)) rfl
  | .perstDeassert | .standbyPowerUp => .next (.setSide .nothing) rfl
  | .timeWord => .either .idle (.next ((syncFollowers_keeps ..).after (tick_keeps ..)) rfl)
  | .tmbNowLowRead .. => .either .idle (.next ((emit_keeps ..).after (readReg_keeps ..)) rfl)
  | .issueLimit .. => .either (.next ((noticeDue_keeps ..).after (runaway_keeps ..)) rfl) .idle
  | .pbPrefetchTimeout .. => .either (.next ((waitOut_keeps ..).after (pbFail_keeps ..)) rfl) .idle
  | .sliceExpiry .. => .either .idle (.next (modPart_keeps ..) rfl)
  | .switchQuiesceDone .. => .either .idle (.next (modPart_keeps ..) rfl)
  | .linkTrained .. => .either .idle (.next ((checkMode_keeps ..).after (.setHif .nothing)) rfl)
  | .vfFlr .. => .either .idle (.next (fnReset_keeps ..) rfl)
  | .vfEnableSet .. => .either .idle (.next (.setHif .nothing) rfl)
  | .msixModerationTimer .. => .either (.next (fireRing_keeps ..) rfl) .idle
  | .ledgerSelWrite .. => .either .idle (.next (.setLog .nothing) rfl)
  | .flitReceive .. => .either (.next (flitIn_keeps ..) rfl) .idle
  | .fenceReceive .. => .either (.next (portOut_keeps ..) rfl) .idle
  | .retrainAttempt .. => .either (.next (trainPort_keeps ..) rfl) .idle
  | .masterTimeout => .either .idle (.next (pickMaster_keeps ..) rfl)
  | .suspectTimeout .. => .either (.next ((fenceAny_keeps ..).after (pushErr_keeps ..)) rfl) .idle
  | .testGapOpen .. => .either (.next ((openGap_keeps ..).after (beginSession_keeps ..)) rfl) .idle
  | .imgWriteGo .. => .either .idle (.next ((imgWrite_keeps ..).after (regLedger_keeps ..)) rfl)
  | .fwActGo .. => .either .idle (.next (fwAct_keeps ..) rfl)
  | .fwLoadDone => .either (.next (.setBoot .nothing) rfl) .idle
  | .rngHealthFail => .either .idle (.next ((pushErr_keeps ..).after (.setSec .nothing)) rfl)
  | .rngHealthPass => .either .idle (.next (.setSec .nothing) rfl)
  | .sleepRequest .. => .either .idle (.next (sleepAsk_keeps ..) rfl)
  | .wakeRequest .. => .either .idle (.next (wakeAsk_keeps ..) rfl)
  | .throttleStuckTimer | .perstStuckTimeout => .either (.next ((pushErr_keeps ..).after (.setSide .nothing)) rfl) .idle
  | .i3cDaa .. => .either .idle (.next (.setSide .nothing) rfl)
  | .mctpPacket .. => .either .idle (.next (spdmAsk_keeps ..) rfl)
  | .mgmtBadByte .. => .either .idle (.next ((emit_keeps ..).after (sideCountUp_keeps ..)) rfl)
  | .paceWindowEnd .. => execPaceWindowEnd_keeps ..
  | .paceLowClear .. => execPaceLowClear_keeps ..
  | .tbuildComplete .. => execTbuildComplete_keeps ..
  | .tlookRowEntry .. => execTlookRowEntry_keeps ..
  | .tlookRetire .. => execTlookRetire_keeps ..
  | .drainRetire .. => execDrainRetire_keeps ..
  | .keyJoin .. => execKeyJoin_keeps ..
  | .attnQkRetire .. => execAttnQkRetire_keeps ..
  | .attnPvRetire .. => execAttnPvRetire_keeps ..
  | .aeFeedTimeout .. => execAeFeedTimeout_keeps ..
  | .vecRetire .. => execVecRetire_keeps ..
  | .vecRedTimeout .. => execVecRedTimeout_keeps ..
  | .bandGroupVerdict .. => execBandGroupVerdict_keeps ..
  | .strictLayerVerdict .. => execStrictLayerVerdict_keeps ..
  | .bandVerdictTimeout .. => execBandVerdictTimeout_keeps ..
  | .moveRetire .. => execMoveRetire_keeps ..
  | .cacheFillArrive .. => execCacheFillArrive_keeps ..
  | .winCloseRetire .. => execWinCloseRetire_keeps ..
  | .putArrive .. => execPutArrive_keeps ..
  | .getArrive .. => execGetArrive_keeps ..
  | .dieSendArrive .. => execDieSendArrive_keeps ..
  | .arrivalTimeout .. => execArrivalTimeout_keeps ..
  | .barrierRelease .. => execBarrierRelease_keeps ..
  | .syncTimeout .. => execSyncTimeout_keeps ..
  | .endNotice .. => execEndNotice_keeps ..
  | .abandonNotice .. => execAbandonNotice_keeps ..
  | .stepAbandonComplete .. => execStepAbandonComplete_keeps ..
  | .pbPrefetchDone .. => execPbPrefetchDone_keeps ..
  | .switchStopNotice .. => execSwitchStopNotice_keeps ..
  | .stepBoundary .. => execStepBoundary_keeps ..
  | .stepCompose .. => execStepCompose_keeps ..
  | .slotRelease .. => execSlotRelease_keeps ..
  | .handoffRetryTimer .. => execHandoffRetryTimer_keeps ..
  | .swapRecordWritten .. => execSwapRecordWritten_keeps ..
  | .readmit .. => execReadmit_keeps ..
  | .restorePage .. => execRestorePage_keeps ..
  | .lengthByteArrive .. => execLengthByteArrive_keeps ..
  | .blockDecode .. => execBlockDecode_keeps ..
  | .blockForward .. => execBlockForward_keeps ..
  | .bandListArrive .. => execBandListArrive_keeps ..
  | .expListTimeout .. => execExpListTimeout_keeps ..
  | .tlookFeedTimeout .. => execTlookFeedTimeout_keeps ..
  | .sealComplete .. => execSealComplete_keeps ..
  | .memoryAccess .. => execMemoryAccess_keeps ..
  | .patrolScrubStep .. => execPatrolScrubStep_keeps ..
  | .migrationBucketDone .. => execMigrationBucketDone_keeps ..
  | .migrationEnd .. => execMigrationEnd_keeps ..
  | .loadBundle .. => execLoadBundle_keeps ..
  | .bundleCommit .. => execBundleCommit_keeps ..
  | .loadProgram .. => execLoadProgram_keeps ..
  | .unloadBundle .. => execUnloadBundle_keeps ..
  | .unloadProgram .. => execUnloadProgram_keeps ..
  | .loadAdapter .. => execLoadAdapter_keeps ..
  | .adapterCommit .. => execAdapterCommit_keeps ..
  | .deleteAdapter .. => execDeleteAdapter_keeps ..
  | .loadCode .. => execLoadCode_keeps ..
  | .contextSwitch .. => execContextSwitch_keeps ..
  | .switchSaveDone .. => execSwitchSaveDone_keeps ..
  | .switchRestoreDone .. => execSwitchRestoreDone_keeps ..
  | .quiesceTimeout .. => execQuiesceTimeout_keeps ..
  | .readmission .. => execReadmission_keeps ..
  | .hostLinkReset .. => execHostLinkReset_keeps ..
  | .bar4Access .. => execBar4Access_keeps ..
  | .tlpError .. => execTlpError_keeps ..
  | .pauseEnd .. => execPauseEnd_keeps ..
  | .ringFetch .. => execRingFetch_keeps ..
  | .dmaReadComplete .. => execDmaReadComplete_keeps ..
  | .outputBatchWrite .. => execOutputBatchWrite_keeps ..
  | .relayAccess .. => execRelayAccess_keeps ..
  | .relayTimeout .. => execRelayTimeout_keeps ..
  | .submit .. => execSubmit_keeps ..
  | .speculate .. => execSpeculate_keeps ..
  | .cancel .. => execCancel_keeps ..
  | .cancelAll .. => execCancelAll_keeps ..
  | .config .. => execConfig_keeps ..
  | .contextCreate .. => execContextCreate_keeps ..
  | .nakReceive .. => execNakReceive_keeps ..
  | .identReceive .. => execIdentReceive_keeps ..
  | .handoffAckReceive .. => execHandoffAckReceive_keeps ..
  | .ackReceive .. => execAckReceive_keeps ..
  | .resendTimer .. => execResendTimer_keeps ..
  | .quenchReceive .. => execQuenchReceive_keeps ..
  | .timeReceive .. => execTimeReceive_keeps ..
  | .routeReceive .. => execRouteReceive_keeps ..
  | .portDown .. => execPortDown_keeps ..
  | .lnkRetrainWrite .. => execLnkRetrainWrite_keeps ..
  | .sleepPacketTimeout .. => execSleepPacketTimeout_keeps ..
  | .countAgeOut .. => execCountAgeOut_keeps ..
  | .ceRateHour .. => execCeRateHour_keeps ..
  | .ftRotation => execFtRotation_keeps ..
  | .ftSessionDone .. => execFtSessionDone_keeps ..
  | .coreTestDone .. => execCoreTestDone_keeps ..
  | .rebalanceDone .. => execRebalanceDone_keeps ..
  | .fenceListWrite => execFenceListWrite_keeps ..
  | .rasUnfenceGo .. => execRasUnfenceGo_keeps ..
  | .repairAttemptResult .. => execRepairAttemptResult_keeps ..
  | .edgeLinkTimeout .. => execEdgeLinkTimeout_keeps ..
  | .coreWatchdog .. => execCoreWatchdog_keeps ..
  | .bootRomStart .. => execBootRomStart_keeps ..
  | .modidSample .. => execModidSample_keeps ..
  | .imageVerified => execImageVerified_keeps ..
  | .stacksTrained .. => execStacksTrained_keeps ..
  | .firmwareRun => execFirmwareRun_keeps ..
  | .runTimeout => execRunTimeout_keeps ..
  | .imageWriteDone .. => execImageWriteDone_keeps ..
  | .coreBankSwitch .. => execCoreBankSwitch_keeps ..
  | .activationConfirm => execActivationConfirm_keeps ..
  | .reboot .. => execReboot_keeps ..
  | .fuseBlowDone .. => execFuseBlowDone_keeps ..
  | .doeAbort .. => execDoeAbort_keeps ..
  | .jtagInstruction .. => execJtagInstruction_keeps ..
  | .powerGrantTick .. => execPowerGrantTick_keeps ..
  | .thermalVlimitTick .. => execThermalVlimitTick_keeps ..
  | .sensorFail .. => execSensorFail_keeps ..
  | .thermalTrip .. => execThermalTrip_keeps ..
  | .throttleAssert => execThrottleAssert_keeps ..
  | .throttleDeassert => execThrottleDeassert_keeps ..
  | .throttleHoldEnd => execThrottleHoldEnd_keeps ..
  | .supplyOutOfRange .. => execSupplyOutOfRange_keeps ..
  | .supplyRestored .. => execSupplyRestored_keeps ..
  | .sleepEntered => execSleepEntered_keeps ..
  | .wakeComplete => execWakeComplete_keeps ..
  | .scrubWake => execScrubWake_keeps ..
  | .pwrEnAssert => execPwrEnAssert_keeps ..
  | .sideInputGlitch .. => execSideInputGlitch_keeps ..
  | .gsyncEdge .. => execGsyncEdge_keeps ..
  | .gsyncMissing => execGsyncMissing_keeps ..
  | .modidPinChange .. => execModidPinChange_keeps ..
  | .mgmtRead .. => execMgmtRead_keeps ..
  | .mgmtWrite .. => execMgmtWrite_keeps ..
  | .mgmtImageData .. => execMgmtImageData_keeps ..
  | .busMasterEnableChange .. => execBusMasterEnableChange_keeps ..
  | .attnSoftRetire .. => execAttnSoftRetire_keeps ..
  | .rngDrawRetire .. => execRngDrawRetire_keeps ..
  | .wideRegisterLowRead .. => execWideRegisterLowRead_keeps ..

/-- Settles O60: what each operation of a command may write, composed command by command (`exec_keeps`). -/
theorem blocksKept : Obligations.BlocksKept := by
  intro c s u h
  obtain ⟨blocks, queue⟩ := (exec_keeps c s).kept u h
  exact ⟨queue, blocks⟩

end Sys2Proof.Machine
end

section
/-! PROOFS. What an instruction word spells, and the range set an image gives it (O47). -/

namespace Sys2Proof.Machine

/-! ### The word (R216, R217) -/

theorem tileWord_header_zero {t : Fin 1024} {rs : RangeSet} {w : Nat} {i : Instr} (h : tileWord t rs w = some i) :
    bitsAt w 22 31 = 0 := by
  simp only [tileWord] at h
  split at h
  case isTrue => contradiction
  case isFalse hz => simpa [bitsZero] using hz

/-- Table 9-2's opcodes; under any other the match comes to its last arm. -/
theorem tileWord_opcode {t : Fin 1024} {rs : RangeSet} {w : Nat} {i : Instr} (h : tileWord t rs w = some i) :
    bitsAt w 0 7 ∈ [0x00, 0x01, 0x02, 0x03, 0x04, 0x10, 0x20, 0x30, 0x40, 0x50, 0x51, 0x52, 0x60, 0x70, 0x71, 0x72, 0x73, 0x74,
      0x75, 0x76, 0x77, 0x78, 0x80, 0x81, 0x82, 0x90, 0xA0, 0xA1, 0xA2, 0xB0, 0xB1, 0xC0, 0xC1] := by
  simp only [tileWord] at h
  generalize bitsAt w 0 7 = opc at h ⊢
  split at h
  case isTrue => contradiction
  case isFalse =>
    split at h
    case h_34 => contradiction
    all_goals decide

/-! ### The image (R218, R237) -/

theorem imgInstr_past_count {t : Fin 1024} {img : List Byte} {i : Nat} (h : imgCount img ≤ i) : imgInstr t img i = none :=
  if_pos h

/-- Range set 0x3FF declares nothing. -/
theorem imgInstr_no_set {t : Fin 1024} {img : List Byte} {i : Nat} (h : i < imgCount img)
    (hset : bitsAt (imgWord img i) 8 17 = 0x3FF) : imgInstr t img i = tileWord t ⟨[], none⟩ (imgWord img i) := by
  have hin : ¬ imgCount img ≤ i := Nat.not_le.mpr h
  simp only [imgInstr, hin, if_false, imgRset, hset, if_true, Option.bind_some]

/-- The worked word of chapter 9, whatever its tile and range set. -/
theorem tileWord_worked (t : Fin 1024) (rs : RangeSet) : tileWord t rs 0x40200D0000F000020003FF20 =
    some (.tlook t rs ⟨.imm 2, .imm 240, .imm 0, 1, 1, true, 0, .imm 32, 64⟩) := by
  have word : tlookWord 0x40200D0000F000020003FF20 = some ⟨.imm 2, .imm 240, .imm 0, 1, 1, true, 0, .imm 32, 64⟩ := by decide +kernel
  have header : bitsZero 0x40200D0000F000020003FF20 22 31 = true := by decide +kernel
  have opcode : bitsAt 0x40200D0000F000020003FF20 0 7 = 0x20 := by decide +kernel
  simp only [tileWord, header, opcode, word, Bool.not_true, Bool.false_eq_true, if_false, Option.map_some]

/-- Settles O47: the header and the opcode of a word that spells an instruction, the image's bounds and its empty range set,
and the worked word. -/
theorem instructionWords : Obligations.InstructionWords := by
  refine ⟨fun t rs w i h => ⟨tileWord_header_zero h, ?_⟩, fun t img i h => imgInstr_past_count h,
    fun t img i h hset => imgInstr_no_set h hset, tileWord_worked⟩
  simpa [bitsAt] using tileWord_opcode h

end Sys2Proof.Machine
end

section
/-! PROOFS. SYNC issues (O6): with nothing in flight a SYNC that waits for no arrival goes on as it issues. -/

namespace Sys2Proof.Machine

/-! ### A tile with nothing in flight -/

section Idle
variable {s : State} {t m : Nat}

theorem pump_of_idle (h : (tileOf s t).inflight = []) : pump s t = s := by
  have hready : startReady s t = s := startReady_of_started (by simp [h])
  have hfeed : feedRunning s t = s := feedRunning_of_no_feed (by simp [h])
  unfold pump
  split
  · rw [hready, hfeed]
  · rw [hready, hfeed]
  · exact hfeed
  · rfl

/-- With nothing in flight and no abandonment at hand, only a waiting SYNC moves as a tile settles. -/
theorem settle_of_idle (hidle : (tileOf s t).inflight = []) (hst : (tileOf s t).st ≠ .abandoning)
    (hnot : (tileOf s t).noticed = false) : settle s t = syncPump s t := by
  have hwork : WorkedAt t s (syncPump s t) := syncPump_worked s t
  rw [settle, pump_of_idle hidle, noticeDue_of_not_noticed (hwork.noticed.trans hnot),
    finishAbandon_of_not_abandoning fun ha => hst (hwork.st ha)]

/-! ### What a SYNC does once nothing of its blocks is in flight (R232 to R234) -/

theorem blksIdle_of_idle {x : Tile} (h : x.inflight = []) (m : Nat) : blksIdle x m = true := by
  simp [blksIdle, h]

/-- Tile `t` waits at a SYNC for blocks `m` with nothing in flight, and for no arrival. -/
structure AtSync (s : State) (t m : Nat) : Prop where
  blocks : (tileOf s t).waitBlocks = some m
  count : (tileOf s t).waitCount = none
  idle : (tileOf s t).inflight = []

theorem AtSync.goes (h : AtSync s t m) :
    (!blksIdle (tileOf s t) m || !arrived (tileOf s t) (tileOf s t).waitCount) = false := by
  simp [blksIdle_of_idle h.idle, h.count, arrived]

theorem syncPump_wait (h : AtSync s t m) (hend : (tileOf s t).waitEnd = false) (hbar : (tileOf s t).waitBar = none) :
    syncPump s t =
      setTile s t { tileOf s t with waitBlocks := none, waitCount := none, st := .run, hold := 0, syncBoard := [] } := by
  simp only [syncPump, h.blocks, h.goes, hend, hbar, Bool.false_eq_true, if_false]

theorem syncPump_bar {b : Nat} (h : AtSync s t m) (hend : (tileOf s t).waitEnd = false) (hbar : (tileOf s t).waitBar = some b) :
    syncPump s t = barArrive (setTile s t { tileOf s t with waitBlocks := none, waitCount := none }) t b := by
  simp only [syncPump, h.blocks, h.goes, hend, hbar, Bool.false_eq_true, if_false]

/-- A tile whose program has ended, its windows closed (R234). -/
def Tile.over (x : Tile) : Tile :=
  { closeWins x with waitEnd := false, waitBlocks := none, waitCount := none, ended := true, st := .idle, hold := 0, syncBoard := [] }

theorem syncPump_end (h : AtSync s t m) (hend : (tileOf s t).waitEnd = true)
    (hwins : winsClosed (closeWins (tileOf s t)) = true) : syncPump s t = setTile s t (tileOf s t).over := by
  simp only [syncPump, h.blocks, h.goes, hend, hwins, Bool.false_eq_true, if_false, if_true, Tile.over]

/-! ### Windows at the end of a program (R202, R234) -/

theorem winOf_modWin_other (x : Tile) {w v : Nat} (h : v ≠ w) (f : Win → Win) : winOf (modWin x w f) v = winOf x v :=
  tabGet_set_other _ _ _ _ _ h

/-- A change of each window of a list, once each, is one change at each. -/
theorem winOf_foldl_modWin (f : Win → Win) {ws : List Nat} (hnd : ws.Nodup) (x : Tile) (v : Nat) :
    winOf (ws.foldl (fun x w => modWin x w f) x) v = if v ∈ ws then f (winOf x v) else winOf x v := by
  induction ws generalizing x with
  | nil => simp
  | cons w r ih =>
    obtain ⟨hw, hr⟩ := List.nodup_cons.1 hnd
    rw [List.foldl_cons, ih hr]
    by_cases hv : v = w
    · subst hv
      simp [hw]
    · simp [hv, winOf_modWin_other x hv f]

/-- With no transfer left to finish in any open window, all close. -/
theorem winsClosed_closeWins {x : Tile} (h : ∀ w < 8, (winOf x w).opened = true → (winOf x w).pend = 0) :
    winsClosed (closeWins x) = true := by
  simp only [winsClosed, closeWins, List.all_eq_true, List.mem_range, Bool.not_eq_true']
  intro w hw
  rw [winOf_foldl_modWin _ List.nodup_range, if_pos (List.mem_range.2 hw)]
  cases ho : (winOf x w).opened with
  | false => simp [ho]
  | true => simp [h w hw ho]

theorem winsClosed_over (x : Tile) : winsClosed x.over = winsClosed (closeWins x) := by
  simp only [winsClosed, winOf, Tile.over]

theorem place_over (x : Tile) : x.over.place = x.place := place_modWins _ _ x

theorem endRange_over (x : Tile) : x.over.endRange = x.endRange := foldl_field Tile.endRange (fun _ _ => by rfl) _ x

end Idle

/-! ### Issue (R228, R232 to R234) -/

/-- A tile as it issues a SYNC that waits for blocks `m` and holds ranges `g` in the scoreboard. -/
def Tile.atSync (x : Tile) (m : Nat) (g : List Rng) : Tile :=
  { stepPc x (x.pc + 1) with st := .held, hold := 6, waitBlocks := some m, waitCount := none, syncBoard := g }

/-- A tile that may issue waits at no SYNC. -/
theorem waits_none_of_canIssue {s : State} {t : Nat} (h : canIssue s t = true) :
    (tileOf s t).waitEnd = false ∧ (tileOf s t).waitBar = none := by
  simp only [canIssue, Bool.and_eq_true, Bool.not_eq_true', Option.isNone_iff_eq_none] at h
  obtain ⟨⟨⟨⟨_, hend⟩, _⟩, hbar⟩, _⟩ := h
  exact ⟨hend, hbar⟩

/-- What SYNC.END adds: the end of the program, and the emission range of its notice (R234). -/
def Tile.atEnd (x : Tile) : Tile := { x with waitEnd := true, endRange := x.syncBoard.find? fun r => !r.write }

section Issue
variable {s : State} {n : Nat} {c : Instr} {rs : RangeSet} {g : List Rng}

/-- With no arrival to wait for, a SYNC issues as the other instructions of the control processor do (R220). -/
theorem ctlIssue_of_unheld (hmay : MayIssue s n) (hfree : Unheld s n rs g) (hawait : rs.await = none) (htakes : Takes s n c)
    (hset : setOf c = rs) (opc : Nat) (go : Tile → List Rng → State) :
    ctlIssue s n c opc (fun _ => .go) go = go (tileOf s n) g := by
  have harr (x : Tile) : arrived x (awaitOf rs) = true := by simp [awaitOf, hawait, arrived]
  rw [← ctlIssueNow_of_unheld hmay hfree (harr _) htakes hset (chk := fun _ => .go) rfl opc go]
  simp only [ctlIssueNow, hset, harr, if_true]

theorem syncIssue_of_unheld (hmay : MayIssue s n) (hfree : Unheld s n rs g) (hidle : (tileOf s n).inflight = [])
    (hawait : rs.await = none) (hnot : (tileOf s n).noticed = false) (htakes : Takes s n c) (hset : setOf c = rs)
    (opc m : Nat) {done : Tile → Tile} (hdone : ∀ x, (done x).control = x.control) :
    syncIssue s n c opc m done = syncPump (setTile s n (done ((tileOf s n).atSync m g))) n := by
  have hwait : awaitOf (setOf c) = none := by simp [hset, awaitOf, hawait]
  have hcontrol := hdone ((tileOf s n).atSync m g)
  simp only [Tile.control, Prod.mk.injEq] at hcontrol
  obtain ⟨hcore, hst, hinfl⟩ := hcontrol
  have hnot' : (done ((tileOf s n).atSync m g)).noticed = false := (congrArg (fun c => c.2.2.1) hcore).trans hnot
  rw [syncIssue, ctlIssue_of_unheld hmay hfree hawait htakes hset, hnot, if_neg Bool.false_ne_true, hwait]
  refine settle_of_idle ?_ ?_ ?_ <;> rw [tileOf_setTile_same]
  · exact hinfl.trans hidle
  · exact ne_of_eq_of_ne hst nofun
  · exact hnot'

/-- What such a SYNC answers is what holds once it goes on. -/
theorem gives_sync (hmay : MayIssue s n) (hfree : Unheld s n rs g) (hidle : (tileOf s n).inflight = [])
    (hawait : rs.await = none) (hnot : (tileOf s n).noticed = false) (htakes : Takes s n c) (hset : setOf c = rs)
    {opc m : Nat} {done : Tile → Tile} (hexec : exec c s = .next (syncIssue s n c opc m done))
    (hdone : ∀ x, (done x).control = x.control) {P : State → Prop}
    (h : P (syncPump (setTile s n (done ((tileOf s n).atSync m g))) n)) : Gives c s P :=
  ⟨_, hexec, by rwa [syncIssue_of_unheld hmay hfree hidle hawait hnot htakes hset opc m hdone]⟩

end Issue

/-- A tile that has just been put at a SYNC. -/
theorem atSync_setTile {s : State} {t m : Nat} {y : Tile} (hblocks : y.waitBlocks = some m) (hcount : y.waitCount = none)
    (hidle : y.inflight = []) : AtSync (setTile s t y) t m := by
  constructor <;> rwa [tileOf_setTile_same]

/-- An arrival at a barrier changes only the arrivals a home tile holds (R233). -/
theorem tileOf_barArrive_field {β : Type} (v : Tile → β) (h : ∀ x b, v { x with bars := b } = v x) (s : State) (t bar i : Nat) :
    v (tileOf (barArrive s t bar) i) = v (tileOf s i) := by
  unfold barArrive
  split
  · rfl
  · exact tileOf_modTile_field v (h ..) i

/-- Settles O6: with nothing in flight the SYNC goes on as it issues: WAIT runs, BAR sends its arrival, END closes the windows
(`winsClosed_closeWins`) and ends the program. -/
theorem syncInstructionsIssue : Obligations.SyncIssue := by
  unfold Obligations.SyncIssue
  intro n rs s g hmay hfree hidle hawait hnot
  obtain ⟨hend, hbar⟩ := waits_none_of_canIssue hmay.1
  refine ⟨?wait, ?bar, ?done⟩
  case wait =>
    intro blocks htakes
    have hat : AtSync (setTile s n ((tileOf s n).atSync blocks.toNat g)) n blocks.toNat := atSync_setTile rfl rfl hidle
    have hpump := syncPump_wait hat (by rwa [tileOf_setTile_same]) (by rwa [tileOf_setTile_same])
    refine gives_sync hmay hfree hidle hawait hnot htakes rfl rfl (fun _ => rfl) ?_
    rw [id, hpump, Issued]
    simp only [tileOf_setTile_same, and_true]
    exact ⟨rfl, rfl, rfl⟩
  case bar =>
    intro blocks bar htakes
    have hat : AtSync (setTile s n { (tileOf s n).atSync blocks.toNat g with waitBar := some bar.val }) n blocks.toNat :=
      atSync_setTile rfl rfl hidle
    have hpump := syncPump_bar (b := bar) hat (by rwa [tileOf_setTile_same]) (by rw [tileOf_setTile_same])
    refine gives_sync hmay hfree hidle hawait hnot htakes rfl rfl (fun _ => rfl) ?_
    rw [hpump, Issued, tileOf_barArrive_field Tile.pc fun _ _ => rfl, tileOf_barArrive_field Tile.issued fun _ _ => rfl,
      tileOf_barArrive_field Tile.lastIdx fun _ _ => rfl, tileOf_barArrive_field Tile.waitBar fun _ _ => rfl,
      tileOf_barArrive_field Tile.waitBlocks fun _ _ => rfl]
    simp only [tileOf_setTile_same, and_true]
    exact ⟨rfl, rfl, rfl⟩
  case done =>
    intro hpend htakes
    have hat : AtSync (setTile s n ((tileOf s n).atSync 31 g).atEnd) n 31 := atSync_setTile rfl rfl hidle
    have hclosed : winsClosed (closeWins ((tileOf s n).atSync 31 g).atEnd) = true := winsClosed_closeWins hpend
    have hpump := syncPump_end hat (by rw [tileOf_setTile_same]; rfl) (by rwa [tileOf_setTile_same])
    have hplace := place_over ((tileOf s n).atSync 31 g).atEnd
    simp only [Tile.place, Prod.mk.injEq] at hplace
    refine gives_sync hmay hfree hidle hawait hnot htakes rfl (done := Tile.atEnd) rfl (fun _ => rfl) ?_
    rw [hpump, Issued]
    simp only [tileOf_setTile_same, winsClosed_over, endRange_over]
    exact ⟨hplace, hclosed, rfl, rfl⟩

end Sys2Proof.Machine
end

section
/-! PROOFS. A stop of issue stands while its tile starts, feeds and settles what is in flight (R242). -/

namespace Sys2Proof.Machine

/-! ### The work of the blocks on a tile -/

theorem stopped_takeKey {x y : Tile} {i : Infl} {n : Nat} {bs : List Byte} (h : takeKey x i n = some (bs, y)) :
    y.stopped = x.stopped := by
  unfold takeKey at h
  split at h
  · cases h
  · split at h
    · cases h
      rfl
    · split at h
      · cases h
      · cases h
        split <;> rfl

theorem stopped_pvTake (fuel : Nat) (x : Tile) (i : Infl) (ks : List (Nat × List Byte)) :
    (pvTake fuel x i ks).1.stopped = x.stopped := by
  induction fuel generalizing x i ks with
  | zero => rfl
  | succ f ih =>
    unfold pvTake
    split
    · rfl
    · split
      · rfl
      · split
        · rfl
        · next hkey => exact (ih ..).trans (stopped_takeKey hkey)

theorem stopped_copyLine (x : Tile) (l m n line : Nat) (data : List Byte) : (copyLine x l m n line data).stopped = x.stopped :=
  foldl_field Tile.stopped (fun _ _ => by rfl) _ x

theorem stopped_cacheTouch (x : Tile) (c : CLine) : (cacheTouch x c).stopped = x.stopped := by
  unfold cacheTouch
  split <;> rfl

theorem stopped_startCached (x : Tile) (tag l m n : Nat) : (startCached x tag l m n).stopped = x.stopped := by
  unfold startCached
  refine foldl_field (fun acc : Tile × List Nat => acc.1.stopped) (fun acc line => ?_) _ (x, [])
  dsimp only
  split
  · exact (stopped_cacheTouch ..).trans (stopped_copyLine ..)
  · rfl

theorem Noted.stopped {x y : Tile} (h : Noted x y) : y.stopped = x.stopped := by
  obtain ⟨_, rfl⟩ := h
  rfl

/-! ### Starting and feeding -/

section Stop
variable {s : State} {t : Nat}

/-- The tile's stop is the same in two states. -/
abbrev StopAt (t : Nat) (s u : State) : Prop := (tileOf u t).stopped = (tileOf s t).stopped

theorem stopAt_modTile {f : Tile → Tile} (h : (f (tileOf s t)).stopped = (tileOf s t).stopped) : StopAt t s (modTile s t f) := by
  rwa [StopAt, tileOf_modTile_same]

theorem stopAt_setTile {y : Tile} (h : y.stopped = (tileOf s t).stopped) : StopAt t s (setTile s t y) := by
  rwa [StopAt, tileOf_setTile_same]

theorem startOp_stopAt (h : (tileOf s t).poison = []) (i : Infl) : StopAt t s (startOp s t i) := by
  have hstart : StopAt t s (modInfl s t i.tag fun j => { j with started := true }) := stopAt_modTile rfl
  unfold startOp
  simp only [readsPoison_of_clean h, Bool.false_eq_true, if_false]
  split
  · exact Eq.trans (stopAt_modTile rfl) (tileOf_progFault_field Tile.stopped (fun _ => rfl) ..)
  · refine Eq.trans ?_ hstart
    split
    next => exact stopAt_modTile (foldl_field Tile.stopped (fun _ _ => by rfl) ..)
    next =>
      unfold applyCheck
      split
      · exact stopAt_setTile rfl
      · rfl
    next inv _ =>
      have hinv (x : Tile) : (if inv then dropCache x else x).stopped = x.stopped := by
        split <;> rfl
      refine stopAt_modTile ?_
      split
      · exact (stopped_startCached ..).trans (hinv _)
      · exact hinv _
    next =>
      split
      · exact stopAt_modTile rfl
      · rfl
    next => exact congrArg Tile.stopped ((newFlow_keeps ..).tileOf_eq (by decide) t)
    next => rfl

/-- A fold whose every step works on a tile without poisoned granules and leaves its stop alone. -/
theorem foldl_stopAt {α : Type} {f : State → α → State}
    (hf : ∀ s a, (tileOf s t).poison = [] → WorkedAt t s (f s a) ∧ StopAt t s (f s a)) (as : List α)
    (h : (tileOf s t).poison = []) : StopAt t s (as.foldl f s) := by
  induction as generalizing s with
  | nil => rfl
  | cons a r ih =>
    obtain ⟨hwork, hstop⟩ := hf s a h
    exact (ih (hwork.poison.trans h)).trans hstop

theorem startReady_stopAt (h : (tileOf s t).poison = []) : StopAt t s (startReady s t) := by
  refine foldl_stopAt (fun s tag h => ?_) _ h
  split
  · split
    · exact ⟨startOp_worked h _, startOp_stopAt h _⟩
    · exact ⟨.refl _, rfl⟩
  · exact ⟨.refl _, rfl⟩

theorem pvFeed_stopAt (s : State) (t : Nat) (i : Infl) : StopAt t s (pvFeed s t i) := by
  unfold pvFeed
  split
  · dsimp only
    refine (countNonfinite_noted ..).stopped.trans (stopAt_setTile ?_)
    refine Eq.trans ?_ (stopped_pvTake 64 (tileOf s t) i [])
    exact foldl_field Tile.stopped (fun _ _ => by exact foldl_field Tile.stopped (fun _ _ => by rfl) ..) ..
  · rfl

theorem qkFeed_stopAt (fuel : Nat) (s : State) (t tag : Nat) : StopAt t s (qkFeed fuel s t tag) := by
  induction fuel generalizing s with
  | zero => rfl
  | succ f ih =>
    unfold qkFeed
    split
    · rfl
    · split
      · split
        · rfl
        · split
          · rfl
          · next hkey =>
            refine (ih _).trans ((countKey_noted ..).stopped.trans (Eq.trans (stopAt_modTile rfl) (stopAt_setTile ?_)))
            exact (foldl_field Tile.stopped (fun _ _ => by rfl) ..).trans (stopped_takeKey hkey)
      · rfl

theorem feedRunning_stopAt (h : (tileOf s t).poison = []) : StopAt t s (feedRunning s t) := by
  refine foldl_stopAt (fun s tag _ => ?_) _ h
  split
  · split
    · exact ⟨(pvFeed_worked ..).trans (qkFeed_worked ..), (qkFeed_stopAt ..).trans (pvFeed_stopAt ..)⟩
    · exact ⟨.refl _, rfl⟩
  · exact ⟨.refl _, rfl⟩

theorem pump_stopAt (h : (tileOf s t).poison = []) : StopAt t s (pump s t) := by
  have hboth : StopAt t s (feedRunning (startReady s t) t) :=
    (feedRunning_stopAt ((startReady_worked h).poison.trans h)).trans (startReady_stopAt h)
  unfold pump
  split
  · exact hboth
  · exact hboth
  · exact feedRunning_stopAt h
  · rfl

/-! ### Settling -/

theorem syncPump_stopAt (s : State) (t : Nat) : StopAt t s (syncPump s t) := by
  have hwins : (closeWins (tileOf s t)).stopped = (tileOf s t).stopped := foldl_field Tile.stopped (fun _ _ => by rfl) ..
  unfold syncPump
  dsimp only
  split
  · rfl
  · split
    · rfl
    · split
      · refine stopAt_setTile ?_
        split <;> exact hwins
      · split
        · exact (tileOf_barArrive_field Tile.stopped (fun _ _ => by rfl) ..).trans (stopAt_setTile rfl)
        · exact stopAt_setTile rfl

theorem stopped_clearStep (x : Tile) : (dropCache (clearStep x)).stopped = x.stopped := by
  simp only [dropCache, clearStep]
  exact foldl_field Tile.stopped (fun _ _ => by rfl) _ x

theorem finishAbandon_stopAt (s : State) (t : Nat) : StopAt t s (finishAbandon s t) := by
  unfold finishAbandon
  dsimp only
  split
  · rw [StopAt, (report_keeps ..).tileOf_eq (by decide)]
    exact stopAt_setTile (stopped_clearStep _)
  · rfl

theorem noticeDue_stopAt (s : State) (t : Nat) : StopAt t s (noticeDue s t) := by
  unfold noticeDue
  dsimp only
  split
  · exact (finishAbandon_stopAt ..).trans (stopAt_modTile rfl)
  · rfl

theorem settle_stopAt (h : (tileOf s t).poison = []) : StopAt t s (settle s t) :=
  (finishAbandon_stopAt ..).trans <| (noticeDue_stopAt ..).trans <| (syncPump_stopAt ..).trans (pump_stopAt h)

end Stop

end Sys2Proof.Machine
end

section
/-! PROOFS. Barriers, end and abandonment notices, the parameter section and the stop notice at a tile (O18). -/

namespace Sys2Proof.Machine

/-! ### A barrier's release (R233) -/

theorem freeBar_idem (bar : Nat) (x : Tile) : freeBar bar (freeBar bar x) = freeBar bar x := by
  by_cases h : (x.waitBar == some bar && x.waitBlocks.isNone) = true
  · simp [freeBar, h]
  · simp [freeBar, h]

theorem freeBar_of_waits {bar : Nat} {x : Tile} (hbar : x.waitBar = some bar) (hblocks : x.waitBlocks = none) :
    freeBar bar x = { x with waitBar := none, st := .run, hold := 0, syncBoard := [] } := by
  simp [freeBar, hbar, hblocks]

theorem bars_freeBar (bar : Nat) (x : Tile) : (freeBar bar x).bars = x.bars := by
  unfold freeBar
  split <;> rfl

/-- The release reaches each tile that takes part, also one that is listed twice. -/
theorem tileOf_foldl_freeBar (bar : Nat) (ps : List Nat) (s : State) (q : Nat) :
    tileOf (ps.foldl (fun s p => modTile s p (freeBar bar)) s) q =
      if q ∈ ps then freeBar bar (tileOf s q) else tileOf s q := by
  induction ps generalizing s with
  | nil => simp
  | cons p r ih =>
    rw [List.foldl_cons, ih]
    by_cases hq : q = p
    · subst hq
      simp [freeBar_idem]
    · simp [hq, tileOf_modTile_other _ _ _ _ hq]

/-- The tiles after a release: the home tile's arrivals are gone, and those that take part go on. -/
def barReleased (s : State) (t bar : Nat) (ps : List Nat) : State :=
  ps.foldl (fun s p => modTile s p (freeBar bar)) (modTile s t fun x => { x with bars := tabSet x.bars bar [] [] })

theorem execBarrierRelease_of_reached {n : Fin 1024} {bar : Fin 64} {s : State} {ps : List Nat} {c : Nat}
    (hbar : barrierOf s n bar = some (ps, c, n.val)) (hall : c ≤ (tabGet (tileOf s n).bars bar []).length) :
    ∃ u, execBarrierRelease n bar s = .next u ∧ ∀ i, tileOf u i = tileOf (barReleased s n bar ps) i := by
  have hready : ¬ (n.val ≠ n.val ∨ (tabGet (tileOf s n).bars bar []).length < c) := by omega
  simp only [execBarrierRelease, hbar, hready, if_false]
  split
  · exact ⟨_, rfl, fun _ => rfl⟩
  · refine ⟨_, rfl, fun i => ?_⟩
    split
    · exact tileOf_modPart ..
    · rfl

theorem bars_barReleased (s : State) (t bar : Nat) (ps : List Nat) :
    tabGet (tileOf (barReleased s t bar ps) t).bars bar [] = [] := by
  have hbars : (tileOf (barReleased s t bar ps) t).bars = tabSet (tileOf s t).bars bar [] [] := by
    rw [barReleased, tileOf_foldl_freeBar, tileOf_modTile_same]
    split
    · exact bars_freeBar ..
    · rfl
  rw [hbars, tabGet_set_same]

theorem goes_on_barReleased {s : State} {t bar q : Nat} {ps : List Nat} (hq : q ∈ ps)
    (hbar : (tileOf s q).waitBar = some bar) (hblocks : (tileOf s q).waitBlocks = none) :
    (tileOf (barReleased s t bar ps) q).waitBar = none ∧ (tileOf (barReleased s t bar ps) q).st = .run := by
  have hkept {β : Type} (v : Tile → β) (h : ∀ x b, v { x with bars := b } = v x) :
      v (tileOf (modTile s t fun x => { x with bars := tabSet x.bars bar [] [] }) q) = v (tileOf s q) :=
    tileOf_modTile_field v (h ..) q
  rw [barReleased, tileOf_foldl_freeBar, if_pos hq,
    freeBar_of_waits ((hkept Tile.waitBar fun _ _ => rfl).trans hbar) ((hkept Tile.waitBlocks fun _ _ => rfl).trans hblocks)]
  exact ⟨rfl, rfl⟩

/-! ### An abandonment at a tile (R235, steps 1 to 5) -/

/-- A tile that clears the step it abandoned. -/
def Tile.cleared (x : Tile) : Tile := dropCache (clearStep x)

/-- Of the control processor's waits and notices nothing is cleared. -/
def Tile.waits (x : Tile) := (x.st, x.abandonOn, x.waitBar, x.waitBlocks)

theorem waits_cleared (x : Tile) : x.cleared.waits = x.waits := by
  simp only [Tile.waits, Tile.cleared, dropCache, clearStep]
  exact foldl_field Tile.waits (fun _ _ => by rfl) _ x

theorem winsClosed_cleared (x : Tile) : winsClosed x.cleared = true := by
  simp only [winsClosed, Tile.cleared, dropCache, clearStep, winOf, List.all_eq_true, List.mem_range, Bool.not_eq_true']
  intro w hw
  have hwin := winOf_foldl_modWin (ws := List.range 8)
    (fun v => { v with opened := false, closing := false, retiring := false, pend := 0, board := [] }) List.nodup_range x w
  rw [if_pos (List.mem_range.2 hw)] at hwin
  exact congrArg Win.opened hwin

/-- A tile as it abandons, before what is in flight has run to its retirement (R235, steps 1 to 3). -/
def Tile.abandoned (x : Tile) : Tile :=
  { x with
    inflight := x.inflight.filter fun i => !waitsOn x i, st := .abandoning, hold := 0, held := none, waitBlocks := none,
    waitBar := none, waitCount := none, waitEnd := false, syncBoard := [], noticed := false }

/-- Once nothing is in flight, the abandoning tile clears the step. -/
theorem tileOf_abandonNow (s : State) (t : Nat) : tileOf (abandonNow s t) t =
    if (tileOf s t).abandoned.inflight = [] then (tileOf s t).abandoned.cleared else (tileOf s t).abandoned := by
  have habandoned : tileOf (modTile s t Tile.abandoned) t = (tileOf s t).abandoned := tileOf_modTile_same ..
  have hnow : abandonNow s t = finishAbandon (modTile s t Tile.abandoned) t := rfl
  rw [hnow, finishAbandon, habandoned]
  by_cases hflight : (tileOf s t).abandoned.inflight = []
  · have hdone : ((tileOf s t).abandoned.st == .abandoning && (tileOf s t).abandoned.inflight.isEmpty) = true := by
      rw [hflight]
      rfl
    rw [if_pos hdone, if_pos hflight, (report_keeps ..).tileOf_eq (by decide), tileOf_setTile_same, Tile.cleared]
  · have hruns : ¬ ((tileOf s t).abandoned.st == .abandoning && (tileOf s t).abandoned.inflight.isEmpty) = true := by
      simp [hflight]
    rw [if_neg hruns, if_neg hflight, habandoned]

theorem started_of_abandoned {x : Tile} {i : Infl} (h : i ∈ x.abandoned.inflight) : i.started = true := by
  have hwait := (List.mem_filter.1 h).2
  simp only [waitsOn, Bool.not_or, Bool.not_not, Bool.and_eq_true] at hwait
  exact hwait.1

/-- What an abandonment leaves at its tile. -/
theorem abandonNow_effect (s : State) (t : Nat) :
    let y := tileOf (abandonNow s t) t
    y.st = .abandoning ∧ y.abandonOn = (tileOf s t).abandonOn ∧ y.waitBar = none ∧ y.waitBlocks = none ∧
      (∀ i ∈ y.inflight, i.started = true) ∧
      (y.inflight = [] → y.acm = [] ∧ y.rows = [] ∧ y.tags = [] ∧ y.cache = [] ∧ winsClosed y = true) := by
  intro y
  have hy : y = _ := tileOf_abandonNow s t
  split at hy
  next hflight =>
    have hwaits := waits_cleared (tileOf s t).abandoned
    simp only [Tile.waits, Prod.mk.injEq] at hwaits
    obtain ⟨hst, hon, hbar, hblocks⟩ := hwaits
    rw [hy]
    exact ⟨hst, hon, hbar, hblocks, nofun, fun _ => ⟨rfl, rfl, rfl, rfl, winsClosed_cleared _⟩⟩
  next hflight =>
    rw [hy]
    exact ⟨rfl, rfl, rfl, rfl, fun i hi => started_of_abandoned hi, fun h => absurd h hflight⟩

/-! ### The notices (R234, R235, R242) -/

/-- What a tile whose program ended adds to its step's emissions. -/
def Tile.endEmissions (x : Tile) : List Emission :=
  match x.endRange with
  | some r => emissionsIn x r
  | none => []

/-- The step with the end of one more tile. -/
def Step.withEnd (e : Step) (n : Fin 1024) (x : Tile) : Step :=
  { e with ended := e.ended ++ [n.val], emissions := e.emissions ++ x.endEmissions }

section Commands
variable {n : Fin 1024} {s : State} {p : Nat} {e : Step}

theorem execEndNotice_of_ended (hruns : Runs s n p e) (hended : (tileOf s n).ended = true) (hnew : n.val ∉ e.ended) :
    execEndNotice n s = .next (modPart s p fun q => { q with exec := some (e.withEnd n (tileOf s n)) }) := by
  obtain ⟨hp, he⟩ := hruns
  simp only [execEndNotice, hp, he, hended, hnew, List.contains_eq_mem, Bool.not_true, Bool.or_self, decide_false,
    Bool.false_eq_true, if_false]
  rfl

/-- A tile that issues goes on to its next SYNC. -/
theorem execAbandonNotice_of_issuing (hon : (tileOf s n).abandonOn = true) (hfault : (tileOf s n).faulted = false)
    (hend : (tileOf s n).ended = false) (hblocks : (tileOf s n).waitBlocks = none) (hbar : (tileOf s n).waitBar = none)
    (hst : (tileOf s n).st = .run ∨ (tileOf s n).st = .held) (hstuck : stuckHold (tileOf s n) = false) :
    execAbandonNotice n s = .next (setTile s n { tileOf s n with abandonOn := false, noticed := true }) := by
  have hissues : ((tileOf s n).st == .run || (tileOf s n).st == .held) = true := by simpa using hst
  have htest : ((tileOf s n).st == .fieldTest) = false := by rcases hst with h | h <;> simp [h]
  simp only [execAbandonNotice, hon, hfault, hend, hblocks, hbar, hissues, htest, hstuck, Option.isSome_none, Bool.not_true,
    Bool.or_self, Bool.false_eq_true, if_false]

/-- A tile that does not go on abandons at once. -/
theorem execAbandonNotice_of_stopped (hon : (tileOf s n).abandonOn = true) (hst : (tileOf s n).st ≠ .fieldTest)
    (hout : (tileOf s n).faulted = true ∨ (tileOf s n).ended = true ∨ (tileOf s n).waitBlocks.isSome = true ∨
      (tileOf s n).waitBar.isSome = true ∨ ((tileOf s n).st ≠ .run ∧ (tileOf s n).st ≠ .held) ∨ stuckHold (tileOf s n) = true) :
    execAbandonNotice n s = .next (abandonNow (setTile s n { tileOf s n with abandonOn := false, noticed := true }) n) := by
  have htest : ((tileOf s n).st == .fieldTest) = false := by simpa using hst
  have hnow : ((tileOf s n).faulted || (tileOf s n).ended || (tileOf s n).waitBlocks.isSome || (tileOf s n).waitBar.isSome ||
      !((tileOf s n).st == .run || (tileOf s n).st == .held) || stuckHold (tileOf s n)) = true := by
    simpa [or_assoc] using hout
  simp only [execAbandonNotice, hon, htest, hnow, Bool.not_true, Bool.false_eq_true, if_false, if_true]

/-! ### The parameter section (R241) -/

theorem execPbPrefetchDone_of_running {sec : Section} {errs : List LineErr} (hruns : Runs s n p e) (hsec : (tileOf s n).sec = none)
    (hst : (tileOf s n).st = .run ∨ (tileOf s n).st = .held) (hread : (prefetch s n p e errs).2 = some sec) :
    execPbPrefetchDone n errs s = .next (useSection (prefetch s n p e errs).1 n sec) := by
  obtain ⟨hp, he⟩ := hruns
  have hwants : ((tileOf s n).sec.isNone && ((tileOf s n).st == .run || (tileOf s n).st == .held)) = true := by
    simpa [hsec] using hst
  have hpair : prefetch s n p e errs = ((prefetch s n p e errs).1, some sec) := Prod.ext rfl hread
  simp only [execPbPrefetchDone, hp, he, hwants, if_true]
  rw [hpair]

theorem execPbPrefetchDone_of_composed {c : Step} {errs : List LineErr} (hp : partOfTile s n = some p)
    (hc : (partOf s p).composed = some c) (hsec : (tileOf s n).sec.isSome = true) :
    execPbPrefetchDone n errs s =
      .next (modTile (prefetch s n p c errs).1 n fun x => { x with secNext := (prefetch s n p c errs).2 }) := by
  have hhas : (tileOf s n).sec.isNone = false := by
    obtain ⟨sec, hsec⟩ := Option.isSome_iff_exists.1 hsec
    rw [hsec, Option.isNone_some]
  cases he : (partOf s p).exec with
  | none => simp only [execPbPrefetchDone, hp, he, hc]
  | some e => simp only [execPbPrefetchDone, hp, he, hc, hhas, Bool.false_and, Bool.false_eq_true, if_false]

theorem execSwitchStopNotice_of_quiesce (hp : partOfTile s n = some p) (hq : (partOf s p).switchSt = .quiesce) :
    execSwitchStopNotice n s = .next (settle (modTile s n fun x => { x with stopped := true }) n) := by
  simp [execSwitchStopNotice, hp, hq]

end Commands

/-- Settles O18: each notice by the equation of its command; an abandonment by `abandonNow_effect`, the stop by
`settle_stopAt`. -/
theorem notices : Obligations.Notices := by
  unfold Obligations.Notices
  intro n s
  refine ⟨?barrier, ?ended, ?issuing, ?abandons, ?running, ?composed, ?stop⟩
  case barrier =>
    intro bar ps c hbar hall
    obtain ⟨u, hexec, htiles⟩ := execBarrierRelease_of_reached hbar hall
    refine ⟨u, hexec, ?_, fun q hq hwait hblocks => ?_⟩
    · rw [htiles, bars_barReleased]
    · rw [htiles]
      exact goes_on_barReleased hq hwait hblocks
  case ended =>
    intro p e hruns hended hnew
    refine ⟨_, execEndNotice_of_ended hruns hended hnew, e.withEnd n (tileOf s n), ?_, rfl, rfl⟩
    rw [partOf_modPart_same]
  case issuing =>
    intro hon hfault hend hblocks hbar hst hstuck
    exact ⟨_, execAbandonNotice_of_issuing hon hfault hend hblocks hbar hst hstuck, tileOf_setTile_same ..⟩
  case abandons =>
    intro hon hst hout
    refine ⟨_, execAbandonNotice_of_stopped hon hst hout, ?_⟩
    obtain ⟨hst, hon, hrest⟩ := abandonNow_effect (setTile s n { tileOf s n with abandonOn := false, noticed := true }) n
    refine ⟨hst, hon.trans ?_, hrest⟩
    rw [tileOf_setTile_same]
  case running =>
    intro p e sec errs hruns hsec hst hread hok
    refine ⟨_, execPbPrefetchDone_of_running hruns hsec hst hread, ?_⟩
    simp only [useSection, hok, if_true, tileOf_setTile_same]
  case composed =>
    intro p c errs hp hc hsec
    refine ⟨_, execPbPrefetchDone_of_composed hp hc hsec, ?_⟩
    simp only [tileOf_modTile_same, and_self]
  case stop =>
    intro p hp hq _ hclean
    refine ⟨_, execSwitchStopNotice_of_quiesce hp hq, ?_⟩
    have hstopped : (tileOf (modTile s n fun x => { x with stopped := true }) n) = { tileOf s n with stopped := true } :=
      tileOf_modTile_same ..
    have hpoison : (tileOf (modTile s n fun x => { x with stopped := true }) n).poison = [] := by rw [hstopped, hclean]
    exact (settle_stopAt hpoison).trans (congrArg Tile.stopped hstopped)

end Sys2Proof.Machine
end

section
/-! PROOFS. What an operation does to the two byte stores, module memory's bytes and the staging area of the management port:
how such facts compose. Most operations leave both alone, and for these the facts of Laws/Writes.lean suffice where memory's
other tables and the boot registers are not touched either. -/

namespace Sys2Proof.Machine

/-- What may become of the two byte stores: both stand as they were, or they may change but stay canonical. -/
inductive Fate where
  | untouched | canonical

/-- A block of the state that holds neither store. -/
def Block.holdsNoStore : Block → Bool
  | .mem | .boot => false
  | _ => true

/-- Between two states the byte stores have met such a fate. -/
structure Stores (e : Fate) (s u : State) : Prop where
  stand : e = .untouched → u.mem.bytes = s.mem.bytes ∧ u.boot.staging = s.boot.staging
  safe : Safe s → Safe u

variable {e : Fate} {k : List Block} {s t u v : State}

/-- Stores that stand as they were have met either fate. -/
theorem Stores.same (hb : u.mem.bytes = s.mem.bytes) (hs : u.boot.staging = s.boot.staging) : Stores e s u where
  stand _ := ⟨hb, hs⟩
  safe := fun ⟨h, g⟩ => ⟨hb ▸ h, hs ▸ g⟩

/-- What may change the stores but keeps both canonical. -/
theorem Stores.wf (h : Safe s → Safe u) : Stores .canonical s u := ⟨nofun, h⟩

/-- Where both stores stand, memory's bytes do. -/
theorem Stores.bytes (h : Stores .untouched s u) : u.mem.bytes = s.mem.bytes := (h.stand rfl).1

theorem Stores.nothing : Stores e s s := .same rfl rfl

/-- One more operation. -/
theorem Stores.after (h : Stores e t u) (g : Stores e s t) : Stores e s u where
  stand he := ⟨(h.stand he).1.trans (g.stand he).1, (h.stand he).2.trans (g.stand he).2⟩
  safe := h.safe ∘ g.safe

/-- An operation that touches neither memory nor the boot block. -/
theorem Stores.of (h : Keeps k s u) (hk : k.all Block.holdsNoStore = true) : Stores e s u := by
  obtain ⟨⟨-, -, -, hmem, -, -, -, -, -, -, -, -, hboot, -, -⟩, -⟩ := h
  have hclear := List.all_eq_true.mp hk
  exact .same (by rw [hmem fun h => nomatch hclear _ h]) (by rw [hboot fun h => nomatch hclear _ h])

theorem Stores.either {c : Prop} {d : Decidable c} (h : Stores e s u) (g : Stores e s v) : Stores e s (if c then u else v) := by
  split
  · exact h
  · exact g

/-- Either way of a choice between values that hold a state. -/
theorem Stores.eitherOf {β : Type} {st : β → State} {a b : β} {c : Prop} {d : Decidable c} (h : Stores e s (st a))
    (g : Stores e s (st b)) : Stores e s (st (if c then a else b)) := by
  split
  · exact h
  · exact g

/-- A fold over a value that holds a state. -/
theorem Stores.foldOf {α β : Type} {st : β → State} {f : β → α → β} {b : β} {xs : List α}
    (h : ∀ b x, Stores e (st b) (st (f b x))) (g : Stores e s (st b)) : Stores e s (st (xs.foldl f b)) :=
  List.foldlRecOn xs f (motive := fun b => Stores e s (st b)) g fun b hb x _ => (h b x).after hb

theorem Stores.fold {α : Type} {f : State → α → State} {xs : List α} (h : ∀ t x, Stores e t (f t x))
    (g : Stores e s t) : Stores e s (xs.foldl f t) := .foldOf (st := id) h g

/-- What an operation that carries a value beside the state answers. -/
theorem Stores.ofFst {β : Type} {r : State × β} {w : β} (h : r = (u, w)) (g : Stores e s r.1) : Stores e s u := by
  rwa [h] at g

/-- A fold that may stop: where it comes to its end, the stores have met the fate of each of its steps. -/
theorem Stores.foldSome {α β : Type} {st : β → State} {f : Option β → α → Option β} (hnone : ∀ x, f none x = none)
    (hstep : ∀ b x r, f (some b) x = some r → Stores e (st b) (st r)) {xs : List α} {b r : β}
    (h : xs.foldl f (some b) = some r) : Stores e (st b) (st r) := by
  have stopped (xs : List α) : xs.foldl f none = none :=
    List.foldlRecOn xs f (motive := (· = none)) rfl fun o ho x _ => ho ▸ hnone x
  induction xs generalizing b with
  | nil =>
    cases h
    exact .nothing
  | cons x xs ih =>
    rw [List.foldl_cons] at h
    cases hx : f (some b) x with
    | none => rw [hx, stopped] at h; cases h
    | some c => exact (ih (hx ▸ h)).after (hstep b x c hx)

/-! ### Fields written in place -/

/-- A table of memory that is not its bytes. -/
theorem Stores.setMem (g : Stores e s t) {m : Mem} (hm : m.bytes = t.mem.bytes) : Stores e s { t with mem := m } :=
  .after (t := t) (.same hm rfl) g

/-- A boot register that is not the staging area. -/
theorem Stores.setBoot (g : Stores e s t) {b : Boot} (hb : b.staging = t.boot.staging) :
    Stores e s { t with boot := b } := .after (t := t) (.same rfl hb) g

theorem Stores.setPwr (g : Stores e s t) {v : Pwr} : Stores e s { t with pwr := v } := .after (.of (.setPwr .nothing) rfl) g
theorem Stores.setCmp (g : Stores e s t) {v : Cmp} : Stores e s { t with cmp := v } := .after (.of (.setCmp .nothing) rfl) g
theorem Stores.setLog (g : Stores e s t) {v : Log} : Stores e s { t with log := v } := .after (.of (.setLog .nothing) rfl) g
theorem Stores.setLnk (g : Stores e s t) {v : Lnk} : Stores e s { t with lnk := v } := .after (.of (.setLnk .nothing) rfl) g
theorem Stores.setHif (g : Stores e s t) {v : Hif} : Stores e s { t with hif := v } := .after (.of (.setHif .nothing) rfl) g
theorem Stores.setRas (g : Stores e s t) {v : Ras} : Stores e s { t with ras := v } := .after (.of (.setRas .nothing) rfl) g
theorem Stores.setSec (g : Stores e s t) {v : Sec} : Stores e s { t with sec := v } := .after (.of (.setSec .nothing) rfl) g
theorem Stores.setSide (g : Stores e s t) {v : Side} : Stores e s { t with side := v } := .after (.of (.setSide .nothing) rfl) g

/-- Several fields at once, the boot registers among them. -/
theorem Stores.setRasBoot (g : Stores e s t) {v : Ras} {b : Boot} (hb : b.staging = t.boot.staging) :
    Stores e s { t with ras := v, boot := b } := (g.setRas (v := v)).setBoot hb

theorem Stores.setBootPwrHif (g : Stores e s t) {b : Boot} {v : Pwr} {w : Hif} (hb : b.staging = t.boot.staging) :
    Stores e s { t with boot := b, pwr := v, hif := w } := ((g.setBoot hb).setPwr (v := v)).setHif

/-! ### The outcome of a command -/

/-- In a command's outcome, where it is a next state, the byte stores have met such a fate. -/
structure NextStores (e : Fate) (s : State) (r : Res) : Prop where
  stores : ∀ u, r = .next u → Stores e s u

theorem NextStores.next (h : Stores e s t) : NextStores e s (.next t) where
  stores := by
    rintro u ⟨⟩
    exact h

theorem NextStores.idle : NextStores e s (.next s) := .next .nothing

theorem NextStores.either {c : Prop} {d : Decidable c} {a b : Res} (h : NextStores e s a) (g : NextStores e s b) :
    NextStores e s (if c then a else b) := by
  split
  · exact h
  · exact g

/-- A command that may change neither memory nor the boot block. -/
theorem NextStores.of {r : Res} (h : NextKeeps k s r) (hk : k.all Block.holdsNoStore = true) :
    NextStores e s r where
  stores u hu := .of (h.kept u hu) hk

end Sys2Proof.Machine
end

section
/-! PROOFS. What faults do to the byte stores: fences, withdrawn pages and poison leave both alone (R257 to R268,
R456 to R469). -/

namespace Sys2Proof.Machine

variable {e : Fate} {s u : State}

/-! ### Poison tables (R257 to R260) -/

theorem drainSurplus_stores (s) : Stores e s (drainSurplus s) := by
  unfold drainSurplus
  exact .fold (fun _ _ => .either (.setMem .nothing rfl) .nothing) .nothing

theorem clearPoison_stores (s bs) : Stores e s (clearPoison s bs) := by
  unfold clearPoison
  exact .either .nothing ((drainSurplus_stores ..).after (.setMem .nothing rfl))

theorem freshLines_stores (s ls) : Stores e s (freshLines s ls) := by
  unfold freshLines
  exact (clearPoison_stores ..).after (.setMem .nothing rfl)

theorem setLen_stores (s b l) : Stores e s (setLen s b l) := .setMem .nothing rfl

theorem poisonLine_stores (s line c rd) : Stores e s (poisonLine s line c rd) := by
  fun_cases poisonLine s line c rd
  · exact .nothing
  · exact .nothing
  · exact .after (.of (afterPoison_keeps ..) rfl) (.after (.either (.of (pushErr_keeps ..) rfl) .nothing)
      (.after (.of ((pushErr_keeps ..).after ((setUnit_keeps ..).after (dropCached_keeps ..))) rfl) (.setMem .nothing rfl)))

theorem loseLines_stores (s c ls as) : Stores e s (loseLines s c ls as) := by
  unfold loseLines
  exact .setMem (.fold (fun _ _ => poisonLine_stores ..) .nothing) rfl

/-! ### Pages withdrawn (R264) -/

theorem withdrawOne_stores (s n) : Stores e s (withdrawOne s n) := by
  unfold withdrawOne
  exact .after (.of ((preemptIdle_keeps ..).after (evictPages_keeps ..)) rfl) (.setMem .nothing rfl)

theorem withdrawFree_stores (fuel s d) : Stores e s (withdrawFree fuel s d) := by
  fun_induction withdrawFree fuel s d with
  | case3 _ _ _ _ _ _ ih => exact ih.after (withdrawOne_stores ..)
  | case1 | case2 | case4 => exact .nothing

theorem withdrawMirror_stores (s r) : Stores e s (withdrawMirror s r) := by
  unfold withdrawMirror
  exact .fold (fun _ _ => .of (endRepair_keeps ..) rfl) (.setMem .nothing rfl)

theorem withdrawMirrors_stores (fuel s d) : Stores e s (withdrawMirrors fuel s d) := by
  fun_induction withdrawMirrors fuel s d with
  | case3 _ _ _ _ _ _ ih => exact ih.after (withdrawMirror_stores ..)
  | case1 | case2 | case4 => exact .nothing

theorem withdrawUsed_stores (fuel s d ps) : Stores e s (withdrawUsed fuel s d ps) := by
  fun_induction withdrawUsed fuel s d ps with
  | case3 _ _ _ _ _ _ ih => exact ih.after (.either (withdrawOne_stores ..) .nothing)
  | case5 _ _ _ _ _ ih => exact ih
  | case1 | case2 | case4 => exact .nothing

theorem withdrawAll_stores (s d) : Stores e s (withdrawAll s d) := by
  unfold withdrawAll withdrawFor
  exact .fold (fun _ _ => (withdrawMirrors_stores ..).after ((withdrawUsed_stores ..).after (withdrawFree_stores ..))) .nothing

/-! ### Fences (R456 to R468) -/

theorem applyMoves_stores (s d ms) : Stores e s (applyMoves s d ms) := .setMem .nothing rfl

theorem fenceChannel_stores (s c) : Stores e s (fenceChannel s c) := by
  have drained {t : State} (h : Stores e s t) : Stores e s (drainSurplus (withdrawAll t (c / 32))) :=
    (drainSurplus_stores ..).after ((withdrawAll_stores ..).after h)
  unfold fenceChannel
  refine .either (.after (loseLines_stores ..) (drained ?_)) (drained ?_) <;>
    exact .setMem (applyMoves_stores ..) (by dsimp only)

theorem fenceOne_stores (s x) : Stores e s (fenceOne s x) := by
  have out : Keeps _ s (unitTo s x .fenced .unitFence (fenceEvent x.kind) []) := unitTo_keeps ..
  have declared (r : Ras) (ps : List Nat) : Keeps _ s (if x.kind = .port
      then { unitTo s x .fenced .unitFence (fenceEvent x.kind) [] with ras := r }
      else declareEvent { unitTo s x .fenced .unitFence (fenceEvent x.kind) [] with ras := r } (fenceEvent x.kind) ps) :=
    .either (.setRas out) ((declareEvent_keeps ..).after (.setRas out))
  have abandoned (r : Ras) (ps qs : List Nat) (ev : Nat) : Keeps _ s (abandonParts (if x.kind = .port
      then { unitTo s x .fenced .unitFence (fenceEvent x.kind) [] with ras := r }
      else declareEvent { unitTo s x .fenced .unitFence (fenceEvent x.kind) [] with ras := r } (fenceEvent x.kind) ps) qs ev) :=
    (abandonParts_keeps ..).after (declared r ps)
  fun_cases fenceOne s x
  case case1 => exact .nothing
  case case2 | case3 => exact .of (fenceDie_keeps ..) rfl
  case case4 =>
    exact .of ((fenceDie_keeps ..).after ((modTile_keeps ..).after (.setRas ((stopParts_keeps ..).after (abandoned ..))))) rfl
  case case5 => exact .of ((modTile_keeps ..).after (.setRas ((stopParts_keeps ..).after (abandoned ..)))) rfl
  case case6 | case7 => exact .of (.setRas ((stopParts_keeps ..).after (abandoned ..))) rfl
  case case8 => exact .after (fenceChannel_stores ..) (.of (abandoned ..) rfl)
  case case9 => exact .of ((handCore_keeps ..).after (declared ..)) rfl
  case case10 s3 _ =>
    refine .setRas (.after (.of (stopParts_keeps ..) rfl) ?_)
    unfold s3
    split
    · exact .of (.fold (fun _ _ => modPart_keeps ..) (declared ..)) rfl
    · exact .of (declared ..) rfl
  case case11 =>
    exact .of (.fold (fun _ _ => fenceDie_keeps ..) (.setRas ((stopParts_keeps ..).after (abandoned ..)))) rfl
  case case12 => exact .of (declared ..) rfl

theorem suspectBy_stores {fence : State → UnitId → State} (h : ∀ t x, Stores e t (fence t x)) (s x) :
    Stores e s (suspectBy fence s x) := by
  unfold suspectBy
  exact .either .nothing (.either (h ..) (.of (unitTo_keeps ..) rfl))

theorem fenceDeep_stores (fuel s x) : Stores e s (fenceDeep fuel s x) := by
  induction fuel generalizing s x with
  | zero => exact fenceOne_stores ..
  | succ fuel ih => exact .fold (fun _ _ => suspectBy_stores ih ..) (fenceOne_stores ..)

theorem fenceUnit_stores (s x) : Stores e s (fenceUnit s x) := fenceDeep_stores ..

theorem makeSuspect_stores (s x) : Stores e s (makeSuspect s x) := suspectBy_stores fenceUnit_stores ..

theorem fenceAny_stores (s x) : Stores e s (fenceAny s x) := by
  unfold fenceAny
  exact .either (.after (.of (portFenced_keeps ..) rfl) (fenceUnit_stores ..)) (fenceUnit_stores ..)

/-! ### Faults counted and tests ended (R457 to R465) -/

theorem judgeUnit_stores (s x) : Stores e s (judgeUnit s x) := by
  unfold judgeUnit
  exact .either (.of (setUnit_keeps ..) rfl) (.after (makeSuspect_stores ..) (.of (setUnit_keeps ..) rfl))

theorem countFault_stores {f : State → State} (h : ∀ t, Stores e t (f t)) (s x) : Stores e s (countFault s x f) :=
  .after (judgeUnit_stores ..) (.after (h _) (.of (setUnit_keeps ..) rfl))

theorem settleUnit_stores (s x ok d) : Stores e s (settleUnit s x ok d) := by
  unfold settleUnit
  exact .either (fenceAny_stores ..) (.either (.of (unitPass_keeps ..) rfl) .nothing)

theorem endTest_stores (s x pass) : Stores e s (endTest s x pass) := by
  have begun (r : Ras) (f : State → Nat → Part → Part) : Keeps _ s
      (forParts { s with ras := r } fun s p => modPart s p (f s p)) :=
    (forParts_keeps_of fun _ _ => modPart_keeps ..).after (.setRas .nothing)
  unfold endTest
  exact .either .nothing (.either (.of ((unitPass_keeps ..).after (begun ..)) rfl)
    (.after (fenceAny_stores ..) (.of ((pushErr_keeps ..).after (begun ..)) rfl)))

/-! ### Faults of a tile -/

/-- A tile's fault counted against a unit, with the tile's record. -/
theorem countTileErr_stores (s x t c st o d) : Stores e s (countFault s x fun s => tileErr s t c st o d) :=
  countFault_stores (fun _ => .of (tileErr_keeps ..) rfl) ..

theorem aeParity_stores (s t opc m r) : Stores e s (aeParity s t opc m r) := by
  unfold aeParity
  split
  · exact .nothing
  · exact .either (.after (.of (rerunFault_keeps ..) rfl) (countTileErr_stores ..)) .nothing

theorem bandMeta_stores (s t b check writer) : Stores e s (bandMeta s t b check writer) := by
  unfold bandMeta
  exact .either (.after (countTileErr_stores ..) (.setRas .nothing)) (.of ((tileErr_keeps ..).after (.setRas .nothing)) rfl)

theorem poisonedRead_stores (s t opc) : Stores e s (poisonedRead s t opc) := by
  fun_cases poisonedRead s t opc
  · exact .after (.of (abandonStep_keeps ..) rfl) (countTileErr_stores ..)
  · exact countTileErr_stores ..
  · exact .after (.of (rerunFault_keeps ..) rfl) (countTileErr_stores ..)

theorem arrayErr_stores (s t opc err) : Stores e s (arrayErr s t opc err) := by
  cases err with
  | clean => exact .nothing
  | tableParity | acmUncorrected => exact .after (.of (rerunFault_keeps ..) rfl) (countTileErr_stores ..)
  | acmCorrected => exact .of ((tileErrOnce_keeps ..).after (modTile_keeps ..)) rfl

theorem storeErr_stores (s t opc err) : Stores e s (storeErr s t opc err) := by
  cases err with
  | clean => exact .nothing
  | single g => exact .of ((tileErrOnce_keeps ..).after (modTile_keeps ..)) rfl
  | double g =>
    exact .after (.of (rerunFault_keeps ..) rfl) (.after (countTileErr_stores ..) (.of (modTile_keeps ..) rfl))
  | cache l | cacheTag l => exact .of ((tileErr_keeps ..).after (modTile_keeps ..)) rfl

theorem feedSilent_stores (s t f c opc tag) : Stores e s (feedSilent s t f c opc tag) := by
  have told : Stores e s (tileErr s t c .ok opc [t, f, tag]) := .of (tileErr_keeps ..) rfl
  unfold feedSilent
  refine .after (.of ((waitOut_keeps ..).after (waitFault_keeps ..)) rfl) (.either ?_ told)
  split
  · exact .after (makeSuspect_stores ..) (.after (countFault_stores (fun _ => .nothing) ..) told)
  · exact told

end Sys2Proof.Machine
end

section
/-! PROOFS. What writes, reads and the tiles' block operations do to the byte stores (R189, R228, R247 to R268). -/

namespace Sys2Proof.Machine

variable {e : Fate} {s u : State}

/-! ### Writes keep memory canonical (R247, R252) -/

theorem memPut_stores (s a b) : Stores .canonical s (memPut s a b) := by
  fun_cases memPut s a b
  · exact setLen_stores ..
  · exact .wf fun ⟨h, g⟩ => ⟨Memory.wf_write _ _ _ h, g⟩
  · exact .wf fun ⟨h, g⟩ => ⟨Memory.wf_write _ _ _ h, g⟩

theorem memPutRun_stores (s a bs) : Stores .canonical s (memPutRun s a bs) := by
  induction bs generalizing s a with
  | nil => exact .nothing
  | cons b r ih => exact .after (ih ..) (memPut_stores ..)

theorem memWrite_stores (s a bs) : Stores .canonical s (memWrite s a bs) := by
  unfold memWrite
  refine .after (freshLines_stores ..) (.fold (fun t b => ?_) (memPutRun_stores ..))
  split
  · exact .either .nothing (setLen_stores ..)
  · exact .nothing

theorem writeParams_stores (s p st) : Stores .canonical s (writeParams s p st).1 := by
  unfold writeParams
  dsimp only
  exact memWrite_stores ..

theorem rewriteParams_stores (s p old) : Stores .canonical s (rewriteParams s p old) := by
  fun_cases rewriteParams s p old
  · exact .nothing
  · exact .nothing
  · exact .after (.of (.fold (fun _ _ => modTile_keeps ..) (modPart_keeps ..)) rfl) (.ofFst ‹_› (writeParams_stores ..))

theorem sealBlock_stores (s lens hdr b) : Stores .canonical s (sealBlock s lens hdr b) := by
  fun_cases sealBlock s lens hdr b
  · exact .nothing
  · exact .after (setLen_stores ..) (memPutRun_stores ..)
  · exact setLen_stores ..

theorem rewriteBlock_stores (s b c) : Stores .canonical s (rewriteBlock s b c) :=
  .after (setLen_stores ..) (memWrite_stores ..)

theorem repairedBy_stores (s b source c) : Stores .canonical s (repairedBy s b source c) := by
  have done (s : State) (a : ErrArgs) (b : Nat) :
      Stores .canonical s (endRepair (pushErr (rewriteBlock s b c) .repair a) b) :=
    .after (.of ((endRepair_keeps ..).after (pushErr_keeps ..)) rfl) (rewriteBlock_stores ..)
  unfold repairedBy
  extract_lets unitOf fin s1
  split
  · exact .either (.after (done ..) (done ..)) (done ..)
  · exact done ..

/-! ### Loaded tensors and bundles (R281 to R299) -/

theorem writeBlock_stores (s b w) : Stores .canonical s (writeBlock s b w) :=
  .after (setLen_stores ..) (memWrite_stores ..)

theorem writeTensor_stores (s b t) : Stores .canonical s (writeTensor s b t) :=
  .after (memWrite_stores ..) (.fold (fun _ _ => writeBlock_stores ..) .nothing)

theorem atMirror_stores {f : Nat → State} (s p sh b) (h : ∀ m, Stores e s (f m)) : Stores e s (atMirror s p sh b f) := by
  fun_cases atMirror s p sh b f
  · exact .nothing
  · exact h _
  · exact .nothing

theorem mirrorTensor_stores (s p sh t) : Stores .canonical s (mirrorTensor s p sh t) :=
  .fold (fun _ _ => atMirror_stores _ _ _ _ fun _ => memWrite_stores ..)
    (.fold (fun _ _ => atMirror_stores _ _ _ _ fun _ => writeBlock_stores ..) .nothing)

theorem writeTensors_stores (s p b) : Stores .canonical s (writeTensors s p b) :=
  .fold (fun _ _ => .either (.after (mirrorTensor_stores ..) (writeTensor_stores ..)) (writeTensor_stores ..)) .nothing

theorem clearLens_stores (s b) : Stores e s (clearLens s b) :=
  .fold (fun _ _ => .fold (fun _ _ => setLen_stores ..) .nothing) .nothing

theorem dropLoad_stores (s p st) : Stores e s (dropLoad s p st) := by
  fun_cases dropLoad s p st
  · exact .nothing
  · exact .after (.of ((finishLater_keeps ..).after ((setLoad_keeps ..).after (.setCmp .nothing))) rfl)
      (.fold (fun _ _ => clearLens_stores ..) .nothing)

theorem failLoad_stores (s p n) : Stores e s (failLoad s p n) :=
  .after (dropLoad_stores ..) (.of (pushErr_keeps ..) rfl)

theorem bundleStages_stores (s x addr b) : Stores .canonical s (bundleStages s x addr b) := by
  have tables (v : Cmp) (o : Origin) (todo : List (Nat × Nat × CodeTable)) : Stores .canonical s
      (loadTables { s with cmp := v } o x.part.val todo).1 := .of ((loadTables_keeps ..).after (.setCmp .nothing)) rfl
  unfold bundleStages
  dsimp only
  split
  · exact failLoad_stores ..
  · split
    · exact .after (dropLoad_stores ..) (tables ..)
    · split
      · exact .after (failLoad_stores ..) (tables ..)
      · have written (v : Cmp) (o : Origin) (todo : List (Nat × Nat × CodeTable)) (w : Cmp) : Stores .canonical s
            { writeTensors (loadTables { s with cmp := v } o x.part.val todo).1 x.part.val b with cmp := w } :=
          .setCmp (.after (writeTensors_stores ..) (tables ..))
        split
        · exact .after (failLoad_stores ..) (written ..)
        · exact written ..

theorem freeVersions_stores (s p) : Stores e s (freeVersions s p) := by
  unfold freeVersions
  exact .setCmp (.fold (fun _ _ => .of (ledger_keeps ..) rfl) (.fold (fun _ _ => .of (ledger_keeps ..) rfl)
    (.fold (fun _ _ => .after (.of (ledger_keeps ..) rfl) (clearLens_stores ..)) .nothing)))

theorem dropCtx_stores (s p c) : Stores e s (dropCtx s p c) := by
  unfold dropCtx
  exact .after (freeVersions_stores ..) (.of ((modPart_keeps ..).after (.fold (fun _ _ => removeNode_keeps ..)
    (.setCmp (.fold (fun _ _ => cancelSlot_keeps ..) .nothing)))) rfl)

/-! ### Lines read (R254 to R258, R267) -/

theorem heard_stores (s c b) : Stores e s (heard s c b) := .setMem .nothing rfl

theorem lineACrc_stores (s a) : Stores e s (lineACrc s a) := .setMem .nothing rfl

theorem lineCorrected_stores (s n a) : Stores e s (lineCorrected s n a) := by
  have noted {m : Mem} {v : State} {c : Prop} [Decidable c] {rc : RecCode} {x : ErrArgs}
      (h : Stores e s { s with mem := m }) (hv : Stores e s v) :
      Stores e s (if c then { s with mem := m } else pushErr v rc x) := .either h (.after (.of (pushErr_keeps ..) rfl) hv)
  unfold lineCorrected
  refine .either (.after (countFault_stores (fun _ => .of (pushErr_keeps ..) rfl) ..) (noted ?_ ?_))
    (.setMem (noted ?_ ?_) rfl) <;>
    exact .setMem .nothing rfl

theorem poisonBlock_stores (s line rd) : Stores e s (poisonBlock s line rd) := by
  fun_cases poisonBlock s line rd
  · exact .nothing
  · exact .nothing
  · exact .after (judgeUnit_stores ..) (.either (.after (makeSuspect_stores ..) (poisonLine_stores ..)) (poisonLine_stores ..))

theorem lineRead_stores (s a err rd) : Stores e s (lineRead s a err rd).1 := by
  fun_cases lineRead s a err rd
  · exact .nothing
  · exact .after (lineACrc_stores ..) (heard_stores ..)
  · exact heard_stores ..
  · exact heard_stores ..
  · exact .setMem (heard_stores ..) rfl
  · exact .after (lineCorrected_stores ..) (heard_stores ..)
  · exact .after (poisonBlock_stores ..) (heard_stores ..)
  · exact .after (poisonBlock_stores ..) (heard_stores ..)

theorem linesRead_stores (s rd ls errs) : Stores e s (linesRead s rd ls errs).1 := by
  fun_induction linesRead s rd ls errs with
  | case1 => exact .nothing
  | case2 | case3 => exact .after (.ofFst ‹linesRead .. = _› ‹_›) (.ofFst ‹lineRead .. = _› (lineRead_stores ..))

theorem aCrcFault_stores (s t a) : Stores e s (aCrcFault s t a) := by
  fun_cases aCrcFault s t a
  · exact .after (.of (abandonStep_keeps ..) rfl) (.setMem (countFault_stores (fun _ => .of (pushErr_keeps ..) rfl) ..) rfl)
  · exact .after (.of ((waitFault_keeps ..).after (pushErr_keeps ..)) rfl) (.setMem .nothing rfl)
  · exact .nothing

theorem aCrcTo_stores (s w n a) : Stores e s (aCrcTo s w n a) := by
  fun_cases aCrcTo s w n a
  · exact aCrcFault_stores ..
  · exact .of (pushErr_keeps ..) rfl

theorem fwReturns_stores (s w st) : Stores e s (fwReturns s w st) := .either (.setMem .nothing rfl) .nothing

theorem prefetch_stores (s t p x errs) : Stores e s (prefetch s t p x errs).1 := by
  fun_cases prefetch s t p x errs
  · exact .ofFst ‹_› (linesRead_stores ..)
  · exact .after (aCrcFault_stores ..) (.ofFst ‹_› (linesRead_stores ..))

theorem loadLine_stores (s t l a err) : Stores e s (loadLine s t l a err) := by
  have read {v : State} {k : Nat} (h : lineRead s a err ⟨0, t⟩ = (v, k)) (f : Tile → Tile) : Stores e s (modTile v t f) :=
    .after (.of (modTile_keeps ..) rfl) (.ofFst h (lineRead_stores ..))
  fun_cases loadLine s t l a err
  · exact read ‹_› _
  · next hfree h =>
    exact .after (aCrcFault_stores ..) (.after (.of ((modTile_keeps ..).after (drawFree_keeps_eq hfree)) rfl)
      (.ofFst h (lineRead_stores ..)))
  · exact .after (.of (readPoisoned_keeps ..) rfl) (read ‹_› _)
  · exact read ‹_› _

theorem loadRun_stores (s t l m n errs) : Stores e s (loadRun s t l m n errs) :=
  .fold (fun _ _ => loadLine_stores ..) .nothing

/-! ### The expanders' blocks (R276 to R284) -/

theorem badBlock_stores (s d x p b c) : Stores e s (badBlock s d x p b c).2 := by
  unfold badBlock
  exact .after (.of ((freeBlock_keeps ..).after (readPoisoned_keeps ..)) rfl) (.after (poisonBlock_stores ..)
    (.of (pushErr_keeps ..) rfl))

theorem blockData_stores (s d x p f b len errs) : Stores e s (blockData s d x p f b len errs).2 := by
  have refused (c : RecCode) (a : ErrArgs) : Stores e s (freeBlock (pushErr s c a)).2 :=
    .of ((freeBlock_keeps ..).after (pushErr_keeps ..)) rfl
  have read {v : State} {k n : Nat} {rd : Reader} {ls : List Nat} (h : linesRead s rd ls errs = (v, k, n)) :
      Stores e s v := .ofFst h (linesRead_stores ..)
  fun_cases blockData s d x p f b len errs
  · exact refused ..
  · exact refused ..
  · exact .after (.of ((freeBlock_keeps ..).after (readPoisoned_keeps ..)) rfl) (read ‹_›)
  · exact read ‹_›
  · exact .after (badBlock_stores ..) (read ‹_›)
  · exact read ‹_›
  · exact .after (badBlock_stores ..) (read ‹_›)

theorem decodeReads_stores (s d x p f is errs acc) : Stores e s (decodeReads s d x p f is errs acc).1 := by
  fun_induction decodeReads s d x p f is errs acc with
  | case1 => exact .nothing
  | case2 s i len r errs acc bs s1 h ih =>
    have read : Stores e s (blockData s d x p f i.blk len errs).2 := blockData_stores ..
    rw [h] at read
    exact .after ih read

theorem tritCodes_stores (s t exp bs) : Stores e s (tritCodes s t exp bs) := by
  refine .fold (fun s b => ?_) .nothing
  split
  · refine .after (.of (rerunFault_keeps ..) rfl) ?_
    split
    · exact .of ((markFaulty_keeps ..).after (tileErrOnce_keeps ..)) rfl
    · exact .of (tileErrOnce_keeps ..) rfl
  · have poisoned (c : Prop) [Decidable c] (l : Nat) (a : RecCode) (o d : Nat) (ds : List Nat) (rd : Reader) : Stores e s
        (if c then s else poisonBlock (tileErrOnce s t a o d ds) l rd) :=
      .either .nothing (.after (poisonBlock_stores ..) (.of (tileErrOnce_keeps ..) rfl))
    dsimp only
    split
    · exact .after (.of (readPoisoned_keeps ..) rfl) (poisoned ..)
    · exact poisoned ..

/-! ### What goes on in a tile (R228 to R230) -/

theorem startOp_stores (s t i) : Stores e s (startOp s t i) := by
  have begun (c : Prop) [Decidable c] (opc tag : Nat) (f : Infl → Infl) :
      Stores e s (modInfl (if c then poisonedRead s t opc else s) t tag f) :=
    .after (.of (modInfl_keeps ..) rfl) (.either (poisonedRead_stores ..) .nothing)
  fun_cases startOp s t i
  · exact .of (undeclared_keeps ..) rfl
  · exact .after (.of (modTile_keeps ..) rfl) (begun ..)
  · exact .after (.of (applyCheck_keeps ..) rfl) (begun ..)
  · exact .after (.of (modTile_keeps ..) rfl) (begun ..)
  · exact .after (.of (modTile_keeps ..) rfl) (begun ..)
  · exact begun ..
  · exact .after (.of (newFlow_keeps ..) rfl) (begun ..)
  · exact begun ..

theorem startReady_stores (s t) : Stores e s (startReady s t) := by
  refine .fold (fun s tag => ?_) .nothing
  split
  · exact .either (startOp_stores ..) .nothing
  · exact .nothing

theorem pump_stores (s t) : Stores e s (pump s t) := by
  fun_cases pump s t
  · exact .after (.of (feedRunning_keeps ..) rfl) (startReady_stores ..)
  · exact .after (.of (feedRunning_keeps ..) rfl) (startReady_stores ..)
  · exact .of (feedRunning_keeps ..) rfl
  · exact .nothing

theorem settle_stores (s t) : Stores e s (settle s t) :=
  .after (.of ((finishAbandon_keeps ..).after ((noticeDue_keeps ..).after (syncPump_keeps ..))) rfl) (pump_stores ..)

theorem retire_stores (s t tag) : Stores e s (retire s t tag) :=
  .after (settle_stores ..) (.of ((dropInfl_keeps ..).after (modTile_keeps ..)) rfl)

theorem issue_stores (s t i opc bad mk chk) : Stores e s (issue s t i opc bad mk chk) := by
  unfold issue
  exact .either (.after (settle_stores ..) (.of (issueOp_keeps ..) rfl))
    (.of ((noticeDue_keeps ..).after (issueOp_keeps ..)) rfl)

theorem ctlIssue_stores {chk : Tile → Check} {f : Tile → List Rng → State} (s t i opc) (h : ∀ x g, Stores e s (f x g)) :
    Stores e s (ctlIssue s t i opc chk f) := by
  fun_cases ctlIssue s t i opc chk f
  case case1 => exact .nothing
  case case2 => exact .of ((noticeDue_keeps ..).after (runaway_keeps ..)) rfl
  case case3 | case4 | case6 => exact .of ((noticeDue_keeps ..).after (progFault_keeps ..)) rfl
  case case5 | case7 | case8 => exact .of (holdAt_keeps ..) rfl
  case case9 => exact h ..

theorem syncIssue_stores (s t i opc n f) : Stores e s (syncIssue s t i opc n f) :=
  ctlIssue_stores _ _ _ _ fun _ _ => .either (.of ((abandonNow_keeps ..).after (setTile_keeps ..)) rfl)
    (.after (settle_stores ..) (.of (setTile_keeps ..) rfl))

/-! ### Transfers between tiles (R200 to R214) -/

theorem refuseMove_stores (s t src w g n tag) : Stores e s (refuseMove s t src w g n tag) := by
  have dropped (s : State) : Stores e s (match tag with
    | some g => retire s w g
    | none => s) := by
    split
    · exact retire_stores ..
    · exact .nothing
  unfold refuseMove
  exact .either (.after (dropped _) (.of (setTile_keeps ..) rfl))
    (.after (.of (moveFault_keeps ..) rfl) (.after (dropped _) (.of ((tileErr_keeps ..).after (setTile_keeps ..)) rfl)))

theorem deliver_stores (s t src w g data tag) : Stores e s (deliver s t src w g data tag).1 := by
  fun_cases deliver s t src w g data tag
  case case1 s2 =>
    refine .after (settle_stores ..) ?_
    unfold s2
    split
    · exact .of ((moveDone_keeps ..).after (modTile_keeps ..)) rfl
    · exact .of (modTile_keeps ..) rfl
  case case2 => exact refuseMove_stores ..

theorem finishGet_stores (s t tag l r n d) : Stores e s (finishGet s t tag l r n d) := by
  fun_cases finishGet s t tag l r n d
  case case1 => exact retire_stores ..
  case case2 s2 s3 =>
    have moved : Stores e s s2 := by
      unfold s2
      split
      · exact .of ((modTile_keeps ..).after (modTile_keeps ..)) rfl
      · exact .of (modTile_keeps ..) rfl
    exact .after (settle_stores ..) (.after (retire_stores ..) (.either (.after (poisonedRead_stores ..) moved) moved))

theorem sendIn_stores (s k) : Stores e s (sendIn s k).1 := by
  fun_cases sendIn s k
  · exact .nothing
  · exact .nothing
  · exact .after (settle_stores ..) (.of (modTile_keeps ..) rfl)
  · exact .of (setTile_keeps ..) rfl
  · exact .of ((tileErr_keeps ..).after (setTile_keeps ..)) rfl

end Sys2Proof.Machine
end

section
/-! PROOFS. What fields, images and reboots do to the byte stores (R383 to R392, R475 to R500): a field is no byte of either
store; an island rebooted begins with both empty. -/

namespace Sys2Proof.Machine

variable {e : Fate} {s u : State}

/-! ### Operations that take an operation -/

theorem violate_stores {f : State → State} (s n) (h : ∀ t, Stores e t (f t)) : Stores e s (violate s n f) := by
  have counted : Stores e s (f s) := h s
  unfold violate
  exact .either (.of (modFn_keeps ..) rfl) (.either (.after (.of ((pauseFn_keeps ..).after (modFn_keeps ..)) rfl) counted)
    (.after (.of (modFn_keeps ..) rfl) counted))

theorem writeViol_stores {f : State → State} (s o) (h : ∀ t, Stores e t (f t)) : Stores e s (writeViol s o f) := by
  fun_cases writeViol s o f
  · exact violate_stores _ _ h
  · exact violate_stores _ _ h
  · exact h _

theorem refuseReg_stores {f : State → State} (s c a) (h : ∀ t, Stores e t (f t)) : Stores e s (refuseReg s c a f) :=
  .after (h _) (.of ((flushErrs_keeps ..).after (pushErr_keeps ..)) rfl)

/-! ### Fields (Table 24-6) -/

theorem freshLens_stores (s r) : Stores e s (freshLens s r) := .setMem .nothing rfl

theorem setRegion_stores (s n r) : Stores e s (setRegion s n r) := .setMem .nothing rfl

theorem fldSet_stores (s f v) : Stores e s (fldSet s f v) := by
  fun_cases fldSet s f v
  case case1 | case2 => exact .setBoot .nothing rfl
  case case3 => exact .of (setDies_keeps ..) rfl
  case case4 | case5 | case6 | case7 | case8 | case9 | case10 => exact .of (modPart_keeps ..) rfl
  case case11 => exact .after (setRegion_stores ..) (.either (freshLens_stores ..) .nothing)
  case case12 | case13 => exact .setHif .nothing
  case case14 | case15 | case16 => exact .of (modBind_keeps ..) rfl
  case case17 | case18 | case23 | case24 | case25 => exact .setRas .nothing
  case case20 | case21 => exact .of (modWindow_keeps ..) rfl
  case case22 => exact .setLog .nothing
  case case26 => exact .setSec .nothing
  case case27 | case28 => exact .setSide .nothing
  case case19 | case29 => exact .nothing

theorem liveField_stores (s f v) : Stores e s (liveField s f v) := by
  fun_cases liveField s f v
  · exact .of (pushErr_keeps ..) rfl
  · exact fldSet_stores ..

theorem applyStaged_stores (s p step) : Stores e s (applyStaged s p step) := by
  refine .fold (fun s g => ?_) (.of (modPart_keeps ..) rfl)
  split
  · exact .nothing
  · exact .after (.of (pushLedger_keeps ..) rfl) (fldSet_stores ..)

theorem stagedNow_stores (s p) : Stores e s (stagedNow s p) := applyStaged_stores ..

theorem applyParked_stores (s r) : Stores e s (applyParked s r) := by
  fun_cases applyParked s r
  · exact fldSet_stores ..
  · exact .nothing

theorem writeField_stores (s o f x width v mask) : Stores e s (writeField s o f x width v mask) := by
  have entered (a : LedgerArgs) (w : Nat) : Stores e s (ledger (fldSet s f w) o a) :=
    .after (.of (ledger_keeps ..) rfl) (fldSet_stores ..)
  fun_cases writeField s o f x width v mask
  · exact .after (writeViol_stores _ _ fun _ => .of (pushErr_keeps ..) rfl) (.of (ledger_keeps ..) rfl)
  · exact .of ((pushErr_keeps ..).after (ledger_keeps ..)) rfl
  · exact .of (ledger_keeps ..) rfl
  · exact entered ..
  · exact .of (stageStep_keeps ..) rfl
  · exact entered ..

theorem writeWhole_stores (s o x width v) : Stores e s (writeWhole s o x width v) := by
  fun_cases writeWhole s o x width v
  · exact .after (writeViol_stores _ _ fun _ => .nothing) (.of (writeIgnored_keeps ..) rfl)
  · exact .of (writeIgnored_keeps ..) rfl
  · exact .setLog .nothing
  · exact .fold (fun _ _ => writeField_stores ..) .nothing

/-! ### Records of the boot image (Table 20-3) -/

theorem putRec_stores (s b) : Stores e s (putRec s b) := by
  fun_cases putRec s b
  case case1 => exact .setPwr .nothing
  case case2 => exact .of ((checkMode_keeps ..).after (.setHif .nothing)) rfl
  case case3 | case4 => exact .setLnk .nothing
  case case5 => exact .after (setRegion_stores ..) (freshLens_stores ..)
  case case6 => exact .of (applyPart_keeps ..) rfl
  case case7 => exact .of (.setHif (modBind_keeps ..)) rfl
  case case8 => exact .of (modBind_keeps ..) rfl
  case case9 => exact .of (modPart_keeps ..) rfl
  case case10 => exact fldSet_stores ..
  case case11 | case12 => exact .nothing

theorem applyRec_stores (s b) : Stores e s (applyRec s b) := .after (.of (ledger_keeps ..) rfl) (putRec_stores ..)

theorem applyEnv_stores (s rs) : Stores e s (applyEnv s rs) := .fold (fun _ _ => applyRec_stores ..) .nothing

theorem toRecovery_stores (s) : Stores e s (toRecovery s) :=
  .after (t := (List.range 16).foldl powerDown s) (.same rfl rfl) (.fold (fun _ _ => .of (powerDown_keeps ..) rfl) .nothing)

theorem writeSel_stores (s x) : Stores e s (writeSel s x) := .setBoot .nothing rfl

theorem slotTo_stores (s n st) : Stores e s (slotTo s n st) := writeSel_stores ..

theorem slotFails_stores (s st) : Stores e s (slotFails s st) := by
  have told (a : ErrArgs) : Stores e s (pushErr (slotTo s s.boot.slot 3) .bootSlotBad a) :=
    .after (.of (pushErr_keeps ..) rfl) (slotTo_stores ..)
  unfold slotFails
  exact .either (.setBoot (told _) rfl) (.after (toRecovery_stores ..) (told _))

theorem bootFence_stores (s x) : Stores e s (bootFence s x) := by
  have fenced (c : Prop) [Decidable c] : Keeps _ s
      (if c then s else unitTo s x .fenced .unitFence (fenceEvent x.kind) []) := .either .nothing (unitTo_keeps ..)
  fun_cases bootFence s x
  · exact .after (applyMoves_stores ..) (.of (fenced _) rfl)
  · exact .of (.setLnk (fenced _)) rfl
  · exact .of ((unitTo_keeps ..).after (fenced _)) rfl
  · exact .of (fenced _) rfl
  · exact .of (fenced _) rfl

theorem applyList_stores (s) : Stores e s (applyList s) := by
  fun_cases applyList s
  · exact .fold (fun _ _ => bootFence_stores ..) .nothing
  · exact .of (pushErr_keeps ..) rfl

/-! ### Images and activation (R484 to R492) -/

theorem imgOut_stores (s n st) : Stores e s (imgOut s n st) := .setBoot .nothing rfl

theorem imgFail_stores (s st c) : Stores e s (imgFail s st c) := refuseReg_stores _ _ _ fun _ => imgOut_stores ..

theorem putImg_stores (s n i) : Stores e s (putImg s n i) := .setBoot .nothing rfl

theorem imgWrite_stores (s o img) : Stores e s (imgWrite s o img) := by
  have asked (c : Prop) [Decidable c] (x : Out) : Keeps _ s (if c then s else emit s x) := .either .nothing (emit_keeps ..)
  fun_cases imgWrite s o img
  · exact imgFail_stores ..
  · exact .after (imgOut_stores ..) (.of ((flushErrs_keeps ..).after ((dmaFailed_keeps ..).after (asked ..))) rfl)
  · exact .after (imgFail_stores ..) (.of (asked ..) rfl)
  · exact .after (imgFail_stores ..) (.of (asked ..) rfl)
  · exact .after (imgFail_stores ..) (.of (asked ..) rfl)
  · exact .setBoot (.after (putImg_stores ..) (.after (slotTo_stores ..) (.of (asked ..) rfl))) rfl

theorem actOut_stores (s st x) : Stores e s (actOut s st x) := .setBoot .nothing rfl

theorem actNo_stores (s st) : Stores e s (actNo s st) := refuseReg_stores _ _ _ fun _ => .setBoot .nothing rfl

theorem fwAct_stores (s o) : Stores e s (fwAct s o) := by
  have entered : Stores e s (regLedger s o 0x40 1 .ok) := .of (regLedger_keeps ..) rfl
  have no (st : Status) : Stores e s (actNo (regLedger s o 0x40 1 .ok) st) := .after (actNo_stores ..) entered
  fun_cases fwAct s o
  · exact no _
  · exact no _
  · exact no _
  · exact no _
  · exact .after (refuseReg_stores _ _ _ fun _ => actOut_stores ..) entered
  · exact .after (refuseReg_stores _ _ _ fun _ => actOut_stores ..) entered
  · exact .after (.of (deriveAlias_keeps ..) rfl) (.after (actOut_stores ..) (.setBoot entered rfl))

theorem actField_stores (s f v) : Stores e s (actField s f v) := by
  have entered (a : LedgerArgs) : Stores e s (ledger (fldSet s f v) .firmware a) :=
    .after (.of (ledger_keeps ..) rfl) (fldSet_stores ..)
  fun_cases actField s f v
  · exact .nothing
  · exact entered _
  · exact entered _
  · exact .of (stageStep_keeps ..) rfl
  · exact entered _
  · exact .setBoot (.of (ledger_keeps ..) rfl) rfl
  · exact .setBoot .nothing rfl

theorem actKeep_stores (s b) : Stores e s (actKeep s b) := .either (.setBoot .nothing rfl) .nothing

theorem actQuiesce_stores {f : State → State} (s p target old new ok) (h : ∀ t, Stores e t (f t)) :
    Stores e s (actQuiesce s p target old new ok f) := by
  unfold actQuiesce
  exact .either .nothing (.either (.after (.of (ledger_keeps ..) rfl) (h _))
    (.after (actKeep_stores ..) (.of (ledger_keeps ..) rfl)))

theorem actRegion_stores (s n r) : Stores e s (actRegion s n r) := by
  unfold actRegion
  exact .either .nothing (.either (.after (.of (ledger_keeps ..) rfl) (.after (setRegion_stores ..) (freshLens_stores ..)))
    (.setBoot (.of (ledger_keeps ..) rfl) rfl))

theorem actRec_stores (s b) : Stores e s (actRec s b) := by
  fun_cases actRec s b
  case case1 | case2 | case3 | case8 => exact actKeep_stores ..
  case case4 => exact .of (switchRoute_keeps ..) rfl
  case case5 => exact actRegion_stores ..
  case case6 =>
    exact .after (actQuiesce_stores _ _ _ _ _ _ fun _ => .of ((trimTree_keeps ..).after (modPart_keeps ..)) rfl)
      (.after (actQuiesce_stores _ _ _ _ _ _ fun _ => .of (setNctx_keeps ..) rfl)
      (.fold (fun _ _ => actField_stores ..) .nothing))
  case case7 => exact .fold (fun _ _ => actField_stores ..) .nothing
  case case9 => exact actField_stores ..
  case case10 | case11 => exact .nothing

theorem switchAll_stores (s i) : Stores e s (switchAll s i) :=
  .fold (fun _ _ => actRec_stores ..) (.setBoot .nothing rfl)

theorem fwRevert_stores (s) : Stores e s (fwRevert s) := by
  unfold fwRevert
  extract_lets s1 fw s2 s3
  have slot : Stores e s s1 := by
    unfold s1
    split
    · exact slotTo_stores ..
    · exact .nothing
  exact .after (.of ((pushErr_keeps ..).after ((bumpMeas_keeps ..).after (.setSec .nothing))) rfl)
    (.after (actOut_stores ..) (.setBoot slot rfl))

theorem fwFault_stores (s) : Stores e s (fwFault s) := .either (fwRevert_stores ..) .nothing

theorem badSlots_stores (s f) : Stores e s (badSlots s f) := by
  refine .fold (fun s n => ?_) .nothing
  split
  · exact .either (slotTo_stores ..) .nothing
  · exact .nothing

theorem commitEnd_stores (s c svn good blown) : Stores e s (commitEnd s c svn good blown) := by
  have counted (c : Prop) [Decidable c] (x : Sec) :
      Keeps _ s (if c then { s with sec := x } else bumpMeas { s with sec := x }) :=
    .either (.setSec .nothing) ((bumpMeas_keeps ..).after (.setSec .nothing))
  unfold commitEnd
  exact .either (.after (.of ((ledger_keeps ..).after ((pushErr_keeps ..).after (setCommit_keeps ..))) rfl)
    (.after (badSlots_stores ..) (.of (counted ..) rfl)))
    (.of ((pushErr_keeps ..).after ((setCommit_keeps ..).after (counted ..))) rfl)

theorem revokeEnd_stores (s k good) : Stores e s (revokeEnd s k good) := by
  unfold revokeEnd
  exact .either (.after (.of ((ledger_keeps ..).after ((pushErr_keeps ..).after (setRevoke_keeps ..))) rfl)
    (.after (badSlots_stores ..) (.of ((bumpMeas_keeps ..).after (.setSec (.setSec .nothing))) rfl)))
    (.of ((pushErr_keeps ..).after ((setRevoke_keeps ..).after (.setSec .nothing))) rfl)

/-! ### Reboot and loss of power (R477, R526) -/

theorem keepIsland_stores (s) : Stores .canonical s (keepIsland s) := .wf fun _ => ⟨rfl, rfl⟩

theorem rebootNow_stores (s o) : Stores .canonical s (rebootNow s o) := by
  unfold rebootNow
  refine .either ?_ (.of (regLedger_keeps ..) rfl)
  exact .after (t := (List.range 20).foldl powerDown (keepIsland (regLedger s o 0x48 1 .ok))) (.same rfl rfl)
    (.fold (fun _ _ => .of (powerDown_keeps ..) rfl) (.after (keepIsland_stores ..) (.of (regLedger_keeps ..) rfl)))

theorem powerLoss_stores (s) : Stores .canonical s (powerLoss s) := .wf fun _ => ⟨rfl, rfl⟩

/-! ### Register and configuration writes (R384, R485) -/

theorem configAct_stores {o f v} (h : configAct s o f v = some u) : Stores .canonical s u := by
  revert h
  fun_cases configAct s o f v
  all_goals rintro ⟨⟩
  · exact fwAct_stores ..
  · exact rebootNow_stores ..
  · exact .of (sleepAsk_keeps ..) rfl
  · exact .of (wakeAsk_keeps ..) rfl
  · exact .of (retrainPort_keeps ..) rfl
  · exact .of (unfence_keeps ..) rfl
  · exact .of (commitGo_keeps ..) rfl
  · exact .of (revokeGo_keeps ..) rfl

theorem configDo_stores (s x f off width value mask a) : Stores .canonical s (configDo s x f off width value mask a) := by
  fun_cases configDo s x f off width value mask a
  case case1 => exact configAct_stores ‹_›
  case case2 => exact .after (.of (finishCmd_keeps ..) rfl) (configAct_stores ‹_›)
  case case3 | case4 | case8 =>
    exact .after (.of ((finishCmd_keeps ..).after (ledger_keeps ..)) rfl) (fldSet_stores ..)
  case case5 => exact .of ((finishCmd_keeps ..).after (stageStep_keeps ..)) rfl
  case case6 => exact .of ((finishCmd_keeps ..).after ((ledger_keeps ..).after (.setPwr .nothing))) rfl
  case case7 | case9 => exact .of (configRefuse_keeps ..) rfl

theorem writeAction_stores {o x width v} (h : writeAction s o x width v = some u) : Stores .canonical s u := by
  suffices written : Stores .canonical s ((writeAction s o x width v).getD s) by rwa [h] at written
  fun_cases writeAction s o x width v
  case case1 h =>
    rw [Option.getD_some]
    exact .after (imgWrite_stores ..) (.of ((regLedger_keeps ..).after (drawFree_keeps_eq h)) rfl)
  case case2 => exact .of (ledger_keeps ..) rfl
  case case3 => exact .either (fwAct_stores ..) (.of (ledger_keeps ..) rfl)
  case case4 => exact .either (rebootNow_stores ..) (.of (ledger_keeps ..) rfl)
  case case5 =>
    have asked : Keeps _ s (if v.testBit 0 then sleepAsk s o else s) := .either (sleepAsk_keeps ..) .nothing
    exact .of (.either ((wakeAsk_keeps ..).after asked) (.either asked (ledger_keeps ..))) rfl
  case case6 => exact .of (.either ((unfence_keeps ..).after (.setRas .nothing))
      ((ledger_keeps ..).after (.setRas .nothing))) rfl
  case case7 => exact .of (.either (commitGo_keeps ..) (ledger_keeps ..)) rfl
  case case8 => exact .of (.either ((revokeGo_keeps ..).after (.setSec .nothing))
      ((ledger_keeps ..).after (.setSec .nothing))) rfl
  case case9 => exact .of (.either (retrainPort_keeps ..) (ledger_keeps ..)) rfl
  case case10 => exact .nothing

theorem writeBar0_stores (s o x width v) : Stores .canonical s (writeBar0 s o x width v) := by
  fun_cases writeBar0 s o x width v
  case case1 => exact .nothing
  case case2 => exact .of (msixWrite_keeps ..) rfl
  case case3 => exact .of (mbxCmdWrite_keeps ..) rfl
  case case4 => exact .of (mbxGo_keeps ..) rfl
  case case5 => exact writeViol_stores _ _ fun _ => .nothing
  case case6 => exact .of (mbxStatusWrite_keeps ..) rfl
  case case7 => exact .of (writeIgnored_keeps ..) rfl
  case case8 => exact .after (writeViol_stores _ _ fun _ => .nothing) (.of (writeIgnored_keeps ..) rfl)
  case case9 => exact writeAction_stores ‹_›
  case case10 => exact .of (Keeps.halves (ledger_keeps ..) _) rfl
  case case11 => exact .after (writeWhole_stores ..) (.of (k := []) (Keeps.halves .nothing _) rfl)
  case case12 => exact writeWhole_stores ..

theorem regWrite_stores (o bar off width value s) : Stores .canonical s (regWrite o bar off width value s) := by
  fun_cases regWrite o bar off width value s
  case case1 | case10 | case15 => exact .nothing
  case case2 | case3 | case6 | case7 => exact .either (.of (pageWrite_keeps ..) rfl) .nothing
  case case11 => exact .of (pageWrite_keeps ..) rfl
  case case4 | case8 => exact .after (writeViol_stores _ _ fun _ => .nothing) (.of (writeIgnored_keeps ..) rfl)
  case case5 | case9 => exact writeBar0_stores ..
  case case12 => exact .of (absentWrite_keeps ..) rfl
  case case13 => exact violate_stores _ _ fun _ => .nothing
  case case14 => exact .of (writeVf_keeps ..) rfl

end Sys2Proof.Machine
end

section
/-! PROOFS. What steps, pages and links do to the byte stores (R235 to R245, R311 to R355, R433 to R449). -/

namespace Sys2Proof.Machine

variable {e : Fate} {s u : State}

/-! ### Steps begun (R227, R240, R311) -/

theorem pbFail_stores (s t r) : Stores e s (pbFail s t r) := by
  have told : Stores e s (match r with
      | some o => tileErr s t .pbCheck .badField 0xFF [t, o]
      | none => tileErr s t .pbCheck .ok 0xFF [t]) := by
    split
    · exact .of (tileErr_keeps ..) rfl
    · exact .of (tileErr_keeps ..) rfl
  unfold pbFail
  refine .after (fwFault_stores ..) (.after (.of (rerunFault_keeps ..) rfl) (.either ?_ told))
  split
  · exact .after (makeSuspect_stores ..) (.after (countFault_stores (fun _ => .nothing) ..) told)
  · exact told

theorem useSection_stores (s t c) : Stores e s (useSection s t c) := by
  unfold useSection
  exact .either (.of (setTile_keeps ..) rfl) (.after (pbFail_stores ..) (.of (setTile_keeps ..) rfl))

theorem startStep_stores (s p x) : Stores e s (startStep s p x) := by
  unfold startStep
  refine .fold (fun s t => ?_) (.of (.fold (fun _ _ => modTile_keeps ..) ((startLanes_keeps ..).after ((modPart_keeps ..).after
    (.either .nothing (bindAgain_keeps ..))))) rfl)
  split
  · exact .either .nothing (.after (pbFail_stores ..) (.of (modTile_keeps ..) rfl))
  · exact .nothing

theorem startNext_stores (s p) : Stores .canonical s (startNext s p) := by
  fun_cases startNext s p
  · exact .nothing
  · exact .after (startStep_stores ..) (.ofFst ‹_› (.after (writeParams_stores ..) (.of (modPart_keeps ..) rfl)))
  · exact .after (startStep_stores ..) (.of (modPart_keeps ..) rfl)
  · exact .nothing

/-! ### Pages taken (R343 to R351) -/

theorem freshPages_stores (s p ks) : Stores e s (freshPages s p ks) :=
  .fold (fun _ _ => .fold (fun _ _ => setLen_stores ..) .nothing) .nothing

theorem takeSet_stores {p n : Nat} (h : takeSet s p n = some u) : Stores e s u := by
  simp only [takeSet, Option.ite_none_left_eq_some, Option.map_eq_some_iff] at h
  obtain ⟨-, r, hr, rfl⟩ := h
  exact .after (freshPages_stores ..) (.of ((modSlot_keeps ..).after (allocSet_keeps hr)) rfl)

theorem copyPage_stores {p src dst hw m : Nat} (h : copyPage s p src dst hw m = some u) : Stores .canonical s u := by
  obtain ⟨bs, -, rfl⟩ := Option.map_eq_some_iff.mp h
  exact .fold (fun _ _ => memPutRun_stores ..) (.fold (fun _ _ => .after (memPutRun_stores ..) (memPutRun_stores ..)) .nothing)

theorem copySet_stores {p n i m : Nat} (h : copySet s p n i m = some u) : Stores .canonical s u := by
  simp only [copySet, Option.ite_none_left_eq_some, Option.map_eq_some_iff] at h
  obtain ⟨-, r, hr, rfl⟩ := h
  have fresh : Stores .canonical s (freshPages r.1 p r.2) := .after (freshPages_stores ..) (.of (allocSet_keeps hr) rfl)
  split
  · exact .after (.of (copyStops_keeps ..) rfl) fresh
  · next s2 hs2 =>
    have copied : Stores .canonical (freshPages r.1 p r.2) s2 :=
      Stores.foldSome (st := id) (fun _ => rfl) (fun _ _ _ hq => copyPage_stores hq) hs2
    exact .after (.of ((modPart_keeps ..).after ((dropPages_keeps ..).after (modSlot_keeps ..))) rfl) (.after copied fresh)

theorem supply_stores {p n upto first fuel : Nat} (h : supply p n upto first fuel s = some u) : Stores .canonical s u := by
  induction fuel generalizing s with
  | zero => cases h
  | succ fuel ih =>
    simp only [supply] at h
    split at h
    · cases h
      exact .nothing
    · split at h
      · obtain ⟨t, ht, h⟩ := Option.bind_eq_some_iff.mp h
        exact .after (ih h) (copySet_stores ht)
      · split at h
        · cases h
          exact .nothing
        · obtain ⟨t, ht, h⟩ := Option.bind_eq_some_iff.mp h
          exact .after (ih h) (takeSet_stores ht)

/-! ### Columns composed (R311 to R322, R350) -/

theorem addCols_stores (c p n cols tree) : Stores .canonical c.s (addCols c p n cols tree).s := by
  fun_cases addCols c p n cols tree
  case case4 h _ | case5 h _ => exact supply_stores h
  case case6 h _ | case7 h _ => exact .after (supply_stores h) (.of (relieve_keeps ..) rfl)
  case case8 => exact .of (relieve_keeps ..) rfl
  all_goals exact .nothing

theorem addWithin_stores (lim c p n cols tree) : Stores .canonical c.s (addWithin lim c p n cols tree).s := by
  have taken (k : Nat) (t : Option Tree) : Stores .canonical c.s (if k = 0 then c else addCols c p n (cols.take k) t).s :=
    .eitherOf (st := Comp.s) .nothing (addCols_stores ..)
  fun_cases addWithin lim c p n cols tree
  · exact addCols_stores ..
  · exact addCols_stores ..
  · exact taken ..
  · exact taken ..

theorem rungDecode_stores (p budget lim c n) : Stores .canonical c.s (rungDecode p budget lim c n).s := by
  fun_cases rungDecode p budget lim c n
  · exact addWithin_stores ..
  · exact .nothing

theorem rungCand_stores (p budget lim c n) : Stores .canonical c.s (rungCand p budget lim c n).s := by
  fun_cases rungCand p budget lim c n
  case case3 => exact .of (staleTree_keeps ..) rfl
  case case4 => exact addWithin_stores ..
  all_goals exact .nothing

theorem rungChunk_stores (p budget lim c n) : Stores .canonical c.s (rungChunk p budget lim c n).s := by
  fun_cases rungChunk p budget lim c n
  · exact addWithin_stores ..
  · exact .nothing

theorem compose_stores (s p v) : Stores .canonical s (compose s p v).s := by
  have run (c : Comp) (ns : List Nat) (budget : Nat) (lim : Option Nat) (h : Stores .canonical s c.s) : Stores .canonical s
      (ns.foldl (rungChunk p budget lim) (ns.foldl (rungCand p budget lim) (ns.foldl (rungDecode p budget lim) c))).s :=
    .foldOf (st := Comp.s) (fun _ _ => rungChunk_stores ..) (.foldOf (st := Comp.s) (fun _ _ => rungCand_stores ..)
      (.foldOf (st := Comp.s) (fun _ _ => rungDecode_stores ..) h))
  exact run _ _ _ _ (run _ _ _ _ .nothing)

theorem takeComposed_stores (p v c) : Stores .canonical c.s (takeComposed p v c) := by
  unfold takeComposed
  dsimp only
  exact .after (.of (modPart_keeps ..) rfl) (.after (writeParams_stores ..)
    (.of ((setCand_keeps ..).after (noteDefer_keeps ..)) rfl))

theorem composeFirst_stores (s p vs) : Stores .canonical s (composeFirst s p vs) := by
  fun_induction composeFirst s p vs with
  | case1 => exact .nothing
  | case2 => exact compose_stores ..
  | case3 _ _ _ _ _ _ ih => exact .after ih (.after (.of (noteDefer_keeps ..) rfl) (compose_stores ..))
  | case4 => exact .after (startNext_stores ..) (.after (takeComposed_stores ..) (compose_stores ..))

/-! ### The end of a step (R235 to R243, R323 to R342) -/

theorem resolveComposed_stores (s p) : Stores .canonical s (resolveComposed s p) := by
  fun_cases resolveComposed s p
  · exact .nothing
  · exact .after (rewriteParams_stores ..) (.of ((modPart_keeps ..).after
      (.fold (fun _ _ => (uncand_keeps ..).after (staleTree_keeps ..)) .nothing)) rfl)

theorem forgetRepeat_stores (s p x) : Stores e s (forgetRepeat s p x) := .setMem .nothing rfl

theorem taintedEnd_stores (s p x ev) : Stores e s (taintedEnd s p x ev) := by
  unfold taintedEnd
  exact .after (stagedNow_stores ..) (.of ((modPart_keeps ..).after ((pushStepRec_keeps ..).after
    ((taintedOut_keeps ..).after (endTiles_keeps ..)))) rfl)

theorem abandonEnd_stores (s p x a) : Stores e s (abandonEnd s p x a) := by
  unfold abandonEnd
  exact .after (.of (preemptDoomed_keeps ..) rfl) (.after (stagedNow_stores ..) (.of ((endCancelled_keeps ..).after
    ((afterAbandon_keeps ..).after ((reportAbandon_keeps ..).after ((modPart_keeps ..).after ((endTiles_keeps ..).after
      ((clearLanes_keeps ..).after ((recordAbandon_keeps ..).after
        ((pushStepRec_keeps ..).after (routeSome_keeps ..))))))))) rfl))

theorem cleanEnd_stores (s p x) : Stores .canonical s (cleanEnd s p x) := by
  have finished (xs : List Nat) : Stores .canonical s (xs.foldl (finishSlot x)
      ⟨sealWaiting (endTiles s p) p (stepSlots x), 0, 0, 0, none⟩).s :=
    .foldOf (st := Tally.s) (fun _ _ => .of (finishSlot_keeps ..) rfl)
    (.of ((sealWaiting_keeps ..).after (endTiles_keeps ..)) rfl)
  unfold cleanEnd
  exact .after (stagedNow_stores ..) (.after (.of ((refreshAdm_keeps ..).after (preemptDoomed_keeps ..)) rfl)
    (.after (forgetRepeat_stores ..) (.after (resolveComposed_stores ..)
      (.after (.of ((modPart_keeps ..).after (pushStepRec_keeps ..)) rfl) (finished _)))))

/-! ### Tiles that stall, scrub passes, migrations (R34 to R40, R261 to R266) -/

theorem stallSession_stores (s t) : Stores e s (stallSession s t) :=
  .after (fenceUnit_stores ..) (.of ((pushErr_keeps ..).after (endSession_keeps ..)) rfl)

theorem stallTile_stores (s t) : Stores e s (stallTile s t) := by
  have stalled (f : Tile → Tile) (p : Pwr) (a : RecCode) (st : Status) (o : Nat) (d : State → List Nat) : Stores e s
      (countFault (modTile { s with pwr := p } t f) (tileUnit t) fun s => tileErr s t a st o (d s)) :=
    .after (countFault_stores (fun _ => .of (tileErr_keeps ..) rfl) ..) (.of ((modTile_keeps ..).after (.setPwr .nothing)) rfl)
  unfold stallTile
  exact .either (.after (stallSession_stores ..) (stalled ..)) (.after (.of (abandonStep_keeps ..) rfl) (stalled ..))

theorem unitWindowEnd_stores (s d i n) : Stores e s (unitWindowEnd s d i n) := by
  unfold unitWindowEnd
  exact .either (.after (stallTile_stores ..) (.setPwr .nothing)) (.setPwr .nothing)

theorem markPass_stores (s c) : Stores e s (markPass s c) := .either (.setMem .nothing rfl) .nothing

theorem endPass_stores (s) : Stores e s (endPass s) := by
  unfold endPass
  exact .either (.either (.setPwr (.setMem .nothing (by rfl))) (.setMem .nothing rfl)) .nothing

theorem modMig_stores (s c f) : Stores e s (modMig s c f) := .setMem .nothing rfl

theorem putSwap_stores (s p h k bs) : Stores .canonical s (putSwap s p h k bs) :=
  .after (memPutRun_stores ..) (.fold (fun _ _ => .after (setLen_stores ..) (memPutRun_stores ..)) .nothing)

/-! ### Ports (R433 to R446) -/

theorem countPort_stores {f : State → State} (s p) (h : ∀ t, Stores e t (f t)) : Stores e s (countPort s p f) := by
  unfold countPort
  exact .either (.after (.of (portFenced_keeps ..) rfl) (countFault_stores h ..)) (countFault_stores h ..)

theorem portDown_stores (s p) : Stores e s (portDown s p) := by
  unfold portDown
  exact .after (countPort_stores _ _ fun _ => .of (pushErr_keeps ..) rfl)
    (.of ((portOut_keeps ..).after (modPort_keeps ..)) rfl)

theorem linkReset_stores (s p why) : Stores e s (linkReset s p why) := by
  have counted (f : LnkPort → LnkPort) (a : ErrArgs) : Stores e s
      (countPort (modPort s p f) p fun s => pushErr s .lnkProto a) :=
    .after (countPort_stores _ _ fun _ => .of (pushErr_keeps ..) rfl) (.of (modPort_keeps ..) rfl)
  unfold linkReset
  exact .either .nothing (.after (.of (pumpFlows_keeps ..) rfl) (.either (.after (.of (declareEvent_keeps ..) rfl) (counted ..))
    (counted ..)))

theorem dropLane_stores (s p l) : Stores e s (dropLane s p l) := by
  unfold dropLane
  exact .either .nothing (.either (.after (portDown_stores ..) (.of (modPort_keeps ..) rfl))
    (.either (.of (modPort_keeps ..) rfl)
    (.of ((setWidth_keeps ..).after ((sendControl_keeps ..).after (modPort_keeps ..))) rfl)))

theorem replay_stores (s p) : Stores e s (replay s p) := by
  unfold replay
  exact .either (.of (modPort_keeps ..) rfl) (.after (dropLane_stores ..)
    (.of ((modPort_keeps ..).after (modPort_keeps ..)) rfl))

theorem takeControl_stores (s p c) : Stores e s (takeControl s p c) := by
  fun_cases takeControl s p c
  case case1 | case2 | case3 | case8 => exact .nothing
  case case4 => exact .of ((pumpFlows_keeps ..).after (modPort_keeps ..)) rfl
  case case5 | case6 | case11 => exact linkReset_stores ..
  case case7 => exact .of ((pumpFlows_keeps ..).after ((modPort_keeps ..).after (modPort_keeps ..))) rfl
  case case9 => exact .of (setWidth_keeps ..) rfl
  case case10 => exact .of (modPort_keeps ..) rfl

theorem takeFlit_stores (s p f) : Stores e s (takeFlit s p f) := by
  fun_cases takeFlit s p f
  · exact .after (takeControl_stores ..) (.of (modPort_keeps ..) rfl)
  · exact .after (linkReset_stores ..) (.of (modPort_keeps ..) rfl)
  · exact .after (linkReset_stores ..) (.of ((bufferFlit_keeps_eq ‹_›).after (modPort_keeps ..)) rfl)
  · exact .after (linkReset_stores ..) (.of ((bufferFlit_keeps_eq ‹_›).after (modPort_keeps ..)) rfl)
  · exact .of ((modPort_keeps ..).after ((bufferFlit_keeps_eq ‹_›).after (modPort_keeps ..))) rfl

theorem flitIn_stores (s p f) : Stores e s (flitIn s p f) := by
  have taken (g h : LnkPort → LnkPort) : Keeps _ s (pumpFlows (modPort (modPort s p g) p h)) :=
    (pumpFlows_keeps ..).after ((modPort_keeps ..).after (modPort_keeps ..))
  fun_cases flitIn s p f
  case case1 => exact .of (nakFlit_keeps ..) rfl
  case case2 | case3 | case4 => exact .after (linkReset_stores ..) (.of (modPort_keeps ..) rfl)
  case case5 => exact .of (taken ..) rfl
  case case6 => exact .after (takeFlit_stores ..) (.of (taken ..) rfl)
  case case7 => exact .of ((nakFlit_keeps ..).after (taken ..)) rfl
  case case8 => exact .after (linkReset_stores ..) (.of (taken ..) rfl)

/-! ### Packets (R203, R204, R331 to R334, R435) -/

theorem pageStored_stores (p ks s b) : Stores .canonical s (pageStored p ks s b) := by
  fun_cases pageStored p ks s b
  · exact .nothing
  · exact .after (setLen_stores ..) (memPutRun_stores ..)
  · exact memPutRun_stores ..

theorem pageRaw_stores (p ks s b) : Stores .canonical s (pageRaw p ks s b) := by
  fun_cases pageRaw p ks s b
  · exact .nothing
  · exact .after (setLen_stores ..) (memPut_stores ..)
  · exact memPut_stores ..

theorem pageData_stores (s p ks k) : Stores .canonical s (pageData s p ks k) :=
  .either (.fold (fun _ _ => pageStored_stores ..) .nothing) (.fold (fun _ _ => pageRaw_stores ..) .nothing)

theorem relayIn_stores (s m b) : Stores .canonical s (relayIn s m b) := by
  fun_cases relayIn s m b
  case case1 h => exact .of ((sendVc0_keeps ..).after (readReg_keeps_eq h)) rfl
  case case2 => exact regWrite_stores ..
  case case3 | case7 => exact .nothing
  case case4 => exact .of ((emit_keeps ..).after (.setLnk .nothing)) rfl
  case case5 => exact .of (relayCommand_keeps ..) rfl
  case case6 => exact .of (mbxAnswer_keeps ..) rfl
  case case8 => exact .of (postCmdCpl_keeps ..) rfl
  case case9 => exact .of (outPut_keeps ..) rfl
  case case10 => exact .of ((noteFull_keeps ..).after (modPart_keeps ..)) rfl

theorem handoffIn_stores (s k p tr) : Stores .canonical s (handoffIn s k p tr).1 := by
  fun_cases handoffIn s k p tr
  · exact .of (handoffFirst_keeps ..) rfl
  · exact .nothing
  · exact .of ((handoffCheck_keeps ..).after (modSlot_keeps ..)) rfl
  · have taken (n : Nat) (f : Slot → Slot) (ks : List Nat) : Stores .canonical s (pageData (modSlot s n f) p ks k) :=
      .after (pageData_stores ..) (.of (modSlot_keeps ..) rfl)
    exact .either (.after (.of (handoffLast_keeps ..) rfl) (taken ..)) (taken ..)

theorem pageCopy_stores (s k p h) : Stores .canonical s (pageCopy s k p h).1 := by
  fun_cases pageCopy s k p h
  case case1 => exact .of (.either .nothing (copyFails_keeps ..)) rfl
  case case2 s1 ks hr _ =>
    have taken (r : RxFlow) : Stores .canonical s (pageData (setRx s1 r) p ks k) :=
      .after (pageData_stores ..) (.of ((setRx_keeps ..).after (copyPages_keeps hr)) rfl)
    exact .either (.after (.of ((copyWhole_keeps ..).after (setRx_keeps ..)) rfl) (taken _)) (taken _)

theorem pageIn_stores (s k p h m) : Stores .canonical s (pageIn s k p h m).1 := by
  cases m with
  | data => exact pageCopy_stores ..
  | ask => exact .of (pageAsk_keeps ..) rfl
  | offer pages => exact .of (offerIn_keeps ..) rfl
  | go | raw => exact .of (pageServe_keeps ..) rfl

theorem deliverPkt_stores (s k b) : Stores .canonical s (deliverPkt s k b).1 := by
  cases b with
  | send v => exact .either (.after (.of (vectorIn_keeps ..) rfl) (sendIn_stores ..)) (sendIn_stores ..)
  | expert route => exact .either (.after (.of (expertIn_keeps ..) rfl) (sendIn_stores ..)) (sendIn_stores ..)
  | relay b => exact relayIn_stores ..
  | handoff p tr => exact handoffIn_stores ..
  | page p h m => exact pageIn_stores ..
  | weight q b => exact .of (weightIn_keeps ..) rfl

theorem deliverRun_stores (fuel s k b) : Stores .canonical s (deliverRun fuel s k b) := by
  induction fuel generalizing s k b with
  | zero => exact .nothing
  | succ fuel ih =>
    have delivered (r : RxFlow) : Stores .canonical s (deliverPkt (setRx s r) k b).1 :=
      .after (deliverPkt_stores ..) (.of (setRx_keeps ..) rfl)
    simp only [deliverRun]
    split
    · next h => exact .after (.of (quenchRx_keeps ..) rfl) (.ofFst h (delivered _))
    · next s2 h =>
      have acked (c : Prop) [Decidable c] : Stores .canonical s (if c then sendAck s2 k.smod k.flow else s2) :=
        .either (.after (.of (sendAck_keeps ..) rfl) (.ofFst h (delivered _))) (.ofFst h (delivered _))
      split
      · exact .after (ih ..) (.after (.of (setRx_keeps ..) rfl) (acked _))
      · exact acked _

theorem rxTake_stores (s k b) : Stores .canonical s (rxTake s k b) := by
  unfold rxTake
  exact .either (.of (modPort_keeps ..) rfl) (.either (.of (setRx_keeps ..) rfl)
    (.either (.of (.either .nothing (setRx_keeps ..)) rfl)
    (deliverRun_stores ..)))

theorem packetIn_stores (s k b) : Stores .canonical s (packetIn s k b) := by
  unfold packetIn
  have freed : Stores .canonical s (freed s k) := .of (freeRx_keeps ..) rfl
  exact .either .nothing (.either (linkReset_stores ..) (.either (linkReset_stores ..)
    (.either (.of ((pumpFlows_keeps ..).after (passOn_keeps ..)) rfl) (.either (.after (.of (modPort_keeps ..) rfl) freed)
      (.either (.after (deliverPkt_stores ..) freed) (.after (rxTake_stores ..) freed))))))

/-! ### Module memory from the host (R254 to R260) -/

theorem bar4Bad_stores (s0 s k n) : Stores e s (bar4Bad s0 s k n) := .of (bar4Bad_keeps ..) rfl

theorem bar4Write_stores (s off a bs errs) : Stores .canonical s (bar4Write s off a bs errs) := by
  unfold bar4Write
  exact .either (.after (.of (emit_keeps ..) rfl) (.after (memWrite_stores ..) (linesRead_stores ..)))
    (.after (.of ((emit_keeps ..).after (bar4Bad_keeps ..)) rfl) (linesRead_stores ..))

end Sys2Proof.Machine
end

section
/-! PROOFS. What a command that carries a function with it, or works on every partition, does to the byte stores. -/

namespace Sys2Proof.Machine

variable {e : Fate} {s : State}

theorem withCmd_stores {x : Src} {c : Nat} {no : State → Option No} {f : State → Nat → State}
    (h : ∀ t j, Stores e t (f t j)) : Stores e s (withCmd s x c no f) := by
  unfold withCmd
  extract_lets
  split
  · exact .of ((refuseCmd_keeps ..).after (takeCmd_keeps ..)) rfl
  · exact .after (h ..) (.of (takeCmd_keeps ..) rfl)

theorem forParts_stores {f : State → Nat → State} (h : ∀ t p, Stores e t (f t p)) : Stores e s (forParts s f) := by
  unfold forParts
  exact .fold h .nothing

end Sys2Proof.Machine
end

section
/-! PROOFS. What each command that may write memory or the boot registers does to the byte stores: they stay canonical. -/

namespace Sys2Proof.Machine

/-! ### The trit lookup array (Machine/Tla.lean) -/

theorem execTbuildComplete_stores (t s err) : NextStores .canonical s (execTbuildComplete t s err) := by
  fun_cases execTbuildComplete t s err
  case case2 => exact .next (.after (retire_stores ..) (.after (.of (modTile_keeps ..) rfl) (storeErr_stores ..)))
  all_goals exact .idle

theorem execTlookRowEntry_stores (t err s st) : NextStores .canonical s (execTlookRowEntry t err s st) := by
  fun_cases execTlookRowEntry t err s st
  case case4 => exact .next (.after (settle_stores ..) (.after (arrayErr_stores ..) (.after (.either .nothing
      (storeErr_stores ..)) (.after (.of (.either (progFault_keeps ..) (.either (tileErrOnce_keeps ..) .nothing)) rfl)
      (.after (tritCodes_stores ..) (.of (setTile_keeps ..) rfl))))))
  all_goals exact .idle

theorem execTlookRetire_stores (t s) : NextStores .canonical s (execTlookRetire t s) := by
  fun_cases execTlookRetire t s
  · exact .idle
  · exact .next (retire_stores ..)

theorem execDrainRetire_stores (t s err) : NextStores .canonical s (execDrainRetire t s err) := by
  fun_cases execDrainRetire t s err
  case case3 => exact .next (.after (retire_stores ..) (.after (arrayErr_stores ..) (.after (storeErr_stores ..)
      (.of (.fold (fun _ _ => progFault_keeps ..) (.after (.either .nothing
      ((tileErrOnce_keeps ..).after (modCounters_keeps ..))) ((countNonfinite_keeps ..).after (setTile_keeps ..)))) rfl))))
  all_goals exact .idle

theorem execTlookFeedTimeout_stores (t s) : NextStores .canonical s (execTlookFeedTimeout t s) := by
  fun_cases execTlookFeedTimeout t s
  case case3 => exact .next (feedSilent_stores ..)
  all_goals exact .idle

/-! ### The attention engine (Machine/Ae.lean) -/

theorem execKeyJoin_stores (t tag parity s err) : NextStores .canonical s (execKeyJoin t tag parity s err) := by
  fun_cases execKeyJoin t tag parity s err
  case case3 => exact .next (.after (settle_stores ..) (.after (aeParity_stores ..) (.after (storeErr_stores ..)
      (.of ((countNonfinite_keeps ..).after ((modInfl_keeps ..).after (setTile_keeps ..))) rfl))))
  all_goals exact .idle

theorem execAttnQkRetire_stores (t tag s) : NextStores .canonical s (execAttnQkRetire t tag s) := by
  fun_cases execAttnQkRetire t tag s
  case case3 => exact .next (.after (retire_stores ..) (.of (modTile_keeps ..) rfl))
  all_goals exact .idle

theorem execAttnSoftRetire_stores (t tag s parity err) :
    NextStores .canonical s (execAttnSoftRetire t tag s parity err) := by
  fun_cases execAttnSoftRetire t tag s parity err
  case case2 => exact .next (.after (retire_stores ..) (.of (progFault_keeps ..) rfl))
  case case3 => exact .next (.after (retire_stores ..) (.after (storeErr_stores ..) (.of (modTile_keeps ..) rfl)))
  case case4 => exact .next (.after (retire_stores ..) (.after (aeParity_stores ..)
      (.of ((countNonfinite_keeps ..).after (blockRows_keeps ..)) rfl)))
  case case5 => exact .next (.after (retire_stores ..) (.after (aeParity_stores ..) (.of (modTile_keeps ..) rfl)))
  all_goals exact .idle

theorem execAttnPvRetire_stores (t tag parity s err) : NextStores .canonical s (execAttnPvRetire t tag parity s err) := by
  fun_cases execAttnPvRetire t tag parity s err
  case case3 => exact .next (.after (retire_stores ..) (.after (aeParity_stores ..) (.after (storeErr_stores ..)
      (.of (modTile_keeps ..) rfl))))
  all_goals exact .idle

theorem execAeFeedTimeout_stores (t tag s) : NextStores .canonical s (execAeFeedTimeout t tag s) := by
  fun_cases execAeFeedTimeout t tag s
  case case3 => exact .next (feedSilent_stores ..)
  all_goals exact .idle

/-! ### The vector unit (Machine/Vec.lean) -/

theorem execVecRetire_stores (t parity s err) : NextStores .canonical s (execVecRetire t parity s err) := by
  fun_cases execVecRetire t parity s err
  · exact .idle
  · exact .next (.after (retire_stores ..) (.after (.either (.after (.of (rerunFault_keeps ..) rfl) (countFault_stores
      (fun _ => .of (tileErr_keeps ..) rfl) ..)) .nothing) (.after (storeErr_stores ..)
      (.of ((bandEffect_keeps ..).after (vecEffect_keeps ..)) rfl))))

theorem execRngDrawRetire_stores (t s) : NextStores .canonical s (execRngDrawRetire t s) := by
  fun_cases execRngDrawRetire t s
  case case2 => exact .next (.after (retire_stores ..) (.of (modTile_keeps ..) rfl))
  all_goals exact .idle

/-! ### Bands (Machine/Bands.lean) -/

theorem execBandGroupVerdict_stores (t peers writer s) :
    NextStores .canonical s (execBandGroupVerdict t peers writer s) := by
  fun_cases execBandGroupVerdict t peers writer s
  case case3 => exact .next (.after (settle_stores ..) (.after (.of (.either (layerDense_keeps ..) .nothing) rfl)
      (.after (.either .nothing (bandMeta_stores ..))
      (.of ((modBand_keeps ..).after ((countVerdict_keeps ..).after (modTile_keeps ..))) rfl))))
  all_goals exact .idle

theorem execStrictLayerVerdict_stores (p step layer set s) :
    NextStores .canonical s (execStrictLayerVerdict p step layer set s) := by
  fun_cases execStrictLayerVerdict p step layer set s
  · exact .idle
  · exact .next (.of (.after (.either (layerDense_keeps ..) .nothing) (.fold (fun _ _ => modTile_keeps ..) .nothing)) rfl)

/-! ### The tile store and transfers (Machine/Store.lean) -/

theorem execMoveRetire_stores (t tag s err lines) : NextStores .canonical s (execMoveRetire t tag s err lines) := by
  have read (v : StoreErr) (n c : Nat) : Stores .canonical s (storeErr s n c v) := storeErr_stores ..
  fun_cases execMoveRetire t tag s err lines
  case case3 => exact .next (.after (.of (refetch_keeps ..) rfl) (read ..))
  case case4 => exact .next (.after (.of (refetch_keeps ..) rfl) (read ..))
  case case5 => exact .next (.after (retire_stores ..) (read ..))
  case case6 => exact .next (.after (retire_stores ..) (.after (loadRun_stores ..) (read ..)))
  case case7 => exact .next (.after (retire_stores ..) (.after (memWrite_stores ..) (read ..)))
  case case9 => exact .next (.after (retire_stores ..) (read ..))
  case case11 => exact .next (.after (finishGet_stores ..) (read ..))
  case case13 => exact .next (.after (retire_stores ..) (read ..))
  all_goals exact .idle

theorem execCacheFillArrive_stores (t tag line errs s) :
    NextStores .canonical s (execCacheFillArrive t tag line errs s) := by
  fun_cases execCacheFillArrive t tag line errs s
  case case2 => exact .next (.after (.of (.after (.either (readPoisoned_keeps ..) .nothing)
      ((modInfl_keeps ..).after (modTile_keeps ..))) rfl) (.ofFst ‹_› (linesRead_stores ..)))
  case case3 => exact .next (.after (.of ((modInfl_keeps ..).after (modTile_keeps ..)) rfl) (.ofFst ‹_› (linesRead_stores ..)))
  all_goals exact .idle

theorem execWinCloseRetire_stores (t id s) : NextStores .canonical s (execWinCloseRetire t id s) := by
  fun_cases execWinCloseRetire t id s
  · exact .next (.after (settle_stores ..) (.of (modTile_keeps ..) rfl))
  · exact .idle

theorem execPutArrive_stores (t src writer gran data s) :
    NextStores .canonical s (execPutArrive t src writer gran data s) := by
  fun_cases execPutArrive t src writer gran data s
  · exact .idle
  · exact .next (deliver_stores ..)
  · exact .next (deliver_stores ..)

theorem execGetArrive_stores (t src reader gran len s) :
    NextStores .canonical s (execGetArrive t src reader gran len s) := by
  fun_cases execGetArrive t src reader gran len s
  case case2 => exact .next (.of ((moveDone_keeps ..).after (modTile_keeps ..)) rfl)
  case case4 => exact .next (refuseMove_stores ..)
  all_goals exact .idle

theorem execDieSendArrive_stores (t writer gran data vec s route) :
    NextStores .canonical s (execDieSendArrive t writer gran data vec s route) := by
  fun_cases execDieSendArrive t writer gran data vec s route
  exact .next (.either (.after (.of ((checkRoute_keeps ..).after (checkVec_keeps ..)) rfl) (deliver_stores ..))
    (deliver_stores ..))

/-! ### Sync and the control processor (Machine/Cp.lean) -/

theorem execSyncTimeout_stores (t bar s) : NextStores .canonical s (execSyncTimeout t bar s) := by
  fun_cases execSyncTimeout t bar s
  case case3 => exact .next (.after (.of (waitFault_keeps ..) rfl)
      (.after (.either (.fold (fun _ _ => .after (makeSuspect_stores ..) (countFault_stores
      (fun _ => .nothing) ..)) .nothing) .nothing) (.of (tileErr_keeps ..) rfl)))
  all_goals exact .idle

theorem execPbPrefetchDone_stores (t errs s) : NextStores .canonical s (execPbPrefetchDone t errs s) := by
  fun_cases execPbPrefetchDone t errs s
  case case2 => exact .next (.after (useSection_stores ..) (.ofFst ‹_› (prefetch_stores ..)))
  case case3 => exact .next (.ofFst ‹_› (prefetch_stores ..))
  case case4 => exact .next (.after (.of (modTile_keeps ..) rfl) (.ofFst ‹_› (prefetch_stores ..)))
  case case6 => exact .next (.after (.of (modTile_keeps ..) rfl) (.ofFst ‹_› (prefetch_stores ..)))
  all_goals exact .idle

theorem execSwitchStopNotice_stores (t s) : NextStores .canonical s (execSwitchStopNotice t s) := by
  fun_cases execSwitchStopNotice t s
  case case2 => exact .next (.after (settle_stores ..) (.of (modTile_keeps ..) rfl))
  all_goals exact .idle

/-! ### The weight expander (Machine/Expand.lean) -/

theorem execBlockDecode_stores (d e l errs s) : NextStores .canonical s (execBlockDecode d e l errs s) := by
  fun_cases execBlockDecode d e l errs s
  case case3 => exact .next (.after (.of (setLane_keeps ..) rfl) (.ofFst ‹_› (decodeReads_stores ..)))
  case case5 => exact .next (.after (.of (setLane_keeps ..) rfl) (.ofFst ‹_› (decodeReads_stores ..)))
  all_goals exact .idle

theorem execBlockForward_stores (d e l s) : NextStores .canonical s (execBlockForward d e l s) := by
  fun_cases execBlockForward d e l s
  case case2 => exact .next (.fold (fun _ _ => .after (settle_stores ..) (.of (modTile_keeps ..) rfl))
      (.of (setLane_keeps ..) rfl))
  all_goals exact .idle

theorem execExpListTimeout_stores (d e l s) : NextStores .canonical s (execExpListTimeout d e l s) := by
  fun_cases execExpListTimeout d e l s
  case case2 => exact .next (.after (.of (abandonStep_keeps ..) rfl) (.after (.either (.after (makeSuspect_stores ..)
      (countFault_stores (fun _ => .nothing) ..)) .nothing) (.of (pushErr_keeps ..) rfl)))
  all_goals exact .idle

theorem execSealComplete_stores (p page s) : NextStores .canonical s (execSealComplete p page s) := by
  fun_cases execSealComplete p page s
  · exact .idle
  · exact .next (.after (.of (modPart_keeps ..) rfl) (.fold (fun _ _ => sealBlock_stores ..) .nothing))

/-! ### Module memory (Machine/MemCtl.lean) -/

theorem execMemoryAccess_stores (x s) : NextStores .canonical s (execMemoryAccess x s) := by
  fun_cases execMemoryAccess x s
  · exact .next (.after (fwReturns_stores ..) (.of (refuseAccess_keeps ..) rfl))
  · exact .next (.after (fwReturns_stores ..) (.of (refuseAccess_keeps ..) rfl))
  · exact .next (.after (fwReturns_stores ..) (memWrite_stores ..))
  · exact .next (.after (fwReturns_stores ..) (.after (.of (requesterTaint_keeps ..) rfl) (.ofFst ‹_› (lineRead_stores ..))))
  · exact .next (.after (fwReturns_stores ..) (.after (aCrcTo_stores ..) (.ofFst ‹_› (lineRead_stores ..))))
  · exact .next (.after (fwReturns_stores ..) (.ofFst ‹_› (lineRead_stores ..)))

theorem execPatrolScrubStep_stores (ch line err s) : NextStores .canonical s (execPatrolScrubStep ch line err s) := by
  fun_cases execPatrolScrubStep ch line err s
  · exact .idle
  · exact .next (.after (endPass_stores ..) (.after (markPass_stores ..) (.setMem (lineRead_stores ..) rfl)))

theorem execMigrationBucketDone_stores (ch spread bucket poisoned s) :
    NextStores .canonical s (execMigrationBucketDone ch spread bucket poisoned s) := by
  fun_cases execMigrationBucketDone ch spread bucket poisoned s
  case case3 => exact .next (.fold (fun _ _ => poisonBlock_stores ..) (.setMem (modMig_stores ..) rfl))
  all_goals exact .idle

theorem execMigrationEnd_stores (ch s) : NextStores .canonical s (execMigrationEnd ch s) := by
  fun_cases execMigrationEnd ch s
  case case3 => exact .next (.either (.after (.of ((readmitChan_keeps ..).after (pushErr_keeps ..)) rfl) (.setMem .nothing rfl))
      (.after (.of (pushErr_keeps ..) rfl) (.setMem .nothing rfl)))
  all_goals exact .idle

/-! ### Bundles, programs and adapters (Machine/Loads.lean) -/

theorem execBundleCommit_stores (p s) : NextStores .canonical s (execBundleCommit p s) := by
  fun_cases execBundleCommit p s
  case case3 => exact .next (failLoad_stores ..)
  case case4 => exact .next (.after (.of ((finishLater_keeps ..).after (.either (bumpMeas_keeps ..) .nothing)) rfl)
      (.after (freeVersions_stores ..) (.of ((setLoad_keeps ..).after ((ledger_keeps ..).after (.after (.either .nothing
      (ledger_keeps ..)) ((makeCurrent_keeps ..).after (rebalLoading_keeps ..))))) rfl)))
  all_goals exact .idle

theorem execAdapterCommit_stores (p adapter s) : NextStores .canonical s (execAdapterCommit p adapter s) := by
  fun_cases execAdapterCommit p adapter s
  case case3 => exact .next (failLoad_stores ..)
  case case4 => exact .next (.after (.of (finishLater_keeps ..) rfl) (.after (freeVersions_stores ..)
      (.of ((setLoad_keeps ..).after ((ledger_keeps ..).after (.setCmp .nothing))) rfl)))
  all_goals exact .idle

theorem execLoadBundle_stores (x addr len b s) : NextStores .canonical s (execLoadBundle x addr len b s) :=
  .next (withCmd_stores fun _ _ => .after (bundleStages_stores ..)
    (.of ((setLoad_keeps ..).after ((emit_keeps ..).after (acceptCmd_keeps ..))) rfl))

theorem execLoadProgram_stores (x addr len bundle pr s) :
    NextStores .canonical s (execLoadProgram x addr len bundle pr s) := by
  have held (t : State) (j : Nat) (o : Out) (w : Option Load) :
      Stores .canonical t (setLoad (emit (acceptCmd t x 0x21 j) o) x.part w) :=
    .of ((setLoad_keeps ..).after ((emit_keeps ..).after (acceptCmd_keeps ..))) rfl
  refine .next (withCmd_stores fun t j => ?_)
  dsimp only
  split
  · exact .after (failLoad_stores ..) (held ..)
  · exact .setCmp (held ..)

theorem execUnloadBundle_stores (x bundle s) : NextStores .canonical s (execUnloadBundle x bundle s) :=
  .next (withCmd_stores fun _ _ => .after (.of (finishCmd_keeps ..) rfl) (.after (freeVersions_stores ..)
    (.of ((ledger_keeps ..).after (.setCmp .nothing)) rfl)))

theorem execUnloadProgram_stores (x bundle s) : NextStores .canonical s (execUnloadProgram x bundle s) :=
  .next (withCmd_stores fun _ _ => .after (.of (finishCmd_keeps ..) rfl) (.after (freeVersions_stores ..)
    (.of ((ledger_keeps ..).after (.setCmp .nothing)) rfl)))

theorem execLoadAdapter_stores (x addr len a s) : NextStores .canonical s (execLoadAdapter x addr len a s) := by
  have held (t : State) (j : Nat) (o : Out) (w : Option Load) :
      Stores .canonical t (setLoad (emit (acceptCmd t x 0x23 j) o) x.part w) :=
    .of ((setLoad_keeps ..).after ((emit_keeps ..).after (acceptCmd_keeps ..))) rfl
  refine .next (withCmd_stores fun t j => ?_)
  dsimp only
  split
  · exact .after (failLoad_stores ..) (held ..)
  · exact .after (memWrite_stores ..) (.setCmp (held ..))

theorem execDeleteAdapter_stores (x bundle adapter s) : NextStores .canonical s (execDeleteAdapter x bundle adapter s) :=
  .next (withCmd_stores fun _ _ => .after (.of (finishCmd_keeps ..) rfl) (.after (freeVersions_stores ..)
    (.of ((ledger_keeps ..).after (.setCmp .nothing)) rfl)))

/-! ### Steps, slots and contexts (Machine/Compose.lean, Machine/Steps.lean) -/

theorem execStepCompose_stores (p s) : NextStores .canonical s (execStepCompose p s) := by
  fun_cases execStepCompose p s
  · exact .next (.after (startNext_stores ..) (.of (preemptIdle_keeps ..) rfl))
  · exact .next (.after (composeFirst_stores ..) (.of (preemptIdle_keeps ..) rfl))

theorem execStepBoundary_stores (p s) : NextStores .canonical s (execStepBoundary p s) := by
  fun_cases execStepBoundary p s
  · exact .idle
  · exact .idle
  · exact .next (.after (startNext_stores ..) (taintedEnd_stores ..))
  · exact .next (.after (startNext_stores ..) (cleanEnd_stores ..))

theorem execStepAbandonComplete_stores (p s) : NextStores .canonical s (execStepAbandonComplete p s) := by
  fun_cases execStepAbandonComplete p s
  case case4 => exact .next (.after (startNext_stores ..) (abandonEnd_stores ..))
  all_goals exact .idle

theorem execSlotRelease_stores (k s) : NextStores .canonical s (execSlotRelease k s) := by
  fun_cases execSlotRelease k s
  · exact .idle
  · exact .next (.after (.of ((refreshAdm_keeps ..).after (refreshSwap_keeps ..)) rfl) (.after (freeVersions_stores ..)
      (.of (setSlot_keeps ..) rfl)))

theorem execRestorePage_stores (k data s) : NextStores .canonical s (execRestorePage k data s) := by
  fun_cases execRestorePage k data s
  case case2 => exact .next (.of ((restoreFails_keeps ..).after (dmaFailed_keeps ..)) rfl)
  case case3 => exact .next (.of (restoreFails_keeps ..) rfl)
  case case5 hp _ _ _ _ _ =>
    obtain ⟨q, -, hq⟩ := Option.bind_eq_some_iff.mp hp
    exact .next (.after (.of (.after (.either ((postState_keeps ..).after (modSlot_keeps ..)) .nothing)
      ((refreshSwap_keeps ..).after ((modSlot_keeps ..).after (modPart_keeps ..)))) rfl) (.after (putSwap_stores ..)
      (.of (allocPage_keeps hq) rfl)))
  all_goals exact .idle

theorem execSwitchRestoreDone_stores (p s) : NextStores .canonical s (execSwitchRestoreDone p s) := by
  fun_cases execSwitchRestoreDone p s
  · exact .idle
  · exact .next (.after (startNext_stores ..) (.fold (fun _ _ => settle_stores ..) (.of (restoreCtx_keeps ..) rfl)))
  · exact .next (.after (startNext_stores ..) (.of (restoreCtx_keeps ..) rfl))

/-! ### The host interface (Machine/Host.lean) -/

theorem execBar4Access_stores (off len data ep errs s) :
    NextStores .canonical s (execBar4Access off len data ep errs s) := by
  fun_cases execBar4Access off len data ep errs s
  · exact .next (.of (emit_keeps ..) rfl)
  · exact .next (.of (noBar_keeps ..) rfl)
  · exact .next (.of ((emit_keeps ..).after (violate_keeps_of fun _ => pushErr_keeps ..)) rfl)
  · exact .next (.of (bar4No_keeps ..) rfl)
  · exact .next (bar4Write_stores ..)
  · exact .next (.of (bar4No_keeps ..) rfl)
  · exact .next (.after (.of (emit_keeps ..) rfl) (.ofFst ‹_› (linesRead_stores ..)))
  · exact .next (.after (.of (emit_keeps ..) rfl) (.after (bar4Bad_stores ..) (.ofFst ‹_› (linesRead_stores ..))))

/-! ### Rings, contexts, configuration (Machine/Commands.lean) -/

theorem execDmaReadComplete_stores (why bad s) : NextStores .canonical s (execDmaReadComplete why bad s) := by
  fun_cases execDmaReadComplete why bad s
  case case3 => exact .next (.of ((dmaFailed_keeps ..).after (ringTo_keeps ..)) rfl)
  case case5 => exact .next (.after (failLoad_stores ..) (.of (dmaFailedFor_keeps ..) rfl))
  case case7 => exact .next (.of ((restoreFails_keeps ..).after (dmaFailed_keeps ..)) rfl)
  case case8 => exact .next (.of (dmaFailedFor_keeps ..) rfl)
  case case9 => exact .next (.of ((refuseSubmit_keeps ..).after ((takeCmd_keeps ..).after (dmaFailedFor_keeps ..))) rfl)
  case case10 => exact .next (.of ((finishCmd_keeps ..).after ((takeCmd_keeps ..).after (dmaFailedFor_keeps ..))) rfl)
  all_goals exact .idle

theorem execConfig_stores (x off width value mask s) : NextStores .canonical s (execConfig x off width value mask s) := by
  refine .next (withCmd_stores fun t _ => ?_)
  split
  · exact .nothing
  · refine .either (.of (configRefuse_keeps ..) rfl) ?_
    split
    · exact .of (configRefuse_keeps ..) rfl
    · exact configDo_stores ..

/-! ### Links (Machine/Ports.lean) -/

theorem execNakReceive_stores (p seq s) : NextStores .canonical s (execNakReceive p seq s) := by
  fun_cases execNakReceive p seq s
  · exact .idle
  · exact .next (.after (replay_stores ..) (.of (modPort_keeps ..) rfl))
  · exact .next (.after (replay_stores ..) (.of (modPort_keeps ..) rfl))
  · exact .next (linkReset_stores ..)

theorem execPortDown_stores (p s) : NextStores .canonical s (execPortDown p s) := by
  fun_cases execPortDown p s
  case case4 => exact .idle
  all_goals exact .next (portDown_stores ..)

/-! ### Faults, tests and repairs (Machine/Faults.lean, Machine/Repair.lean) -/

theorem execCeRateHour_stores (u count s) : NextStores .canonical s (execCeRateHour u count s) := by
  fun_cases execCeRateHour u count s
  · exact .next (.either (countFault_stores (fun _ => .nothing) ..) .nothing)
  · exact .idle

theorem execFtSessionDone_stores (t tileOk badRows expOk s) :
    NextStores .canonical s (execFtSessionDone t tileOk badRows expOk s) := by
  fun_cases execFtSessionDone t tileOk badRows expOk s
  · exact .idle
  · exact .next (.after (settleUnit_stores ..) (.fold (fun _ _ => settleUnit_stores ..)
      (.either (.of ((unitPass_keeps ..).after (endSession_keeps ..)) rfl) (.after (fenceAny_stores ..)
      (.of ((pushErr_keeps ..).after (endSession_keeps ..)) rfl)))))

theorem execCoreTestDone_stores (u pass s) : NextStores .canonical s (execCoreTestDone u pass s) := by
  fun_cases execCoreTestDone u pass s
  · exact .next (endTest_stores ..)
  · exact .next (endTest_stores ..)
  · exact .idle

theorem execFenceListWrite_stores (s) : NextStores .canonical s (execFenceListWrite s) := by
  fun_cases execFenceListWrite s
  · exact .idle
  · exact .next (.setRasBoot .nothing rfl)

theorem execEdgeLinkTimeout_stores (d dir s parity) : NextStores .canonical s (execEdgeLinkTimeout d dir s parity) := by
  fun_cases execEdgeLinkTimeout d dir s parity
  · exact .idle
  · exact .next (countFault_stores (fun _ => .of (pushErr_keeps ..) rfl) ..)

theorem execCoreWatchdog_stores (xd core inSo s) : NextStores .canonical s (execCoreWatchdog xd core inSo s) := by
  fun_cases execCoreWatchdog xd core inSo s
  · exact .idle
  · exact .next (.after (fwFault_stores ..) (countFault_stores (fun _ => .of (pushErr_keeps ..) rfl) ..))

theorem execRepairAttemptResult_stores (block source host s) :
    NextStores .canonical s (execRepairAttemptResult block source host s) := by
  fun_cases execRepairAttemptResult block source host s
  · exact .idle
  · exact .next (repairedBy_stores ..)
  · exact .next (.of (.either ((askPeer_keeps ..).after (modRepair_keeps ..))
      ((askHost_keeps ..).after (modRepair_keeps ..))) rfl)
  · exact .next (.of (repairLost_keeps ..) rfl)

/-! ### Boot and activation (Machine/Boot.lean, Machine/Activate.lean) -/

theorem execBootRomStart_stores (fast s) : NextStores .canonical s (execBootRomStart fast s) := by
  have slow : Keeps _ s (if fast then s else pushErr s .bootSlow {}) := .either .nothing (pushErr_keeps ..)
  fun_cases execBootRomStart fast s
  · exact .idle
  · exact .next (.setBoot (.of (.setPwrSec slow) rfl) rfl)
  · exact .next (.after (toRecovery_stores ..) (.setBoot (.of (.setPwrSec slow) rfl) rfl))

theorem execImageVerified_stores (s) : NextStores .canonical s (execImageVerified s) := by
  have derived {b : Boot} (hb : b.staging = s.boot.staging) (i : List Byte) :
      Stores .canonical s (deriveAlias { s with boot := b } i) := .after (.of (deriveAlias_keeps ..) rfl) (.setBoot .nothing hb)
  fun_cases execImageVerified s
  · exact .idle
  · exact .next (slotFails_stores ..)
  · exact .next (slotFails_stores ..)
  · refine .next (.either (.after (.of (pushErr_keeps ..) rfl) (derived ?_ _)) (derived ?_ _)) <;> rfl

theorem execStacksTrained_stores (failed s) : NextStores .canonical s (execStacksTrained failed s) := by
  fun_cases execStacksTrained failed s
  case case2 =>
    refine .next (.setRasBoot (.after (.of ((pickMaster_keeps ..).after (trainPorts_keeps ..)) rfl)
      (.after (withdrawAll_stores ..)
      (.after (.of (dropLost_keeps ..) rfl) (.fold (fun _ _ => applyRec_stores ..) (.fold (fun _ _ => applyRec_stores ..)
        (.after (applyList_stores ..) (.after (.of (powerDies_keeps ..) rfl) (.after (applyEnv_stores ..)
          (.of (.setHifLnk .nothing) rfl))))))))) ?_)
    dsimp only
  all_goals exact .idle

theorem execFirmwareRun_stores (s) : NextStores .canonical s (execFirmwareRun s) :=
  .either .idle (.next (.either (.setBoot .nothing rfl) (.after (writeSel_stores ..) (.setBoot .nothing rfl))))

theorem execRunTimeout_stores (s) : NextStores .canonical s (execRunTimeout s) :=
  .either .idle (.next (.after (slotFails_stores ..) (.fold (fun _ _ => .of (powerDown_keeps ..) rfl)
    (.after (keepIsland_stores ..) (.setBoot .nothing rfl)))))

theorem execImageWriteDone_stores (readBack s) : NextStores .canonical s (execImageWriteDone readBack s) := by
  fun_cases execImageWriteDone readBack s
  · exact .idle
  · exact .next (.after (.of ((ledger_keeps ..).after (pushErr_keeps ..)) rfl) (.after (imgOut_stores ..)
      (.after (writeSel_stores ..) (.after (putImg_stores ..) (.setBoot .nothing rfl)))))
  · exact .next (.after (refuseReg_stores _ _ _ fun _ => imgOut_stores ..) (.after (slotTo_stores ..) (.setBoot .nothing rfl)))

theorem execCoreBankSwitch_stores (c s) : NextStores .canonical s (execCoreBankSwitch c s) := by
  fun_cases execCoreBankSwitch c s
  · exact .idle
  · exact .next (.after (switchAll_stores ..) (.setBoot .nothing rfl))
  · exact .next (.setBoot .nothing rfl)

theorem execActivationConfirm_stores (s) : NextStores .canonical s (execActivationConfirm s) := by
  fun_cases execActivationConfirm s
  case case2 => exact .next (.after (.of ((ledger_keeps ..).after (bumpMeas_keeps ..)) rfl) (.setBoot
      (.after (writeSel_stores ..) (actOut_stores ..)) rfl))
  all_goals exact .idle

theorem execReboot_stores (o s) : NextStores .canonical s (execReboot o s) := by
  have rebooted : Stores .canonical s (if s.side.mainOn then rebootNow s o else s) := .either (rebootNow_stores ..) .nothing
  fun_cases execReboot o s
  · exact .next rebooted
  · exact .next rebooted
  · exact .idle

/-! ### Security (Machine/Security.lean, Machine/Spdm.lean) -/

theorem execFuseBlowDone_stores (good blown s) : NextStores .canonical s (execFuseBlowDone good blown s) := by
  fun_cases execFuseBlowDone good blown s
  · exact .idle
  · exact .next (commitEnd_stores ..)
  · exact .next (revokeEnd_stores ..)

/-! ### Pace and time (Machine/Pace.lean, Machine/Timebase.lean) -/

theorem execPaceWindowEnd_stores (die turns s) : NextStores .canonical s (execPaceWindowEnd die turns s) := by
  have ended (ws : List (Nat × Stages)) (f : DiePwr → DiePwr) : Stores .canonical s (modDie (ws.foldl (fun s w =>
    unitWindowEnd s die.val w.1 w.2) s) die.val f) := .after (.of (modDie_keeps ..) rfl) (.fold (fun _ _ => unitWindowEnd_stores
    ..) .nothing)
  fun_cases execPaceWindowEnd die turns s
  · exact .idle
  · exact .next (.after (.of (modDie_keeps ..) rfl) (ended ..))
  · exact .next (.fold (fun _ _ => .of (paceLow_keeps ..) rfl) (.setPwr (.after (.of (modDie_keeps ..) rfl) (ended ..))))

/-! ### Power and heat (Machine/Power.lean, Machine/Throttle.lean) -/

theorem execThermalTrip_stores (die s) : NextStores .canonical s (execThermalTrip die s) :=
  .either .idle (.either (.next (powerLoss_stores ..)) (.next (.setBootPwrHif (.setRas
    (.fold (fun _ _ => .of (powerDown_keeps ..) rfl) (.after (keepIsland_stores ..)
    (.of ((errNow_keeps ..).after (modDie_keeps ..)) rfl)))) rfl)))

/-! ### Sleep (Machine/Wake.lean) -/

theorem execWakeComplete_stores (s) : NextStores .canonical s (execWakeComplete s) :=
  .either .idle (.next (.after (.of (refreshRoutes_keeps ..) rfl) (.after (forParts_stores fun _ _ => applyStaged_stores ..)
    (.fold (fun _ _ => applyParked_stores ..) (.of (.setPwr
    ((forParts_keeps_of fun _ _ => contextBack_keeps ..).after (.setLnk
    (.fold (fun _ _ => powerUp_keeps ..) .nothing)))) rfl)))))

theorem execPwrEnAssert_stores (s) : NextStores .canonical s (execPwrEnAssert s) :=
  .either .idle (.either (.next (.of (.setSide .nothing) rfl)) (.next (.setSide (powerLoss_stores ..))))

/-! ### The side band (Machine/Side.lean, Machine/Mgmt.lean) -/

theorem execMgmtWrite_stores (off value s) : NextStores .canonical s (execMgmtWrite off value s) := by
  have written (o w old new : Nat) : Keeps _ s (writeLedger s .mgmt o w old new) := writeLedger_keeps ..
  have asked (c : Prop) [Decidable c] : Keeps _ s (if c then sleepAsk s .mgmt else s) := .either (sleepAsk_keeps ..) .nothing
  refine .either .idle (.either .idle ?_)
  split
  · exact .next (.of (.either ((wakeAsk_keeps ..).after (asked ..)) (.either ((writeLedger_keeps ..).after (asked ..))
      (asked ..))) rfl)
  · exact .next (.after (liveField_stores ..) (.of (written ..) rfl))
  · exact .next (.either (.after (imgWrite_stores ..) (.of (written ..) rfl)) (.of (written ..) rfl))
  · exact .next (.either (fwAct_stores ..) (.of (written ..) rfl))
  · exact .next (.of (.either (commitGo_keeps ..) (written ..)) rfl)
  · exact .next (.of (.either (revokeGo_keeps ..) (written ..)) rfl)
  · exact .next (.of (.setLog .nothing) rfl)
  · exact .next (.after (liveField_stores ..) (.after (liveField_stores ..) (.of (written ..) rfl)))
  · exact .next (.of ((mgmtRefused_keeps ..).after (ledger_keeps ..)) rfl)

theorem execMgmtImageData_stores (off data s) : NextStores .canonical s (execMgmtImageData off data s) := by
  have written (b : Boot) (hb : b.staging = s.boot.staging.writeRun off data) : Stores .canonical s { s with boot := b } :=
    .wf fun ⟨hmem, hstaging⟩ => ⟨hmem, hb ▸ Memory.wf_writeRun _ _ _ hstaging⟩
  exact .either .idle (.either (.next (.of (mgmtRefused_keeps ..) rfl)) (.next (written _ rfl)))

end Sys2Proof.Machine
end

section
/-! PROOFS. Module memory and the staging area stay in canonical form through every command (O54). -/

namespace Sys2Proof.Machine

/-- A command that may change neither memory nor the boot block leaves both byte stores alone. -/
theorem exec_stores_elsewhere (c : Instr) (s : State)
    (hk : (mayChange c).all Block.holdsNoStore = true) : NextStores .canonical s (exec c s) :=
  .of (exec_keeps c s) hk

/-- Every command keeps the byte stores canonical. The arms stand by the shape of the meaning, the commands that touch neither
memory nor the boot block last. -/
theorem exec_stores (c : Instr) (s : State) : NextStores .canonical s (exec c s) :=
  match c with
  | .tbuild .. | .tlook .. | .drain .. | .attnQk .. | .attnSoftInit .. | .attnSoftBlock .. | .attnSoftExport ..
  | .attnPv .. | .vecOp .. | .vecXred .. | .vecRed .. | .vecMerge .. | .vecNorm .. | .vecRope .. | .vecQuant .. | .vecTopk ..
  | .vecSample .. | .rngDraw .. | .bandSelect .. | .bandApply .. | .bandAudit .. | .moveLoad .. | .moveStore ..
  | .movePut .. | .moveGet .. | .moveSend .. => .next (issue_stores ..)
  | .syncWait .. | .syncBar .. | .syncEnd .. => .next (syncIssue_stores ..)
  | .sendPacketReceive .. | .relayPacketReceive .. | .handoffPacketReceive .. | .pagePacketReceive ..
  | .weightPacketReceive .. | .expertPacketReceive .. => .next (packetIn_stores ..)
  | .registerWrite .. => .next (regWrite_stores ..)
  | .contextDelete .. => .next (withCmd_stores fun _ _ => .after (.of ((endCmd_keeps ..).after
      ((nctxLedger_keeps ..).after (modPart_keeps ..))) rfl) (.after (dropCtx_stores ..) (.of (startCmd_keeps ..) rfl)))
  | .laneErrorWindow .. => .next (.either (dropLane_stores ..) .nothing)
  | .laneDrop .. => .next (dropLane_stores ..)
  | .linkLayerReset .. => .next (linkReset_stores ..)
  | .stopTimeout .. => .next (.either (linkReset_stores ..) .nothing)
  | .channelTestDone .. => .next (.after (endTest_stores ..) (heard_stores ..))
  | .unitFence .. => .next (.either (fenceAny_stores ..) .nothing)
  | .supplyShutoff => .next (.setSide (powerLoss_stores ..))
  | .pwrEnDeassert => .next (.setSide (.either (powerLoss_stores ..) .nothing))
  | .pbPrefetchTimeout .. => .either (.next (.after (.of (waitOut_keeps ..) rfl) (pbFail_stores ..))) .idle
  | .flitReceive .. => .either (.next (flitIn_stores ..)) .idle
  | .suspectTimeout .. => .either (.next (.after (fenceAny_stores ..) (.of (pushErr_keeps ..) rfl))) .idle
  | .imgWriteGo .. => .either .idle (.next (.after (imgWrite_stores ..) (.of (regLedger_keeps ..) rfl)))
  | .fwActGo .. => .either .idle (.next (fwAct_stores ..))
  | .fwLoadDone => .either (.next (.setBoot .nothing rfl)) .idle
  | .paceWindowEnd .. => execPaceWindowEnd_stores ..
  | .patrolScrubStep .. => execPatrolScrubStep_stores ..
  | .ftSessionDone .. => execFtSessionDone_stores ..
  | .tbuildComplete .. => execTbuildComplete_stores ..
  | .tlookRowEntry .. => execTlookRowEntry_stores ..
  | .tlookRetire .. => execTlookRetire_stores ..
  | .drainRetire .. => execDrainRetire_stores ..
  | .keyJoin .. => execKeyJoin_stores ..
  | .attnQkRetire .. => execAttnQkRetire_stores ..
  | .attnPvRetire .. => execAttnPvRetire_stores ..
  | .aeFeedTimeout .. => execAeFeedTimeout_stores ..
  | .vecRetire .. => execVecRetire_stores ..
  | .moveRetire .. => execMoveRetire_stores ..
  | .cacheFillArrive .. => execCacheFillArrive_stores ..
  | .winCloseRetire .. => execWinCloseRetire_stores ..
  | .putArrive .. => execPutArrive_stores ..
  | .getArrive .. => execGetArrive_stores ..
  | .dieSendArrive .. => execDieSendArrive_stores ..
  | .syncTimeout .. => execSyncTimeout_stores ..
  | .switchStopNotice .. => execSwitchStopNotice_stores ..
  | .expListTimeout .. => execExpListTimeout_stores ..
  | .tlookFeedTimeout .. => execTlookFeedTimeout_stores ..
  | .memoryAccess .. => execMemoryAccess_stores ..
  | .migrationBucketDone .. => execMigrationBucketDone_stores ..
  | .bar4Access .. => execBar4Access_stores ..
  | .nakReceive .. => execNakReceive_stores ..
  | .portDown .. => execPortDown_stores ..
  | .ceRateHour .. => execCeRateHour_stores ..
  | .coreTestDone .. => execCoreTestDone_stores ..
  | .edgeLinkTimeout .. => execEdgeLinkTimeout_stores ..
  | .attnSoftRetire .. => execAttnSoftRetire_stores ..
  | .rngDrawRetire .. => execRngDrawRetire_stores ..
  | .bandGroupVerdict .. => execBandGroupVerdict_stores ..
  | .blockDecode .. => execBlockDecode_stores ..
  | .blockForward .. => execBlockForward_stores ..
  | .strictLayerVerdict .. => execStrictLayerVerdict_stores ..
  | .stepAbandonComplete .. => execStepAbandonComplete_stores ..
  | .stepBoundary .. => execStepBoundary_stores ..
  | .pbPrefetchDone .. => execPbPrefetchDone_stores ..
  | .coreWatchdog .. => execCoreWatchdog_stores ..
  | .stepCompose .. => execStepCompose_stores ..
  | .switchRestoreDone .. => execSwitchRestoreDone_stores ..
  | .slotRelease .. => execSlotRelease_stores ..
  | .restorePage .. => execRestorePage_stores ..
  | .sealComplete .. => execSealComplete_stores ..
  | .migrationEnd .. => execMigrationEnd_stores ..
  | .loadBundle .. => execLoadBundle_stores ..
  | .loadProgram .. => execLoadProgram_stores ..
  | .unloadBundle .. => execUnloadBundle_stores ..
  | .unloadProgram .. => execUnloadProgram_stores ..
  | .loadAdapter .. => execLoadAdapter_stores ..
  | .adapterCommit .. => execAdapterCommit_stores ..
  | .deleteAdapter .. => execDeleteAdapter_stores ..
  | .bundleCommit .. => execBundleCommit_stores ..
  | .dmaReadComplete .. => execDmaReadComplete_stores ..
  | .repairAttemptResult .. => execRepairAttemptResult_stores ..
  | .config .. => execConfig_stores ..
  | .thermalTrip .. => execThermalTrip_stores ..
  | .pwrEnAssert => execPwrEnAssert_stores ..
  | .fenceListWrite => execFenceListWrite_stores ..
  | .bootRomStart .. => execBootRomStart_stores ..
  | .imageVerified => execImageVerified_stores ..
  | .stacksTrained .. => execStacksTrained_stores ..
  | .firmwareRun => execFirmwareRun_stores ..
  | .runTimeout => execRunTimeout_stores ..
  | .imageWriteDone .. => execImageWriteDone_stores ..
  | .mgmtImageData .. => execMgmtImageData_stores ..
  | .coreBankSwitch .. => execCoreBankSwitch_stores ..
  | .activationConfirm => execActivationConfirm_stores ..
  | .reboot .. => execReboot_stores ..
  | .fuseBlowDone .. => execFuseBlowDone_stores ..
  | .wakeComplete => execWakeComplete_stores ..
  | .mgmtWrite .. => execMgmtWrite_stores ..
  | .paceLowClear .. | .voltageSettled .. | .timeWord | .tmbNowLowRead .. | .wideRegisterLowRead .. | .vecRedTimeout ..
  | .bandVerdictTimeout .. | .arrivalTimeout .. | .quiesceTimeout .. | .winOpen .. | .winClose .. | .stageLoad ..
  | .stageLoop .. | .issueLimit .. | .barrierRelease .. | .abandonNotice .. | .endNotice .. | .sliceExpiry ..
  | .contextSwitch .. | .switchQuiesceDone .. | .handoffRetryTimer .. | .swapRecordWritten .. | .readmit .. | .readmission ..
  | .outputBatchWrite .. | .submit .. | .speculate .. | .cancel .. | .cancelAll .. | .ringAttach .. | .ringAttachKeep ..
  | .handoffAckReceive .. | .lengthByteArrive .. | .bandListArrive .. | .loadCode .. | .switchSaveDone .. | .linkTrained ..
  | .tlpError .. | .errorRecordWrite .. | .ftOverdue .. | .hostLinkReset .. | .vfFlr .. | .pf0Flr | .vfEnableClear
  | .busMasterEnableChange .. | .doorbellWrite .. | .pauseEnd .. | .ringFetch .. | .ringDetach .. | .ringPause ..
  | .ringResume .. | .contextCreate .. | .swapArea .. | .swapAreaUnregister .. | .readJournal .. | .readLedger ..
  | .readDlq .. | .readStepRecords .. | .readErrors .. | .dlqAck .. | .msixModerationTimer .. | .vfEnableSet ..
  | .mbxDbWrite .. | .relayAccess .. | .relayTimeout .. | .journalWrite .. | .ledgerSelWrite .. | .identReceive ..
  | .fenceReceive .. | .resendTimer .. | .routeReceive .. | .lnkRetrainWrite .. | .sleepPacketTimeout .. | .ackReceive ..
  | .ackTimer .. | .timeExchange | .retrainAttempt .. | .masterTimeout | .quenchReceive .. | .timeReceive ..
  | .wakeMessage .. | .powerGrantTick .. | .thermalVlimitTick .. | .sensorFail .. | .supplyRestored .. | .wakeRequest ..
  | .scrubWake | .countAgeOut .. | .ftRotation | .testGapOpen .. | .rebalanceDone .. | .rasUnfenceGo .. | .modidSample ..
  | .secCommitGo .. | .secRevokeGo .. | .negotiateAlgorithms .. | .spdmUnsupported .. | .rngHealthFail | .jtagInstruction ..
  | .mctpPacket .. | .getVersion .. | .getCapabilities .. | .getDigests .. | .getCertificate .. | .challenge ..
  | .getMeasurements .. | .doeAbort .. | .rngHealthPass | .throttleAssert | .throttleDeassert | .throttleHoldEnd
  | .throttleStuckTimer | .sideInputGlitch .. | .perstStuckTimeout | .modidPinChange .. | .supplyOutOfRange ..
  | .sleepRequest .. | .sleepEntered | .gsyncEdge .. | .gsyncMissing | .i3cDaa .. | .mgmtBadByte .. | .perstDeassert
  | .standbyPowerUp | .mgmtRead .. =>
    exec_stores_elsewhere _ _ rfl

/-- Settles O54: a step is the command at the front of the queue (`exec_stores`), or nothing where the queue is empty. -/
theorem memoryStaysCanonical : Obligations.MemoryStaysCanonical := by
  intro s t hsafe hstep
  cases hp : s.pending with
  | nil =>
    rw [step_of_pending_nil hp] at hstep
    cases hstep
    exact hsafe
  | cons c r =>
    rw [step_of_pending_cons hp] at hstep
    exact ((exec_stores c { s with pending := r }).stores t hstep).safe hsafe

end Sys2Proof.Machine
end

section
/-! PROOFS. What a write to module memory leaves to be read (R247, R252, O57): the address map stands, the bytes outside the
length tables read back, and the others outside them stand. -/

namespace Sys2Proof.Machine

variable {s t u : State} {a i : Nat}

/-! ### The address map -/

/-- Two states map addresses to regions alike: the regions and the withdrawn copies are the same. -/
structure SameMap (s u : State) : Prop where
  regions : u.mem.regions = s.mem.regions
  gone : u.mem.gone = s.mem.gone

theorem SameMap.same (s) : SameMap s s := ⟨rfl, rfl⟩

/-- One more operation. -/
theorem SameMap.after (h : SameMap t u) (g : SameMap s t) : SameMap s u :=
  ⟨h.regions.trans g.regions, h.gone.trans g.gone⟩

theorem SameMap.fold {α : Type} {f : State → α → State} (h : ∀ t x, SameMap t (f t x)) (xs : List α) (s) :
    SameMap s (xs.foldl f s) :=
  List.foldlRecOn xs f (motive := SameMap s) (.same s) fun t ht x _ => (h t x).after ht

theorem SameMap.regionOf (h : SameMap s u) (n : Nat) : regionOf u n = Machine.regionOf s n := by
  unfold Machine.regionOf
  rw [h.regions]

theorem SameMap.regionAt (h : SameMap s u) (a : Nat) : regionAt u a = Machine.regionAt s a := by
  have hgone : isGone u (blockOf a) = isGone s (blockOf a) := by
    unfold isGone
    rw [h.gone]
  unfold Machine.regionAt
  rw [hgone, h.regions, funext h.regionOf]

/-- An address outside the length tables, whose byte is one of memory's own (R277). -/
def OutsideLens (s : State) (b : Nat) : Prop := ∀ n, regionAt s b = some n → inLenTable (regionOf s n) b = false

theorem SameMap.outsideLens (h : SameMap s u) : OutsideLens u a ↔ OutsideLens s a := by
  simp only [OutsideLens, h.regionAt, h.regionOf]

theorem memByte_outsideLens (h : OutsideLens s a) : memByte s a = s.mem.bytes.read a := by
  unfold memByte
  split
  · rename_i n hn
    simp [h n hn]
  · rfl

/-! ### A write keeps the address map -/

theorem drainSurplus_sameMap (s) : SameMap s (drainSurplus s) := by
  refine .fold (fun t b => ?_) ..
  dsimp only
  split
  all_goals
    split
    · exact ⟨rfl, rfl⟩
    · exact .same t

theorem clearPoison_sameMap (s bs) : SameMap s (clearPoison s bs) := by
  unfold clearPoison
  split
  · exact .same s
  · exact .after (drainSurplus_sameMap _) ⟨rfl, rfl⟩

theorem freshLines_sameMap (s ls) : SameMap s (freshLines s ls) := by
  unfold freshLines
  exact .after (clearPoison_sameMap ..) ⟨rfl, rfl⟩

theorem memPut_sameMap (s a b) : SameMap s (memPut s a b) := by
  fun_cases memPut s a b <;> exact ⟨rfl, rfl⟩

theorem memPutRun_sameMap (s a bs) : SameMap s (memPutRun s a bs) := by
  induction bs generalizing s a with
  | nil => exact .same s
  | cons b r ih => exact .after (ih ..) (memPut_sameMap s a b)

theorem memWrite_sameMap (s a bs) : SameMap s (memWrite s a bs) := by
  unfold memWrite
  refine .after (freshLines_sameMap ..) (.after (.fold (fun t b => ?_) ..) (memPutRun_sameMap s a bs))
  split
  · split
    · exact .same t
    · exact ⟨rfl, rfl⟩
  · exact .same t

/-! ### The bytes a write stores -/

theorem memPut_bytes (h : OutsideLens s a) (b : Byte) : (memPut s a b).mem.bytes = s.mem.bytes.write a b := by
  fun_cases memPut s a b
  case case1 n hn hlen => exact absurd hlen (by simp [h n hn])
  all_goals rfl

theorem memPut_read_other (h : i ≠ a) (b : Byte) : (memPut s a b).mem.bytes.read i = s.mem.bytes.read i := by
  fun_cases memPut s a b
  case case1 => rfl
  all_goals exact Memory.read_write_other _ _ _ _ h

theorem memPutRun_read_other {bs : List Byte} (h : i < a ∨ a + bs.length ≤ i) :
    (memPutRun s a bs).mem.bytes.read i = s.mem.bytes.read i := by
  induction bs generalizing s a with
  | nil => rfl
  | cons b r ih =>
    rw [List.length_cons] at h
    exact (ih (by omega)).trans (memPut_read_other (by omega) b)

theorem memPutRun_read_same {bs : List Byte} {k : Nat} (hk : k < bs.length) (h : OutsideLens s (a + k)) :
    (memPutRun s a bs).mem.bytes.read (a + k) = bs[k] := by
  induction bs generalizing s a k with
  | nil => exact absurd hk (Nat.not_lt_zero k)
  | cons b r ih =>
    rw [memPutRun]
    cases k with
    | zero =>
      rw [memPutRun_read_other (by omega)]
      exact (congrArg (Memory.read · a) (memPut_bytes h b)).trans (Memory.read_write_same ..)
    | succ k =>
      have hplace : a + (k + 1) = a + 1 + k := by omega
      rw [hplace] at h ⊢
      exact ih (Nat.lt_of_succ_lt_succ hk) ((memPut_sameMap s a b).outsideLens.mpr h)

theorem memWrite_bytes (s a bs) : (memWrite s a bs).mem.bytes = (memPutRun s a bs).mem.bytes := by
  unfold memWrite
  dsimp only
  rw [freshLines_bytes]
  refine foldl_bytes _ (fun t b => ?_) _ _
  split
  · split <;> rfl
  · rfl

/-- Settles O57: the write keeps the address map, so that outside the length tables a read gives the stored byte before and
after it (`memByte_outsideLens`), and the stored bytes are those of `memPutRun`. -/
theorem memoryReadsBack : Obligations.MemoryReadsBack := by
  intro s a bs plain
  have read {b : Nat} (hb : plain b) :
      memByte (memWrite s a bs) b = (memPutRun s a bs).mem.bytes.read b := by
    rw [memByte_outsideLens ((memWrite_sameMap s a bs).outsideLens.mpr hb), memWrite_bytes]
  refine ⟨fun hplain => ?_, fun b hb hout => ?_⟩
  · refine List.ext_getElem (by simp [memRead]) fun i _ hi => ?_
    simp only [memRead, List.getElem_map, List.getElem_range]
    rw [read (hplain i hi), memPutRun_read_same hi (hplain i hi)]
  · rw [read hb, memPutRun_read_other hout, memByte_outsideLens hb]

end Sys2Proof.Machine
end

section
/-! PROOFS. Accesses to module memory, the patrol scrub and migrations (R247 to R266, O23). -/

namespace Sys2Proof.Machine

variable {s : State}

/-! ### Accesses (R247, R249, R252) -/

theorem exec_memoryAccess_write {who : Requester} {line n : Nat} (hat : regionAt s (line * 64) = some n)
    (hmay : requesterMay s who (regionOf s n) true = true) (bs : List Byte) (err : LineErr) :
    exec (.memoryAccess ⟨who, line, some bs, err⟩) s =
      .next (fwReturns (memWrite s (line * 64) (lineData s (line * 64) bs)) who .ok) := by
  simp [exec, execMemoryAccess, hat, hmay]

theorem exec_memoryAccess_read {who : Requester} {line n : Nat} (hat : regionAt s (line * 64) = some n)
    (hmay : requesterMay s who (regionOf s n) false = true) (err : LineErr) :
    let v := lineRead s (line * 64) err (requesterReader who)
    exec (.memoryAccess ⟨who, line, none, err⟩) s =
      if v.2 = 2 then .next (fwReturns (requesterTaint v.1 who (blockOf (line * 64))) who .poisoned)
      else if v.2 = 1 then .next (fwReturns (aCrcTo v.1 who n (line * 64)) who .ok)
      else .next (fwReturns v.1 who .ok) := by
  simp [exec, execMemoryAccess, hat, hmay]

/-! ### The patrol scrub (R261, R262) -/

theorem exec_patrolScrubStep_of_next {ch : Fin 512} {l : Nat} (hok : chanOk s ch = true) (hnext : nextScrub s ch = some l)
    (err : LineErr) :
    let v := (lineRead s (l * 64) err ⟨4, 0⟩).1
    exec (.patrolScrubStep ch l err) s =
      .next (endPass (markPass { v with mem := { v.mem with cursor := tabSet v.mem.cursor ch (l + 1) 0 } } ch)) := by
  have hline : (some l).filter (· == l) = some l := by simp
  simp only [exec, execPatrolScrubStep, hok, if_true, hnext, hline]

/-! ### Migrations (R266) -/

/-- An update that no test of its own sees is found where the thing was. -/
theorem find?_listUpd {α : Type} {p : α → Bool} {f : α → α} (h : ∀ x, p (f x) = p x) (l : List α) :
    (listUpd p f l).find? p = (l.find? p).map f := by
  induction l with
  | nil => rfl
  | cons x r ih =>
    rw [listUpd, List.map_cons, ← listUpd]
    by_cases hx : p x = true
    · simp [hx, h]
    · simp [hx, ih]

theorem migOf_of_migs {u : State} (h : u.mem.migs = s.mem.migs) (c : Nat) : migOf u c = migOf s c := by
  unfold migOf
  rw [h]

theorem migOf_modMig {f : Migration → Migration} (h : ∀ m, (f m).src = m.src ∧ (f m).running = m.running) (c : Nat) :
    migOf (modMig s c f) c = (migOf s c).map f :=
  find?_listUpd (fun m => by rw [(h m).1, (h m).2]) _

/-- A bucket's copy that met no bad line. -/
theorem exec_migrationBucketDone_clean {ch : Fin 512} {spread : Bool} {bucket : Nat} {m : Migration} {v : BucketMove}
    (hmig : migOf s ch = some m)
    (hmove : m.moves.find? (fun w => w.spread == spread && w.bucket == bucket && w.st == .copying) = some v) :
    ∃ u, exec (.migrationBucketDone ch spread bucket []) s = .next u ∧ migOf u ch = some { m with
      moves := nextBucket (m.moves.map fun b => if b = v then { b with st := .new } else b)
      copied := m.copied + ((bucketShares s (ch.val / 32) spread).map Prod.snd).sum } := by
  simp only [exec, execMigrationBucketDone, hmig, hmove]
  refine ⟨_, rfl, (migOf_of_migs (s := modMig s ch.val _) rfl ch.val).trans ?_⟩
  rw [migOf_modMig, hmig]
  · simp [freshPoison]
  · exact fun _ => ⟨rfl, rfl⟩

/-- The migrations left once those that run from a channel have ended are fewer. -/
theorem length_migs_without {c : Nat} {m : Migration} (hmig : migOf s c = some m) :
    (s.mem.migs.filter fun x => !(x.src == c && x.running)).length < s.mem.migs.length := by
  rw [List.length_filter_lt_length_iff_exists]
  exact ⟨m, List.mem_of_find?_eq_some hmig, by simpa using List.find?_some hmig⟩

/-- A migration whose buckets are all moved ends with its record, the others left. -/
theorem exec_migrationEnd_of_moved {ch : Fin 512} {m : Migration} (hmig : migOf s ch = some m)
    (hmoved : ∀ v ∈ m.moves, v.st = .new) :
    ∃ migs, migs.length < s.mem.migs.length ∧
      let t := pushErr { s with mem := { s.mem with migs := migs } } .memMigrate
        { unit := chanUnit ch, detail := [m.copied / 4096, m.poisoned] }
      exec (.migrationEnd ch) s = .next (if migs.isEmpty then readmitChan t ch else t) := by
  have hdone : ¬ (m.moves.any fun v => v.st != .new) = true := by simpa using hmoved
  simp only [exec, execMigrationEnd, hmig, if_neg hdone]
  exact ⟨_, by rw [List.length_map]; exact length_migs_without hmig, rfl⟩

theorem migrationEnd_recorded {ch : Fin 512} {m : Migration} (hmig : migOf s ch = some m)
    (hmoved : ∀ v ∈ m.moves, v.st = .new) (ho : QueueOpen s) :
    Gives (.migrationEnd ch) s fun u =>
      Recorded s u .memMigrate [m.copied / 4096, m.poisoned] ∧ u.mem.migs.length < s.mem.migs.length := by
  obtain ⟨migs, hfewer, hexec⟩ := exec_migrationEnd_of_moved hmig hmoved
  refine ⟨_, hexec, ?_⟩
  have hrec := pushErr_recorded (s := { s with mem := { s.mem with migs := migs } }) ho .memMigrate
    { unit := chanUnit ch, detail := [m.copied / 4096, m.poisoned] }
  have hmem := pushErr_mem { s with mem := { s.mem with migs := migs } } .memMigrate
    { unit := chanUnit ch, detail := [m.copied / 4096, m.poisoned] }
  split
  · obtain ⟨⟨-, -, -, hkept, -, -, -, -, -, hlog, -⟩, -⟩ := readmitChan_keeps (pushErr _ .memMigrate _) ch.val
    exact ⟨recorded_of_log_eq hrec (hlog (by decide)), by rwa [hkept (by decide), hmem]⟩
  · exact ⟨hrec, by rwa [hmem]⟩

/-- Settles O23: what each command does follows from its checks, one lemma for each above; a clean read keeps the bytes because
reading a line does (`lineRead_stores`). That buckets move one at a time and the next begins at once is
notes/assumptions/51.md. -/
theorem memoryCommands : Obligations.MemoryCommands := by
  intro s
  refine ⟨fun who line bs err n hat hmay => ⟨_, exec_memoryAccess_write hat hmay bs err, rfl⟩,
    fun who line err n hat hmay => ?_,
    fun ch l err hok hnext => ⟨_, exec_patrolScrubStep_of_next hok hnext err, rfl⟩,
    fun ch spread bucket m v hmig hmove => ?_, fun ch m => migrationEnd_recorded⟩
  · have hread := exec_memoryAccess_read hat hmay err
    refine ⟨fun hclean => ⟨_, hread.trans (by simp [hclean]), rfl, ?_⟩,
      fun hcrc => ⟨_, hread.trans (by simp [hcrc]), rfl⟩, fun hpoison => ⟨_, hread.trans (by simp [hpoison]), rfl⟩⟩
    exact (Stores.after (fwReturns_stores ..) (lineRead_stores ..)).bytes
  · obtain ⟨u, hu, hmigs⟩ := exec_migrationBucketDone_clean hmig hmove
    exact ⟨u, hu, _, hmigs, rfl, rfl, rfl⟩

end Sys2Proof.Machine
end

section
/-! PROOFS. BAR4 accesses and malformed requests (R252, R254, R390, R402, O29). -/

namespace Sys2Proof.Machine

variable {s u : State}

/-! ### BAR4 (R390, Table 16-5) -/

/-- A write that PF0 may make. -/
theorem exec_bar4Access_write {off len : Nat} {bs : List Byte} (hrun : s.boot.st = .run) (hawake : s.pwr.sleep = .awake)
    (hfits : off + bs.length ≤ (fnOf s 0).bar4Size * gib)
    (hmay : bar4Refuses s true (linesOf (s.hif.bar4Base * gib + off) bs.length) = none) (errs : List LineErr) :
    exec (.bar4Access off len (some bs) false errs) s = .next (bar4Write s off (s.hif.bar4Base * gib + off) bs errs) := by
  simp [exec, execBar4Access, hrun, hawake, hfits, hmay]

/-- A read that PF0 may make, of lines that stand. -/
theorem exec_bar4Access_read {off len : Nat} {errs : List LineErr} (hrun : s.boot.st = .run) (hawake : s.pwr.sleep = .awake)
    (hfits : off + len ≤ (fnOf s 0).bar4Size * gib)
    (hmay : bar4Refuses s false (linesOf (s.hif.bar4Base * gib + off) len) = none)
    (hgood : (linesRead s ⟨3, 0⟩ (linesOf (s.hif.bar4Base * gib + off) len) errs).2.1 = 0) :
    let v := linesRead s ⟨3, 0⟩ (linesOf (s.hif.bar4Base * gib + off) len) errs
    exec (.bar4Access off len none false errs) s =
      .next (emit v.1 (.reply .pf0 off (.bytes (memRead v.1 (s.hif.bar4Base * gib + off) len)))) := by
  simp [exec, execBar4Access, hrun, hawake, hfits, hmay, hgood]

/-- What a write leaves, by what its partly covered lines showed. -/
theorem bar4Write_eq (s : State) (off a : Nat) (bs : List Byte) (errs : List LineErr) :
    let v := linesRead s ⟨3, 0⟩ ((linesOf a bs.length).filter fun l => !(wholeLines a bs.length).contains l) errs
    bar4Write s off a bs errs = if v.2.1 = 0 then emit (memWrite v.1 a bs) (.reply .pf0 off .written)
      else emit (bar4Bad s v.1 v.2.1 v.2.2) (.reply .pf0 off .discarded) := rfl

/-! ### Violations (R402, R403) -/

/-- Violations counted against a function. -/
def violOf (f : Nat) (s : State) : Nat := (fnOf s f).viol

/-- What leaves everything outside a tile alone leaves the counts of violations. -/
theorem violOf_of_outside {n : Nat} (h : outside n u = outside n s) (f : Nat) : violOf f u = violOf f s :=
  congrArg (fun v => (v.2.2.2.2.1 f).viol) h

theorem violOf_modFn_same (f : Nat) (s : State) (g : Fn → Fn) : violOf f (modFn s f g) = (g (fnOf s f)).viol :=
  congrArg Fn.viol (fnOf_modFn_same ..)

theorem violOf_pushErr (f : Nat) (s : State) (c : RecCode) (a : ErrArgs) : violOf f (pushErr s c a) = violOf f s :=
  violOf_of_outside (n := 0) (outside_pushErr ..) f

theorem violOf_ringTo (f : Nat) (s : State) (p r : Nat) (st : RingSt) : violOf f (ringTo s p r st) = violOf f s := by
  unfold ringTo
  rw [violOf_of_outside (n := 0) (outside_fire ..)]
  unfold setRingSt violOf
  dsimp only
  split
  · rfl
  · rw [fnOf_ledger]
    rfl

/-- The pause that the violations bring counts none of them (R403). -/
theorem violOf_pauseFn (f : Nat) (s : State) : violOf f (pauseFn s f) = violOf f s := by
  unfold pauseFn
  rw [violOf_pushErr]
  rw [violOf_modFn_same]
  refine foldl_same (violOf f) (fun t r => ?_) _ s
  split
  · exact violOf_ringTo ..
  · rfl

/-- A violation is counted once, whatever its record, and whether or not it brings a pause. -/
theorem violOf_violate {f : Nat} {rec : State → State} (hrec : ∀ t, violOf f (rec t) = violOf f t) (s : State) :
    violOf f (violate s f rec) = satAdd 32 (violOf f s) 1 := by
  have counted (g : Fn → Fn) (hg : ∀ x, (g x).viol = satAdd 32 x.viol 1) :
      violOf f (modFn (rec s) f g) = satAdd 32 (violOf f s) 1 := by
    rw [violOf_modFn_same, hg]
    exact congrArg (satAdd 32 · 1) (hrec s)
  fun_cases violate s f rec
  · exact violOf_modFn_same ..
  · exact (violOf_pauseFn ..).trans (counted _ fun _ => rfl)
  · exact counted _ fun _ => rfl

theorem exec_tlpError {fn : Fin 9} (hon : s.side.mainOn = true) :
    exec (.tlpError fn false) s = .next (violate s fn fun s => pushErr s .hifTlp { detail := [fn.val, 0] }) := by
  simp [exec, execTlpError, hon]

/-- Settles O29: an access that passes its checks is performed (`exec_bar4Access_write`, `exec_bar4Access_read`), and reading
lines changes no byte (`linesRead_stores`); every violation is counted (`violOf_violate`). That whole lines are written also
where their block is poisoned is R259 and notes/assumptions/35.md. -/
theorem bar4AndTlp : Obligations.Bar4AndTlp := by
  intro s
  refine ⟨fun off len bs errs hrun hawake hfits => ?_, fun off len errs hrun hawake hfits => ?_, fun fn hon _ => ?_⟩
  · intro a v hmay
    have hwrite := exec_bar4Access_write (len := len) hrun hawake hfits hmay errs
    rw [bar4Write_eq] at hwrite
    refine ⟨fun hgood => ⟨_, hwrite, if_pos hgood⟩, fun hbad => ⟨_, hwrite, if_neg hbad, ?_⟩⟩
    rw [if_neg hbad]
    exact (Stores.after (.of (emit_keeps ..) rfl) (.after (bar4Bad_stores ..) (linesRead_stores ..))).bytes
  · intro a v hmay hgood
    exact ⟨_, exec_bar4Access_read hrun hawake hfits hmay hgood, rfl,
      (Stores.after (.of (emit_keeps ..) rfl) (linesRead_stores ..)).bytes⟩
  · exact ⟨_, exec_tlpError hon, violOf_violate (fun t => violOf_pushErr ..) s⟩

end Sys2Proof.Machine
end

section
/-! PROOFS. What an operation does to the fuses, the revoked keys and the anti-rollback counters (R496, R497): most leave them
alone, a GO starts a burn that its counter's value allows, and a burn's end only adds. -/

namespace Sys2Proof.Machine

/-- The part of the security engine that R496 and R497 keep: the revoked keys, the counters, and the burn in progress. -/
def Sec.fused (c : Sec) : Nat × Tab Nat × Option FuseOp := (c.revoked, c.ctrs, c.fuse)

/-- A burn in progress raises its counter. -/
def Rising (s : State) : Prop := ∀ c v, s.sec.fuse = some (.commit c v) → ctrOf s c < v

/-- From a state whose burn in progress raises its counter: revoked keys stay revoked, no counter falls, and what burns then
raises its counter too. -/
structure OnlyBurns (s u : State) : Prop where
  keys : Rising s → ∀ k, s.sec.revoked.testBit k = true → u.sec.revoked.testBit k = true
  counters : Rising s → ∀ c, ctrOf s c ≤ ctrOf u c
  rising : Rising s → Rising u

variable {k : List Block} {s t u v : State}

theorem OnlyBurns.same (h : u.sec.fused = s.sec.fused) : OnlyBurns s u := by
  obtain ⟨hr, hc, hf⟩ : u.sec.revoked = s.sec.revoked ∧ u.sec.ctrs = s.sec.ctrs ∧ u.sec.fuse = s.sec.fuse := by
    simpa [Sec.fused] using h
  refine ⟨fun _ k hk => by rwa [hr], fun _ c => by simp [ctrOf, hc], fun hs c v hv => ?_⟩
  rw [hf] at hv
  simpa [ctrOf, hc] using hs c v hv

theorem OnlyBurns.nothing : OnlyBurns s s := .same rfl

/-- One more operation. -/
theorem OnlyBurns.after (h : OnlyBurns t u) (g : OnlyBurns s t) : OnlyBurns s u where
  keys hs k hk := h.keys (g.rising hs) k (g.keys hs k hk)
  counters hs c := (g.counters hs c).trans (h.counters (g.rising hs) c)
  rising hs := h.rising (g.rising hs)

/-- An operation that does not touch the security engine. -/
theorem OnlyBurns.of (h : Keeps k s u) (hk : k.contains Block.sec = false) : OnlyBurns s u := by
  obtain ⟨⟨-, -, -, -, -, -, -, -, -, -, -, -, -, hsec, -⟩, -⟩ := h
  exact .same (by rw [hsec (by simpa using hk)])

theorem OnlyBurns.either {c : Prop} {d : Decidable c} (h : OnlyBurns s u) (g : OnlyBurns s v) :
    OnlyBurns s (if c then u else v) := by
  split
  · exact h
  · exact g

theorem OnlyBurns.fold {α : Type} {f : State → α → State} {xs : List α} (h : ∀ t x, OnlyBurns t (f t x))
    (g : OnlyBurns s t) : OnlyBurns s (xs.foldl f t) :=
  List.foldlRecOn xs f (motive := fun b => OnlyBurns s b) g fun b hb x _ => (h b x).after hb

/-- What an operation that carries a value beside the state answers. -/
theorem OnlyBurns.ofFst {β : Type} {r : State × β} {w : β} (h : r = (u, w)) (g : OnlyBurns s r.1) : OnlyBurns s u := by
  rwa [h] at g

/-- A register of the security engine that is neither a key, a counter nor a burn. -/
theorem OnlyBurns.setSec (g : OnlyBurns s t) {c : Sec} (hc : c.fused = t.sec.fused) : OnlyBurns s { t with sec := c } :=
  .after (t := t) (.same hc) g

/-! ### Operations that take an operation -/

theorem violate_burns {f : State → State} (s n) (h : ∀ t, OnlyBurns t (f t)) : OnlyBurns s (violate s n f) := by
  have counted : OnlyBurns s (f s) := h s
  unfold violate
  exact .either (.of (modFn_keeps ..) rfl) (.either (.after (.of ((pauseFn_keeps ..).after (modFn_keeps ..)) rfl) counted)
    (.after (.of (modFn_keeps ..) rfl) counted))

theorem refuseReg_burns {f : State → State} (s c a) (h : ∀ t, OnlyBurns t (f t)) : OnlyBurns s (refuseReg s c a f) :=
  .after (h _) (.of ((flushErrs_keeps ..).after (pushErr_keeps ..)) rfl)

theorem withCmd_burns {x : Src} {c : Nat} {no : State → Option No} {f : State → Nat → State}
    (h : ∀ t j, OnlyBurns t (f t j)) : OnlyBurns s (withCmd s x c no f) := by
  unfold withCmd
  extract_lets
  split
  · exact .of ((refuseCmd_keeps ..).after (takeCmd_keeps ..)) rfl
  · exact .after (h ..) (.of (takeCmd_keeps ..) rfl)

theorem forParts_burns {f : State → Nat → State} (h : ∀ t p, OnlyBurns t (f t p)) : OnlyBurns s (forParts s f) := by
  unfold forParts
  exact .fold h .nothing

/-! ### Registers of the security engine (R493 to R504) -/

theorem bumpMeas_burns (s) : OnlyBurns s (bumpMeas s) := .same rfl

theorem deriveAlias_burns (s i) : OnlyBurns s (deriveAlias s i) :=
  .after (.of (pushErr_keeps ..) rfl) (.setSec .nothing rfl)

theorem setCommit_burns (s n st) : OnlyBurns s (setCommit s n st) := .same rfl

theorem setRevoke_burns (s n st) : OnlyBurns s (setRevoke s n st) := .same rfl

/-! ### Commit and revoke (R496, R497) -/

theorem commitNo_burns (s o st c) : OnlyBurns s (commitNo s o st c) := by
  unfold commitNo
  refine .after (refuseReg_burns _ _ _ fun t => ?_) (.of (regLedger_keeps ..) rfl)
  exact .either (.same rfl) (setCommit_burns ..)

theorem revokeNo_burns (s o k st c) : OnlyBurns s (revokeNo s o k st c) := by
  unfold revokeNo
  refine .after (refuseReg_burns _ _ _ fun t => ?_) (.of (regLedger_keeps ..) rfl)
  exact .either (.same rfl) (setRevoke_burns ..)

/-- A burn that starts: it raises its counter, or burns a key. -/
theorem OnlyBurns.start {f : FuseOp} {o : Origin} (hf : ∀ c v, f = .commit c v → ctrOf s c < v) :
    OnlyBurns s { s with sec := { s.sec with fuse := some f, fuseBy := o } } where
  keys _ _ := id
  counters _ _ := le_refl _
  rising := by
    rintro - c v ⟨⟩
    exact hf c v rfl

theorem commitGo_burns (s o) : OnlyBurns s (commitGo s o) := by
  have entered : OnlyBurns s (regLedger s o 0xA0010 1 .ok) := .of (regLedger_keeps ..) rfl
  unfold commitGo
  split
  · exact commitNo_burns ..
  · refine .either (commitNo_burns ..) ?_
    split
    · split
      · exact .after (.of (ledger_keeps ..) rfl) (.after (setCommit_burns ..) entered)
      · next hlow =>
        refine .after (.start ?_) (.after (setCommit_burns ..) entered)
        rintro _ _ ⟨⟩
        exact Nat.lt_of_not_le hlow
    · exact commitNo_burns ..

theorem revokeGo_burns (s o k) : OnlyBurns s (revokeGo s o k) := by
  have entered : OnlyBurns s (regLedger s o 0xA0018 (k + 8) .ok) := .of (regLedger_keeps ..) rfl
  unfold revokeGo
  split
  · exact revokeNo_burns ..
  · refine .either (revokeNo_burns ..) ?_
    split
    · refine .either (revokeNo_burns ..) (.either ?_ ?_)
      · exact .after (.of (ledger_keeps ..) rfl) (.after (setRevoke_burns ..) entered)
      · exact .after (.start nofun) (.after (setRevoke_burns ..) entered)
    · exact revokeNo_burns ..

/-- A counter's burn has ended at a value that is no lower. -/
theorem OnlyBurns.counted {c w : Nat} (h : Rising s → ctrOf s c ≤ w) :
    OnlyBurns s { s with sec := { s.sec with fuse := none, ctrs := tabSet s.sec.ctrs c w 0 } } where
  keys _ _ := id
  counters hs i := by
    by_cases hi : i = c
    · subst hi
      simpa [ctrOf] using h hs
    · simp [ctrOf, tabGet_set_other _ _ _ _ _ hi]
  rising _ := nofun

theorem commitEnd_burns {c svn : Nat} (good : Bool) (blown : Nat) (h : s.sec.fuse = some (.commit c svn)) :
    OnlyBurns s (commitEnd s c svn good blown) := by
  have value (hs : Rising s) : ctrOf s c ≤ if good then svn else max (ctrOf s c) (min blown (svn - 1)) := by
    split
    · exact (hs c svn h).le
    · exact le_max_left ..
  unfold commitEnd
  extract_lets old w c s1 s2
  have ended : OnlyBurns s s1 := .counted value
  have noted : OnlyBurns s s2 := by
    unfold s2
    exact .either ended (.after (bumpMeas_burns ..) ended)
  exact .either (.after (.of ((ledger_keeps ..).after (pushErr_keeps ..)) rfl) (.after (setCommit_burns ..)
    (.after (.of (badSlots_keeps ..) rfl) noted))) (.after (.of (pushErr_keeps ..) rfl) (.after (setCommit_burns ..) noted))

/-- A burn that has ended. -/
theorem OnlyBurns.idle : OnlyBurns s { s with sec := { s.sec with fuse := none } } where
  keys _ _ := id
  counters _ _ := le_refl _
  rising _ := nofun

/-- A key burnt. -/
theorem OnlyBurns.revoked (s : State) (k : Nat) :
    OnlyBurns s { s with sec := { s.sec with revoked := s.sec.revoked ||| 2 ^ k } } where
  keys _ i hi := by simp [Nat.testBit_or, hi]
  counters _ _ := le_refl _
  rising := id

theorem revokeEnd_burns (s k good) : OnlyBurns s (revokeEnd s k good) := by
  unfold revokeEnd
  exact .either (.after (.of ((ledger_keeps ..).after (pushErr_keeps ..)) rfl) (.after (setRevoke_burns ..)
    (.after (.of (badSlots_keeps ..) rfl) (.after (bumpMeas_burns ..) (.after (.revoked ..) .idle)))))
    (.after (.of (pushErr_keeps ..) rfl) (.after (setRevoke_burns ..) .idle))

/-! ### SPDM and entropy (R500, R501) -/

theorem setConn_burns (s t c) : OnlyBurns s (setConn s t c) := by cases t <;> exact .same rfl

theorem spdmErr_burns (s t e) : OnlyBurns s (spdmErr s t e) := .after (.of (emit_keeps ..) rfl) (setConn_burns ..)

theorem spdmSay_burns (s t code body stage req) : OnlyBurns s (spdmSay s t code body stage req) :=
  .after (.of (emit_keeps ..) rfl) (setConn_burns ..)

theorem spdmGuard_burns {f : State → State} (t n) (h : OnlyBurns s (f s)) : OnlyBurns s (spdmGuard s t n f) :=
  .either .nothing (.either (spdmErr_burns ..) (.either (spdmErr_burns ..) h))

theorem spdmSigned_burns (s t code req body) : OnlyBurns s (spdmSigned s t code req body) :=
  .either (spdmErr_burns ..) (.after (spdmSay_burns ..) (.setSec .nothing rfl))

theorem getVersion_burns (s t) : OnlyBurns s (getVersion s t) :=
  spdmGuard_burns _ _ (.after (spdmSay_burns ..) (setConn_burns ..))

theorem getCaps_burns (s t) : OnlyBurns s (getCaps s t) := spdmGuard_burns _ _ (spdmSay_burns ..)

theorem negotiate_burns (s t ok) : OnlyBurns s (negotiate s t ok) :=
  spdmGuard_burns _ _ (.either (spdmSay_burns ..) (.after (.of (pushErr_keeps ..) rfl) (spdmErr_burns ..)))

theorem getDigests_burns (s t) : OnlyBurns s (getDigests s t) := spdmGuard_burns _ _ (spdmSay_burns ..)

theorem getCert_burns (s t slot) : OnlyBurns s (getCert s t slot) :=
  spdmGuard_burns _ _ (.either (spdmSay_burns ..) (spdmErr_burns ..))

theorem challenge_burns (s t slot nonce) : OnlyBurns s (challenge s t slot nonce) :=
  spdmGuard_burns _ _ (.either (spdmSigned_burns ..) (spdmErr_burns ..))

theorem getMeas_burns (s t index nonce) : OnlyBurns s (getMeas s t index nonce) :=
  spdmGuard_burns _ _ (.either (spdmErr_burns ..) (spdmSigned_burns ..))

theorem spdmOther_burns (s t code) : OnlyBurns s (spdmOther s t code) :=
  spdmGuard_burns _ _ (.after (.of (pushErr_keeps ..) rfl) (spdmErr_burns ..))

theorem spdmAsk_burns (s t q) : OnlyBurns s (spdmAsk s t q) := by
  cases q with
  | getVersion => exact getVersion_burns ..
  | getCapabilities => exact getCaps_burns ..
  | negotiate => exact negotiate_burns ..
  | getDigests => exact getDigests_burns ..
  | getCertificate => exact getCert_burns ..
  | challenge => exact challenge_burns ..
  | getMeasurements => exact getMeas_burns ..
  | other => exact spdmOther_burns ..

/-! ### Fields (Table 24-6) and the records of the boot image (Table 20-3) -/

theorem setDies_burns (s p d) : OnlyBurns s (setDies s p d) := by
  unfold setDies
  extract_lets others
  have taken : OnlyBurns s others := forParts_burns fun _ _ => .of (.either .nothing (modPart_keeps ..)) rfl
  exact .either (.after (.of (modPart_keeps ..) rfl) taken) (.either (.after (.of (modPart_keeps ..) rfl) taken)
    (.after (.of (modPart_keeps ..) rfl) (.setSec taken rfl)))

theorem applyPart_burns (s p dies nctx quota role so pg pm cb tn) :
    OnlyBurns s (applyPart s p dies nctx quota role so pg pm cb tn) :=
  .after (.of (modPart_keeps ..) rfl) (setDies_burns ..)

theorem fldSet_burns (s f v) : OnlyBurns s (fldSet s f v) := by
  fun_cases fldSet s f v
  case case3 => exact setDies_burns ..
  case case11 => exact .of ((setRegion_keeps ..).after (.either (freshLens_keeps ..) .nothing)) rfl
  all_goals exact .same rfl

theorem liveField_burns (s f v) : OnlyBurns s (liveField s f v) := by
  fun_cases liveField s f v
  · exact .of (pushErr_keeps ..) rfl
  · exact fldSet_burns ..

theorem applyStaged_burns (s p step) : OnlyBurns s (applyStaged s p step) := by
  refine .fold (fun s g => ?_) (.of (modPart_keeps ..) rfl)
  split
  · exact .nothing
  · exact .after (.of (pushLedger_keeps ..) rfl) (fldSet_burns ..)

theorem applyParked_burns (s r) : OnlyBurns s (applyParked s r) := by
  fun_cases applyParked s r
  · exact fldSet_burns ..
  · exact .nothing

theorem writeViol_burns {f : State → State} (s o) (h : ∀ t, OnlyBurns t (f t)) : OnlyBurns s (writeViol s o f) := by
  fun_cases writeViol s o f
  · exact violate_burns _ _ h
  · exact violate_burns _ _ h
  · exact h _

theorem writeField_burns (s o f x width v mask) : OnlyBurns s (writeField s o f x width v mask) := by
  have entered (a : LedgerArgs) (w : Nat) : OnlyBurns s (ledger (fldSet s f w) o a) :=
    .after (.of (ledger_keeps ..) rfl) (fldSet_burns ..)
  fun_cases writeField s o f x width v mask
  · exact .after (writeViol_burns _ _ fun _ => .of (pushErr_keeps ..) rfl) (.of (ledger_keeps ..) rfl)
  · exact .of ((pushErr_keeps ..).after (ledger_keeps ..)) rfl
  · exact .of (ledger_keeps ..) rfl
  · exact entered ..
  · exact .of (stageStep_keeps ..) rfl
  · exact entered ..

theorem writeWhole_burns (s o x width v) : OnlyBurns s (writeWhole s o x width v) := by
  fun_cases writeWhole s o x width v
  · exact .after (writeViol_burns _ _ fun _ => .nothing) (.of (writeIgnored_keeps ..) rfl)
  · exact .of (writeIgnored_keeps ..) rfl
  · exact .of (.setLog .nothing) rfl
  · exact .fold (fun _ _ => writeField_burns ..) .nothing

theorem putRec_burns (s b) : OnlyBurns s (putRec s b) := by
  fun_cases putRec s b
  case case1 => exact .of (.setPwr .nothing) rfl
  case case2 => exact .of ((checkMode_keeps ..).after (.setHif .nothing)) rfl
  case case3 | case4 => exact .of (.setLnk .nothing) rfl
  case case5 => exact .of ((setRegion_keeps ..).after (freshLens_keeps ..)) rfl
  case case6 => exact applyPart_burns ..
  case case7 => exact .of (.setHif (modBind_keeps ..)) rfl
  case case8 => exact .of (modBind_keeps ..) rfl
  case case9 => exact .of (modPart_keeps ..) rfl
  case case10 => exact fldSet_burns ..
  case case11 | case12 => exact .nothing

theorem applyRec_burns (s b) : OnlyBurns s (applyRec s b) := .after (.of (ledger_keeps ..) rfl) (putRec_burns ..)

theorem applyEnv_burns (s rs) : OnlyBurns s (applyEnv s rs) := .fold (fun _ _ => applyRec_burns ..) .nothing

/-! ### Activation, reboot and loss of power (R488 to R492, R526) -/

theorem fwAct_burns (s o) : OnlyBurns s (fwAct s o) := by
  have entered : OnlyBurns s (regLedger s o 0x40 1 .ok) := .of (regLedger_keeps ..) rfl
  have no (st : Status) : OnlyBurns s (actNo (regLedger s o 0x40 1 .ok) st) := .after (.of (actNo_keeps ..) rfl) entered
  fun_cases fwAct s o
  case case1 | case2 | case3 | case4 => exact no _
  case case5 | case6 => exact .after (refuseReg_burns _ _ _ fun _ => .of (actOut_keeps ..) rfl) entered
  case case7 => exact .after (deriveAlias_burns ..) (.after (.of ((actOut_keeps ..).after (.setBoot .nothing)) rfl) entered)

theorem actField_burns (s f v) : OnlyBurns s (actField s f v) := by
  have entered (a : LedgerArgs) : OnlyBurns s (ledger (fldSet s f v) .firmware a) :=
    .after (.of (ledger_keeps ..) rfl) (fldSet_burns ..)
  fun_cases actField s f v
  · exact .nothing
  · exact entered _
  · exact entered _
  · exact .of (stageStep_keeps ..) rfl
  · exact entered _
  · exact .of (.setBoot (ledger_keeps ..)) rfl
  · exact .of (.setBoot .nothing) rfl

theorem actQuiesce_burns {f : State → State} (s p target old new ok) (h : ∀ t, OnlyBurns t (f t)) :
    OnlyBurns s (actQuiesce s p target old new ok f) := by
  unfold actQuiesce
  exact .either .nothing (.either (.after (.of (ledger_keeps ..) rfl) (h _))
    (.of ((actKeep_keeps ..).after (ledger_keeps ..)) rfl))

theorem actRec_burns (s b) : OnlyBurns s (actRec s b) := by
  fun_cases actRec s b
  case case1 | case2 | case3 | case8 => exact .of (actKeep_keeps ..) rfl
  case case4 => exact .of (switchRoute_keeps ..) rfl
  case case5 => exact .of (actRegion_keeps ..) rfl
  case case6 =>
    exact .after (actQuiesce_burns _ _ _ _ _ _ fun _ => .of ((trimTree_keeps ..).after (modPart_keeps ..)) rfl)
      (.after (actQuiesce_burns _ _ _ _ _ _ fun _ => .of (setNctx_keeps ..) rfl)
      (.fold (fun _ _ => actField_burns ..) .nothing))
  case case7 => exact .fold (fun _ _ => actField_burns ..) .nothing
  case case9 => exact actField_burns ..
  case case10 | case11 => exact .nothing

theorem switchAll_burns (s i) : OnlyBurns s (switchAll s i) :=
  .fold (fun _ _ => actRec_burns ..) (.of (.setBoot .nothing) rfl)

theorem fwRevert_burns (s) : OnlyBurns s (fwRevert s) := by
  unfold fwRevert
  extract_lets s1 fw s2 s3
  have slot : OnlyBurns s s1 := by
    unfold s1
    split
    · exact .of (slotTo_keeps ..) rfl
    · exact .nothing
  exact .after (.of (pushErr_keeps ..) rfl) (.after (bumpMeas_burns ..)
    (.setSec (.after (.of ((actOut_keeps ..).after (.setBoot .nothing)) rfl) slot) rfl))

theorem fwFault_burns (s) : OnlyBurns s (fwFault s) := .either (fwRevert_burns ..) .nothing

theorem rebootNow_burns (s o) : OnlyBurns s (rebootNow s o) := by
  have entered (st : Status) : OnlyBurns s (regLedger s o 0x48 1 st) := .of (regLedger_keeps ..) rfl
  unfold rebootNow
  refine .either ?_ (entered _)
  exact .after (t := (List.range 20).foldl powerDown (keepIsland (regLedger s o 0x48 1 .ok))) (.same rfl)
    (.after (.of (.fold (fun _ _ => powerDown_keeps ..) (keepIsland_keeps ..)) rfl) (entered _))

/-- Loss of power ends a burn where it is: the fuses stay as they are blown. -/
theorem powerLoss_burns (s) : OnlyBurns s (powerLoss s) where
  keys _ _ := id
  counters _ _ := le_refl _
  rising _ := nofun

/-! ### Register and configuration writes (R384, R485) -/

theorem configAct_burns {o f v} (h : configAct s o f v = some u) : OnlyBurns s u := by
  revert h
  fun_cases configAct s o f v
  all_goals rintro ⟨⟩
  · exact fwAct_burns ..
  · exact rebootNow_burns ..
  · exact .of (sleepAsk_keeps ..) rfl
  · exact .of (wakeAsk_keeps ..) rfl
  · exact .of (retrainPort_keeps ..) rfl
  · exact .of (unfence_keeps ..) rfl
  · exact commitGo_burns ..
  · exact revokeGo_burns ..

theorem configDo_burns (s x f off width value mask a) : OnlyBurns s (configDo s x f off width value mask a) := by
  fun_cases configDo s x f off width value mask a
  case case1 => exact configAct_burns ‹_›
  case case2 => exact .after (.of (finishCmd_keeps ..) rfl) (configAct_burns ‹_›)
  case case3 | case4 | case8 =>
    exact .after (.of ((finishCmd_keeps ..).after (ledger_keeps ..)) rfl) (fldSet_burns ..)
  case case5 => exact .of ((finishCmd_keeps ..).after (stageStep_keeps ..)) rfl
  case case6 => exact .of ((finishCmd_keeps ..).after ((ledger_keeps ..).after (.setPwr .nothing))) rfl
  case case7 | case9 => exact .of (configRefuse_keeps ..) rfl

theorem writeAction_burns {o x width v} (h : writeAction s o x width v = some u) : OnlyBurns s u := by
  suffices written : OnlyBurns s ((writeAction s o x width v).getD s) by rwa [h] at written
  fun_cases writeAction s o x width v
  case case1 h =>
    rw [Option.getD_some]
    exact .of ((imgWrite_keeps ..).after ((regLedger_keeps ..).after (drawFree_keeps_eq h))) rfl
  case case2 => exact .of (ledger_keeps ..) rfl
  case case3 => exact .either (fwAct_burns ..) (.of (ledger_keeps ..) rfl)
  case case4 => exact .either (rebootNow_burns ..) (.of (ledger_keeps ..) rfl)
  case case5 =>
    have asked : Keeps _ s (if v.testBit 0 then sleepAsk s o else s) := .either (sleepAsk_keeps ..) .nothing
    exact .of (.either ((wakeAsk_keeps ..).after asked) (.either asked (ledger_keeps ..))) rfl
  case case6 => exact .of (.either ((unfence_keeps ..).after (.setRas .nothing))
      ((ledger_keeps ..).after (.setRas .nothing))) rfl
  case case7 => exact .either (commitGo_burns ..) (.of (ledger_keeps ..) rfl)
  case case8 =>
    exact .either (.after (revokeGo_burns ..) (.setSec .nothing rfl))
      (.after (.of (ledger_keeps ..) rfl) (.setSec .nothing rfl))
  case case9 => exact .of (.either (retrainPort_keeps ..) (ledger_keeps ..)) rfl
  case case10 => exact .nothing

theorem writeBar0_burns (s o x width v) : OnlyBurns s (writeBar0 s o x width v) := by
  fun_cases writeBar0 s o x width v
  case case1 => exact .nothing
  case case2 => exact .of (msixWrite_keeps ..) rfl
  case case3 => exact .of (mbxCmdWrite_keeps ..) rfl
  case case4 => exact .of (mbxGo_keeps ..) rfl
  case case5 => exact writeViol_burns _ _ fun _ => .nothing
  case case6 => exact .of (mbxStatusWrite_keeps ..) rfl
  case case7 => exact .of (writeIgnored_keeps ..) rfl
  case case8 => exact .after (writeViol_burns _ _ fun _ => .nothing) (.of (writeIgnored_keeps ..) rfl)
  case case9 => exact writeAction_burns ‹_›
  case case10 => exact .of (Keeps.halves (ledger_keeps ..) _) rfl
  case case11 => exact .after (writeWhole_burns ..) (.of (k := []) (Keeps.halves .nothing _) rfl)
  case case12 => exact writeWhole_burns ..

theorem regWrite_burns (o bar off width value s) : OnlyBurns s (regWrite o bar off width value s) := by
  fun_cases regWrite o bar off width value s
  case case1 | case10 | case15 => exact .nothing
  case case2 | case3 | case6 | case7 => exact .either (.of (pageWrite_keeps ..) rfl) .nothing
  case case11 => exact .of (pageWrite_keeps ..) rfl
  case case4 | case8 => exact .after (writeViol_burns _ _ fun _ => .nothing) (.of (writeIgnored_keeps ..) rfl)
  case case5 | case9 => exact writeBar0_burns ..
  case case12 => exact .of (absentWrite_keeps ..) rfl
  case case13 => exact violate_burns _ _ fun _ => .nothing
  case case14 => exact .of (writeVf_keeps ..) rfl

/-! ### Packets: a relayed access writes a register (R203, R204, R331 to R334, R435) -/

theorem relayIn_burns (s m b) : OnlyBurns s (relayIn s m b) := by
  fun_cases relayIn s m b
  case case1 h => exact .of ((sendVc0_keeps ..).after (readReg_keeps_eq h)) rfl
  case case2 => exact regWrite_burns ..
  case case3 | case7 => exact .nothing
  case case4 => exact .of ((emit_keeps ..).after (.setLnk .nothing)) rfl
  case case5 => exact .of (relayCommand_keeps ..) rfl
  case case6 => exact .of (mbxAnswer_keeps ..) rfl
  case case8 => exact .of (postCmdCpl_keeps ..) rfl
  case case9 => exact .of (outPut_keeps ..) rfl
  case case10 => exact .of ((noteFull_keeps ..).after (modPart_keeps ..)) rfl

theorem deliverPkt_burns (s k b) : OnlyBurns s (deliverPkt s k b).1 := by
  cases b with
  | send v => exact .either (.of ((vectorIn_keeps ..).after (sendIn_keeps ..)) rfl) (.of (sendIn_keeps ..) rfl)
  | expert route => exact .either (.of ((expertIn_keeps ..).after (sendIn_keeps ..)) rfl) (.of (sendIn_keeps ..) rfl)
  | relay b => exact relayIn_burns ..
  | handoff p tr => exact .of (handoffIn_keeps ..) rfl
  | page p h m => exact .of (pageIn_keeps ..) rfl
  | weight q b => exact .of (weightIn_keeps ..) rfl

theorem deliverRun_burns (fuel s k b) : OnlyBurns s (deliverRun fuel s k b) := by
  induction fuel generalizing s k b with
  | zero => exact .nothing
  | succ fuel ih =>
    have delivered (r : RxFlow) : OnlyBurns s (deliverPkt (setRx s r) k b).1 :=
      .after (deliverPkt_burns ..) (.of (setRx_keeps ..) rfl)
    simp only [deliverRun]
    split
    · next h => exact .after (.of (quenchRx_keeps ..) rfl) (.ofFst h (delivered _))
    · next s2 h =>
      have acked (c : Prop) [Decidable c] : OnlyBurns s (if c then sendAck s2 k.smod k.flow else s2) :=
        .either (.after (.of (sendAck_keeps ..) rfl) (.ofFst h (delivered _))) (.ofFst h (delivered _))
      split
      · exact .after (ih ..) (.after (.of (setRx_keeps ..) rfl) (acked _))
      · exact acked _

theorem rxTake_burns (s k b) : OnlyBurns s (rxTake s k b) := by
  unfold rxTake
  exact .either (.of (modPort_keeps ..) rfl) (.either (.of (setRx_keeps ..) rfl)
    (.either (.of (.either .nothing (setRx_keeps ..)) rfl) (deliverRun_burns ..)))

theorem packetIn_burns (s k b) : OnlyBurns s (packetIn s k b) := by
  unfold packetIn
  have freed : OnlyBurns s (freed s k) := .of (freeRx_keeps ..) rfl
  exact .either .nothing (.either (.of (linkReset_keeps ..) rfl) (.either (.of (linkReset_keeps ..) rfl)
    (.either (.of ((pumpFlows_keeps ..).after (passOn_keeps ..)) rfl) (.either (.after (.of (modPort_keeps ..) rfl) freed)
      (.either (.after (deliverPkt_burns ..) freed) (.after (rxTake_burns ..) freed))))))

/-! ### Steps: a parameter section that fails reverts an activation, and a boundary applies what is staged -/

theorem pbFail_burns (s t r) : OnlyBurns s (pbFail s t r) := by
  have told : Keeps [.hif, .log, .ras] s (match r with
      | some o => tileErr s t .pbCheck .badField 0xFF [t, o]
      | none => tileErr s t .pbCheck .ok 0xFF [t]) := by
    split
    · exact tileErr_keeps ..
    · exact tileErr_keeps ..
  unfold pbFail
  refine .after (fwFault_burns ..) (.after (.of (rerunFault_keeps ..) rfl) (.either ?_ (.of told rfl)))
  split
  · exact .of ((makeSuspect_keeps ..).after ((countFault_keeps_of fun _ => .nothing).after told)) rfl
  · exact .of told rfl

theorem useSection_burns (s t c) : OnlyBurns s (useSection s t c) := by
  unfold useSection
  exact .either (.of (setTile_keeps ..) rfl) (.after (pbFail_burns ..) (.of (setTile_keeps ..) rfl))

theorem startStep_burns (s p x) : OnlyBurns s (startStep s p x) := by
  unfold startStep
  refine .fold (fun s t => ?_) (.of (.fold (fun _ _ => modTile_keeps ..) ((startLanes_keeps ..).after ((modPart_keeps ..).after
    (.either .nothing (bindAgain_keeps ..))))) rfl)
  split
  · exact .either .nothing (.after (pbFail_burns ..) (.of (modTile_keeps ..) rfl))
  · exact .nothing

theorem startNext_burns (s p) : OnlyBurns s (startNext s p) := by
  fun_cases startNext s p
  · exact .nothing
  · exact .after (startStep_burns ..) (.ofFst ‹_› (.of ((writeParams_keeps ..).after (modPart_keeps ..)) rfl))
  · exact .after (startStep_burns ..) (.of (modPart_keeps ..) rfl)
  · exact .nothing

theorem composeFirst_burns (s p vs) : OnlyBurns s (composeFirst s p vs) := by
  fun_induction composeFirst s p vs with
  | case1 => exact .nothing
  | case2 => exact .of (compose_keeps ..) rfl
  | case3 _ _ _ _ _ _ ih => exact .after ih (.of ((noteDefer_keeps ..).after (compose_keeps ..)) rfl)
  | case4 => exact .after (startNext_burns ..) (.of ((takeComposed_keeps ..).after (compose_keeps ..)) rfl)

theorem taintedEnd_burns (s p x ev) : OnlyBurns s (taintedEnd s p x ev) := by
  unfold taintedEnd
  exact .after (applyStaged_burns ..) (.of ((modPart_keeps ..).after ((pushStepRec_keeps ..).after
    ((taintedOut_keeps ..).after (endTiles_keeps ..)))) rfl)

theorem abandonEnd_burns (s p x a) : OnlyBurns s (abandonEnd s p x a) := by
  unfold abandonEnd
  exact .after (.of (preemptDoomed_keeps ..) rfl) (.after (applyStaged_burns ..) (.of ((endCancelled_keeps ..).after
    ((afterAbandon_keeps ..).after ((reportAbandon_keeps ..).after ((modPart_keeps ..).after ((endTiles_keeps ..).after
      ((clearLanes_keeps ..).after ((recordAbandon_keeps ..).after
        ((pushStepRec_keeps ..).after (routeSome_keeps ..))))))))) rfl))

theorem cleanEnd_burns (s p x) : OnlyBurns s (cleanEnd s p x) := by
  unfold cleanEnd
  exact .after (applyStaged_burns ..) (.of ((refreshAdm_keeps ..).after ((preemptDoomed_keeps ..).after
    ((forgetRepeat_keeps ..).after ((resolveComposed_keeps ..).after ((modPart_keeps ..).after ((pushStepRec_keeps ..).after
      (.foldOf (st := Tally.s) (fun _ _ => finishSlot_keeps ..) ((sealWaiting_keeps ..).after (endTiles_keeps ..))))))))) rfl)

/-! ### The outcome of a command -/

/-- In a command's outcome, where it is a next state, the fuses have only burnt. -/
structure NextBurns (s : State) (r : Res) : Prop where
  burns : ∀ u, r = .next u → OnlyBurns s u

theorem NextBurns.next (h : OnlyBurns s t) : NextBurns s (.next t) where
  burns := by
    rintro u ⟨⟩
    exact h

theorem NextBurns.idle : NextBurns s (.next s) := .next .nothing

theorem NextBurns.either {c : Prop} {d : Decidable c} {a b : Res} (h : NextBurns s a) (g : NextBurns s b) :
    NextBurns s (if c then a else b) := by
  split
  · exact h
  · exact g

/-- A command that may not change the security engine. -/
theorem NextBurns.of {r : Res} (h : NextKeeps k s r) (hk : k.contains Block.sec = false) : NextBurns s r where
  burns u hu := .of (h.kept u hu) hk

/-! ### The commands that may change the security engine, those that branch on data -/

theorem execPbPrefetchDone_burns (t errs s) : NextBurns s (execPbPrefetchDone t errs s) := by
  fun_cases execPbPrefetchDone t errs s
  case case2 => exact .next (.after (useSection_burns ..) (.ofFst ‹_› (.of (prefetch_keeps ..) rfl)))
  case case3 => exact .next (.ofFst ‹_› (.of (prefetch_keeps ..) rfl))
  case case4 => exact .next (.after (.of (modTile_keeps ..) rfl) (.ofFst ‹_› (.of (prefetch_keeps ..) rfl)))
  case case6 => exact .next (.after (.of (modTile_keeps ..) rfl) (.ofFst ‹_› (.of (prefetch_keeps ..) rfl)))
  all_goals exact .idle

theorem execBundleCommit_burns (p s) : NextBurns s (execBundleCommit p s) := by
  fun_cases execBundleCommit p s
  case case3 => exact .next (.of (failLoad_keeps ..) rfl)
  case case4 => exact .next (.after (.of (finishLater_keeps ..) rfl) (.after (.either (bumpMeas_burns ..) .nothing)
      (.of ((freeVersions_keeps ..).after ((setLoad_keeps ..).after ((ledger_keeps ..).after (.after (.either .nothing
      (ledger_keeps ..)) ((makeCurrent_keeps ..).after (rebalLoading_keeps ..)))))) rfl)))
  all_goals exact .idle

theorem execStepCompose_burns (p s) : NextBurns s (execStepCompose p s) := by
  fun_cases execStepCompose p s
  · exact .next (.after (startNext_burns ..) (.of (preemptIdle_keeps ..) rfl))
  · exact .next (.after (composeFirst_burns ..) (.of (preemptIdle_keeps ..) rfl))

theorem execStepBoundary_burns (p s) : NextBurns s (execStepBoundary p s) := by
  fun_cases execStepBoundary p s
  · exact .idle
  · exact .idle
  · exact .next (.after (startNext_burns ..) (taintedEnd_burns ..))
  · exact .next (.after (startNext_burns ..) (cleanEnd_burns ..))

theorem execStepAbandonComplete_burns (p s) : NextBurns s (execStepAbandonComplete p s) := by
  fun_cases execStepAbandonComplete p s
  case case4 => exact .next (.after (startNext_burns ..) (abandonEnd_burns ..))
  all_goals exact .idle

theorem execSwitchRestoreDone_burns (p s) : NextBurns s (execSwitchRestoreDone p s) := by
  fun_cases execSwitchRestoreDone p s
  · exact .idle
  · exact .next (.after (startNext_burns ..) (.of (.fold (fun _ _ => settle_keeps ..) (restoreCtx_keeps ..)) rfl))
  · exact .next (.after (startNext_burns ..) (.of (restoreCtx_keeps ..) rfl))

theorem execConfig_burns (x off width value mask s) : NextBurns s (execConfig x off width value mask s) := by
  refine .next (withCmd_burns fun t _ => ?_)
  split
  · exact .nothing
  · refine .either (.of (configRefuse_keeps ..) rfl) ?_
    split
    · exact .of (configRefuse_keeps ..) rfl
    · exact configDo_burns ..

theorem execCoreWatchdog_burns (xd core inSo s) : NextBurns s (execCoreWatchdog xd core inSo s) := by
  fun_cases execCoreWatchdog xd core inSo s
  · exact .idle
  · exact .next (.after (fwFault_burns ..) (.of (countFault_keeps_of fun _ => pushErr_keeps ..) rfl))

theorem execBootRomStart_burns (fast s) : NextBurns s (execBootRomStart fast s) := by
  have slow {u : State} (h : u.sec.fused = (if fast then s else pushErr s .bootSlow {}).sec.fused) : OnlyBurns s u :=
    .after (.same h) (.of (.either .nothing (pushErr_keeps ..)) rfl)
  fun_cases execBootRomStart fast s
  · exact .idle
  · exact .next (slow rfl)
  · exact .next (.after (.of (toRecovery_keeps ..) rfl) (slow rfl))

theorem execImageVerified_burns (s) : NextBurns s (execImageVerified s) := by
  have derived (b : Boot) (i : List Byte) : OnlyBurns s (deriveAlias { s with boot := b } i) :=
    .after (deriveAlias_burns ..) (.of (.setBoot .nothing) rfl)
  fun_cases execImageVerified s
  · exact .idle
  · exact .next (.of (slotFails_keeps ..) rfl)
  · exact .next (.of (slotFails_keeps ..) rfl)
  · exact .next (.either (.after (.of (pushErr_keeps ..) rfl) (derived ..)) (derived ..))

theorem execStacksTrained_burns (failed s) : NextBurns s (execStacksTrained failed s) := by
  fun_cases execStacksTrained failed s
  case case2 =>
    exact .next (.after (.of (.setRasBoot ((pickMaster_keeps ..).after ((trainPorts_keeps ..).after ((withdrawAll_keeps ..).after
      (dropLost_keeps ..))))) rfl) (.fold (fun _ _ => applyRec_burns ..) (.fold (fun _ _ => applyRec_burns ..)
        (.after (.of ((applyList_keeps ..).after (powerDies_keeps ..)) rfl) (.after (applyEnv_burns ..)
          (.of (.setHifLnk .nothing) rfl))))))
  all_goals exact .idle

theorem execCoreBankSwitch_burns (c s) : NextBurns s (execCoreBankSwitch c s) := by
  fun_cases execCoreBankSwitch c s
  · exact .idle
  · exact .next (.after (switchAll_burns ..) (.of (.setBoot .nothing) rfl))
  · exact .next (.of (.setBoot .nothing) rfl)

theorem execActivationConfirm_burns (s) : NextBurns s (execActivationConfirm s) := by
  fun_cases execActivationConfirm s
  case case2 => exact .next (.after (.of (ledger_keeps ..) rfl) (.after (bumpMeas_burns ..)
      (.of (.setBoot ((writeSel_keeps ..).after (actOut_keeps ..))) rfl)))
  all_goals exact .idle

theorem execReboot_burns (o s) : NextBurns s (execReboot o s) := by
  have rebooted : OnlyBurns s (if s.side.mainOn then rebootNow s o else s) := .either (rebootNow_burns ..) .nothing
  fun_cases execReboot o s
  · exact .next rebooted
  · exact .next rebooted
  · exact .idle

theorem execFuseBlowDone_burns (good blown s) : NextBurns s (execFuseBlowDone good blown s) := by
  fun_cases execFuseBlowDone good blown s
  · exact .idle
  · exact .next (commitEnd_burns _ _ ‹_›)
  · exact .next (revokeEnd_burns ..)

theorem execDoeAbort_burns (t s) : NextBurns s (execDoeAbort t s) := by
  cases t
  · exact .next (setConn_burns ..)
  · exact .idle

theorem execJtagInstruction_burns (ir s) : NextBurns s (execJtagInstruction ir s) :=
  .either .idle (.either .idle (.next (.after (.of (pushErr_keeps ..) rfl) (.same rfl))))

theorem execThermalTrip_burns (die s) : NextBurns s (execThermalTrip die s) :=
  .either .idle (.either (.next (powerLoss_burns ..)) (.next (.of (.setBootPwrHif (.setRas
    (.fold (fun _ _ => powerDown_keeps ..) ((keepIsland_keeps ..).after ((errNow_keeps ..).after (modDie_keeps ..)))))) rfl)))

theorem execPwrEnAssert_burns (s) : NextBurns s (execPwrEnAssert s) :=
  .either .idle (.either (.next (.of (.setSide .nothing) rfl))
    (.next (.after (.of (.setSide .nothing) rfl) (powerLoss_burns ..))))

theorem execWakeComplete_burns (s) : NextBurns s (execWakeComplete s) :=
  .either .idle (.next (.after (.of (refreshRoutes_keeps ..) rfl) (.after (forParts_burns fun _ _ => applyStaged_burns ..)
    (.fold (fun _ _ => applyParked_burns ..) (.of (.setPwr ((forParts_keeps_of fun _ _ => contextBack_keeps ..).after (.setLnk
      (.fold (fun _ _ => powerUp_keeps ..) .nothing)))) rfl)))))

theorem execMgmtWrite_burns (off value s) : NextBurns s (execMgmtWrite off value s) := by
  have written (o w old new : Nat) : OnlyBurns s (writeLedger s .mgmt o w old new) := .of (writeLedger_keeps ..) rfl
  have asked (c : Prop) [Decidable c] : Keeps _ s (if c then sleepAsk s .mgmt else s) := .either (sleepAsk_keeps ..) .nothing
  refine .either .idle (.either .idle ?_)
  split
  · exact .next (.of (.either ((wakeAsk_keeps ..).after (asked ..)) (.either ((writeLedger_keeps ..).after (asked ..))
      (asked ..))) rfl)
  · exact .next (.after (liveField_burns ..) (written ..))
  · exact .next (.either (.after (.of (imgWrite_keeps ..) rfl) (written ..)) (written ..))
  · exact .next (.either (fwAct_burns ..) (written ..))
  · exact .next (.either (commitGo_burns ..) (written ..))
  · exact .next (.either (revokeGo_burns ..) (written ..))
  · exact .next (.of (.setLog .nothing) rfl)
  · exact .next (.after (liveField_burns ..) (.after (liveField_burns ..) (written ..)))
  · exact .next (.of ((mgmtRefused_keeps ..).after (ledger_keeps ..)) rfl)

/-! ### Every command -/

/-- The commands that may change the security engine, as `mayChange` names them, one by one; any other leaves it as it was. -/
theorem exec_burns (c : Instr) (s : State) : NextBurns s (exec c s) := by
  by_cases hsec : (mayChange c).contains Block.sec = false
  · exact .of (exec_keeps c s) hsec
  · cases c
    case sendPacketReceive | relayPacketReceive | handoffPacketReceive | pagePacketReceive | weightPacketReceive
        | expertPacketReceive => exact .next (packetIn_burns ..)
    case registerWrite => exact .next (regWrite_burns ..)
    case config => exact execConfig_burns ..
    case pbPrefetchTimeout => exact .either (.next (.after (.of (waitOut_keeps ..) rfl) (pbFail_burns ..))) .idle
    case pbPrefetchDone => exact execPbPrefetchDone_burns ..
    case coreWatchdog => exact execCoreWatchdog_burns ..
    case bundleCommit => exact execBundleCommit_burns ..
    case stepCompose => exact execStepCompose_burns ..
    case stepBoundary => exact execStepBoundary_burns ..
    case stepAbandonComplete => exact execStepAbandonComplete_burns ..
    case switchRestoreDone => exact execSwitchRestoreDone_burns ..
    case thermalTrip => exact execThermalTrip_burns ..
    case supplyShutoff => exact .next (.after (.of (.setSide .nothing) rfl) (powerLoss_burns ..))
    case pwrEnAssert => exact execPwrEnAssert_burns ..
    case pwrEnDeassert => exact .next (.after (.of (.setSide .nothing) rfl) (.either (powerLoss_burns ..) .nothing))
    case bootRomStart => exact execBootRomStart_burns ..
    case imageVerified => exact execImageVerified_burns ..
    case stacksTrained => exact execStacksTrained_burns ..
    case fwActGo => exact .either .idle (.next (fwAct_burns ..))
    case coreBankSwitch => exact execCoreBankSwitch_burns ..
    case activationConfirm => exact execActivationConfirm_burns ..
    case reboot => exact execReboot_burns ..
    case secCommitGo => exact .next (.either (commitGo_burns ..) .nothing)
    case secRevokeGo => exact .next (.either (revokeGo_burns ..) .nothing)
    case fuseBlowDone => exact execFuseBlowDone_burns ..
    case getVersion => exact .next (getVersion_burns ..)
    case getCapabilities => exact .next (getCaps_burns ..)
    case negotiateAlgorithms => exact .next (negotiate_burns ..)
    case getDigests => exact .next (getDigests_burns ..)
    case getCertificate => exact .next (getCert_burns ..)
    case challenge => exact .next (challenge_burns ..)
    case getMeasurements => exact .next (getMeas_burns ..)
    case spdmUnsupported => exact .next (spdmOther_burns ..)
    case mctpPacket => exact .either .idle (.next (spdmAsk_burns ..))
    case doeAbort => exact execDoeAbort_burns ..
    case rngHealthFail => exact .either .idle (.next (.after (.of (pushErr_keeps ..) rfl) (.same rfl)))
    case rngHealthPass => exact .either .idle (.next (.same rfl))
    case jtagInstruction => exact execJtagInstruction_burns ..
    case wakeComplete => exact execWakeComplete_burns ..
    case mgmtWrite => exact execMgmtWrite_burns ..
    all_goals exact absurd rfl hsec

/-- Settles O55: a step is the command at the front of the queue (`exec_burns`), or nothing where the queue is empty. -/
theorem fusesOnlyBurn : Obligations.FusesOnlyBurn := by
  intro s t hrising hstep
  have burns : OnlyBurns s t := by
    cases hp : s.pending with
    | nil =>
      rw [step_of_pending_nil hp] at hstep
      cases hstep
      exact .nothing
    | cons c r =>
      rw [step_of_pending_cons hp] at hstep
      exact .after ((exec_burns c { s with pending := r }).burns t hstep) (.same rfl)
  exact ⟨burns.keys hrising, burns.counters hrising, burns.rising hrising⟩

end Sys2Proof.Machine
end

section
/-! PROOFS. The step and its queue (O51, O53), and the state at reset (O56). -/

namespace Sys2Proof.Machine

/-- Settles O51: the step's two equations. That an empty queue idles is the model's choice (notes/assumptions/4.md). -/
theorem stepRunsCommand : Obligations.StepRunsCommand :=
  ⟨fun _ _ _ h => step_of_pending_cons h, fun _ h => step_of_pending_nil h⟩

/-- Settles O53: the step drops the front of the queue, and no command changes the rest (`exec_keeps`). The queue is the
model's (notes/assumptions/4.md, notes/assumptions/14.md). -/
theorem queueOnlyShrinks : Obligations.QueueOnlyShrinks := by
  intro s t hstep
  cases hp : s.pending with
  | nil =>
    rw [step_of_pending_nil hp] at hstep
    cases hstep
    exact hp
  | cons c r =>
    rw [step_of_pending_cons hp] at hstep
    obtain ⟨-, hqueue⟩ := (exec_keeps c { s with pending := r }).kept t hstep
    exact hqueue

/-- An empty file of numbered records reads its reset record at every number. -/
theorem tileOf_reset (n : Nat) : tileOf State.reset n = Tile.init := rfl

theorem partOf_reset (p : Nat) : partOf State.reset p = Part.init := rfl

theorem slotOf_reset (k : Nat) : slotOf State.reset k = Slot.init := rfl

/-- Settles O56: the files of tiles, partitions and slots are empty at reset, and the registers stand at their reset values;
those no rule gives are the model's (notes/assumptions/1.md). -/
theorem resetState : Obligations.ResetState := by
  unfold Obligations.ResetState
  refine ⟨⟨rfl, rfl⟩, rfl, rfl, rfl, fun n _ => tileOf_reset n, fun n _ => ?idle, fun p _ => ?noPart, fun k _ => ?free,
    rfl, rfl, rfl, rfl⟩
  case idle => rw [tileOf_reset]; rfl
  case noPart => rw [partOf_reset]; rfl
  case free => rw [slotOf_reset]; rfl

end Sys2Proof.Machine
end

section
/-! PROOFS. Blocks that an operation leaves alone, read off what it may write; what a record leaves of the host's functions and
of the fault state; records queued as a command ends. -/

namespace Sys2Proof.Machine

section Kept
variable {l : List Block} {s u : State}

theorem Keeps.tmb_eq (h : Keeps l s u) (hl : Block.tmb ∉ l) : u.tmb = s.tmb := by
  obtain ⟨⟨htmb, -⟩, -⟩ := h
  exact htmb hl

theorem Keeps.tiles_eq (h : Keeps l s u) (hl : Block.tiles ∉ l) : u.tiles = s.tiles := by
  obtain ⟨⟨-, -, htiles, -⟩, -⟩ := h
  exact htiles hl

theorem Keeps.mem_eq (h : Keeps l s u) (hl : Block.mem ∉ l) : u.mem = s.mem := by
  obtain ⟨⟨-, -, -, hmem, -⟩, -⟩ := h
  exact hmem hl

theorem Keeps.slots_eq (h : Keeps l s u) (hl : Block.slots ∉ l) : u.slots = s.slots := by
  obtain ⟨⟨-, -, -, -, -, -, -, hslots, -⟩, -⟩ := h
  exact hslots hl

theorem Keeps.hif_eq (h : Keeps l s u) (hl : Block.hif ∉ l) : u.hif = s.hif := by
  obtain ⟨⟨-, -, -, -, -, -, -, -, hhif, -⟩, -⟩ := h
  exact hhif hl

theorem Keeps.lnk_eq (h : Keeps l s u) (hl : Block.lnk ∉ l) : u.lnk = s.lnk := by
  obtain ⟨⟨-, -, -, -, -, -, -, -, -, -, hlnk, -⟩, -⟩ := h
  exact hlnk hl

theorem Keeps.ras_eq (h : Keeps l s u) (hl : Block.ras ∉ l) : u.ras = s.ras := by
  obtain ⟨⟨-, -, -, -, -, -, -, -, -, -, -, hras, -⟩, -⟩ := h
  exact hras hl

theorem Keeps.sec_eq (h : Keeps l s u) (hl : Block.sec ∉ l) : u.sec = s.sec := by
  obtain ⟨⟨-, -, -, -, -, -, -, -, -, -, -, -, -, hsec, -⟩, -⟩ := h
  exact hsec hl

end Kept

/-! ### A record, outside the log (R453, R455) -/

section Pushed
variable (s : State) (c : RecCode) (a : ErrArgs)

/-- Of the fault state a record touches ALERT only. -/
theorem pushErr_ras : { (pushErr s c a).ras with alert := s.ras.alert } = s.ras := by
  have h := congrArg (fun v => { v.2.2.1 with alert := s.ras.alert }) (outside_pushErr (n := 0) s c a)
  exact h

/-- Of the host interface a record touches the functions only. -/
theorem pushErr_hif : { (pushErr s c a).hif with fns := s.hif.fns } = s.hif := by
  have h := congrArg (fun v => { v.2.2.2.1 with fns := s.hif.fns }) (outside_pushErr (n := 0) s c a)
  exact h

/-- Of a function a record touches the pending vectors only. -/
theorem pushErr_fn (k : Nat) : { fnOf (pushErr s c a) k with pba := (fnOf s k).pba } = fnOf s k := by
  have h := congrArg (fun v => { v.2.2.2.2.1 k with pba := (fnOf s k).pba }) (outside_pushErr (n := 0) s c a)
  exact h

/-- What does not read ALERT reads the same after a record. -/
theorem pushErr_ras_field {β : Type} (v : Ras → β) (hv : ∀ x b, v { x with alert := b } = v x) :
    v (pushErr s c a).ras = v s.ras := by
  rw [← hv (pushErr s c a).ras s.ras.alert, pushErr_ras]

/-- What does not read the functions reads the same after a record. -/
theorem pushErr_hif_field {β : Type} (v : Hif → β) (hv : ∀ x b, v { x with fns := b } = v x) :
    v (pushErr s c a).hif = v s.hif := by
  rw [← hv (pushErr s c a).hif s.hif.fns, pushErr_hif]

/-- What does not read its pending vectors reads the same of a function after a record. -/
theorem pushErr_fn_field {β : Type} (v : Fn → β) (hv : ∀ x b, v { x with pba := b } = v x) (k : Nat) :
    v (fnOf (pushErr s c a) k) = v (fnOf s k) := by
  rw [← hv (fnOf (pushErr s c a) k) (fnOf s k).pba, pushErr_fn]

@[simp] theorem unitRec_pushErr (w : UnitId) : unitRec (pushErr s c a) w = unitRec s w :=
  pushErr_ras_field s c a (fun x => (x.units.find? fun r : UnitRec => r.unit == w).getD ⟨w, .inService, [], 0, none⟩) fun _ _ => rfl

@[simp] theorem ringOf_pushErr (p r : Nat) : ringOf (pushErr s c a) p r = ringOf s p r :=
  pushErr_hif_field s c a (fun x => tabGet x.rings (p * 8 + r) Ring.init) fun _ _ => rfl

@[simp] theorem portOf_pushErr (p : Nat) : portOf (pushErr s c a) p = portOf s p :=
  congrArg (fun l : Lnk => tabGet l.ports p LnkPort.init) (pushErr_lnk s c a)

end Pushed

end Sys2Proof.Machine

namespace Sys2Proof

open Machine

/-- A state that differs from an open one in no record takes the next record as it would. -/
theorem recorded_pushErr {s t : State} (ho : QueueOpen s) {c : RecCode} {a : ErrArgs}
    (hq : t.log.errQueue = s.log.errQueue) : Recorded s (pushErr t c a) c a.detail := by
  have hopen : QueueOpen t := by rwa [QueueOpen, hq]
  obtain ⟨e, he, hc, hd⟩ := pushErr_recorded hopen c a
  exact ⟨e, hq ▸ he, hc, hd⟩

/-- A later operation that leaves the queue of records alone leaves the record where it is. -/
theorem Recorded.of_queue_eq {s t u : State} {c : RecCode} {d : List Nat} (h : Recorded s t c d)
    (hq : u.log.errQueue = t.log.errQueue) : Recorded s u c d := by
  obtain ⟨e, he, hc, hd⟩ := h
  exact ⟨e, hq.trans he, hc, hd⟩

/-- A command that answers a state, named otherwise. -/
theorem Gives.of_eq {c : Instr} {s u v : State} {P : State → Prop} (h : exec c s = .next u) (huv : u = v) (hv : P v) :
    Gives c s P := ⟨v, huv ▸ h, hv⟩

end Sys2Proof
end

section
/-! PROOFS. Fuses, entropy and the debug lock (O39); SPDM (O40). -/

namespace Sys2Proof.Machine

variable {s : State}

/-! ### SEC_COMMIT and SEC_REVOKE (R496, R497) -/

/-- A GO of SEC_COMMIT by PF0 that has a counter to raise. -/
theorem commitGo_of_lower {i : List Byte} (hbusy : secBusy s = false) (hrun : s.boot.st = .run) (himg : activeImg s = some i)
    (hlow : ctrOf s (polCtr i) < polSvn i) : ∃ c, c.fuse = some (.commit (polCtr i) (polSvn i)) ∧ c.commitSt = 1 ∧
      commitGo s .pf0 = { regLedger s .pf0 0xA0010 1 .ok with sec := c } := by
  simp only [commitGo, hbusy, hrun, himg, Nat.not_le.2 hlow, if_false, Bool.false_eq_true]
  exact ⟨_, rfl, rfl, rfl⟩

/-- A GO of SEC_REVOKE by PF0 for a key below the active image's own. -/
theorem revokeGo_of_held {i : List Byte} {k : Nat} (hbusy : secBusy s = false) (hrun : s.boot.st = .run)
    (himg : activeImg s = some i) (hbelow : k < polKey i) (hheld : s.sec.revoked.testBit k = false) :
    ∃ c, c.fuse = some (.revoke k) ∧ c.revokeSt = 1 ∧
      revokeGo s .pf0 k = { regLedger s .pf0 0xA0018 (k + 8) .ok with sec := c } := by
  simp only [revokeGo, hbusy, hrun, himg, Nat.not_le.2 hbelow, hheld, if_false, Bool.false_eq_true]
  exact ⟨_, rfl, rfl, rfl⟩

theorem badSlots_sec (s : State) (f : List Byte → Bool) : (badSlots s f).sec = s.sec :=
  (badSlots_keeps s f).sec_eq (by decide)

/-- A commit that reads back leaves its counter at the value burnt. -/
theorem commitEnd_of_good (s : State) (c v n : Nat) : ctrOf (commitEnd s c v true n) c = v ∧
    (commitEnd s c v true n).sec.fuse = none ∧ (commitEnd s c v true n).sec.commitSt = 2 := by
  simp only [commitEnd, if_true, ctrOf, ledger_sec, pushErr_sec, setCommit, badSlots_sec]
  split <;> exact ⟨tabGet_set_same .., rfl, trivial⟩

/-- A revocation that reads back leaves the key revoked. -/
theorem revokeEnd_of_good (s : State) (k : Nat) : (revokeEnd s k true).sec.revoked = s.sec.revoked ||| 2 ^ k ∧
    (revokeEnd s k true).sec.fuse = none ∧ (revokeEnd s k true).sec.revokeSt = 2 := by
  simp [revokeEnd, setRevoke, badSlots_sec, bumpMeas]

/-! ### Entropy and the debug lock (R501, R502) -/

theorem exec_rngHealthFail_of_on (hon : s.side.mainOn = true) : exec .rngHealthFail s =
    .next (pushErr { s with sec := { s.sec with rngOk := false } } .secRng {}) := by
  simp [exec, execRngHealthFail, hon]

theorem exec_rngHealthPass_of_on (hon : s.side.mainOn = true) : exec .rngHealthPass s =
    .next { s with sec := { s.sec with rngOk := true } } := by
  simp [exec, execRngHealthPass, hon]

/-- A locked TAP's first instruction beyond IDCODE and BYPASS. -/
theorem exec_jtagInstruction_of_locked {ir : Nat} (hon : s.side.mainOn = true) (hlock : s.sec.debugLock = true) (hir : 1 < ir)
    (hlast : s.sec.lastDebug = none) : exec (.jtagInstruction ir) s =
      .next (pushErr { s with sec := { s.sec with lastDebug := some (nowNs s) } } .secDebug { detail := [ir] }) := by
  simp [exec, execJtagInstruction, hon, hlock, Nat.not_le.2 hir, hlast]

theorem exec_jtagInstruction_of_plain {ir : Nat} (hir : ir ≤ 1) : exec (.jtagInstruction ir) s = .next s := by
  simp [exec, execJtagInstruction, hir]

/-- Settles O39: a GO that finds nothing under way starts its burn (`commitGo_of_lower`, `revokeGo_of_held`), and a burn that
reads back ends it (`commitEnd_of_good`, `revokeEnd_of_good`); an entropy failure and a debug attempt on a locked TAP are
recorded. -/
theorem fusesAndLock : Obligations.FusesAndLock := by
  intro s hon
  refine ⟨?commit, ?revoke, ?committed, ?revoked, fun ho => ⟨_, exec_rngHealthFail_of_on hon, ?_, ?_⟩,
    ⟨_, exec_rngHealthPass_of_on hon, rfl⟩, fun ir ho hlock hir hlast =>
      ⟨_, exec_jtagInstruction_of_locked hon hlock hir hlast, ?_, ?_⟩,
    fun ir hir => ⟨_, exec_jtagInstruction_of_plain hir, rfl⟩⟩
  case commit =>
    intro i hbusy hrun himg hlow
    obtain ⟨c, hfuse, hst, hgo⟩ := commitGo_of_lower hbusy hrun himg hlow
    exact .of_eq rfl ((if_pos hon).trans hgo) ⟨hfuse, hst⟩
  case revoke =>
    intro i k hbusy hrun himg hbelow hheld
    obtain ⟨c, hfuse, hst, hgo⟩ := revokeGo_of_held hbusy hrun himg hbelow hheld
    exact .of_eq rfl ((if_pos hon).trans hgo) ⟨hfuse, hst⟩
  case committed =>
    intro c v n hfuse
    exact ⟨_, by simp only [exec, execFuseBlowDone, hfuse], commitEnd_of_good s c v n⟩
  case revoked =>
    intro k n hfuse
    exact ⟨_, by simp only [exec, execFuseBlowDone, hfuse], revokeEnd_of_good s k⟩
  · rw [pushErr_sec]
  · exact recorded_pushErr ho rfl
  · exact recorded_pushErr ho rfl
  · rw [pushErr_sec]

/-! ### SPDM (R500, R501) -/

section Spdm
variable {t o : Transport}

@[simp] theorem connOf_emit (s : State) (x : Out) (o : Transport) : connOf (emit s x) o = connOf s o := by cases o <;> rfl

@[simp] theorem connOf_setConn_same (s : State) (t : Transport) (c : Conn) : connOf (setConn s t c) t = c := by cases t <;> rfl

theorem connOf_setConn_other (s : State) (c : Conn) (ho : o ≠ t) : connOf (setConn s t c) o = connOf s o := by
  cases t with
  | doe => cases o with
    | doe => exact absurd rfl ho
    | mctp => rfl
  | mctp => cases o with
    | doe => rfl
    | mctp => exact absurd rfl ho

@[simp] theorem connOf_pushErr (s : State) (c : RecCode) (a : ErrArgs) (o : Transport) : connOf (pushErr s c a) o = connOf s o := by
  cases o <;> simp [connOf]

/-- Every connection but that of transport `t` stands as it was. -/
structure Elsewhere (t : Transport) (s u : State) : Prop where
  stands : ∀ o, o ≠ t → connOf u o = connOf s o

theorem Elsewhere.trans {s v u : State} (h : Elsewhere t v u) (g : Elsewhere t s v) : Elsewhere t s u :=
  ⟨fun o ho => (h.stands o ho).trans (g.stands o ho)⟩

theorem Elsewhere.either {u v : State} {c : Prop} {d : Decidable c} (h : Elsewhere t s u) (g : Elsewhere t s v) :
    Elsewhere t s (if c then u else v) := by
  split
  · exact h
  · exact g

theorem emit_elsewhere (s : State) (t : Transport) (x : Out) : Elsewhere t s (emit s x) := ⟨fun _ _ => connOf_emit ..⟩

theorem pushErr_elsewhere (s : State) (t : Transport) (c : RecCode) (a : ErrArgs) : Elsewhere t s (pushErr s c a) :=
  ⟨fun _ _ => connOf_pushErr ..⟩

theorem setConn_elsewhere (s : State) (t : Transport) (c : Conn) : Elsewhere t s (setConn s t c) :=
  ⟨fun _ ho => connOf_setConn_other s c ho⟩

theorem drawNonce_elsewhere (s : State) (t : Transport) : Elsewhere t s (drawNonce s).1 :=
  ⟨fun o _ => by cases o <;> rfl⟩

/-- An answer: what the asking connection then holds, and every other connection as it was. -/
structure Answered (s u : State) (t : Transport) (code : Nat) (body : List Nat) (stage : Nat) : Prop where
  resp : (connOf u t).resp = some (code, body)
  stage : (connOf u t).stage = stage
  others : Elsewhere t s u

theorem spdmSay_answered (s : State) (t : Transport) (code : Nat) (body : List Nat) (stage : Nat) (req : List Nat) :
    Answered s (spdmSay s t code body stage req) t code body stage := by
  unfold spdmSay
  exact ⟨by simp, by simp, (emit_elsewhere ..).trans (setConn_elsewhere ..)⟩

theorem spdmErr_answered (s : State) (t : Transport) (e : Nat) :
    Answered s (spdmErr s t e) t 0x7F [e] (connOf s t).stage := by
  unfold spdmErr
  exact ⟨by simp, by simp, (emit_elsewhere ..).trans (setConn_elsewhere ..)⟩

/-- A signed answer, while the entropy source stands. -/
theorem spdmSigned_answered (hrng : s.sec.rngOk = true) (t : Transport) (code : Nat) (req body : List Nat) :
    ∃ b, Answered s (spdmSigned s t code req body) t code b 3 := by
  simp only [spdmSigned, hrng, Bool.not_true, Bool.false_eq_true, if_false]
  obtain ⟨hresp, hstage, hothers⟩ := spdmSay_answered (drawNonce s).1 t code _ 3 req
  exact ⟨_, hresp, hstage, hothers.trans (drawNonce_elsewhere s t)⟩

/-- A request that its connection's stage allows, with the module in RUN. -/
theorem spdmGuard_of_allowed {n : Nat} {f : State → State} (hby : s.side.standby = true) (hon : s.side.mainOn = true)
    (hrun : s.boot.st = .run) (hstage : n ≤ (connOf s t).stage) : spdmGuard s t n f = f s := by
  simp [spdmGuard, hby, hon, hrun, Nat.not_lt.2 hstage]

/-! ### A request leaves the other connection alone, also where it is refused -/

theorem spdmGuard_elsewhere {f : State → State} (n : Nat) (hf : Elsewhere t s (f s)) : Elsewhere t s (spdmGuard s t n f) := by
  fun_cases spdmGuard s t n f
  · exact ⟨fun _ _ => rfl⟩
  · exact (spdmErr_answered ..).others
  · exact (spdmErr_answered ..).others
  · exact hf

theorem spdmSigned_elsewhere (s : State) (t : Transport) (code : Nat) (req body : List Nat) :
    Elsewhere t s (spdmSigned s t code req body) := by
  unfold spdmSigned
  exact .either (spdmErr_answered ..).others ((spdmSay_answered ..).others.trans (drawNonce_elsewhere s t))

theorem spdmAsk_elsewhere (s : State) (t : Transport) (q : Spdm) : Elsewhere t s (spdmAsk s t q) := by
  have refused (e : Nat) : Elsewhere t s (spdmErr s t e) := (spdmErr_answered ..).others
  have said (code : Nat) (body : List Nat) (stage : Nat) (req : List Nat) : Elsewhere t s (spdmSay s t code body stage req) :=
    (spdmSay_answered ..).others
  cases q <;> simp only [spdmAsk, getVersion, getCaps, negotiate, getDigests, getCert, challenge, getMeas, spdmOther] <;>
    refine spdmGuard_elsewhere _ ?_
  case getVersion => exact (spdmSay_answered ..).others.trans (setConn_elsewhere ..)
  case getCapabilities => exact said ..
  case negotiate => exact .either (said ..) ((pushErr_elsewhere ..).trans (refused _))
  case getDigests => exact said ..
  case getCertificate => exact .either (said ..) (refused _)
  case challenge => exact .either (spdmSigned_elsewhere ..) (refused _)
  case getMeasurements => exact .either (refused _) (spdmSigned_elsewhere ..)
  case other => exact (pushErr_elsewhere ..).trans (refused _)

/-- Index 0 asks for the number of indices, an answer that is never empty. -/
theorem exec_getMeasurements_count {nonce : Nat} (allowed : ∀ f, spdmGuard s t 3 f = f s) :
    exec (.getMeasurements t 0 nonce) s = .next (spdmSigned s t 0x60 [0xE0, 0, nonce] [(measIdx s).length]) := by
  simp [exec, execGetMeasurements, getMeas, allowed]

end Spdm

/-- Settles O40: with the module in RUN a request its connection's stage allows passes the guard (`spdmGuard_of_allowed`), and
its answer is on its own connection (`spdmSay_answered`, `spdmErr_answered`, `spdmSigned_answered`). The codes and payloads
are DSP0274's (notes/assumptions/17.md). -/
theorem spdmAnswers : Obligations.SpdmAnswers := by
  intro t s hby hon hrun only
  have allowed {n : Nat} {f : State → State} (h : n ≤ (connOf s t).stage) : spdmGuard s t n f = f s :=
    spdmGuard_of_allowed hby hon hrun h
  refine ⟨.of_eq rfl (allowed (Nat.zero_le _)) ?version, fun h => .of_eq rfl (allowed h) ?caps,
    fun h => .of_eq rfl (allowed h) ?algs, fun h => .of_eq rfl (allowed h) ?digests,
    fun h => .of_eq rfl (allowed h) ?cert, fun nonce h hrng => .of_eq rfl (allowed h) ?challenge,
    fun nonce h hrng => ⟨_, exec_getMeasurements_count fun _ => allowed h, ?measure⟩,
    fun code ho => .of_eq rfl (allowed (Nat.zero_le _)) ?other,
    ⟨_, rfl, rfl, rfl⟩, fun q => ⟨_, by simp only [exec, execMctpPacket, hon]; rfl, rfl,
      (spdmAsk_elsewhere s .mctp q).stands .doe nofun⟩⟩
  case version =>
    obtain ⟨hresp, hstage, hothers⟩ := spdmSay_answered (setConn s t Conn.init) t 0x04 [0x12, 0x13] 1 [0x84]
    exact ⟨hresp, hstage, (hothers.trans (setConn_elsewhere ..)).stands⟩
  case caps | algs =>
    obtain ⟨hresp, hstage, hothers⟩ := spdmSay_answered ..
    exact ⟨hresp, hstage, hothers.stands⟩
  case digests | cert =>
    obtain ⟨hresp, -, hothers⟩ := spdmSay_answered ..
    exact ⟨hresp, hothers.stands⟩
  case challenge | measure =>
    obtain ⟨b, hresp, -, hothers⟩ := spdmSigned_answered hrng ..
    exact ⟨hothers.stands, b, hresp⟩
  case other =>
    obtain ⟨hresp, -, hothers⟩ := spdmErr_answered s t 7
    refine ⟨by rw [connOf_pushErr, hresp], recorded_pushErr ho ?_, ((pushErr_elsewhere ..).trans hothers).stands⟩
    exact congrArg Log.errQueue ((spdmErr_keeps s t 7).log_eq (by decide))

end Sys2Proof.Machine
end

section
/-! PROOFS. What a record leaves of the logs (R453); the newest ledger entry (R420). -/

namespace Sys2Proof.Machine

/-- The logs but the record writer's own: its queue, its ring, and what it lost or dropped. -/
def Log.unwritten (l : Log) : Log := { l with errQueue := [], errRing := [], errSeq := 0, lost := [], dropped := 0 }

theorem unwritten_writeErr (s : State) (e : ErrRec) : (writeErr s e).log.unwritten = s.log.unwritten := by
  unfold writeErr
  dsimp only
  split
  · rfl
  · split <;> simp only [emit, fire_log] <;> rfl

theorem unwritten_drainErrs (n : Nat) (s : State) : (drainErrs n s).log.unwritten = s.log.unwritten := by
  unfold drainErrs
  rw [foldl_same (fun t : State => t.log.unwritten) unwritten_writeErr]
  rfl

theorem unwritten_queueErr (s : State) (e : ErrRec) : (queueErr s e).log.unwritten = s.log.unwritten := rfl

theorem unwritten_pushErr (s : State) (c : RecCode) (a : ErrArgs) : (pushErr s c a).log.unwritten = s.log.unwritten := by
  unfold pushErr
  dsimp only
  split
  · rfl
  · rw [unwritten_queueErr, unwritten_drainErrs]

/-- What does not read the record writer's part of the logs reads the same after a record. -/
theorem pushErr_log_field {β : Type} (v : Log → β) (hv : ∀ l, v l.unwritten = v l) (s : State) (c : RecCode) (a : ErrArgs) :
    v (pushErr s c a).log = v s.log := by
  rw [← hv (pushErr s c a).log, unwritten_pushErr, hv]

@[simp] theorem pushErr_ledger (s : State) (c : RecCode) (a : ErrArgs) : (pushErr s c a).log.ledger = s.log.ledger :=
  pushErr_log_field Log.ledger (fun _ => rfl) s c a

@[simp] theorem journalOf_pushErr (s : State) (c : RecCode) (a : ErrArgs) (p : Nat) :
    journalOf (pushErr s c a) p = journalOf s p :=
  pushErr_log_field (fun l => tabGet l.journals p Journal.init) (fun _ => rfl) s c a

@[simp] theorem ledger_errQueue (s : State) (o : Origin) (a : LedgerArgs) :
    (ledger s o a).log.errQueue = s.log.errQueue := rfl

/-- The entry just written is the newest one kept. -/
theorem getLast?_ledger (s : State) (o : Origin) (a : LedgerArgs) :
    (ledger s o a).log.ledger.getLast? = some (ledgerEntry s o a) := by
  simp only [ledger, pushLedger]
  rw [List.getLast?_drop, if_neg (by simp), List.getLast?_concat]

theorem ledger_ledgered (s : State) (o : Origin) (a : LedgerArgs) :
    Ledgered a.obj a.target a.status (ledger s o a) :=
  ⟨_, getLast?_ledger s o a, rfl, rfl, rfl⟩

theorem ledgered_of_ledger_eq {obj target : Nat} {st : Status} {u v : State} (h : Ledgered obj target st u)
    (hv : v.log.ledger = u.log.ledger) : Ledgered obj target st v := by
  obtain ⟨e, he, hfields⟩ := h
  exact ⟨e, hv ▸ he, hfields⟩

end Sys2Proof.Machine
end

section
/-! PROOFS. The sideband pins (O44) and the management port (O45). -/

namespace Sys2Proof.Machine

variable {s : State}

@[simp] theorem tabGet_tabMod_same {α : Type} [DecidableEq α] (t : Tab α) (k : Nat) (d : α) (f : α → α) :
    tabGet (tabMod t k d f) k d = f (tabGet t k d) := tabGet_set_same ..

theorem tabGet_sideCountUp (s : State) (i : Nat) :
    tabGet (sideCountUp s i).side.counts i 0 = satAdd 16 (tabGet s.side.counts i 0) 1 := by
  simp [sideCountUp]

/-! ### Pins (R533, R535, R536, R537) -/

/-- A glitch of an input with a filter counts, whether or not it is recorded. -/
theorem exec_sideInputGlitch_of_counted {i : SideInput} {c : Nat} (hon : s.side.mainOn = true) (hc : glitchCount i = some c) :
    ∃ u, exec (.sideInputGlitch i) s = .next u ∧ u.side.counts = (sideCountUp s c).side.counts := by
  simp only [exec, execSideInputGlitch, hon, hc]
  split
  · exact ⟨_, rfl, rfl⟩
  · exact ⟨_, rfl, by rw [pushErr_side]⟩

theorem exec_perstStuckTimeout_of_due (hon : s.side.mainOn = true) (hp : s.side.perst = true) (hs : s.side.perstStuck = false)
    (hdue : s.side.perstAt + 10000000000 < nowNs s) : exec .perstStuckTimeout s =
      .next (pushErr { s with side := { s.side with perstStuck := true } } .sideStuck { detail := [1] }) := by
  simp [exec, execPerstStuckTimeout, hon, hp, hs, hdue]

/-- An edge out of its window is counted and ends the run of good ones. -/
theorem exec_gsyncEdge_of_outside {off : Int} (hon : s.side.mainOn = true) (hoff : off < -5000 ∨ 5000 < off) :
    exec (.gsyncEdge off) s = .next { sideCountUp s 4 with side := { (sideCountUp s 4).side with gsyncRun := 0 } } := by
  simp [exec, execGsyncEdge, hon, hoff]

/-- Without the lock a good edge that does not yet complete the run of 1,000 is only noted. -/
theorem exec_gsyncEdge_of_early {off : Int} (hon : s.side.mainOn = true) (hlow : -5000 ≤ off) (hhigh : off ≤ 5000)
    (hlock : s.side.gsyncLock = false) (hrun : s.side.gsyncRun + 1 < 1000) :
    Gives (.gsyncEdge off) s fun u => u.side.gsyncRun = s.side.gsyncRun + 1 ∧ u.tmb = s.tmb := by
  have hin : ¬ (off < -5000 ∨ 5000 < off) := by omega
  simp [Gives, exec, execGsyncEdge, gsyncExpect, hon, hin, hlock, Nat.not_le.2 hrun]

/-- Without the lock a missing edge is counted and ends the run of good ones. -/
theorem exec_gsyncMissing_of_unlocked (hon : s.side.mainOn = true) (hlock : s.side.gsyncLock = false) :
    Gives .gsyncMissing s fun u => u.side.gsyncRun = 0 ∧
      tabGet u.side.counts 5 0 = satAdd 16 (tabGet s.side.counts 5 0) 1 := by
  have hcounted : (sideCountUp s 5).side.gsyncLock = false := hlock
  simp [Gives, exec, execGsyncMissing, gsyncExpect, hon, hcounted, tabGet_sideCountUp]

theorem exec_modidSample_of_agreeing {v : BitVec 6} {further : List (BitVec 6)} (hon : s.side.mainOn = true)
    (hfirst : s.side.sampled = false) : ∃ pins, exec (.modidSample (List.replicate 8 v) further) s =
      .next (takeModId s v.toNat pins) := by
  simp [exec, execModidSample, hon, hfirst]

theorem exec_modidPinChange_of_sampled {pins : BitVec 6} (hon : s.side.mainOn = true) (hs : s.side.sampled = true) :
    exec (.modidPinChange pins) s =
      .next (pushErr (sideCountUp { s with side := { s.side with modPins := pins.toNat } } 6) .sideModid
        { detail := [4, s.side.modId, pins.toNat, 0] }) := by
  simp [exec, execModidPinChange, hon, hs]

/-- Settles O44: each pin's event has one way to go on the guard its clause names, and what it counts or records follows. -/
theorem sidePins : Obligations.SidePins := by
  intro s hon
  refine ⟨?glitch, fun hp hs hdue ho => ⟨_, exec_perstStuckTimeout_of_due hon hp hs hdue, ?_, recorded_pushErr ho rfl⟩,
    ⟨_, rfl, rfl⟩, fun off hoff => ⟨_, exec_gsyncEdge_of_outside hon hoff, rfl, tabGet_sideCountUp .., rfl⟩,
    fun off hlow hhigh hlock hrun => exec_gsyncEdge_of_early hon hlow hhigh hlock hrun,
    exec_gsyncMissing_of_unlocked hon, ?sample,
    fun pins hs ho => ⟨_, exec_modidPinChange_of_sampled hon hs, ?_, ?_, recorded_pushErr ho rfl⟩⟩
  case glitch =>
    intro i c hc
    obtain ⟨u, hu, hcounts⟩ := exec_sideInputGlitch_of_counted hon hc
    exact ⟨u, hu, (congrArg (tabGet · c 0) hcounts).trans (tabGet_sideCountUp s c)⟩
  case sample =>
    intro v further hfirst
    obtain ⟨pins, hu⟩ := exec_modidSample_of_agreeing (v := v) (further := further) hon hfirst
    exact ⟨_, hu, rfl, rfl, rfl⟩
  · rw [pushErr_side]
  · rw [pushErr_side]; rfl
  · rw [pushErr_side]; rfl

/-! ### The management port (R538, R539) -/

theorem exec_mgmtRead_of_reached {off : Nat} (hon : s.side.mainOn = true) (hr : mgmtReads off = true) :
    exec (.mgmtRead off) s = .next (emit (readReg s .mgmt off 8).1 (.mgmt (leBytes 8 (readReg s .mgmt off 8).2))) := by
  simp [exec, execMgmtRead, hon, hr]

theorem exec_mgmtRead_of_unreached {off : Nat} (hon : s.side.mainOn = true) (hr : mgmtReads off = false) :
    exec (.mgmtRead off) s = .next (mgmtRefused s 0xA0 off) := by
  simp [exec, execMgmtRead, hon, hr]

theorem exec_mgmtWrite_ledgerSel {v : Nat} (hon : s.side.mainOn = true) (hst : s.boot.st ≠ .recovery) :
    exec (.mgmtWrite 0xB0008 v) s = .next { s with log := { s.log with ledgerSel := v % 2 ^ 64 } } := by
  simp [exec, execMgmtWrite, hon, hst]

/-- A write of a register that takes none from this port enters the ledger and is refused. -/
theorem exec_mgmtWrite_of_unlisted {off v : Nat} (hon : s.side.mainOn = true)
    (hoff : off ∉ [0x10020, 0x28, 0x30, 0x40, 0xA0010, 0xA0018, 0xB0008, 0xC0008]) : exec (.mgmtWrite off v) s =
      .next (mgmtRefused (ledger s .mgmt
        { obj := 0, act := 5, status := .notPermitted, width := 8, target := off, new := v % 2 ^ 64 }) 0xA1 off) := by
  simp only [List.mem_cons, List.not_mem_nil, or_false, not_or] at hoff
  obtain ⟨hsleep, hlen, himg, hact, hcommit, hrevoke, hsel, hstuck⟩ := hoff
  simp [exec, execMgmtWrite, *]

theorem exec_mgmtImageData_of_taken {off : Nat} {bs : List Byte} (hon : s.side.mainOn = true)
    (hfree : ¬ (s.boot.imgSt = 1 ∧ s.boot.byMgmt = true)) (hne : bs ≠ []) (hlen : bs.length ≤ 240)
    (hend : off + bs.length ≤ 24 * 2 ^ 20) : exec (.mgmtImageData off bs) s =
      .next { s with boot := { s.boot with staging := s.boot.staging.writeRun off bs } } := by
  have hend' : ¬ 24 * 2 ^ 20 < off + bs.length := Nat.not_lt.2 hend
  have hlen' : ¬ 240 < bs.length := Nat.not_lt.2 hlen
  simp only [exec, execMgmtImageData, hon, hne, hlen', hend', List.isEmpty_iff, Bool.not_true, Bool.or_eq_true,
    Bool.and_eq_true, decide_eq_true_eq, hfree, or_false, if_false, Bool.false_eq_true]

theorem exec_mgmtBadByte_of_bad {b : Byte} (hon : s.side.mainOn = true) (hmctp : b ≠ 0x01)
    (hb : b.toNat < 0xA0 ∨ 0xA2 < b.toNat) :
    exec (.mgmtBadByte b) s = .next (emit (sideCountUp s 7) (.reply .mgmt 0 .nack)) := by
  have hout : ¬ (0xA0 ≤ b.toNat ∧ b.toNat ≤ 0xA2) := by omega
  have hfirst : (b == 0x01) = false := beq_false_of_ne hmctp
  simp only [exec, execMgmtBadByte, hon, hfirst, ← Bool.decide_and, hout, Bool.not_true, Bool.false_or, decide_false,
    Bool.false_eq_true, if_false]

/-- Settles O45: a read of a block the port reaches answers the register, any other is refused with its record; of the writes
the ledger's selector is taken and one of no listed register refused; image data goes to staging unless a GO from this port
uses it; a bad byte is answered NACK and counted. -/
theorem managementPort : Obligations.ManagementPort := by
  intro s hon
  refine ⟨fun a => ⟨_, by simp [exec, execI3cDaa, hon]; rfl, rfl, rfl⟩,
    fun off hr => ⟨_, exec_mgmtRead_of_reached hon hr, rfl⟩,
    fun off hr ho => ⟨_, exec_mgmtRead_of_unreached hon hr, recorded_pushErr ho rfl⟩,
    fun v hst => ⟨_, exec_mgmtWrite_ledgerSel hon hst, rfl⟩,
    fun off v ho hoff => ⟨_, exec_mgmtWrite_of_unlisted hon hoff, recorded_pushErr ho rfl,
      ledgered_of_ledger_eq (ledger_ledgered ..) (pushErr_ledger ..)⟩,
    fun off bs hfree hne hlen hend => ⟨_, exec_mgmtImageData_of_taken hon hfree hne hlen hend, rfl, rfl⟩,
    fun b hmctp hb => ⟨_, exec_mgmtBadByte_of_bad hon hmctp hb, rfl, tabGet_sideCountUp ..⟩⟩

end Sys2Proof.Machine
end

section
/-! PROOFS. The dies' power state; sleep, wake and main power (O43). -/

namespace Sys2Proof.Machine

variable {s : State}

/-- A fold attains at `a` what its step at `a` establishes and every step keeps. -/
theorem foldl_attains {α : Type} {P : State → Prop} {f : State → α → State} {a : α} {as : List α} (ha : a ∈ as)
    (hset : ∀ t, P (f t a)) (hkeep : ∀ t b, P t → P (f t b)) (s : State) : P (as.foldl f s) := by
  induction as generalizing s with
  | nil => exact absurd ha List.not_mem_nil
  | cons b r ih =>
    by_cases hb : a ∈ r
    · exact ih hb _
    · have hab : a = b := (List.mem_cons.1 ha).resolve_right hb
      exact List.foldlRecOn r f (hab ▸ hset s) fun t ht c _ => hkeep t c ht

/-! ### The dies' power state -/

theorem dieOf_modDie_other (s : State) {d i : Nat} (f : DiePwr → DiePwr) (h : i ≠ d) : dieOf (modDie s d f) i = dieOf s i :=
  tabGet_set_other _ _ _ _ _ h

/-- A change of one die keeps at every die what it keeps at its own. -/
theorem dieOf_modDie_keeps {P : DiePwr → Prop} {d i : Nat} {f : DiePwr → DiePwr} (hf : P (dieOf s d) → P (f (dieOf s d)))
    (h : P (dieOf s i)) : P (dieOf (modDie s d f) i) := by
  by_cases hi : i = d
  · subst hi
    rw [dieOf_modDie_same]
    exact hf h
  · rwa [dieOf_modDie_other s f hi]

theorem Keeps.dieOf_eq {l : List Block} {u : State} (h : Keeps l s u) (hl : Block.pwr ∉ l) (d : Nat) : dieOf u d = dieOf s d :=
  congrArg (fun x : Pwr => tabGet x.dies d DiePwr.init) (h.pwr_eq hl)

theorem dieOf_of_dies_eq {u : State} (h : u.pwr.dies = s.pwr.dies) (d : Nat) : dieOf u d = dieOf s d :=
  congrArg (tabGet · d DiePwr.init) h

/-- The power manager's state but the dies'. -/
def Pwr.exceptDies (x : Pwr) : Pwr := { x with dies := [] }

@[simp] theorem exceptDies_modDie (s : State) (d : Nat) (f : DiePwr → DiePwr) :
    (modDie s d f).pwr.exceptDies = s.pwr.exceptDies := rfl

theorem exceptDies_planDie (s : State) (d grant : Nat) : (planDie s d grant).pwr.exceptDies = s.pwr.exceptDies := by
  simp [planDie]

theorem exceptDies_powerDown (s : State) (d : Nat) : (powerDown s d).pwr.exceptDies = s.pwr.exceptDies := rfl

theorem exceptDies_powerUp (s : State) (d : Nat) : (powerUp s d).pwr.exceptDies = s.pwr.exceptDies := rfl

/-- A field of the power manager's state outside the dies'. -/
theorem pwr_field_of_exceptDies {β : Type} {u : State} (v : Pwr → β) (hv : ∀ x : Pwr, v x.exceptDies = v x)
    (h : u.pwr.exceptDies = s.pwr.exceptDies) : v u.pwr = v s.pwr := by
  rw [← hv u.pwr, h, hv]

theorem powered_powerDown_same (s : State) (d : Nat) : (dieOf (powerDown s d) d).powered = false := by
  simp [powerDown, DiePwr.init]

theorem unpowered_powerDown {i : Nat} (d : Nat) (h : (dieOf s i).powered = false) : (dieOf (powerDown s d) i).powered = false :=
  dieOf_modDie_keeps (P := fun x => x.powered = false) (fun _ => rfl) h

theorem powered_powerUp_same (s : State) (d : Nat) : (dieOf (powerUp s d) d).powered = true := by
  simp [powerUp]

theorem powered_powerUp {i : Nat} (d : Nat) (h : (dieOf s i).powered = true) : (dieOf (powerUp s d) i).powered = true :=
  dieOf_modDie_keeps (P := fun x => x.powered = true) (fun _ => rfl) h

/-! ### Sleep and wake (R516 to R519) -/

theorem sleepLedger_pwr (s : State) (o : Origin) (v act : Nat) (st : Status) :
    (sleepLedger s o v act st).pwr = { s.pwr with sleepStatus := st } := rfl

theorem exec_sleepRequest_of_awake (hon : s.side.mainOn = true) (hst : s.boot.st ≠ .recovery) (hs : s.pwr.sleep = .awake) :
    exec (.sleepRequest .pf0) s = .next (if canSleep s then
      sleepLedger { s with pwr := { s.pwr with sleep := .entering } } .pf0 1 0 .ok else sleepLedger s .pf0 1 5 .busy) := by
  simp [exec, execSleepRequest, sleepAsk, regOrigin, hon, hst, hs]

theorem exec_wakeRequest_of_on (hon : s.side.mainOn = true) (hst : s.boot.st ≠ .recovery) :
    exec (.wakeRequest .pf0) s = .next (wakeAsk s .pf0) := by
  simp [exec, execWakeRequest, regOrigin, hon, hst]

/-- Asleep, a wake source begins the wake. -/
theorem wakeUp_of_asleep (hs : s.pwr.sleep = .asleep) (w : WakeSource) :
    (wakeUp s w).pwr.sleep = .waking ∧ (wakeUp s w).pwr.selfWake = s.pwr.selfWake := by
  simp [wakeUp, hs]

theorem exec_scrubWake_of_asleep (hs : s.pwr.sleep = .asleep) :
    exec .scrubWake s = .next (wakeUp { s with pwr := { s.pwr with selfWake := true } } .scrub) := if_pos hs

/-- The state in which sleep is entered, before its record (R516). -/
def asleepDies (s : State) : State := ((List.range 16) ++ [17, 18, 19]).foldl powerDown (forParts s saveRunning)

theorem unpowered_asleepDies (s : State) {d : Nat} (hd : d < 16) : (dieOf (asleepDies s) d).powered = false :=
  foldl_attains (P := fun t => (dieOf t d).powered = false) (List.mem_append_left _ (List.mem_range.2 hd))
    (fun _ => powered_powerDown_same ..) (fun _ _ => unpowered_powerDown _) _

/-- With no wake source pending the entry ends asleep, the compute dies off. -/
theorem exec_sleepEntered_of_entering (hs : s.pwr.sleep = .entering) (hw : s.pwr.wakePend = none) :
    ∃ u, exec .sleepEntered s = .next u ∧ u.pwr = { (asleepDies s).pwr with sleep := .asleep } := by
  simp only [exec, execSleepEntered, hs, hw, ne_eq, not_true, if_false]
  exact ⟨_, rfl, by rw [pushErr_pwr]; rfl⟩

/-- What the end of a wake does after the dies are powered leaves the power state alone but for SLEEP's own fields. -/
theorem exec_wakeComplete_of_waking (hs : s.pwr.sleep = .waking) :
    ∃ u, exec .wakeComplete s = .next u ∧
      u.pwr = { ((wakeDies s).foldl powerUp s).pwr with sleep := .awake, wakePend := none, parked := [] } := by
  have back (t : State) : (forParts t contextBack).pwr = t.pwr :=
    (forParts_keeps_of fun _ _ => contextBack_keeps ..).pwr_eq (by decide)
  have parked (t : State) : (s.pwr.parked.foldl applyParked t).pwr = t.pwr :=
    (Keeps.fold (fun _ _ => applyParked_keeps ..) .nothing).pwr_eq (by decide)
  have staged (t : State) : (forParts t fun s p => applyStaged s p 0).pwr = t.pwr :=
    (forParts_keeps_of fun _ _ => applyStaged_keeps ..).pwr_eq (by decide)
  simp only [exec, execWakeComplete, hs, ne_eq, not_true, if_false]
  exact ⟨_, rfl, by rw [(refreshRoutes_keeps _).pwr_eq (by decide), staged, parked, back]⟩

theorem exec_pwrEnAssert_of_off (hby : s.side.standby = true) (hoff : s.side.mainOn = false) :
    exec .pwrEnAssert s = .next { powerLoss s with side := { (powerLoss s).side with
      mainOn := true, pwrEn := true, throttle := (powerLoss s).side.thrPin } } := by
  simp [exec, execPwrEnAssert, hby, hoff]

/-- Settles O43: a sleep is asked of an idle module only; its entry powers the compute dies down and its end powers the dies of
`wakeDies` up (`foldl_attains`); main power brings the reset state with the fuses, and takes it away. -/
theorem sleepAndPower : Obligations.SleepAndPower := by
  intro s
  refine ⟨fun hon hst hs hcan => ⟨_, exec_sleepRequest_of_awake hon hst hs, ?_⟩,
    fun hon hst hs hcan => ⟨_, exec_sleepRequest_of_awake hon hst hs, ?_⟩, ?entered,
    fun hon hst hs => ⟨_, exec_wakeRequest_of_on hon hst, ?_⟩, ?woken,
    fun hs => ⟨_, exec_scrubWake_of_asleep hs, wakeUp_of_asleep (s := { s with pwr := { s.pwr with selfWake := true } }) hs _⟩,
    fun hby hoff => ⟨_, exec_pwrEnAssert_of_off hby hoff, rfl, rfl, rfl, rfl, rfl⟩, ⟨_, rfl, rfl, ?_⟩, ⟨_, rfl, rfl⟩⟩
  · simp [hcan, sleepLedger_pwr]
  · simp [hcan, sleepLedger_pwr, hs]
  case entered =>
    intro hs hw
    obtain ⟨u, hu, hpwr⟩ := exec_sleepEntered_of_entering hs hw
    refine ⟨u, hu, by rw [hpwr], fun d hd => ?_⟩
    rw [dieOf_of_dies_eq (s := asleepDies s) (by rw [hpwr])]
    exact unpowered_asleepDies s hd
  · exact (wakeUp_of_asleep (by simp [sleepLedger_pwr, hs]) _).1
  case woken =>
    intro hs _ _
    obtain ⟨u, hu, hpwr⟩ := exec_wakeComplete_of_waking hs
    refine ⟨u, hu, by rw [hpwr], fun d hd _ => ?_⟩
    rw [dieOf_of_dies_eq (s := (wakeDies s).foldl powerUp s) (by rw [hpwr])]
    exact foldl_attains (P := fun t => (dieOf t d).powered = true) hd (fun _ => powered_powerUp_same ..)
      (fun _ _ => powered_powerUp _) s
  · show (if s.side.mainOn = true then powerLoss s else s).side.mainOn = false
    split
    · rfl
    · exact Bool.eq_false_iff.2 ‹_›

end Sys2Proof.Machine
end

section
/-! PROOFS. The millisecond's readings and temperatures (O41); trips, the throttle pin and the supply (O42). -/

namespace Sys2Proof.Machine

variable {s : State}

/-! ### The grant tick (R507, R510, R511) -/

/-- The check counts an excess and may record it; the readings and the dies stand. -/
theorem budgetCheck_readings (s : State) (p1 p10 : Nat) : (budgetCheck s p1 p10).pwr.vin = s.pwr.vin ∧
    (budgetCheck s p1 p10).pwr.iin = s.pwr.iin ∧ (budgetCheck s p1 p10).pwr.p1 = s.pwr.p1 ∧
    (budgetCheck s p1 p10).pwr.p10 = s.pwr.p10 ∧ (budgetCheck s p1 p10).pwr.dies = s.pwr.dies := by
  simp only [budgetCheck]
  split
  · simp only [pushErr_pwr, and_self]
  · exact ⟨rfl, rfl, rfl, rfl, rfl⟩

/-- A die takes its power of the last millisecond. -/
def meterDie (ws : List Nat) (s : State) (d : Nat) : State := modDie s d fun x => { x with powerW := ws.getD d 0 }

theorem powerW_planDie (s : State) (d grant i : Nat) : (dieOf (planDie s d grant) i).powerW = (dieOf s i).powerW := by
  refine dieOf_modDie_keeps (P := fun x => x.powerW = (dieOf s i).powerW) ?_ rfl
  intro h
  split
  · exact h
  · split <;> exact h

/-- The tick meters each powered compute die, then plans it. -/
theorem exec_powerGrantTick_of_on (hon : s.side.mainOn = true) (mv ma p1 p10 : Nat) (ws : List Nat) :
    let s2 := budgetCheck { s with pwr := { s.pwr with vin := mv, iin := ma, p1 := p1, p10 := p10 } } p1 p10
    let on := (List.range 16).filter fun d => (dieOf s2 d).powered
    ∃ grant, exec (.powerGrantTick mv ma p1 p10 ws) s =
      .next (on.foldl (fun s d => planDie s d grant) (on.foldl (meterDie ws) s2)) := by
  simp only [exec, execPowerGrantTick, hon, Bool.not_true, Bool.false_eq_true, if_false]
  exact ⟨_, rfl⟩

theorem powerW_metered {ws : List Nat} {on : List Nat} {d grant : Nat} (hd : d ∈ on) (s : State) :
    (dieOf (on.foldl (fun s d => planDie s d grant) (on.foldl (meterDie ws) s)) d).powerW = ws.getD d 0 := by
  rw [foldl_same (fun t => (dieOf t d).powerW) fun t i => powerW_planDie t i grant d]
  refine foldl_attains (P := fun t => (dieOf t d).powerW = ws.getD d 0) hd (fun t => ?_) (fun t b h => ?_) s
  · rw [meterDie, dieOf_modDie_same]
  · by_cases hb : d = b
    · subst hb
      rw [meterDie, dieOf_modDie_same]
    · rw [meterDie, dieOf_modDie_other t _ hb, h]

theorem exceptDies_metered (ws on : List Nat) (grant : Nat) (s : State) :
    (on.foldl (fun s d => planDie s d grant) (on.foldl (meterDie ws) s)).pwr.exceptDies = s.pwr.exceptDies := by
  rw [foldl_same (fun t : State => t.pwr.exceptDies) fun t d => exceptDies_planDie t d grant]
  exact foldl_same (fun t : State => t.pwr.exceptDies) (f := meterDie ws) (fun _ _ => rfl) on s

/-! ### Temperatures (R508, R509, R512) -/

theorem takeTemps_dies (s : State) (d : Nat) (temps : List Int) : (takeTemps s d temps).pwr.dies = s.pwr.dies := by
  unfold takeTemps
  refine (foldl_same (fun t : State => t.pwr.dies) ?_ _ _).trans (foldl_same (fun t : State => t.pwr.dies) ?_ _ _) <;>
    exact fun _ _ => rfl

/-- The readings the tick uses of a die. -/
def usedTemps (s : State) (d : Nat) (north south : List Int) (io : Int) : List Int :=
  if d < 16 then (List.range 64).map fun i => tempUsed (takeTemps s d (dieTemps north south)) (d * 64 + i) else [io]

/-- What the tick makes of v_limit's drop. -/
def dropOf (s : State) (d : Nat) (tmax : Int) : Nat :=
  if 16 ≤ d then 0 else if tmax > envTj s.pwr.envelope * 4 then (dieOf s d).drop + 10
  else if tmax ≤ envTj s.pwr.envelope * 4 - 12 then (dieOf s d).drop - 5 else (dieOf s d).drop

theorem dropOf_of_hot {d : Nat} {tmax : Int} (hd : d < 16) (h : envTj s.pwr.envelope * 4 < tmax) :
    dropOf s d tmax = (dieOf s d).drop + 10 := by
  simp [dropOf, Nat.not_le.2 hd, h]

theorem dropOf_of_cool {d : Nat} {tmax : Int} (hd : d < 16) (h : tmax ≤ envTj s.pwr.envelope * 4 - 12) :
    dropOf s d tmax = (dieOf s d).drop - 5 := by
  have hhot : ¬ envTj s.pwr.envelope * 4 < tmax := by omega
  simp [dropOf, Nat.not_le.2 hd, hhot, h]

theorem dropOf_of_between {d : Nat} {tmax : Int} (hd : d < 16) (hlow : envTj s.pwr.envelope * 4 - 12 < tmax)
    (hhigh : tmax ≤ envTj s.pwr.envelope * 4) : dropOf s d tmax = (dieOf s d).drop := by
  simp [dropOf, Nat.not_le.2 hd, Int.not_lt.2 hhigh, Int.not_le.2 hlow]

/-- What the tick makes of its die, whose other fields do not enter. -/
structure Heated (s : State) (d : Nat) (used : List Int) (x : DiePwr) : Prop where
  tMax : x.tMax = hottest used
  tMean : x.tMean = used.sum.fdiv used.length
  drop : x.drop = min (dropOf s d (hottest used)) 900

theorem heated_of_dies_eq {t u : State} {d : Nat} {x : DiePwr} {used : List Int}
    (h : u.pwr.dies = tabSet t.pwr.dies d x DiePwr.init) (hx : Heated s d used x) : Heated s d used (dieOf u d) := by
  rw [dieOf, h, tabGet_set_same]
  exact hx

theorem exec_thermalVlimitTick_of_on (hon : s.side.mainOn = true) (d : Fin 20) (north south : List Int) (io : Int) :
    Gives (.thermalVlimitTick d north south io) s fun u => Heated s d (usedTemps s d north south io) (dieOf u d) := by
  have hdie : dieOf (if d.val < 16 then takeTemps s d (dieTemps north south) else s) d = dieOf s d := by
    split
    · exact dieOf_of_dies_eq (takeTemps_dies ..) d
    · rfl
  have hused : (if d.val < 16 then (List.range 64).map fun i =>
      tempUsed (if d.val < 16 then takeTemps s d (dieTemps north south) else s) (d * 64 + i) else [io]) =
      usedTemps s d north south io := by
    unfold usedTemps
    split <;> rfl
  simp only [Gives, exec, execThermalVlimitTick, hon, Bool.not_true, Bool.false_eq_true, if_false, hused]
  split
  · refine ⟨_, rfl, ?_⟩
    rw [dieOf_pushErr]
    refine heated_of_dies_eq rfl ?_
    exact ⟨rfl, rfl, rfl⟩
  · refine ⟨_, rfl, ?_⟩
    rw [dieOf_modDie_same]
    exact ⟨rfl, rfl, rfl⟩

theorem exec_sensorFail_of_due {n : Fin 1024} {a : Nat} (hon : s.side.mainOn = true) (hbad : (tempOf s n).sensorBad = false)
    (hoff : (tempOf s n).offFrom = some a) (hdue : a + 10000000000 ≤ nowNs s) : exec (.sensorFail n) s =
      .next (pushErr { s with pwr := { s.pwr with
          sense := tabMod s.pwr.sense n.val TileSense.init fun x => { x with sensorBad := true } } } .sensorFail
        { unit := tileUnit n.val, detail := [n.val] }) := by
  have hany : ((tempOf s n).offFrom.any fun a => decide (a + 10000000000 ≤ nowNs s)) = true := by
    rw [hoff, Option.any_some, decide_eq_true hdue]
  simp only [exec, execSensorFail, hon, hbad, hany, Bool.not_true, Bool.or_false, Bool.false_eq_true, if_false]

/-- Settles O41: the tick's readings stand after its check and its plans, which leave each die's metered power alone; a die's
temperatures are those of the readings used, and v_limit's drop follows the hottest. -/
theorem powerTicks : Obligations.PowerTicks := by
  intro s hon
  refine ⟨?grant, ?thermal, fun n a hbad hoff hdue ho => ⟨_, exec_sensorFail_of_due hon hbad hoff hdue, ?_,
    recorded_pushErr ho rfl⟩⟩
  case grant =>
    intro mv ma p1 p10 ws
    obtain ⟨grant, hexec⟩ := exec_powerGrantTick_of_on hon mv ma p1 p10 ws
    obtain ⟨hvin, hiin, hp1, hp10, hdies⟩ :=
      budgetCheck_readings { s with pwr := { s.pwr with vin := mv, iin := ma, p1 := p1, p10 := p10 } } p1 p10
    refine ⟨_, hexec, (pwr_field_of_exceptDies Pwr.vin (fun _ => rfl) (exceptDies_metered ..)).trans hvin,
      (pwr_field_of_exceptDies Pwr.iin (fun _ => rfl) (exceptDies_metered ..)).trans hiin,
      (pwr_field_of_exceptDies Pwr.p1 (fun _ => rfl) (exceptDies_metered ..)).trans hp1,
      (pwr_field_of_exceptDies Pwr.p10 (fun _ => rfl) (exceptDies_metered ..)).trans hp10, fun d hd hpow => ?_⟩
    refine powerW_metered (List.mem_filter.2 ⟨List.mem_range.2 hd, ?_⟩) _
    rw [dieOf_of_dies_eq (s := s) hdies]
    exact hpow
  case thermal =>
    intro d north south io used tmax
    obtain ⟨u, hu, hmax, hmean, hdrop⟩ := exec_thermalVlimitTick_of_on hon d north south io
    refine ⟨u, hu, hmax, hmean, fun hd hhot => ?_, fun hd hcool => ?_, fun hd hlow hhigh => ?_⟩
    · exact hdrop.trans (congrArg (min · 900) (dropOf_of_hot hd hhot))
    · exact hdrop.trans (congrArg (min · 900) (dropOf_of_cool hd hcool))
    · exact hdrop.trans (congrArg (min · 900) (dropOf_of_between hd hlow hhigh))
  · rw [pushErr_pwr]
    simp

/-! ### An event declared for partitions (R378) -/

theorem partOf_congr_parts {u : State} (h : u.parts = s.parts) (p : Nat) : partOf u p = partOf s p :=
  congrArg (tabGet · p Part.init) h

theorem livePartitions_congr {u : State} (h : u.parts = s.parts) : livePartitions u = livePartitions s := by
  simp only [livePartitions, partOf_congr_parts h]

/-- A partition takes an event, with its steps in hand. -/
def takesEvent (code : Nat) (x : Part) : Part :=
  let mark (e : Step) : Step := { e with suspended := true, event := code }
  { x with suspended := true, event := code,
           declared := some ⟨(x.declared.map Declared.first).getD code, code⟩,
           exec := x.exec.map mark, composed := x.composed.map mark, rerunStep := x.rerunStep.map mark,
           ctxs := x.ctxs.map fun c => (c.1, { c.2 with held := c.2.held.map mark }) }

theorem declareEvent_parts (s : State) (code : Nat) (ps : List Nat) :
    (declareEvent s code ps).parts = (ps.foldl (fun s p => modPart s p (takesEvent code)) s).parts := by
  unfold declareEvent
  dsimp only
  split <;> rfl

/-- Every partition an event is declared for is suspended under it. -/
theorem declareEvent_suspends {ps : List Nat} {p : Nat} (hp : p ∈ ps) (s : State) (code : Nat) :
    (partOf (declareEvent s code ps) p).suspended = true ∧ (partOf (declareEvent s code ps) p).event = code := by
  rw [partOf_congr_parts (declareEvent_parts s code ps)]
  refine foldl_attains (P := fun t => (partOf t p).suspended = true ∧ (partOf t p).event = code) hp (fun t => ?_)
    (fun t b h => ?_) s
  · rw [partOf_modPart_same]
    exact ⟨rfl, rfl⟩
  · by_cases hb : p = b
    · rw [hb, partOf_modPart_same]
      exact ⟨rfl, rfl⟩
    · rw [partOf_modPart_other _ _ _ _ hb]
      exact h

/-! ### The throttle pin (R514, R534) -/

theorem exceptDies_applyEnvelope (s : State) : (applyEnvelope s).pwr.exceptDies = s.pwr.exceptDies := by
  unfold applyEnvelope
  refine foldl_same (fun t : State => t.pwr.exceptDies) ?_ _ _
  exact fun t d => exceptDies_modDie ..

theorem exceptDies_keepTargets (s : State) : (keepTargets s).pwr.exceptDies = s.pwr.exceptDies := by
  unfold keepTargets
  refine foldl_same (fun t : State => t.pwr.exceptDies) ?_ _ _
  exact fun t d => exceptDies_modDie ..

theorem exceptDies_restoreTargets (s : State) : (restoreTargets s).pwr.exceptDies = s.pwr.exceptDies := by
  unfold restoreTargets
  refine foldl_same (fun t : State => t.pwr.exceptDies) ?_ _ _
  exact fun t d => exceptDies_modDie ..

/-- What a throttle's start and end leave of the input's state. -/
theorem throttleBegin_supply (s : State) : (throttleBegin s).pwr.supply = s.pwr.supply := by
  unfold throttleBegin
  dsimp only
  rw [pwr_field_of_exceptDies Pwr.supply (fun _ => rfl) (exceptDies_applyEnvelope _),
    pwr_field_of_exceptDies Pwr.supply (fun _ => rfl) (exceptDies_keepTargets _)]

theorem throttleEnd_input (s : State) : (throttleEnd s).pwr.supply = s.pwr.supply ∧ (throttleEnd s).pwr.vin = s.pwr.vin := by
  have h : (restoreTargets (applyEnvelope s)).pwr.exceptDies = s.pwr.exceptDies :=
    (exceptDies_restoreTargets _).trans (exceptDies_applyEnvelope _)
  unfold throttleEnd
  dsimp only
  exact ⟨pwr_field_of_exceptDies Pwr.supply (fun _ => rfl) h, pwr_field_of_exceptDies Pwr.vin (fun _ => rfl) h⟩

theorem throttleSet_side (s : State) : (throttleSet s).side.throttle = true ∧ (throttleSet s).side.thrPin = s.side.thrPin ∧
    (throttleSet s).parts = s.parts := by
  simp only [throttleSet]
  split
  · exact ⟨rfl, rfl, rfl⟩
  · exact ⟨by rw [(throttleBegin_keeps _).side_eq (by decide)], by rw [(throttleBegin_keeps _).side_eq (by decide)],
      (throttleBegin_keeps _).parts_eq (by decide)⟩

theorem throttleClear_side (s : State) : (throttleClear s).side.throttle = false ∧
    (throttleClear s).side.thrPin = s.side.thrPin ∧ (throttleClear s).side.held = s.side.held ∧
    (throttleClear s).parts = s.parts := by
  simp only [throttleClear]
  split
  · have hside := (throttleEnd_keeps { s with side := { s.side with throttle := false, stuck := false, stuckAt := 0 } }).side_eq
      (by decide)
    exact ⟨by rw [hside], by rw [hside], by rw [hside], (throttleEnd_keeps _).parts_eq (by decide)⟩
  · exact ⟨rfl, rfl, rfl, rfl⟩

theorem throttleEvent_side (s : State) (code : Nat) : (throttleEvent s code).side = s.side := by
  rw [throttleEvent, (declareEvent_keeps ..).side_eq (by decide), pushErr_side]

/-- An edge's event is declared for every partition that exists. -/
theorem throttleEvent_suspends {p : Nat} (hp : p ∈ livePartitions s) (code : Nat) :
    (partOf (throttleEvent s code) p).suspended = true ∧ (partOf (throttleEvent s code) p).event = code :=
  declareEvent_suspends hp _ code

/-- The state in which a first edge finds the pin (R534). -/
def pinAt (s : State) (level : Bool) : State :=
  { s with side := { s.side with thrPin := level, edges := [nowNs s], lastEdge := nowNs s } }

theorem throttleEdge_of_first (level : Bool) (hheld : s.side.held = false) (hedges : s.side.edges = []) :
    throttleEdge s level = if level then throttleEvent (throttleSet (pinAt s true)) 0x31
      else throttleEvent (throttleClear (pinAt s false)) 0x32 := by
  have hnow : edgesNow s = [nowNs s] := by simp [edgesNow, hedges]
  cases level <;> simp [throttleEdge, hheld, hnow, pinAt]

theorem exec_throttleAssert_of_first (hon : s.side.mainOn = true) (hby : s.side.standby = true) (hpin : s.side.thrPin = false)
    (hheld : s.side.held = false) (hedges : s.side.edges = []) :
    exec .throttleAssert s = .next (throttleEvent (throttleSet (pinAt s true)) 0x31) := by
  simp [exec, execThrottleAssert, hon, hby, hpin, throttleEdge_of_first _ hheld hedges]

theorem exec_throttleDeassert_of_first (hon : s.side.mainOn = true) (hby : s.side.standby = true) (hpin : s.side.thrPin = true)
    (hheld : s.side.held = false) (hedges : s.side.edges = []) :
    exec .throttleDeassert s = .next (throttleEvent (throttleClear (pinAt s false)) 0x32) := by
  simp [exec, execThrottleDeassert, hon, hby, hpin, throttleEdge_of_first _ hheld hedges]

theorem exec_throttleHoldEnd_of_due (hheld : s.side.held = true)
    (hdue : s.side.lastEdge + s.side.holdMs * 1000000 ≤ nowNs s) : exec .throttleHoldEnd s =
      .next (if s.side.thrPin then { s with side := { s.side with held := false, edges := [] } }
        else throttleEvent (throttleClear { s with side := { s.side with held := false, edges := [] } }) 0x32) := by
  simp only [exec, execThrottleHoldEnd, hheld, decide_eq_true hdue, Bool.and_self, if_true]

theorem exec_throttleStuckTimer_of_due (hthr : s.side.throttle = true) (hstuck : s.side.stuck = false)
    (hdue : s.side.thrAt + s.side.stuckS * 1000000000 < nowNs s) : exec .throttleStuckTimer s =
      .next (pushErr { s with side := { s.side with stuck := true, stuckAt := nowNs s } } .sideStuck { detail := [2] }) := by
  simp only [exec, execThrottleStuckTimer, hthr, hstuck, Bool.false_eq_true, if_false, decide_eq_true hdue, Bool.and_self,
    if_true]

/-! ### Trips and the supply (R513, R515) -/

/-- The control island alone, every die powered down. -/
def islandAlone (s : State) : State := (List.range 20).foldl powerDown (keepIsland s)

theorem islandAlone_blocks (s : State) : (islandAlone s).tiles = [] ∧ (islandAlone s).parts = [] ∧
    (islandAlone s).side = s.side := by
  have down : Keeps [.pwr] (keepIsland s) (islandAlone s) := .foldl powerDown_keeps .rfl' _
  exact ⟨down.tiles_eq (by decide), down.parts_eq (by decide), down.side_eq (by decide)⟩

/-- RECOVERY after a trip: ALERT, awake, no VF (R513). -/
def tripped (s : State) : State :=
  { s with ras := { s.ras with alert := true }, boot := { s.boot with st := .recovery },
           pwr := { s.pwr with sleep := .awake }, hif := { s.hif with numVfs := 0 } }

theorem tripped_blocks (s : State) : (tripped s).boot.st = .recovery ∧ (tripped s).tiles = s.tiles ∧
    (tripped s).parts = s.parts ∧ (tripped s).ras.alert = true ∧ (tripped s).side = s.side := ⟨rfl, rfl, rfl, rfl, rfl⟩

theorem errNow_side (s : State) (c : RecCode) (a : ErrArgs) : (errNow s c a).side = s.side := by
  simp only [errNow, pushErr_side]

theorem exec_thermalTrip_of_control (hon : s.side.mainOn = true) : exec (.thermalTrip 16) s = .next (powerLoss s) := by
  have hcontrol : (16 : Fin 20).val = 16 := rfl
  simp only [exec, execThermalTrip, hon, Bool.not_true, Bool.false_eq_true, if_false, hcontrol, if_true]

/-- A trip outside XD0 leaves the control island in RECOVERY, after a record. -/
theorem exec_thermalTrip_of_other {d : Fin 20} (hon : s.side.mainOn = true) (hd : d.val ≠ 16) :
    ∃ t, t.side = s.side ∧ exec (.thermalTrip d) s = .next (tripped (islandAlone t)) := by
  refine ⟨_, errNow_side (modDie s d.val fun x => { x with tMax := max x.tMax 500 }) .thermalTrip
    { unit := if d.val < 16 then dieUnit d.val else ⟨.none, d.val, 0⟩, detail := [d.val] }, ?_⟩
  simp only [exec, execThermalTrip, hon, Bool.not_true, Bool.false_eq_true, if_false, hd]
  rfl

/-- The supply leaves its range: the throttle envelope, its record, its event (R515). -/
theorem exec_supplyOutOfRange_of_first {mv : Nat} (hon : s.side.mainOn = true) (hmv : mv < 40000 ∨ 60000 < mv)
    (hsup : s.pwr.supply = 0) : Gives (.supplyOutOfRange mv) s fun u => u.pwr.supply = (if mv < 40000 then 1 else 2) ∧
      ∀ p ∈ livePartitions s, (partOf u p).event = 0x33 := by
  have hout : (decide (40000 ≤ mv) && decide (mv ≤ 60000)) = false := by
    rw [← Bool.decide_and, decide_eq_false_iff_not]
    omega
  simp only [Gives, exec, execSupplyOutOfRange, hon, hout, hsup, Bool.not_true, Bool.or_false, Bool.false_eq_true, if_false,
    ne_eq, not_true]
  refine ⟨_, rfl, ?_, fun p hp => (declareEvent_suspends ?_ _ _).2⟩
  · rw [(declareEvent_keeps ..).pwr_eq (by decide), pushErr_pwr]
    split
    · rfl
    · exact throttleBegin_supply _
  · rw [livePartitions_congr (s := s)]
    · exact hp
    · rw [pushErr_parts]
      split
      · rfl
      · exact (throttleBegin_keeps _).parts_eq (by decide)

theorem exec_supplyRestored_of_good {mv : Nat} (hsup : s.pwr.supply ≠ 0) (hlow : 41000 ≤ mv) (hhigh : mv ≤ 59000)
    (ho : QueueOpen s) : Gives (.supplyRestored mv) s fun u => u.pwr.supply = 0 ∧ u.pwr.vin = mv ∧
      Recorded s u .supplyRange [mv] := by
  simp only [Gives, exec, execSupplyRestored, hsup, decide_eq_false (Nat.not_lt.2 hlow), decide_eq_false (Nat.not_lt.2 hhigh),
    decide_false, Bool.or_false, Bool.false_eq_true, if_false]
  refine ⟨_, rfl, ?_, ?_, recorded_pushErr ho ?_⟩
  · rw [pushErr_pwr]
    split
    · rfl
    · exact (throttleEnd_input _).1
  · rw [pushErr_pwr]
    split
    · rfl
    · exact (throttleEnd_input _).2
  · split
    · rfl
    · rw [(throttleEnd_keeps _).log_eq (by decide)]

/-- Settles O42: a trip of XD0 is a power loss and any other leaves the control island; an edge of the pin makes or ends the
cause and declares its event for every partition (`throttleEvent_suspends`); the supply does the same for 0x0033. -/
theorem tripsAndThrottle : Obligations.TripsAndThrottle := by
  intro s hon
  refine ⟨?other, ⟨_, exec_thermalTrip_of_control hon, rfl, rfl, rfl⟩,
    fun hby hpin hheld hedges => ⟨_, exec_throttleAssert_of_first hon hby hpin hheld hedges, ?_⟩,
    fun hby hpin hheld hedges => ⟨_, exec_throttleDeassert_of_first hon hby hpin hheld hedges, ?_⟩,
    fun hheld hdue => ⟨_, exec_throttleHoldEnd_of_due hheld hdue, ?_⟩,
    fun hthr hstuck hdue ho => ⟨_, exec_throttleStuckTimer_of_due hthr hstuck hdue, ?_, recorded_pushErr ho rfl⟩,
    fun mv hmv hsup => exec_supplyOutOfRange_of_first hon hmv hsup,
    fun mv hsup hlow hhigh ho => exec_supplyRestored_of_good hsup hlow hhigh ho, ⟨_, rfl, rfl, rfl, rfl, rfl, rfl⟩⟩
  case other =>
    intro d hd
    obtain ⟨t, hside, hu⟩ := exec_thermalTrip_of_other hon hd
    obtain ⟨htiles, hparts, hisland⟩ := islandAlone_blocks t
    obtain ⟨hst, htiles', hparts', halert, hside'⟩ := tripped_blocks (islandAlone t)
    exact ⟨_, hu, hst, htiles'.trans htiles, hparts'.trans hparts, halert, by rw [hside', hisland, hside, hon]⟩
  · obtain ⟨hthr, hpin, hparts⟩ := throttleSet_side (pinAt s true)
    rw [throttleEvent_side]
    exact ⟨hpin, hthr, fun p hp => throttleEvent_suspends (livePartitions_congr hparts ▸ hp) 0x31⟩
  · obtain ⟨hthr, hpin, -, hparts⟩ := throttleClear_side (pinAt s false)
    rw [throttleEvent_side]
    exact ⟨hpin, hthr, fun p hp => (throttleEvent_suspends (livePartitions_congr hparts ▸ hp) 0x32).2⟩
  · obtain ⟨hthr, -, hheld', -⟩ := throttleClear_side { s with side := { s.side with held := false, edges := [] } }
    split
    · exact ⟨rfl, fun h => by simp_all⟩
    · rw [throttleEvent_side]
      exact ⟨hheld', fun _ => hthr⟩
  · rw [pushErr_side]

end Sys2Proof.Machine
end

section
/-! PROOFS. The boot steps (O37). -/

namespace Sys2Proof.Machine

variable {s : State}

/-! ### The boot (R475, R481 to R483, R492) -/

theorem powerDown_range_keeps (n : Nat) (s : State) : Keeps [.pwr] s ((List.range n).foldl powerDown s) :=
  .foldl powerDown_keeps .rfl' _

theorem toRecovery_eq (s : State) : ∃ t, Keeps [.pwr] s t ∧ toRecovery s =
    { t with boot := { t.boot with st := .recovery }, hif := { t.hif with numVfs := 0 } } :=
  ⟨_, powerDown_range_keeps 16 s, rfl⟩

/-- RECOVERY powers the compute dies down, and removes the VFs; the tiles' and the partitions' state stands. -/
theorem toRecovery_blocks (s : State) : (toRecovery s).boot.st = .recovery ∧ (toRecovery s).hif.numVfs = 0 ∧
    (toRecovery s).tiles = s.tiles ∧ (toRecovery s).parts = s.parts := by
  obtain ⟨t, ht, h⟩ := toRecovery_eq s
  rw [h]
  exact ⟨rfl, rfl, ht.tiles_eq (by decide), ht.parts_eq (by decide)⟩

/-- What the ROM's start leaves before it chooses a slot (R475). -/
def romStarted (fast : Bool) (s : State) : State :=
  let s1 := if fast then s else pushErr s .bootSlow {}
  let sn := (tabKeys s1.pwr.sense).foldl (fun t k => tabMod t k TileSense.init fun x => { x with sensorBad := false }) s1.pwr.sense
  { s1 with sec := { s1.sec with rngOk := true }, pwr := { s1.pwr with sense := sn } }

theorem romStarted_boot (fast : Bool) (s : State) : (romStarted fast s).boot = s.boot := by
  cases fast <;> simp [romStarted]

theorem exec_bootRomStart_of_chosen {n : Nat} (fast : Bool) (hon : s.side.mainOn = true) (hst : s.boot.st = .rom)
    (hp : s.boot.presented = false) (hn : chooseSlot (selOr s.boot.flash) = some n) : exec (.bootRomStart fast) s =
      .next { romStarted fast s with boot := { (romStarted fast s).boot with presented := true, slot := n, tried := false } } := by
  have hn' : chooseSlot (selOr (romStarted fast s).boot.flash) = some n := by rw [romStarted_boot, hn]
  unfold romStarted at hn'
  simp only [exec, execBootRomStart, hon, hst, hp, hn', Bool.not_true, Bool.or_false, ne_eq, not_true, decide_false,
    Bool.false_eq_true, if_false]
  rfl

theorem exec_bootRomStart_of_none (fast : Bool) (hon : s.side.mainOn = true) (hst : s.boot.st = .rom)
    (hp : s.boot.presented = false) (hn : chooseSlot (selOr s.boot.flash) = none) : exec (.bootRomStart fast) s =
      .next (toRecovery { romStarted fast s with boot := { (romStarted fast s).boot with presented := true } }) := by
  have hn' : chooseSlot (selOr (romStarted fast s).boot.flash) = none := by rw [romStarted_boot, hn]
  unfold romStarted at hn'
  simp only [exec, execBootRomStart, hon, hst, hp, hn', Bool.not_true, Bool.or_false, ne_eq, not_true, decide_false,
    Bool.false_eq_true, if_false]
  rfl

theorem exec_imageVerified_of_bad {i : List Byte} {st : Status} (hon : s.side.mainOn = true) (hst : s.boot.st = .rom)
    (hp : s.boot.presented = true) (hi : slotImg s s.boot.slot = some i) (hbad : imageStatus s i = some st) :
    exec .imageVerified s = .next (slotFails s st) := by
  simp [exec, execImageVerified, hon, hst, hp, hi, hbad]

/-- A valid image is the firmware of CONFIG, its key derived (R495). -/
theorem exec_imageVerified_of_good {i : List Byte} (hon : s.side.mainOn = true) (hst : s.boot.st = .rom)
    (hp : s.boot.presented = true) (hi : slotImg s s.boot.slot = some i) (hgood : imageStatus s i = none) :
    Gives .imageVerified s fun u => u.boot.st = .config ∧ u.boot.fw = some i ∧ u.sec.aliasReady = true := by
  simp only [Gives, exec, execImageVerified, hon, hst, hp, hi, hgood, Bool.not_true, Bool.or_false, ne_eq, not_true,
    decide_false, Bool.false_eq_true, if_false]
  refine ⟨_, rfl, ?_⟩
  split <;> simp [deriveAlias]

theorem exec_stacksTrained_of_config {i : List Byte} (failed : List (Fin 16)) (hon : s.side.mainOn = true)
    (hst : s.boot.st = .config) (ha : s.boot.applied = false) (hc : s.boot.conf = some i) :
    Gives (.stacksTrained failed) s fun u => u.boot.applied = true := by
  simp only [Gives, exec, execStacksTrained, hon, hst, ha, hc, Bool.not_true, Bool.false_eq_true, if_false]
  exact ⟨_, rfl, rfl⟩

theorem exec_firmwareRun_of_applied (hon : s.side.mainOn = true) (hst : s.boot.st = .config) (ha : s.boot.applied = true) :
    Gives .firmwareRun s fun u => u.boot.st = .run ∧ u.parts = s.parts := by
  simp only [Gives, exec, execFirmwareRun, hon, hst, ha, Bool.not_true, Bool.or_false, ne_eq, not_true, decide_false,
    Bool.false_eq_true, if_false]
  refine ⟨_, rfl, ?_⟩
  split <;> exact ⟨rfl, rfl⟩

/-- A slot that fails after the other was tried ends in RECOVERY. -/
theorem slotFails_of_tried (ht : s.boot.tried = true) (st : Status) : (slotFails s st).boot.st = .recovery ∧
    (slotFails s st).tiles = s.tiles ∧ (slotFails s st).parts = s.parts := by
  obtain ⟨hst, -, htiles, hparts⟩ :=
    toRecovery_blocks (pushErr (slotTo s s.boot.slot 3) .bootSlotBad { status := st, detail := [s.boot.slot] })
  simp only [slotFails, ht, Bool.not_true, Bool.false_and, Bool.false_eq_true, if_false]
  exact ⟨hst, htiles.trans (pushErr_tiles ..), hparts.trans (pushErr_parts ..)⟩

/-- What RUN_TIMEOUT leaves of the module before its slot fails. -/
def runFailed (s : State) : State :=
  (List.range 16).foldl powerDown (keepIsland { s with boot := { s.boot with applied := false, fw := none, conf := none } })

theorem runFailed_blocks (s : State) : (runFailed s).boot.tried = s.boot.tried ∧ (runFailed s).tiles = [] ∧
    (runFailed s).parts = [] := by
  have h : Keeps [.pwr] _ (runFailed s) := powerDown_range_keeps 16 _
  exact ⟨by rw [h.boot_eq (by decide)]; rfl, h.tiles_eq (by decide), h.parts_eq (by decide)⟩

theorem exec_runTimeout_of_applied (hon : s.side.mainOn = true) (hst : s.boot.st = .config) (ha : s.boot.applied = true) :
    exec .runTimeout s = .next (slotFails (runFailed s) .badState) := by
  simp only [exec, execRunTimeout, runFailed, hon, hst, ha, Bool.not_true, Bool.or_false, ne_eq, not_true, decide_false,
    Bool.false_eq_true, if_false]

theorem rebootNow_eq (h : canReboot s = true) (o : Origin) :
    ∃ t, Keeps [.pwr] (keepIsland (regLedger s o 0x48 1 .ok)) t ∧ (rebootNow s o).boot.st = .rom ∧
      (rebootNow s o).boot.presented = false ∧ (rebootNow s o).parts = t.parts ∧
      (rebootNow s o).sec = { t.sec with aliasReady := false } := by
  refine ⟨_, powerDown_range_keeps 20 _, ?_⟩
  simp only [rebootNow, h, if_true, and_self]

/-- A reboot that acts: the ROM begins with no image presented, the partitions gone, the fuses as burnt. -/
theorem rebootNow_of_can (h : canReboot s = true) (o : Origin) : (rebootNow s o).boot.st = .rom ∧
    (rebootNow s o).boot.presented = false ∧ (rebootNow s o).parts = [] ∧ (rebootNow s o).sec.revoked = s.sec.revoked ∧
    (rebootNow s o).sec.ctrs = s.sec.ctrs := by
  obtain ⟨t, ht, hst, hp, hparts, hsec⟩ := rebootNow_eq h o
  have hsec' := ht.sec_eq (by decide)
  refine ⟨hst, hp, by rw [hparts, ht.parts_eq (by decide)]; rfl, ?_, ?_⟩ <;> rw [hsec, hsec'] <;> rfl

/-- Settles O37: each boot step has one way to go on the guard its clause names; a run that times out after both slots were tried
ends in RECOVERY (`slotFails_of_tried`). -/
theorem bootSteps : Obligations.BootSteps := by
  intro s hon
  refine ⟨fun fast n hst hp hn => ⟨_, exec_bootRomStart_of_chosen fast hon hst hp hn, rfl, rfl, ?_⟩,
    fun fast hst hp hn => ⟨_, exec_bootRomStart_of_none fast hon hst hp hn, ?_⟩, ?verified,
    fun failed i hst ha hc => exec_stacksTrained_of_config failed hon hst ha hc,
    fun hst ha => exec_firmwareRun_of_applied hon hst ha,
    fun hst ha ht => ⟨_, exec_runTimeout_of_applied hon hst ha, ?_⟩,
    fun hcan => ⟨_, by simp only [exec, execReboot, hon, if_true], rebootNow_of_can hcan .pf0⟩⟩
  · exact (congrArg Boot.st (romStarted_boot fast s)).trans hst
  · obtain ⟨hrec, hvfs, -⟩ := toRecovery_blocks { romStarted fast s with boot := { (romStarted fast s).boot with presented := true } }
    exact ⟨hrec, hvfs⟩
  case verified =>
    intro i hst hp hi
    cases hbad : imageStatus s i with
    | none =>
      obtain ⟨u, hu, hgood⟩ := exec_imageVerified_of_good hon hst hp hi hbad
      exact ⟨u, hu, nofun, fun _ => hgood⟩
    | some st =>
      exact ⟨_, exec_imageVerified_of_bad hon hst hp hi hbad, fun _ h => by rw [Option.some.inj h], nofun⟩
  · obtain ⟨htried, htiles, hparts⟩ := runFailed_blocks s
    obtain ⟨hrec, htiles', hparts'⟩ := slotFails_of_tried (htried.trans ht) .badState
    exact ⟨hrec, htiles'.trans htiles, hparts'.trans hparts⟩

end Sys2Proof.Machine
end

section
/-! PROOFS. Image writes and activation (O38). -/

namespace Sys2Proof.Machine

variable {s : State}

@[simp] theorem flushErrs_boot (s : State) : (flushErrs s).boot = s.boot := (flushErrs_keeps s).boot_eq (by decide)

/-- A refusal shows its register on the state that the record left, whose boot registers stood. -/
theorem refuseReg_boot {c : RecCode} {a : ErrArgs} {f : State → State} {g : Boot → Boot} (hf : ∀ t : State, (f t).boot = g t.boot)
    (s : State) : (refuseReg s c a f).boot = g s.boot := by
  rw [refuseReg, hf, flushErrs_boot, pushErr_boot]

@[simp] theorem regLedger_boot (s : State) (o : Origin) (off v : Nat) (st : Status) : (regLedger s o off v st).boot = s.boot := rfl

/-! ### Image writes (R487) -/

theorem exec_imgWriteGo_of_on {o : Origin} (hon : s.side.mainOn = true) (ho : regOrigin o = true) (img : DmaFail ⊕ List Byte) :
    exec (.imgWriteGo o img) s =
      .next (imgWrite (regLedger s o 0x30 1 .ok) o (if o = .mgmt then .inr (stagedImg s) else img)) := by
  simp [exec, execImgWriteGo, hon, ho]

theorem exec_imgWriteGo_pf0 (hon : s.side.mainOn = true) (img : DmaFail ⊕ List Byte) :
    exec (.imgWriteGo .pf0 img) s = .next (imgWrite (regLedger s .pf0 0x30 1 .ok) .pf0 img) := exec_imgWriteGo_of_on hon rfl img

section Write
variable {i b : List Byte}

/-- What PF0's GO checks: the module has asked for the image (R487). -/
def imgAsked (s : State) : State := emit s (.hostRead 0 s.boot.imgAddr s.boot.imgLen)

/-- A good image is being written. -/
theorem imgWrite_of_good (hidle : s.boot.imgSt ≠ 1) (hact : activating s = false) (hlen : polLen (fitTo s.boot.imgLen b) = s.boot.imgLen)
    (hgood : imageStatus (imgAsked s) (fitTo s.boot.imgLen b) = none)
    (htrk : trackersOk (imgAsked s) (fitTo s.boot.imgLen b) = true) :
    (imgWrite s .pf0 (.inr b)).boot.imgSt = 1 ∧ (imgWrite s .pf0 (.inr b)).boot.writing = some (fitTo s.boot.imgLen b) := by
  unfold imgAsked at hgood htrk
  simp only [imgWrite, hidle, hact, hlen, hgood, htrk, reduceCtorEq, ne_eq, not_true, if_false, Bool.false_eq_true,
    Bool.not_true, decide_false, Bool.or_false, and_self]

/-- An image that fails a check leaves what is being written, and its status shows. -/
theorem imgWrite_of_bad {st : Status} (hidle : s.boot.imgSt ≠ 1) (hact : activating s = false)
    (hlen : polLen (fitTo s.boot.imgLen b) = s.boot.imgLen)
    (hbad : imageStatus (imgAsked s) (fitTo s.boot.imgLen b) = some st) :
    (imgWrite s .pf0 (.inr b)).boot = { s.boot with imgSt := 3, imgStatus := statusNumber st } := by
  unfold imgAsked at hbad
  simp only [imgWrite, hidle, hact, hlen, hbad, reduceCtorEq, ne_eq, not_true, if_false, Bool.false_eq_true,
    decide_false, Bool.or_false, imgFail]
  rw [refuseReg_boot (g := fun x => { x with imgSt := if x.imgSt = 1 then 1 else 3, imgStatus := statusNumber st }) fun _ => rfl]
  simp [emit, hidle]

theorem exec_imageWriteDone_of_read (hw : s.boot.writing = some i) :
    Gives (.imageWriteDone true) s fun u => u.boot.writing = none ∧ u.boot.imgSt = 2 := by
  simp only [Gives, exec, execImageWriteDone, hw, if_true]
  exact ⟨_, rfl, by simp [imgOut, writeSel, putImg]⟩

theorem exec_imageWriteDone_of_failed (hw : s.boot.writing = some i) :
    Gives (.imageWriteDone false) s fun u => u.boot.writing = none ∧ u.boot.imgSt = 3 := by
  simp only [Gives, exec, execImageWriteDone, hw, Bool.false_eq_true, if_false]
  refine ⟨_, rfl, ?_⟩
  rw [refuseReg_boot (g := fun x => { x with imgSt := 3, imgStatus := statusNumber .badState }) fun _ => rfl]
  exact ⟨rfl, rfl⟩

end Write

/-! ### Activation (R488, R490, R495) -/

theorem exec_fwActGo_of_on {o : Origin} (hon : s.side.mainOn = true) (ho : regOrigin o = true) :
    exec (.fwActGo o) s = .next (fwAct s o) := by
  simp [exec, execFwActGo, hon, ho]

section Act
variable {o : Origin} {n : Nat} {i : List Byte}

/-- What a GO that may act makes of the TRIAL slot's image (R488 stage 1). -/
def actOn (s : State) (i : List Byte) : State :=
  match imageStatus s i with
  | some st => refuseReg s (imageCode i st) { status := st } fun s => actOut s .idle st
  | none =>
    if !trackersOk s i then refuseReg s .imgVerify { status := .badField } fun s => actOut s .idle .badField
    else deriveAlias (actOut { s with boot := { s.boot with switched := [] } } .load .accepted) i

theorem fwAct_of_trial (hidle : s.boot.imgSt ≠ 1) (hact : activating s = false) (hawake : s.pwr.sleep = .awake)
    (hrun : s.boot.st = .run) (hn : trialSlot s = some n) (hi : slotImg s n = some i) :
    fwAct s o = actOn (regLedger s o 0x40 1 .ok) i := by
  simp only [fwAct, hidle, hact, hawake, hrun, hn, hi, ne_eq, not_true, if_false, bne_self_eq_false, decide_false, Bool.or_false,
    Bool.false_eq_true]
  rfl

theorem actOn_of_good (hgood : imageStatus s i = none) (htrk : trackersOk s i = true) :
    (actOn s i).boot.actSt = .load ∧ (actOn s i).sec.aliasNow = aliasKey (fwMeasure i) := by
  simp only [actOn, hgood, htrk, Bool.not_true, Bool.false_eq_true, if_false, deriveAlias, pushErr_boot, pushErr_sec, actOut,
    and_self]

theorem actOn_of_bad {st : Status} (hbad : imageStatus s i = some st) :
    (actOn s i).boot.actSt = .idle ∧ (actOn s i).boot.actStatus = statusNumber st := by
  simp only [actOn, hbad]
  rw [refuseReg_boot (g := fun x => { x with actSt := .idle, actStatus := statusNumber st }) fun _ => rfl]
  exact ⟨rfl, rfl⟩

theorem exec_fwLoadDone_of_load (h : s.boot.actSt = .load) :
    exec .fwLoadDone s = .next { s with boot := { s.boot with actSt := .switch } } := by
  simp [exec, execFwLoadDone, h]

/-- While another unit is still to switch, a unit's switch is only noted. -/
theorem exec_coreBankSwitch_of_more {c d : Fin 36} (h : s.boot.actSt = .switch) (hreb : s.ras.rebal = []) (hrep : s.ras.repairs = [])
    (hc : c.val ∉ s.boot.switched) (hdc : d ≠ c) (hd : d.val ∉ s.boot.switched) (hf : isFenced s (switchUnit d) = false) :
    exec (.coreBankSwitch c) s =
      .next { s with boot := { s.boot with switched := s.boot.switched ++ [c.val], switchAt := nowNs s } } := by
  have hmore : ((List.range 36).all fun u => (s.boot.switched ++ [c.val]).contains u || isFenced s (switchUnit u)) = false := by
    refine List.all_eq_false.2 ⟨d.val, List.mem_range.2 d.isLt, ?_⟩
    simp [hd, hf, Fin.val_ne_of_ne hdc]
  have hgo : ¬ (decide (s.boot.actSt ≠ .switch) || !s.ras.rebal.isEmpty || !s.ras.repairs.isEmpty ||
      s.boot.switched.contains c.val) = true := by simp [h, hreb, hrep, hc]
  show execCoreBankSwitch c s = _
  unfold execCoreBankSwitch
  dsimp only
  rw [if_neg hgo]
  split
  next hall _ => exact absurd (hmore.symm.trans hall) Bool.false_ne_true
  next => rfl

theorem exec_activationConfirm_of_due (h : s.boot.actSt = .config) (hn : trialSlot s = some n)
    (hdue : s.boot.switchAt + 10000000000 ≤ nowNs s) : Gives .activationConfirm s fun u => u.boot.actSt = .done ∧
      u.boot.actOld = none ∧ u.boot.slot = n ∧ u.boot.conf = s.boot.fw := by
  simp only [Gives, exec, execActivationConfirm, h, hn, Nat.not_lt.2 hdue, if_false]
  exact ⟨_, rfl, rfl, rfl, rfl, rfl⟩

end Act

/-- Settles O38: an image's GO writes a good image and shows a bad one's status (`imgWrite_of_good`, `imgWrite_of_bad`); an
activation's GO does the same of the TRIAL slot (`actOn_of_good`, `actOn_of_bad`; a check that fails there leaves ACT at IDLE,
notes/assumptions/41.md), and its later stages follow. -/
theorem imagesAndActivation : Obligations.ImagesAndActivation := by
  intro s
  refine ⟨fun o img hon ho => ⟨_, exec_imgWriteGo_of_on hon ho img, rfl⟩, ?written,
    fun i => exec_imageWriteDone_of_read, fun i => exec_imageWriteDone_of_failed,
    fun o hon ho => ⟨_, exec_fwActGo_of_on hon ho, rfl⟩, ?act,
    fun h => ⟨_, exec_fwLoadDone_of_load h, rfl⟩,
    fun c d h hreb hrep hc hdc hd hf => ⟨_, exec_coreBankSwitch_of_more h hreb hrep hc hdc hd hf, rfl, h⟩,
    fun n => exec_activationConfirm_of_due⟩
  case written =>
    intro b hon hidle hact i v hlen
    refine ⟨_, exec_imgWriteGo_pf0 hon _, fun hgood htrk => imgWrite_of_good hidle hact hlen hgood htrk, fun st hbad => ?_⟩
    rw [imgWrite_of_bad (s := regLedger s .pf0 0x30 1 .ok) hidle hact hlen hbad]
    exact ⟨rfl, rfl, rfl⟩
  case act =>
    intro o n i hon ho hidle hact hawake hrun hn hi v
    exact .of_eq (exec_fwActGo_of_on hon ho) (fwAct_of_trial hidle hact hawake hrun hn hi)
      ⟨actOn_of_good, fun st => actOn_of_bad⟩

end Sys2Proof.Machine
end

section
/-! PROOFS. Records, counts, fences and the fence list (O35). -/

namespace Sys2Proof.Machine

variable {s : State}

/-! ### A unit's record -/

/-- A unit's record reads as written, listed or not. -/
@[simp] theorem unitRec_setUnit_same (s : State) (r : UnitRec) : unitRec (setUnit s r) r.unit = r := by
  have hrest : (s.ras.units.filter fun x => x.unit != r.unit).find? (fun x => x.unit == r.unit) = none := by
    simp [List.find?_eq_none]
  unfold unitRec setUnit
  dsimp only
  split
  case isTrue hplain => rw [hrest, Option.getD_none, ← eq_of_beq hplain]
  case isFalse => rw [List.find?_append, hrest, List.find?_singleton]; simp

theorem unit_unitRec (s : State) (w : UnitId) : (unitRec s w).unit = w := by
  unfold unitRec
  cases h : s.ras.units.find? fun r => r.unit == w with
  | none => rfl
  | some r =>
    have hr := List.find?_some h
    exact eq_of_beq hr

theorem unitRec_of_units_eq {u : State} (h : u.ras.units = s.ras.units) (w : UnitId) : unitRec u w = unitRec s w := by
  rw [unitRec, h, unitRec]

@[simp] theorem unitRec_ledger (s : State) (o : Origin) (a : LedgerArgs) (w : UnitId) : unitRec (ledger s o a) w = unitRec s w := rfl

theorem unitRec_setUnit_of {r : UnitRec} {w : UnitId} (h : r.unit = w) : unitRec (setUnit s r) w = r :=
  h ▸ unitRec_setUnit_same s r

theorem unitSt_unitTo_same (s : State) (w : UnitId) (st : USt) (c : RecCode) (event : Nat) (d : List Nat) :
    unitSt (unitTo s w st c event d) w = st := by
  unfold unitTo unitSt
  dsimp only
  rw [unitRec_ledger, unitRec_pushErr, unitRec_setUnit_of]
  exact unit_unitRec s w

/-! ### The record writer (R453) -/

theorem writeErr_queue (s : State) (e : ErrRec) : (writeErr s e).log.errQueue = s.log.errQueue ∧
    (writeErr s e).log.errSeq = s.log.errSeq + 1 := by
  unfold writeErr
  dsimp only
  split
  · exact ⟨rfl, rfl⟩
  · split <;> simp only [emit, fire_log] <;> exact ⟨rfl, rfl⟩

theorem foldl_writeErr_queue (es : List ErrRec) (s : State) : (es.foldl writeErr s).log.errQueue = s.log.errQueue ∧
    (es.foldl writeErr s).log.errSeq = s.log.errSeq + es.length := by
  induction es generalizing s with
  | nil => exact ⟨rfl, rfl⟩
  | cons e r ih =>
    obtain ⟨hq, hseq⟩ := writeErr_queue s e
    obtain ⟨hq', hseq'⟩ := ih (writeErr s e)
    exact ⟨hq'.trans hq, by rw [List.foldl_cons, hseq', hseq, List.length_cons]; omega⟩

theorem drainErrs_queue (n : Nat) (s : State) : (drainErrs n s).log.errQueue = s.log.errQueue.drop n ∧
    (drainErrs n s).log.errSeq = s.log.errSeq + min n s.log.errQueue.length := by
  unfold drainErrs
  obtain ⟨hq, hseq⟩ := foldl_writeErr_queue (s.log.errQueue.take n)
    { s with log := { s.log with errQueue := s.log.errQueue.drop n } }
  exact ⟨hq, by rw [hseq, List.length_take]⟩

/-! ### What a closed request leaves of the fault state -/

/-- The fault state but ALERT. -/
def unalerted (s : State) : Ras := { s.ras with alert := false }

theorem unalerted_of_still {u : State} (h : still u = still s) : unalerted u = unalerted s := congrArg Still.ras h

theorem Keeps.unalerted_eq {l : List Block} {u : State} (h : Keeps l s u) (hl : Block.ras ∉ l) : unalerted u = unalerted s := by
  rw [unalerted, h.ras_eq hl, unalerted]

/-- What does not read ALERT reads the same of the fault state. -/
theorem ras_field_of_unalerted {β : Type} {u : State} (v : Ras → β) (hv : ∀ x : Ras, v { x with alert := false } = v x)
    (h : unalerted u = unalerted s) : v u.ras = v s.ras := by
  rw [← hv u.ras, ← hv s.ras]
  exact congrArg v h

theorem unalerted_pushErr (s : State) (c : RecCode) (a : ErrArgs) : unalerted (pushErr s c a) = unalerted s :=
  unalerted_of_still (still_pushErr ..)

theorem unalerted_fire (s : State) (f v : Nat) : unalerted (fire s f v) = unalerted s := unalerted_of_still (still_fire ..)

theorem unalerted_toDlq (s : State) (p : Nat) (r : OutRec) : unalerted (toDlq s p r) = unalerted s := by
  unfold toDlq
  dsimp only
  split
  · split
    · rfl
    · rw [unalerted_pushErr]
      rfl
  · split
    · rw [unalerted_fire]
      rfl
    · rfl

theorem unalerted_dropHold (s : State) (n : Nat) (st : Status) : unalerted (dropHold s n st) = unalerted s := by
  unfold dropHold
  exact foldl_same unalerted (fun _ _ => unalerted_toDlq ..) _ _

theorem unalerted_endTree (s : State) (n : Nat) (st : Status) (r : Nat) : unalerted (endTree s n st r) = unalerted s := by
  unfold endTree
  dsimp only
  split
  · rfl
  · split
    · rfl
    · refine unalerted_of_still ?_
      rw [still_postFor, still_journal]
      split
      · rw [still_pushErr, still_setSlot]
      · rfl

theorem unalerted_endCancel (s : State) (n : Nat) : unalerted (endCancel s n) = unalerted s := by
  unfold endCancel
  dsimp only
  split
  · rfl
  · rfl
  · exact unalerted_of_still (by rw [still_finishLater, still_setSlot])

theorem unalerted_closeSlot (s : State) (n stop : Nat) (st : Status) : unalerted (closeSlot s n stop st) = unalerted s := by
  unfold closeSlot
  dsimp only
  split
  · rfl
  · rw [unalerted_of_still (still_postFinal ..), unalerted_endCancel, (releasePages_keeps ..).unalerted_eq (by decide)]
    split
    · rw [unalerted_dropHold, (modSlot_keeps ..).unalerted_eq (by decide), unalerted_endTree]
    · rw [(modSlot_keeps ..).unalerted_eq (by decide), unalerted_endTree]

theorem unalerted_closeSlots (s : State) (ns : List Nat) (st : Status) : unalerted (closeSlots s ns st) = unalerted s :=
  foldl_same unalerted (fun _ _ => unalerted_closeSlot ..) _ _

/-- A rebalance, also one that closes requests, leaves the units' records. -/
theorem unalerted_rebalOne (p d : Nat) (s : State) (g : Prog) : unalerted (rebalOne p d s g) = unalerted s := by
  unfold rebalOne
  dsimp only
  split
  · rfl
  · rw [unalerted_closeSlots, unalerted_pushErr]
    rfl

theorem unalerted_rebalDie (s : State) (d : Nat) : unalerted (rebalDie s d) = unalerted s := by
  unfold rebalDie
  split
  · rfl
  · exact foldl_same unalerted (fun _ _ => unalerted_rebalOne ..) _ _

theorem units_homeCores (s : State) : (homeCores s).ras.units = s.ras.units := by
  unfold homeCores
  split <;> rfl

/-! ### The fence list in flash (R477) -/

/-- Whether the copy not in use is the second. -/
def spareSecond (f : Flash) : Bool :=
  match listOf f.list0, listOf f.list1 with
  | some a, some b => decide (b.1 ≤ a.1)
  | some _, none => true
  | none, _ => false

/-- The copy in use stands while the other is written. -/
theorem fenceCopy_stands {f : Flash} {x : Nat × List UnitId} (h : fenceCopy f = some x) :
    if spareSecond f then listOf f.list0 = some x else listOf f.list1 = some x := by
  unfold fenceCopy at h
  unfold spareSecond
  cases h0 : listOf f.list0 <;> cases h1 : listOf f.list1 <;> rw [h0, h1] at h
  case none.none => exact absurd h nofun
  case none.some b => exact h
  case some.none a => exact h
  case some.some a b =>
    by_cases hlt : a.1 < b.1
    · simpa [hlt, Nat.not_le.2 hlt] using h
    · simpa [hlt, Nat.not_lt.1 hlt] using h

/-- The list of a state's fenced units, as the next write numbers it. -/
def nextList (s : State) : List Byte :=
  listBytes (((fenceCopy s.boot.flash).map Prod.fst).getD 0 + 1) ((s.ras.units.filter fun r => r.st == .fenced).map UnitRec.unit)

theorem exec_fenceListWrite_of_dirty (hon : s.side.mainOn = true) (hd : s.ras.listDirty = true) : exec .fenceListWrite s =
    .next { s with
      boot := { s.boot with flash := if spareSecond s.boot.flash then { s.boot.flash with list1 := nextList s }
        else { s.boot.flash with list0 := nextList s } },
      ras := { s.ras with listDirty := false } } := by
  simp only [exec, execFenceListWrite, hon, hd, Bool.not_true, Bool.or_false, Bool.false_eq_true, if_false]
  rfl

/-! ### Counts, fences and unfences (R456 to R459) -/

theorem exec_countAgeOut_events (w : UnitId) : Gives (.countAgeOut w) s fun u => (unitRec u w).events =
    (unitRec s w).events.filter fun t => decide (nowNs s < t + (unitWindow s w).2 * 3600000000000) :=
  ⟨_, rfl, congrArg UnitRec.events (unitRec_setUnit_of (by exact unit_unitRec s w))⟩

theorem exec_ceRateHour_channel {w : UnitId} {n : Nat} (hk : w.kind = .channel) (he : unitExists w = true) (hn : 10000 < n) :
    exec (.ceRateHour w n) s = .next (countFault s w id) := by
  simp [exec, execCeRateHour, hk, he, hn]

theorem exec_ceRateHour_tile {w : UnitId} {n : Nat} (hk : w.kind = .tile) (he : unitExists w = true) (hn : 1000 < n) :
    exec (.ceRateHour w n) s = .next (countFault s w id) := by
  simp [exec, execCeRateHour, hk, he, hn]

theorem exec_unitFence_of_live {w : UnitId} (he : unitExists w = true) (hf : isFenced s w = false) :
    exec (.unitFence w) s = .next (fenceAny s w) := by
  simp [exec, execUnitFence, he, hf]

theorem exec_suspectTimeout_of_due {w : UnitId} (hst : (unitRec s w).st = .suspect)
    (hdue : (unitRec s w).since + 600000000000 ≤ nowNs s) :
    exec (.suspectTimeout w) s = .next (fenceAny (pushErr s .ftResult { unit := w, detail := [3] }) w) :=
  if_pos ⟨hst, hdue⟩

theorem unitSt_withDirty (s : State) (b : Bool) (w : UnitId) :
    unitSt { s with ras := { s.ras with listDirty := b } } w = unitSt s w := rfl

/-- An unfence that no busy partition holds up: the unit is SUSPECT, the list in flash out of date. -/
theorem unfence_of_quiet {w : UnitId} (hk : w.kind ≠ .port) (hf : isFenced s w = true)
    (hquiet : (dieUsers s w.die).all (quiescent s) = true) (o : Origin) :
    unitSt (unfence s o w) w = .suspect ∧ (unfence s o w).ras.listDirty = true := by
  unfold unfence
  dsimp only
  rw [if_neg (by simp [hk, hf]), if_pos hquiet]
  refine ⟨?_, rfl⟩
  have hsuspect (t : State) : unitSt (homeCores (unitTo t w .suspect .unitUnfence 0 [])) w = .suspect := by
    rw [unitSt, unitRec_of_units_eq (units_homeCores _)]
    exact unitSt_unitTo_same ..
  have hrebal {t : State} (h : unitSt t w = .suspect) : unitSt (rebalDie t w.die) w = .suspect := by
    rw [unitSt, unitRec_of_units_eq (ras_field_of_unalerted Ras.units (fun _ => rfl) (unalerted_rebalDie t w.die))]
    exact h
  rw [unitSt_withDirty]
  split
  · exact hrebal (hsuspect _)
  · exact hsuspect _

theorem exec_rasUnfenceGo_of_run {w : UnitId} (hon : s.side.mainOn = true) (hrun : s.boot.st = .run) :
    exec (.rasUnfenceGo .pf0 w) s = .next (unfence s .pf0 w) := by
  simp [exec, execRasUnfenceGo, hon, hrun]

/-- Settles O35: the writer drains in order (`drainErrs_queue`), a count ages by its window, a fence list goes over the copy that
is not in use (`fenceCopy_stands`), an unfence of a quiet die makes its unit SUSPECT (`unfence_of_quiet`). -/
theorem faultCounting : Obligations.FaultCounting := by
  intro s
  refine ⟨fun n => ⟨_, rfl, drainErrs_queue n s⟩, exec_countAgeOut_events,
    fun w n hk he hn => ⟨_, exec_ceRateHour_channel hk he hn, rfl⟩, fun w n hk he hn => ⟨_, exec_ceRateHour_tile hk he hn, rfl⟩,
    fun w he hf => ⟨_, exec_unitFence_of_live he hf, rfl⟩, fun w hst hdue => ⟨_, exec_suspectTimeout_of_due hst hdue, rfl⟩,
    ?list,
    fun w hon hrun hk hf hquiet =>
      ⟨_, exec_rasUnfenceGo_of_run hon hrun, unfence_of_quiet hk hf (List.all_eq_true.2 hquiet) .pf0⟩⟩
  case list =>
    intro hon hd
    refine ⟨_, exec_fenceListWrite_of_dirty hon hd, rfl, ?_, fun x hx => ?_⟩
    · dsimp only
      split
      · exact .inr rfl
      · exact .inl rfl
    · have hstands := fenceCopy_stands hx
      dsimp only
      split at hstands
      · exact .inl (by rwa [if_pos ‹_›])
      · exact .inr (by rwa [if_neg ‹_›])

end Sys2Proof.Machine
end

section
/-! PROOFS. Field tests, rebalances, repairs, links and cores that fall silent (O36). -/

namespace Sys2Proof.Machine

variable {s : State}

/-! ### The same change at every partition -/

/-- One change at each partition of a list without repeats. -/
theorem partOf_foldl_modPart {ps : List Nat} (hps : ps.Nodup) (f : Part → Part) (s : State) (p : Nat) :
    partOf (ps.foldl (fun s q => modPart s q f) s) p = if p ∈ ps then f (partOf s p) else partOf s p := by
  induction ps generalizing s with
  | nil => rfl
  | cons q r ih =>
    obtain ⟨hq, hr⟩ := List.nodup_cons.1 hps
    rw [List.foldl_cons, ih hr]
    by_cases hp : p = q
    · subst hp
      simp [hq]
    · simp [hp, partOf_modPart_other _ _ _ _ hp]

theorem partOf_forParts_modPart (f : Part → Part) (s : State) {p : Nat} (hp : p < 8) :
    partOf (forParts s fun s q => modPart s q f) p = f (partOf s p) := by
  rw [forParts, partOf_foldl_modPart List.nodup_range, if_pos (List.mem_range.2 hp)]

theorem forParts_modPart_keeps (f : Part → Part) (s : State) : Keeps [.parts] s (forParts s fun s q => modPart s q f) :=
  forParts_keeps_of fun _ _ => modPart_keeps ..

/-! ### Units in service -/

theorem unitSt_of_all_inService (h : ∀ r ∈ s.ras.units, r.st = .inService) (w : UnitId) : unitSt s w = .inService := by
  unfold unitSt unitRec
  cases hf : s.ras.units.find? fun r => r.unit == w with
  | none => rfl
  | some r => exact h r (List.mem_of_find?_eq_some hf)

theorem isFenced_of_inService {w : UnitId} (h : unitSt s w = .inService) : isFenced s w = false := by
  rw [isFenced, h]
  rfl

/-! ### The rotation (R463) -/

/-- With no suspect unit and a test running, the rotation only schedules the next tile. -/
theorem exec_ftRotation_of_testing (hrun : s.boot.st = .run) (hawake : s.pwr.sleep = .awake)
    (hall : ∀ r ∈ s.ras.units, r.st = .inService) (htest : s.ras.test.isSome = true) (hnext : s.ras.nextTile ∉ s.ras.scheduled) :
    Gives .ftRotation s fun u => u.ras.nextTile = (s.ras.nextTile + 1) % 1024 ∧
      u.ras.scheduled = s.ras.scheduled ++ [s.ras.nextTile] := by
  have hsus : (s.ras.units.filter fun r => r.st == .suspect) = [] :=
    List.filter_eq_nil_iff.2 fun r hr => by rw [hall r hr]; decide
  have hlive (w : UnitId) : isFenced s w = false := isFenced_of_inService (unitSt_of_all_inService hall w)
  obtain ⟨w, hw⟩ := Option.isSome_iff_exists.1 htest
  simp only [Gives, exec, execFtRotation, hrun, hawake, hsus, hlive, hnext, hw, List.map_nil, List.filterMap_nil, List.filter_nil,
    List.contains_eq_mem, List.not_mem_nil, decide_false, Bool.or_false, bne_self_eq_false, ne_eq, not_true, if_false,
    Bool.false_eq_true, List.nil_append, Bool.not_false, Bool.and_self, List.filter_true]
  exact ⟨_, rfl, rfl, rfl⟩

theorem exec_ftOverdue_of_late {n : Fin 1024} (hin : n.val ∈ s.ras.scheduled) (hout : n.val ∉ s.ras.overdue)
    (hawake : s.pwr.sleep = .awake) : exec (.ftOverdue n) s =
      .next (pushErr { s with ras := { s.ras with overdue := s.ras.overdue ++ [n.val] } } .ftOverdue
        { unit := tileUnit n.val, detail := [n.val] }) := by
  simp [exec, execFtOverdue, hin, hout, hawake]

/-! ### Sessions (R460 to R462) -/

/-- A change of a unit's state leaves what does not read the units or ALERT. -/
theorem unitTo_ras_field {β : Type} (v : Ras → β) (hunits : ∀ x l, v { x with units := l } = v x)
    (halert : ∀ x b, v { x with alert := b } = v x) (s : State) (w : UnitId) (st : USt) (c : RecCode) (event : Nat) (d : List Nat) :
    v (unitTo s w st c event d).ras = v s.ras := by
  unfold unitTo
  dsimp only
  rw [ledger_ras, pushErr_ras_field _ _ _ v halert]
  exact hunits ..

theorem toTesting_test (s : State) (w : UnitId) : (toTesting s w).ras.test = s.ras.test := by
  unfold toTesting
  split
  · exact unitTo_ras_field Ras.test (fun _ _ => rfl) (fun _ _ => rfl) ..
  · rfl

/-- A session that began: its tile under test, in FIELD_TEST, at Reduced. -/
structure UnderTest (t : Nat) (u : State) : Prop where
  test : u.ras.test = some (tileUnit t)
  st : (tileOf u t).st = .fieldTest
  reduced : (tabGet u.pwr.sense t TileSense.init).reduced = true

/-- A tile in a state of a session, its delay lines with it. -/
def sessionTile (s : State) (t : Nat) (st : CpSt) (on : Bool) : State :=
  setReduced (modTile s t fun x => { x with st := st }) t on

theorem sessionTile_reads (s : State) (t : Nat) (st : CpSt) (on : Bool) : (tileOf (sessionTile s t st on) t).st = st ∧
    (tabGet (sessionTile s t st on).pwr.sense t TileSense.init).reduced = on ∧ (sessionTile s t st on).ras = s.ras ∧
    (sessionTile s t st on).tmb = s.tmb := by
  have htile : tileOf (sessionTile s t st on) t = tileOf (modTile s t fun x => { x with st := st }) t :=
    (setReduced_keeps ..).tileOf_eq (by decide) t
  refine ⟨by rw [htile, tileOf_modTile_same], ?_, ?_, ?_⟩
  · simp [sessionTile, setReduced]
  · simp [sessionTile, setReduced]
  · simp [sessionTile, setReduced]

/-- A called session's tile goes under test and leaves the schedule. -/
def sessionBegun (s : State) (t : Nat) : State :=
  let s1 := sessionTile s t .fieldTest true
  { s1 with ras := { s1.ras with scheduled := s1.ras.scheduled.erase t, overdue := s1.ras.overdue.erase t } }

theorem sessionBegun_underTest {t : Nat} (h : s.ras.test = some (tileUnit t)) : UnderTest t (sessionBegun s t) := by
  obtain ⟨hst, hreduced, hras, -⟩ := sessionTile_reads s t .fieldTest true
  exact ⟨(congrArg Ras.test hras).trans h, hst, hreduced⟩

theorem beginSession_underTest (s : State) (t : Nat) : UnderTest t (beginSession s t) := by
  have htest : ((sessionUnits t).foldl toTesting (beginTest s (tileUnit t))).ras.test = some (tileUnit t) := by
    rw [foldl_same (fun u : State => u.ras.test) toTesting_test]
    exact toTesting_test ..
  unfold beginSession
  generalize (sessionUnits t).foldl toTesting (beginTest s (tileUnit t)) = u at htest
  exact sessionBegun_underTest htest

/-- What changes partitions only leaves a session. -/
theorem UnderTest.of_keeps {t : Nat} {u : State} (h : UnderTest t s) (hk : Keeps [.parts] s u) : UnderTest t u where
  test := by rw [hk.ras_eq (by decide), h.test]
  st := by rw [hk.tileOf_eq (by decide), h.st]
  reduced := by rw [hk.pwr_eq (by decide), h.reduced]

theorem openGap_keeps_parts (s : State) (p k : Nat) : Keeps [.parts] s (openGap s p k) := by
  have h : Keeps _ s (openGap s p k) := (modPart_keeps ..).after (.either .nothing (dropComposed_keeps ..))
  exact h.within rfl

theorem gap_openGap (s : State) (p k : Nat) : (partOf (openGap s p k) p).gap = some k := by
  unfold openGap
  dsimp only
  rw [partOf_modPart_same]

theorem exec_testGapOpen_of_ready {p : Fin 8} {n : Fin 1024} (hvalid : (partOf s p).valid = true) (hawake : s.pwr.sleep = .awake)
    (hof : partOfTile s n = some p.val) (hfree : s.ras.test = none)
    (hwant : n.val ∈ s.ras.scheduled ∨ unitSt s (tileUnit n) = .suspect) (hlive : isFenced s (tileUnit n) = false)
    (hfits : gapFits s p = true) : exec (.testGapOpen p n) s = .next (openGap (beginSession s n.val) p.val n.val) := by
  have hwant' : (s.ras.scheduled.contains n.val || unitSt s (tileUnit n.val) == .suspect) = true := by
    simpa using hwant
  simp only [exec, execTestGapOpen, hvalid, hawake, hof, hfree, hwant', hlive, hfits, beq_self_eq_true, Option.isNone_none,
    Bool.not_false, Bool.and_self, if_true]

/-- A session's end: the tile idle and at Normal, no test running, one session more; units, time and faults stand. -/
structure SessionOver (t : Nat) (s u : State) : Prop where
  test : u.ras.test = none
  st : (tileOf u t).st = .idle
  reduced : (tabGet u.pwr.sense t TileSense.init).reduced = false
  sessions : u.ras.sessions = satAdd 32 s.ras.sessions 1
  units : u.ras.units = s.ras.units
  now : nowNs u = nowNs s

theorem endSession_over (s : State) (t : Nat) : SessionOver t s (endSession s t) := by
  obtain ⟨hst, hreduced, hras, htmb⟩ := sessionTile_reads s t .idle false
  have hk : Keeps [.parts] { sessionTile s t .idle false with
      ras := { (sessionTile s t .idle false).ras with test := none, sessions := satAdd 32 (sessionTile s t .idle false).ras.sessions 1 } }
      (endSession s t) := forParts_modPart_keeps ..
  rw [hras] at hk
  have hras' := hk.ras_eq (by decide)
  exact {
    test := by rw [hras']
    st := by rw [hk.tileOf_eq (by decide)]; exact hst
    reduced := by rw [hk.pwr_eq (by decide)]; exact hreduced
    sessions := by rw [hras']
    units := by rw [hras']
    now := by rw [nowNs, hk.tmb_eq (by decide)]; exact congrArg Tmb.now htmb }

/-! ### What a passed session says of its units (R458, R461) -/

/-- A pass of a unit in service: its count cleared, the time of the test noted, a record. -/
theorem unitPass_of_inService {w : UnitId} (h : unitSt s w = .inService) (d : List Nat) : unitPass s w d =
    pushErr (setUnit s { unitRec s w with passed := some (nowNs s), events := [] }) .ftResult { unit := w, detail := d } := by
  simp [unitPass, h]

theorem settleUnit_of_passed {w : UnitId} (h : unitSt s w = .inService) (d : List Nat) : settleUnit s w true d = s := by
  simp [settleUnit, h]

theorem unitRec_setUnit_other (s : State) {r : UnitRec} {w : UnitId} (h : w ≠ r.unit) : unitRec (setUnit s r) w = unitRec s w := by
  have hrest : (s.ras.units.filter fun x => x.unit != r.unit).find? (fun x => x.unit == w) =
      s.ras.units.find? fun x => x.unit == w := by
    rw [List.find?_filter]
    congr 1
    funext x
    by_cases hx : x.unit = w <;> simp [hx, h]
  unfold unitRec setUnit
  dsimp only
  split
  · rw [hrest]
  · rw [List.find?_append, hrest, List.find?_singleton]
    simp [Ne.symm h]

/-- The units tested beside a tile that all stay in service leave the state as it is. -/
theorem foldl_settleUnit_of_inService {w : Nat → UnitId} {rs : List Nat} (h : ∀ r ∈ rs, unitSt s (w r) = .inService)
    (d : List Nat) : rs.foldl (fun s r => settleUnit s (w r) true d) s = s := by
  induction rs with
  | nil => rfl
  | cons r rs ih =>
    rw [List.foldl_cons, settleUnit_of_passed (h r List.mem_cons_self)]
    exact ih fun q hq => h q (List.mem_cons_of_mem _ hq)

/-- A tile's session that finds nothing wrong: it ends, and the tile passes. -/
theorem exec_ftSessionDone_of_passed {n : Fin 1024} (htest : s.ras.test = some (tileUnit n))
    (htile : unitSt s (tileUnit n) = .inService) (hexp : unitSt s (expUnit (n.val / 64) (n.val % 4)) = .inService)
    (hrows : ∀ r < 32, unitSt s (rowUnit n r) = .inService) : ∃ d, exec (.ftSessionDone n true [] true) s =
      .next (unitPass (endSession s n) (tileUnit n) d) := by
  have hunits := (endSession_over s n.val).units
  have hst (w : UnitId) : unitSt (endSession s n) w = unitSt s w := congrArg UnitRec.st (unitRec_of_units_eq hunits w)
  have hend : unitSt (endSession s n) (tileUnit n) = .inService := (hst _).trans htile
  have hpass (w : UnitId) (d : List Nat) (h : w ≠ tileUnit n) :
      unitSt (unitPass (endSession s n) (tileUnit n) d) w = unitSt s w := by
    rw [unitPass_of_inService hend, unitSt, unitRec_pushErr, unitRec_setUnit_other _ (by rwa [unit_unitRec])]
    exact hst w
  refine ⟨[0, maskOf 32 fun r => ([] : List (Fin 32)).any (·.val == r), 0], ?_⟩
  simp only [exec, execFtSessionDone, htest, ne_eq, not_true, if_false, if_true, List.any_nil, Bool.not_false, Bool.not_true,
    Bool.or_true, Bool.or_false]
  rw [foldl_settleUnit_of_inService (w := rowUnit n.val), settleUnit_of_passed]
  · rfl
  · exact (hpass (expUnit (n.val / 64) (n.val % 4)) _ fun h => absurd (congrArg UnitId.kind h) nofun).trans hexp
  · exact fun r hr => (hpass (rowUnit n r) _ fun h => absurd (congrArg UnitId.kind h) nofun).trans (hrows r (List.mem_range.1 hr))

/-! ### Rebalances and repairs (R466 to R470) -/

theorem exec_rebalanceDone_of_open {w : UnitId} (hin : w ∈ s.ras.rebal) (htile : w.kind ≠ .tile) (hrow : w.kind ≠ .scoreRow) :
    exec (.rebalanceDone w) s = .next (forParts { s with ras := { s.ras with rebal := s.ras.rebal.erase w } } fun s p =>
      modPart s p fun q => { q with stopWhy := q.stopWhy.erase (stopCode w) }) := by
  simp [exec, execRebalanceDone, hin, htile, hrow]

theorem repairs_endRepair (s : State) (b : Nat) :
    (endRepair s b).ras.repairs = s.ras.repairs.filter fun r => r.block != b := by
  unfold endRepair
  dsimp only
  split
  · rfl
  · rw [(Keeps.foldl (fun t p => modPart_keeps t p _) .rfl' _).ras_eq (by decide)]

theorem pushErr_repairs (s : State) (c : RecCode) (a : ErrArgs) : (pushErr s c a).ras.repairs = s.ras.repairs :=
  pushErr_ras_field s c a Ras.repairs fun _ _ => rfl

/-- No repair of block `b` is under way. -/
structure Unrepaired (b : Nat) (u : State) : Prop where
  other : ∀ q ∈ u.ras.repairs, q.block ≠ b

/-- A block rewritten is under repair no more, nor is its twin. -/
theorem repairedBy_unrepaired (s : State) (b source : Nat) (c : Nat × List Byte) : Unrepaired b (repairedBy s b source c) := by
  have done (t : State) (a : ErrArgs) (k : Nat) (h : k = b ∨ Unrepaired b t) :
      Unrepaired b (endRepair (pushErr (rewriteBlock t k c) .repair a) k) := by
    refine ⟨fun q hq => ?_⟩
    rw [repairs_endRepair, pushErr_repairs, (rewriteBlock_keeps ..).ras_eq (by decide), List.mem_filter] at hq
    obtain ⟨hmem, hk⟩ := hq
    rcases h with rfl | h
    · exact bne_iff_ne.1 hk
    · exact h.other q hmem
  unfold repairedBy
  extract_lets unitOf fin s1
  have first : Unrepaired b s1 := done s _ b (.inl rfl)
  split
  · split
    · exact done _ _ _ (.inr first)
    · exact first
  · exact first

theorem exec_repairAttemptResult_of_good {b : Nat} {src : Fin 3} {r : Repair} {host : Option (Nat × List Byte)}
    {c : Nat × List Byte} (hr : s.ras.repairs.find? (fun r => r.block == b && r.source == src.val) = some r)
    (hc : (copyFrom s b src host).filter (copyGood s b) = some c) :
    exec (.repairAttemptResult b src host) s = .next (repairedBy s b src c) := by
  simp [exec, execRepairAttemptResult, hr, hc]

/-! ### Links and cores (R457, R489) -/

theorem exec_edgeLinkTimeout_of_live {d : Fin 16} {dir : Fin 4} {parity : Bool} (h : linkFenced s d dir = false) :
    exec (.edgeLinkTimeout d dir parity) s = .next (countFault s ⟨.edgeLink, d, dir⟩ fun s =>
      pushErr s .edgeLink { unit := ⟨.edgeLink, d, dir⟩, detail := [d, dir, bit parity] }) := by
  simp [exec, execEdgeLinkTimeout, h]

theorem exec_coreWatchdog_of_live {xd : Fin 4} {c : Fin 8} {inSo : Bool} (hrun : s.boot.st = .run)
    (hlive : isFenced s (if inSo then ⟨.soInst, 16 + xd, 0⟩ else ⟨.core, 16 + xd, c⟩) = false) :
    exec (.coreWatchdog xd c inSo) s = .next (fwFault (countFault s (if inSo then ⟨.soInst, 16 + xd, 0⟩ else ⟨.core, 16 + xd, c⟩)
      fun s => pushErr s .coreFault
        { unit := if inSo then ⟨.soInst, 16 + xd, 0⟩ else ⟨.core, 16 + xd, c⟩, detail := [xd, c] })) := by
  simp [exec, execCoreWatchdog, hrun, hlive]

/-- Settles O36: a rotation, a gap, a session's end, a rebalance's end and a repair have one way to go on the guards their clauses
name; a session that finds nothing leaves its units as they stood (`foldl_settleUnit_of_inService`), and a repaired block is under
repair no more (`repairedBy_unrepaired`). -/
theorem testsAndRepairs : Obligations.TestsAndRepairs := by
  intro s
  refine ⟨fun hrun hawake hall htest hnext => exec_ftRotation_of_testing hrun hawake hall htest hnext,
    fun n hin hout hawake ho => ⟨_, exec_ftOverdue_of_late hin hout hawake, ?_, recorded_pushErr ho rfl⟩, ?gap, ?session,
    fun c found stuck => ⟨_, rfl, rfl⟩, ?core, ?rebalance, ?repair,
    fun d dir parity h => ⟨_, exec_edgeLinkTimeout_of_live h, rfl⟩,
    ?watchdog⟩
  · exact pushErr_ras_field _ _ _ Ras.overdue fun _ _ => rfl
  case gap =>
    intro p n hvalid hawake hof hfree hwant hlive hfits
    obtain ⟨htest, hst, hreduced⟩ :=
      (beginSession_underTest s n.val).of_keeps (openGap_keeps_parts (beginSession s n.val) p.val n.val)
    exact ⟨_, exec_testGapOpen_of_ready hvalid hawake hof hfree hwant hlive hfits, gap_openGap .., htest, hst, hreduced⟩
  case session =>
    intro n htest htile hexp hrows
    obtain ⟨d, hu⟩ := exec_ftSessionDone_of_passed htest htile hexp hrows
    obtain ⟨hover, hst, hreduced, hsessions, hunits, hnow⟩ := endSession_over s n.val
    have hend : unitSt (endSession s n) (tileUnit n) = .inService :=
      (congrArg UnitRec.st (unitRec_of_units_eq hunits _)).trans htile
    rw [unitPass_of_inService hend] at hu
    refine ⟨_, hu, ?_, ?_, ?_, ?_, ?_⟩
    · rw [pushErr_ras_field _ _ _ Ras.test fun _ _ => rfl]
      exact hover
    · rw [tileOf_pushErr]
      exact hst
    · rw [pushErr_pwr]
      exact hreduced
    · rw [pushErr_ras_field _ _ _ Ras.sessions fun _ _ => rfl]
      exact hsessions
    · rw [unitRec_pushErr, unitRec_setUnit_of (by exact unit_unitRec ..), hnow]
  case core =>
    rintro w pass (hk | hk) <;> exact ⟨_, by simp only [exec, execCoreTestDone, hk], rfl⟩
  case rebalance =>
    intro w hin htile hrow
    refine ⟨_, exec_rebalanceDone_of_open hin htile hrow, ?_, fun p hp => ?_⟩
    · rw [(forParts_modPart_keeps ..).ras_eq (by decide)]
    · rw [partOf_forParts_modPart _ _ hp]
      rfl
  case watchdog =>
    intro xd c inSo hrun
    exact fun h => ⟨_, exec_coreWatchdog_of_live hrun h, rfl⟩
  case repair =>
    intro b src r hr host c hc
    exact ⟨_, exec_repairAttemptResult_of_good hr hc, rfl, (repairedBy_unrepaired s b src c).other⟩

end Sys2Proof.Machine
end

section
/-! PROOFS. What carrying flits, failing flows and refreshing routes leave of the ports and the routes (R429 to R444). -/

namespace Sys2Proof.Machine

variable {s u : State}

/-! ### The part of the links that carrying flits leaves -/

/-- A port but for what carrying flits moves: its channels' credits and counts, its SEQ, its retry buffer, WAKE sent. -/
def LnkPort.wired (x : LnkPort) : LnkPort := { x with vcs := [], txSeq := 0, retry := [], wakeSent := false }

/-- The ports, each but for what carrying flits moves. -/
def wiring (s : State) : Nat → LnkPort := fun p => (portOf s p).wired

/-- What carrying flits leaves of the links: the ports' wiring and the routes. -/
def linkage (s : State) := (wiring s, s.lnk.routes)

theorem linkage_of_lnk_eq (h : u.lnk = s.lnk) : linkage u = linkage s := by
  have hw : wiring u = wiring s := funext fun p => by simp only [wiring, portOf, h]
  simp only [linkage, hw, h]

theorem Keeps.linkage_eq {l : List Block} (h : Keeps l s u) (hl : Block.lnk ∉ l) : linkage u = linkage s :=
  linkage_of_lnk_eq (h.lnk_eq hl)

theorem routes_of_linkage (h : linkage u = linkage s) (d : Nat) : routeOf u d = routeOf s d :=
  congrArg (fun c : (Nat → LnkPort) × Tab Route => tabGet c.2 d Route.init) h

theorem wiring_of_linkage (h : linkage u = linkage s) : wiring u = wiring s := congrArg Prod.fst h

/-- What does not read what carrying flits moves reads the same of a port. -/
theorem port_field_of_wiring {β : Type} (v : LnkPort → β) (hv : ∀ x : LnkPort, v x.wired = v x) (h : wiring u = wiring s) (p : Nat) :
    v (portOf u p) = v (portOf s p) := by
  rw [← hv (portOf u p), ← hv (portOf s p)]
  exact congrArg (fun w => v (w p)) h

theorem portOf_modPort_same (s : State) (p : Nat) (f : LnkPort → LnkPort) : portOf (modPort s p f) p = f (portOf s p) :=
  tabGet_set_same ..

theorem portOf_modPort_other (s : State) {p i : Nat} (f : LnkPort → LnkPort) (h : i ≠ p) : portOf (modPort s p f) i = portOf s i :=
  tabGet_set_other _ _ _ _ _ h

theorem wiring_modPort (s : State) (p : Nat) (f : LnkPort → LnkPort) :
    wiring (modPort s p f) = fun i => if i = p then (f (portOf s p)).wired else (portOf s i).wired := by
  funext i
  split
  case isTrue h => rw [wiring, h, portOf_modPort_same]
  case isFalse h => rw [wiring, portOf_modPort_other s f h]

theorem linkage_modPort {p : Nat} {f : LnkPort → LnkPort} (h : (f (portOf s p)).wired = (portOf s p).wired) :
    linkage (modPort s p f) = linkage s := by
  have hw : wiring (modPort s p f) = wiring s := by
    rw [wiring_modPort, h]
    exact funext fun i => ite_eq_right_iff.2 fun hi => hi ▸ rfl
  exact congrArg (fun w => (w, s.lnk.routes)) hw

@[simp] theorem linkage_emit (s : State) (o : Out) : linkage (emit s o) = linkage s := rfl

@[simp] theorem linkage_portSend (s : State) (p vc n : Nat) (h : Bool) : linkage (portSend s p vc n h) = linkage s :=
  linkage_modPort rfl

@[simp] theorem linkage_freeRx (s : State) (p vc n : Nat) (h : Bool) : linkage (freeRx s p vc n h) = linkage s := by
  unfold freeRx
  extract_lets c k
  split
  · rfl
  · exact linkage_modPort rfl

@[simp] theorem linkage_sendControl (s : State) (p kind : Nat) (body : List Nat) : linkage (sendControl s p kind body) = linkage s :=
  linkage_modPort rfl

/-! ### Packets and flows (R435 to R439) -/

@[simp] theorem linkage_askWake (s : State) (d : Nat) : linkage (askWake s d) = linkage s := by
  unfold askWake
  split
  · split
    · rfl
    · rw [linkage_emit, linkage_modPort rfl, linkage_portSend]
  · rfl

@[simp] theorem linkage_sendPkt (s : State) (f : TxFlow) (k : TxPkt) : linkage (sendPkt s f k).1 = linkage s := by
  unfold sendPkt
  split
  · rfl
  · split
    · rw [linkage_emit, linkage_portSend]
    · split
      · rfl
      · exact linkage_askWake ..

@[simp] theorem linkage_pumpFlow (s : State) (f : TxFlow) : linkage (pumpFlow s f).1 = linkage s := by
  refine foldl_field (fun acc : State × List TxPkt => linkage acc.1) (fun acc k => ?_) f.pkts (s, [])
  dsimp only
  split
  · rfl
  · exact linkage_sendPkt ..

@[simp] theorem linkage_passOn (s : State) (k : Transit) : linkage (passOn s k) = linkage s := by
  unfold passOn
  dsimp only
  split
  · rw [linkage_freeRx, linkage_emit, linkage_portSend]
  · split
    · rfl
    · rw [linkage_askWake]
      rfl

@[simp] theorem linkage_pumpFlows (s : State) : linkage (pumpFlows s) = linkage s := by
  have htx (t : State) (fs : List TxFlow) (done : List TxFlow) : linkage (fs.foldl (fun (acc : State × List TxFlow) f =>
      ((pumpFlow acc.1 f).1, acc.2 ++ [(pumpFlow acc.1 f).2])) (t, done)).1 = linkage t :=
    foldl_field (fun acc : State × List TxFlow => linkage acc.1) (fun acc f => linkage_pumpFlow acc.1 f) fs (t, done)
  unfold pumpFlows
  exact (htx ..).trans (foldl_same linkage linkage_passOn _ _)

@[simp] theorem linkage_dropTransit (s : State) (f : Transit → Bool) : linkage (dropTransit s f) = linkage s := by
  unfold dropTransit
  exact foldl_same linkage (fun _ _ => linkage_freeRx ..) _ _

@[simp] theorem linkage_newFlow (s : State) (dst vc kind bytes : Nat) (op : FlowOp) :
    linkage (newFlow s dst vc kind bytes op) = linkage s := linkage_pumpFlows ..

@[simp] theorem linkage_sendVc0 (s : State) (d kind : Nat) (body : List Nat) : linkage (sendVc0 s d kind body) = linkage s := by
  unfold sendVc0
  split
  · rw [linkage_emit, linkage_portSend]
  · rfl

theorem linkage_handoffTry (s : State) (n : Nat) : linkage (handoffTry s n) = linkage s := by
  have hto (t : State) (m : Nat × Nat) : linkage (handoffTo t n m) = linkage t := by
    unfold handoffTo
    rw [linkage_newFlow]
    rfl
  have hwait : linkage (handoffWait s n) = linkage s := rfl
  unfold handoffTry
  dsimp only
  split
  · split
    · exact hto ..
    · exact hwait
  · split
    · rw [hto]
      rfl
    · exact hwait

theorem linkage_opFailed (s : State) (op : FlowOp) : linkage (opFailed s op) = linkage s := by
  have hinfl (t n : Nat) : linkage (dropInfl s t n) = linkage s := (modTile_keeps ..).linkage_eq (by decide)
  unfold opFailed
  split
  · split
    · rw [(abandonStep_keeps ..).linkage_eq (by decide), hinfl]
    · exact hinfl ..
  · split
    · exact linkage_handoffTry ..
    · rfl
  · exact (copyFails_keeps ..).linkage_eq (by decide)
  · exact (serveEnd_keeps ..).linkage_eq (by decide)
  · exact (spillFails_keeps ..).linkage_eq (by decide)
  all_goals rfl

theorem linkage_flowFail (s : State) (flow : Nat) : linkage (flowFail s flow) = linkage s := by
  unfold flowFail
  split
  · rfl
  · rw [linkage_opFailed, (pushErr_keeps ..).linkage_eq (by decide)]
    rfl

theorem linkage_lostModule (s : State) (d : Nat) : linkage (lostModule s d) = linkage s := by
  unfold lostModule
  dsimp only
  rw [foldl_same linkage linkage_flowFail, linkage_dropTransit]

/-! ### Routes (R439, R440) -/

theorem linkage_rerouted (s : State) (d : Nat) : linkage (rerouted s d) = linkage s := by
  have hnotice (t : State) : linkage ((List.range 64).foldl (fun t m =>
      if m != t.lnk.modNum && (routeOf t m).reachable then sendVc0 t m 0x14 [d, bit (routeOf s d).reachable] else t) t) =
      linkage t := by
    refine foldl_same linkage (fun t m => ?_) _ _
    split
    · exact linkage_sendVc0 ..
    · rfl
  have hdeclare (t : State) (ps : List Nat) : linkage (if ps.isEmpty then t else declareEvent t 0x21 ps) = linkage t := by
    split
    · rfl
    · exact (declareEvent_keeps ..).linkage_eq (by decide)
  have hpush (a : ErrArgs) : linkage (pushErr s .lnkReroute a) = linkage s := (pushErr_keeps ..).linkage_eq (by decide)
  unfold rerouted
  dsimp only
  split
  · rw [hdeclare, hnotice, hpush]
  · rw [linkage_lostModule, hdeclare, hnotice, hpush]

/-- A route refreshed changes the routes, no port's wiring. -/
theorem wiring_refreshRoute (s : State) (d : Nat) : wiring (refreshRoute s d) = wiring s := by
  unfold refreshRoute
  dsimp only
  split
  · rfl
  · split
    · exact (wiring_of_linkage (linkage_rerouted ..)).trans rfl
    · rfl

theorem wiring_refreshRoutes (s : State) : wiring (refreshRoutes s) = wiring s := by
  unfold refreshRoutes
  rw [wiring_of_linkage (linkage_pumpFlows ..), foldl_same wiring wiring_refreshRoute]

/-- A port that leaves service takes its new state; what is no state of a port's wiring follows the routes. -/
theorem wiring_portOut (s : State) (p : Nat) (st : PortSt) : wiring (portOut s p st) = wiring (modPort s p fun x =>
    { x with st := st, width := 0, stopRx := false, stopTx := false }) := by
  have htx (t : State) (fs : List TxFlow) : wiring { t with lnk := { t.lnk with tx := fs } } = wiring t := rfl
  unfold portOut
  dsimp only
  rw [wiring_refreshRoutes, htx, wiring_modPort, wiring_modPort]
  rfl

end Sys2Proof.Machine
end

section
/-! PROOFS. A Mirist port's life (O32). -/

namespace Sys2Proof.Machine

variable {s : State}

/-! ### An event counted against a port (R443, R457) -/

/-- The fence of a port touches the fault state and the records only. -/
theorem fenceOne_port_keeps {w : UnitId} (hk : w.kind = .port) (s : State) : Keeps [.hif, .log, .ras] s (fenceOne s w) := by
  have h : fenceOne s w = if isFenced s w then s else
      { unitTo s w .fenced .unitFence (fenceEvent w.kind) [] with
        ras := { (unitTo s w .fenced .unitFence (fenceEvent w.kind) []).ras with listDirty := true } } := by
    obtain ⟨kind, die, unit⟩ := w
    subst hk
    rfl
  rw [h]
  have hset : Keeps _ s { unitTo s w .fenced .unitFence (fenceEvent w.kind) [] with
      ras := { (unitTo s w .fenced .unitFence (fenceEvent w.kind) []).ras with listDirty := true } } := .setRas (unitTo_keeps ..)
  exact (Keeps.either .nothing hset).within rfl

theorem newlyFull_of_mem_eq {t : State} (h : t.mem = s.mem) : newlyFull s t = [] := by
  have hnone : (s.mem.surplus.filter fun b => !s.mem.surplus.contains b) = [] :=
    List.filter_eq_nil_iff.2 fun b hb => by simp [hb]
  rw [newlyFull, h, hnone]
  rfl

/-- No channel follows a port into its fence (R260). -/
theorem fenceUnit_port_keeps {w : UnitId} (hk : w.kind = .port) (s : State) : Keeps [.hif, .log, .ras] s (fenceUnit s w) := by
  have hone := fenceOne_port_keeps hk s
  have h : fenceUnit s w = fenceOne s w := by
    unfold fenceUnit fenceDeep
    dsimp only
    rw [newlyFull_of_mem_eq (hone.mem_eq (by decide))]
    rfl
  rwa [h]

theorem judgeUnit_port_keeps {w : UnitId} (hk : w.kind = .port) (s : State) : Keeps [.hif, .log, .ras] s (judgeUnit s w) := by
  have htest : hasTest w.kind = false := by rw [hk]; rfl
  have hset (r : UnitRec) : Keeps [.ras] s (setUnit s r) := setUnit_keeps ..
  have hsuspect (t : State) : Keeps [.hif, .log, .ras] t (makeSuspect t w) := by
    unfold makeSuspect suspectBy
    rw [htest]
    exact (Keeps.either .nothing (.either (fenceUnit_port_keeps hk t) (unitTo_keeps ..))).within rfl
  unfold judgeUnit
  dsimp only
  exact (Keeps.either (hset _) ((hsuspect _).after (hset _))).within rfl

theorem countFault_port_keeps {w : UnitId} (hk : w.kind = .port) (s : State) (c : RecCode) (a : ErrArgs) :
    Keeps [.hif, .log, .ras] s (countFault s w fun s => pushErr s c a) := by
  have h : Keeps _ s (countFault s w fun s => pushErr s c a) :=
    (judgeUnit_port_keeps hk _).after ((pushErr_keeps ..).after (setUnit_keeps ..))
  exact h.within rfl

/-! ### What a port's loss of service leaves of its counters -/

/-- Every port's count of link-layer resets. -/
def resetCounts (s : State) : Nat → Nat := fun p => (portOf s p).llResets

theorem resetCounts_of_wiring {u : State} (h : wiring u = wiring s) : resetCounts u = resetCounts s :=
  funext fun p => port_field_of_wiring LnkPort.llResets (fun _ => rfl) h p

theorem resetCounts_modPort {p : Nat} {f : LnkPort → LnkPort} (h : (f (portOf s p)).llResets = (portOf s p).llResets) :
    resetCounts (modPort s p f) = resetCounts s := by
  funext i
  by_cases hi : i = p
  · subst hi
    rw [resetCounts, portOf_modPort_same, h, resetCounts]
  · rw [resetCounts, portOf_modPort_other s f hi, resetCounts]

theorem resetCounts_of_keeps {l : List Block} {u : State} (h : Keeps l s u) (hl : Block.lnk ∉ l) : resetCounts u = resetCounts s :=
  resetCounts_of_wiring (wiring_of_linkage (h.linkage_eq hl))

theorem resetCounts_declared (s : State) (ps : List Nat) :
    resetCounts (if ps.isEmpty then s else declareEvent s 0x21 ps) = resetCounts s := by
  split
  · rfl
  · exact resetCounts_of_keeps (declareEvent_keeps ..) (by decide)

theorem resetCounts_portFenced (s : State) (p : Nat) : resetCounts (portFenced s p) = resetCounts s := by
  unfold portFenced
  dsimp only
  rw [resetCounts_declared, resetCounts_of_wiring (wiring_portOut ..), resetCounts_modPort rfl]
  split
  · exact resetCounts_of_wiring (wiring_of_linkage (linkage_sendControl ..))
  · rfl

/-- An event counted against a port, also where it fences the port, leaves the counts of resets. -/
theorem resetCounts_countPort (s : State) (p : Nat) (c : RecCode) (a : ErrArgs) :
    resetCounts (countPort s p fun s => pushErr s c a) = resetCounts s := by
  have hcount : resetCounts (countFault s (portUnit p) fun s => pushErr s c a) = resetCounts s :=
    resetCounts_of_keeps (countFault_port_keeps rfl s c a) (by decide)
  unfold countPort
  dsimp only
  split
  · rw [resetCounts_portFenced, hcount]
  · exact hcount

theorem llResets_fullCredits (x : LnkPort) : (fullCredits x).llResets = x.llResets := by
  unfold fullCredits
  refine foldl_field LnkPort.llResets ?_ _ x
  exact fun _ _ => rfl

/-- A reset of a live port's link layer counts once (R444). -/
theorem llResets_linkReset {p : Nat} (hlive : (portOf s p).st = .up ∨ (portOf s p).st = .sleep) (why : ProtoCase) :
    (portOf (linkReset s p why) p).llResets = satAdd 16 (portOf s p).llResets 1 := by
  have hgo : ((portOf s p).st != .up && (portOf s p).st != .sleep) = false := by
    rcases hlive with h | h <;> rw [h] <;> rfl
  have hdeclared (t : State) (b : Bool) (ps : List Nat) :
      resetCounts (if b && !ps.isEmpty then declareEvent t 0x21 ps else t) = resetCounts t := by
    split
    · exact resetCounts_of_keeps (declareEvent_keeps ..) (by decide)
    · rfl
  show resetCounts (linkReset s p why) p = _
  unfold linkReset
  dsimp only
  rw [hgo, if_neg Bool.false_ne_true, resetCounts_of_wiring (wiring_of_linkage (linkage_pumpFlows _)), hdeclared,
    resetCounts_countPort, resetCounts, portOf_modPort_same, llResets_fullCredits]

/-! ### Training (R426, R442, R451) -/

/-- What a full grant of credits leaves of a port. -/
theorem port_field_of_fullCredits {β : Type} (v : LnkPort → β) (hv : ∀ x vcs, v { x with vcs := vcs } = v x) (x : LnkPort) :
    v (fullCredits x) = v x := by
  unfold fullCredits
  refine foldl_field v ?_ _ x
  exact fun y _ => hv y _

theorem wiring_pickMaster (s : State) : wiring (pickMaster s) = wiring s := rfl

/-- Routes refreshed, and a master chosen or not, leave the ports' wiring. -/
theorem wiring_remastered (s : State) (choose : Prop) [Decidable choose] :
    wiring (if choose then pickMaster (refreshRoutes s) else refreshRoutes s) = wiring s := by
  split
  · rw [wiring_pickMaster, wiring_refreshRoutes]
  · rw [wiring_refreshRoutes]

/-- A port whose partner is what the image expects comes up. -/
theorem identReceive_of_expected {p : Fin 24} (ht : (portOf s p).st = .training) (hawake : s.pwr.sleep = .awake) {m pp g t : Nat}
    (hpeer : peerOk s p m pp = true) (hg : g = s.lnk.groupId) (htopo : t = s.lnk.topo) :
    Gives (.identReceive p m pp g t) s fun u => (portOf u p).st = .up ∧ (portOf u p).rxSeq = 0 ∧ (portOf u p).peerMod = m := by
  have hok : (peerOk s p m pp && g == s.lnk.groupId && t == s.lnk.topo) = true := by simp [hpeer, hg, htopo]
  have hawake' : (s.pwr.sleep == .asleep) = false := by rw [hawake]; rfl
  simp only [Gives, exec, execIdentReceive, ht, hok, hawake', ne_eq, not_true, if_false, if_true, Bool.false_eq_true]
  refine ⟨_, rfl, ?_⟩
  generalize hs1 : modPort s p _ = s1
  rw [port_field_of_wiring LnkPort.st (fun _ => rfl) (wiring_remastered s1 _),
    port_field_of_wiring LnkPort.rxSeq (fun _ => rfl) (wiring_remastered s1 _),
    port_field_of_wiring LnkPort.peerMod (fun _ => rfl) (wiring_remastered s1 _), ← hs1, portOf_modPort_same,
    port_field_of_fullCredits LnkPort.st fun _ _ => rfl, port_field_of_fullCredits LnkPort.rxSeq fun _ _ => rfl,
    port_field_of_fullCredits LnkPort.peerMod fun _ _ => rfl]
  exact ⟨rfl, rfl, rfl⟩

/-- A port whose partner is another is held in MISWIRE. -/
theorem identReceive_of_other {p : Fin 24} (ht : (portOf s p).st = .training) (ho : QueueOpen s) {m pp g t : Nat}
    (hbad : peerOk s p m pp = false ∨ g ≠ s.lnk.groupId ∨ t ≠ s.lnk.topo) :
    Gives (.identReceive p m pp g t) s fun u => (portOf u p).st = .miswire ∧ Recorded s u .lnkMiswire [p, m, pp] := by
  have hok : (peerOk s p m pp && g == s.lnk.groupId && t == s.lnk.topo) = false := by
    rcases hbad with h | h | h <;> simp [h]
  simp only [Gives, exec, execIdentReceive, ht, hok, ne_eq, not_true, if_false, Bool.false_eq_true]
  refine ⟨_, rfl, ?_, recorded_pushErr ho rfl⟩
  rw [port_field_of_wiring LnkPort.st (fun _ => rfl) (wiring_of_linkage ((pushErr_keeps ..).linkage_eq (by decide))),
    portOf_modPort_same]

theorem retrainAttempt_of_down {p : Fin 24} (hd : (portOf s p).st = .down) (ha : s.boot.applied = true) :
    Gives (.retrainAttempt p true) s fun u => (portOf u p).st = .training ∧ (portOf u p).lanesOk = 0xFF := by
  simp only [Gives, exec, execRetrainAttempt, hd, ha, and_self, if_true]
  refine ⟨_, rfl, ?_⟩
  show (portOf (modPort s p _) p).st = _ ∧ (portOf (modPort s p _) p).lanesOk = _
  rw [portOf_modPort_same]
  exact ⟨rfl, rfl⟩

theorem lnkRetrainWrite_of_down {p : Fin 24} (hon : s.side.mainOn = true) (hrun : s.boot.st = .run) (hd : (portOf s p).st = .down) :
    Gives (.lnkRetrainWrite .pf0 p) s fun u =>
      (portOf u p).st = .training ∧ Ledgered 0 (0x80008 + p.val * 0x400) .ok u := by
  have hgo : (s.side.mainOn && s.boot.st == .run) = true := by rw [hon, hrun]; rfl
  have hst : retrainPort s .pf0 p =
      trainPort (ledger s .pf0 { obj := 0, width := 4, target := 0x80008 + p.val * 0x400, new := 1 }) p := by
    simp only [retrainPort, hd]
    rfl
  have hexec : exec (.lnkRetrainWrite .pf0 p) s = .next (retrainPort s .pf0 p) := by
    simp only [exec, execLnkRetrainWrite, hgo, if_true]
  refine .of_eq hexec hst ⟨?_, ledgered_of_ledger_eq (ledger_ledgered s .pf0
    { obj := 0, width := 4, target := 0x80008 + p.val * 0x400, new := 1 }) rfl⟩
  show (portOf (modPort _ p _) p).st = _
  rw [portOf_modPort_same]

/-! ### Flits, replays and lanes (R429, R441) -/

/-- A replay that is not the 65th of its millisecond is counted, and that is all. -/
theorem replay_of_few {p : Nat} (hburst : (portOf s p).burst.length < 64) :
    (portOf (replay s p) p).retry = (portOf s p).retry ∧
      (portOf (replay s p) p).retries = satAdd 32 (portOf s p).retries 1 := by
  have hfew (c : Nat → Bool) : (((portOf s p).burst.filter c) ++ [nowNs s]).length ≤ 64 := by
    have := List.length_filter_le c (portOf s p).burst
    rw [List.length_append, List.length_singleton]
    omega
  unfold replay
  dsimp only
  rw [if_pos (hfew _), portOf_modPort_same]
  exact ⟨rfl, rfl⟩

theorem nakReceive_of_held {p : Fin 24} {sq : Nat} (hlive : portLive s p = true) (hsq : sq ∈ (portOf s p).retry)
    (hburst : (portOf s p).burst.length < 64) :
    Gives (.nakReceive p sq) s fun u => (portOf u p).retry = (portOf s p).retry.dropWhile (· != sq) ∧
      (portOf u p).retries = satAdd 32 (portOf s p).retries 1 := by
  have hheld : (portOf s p).retry.contains sq = true := List.contains_iff_mem.2 hsq
  simp only [Gives, exec, execNakReceive, hlive, hheld, Bool.not_true, Bool.false_eq_true, if_false, if_true]
  have hport := portOf_modPort_same s p fun x => { x with retry := x.retry.dropWhile (· != sq) }
  obtain ⟨hretry, hretries⟩ := replay_of_few (s := modPort s p fun x => { x with retry := x.retry.dropWhile (· != sq) })
    (p := p) (by rw [hport]; exact hburst)
  rw [hport] at hretry hretries
  exact ⟨_, rfl, hretry, hretries⟩

/-- A width set is the port's, and its lanes stay. -/
theorem setWidth_width (s : State) (p w : Nat) :
    (portOf (setWidth s p w) p).width = w ∧ (portOf (setWidth s p w) p).lanesOk = (portOf s p).lanesOk := by
  have hpush (t : State) (a : ErrArgs) : wiring (pushErr t .lnkWidth a) = wiring t :=
    wiring_of_linkage ((pushErr_keeps ..).linkage_eq (by decide))
  have hw : wiring (setWidth s p w) = wiring (modPort s p fun x => { x with width := w }) := by
    unfold setWidth
    dsimp only
    split
    · exact hpush ..
    · exact (wiring_of_linkage ((declareEvent_keeps ..).linkage_eq (by decide))).trans (hpush ..)
  have h := port_field_of_wiring (fun x => (x.width, x.lanesOk)) (fun _ => rfl) hw p
  rw [portOf_modPort_same] at h
  exact Prod.mk.inj h

/-- A lane dropped from a port that stays up leaves it the width of the lanes left. -/
theorem dropLane_of_narrowed {p l : Nat} (hl : (portOf s p).lanesOk.testBit l = true) (hup : (portOf s p).st = .up)
    (hleft : laneWidth ((portOf s p).lanesOk - 2 ^ l) ≠ 0) :
    (portOf (dropLane s p l) p).lanesOk = (portOf s p).lanesOk - 2 ^ l ∧
      (portOf (dropLane s p l) p).width = laneWidth (portOf (dropLane s p l) p).lanesOk := by
  have hgo : (!(portOf s p).lanesOk.testBit l || ((portOf s p).st != .up && (portOf s p).st != .sleep)) = false := by
    rw [hl, hup]; rfl
  have hsleep : ((portOf s p).st == .sleep) = false := by rw [hup]; rfl
  unfold dropLane
  dsimp only
  rw [if_neg (by rw [hgo]; exact Bool.false_ne_true), if_neg hleft, hsleep, Bool.or_false]
  split
  case isTrue hw =>
    rw [portOf_modPort_same]
    exact ⟨rfl, (of_decide_eq_true hw).symm⟩
  case isFalse hw =>
    obtain ⟨hwidth, hlanes⟩ := setWidth_width (sendControl (modPort s p fun x =>
      { x with lanesOk := (portOf s p).lanesOk - 2 ^ l }) p 4 [laneWidth ((portOf s p).lanesOk - 2 ^ l)]) p
      (laneWidth ((portOf s p).lanesOk - 2 ^ l))
    rw [port_field_of_wiring LnkPort.lanesOk (fun _ => rfl) (wiring_of_linkage (linkage_sendControl ..)),
      portOf_modPort_same] at hlanes
    exact ⟨hlanes, hwidth.trans (congrArg laneWidth hlanes.symm)⟩

/-! ### Down, fenced -/

theorem fenceReceive_of_live {p : Fin 24} (hlive : portLive s p = true) :
    Gives (.fenceReceive p) s fun u => (portOf u p).st = .fencedByPeer := by
  simp only [Gives, exec, execFenceReceive, hlive, if_true]
  refine ⟨_, rfl, ?_⟩
  rw [port_field_of_wiring LnkPort.st (fun _ => rfl) (wiring_portOut ..), portOf_modPort_same]

theorem exec_portDown_of {p : Fin 24} (h : (portOf s p).st = .up ∨ (portOf s p).st = .sleep ∨ (portOf s p).st = .training) :
    exec (.portDown p) s = .next (portDown s p) := by
  rcases h with h | h | h <;> simp only [exec, execPortDown, h]

/-- Settles O32: the ports' `wiring` is what carrying flits leaves of a port. -/
theorem portLife : Obligations.PortLife := by
  unfold Obligations.PortLife
  intro p s
  refine ⟨fun m pp g t ht ha hp hg htopo => identReceive_of_expected ht ha hp hg htopo,
    fun m pp g t ht ho hbad => identReceive_of_other ht ho hbad, ?flit, fun sq => nakReceive_of_held, fenceReceive_of_live, ?window,
    ?lane, ?down, retrainAttempt_of_down, lnkRetrainWrite_of_down, ?reset, ?stop⟩
  case flit =>
    intro f hlive
    refine ⟨_, ?_, rfl, fun h4 => if_pos h4⟩
    simp only [exec, execFlitReceive, hlive, if_true]
  case window =>
    intro l ce n h
    refine ⟨_, ?_, rfl⟩
    simp only [exec, execLaneErrorWindow, h, if_true]
  case lane =>
    intro l hl hup hleft
    exact ⟨_, rfl, dropLane_of_narrowed hl hup hleft⟩
  case down =>
    intro h
    exact ⟨_, exec_portDown_of h, rfl⟩
  case reset =>
    intro why hlive
    exact ⟨_, rfl, rfl, llResets_linkReset hlive why⟩
  case stop =>
    intro h
    refine ⟨_, ?_, rfl⟩
    simp only [exec, execStopTimeout, h, if_true]

end Sys2Proof.Machine
end

section
/-! PROOFS. Flows, routes and the group's clock (O33). -/

namespace Sys2Proof.Machine

variable {s : State}

/-! ### Acknowledgements, resends and quenches (R435, R437) -/

theorem ackReceive_of (s : State) (flow pseq : Nat) :
    Gives (.ackReceive flow pseq) s fun u => ∀ f ∈ u.lnk.tx, f.flow = flow → ∀ k ∈ f.pkts, pseq < k.pseq := by
  refine ⟨_, rfl, fun f hf hflow k hk => ?_⟩
  rw [foldl_same State.lnk ?hend] at hf
  case hend =>
    intro t f
    split
    · exact (serveEnd_keeps ..).lnk_eq (by decide)
    · exact (spillDone_keeps ..).lnk_eq (by decide)
    · rfl
  obtain ⟨hmem, -⟩ := List.mem_filter.1 hf
  obtain ⟨g, -, rfl⟩ := List.mem_map.1 hmem
  split at hk
  case isTrue => exact of_decide_eq_true (List.mem_filter.1 hk).2
  case isFalse h => exact absurd ((if_neg h ▸ hflow :)) h

theorem ackTimer_of_due {q : RxFlow} {smod flow : Nat} (hq : q ∈ s.lnk.rx) (hmod : q.smod = smod) (hflow : q.flow = flow)
    (hun : q.unacked ≠ 0) (hdue : q.since + 5000 ≤ nowNs s) : exec (.ackTimer smod flow) s = .next (sendAck s smod flow) := by
  have hany : (s.lnk.rx.any fun r => r.smod == smod && r.flow == flow && r.unacked != 0 && decide (r.since + 5000 ≤ nowNs s)) =
      true := List.any_eq_true.2 ⟨q, hq, by simp [hmod, hflow, hun, hdue]⟩
  simp only [exec, execAckTimer, hany, if_true]

section Resend
variable {flow pseq t : Nat} {f : TxFlow} {k : TxPkt}

theorem exec_resendTimer_of_last (hf : s.lnk.tx.find? (fun f => f.flow == flow) = some f)
    (hk : f.pkts.find? (fun k => k.pseq == pseq) = some k) (hsent : k.sentAt = some t) (hdue : t + 100000 ≤ nowNs s)
    (hlast : 3 ≤ k.tries) : exec (.resendTimer flow pseq) s = .next (flowFail s flow) := by
  simp only [exec, execResendTimer, hf, Option.bind_some, hk, hsent, hdue, decide_true, Bool.not_true, Bool.false_eq_true, if_false,
    hlast, if_true]

/-- A packet to be sent again waits once more, one try on. -/
def TxPkt.again (pseq : Nat) (j : TxPkt) : TxPkt := if j.pseq = pseq then { j with sentAt := none, tries := j.tries + 1 } else j

/-- The packet of one flow waits once more. -/
def resendFlow (flow pseq : Nat) (f : TxFlow) : TxFlow :=
  if f.flow = flow then { f with pkts := f.pkts.map (·.again pseq) } else f

theorem exec_resendTimer_of_again (hf : s.lnk.tx.find? (fun f => f.flow == flow) = some f)
    (hk : f.pkts.find? (fun k => k.pseq == pseq) = some k) (hsent : k.sentAt = some t) (hdue : t + 100000 ≤ nowNs s)
    (hmore : k.tries < 3) : exec (.resendTimer flow pseq) s =
      .next (pumpFlows { s with lnk := { s.lnk with tx := s.lnk.tx.map (resendFlow flow pseq) } }) := by
  have hnot : ¬ 3 ≤ k.tries := Nat.not_le.2 hmore
  simp only [exec, execResendTimer, hf, Option.bind_some, hk, hsent, hdue, decide_true, Bool.not_true, Bool.false_eq_true, if_false,
    hnot]
  rfl

/-- The packet whose time is over waits in its flow. -/
theorem mem_resent (hf : s.lnk.tx.find? (fun f => f.flow == flow) = some f) (hk : f.pkts.find? (fun k => k.pseq == pseq) = some k) :
    ∃ g ∈ s.lnk.tx.map (resendFlow flow pseq), g.flow = flow ∧
      ∃ j ∈ g.pkts, j.pseq = pseq ∧ j.tries = k.tries + 1 ∧ j.sentAt = none := by
  have hflow : f.flow = flow := beq_iff_eq.1 (List.find?_some (p := fun f : TxFlow => f.flow == flow) hf)
  have hpseq : k.pseq = pseq := beq_iff_eq.1 (List.find?_some (p := fun k : TxPkt => k.pseq == pseq) hk)
  have hre : resendFlow flow pseq f = { f with pkts := f.pkts.map (·.again pseq) } := if_pos hflow
  have hag : k.again pseq = { k with sentAt := none, tries := k.tries + 1 } := if_pos hpseq
  refine ⟨resendFlow flow pseq f, List.mem_map_of_mem (List.mem_of_find?_eq_some hf), hre ▸ hflow, k.again pseq, ?_, ?_⟩
  · rw [hre]
    exact List.mem_map_of_mem (List.mem_of_find?_eq_some hk)
  · rw [hag]
    exact ⟨hpseq, rfl, rfl⟩

end Resend

theorem quenchReceive_of_send {flow n tag : Nat} {why : Quench} {f : TxFlow}
    (hf : s.lnk.tx.find? (fun f => f.flow == flow) = some f) (hop : f.op = .send n tag) (hwhy : why ≠ .refused) :
    Gives (.quenchReceive flow why) s fun u => (∀ g ∈ u.lnk.tx, g.flow ≠ flow) ∧ Left n tag u := by
  have hexec : exec (.quenchReceive flow why) s =
      .next (dropInfl { s with lnk := { s.lnk with tx := s.lnk.tx.filter fun g => g.flow != flow } } n tag) := by
    cases why
    case refused => exact absurd rfl hwhy
    all_goals simp only [exec, execQuenchReceive, hf, hop]
  refine ⟨_, hexec, fun g hg => ?_, fun j hj => ?_⟩
  · exact bne_iff_ne.1 (List.mem_filter.1 hg).2
  · rw [dropInfl, tileOf_modTile_same] at hj
    exact bne_iff_ne.1 (List.mem_filter.1 hj).2

/-! ### Routes, sleep and WAKE (R440, R447) -/

theorem routeReceive_of_reached {d : Fin 64} (hd : d.val ≠ s.lnk.modNum) (hnow : (routeNow s (routeOf s d)).reachable = true)
    (hr : (routeOf s d).reachable = false) :
    Gives (.routeReceive d true) s fun u => (routeOf u d).reachable = true := by
  simp only [Gives, exec, execRouteReceive, hnow, hr, hd, Bool.true_and, Bool.false_eq_true, if_true]
  refine ⟨_, rfl, ?_⟩
  rw [routes_of_linkage (linkage_pumpFlows _), routeOf, tabGet_set_same]

theorem routeReceive_of_lost {d : Fin 64} (hd : d.val ≠ s.lnk.modNum) (hr : (routeOf s d).reachable = true) :
    Gives (.routeReceive d false) s fun u => (routeOf u d).reachable = false := by
  have hdeclare (t : State) (ps : List Nat) : linkage (if ps.isEmpty then t else declareEvent t 0x21 ps) = linkage t := by
    split
    · rfl
    · exact (declareEvent_keeps ..).linkage_eq (by decide)
  simp only [Gives, exec, execRouteReceive, hr, hd, Bool.false_and, Bool.true_eq_false, if_false, Bool.false_eq_true]
  refine ⟨_, rfl, ?_⟩
  rw [routes_of_linkage (linkage_lostModule ..), routes_of_linkage (hdeclare ..), routeOf, tabGet_set_same]

/-- Packets discarded on their way through leave the flows from here. -/
theorem tx_dropTransit (s : State) (f : Transit → Bool) : (dropTransit s f).lnk.tx = s.lnk.tx := by
  have hfree (t : State) (p vc n : Nat) (h : Bool) : (freeRx t p vc n h).lnk.tx = t.lnk.tx := by
    unfold freeRx
    extract_lets c k
    split
    · rfl
    · rfl
  unfold dropTransit
  exact foldl_same (fun t : State => t.lnk.tx) (fun _ _ => hfree ..) _ _

theorem exec_sleepPacketTimeout_of_held {flow : Nat}
    (h : ∃ f ∈ s.lnk.tx, f.flow = flow ∧ (∃ k ∈ f.pkts, k.sentAt = none) ∧ sleepHeld s f.dst f.vc = true) :
    exec (.sleepPacketTimeout flow) s =
      .next (flowFail (dropTransit s fun k => k.hdr.flow == flow && sleepHeld s k.hdr.dmod k.hdr.vc.val) flow) := by
  obtain ⟨f, hf, hflow, ⟨k, hk, hsent⟩, hheld⟩ := h
  have hany : (s.lnk.tx.any fun f => f.flow == flow && (f.pkts.any fun k => k.sentAt.isNone) && sleepHeld s f.dst f.vc) = true := by
    refine List.any_eq_true.2 ⟨f, hf, ?_⟩
    have hpkt : (f.pkts.any fun k => k.sentAt.isNone) = true := List.any_eq_true.2 ⟨k, hk, by simp [hsent]⟩
    simp [hflow, hpkt, hheld]
  simp only [exec, execSleepPacketTimeout, tx_dropTransit, hany, if_true]

/-! ### The group's clock (R447 to R449) -/

/-- Each TIME packet is one output, and no slot is part of it. -/
theorem timeExchange_of (s : State) :
    Gives .timeExchange s fun u => u.slots = s.slots ∧ u.out.length = s.out.length + (neighbourPorts s).length := by
  have hfold (ps : List Nat) (t : State) (u : State) (hu : u = ps.foldl (fun s p =>
      emit (portSend s p 0 1 false) (.packet p (portOf s p).peerMod 0 0x13 [nowNs s])) t) :
      u.slots = t.slots ∧ u.out.length = t.out.length + ps.length := by
    induction ps generalizing t with
    | nil => exact hu ▸ ⟨rfl, rfl⟩
    | cons p ps ih =>
      obtain ⟨hslots, hout⟩ := ih _ hu
      refine ⟨hslots, hout.trans ?_⟩
      simp [emit, portSend, modPort]
      omega
  exact ⟨_, rfl, hfold _ s _ rfl⟩

theorem timeReceive_of_followed {m : Fin 64} {hops t1 t2 t3 t4 : Nat} (htopo : s.lnk.topo ≠ 0) (hlock : s.side.gsyncLock = false)
    (hfollow : follows { s with lnk := { s.lnk with hops := (s.lnk.hops.filter fun h => h.1 != m.val) ++ [(m.val, hops)] } } m hops =
      true) : exec (.timeReceive m hops t1 t2 t3 t4) s = .next (discipline
        { s with lnk := { s.lnk with hops := (s.lnk.hops.filter fun h => h.1 != m.val) ++ [(m.val, hops)] } } 2
        ((((t2 : Int) - t1) + ((t3 : Int) - t4)) / 2)) := by
  simp only [exec, execTimeReceive, htopo, hfollow, hlock, decide_false, Bool.not_true, Bool.or_false, Bool.false_eq_true, if_false]

theorem exec_masterTimeout_of_lost (h : canReach s s.lnk.master = false) : exec .masterTimeout s = .next (pickMaster s) := by
  simp only [exec, execMasterTimeout, h, Bool.false_eq_true, if_false]

/-- Settles O33: the routes stand apart from what carrying flits moves (`linkage`). -/
theorem flowsAndTime : Obligations.FlowsAndTime := by
  unfold Obligations.FlowsAndTime
  intro s
  refine ⟨ackReceive_of s, fun smod flow q hq hmod hflow hun hdue => ⟨_, ackTimer_of_due hq hmod hflow hun hdue, rfl⟩, ?resend,
    fun flow why f n tag hf hop hwhy => quenchReceive_of_send hf hop hwhy, fun dst hd hnow hr => routeReceive_of_reached hd hnow hr,
    fun dst hd hr => routeReceive_of_lost hd hr, fun m => ⟨_, rfl, rfl⟩,
    fun flow h => ⟨_, exec_sleepPacketTimeout_of_held h, rfl⟩, timeExchange_of s, ?time, fun h =>
    ⟨_, exec_masterTimeout_of_lost h, rfl⟩⟩
  case resend =>
    intro flow pseq f k t hf hk hsent hdue
    exact ⟨fun hlast => ⟨_, exec_resendTimer_of_last hf hk hsent hdue hlast, rfl⟩, fun hmore =>
      ⟨_, exec_resendTimer_of_again hf hk hsent hdue hmore, _, rfl, rfl, mem_resent hf hk⟩⟩
  case time =>
    intro m hops t1 t2 t3 t4 htopo hlock v hfollow
    exact ⟨_, timeReceive_of_followed htopo hlock hfollow, rfl⟩

end Sys2Proof.Machine
end

section
/-! PROOFS. The host link: training, resets, function control (O28). -/

namespace Sys2Proof.Machine

variable {s t u : State}

/-! ### The rings by their place in the table -/

/-- The ring at a place of the table: ring `r` of partition `p` is at `p * 8 + r`. -/
def ringAt (s : State) (i : Nat) : Ring := tabGet s.hif.rings i Ring.init

/-- A ring's place in the table. -/
def ringPlace (q : Nat × Nat) : Nat := q.1 * 8 + q.2

theorem ringOf_eq_ringAt (s : State) (p r : Nat) : ringOf s p r = ringAt s (ringPlace (p, r)) := rfl

theorem ringAt_of_rings_eq (h : u.hif.rings = s.hif.rings) : ringAt u = ringAt s := by
  funext i
  rw [ringAt, h, ringAt]

theorem ringAt_modRing (s : State) (p r : Nat) (f : Ring → Ring) (i : Nat) :
    ringAt (modRing s p r f) i = if i = ringPlace (p, r) then f (ringAt s i) else ringAt s i := by
  split
  case isTrue h => subst h; exact tabGet_set_same ..
  case isFalse h => exact tabGet_set_other _ _ _ _ _ h

theorem ringAt_ledger (s : State) (o : Origin) (a : LedgerArgs) : ringAt (ledger s o a) = ringAt s := ringAt_of_rings_eq rfl

/-- The ring's new state enters the ledger, and no ring but it changes. -/
theorem ringAt_setRingSt (s : State) (p r : Nat) (st : RingSt) (i : Nat) :
    ringAt (setRingSt s p r st) i = if i = ringPlace (p, r) then { ringAt s i with st := st } else ringAt s i := by
  unfold setRingSt
  dsimp only
  split
  · exact ringAt_modRing ..
  · rw [ringAt_ledger]
    exact ringAt_modRing ..

/-- One change of each ring of a list, made once though a ring is named twice. -/
theorem ringAt_foldl {f : State → Nat × Nat → State} {g : Ring → Ring}
    (hf : ∀ s q i, ringAt (f s q) i = if i = ringPlace q then g (ringAt s i) else ringAt s i) (hg : ∀ x, g (g x) = g x)
    (l : List (Nat × Nat)) (s : State) (i : Nat) :
    ringAt (l.foldl f s) i = if i ∈ l.map ringPlace then g (ringAt s i) else ringAt s i := by
  induction l generalizing s with
  | nil => rfl
  | cons q l ih =>
    rw [List.foldl_cons, ih, hf, List.map_cons]
    by_cases hq : i = ringPlace q
    · simp only [hq, if_true, List.mem_cons_self, hg, ite_self]
    · simp only [hq, if_false, List.mem_cons, false_or]

/-- The rings of a function are those not DETACHED that it owns. -/
theorem mem_fnRings {f : Nat} {q : Nat × Nat} : q ∈ fnRings s f ↔
    ∃ i < 40, q = (i / 5, i % 5) ∧ (ringAt s (ringPlace q)).st ≠ .detached ∧ (ringAt s (ringPlace q)).owner = f := by
  unfold fnRings
  rw [List.mem_filterMap]
  constructor
  · rintro ⟨i, hi, hq⟩
    dsimp only at hq
    split at hq
    case isTrue h =>
      obtain rfl := Option.some.inj hq
      obtain ⟨hst, howner⟩ := Bool.and_eq_true_iff.1 h
      exact ⟨i, List.mem_range.1 hi, rfl, bne_iff_ne.1 hst, beq_iff_eq.1 howner⟩
    case isFalse => cases hq
  · rintro ⟨i, hi, rfl, hst, howner⟩
    refine ⟨i, List.mem_range.2 hi, if_pos ?_⟩
    exact Bool.and_eq_true_iff.2 ⟨bne_iff_ne.2 hst, beq_iff_eq.2 howner⟩

theorem mem_fnRings_places {f : Nat} {q : Nat × Nat} (hq : q ∈ fnRings s f) : ringPlace q ∈ (fnRings s f).map ringPlace :=
  List.mem_map_of_mem hq

theorem fnRings_of_rings_eq (h : u.hif.rings = s.hif.rings) (f : Nat) : fnRings u f = fnRings s f := by
  unfold fnRings ringOf
  rw [h]

theorem fnOf_modFn_other (s : State) {k i : Nat} (g : Fn → Fn) (h : i ≠ k) : fnOf (modFn s k g) i = fnOf s i :=
  tabGet_set_other _ _ _ _ _ h

theorem fnOf_of_fns_eq (h : u.hif.fns = s.hif.fns) (k : Nat) : fnOf u k = fnOf s k := by rw [fnOf, h, fnOf]

theorem fns_modRing (s : State) (p r : Nat) (f : Ring → Ring) : (modRing s p r f).hif.fns = s.hif.fns := rfl

theorem fns_setRingSt (s : State) (p r : Nat) (st : RingSt) : (setRingSt s p r st).hif.fns = s.hif.fns := by
  unfold setRingSt
  dsimp only
  split
  · rfl
  · rfl

/-! ### A function's reset (Table 16-3) -/

/-- A ring that its function's reset took. -/
def Ring.down (x : Ring) : Ring := { x with st := .detached, latched := none }

theorem ringAt_fnReset (s : State) (f i : Nat) :
    ringAt (fnReset s f) i = if i ∈ (fnRings s f).map ringPlace then (ringAt s i).down else ringAt s i := by
  unfold fnReset
  dsimp only
  rw [ringAt_of_rings_eq (u := modFn _ f _) rfl]
  refine ringAt_foldl (g := Ring.down) (fun t q j => ?_) (fun _ => rfl) _ s i
  rw [ringAt_modRing, ringAt_setRingSt]
  split
  · rfl
  · rfl

/-- The functions as the reset of function `f` leaves them. -/
theorem fnOf_fnReset (s : State) (f k : Nat) : fnOf (fnReset s f) k = if k = f then
    { fnOf s f with mbxBusy := false, mbxDone := false, mbxResp := none, masked := Fn.init.masked, pba := [], msix := [], bme := false }
    else fnOf s k := by
  have hfns : ∀ l : List (Nat × Nat), (l.foldl (fun s r =>
      modRing (setRingSt s r.1 r.2 .detached) r.1 r.2 fun x => { x with latched := none }) s).hif.fns = s.hif.fns := by
    refine fun l => foldl_same (fun t : State => t.hif.fns) (fun t q => ?_) l s
    rw [fns_modRing, fns_setRingSt]
  unfold fnReset
  dsimp only
  split
  case isTrue h => rw [h, fnOf_modFn_same, fnOf_of_fns_eq (hfns _)]
  case isFalse h => rw [fnOf_modFn_other _ _ h, fnOf_of_fns_eq (hfns _)]

/-- What a run of function resets leaves of every ring: its owner, and its state where it is not DETACHED. -/
structure Sheds (s u : State) : Prop where
  owner (i : Nat) : (ringAt u i).owner = (ringAt s i).owner
  st (i : Nat) : (ringAt u i).st = (ringAt s i).st ∨ (ringAt u i).st = .detached

theorem Sheds.rfl' : Sheds s s := ⟨fun _ => rfl, fun _ => .inl rfl⟩

theorem Sheds.fnReset (h : Sheds s u) (k : Nat) : Sheds s (fnReset u k) := by
  constructor
  · intro i
    rw [ringAt_fnReset]
    split
    · exact h.owner i
    · exact h.owner i
  · intro i
    rw [ringAt_fnReset]
    split
    · exact .inr rfl
    · exact h.st i

/-- A reset takes each ring the function had before the run, though an earlier reset took it already. -/
theorem Sheds.rings_down {f : Nat} {q : Nat × Nat} (h : Sheds s u) (hq : q ∈ fnRings s f) :
    (ringAt (Machine.fnReset u f) (ringPlace q)).st = .detached := by
  obtain ⟨i, hi, hqi, hst, howner⟩ := mem_fnRings.1 hq
  rw [ringAt_fnReset]
  split
  case isTrue => rfl
  case isFalse hout =>
    refine (h.st _).resolve_left fun hsame => hout (mem_fnRings_places ?_)
    exact mem_fnRings.2 ⟨i, hi, hqi, hsame ▸ hst, (h.owner _).trans howner⟩

theorem fnDown_fnReset_of_sheds (h : Sheds s u) (f : Nat) : FnDown s (fnReset u f) f := by
  refine ⟨fun q hq => h.rings_down hq, ?_⟩
  rw [fnOf_fnReset, if_pos rfl]
  exact ⟨rfl, rfl, rfl, rfl, rfl, rfl⟩

/-- A function that is down stays so where the rings and its registers do. -/
theorem fnDown_of_eq {f : Nat} (h : FnDown s u f) (hr : t.hif.rings = u.hif.rings) {g : Fn → Fn} (hf : fnOf t f = g (fnOf u f))
    (hg : ∀ x : Fn, { g x with bar4Size := x.bar4Size } = x) : FnDown s t f := by
  obtain ⟨hrings, hbusy, hdone, hresp, hmasked, hpba, hbme⟩ := h
  have hfield {β : Type} (v : Fn → β) (hv : ∀ x b, v { x with bar4Size := b } = v x) : v (fnOf t f) = v (fnOf u f) := by
    rw [hf, ← hv (g (fnOf u f)) (fnOf u f).bar4Size, hg]
  refine ⟨fun q hq => ?_, (hfield Fn.mbxBusy fun _ _ => rfl).trans hbusy, (hfield Fn.mbxDone fun _ _ => rfl).trans hdone,
    (hfield Fn.mbxResp fun _ _ => rfl).trans hresp, (hfield Fn.masked fun _ _ => rfl).trans hmasked,
    (hfield Fn.pba fun _ _ => rfl).trans hpba, (hfield Fn.bme fun _ _ => rfl).trans hbme⟩
  rw [ringOf_eq_ringAt, ringAt_of_rings_eq hr]
  exact hrings q hq

/-- The reset of another function leaves one down. -/
theorem fnDown_fnReset {f : Nat} (h : FnDown s u f) (k : Nat) : FnDown s (fnReset u k) f := by
  obtain ⟨hrings, hfn⟩ := h
  refine ⟨fun q hq => ?_, ?_⟩
  · rw [ringOf_eq_ringAt, ringAt_fnReset]
    split
    · rfl
    · exact hrings q hq
  · rw [fnOf_fnReset]
    split
    · exact ⟨rfl, rfl, rfl, rfl, rfl, rfl⟩
    · exact hfn

theorem fnDown_foldl_of_down {f : Nat} (h : FnDown s u f) (ks : List Nat) : FnDown s (ks.foldl fnReset u) f := by
  induction ks generalizing u with
  | nil => exact h
  | cons k ks ih => exact ih (fnDown_fnReset h k)

/-- After a run of function resets each function of the run is down. -/
theorem fnDown_foldl {f : Nat} {ks : List Nat} (hf : f ∈ ks) (h : Sheds s u) : FnDown s (ks.foldl fnReset u) f := by
  induction ks generalizing u with
  | nil => cases hf
  | cons k ks ih =>
    rw [List.foldl_cons]
    by_cases hk : f ∈ ks
    · exact ih hk (h.fnReset k)
    · obtain rfl : f = k := (List.mem_cons.1 hf).resolve_right hk
      exact fnDown_foldl_of_down (fnDown_fnReset_of_sheds h f) ks

/-- The VFs' resets leave PF0 as it was. -/
theorem fnOf_foldl_fnReset {ks : List Nat} {f : Nat} (hf : f ∉ ks) (s : State) : fnOf (ks.foldl fnReset s) f = fnOf s f := by
  induction ks generalizing s with
  | nil => rfl
  | cons k ks ih =>
    rw [List.mem_cons, not_or] at hf
    obtain ⟨hk, hks⟩ := hf
    rw [List.foldl_cons, ih hks, fnOf_fnReset, if_neg hk]

/-! ### VF Enable, PF0's reset (R386, R387) -/

/-- A state with VF Enable clear. -/
def noVfs (u : State) : State := { u with hif := { u.hif with numVfs := 0 } }

/-- A state with BAR4 at the memory's start. -/
def unbased (u : State) : State := { u with hif := { u.hif with bar4Base := 0 } }

/-- The VFs' numbers. -/
def vfNumbers : List Nat := (List.range 8).map (· + 1)

theorem mem_vfNumbers {f : Nat} (hf : f < 9) (h0 : f ≠ 0) : f ∈ vfNumbers :=
  List.mem_map.2 ⟨f - 1, List.mem_range.2 (by omega), by omega⟩

theorem vfsOff_eq (s : State) : vfsOff s = noVfs (vfNumbers.foldl fnReset s) := rfl

theorem pf0Reset_eq (s : State) : pf0Reset s = unbased (vfsOff (fnReset s 0)) := rfl

theorem fnDown_noVfs {f : Nat} (h : FnDown s u f) : FnDown s (noVfs u) f := fnDown_of_eq (g := id) h rfl rfl fun _ => rfl

theorem fnDown_unbased {f : Nat} (h : FnDown s u f) : FnDown s (unbased u) f := fnDown_of_eq (g := id) h rfl rfl fun _ => rfl

theorem fnDown_vfsOff_of_sheds (h : Sheds s u) {f : Nat} (hf : f < 9) (h0 : f ≠ 0) : FnDown s (vfsOff u) f := by
  rw [vfsOff_eq]
  exact fnDown_noVfs (fnDown_foldl (mem_vfNumbers hf h0) h)

theorem fnDown_pf0Reset (s : State) {f : Nat} (hf : f < 9) : FnDown s (pf0Reset s) f := by
  rw [pf0Reset_eq]
  by_cases h0 : f = 0
  · subst h0
    rw [vfsOff_eq]
    exact fnDown_unbased (fnDown_noVfs (fnDown_foldl_of_down (fnDown_fnReset_of_sheds .rfl' 0) _))
  · exact fnDown_unbased (fnDown_vfsOff_of_sheds (Sheds.rfl'.fnReset 0) hf h0)

theorem numVfs_vfsOff (s : State) : (vfsOff s).hif.numVfs = 0 := by
  rw [vfsOff_eq]
  rfl

theorem numVfs_pf0Reset (s : State) : (pf0Reset s).hif.numVfs = 0 := by
  have h (u : State) : (unbased u).hif.numVfs = u.hif.numVfs := rfl
  rw [pf0Reset_eq, h, numVfs_vfsOff]

theorem bar4Base_pf0Reset (s : State) : (pf0Reset s).hif.bar4Base = 0 := by
  rw [pf0Reset_eq]
  rfl

theorem fnOf_noVfs (u : State) (k : Nat) : fnOf (noVfs u) k = fnOf u k := rfl

theorem vfEnableClear_of (s : State) :
    Gives .vfEnableClear s fun u => u.hif.numVfs = 0 ∧ (∀ f < 9, f ≠ 0 → FnDown s u f) ∧ fnOf u 0 = fnOf s 0 ∧
      u.slots = s.slots ∧ u.parts = s.parts := by
  have hkeeps := vfsOff_keeps s
  have h0 : 0 ∉ vfNumbers := by decide
  refine ⟨vfsOff s, rfl, numVfs_vfsOff s, fun f hf hne => fnDown_vfsOff_of_sheds .rfl' hf hne, ?_, hkeeps.slots_eq (by decide),
    hkeeps.parts_eq (by decide)⟩
  rw [vfsOff_eq, fnOf_noVfs, fnOf_foldl_fnReset h0]

theorem vfFlr_of_enabled {k : Fin 9} (h0 : k.val ≠ 0) (hk : k.val ≤ s.hif.numVfs) :
    Gives (.vfFlr k) s fun u => FnDown s u k ∧ u.slots = s.slots ∧ u.parts = s.parts := by
  have hkeeps := fnReset_keeps s k
  refine ⟨fnReset s k, ?_, fnDown_fnReset_of_sheds .rfl' k, hkeeps.slots_eq (by decide), hkeeps.parts_eq (by decide)⟩
  simp only [exec, execVfFlr, h0, Nat.not_lt.2 hk, decide_false, Bool.or_false, Bool.false_eq_true, if_false]

theorem pf0Flr_of (s : State) :
    Gives .pf0Flr s fun u => u.hif.numVfs = 0 ∧ u.hif.bar4Base = 0 ∧ (∀ f < 9, FnDown s u f) ∧ u.slots = s.slots ∧
      u.parts = s.parts :=
  have hkeeps := pf0Reset_keeps s
  ⟨pf0Reset s, rfl, numVfs_pf0Reset s, bar4Base_pf0Reset s, fun _ hf => fnDown_pf0Reset s hf, hkeeps.slots_eq (by decide),
    hkeeps.parts_eq (by decide)⟩

theorem vfEnableSet_of_presented {n : Nat} (hn : n ≤ 8) (hp : s.boot.presented = true) (hb : s.boot.st ≠ .recovery) :
    exec (.vfEnableSet n) s = .next { s with hif := { s.hif with numVfs := n } } := by
  simp only [exec, execVfEnableSet, hp, hb, Nat.not_lt.2 hn, Bool.not_true, decide_false, Bool.or_false, Bool.false_eq_true,
    if_false]

/-! ### The link itself (R385) -/

/-- PERST_N as a host reset notes it. -/
def perstNoted (s : State) (perst : Bool) : State :=
  if perst && !s.side.perst then
    { s with side := { s.side with perst := true, perstAt := nowNs s, perstStuck := false } } else s

/-- BAR4 back at 1 GiB. -/
def bar4Small (u : State) : State := modFn u 0 fun x => { x with bar4Size := 1 }

/-- The link down. -/
def linkGone (u : State) : State :=
  { u with hif := { u.hif with speed := 0, width := 0, flit := false, belowMin := false, hostUp := false } }

/-- A host link reset: every function as for its FLR, and the link down. -/
def hostLinkDown (s : State) : State := linkGone (bar4Small (pf0Reset s))

theorem fnDown_bar4Small {f : Nat} (h : FnDown s u f) : FnDown s (bar4Small u) f := by
  refine fnDown_of_eq (g := fun x => if f = 0 then { x with bar4Size := 1 } else x) h rfl ?_ fun x => ?_
  · split
    case isTrue h => rw [h, bar4Small, fnOf_modFn_same]
    case isFalse h => rw [bar4Small, fnOf_modFn_other _ _ h]
  · split
    · rfl
    · rfl

theorem fnDown_linkGone {f : Nat} (h : FnDown s u f) : FnDown s (linkGone u) f := fnDown_of_eq (g := id) h rfl rfl fun _ => rfl

theorem numVfs_hostLinkDown (s : State) : (hostLinkDown s).hif.numVfs = 0 := by
  have h (u : State) : (linkGone (bar4Small u)).hif.numVfs = u.hif.numVfs := rfl
  rw [hostLinkDown, h, numVfs_pf0Reset]

theorem hif_linkGone (u : State) : (linkGone u).hif.hostUp = false ∧ (linkGone u).hif.speed = 0 := ⟨rfl, rfl⟩

theorem exec_hostLinkReset_of_on (perst : Bool) (hon : s.side.mainOn = true) :
    exec (.hostLinkReset perst) s = .next (hostLinkDown (perstNoted s perst)) := by
  simp only [exec, execHostLinkReset, hon, Bool.not_true, Bool.false_eq_true, if_false, hostLinkDown, linkGone, bar4Small, perstNoted]

theorem hostLinkDown_keeps (s : State) : Keeps [.hif, .log] s (hostLinkDown s) :=
  (Keeps.setHif ((modFn_keeps ..).after (pf0Reset_keeps s))).within rfl

theorem fnDown_hostLinkDown (s : State) {f : Nat} (hf : f < 9) : FnDown s (hostLinkDown s) f :=
  fnDown_linkGone (fnDown_bar4Small (fnDown_pf0Reset s hf))

theorem fnDown_of_start_eq {f : Nat} (h : FnDown t u f) (hr : t.hif.rings = s.hif.rings) : FnDown s u f := by
  obtain ⟨hrings, hfn⟩ := h
  exact ⟨fun q hq => hrings q (fnRings_of_rings_eq hr f ▸ hq), hfn⟩

theorem hostLinkReset_of_on (perst : Bool) (hon : s.side.mainOn = true) :
    Gives (.hostLinkReset perst) s fun u => u.hif.hostUp = false ∧ u.hif.numVfs = 0 ∧
      u.hif.speed = 0 ∧ (∀ f < 9, FnDown s u f) ∧ (perst = true → u.side.perst = true) ∧ u.slots = s.slots ∧ u.parts = s.parts ∧
      u.tmb = s.tmb ∧ u.tiles = s.tiles := by
  have hnoted : Keeps [.side] s (perstNoted s perst) := by
    unfold perstNoted
    exact (Keeps.either (.setSide .nothing) .nothing).within rfl
  have hkeeps := (hostLinkDown_keeps (perstNoted s perst)).after hnoted
  obtain ⟨hup, hspeed⟩ := hif_linkGone (bar4Small (pf0Reset (perstNoted s perst)))
  refine ⟨_, exec_hostLinkReset_of_on perst hon, hup, numVfs_hostLinkDown _, hspeed, fun f hf =>
    fnDown_of_start_eq (fnDown_hostLinkDown _ hf) (congrArg Hif.rings (hnoted.hif_eq (by decide))), fun hp => ?_, hkeeps.slots_eq (by decide), hkeeps.parts_eq (by decide),
    hkeeps.tmb_eq (by decide), hkeeps.tiles_eq (by decide)⟩
  rw [(hostLinkDown_keeps _).side_eq (by decide), perstNoted, hp]
  cases hs : s.side.perst
  · rfl
  · exact hs

/-- The writer never lowers ALERT. -/
theorem alert_pushErr_of_raised (h : s.ras.alert = true) (c : RecCode) (a : ErrArgs) : (pushErr s c a).ras.alert = true := by
  have hwrite (t : State) (e : ErrRec) (ht : t.ras.alert = true) : (writeErr t e).ras.alert = true := by
    have hfire (v : State) : (fire v 0 5).ras = v.ras := (fire_keeps ..).ras_eq (by decide)
    unfold writeErr
    dsimp only
    split
    · exact ht
    · split
      · exact congrArg Ras.alert (hfire _)
      · exact congrArg Ras.alert (hfire _)
  have hfold (l : List ErrRec) (t : State) (ht : t.ras.alert = true) : (l.foldl writeErr t).ras.alert = true := by
    induction l generalizing t with
    | nil => exact ht
    | cons e l ih => exact ih _ (hwrite t e ht)
  have hdrain (n : Nat) (e : ErrRec) : (queueErr (drainErrs n s) e).ras.alert = true := hfold _ _ h
  unfold pushErr
  extract_lets r d0 d e
  split
  · exact h
  · exact hdrain ..

/-- A trained link is up in its mode; below MIN_MODE it raises ALERT with its record. -/
theorem linkTrained_of_mode {speed width : Nat} {flit : Bool} (hon : s.side.mainOn = true) (hp : s.side.perst = false)
    (hmode : modeRank speed width ≠ 0) :
    Gives (.linkTrained speed width flit) s fun u => u.hif.speed = speed ∧ u.hif.width = width ∧ u.hif.flit = flit ∧
      u.hif.hostUp = true ∧ u.hif.belowMin = decide (modeRate (modeRank speed width) < modeRate s.hif.minMode) ∧
      (modeRate (modeRank speed width) < modeRate s.hif.minMode → u.ras.alert = true ∧
        (QueueOpen s → Recorded s u .hifLinkLow [speed, width, s.hif.minMode])) := by
  have hexec : exec (.linkTrained speed width flit) s =
      .next (checkMode { s with hif := { s.hif with speed := speed, width := width, flit := flit, hostUp := true } }) := by
    simp only [exec, execLinkTrained, hon, hp, hmode, Bool.not_true, Bool.or_false, decide_false, Bool.false_eq_true, if_false]
  have hspeed : (speed != 0) = true := by
    refine bne_iff_ne.2 fun h => hmode ?_
    subst h
    rfl
  refine ⟨_, hexec, ?_⟩
  unfold checkMode
  dsimp only
  rw [hspeed, Bool.true_and]
  split
  case isTrue h =>
    have hhif {β : Type} (v : Hif → β) (hv : ∀ x b, v { x with fns := b } = v x) (t : State) (a : ErrArgs) :
        v (pushErr t .hifLinkLow a).hif = v t.hif := pushErr_hif_field t _ a v hv
    rw [hhif Hif.speed fun _ _ => rfl, hhif Hif.width fun _ _ => rfl, hhif Hif.flit fun _ _ => rfl, hhif Hif.hostUp fun _ _ => rfl,
      hhif Hif.belowMin fun _ _ => rfl]
    exact ⟨rfl, rfl, rfl, rfl, rfl, fun _ => ⟨alert_pushErr_of_raised rfl _ _, fun ho => recorded_pushErr ho rfl⟩⟩
  case isFalse h =>
    exact ⟨rfl, rfl, rfl, rfl, rfl, fun hlow => absurd (decide_eq_true hlow) h⟩

/-! ### Bus mastering (R394, R399) -/

/-- A ring in one state goes to another. -/
def Ring.moved (a b : RingSt) (x : Ring) : Ring := if x.st == a then { x with st := b } else x

/-- The rings of a list that are in state `a` go to `b`. -/
def ringsMoved (a b : RingSt) (s : State) (l : List (Nat × Nat)) : State :=
  l.foldl (fun s r => if (ringOf s r.1 r.2).st == a then setRingSt s r.1 r.2 b else s) s

theorem ringAt_ringsMoved {a b : RingSt} (hab : b ≠ a) (s : State) (l : List (Nat × Nat)) (i : Nat) :
    ringAt (ringsMoved a b s l) i = if i ∈ l.map ringPlace then (ringAt s i).moved a b else ringAt s i := by
  have hba : (b == a) = false := beq_eq_false_iff_ne.2 hab
  refine ringAt_foldl (g := Ring.moved a b) (fun t q j => ?_) (fun x => ?_) l s i
  · by_cases hj : j = ringPlace q
    · subst hj
      rw [if_pos rfl, Ring.moved, ringOf_eq_ringAt]
      split
      · rw [ringAt_setRingSt, if_pos rfl]
      · rfl
    · rw [if_neg hj]
      split
      · rw [ringAt_setRingSt, if_neg hj]
      · rfl
  · unfold Ring.moved
    split
    · rw [if_neg (by rw [hba]; exact Bool.false_ne_true)]
    · rfl

theorem st_of_ringsMoved {a b : RingSt} (hab : b ≠ a) {l : List (Nat × Nat)} {q : Nat × Nat} (hq : q ∈ l) (s : State) :
    (ringOf (ringsMoved a b s l) q.1 q.2).st ≠ a := by
  rw [ringOf_eq_ringAt, ringAt_ringsMoved hab, if_pos (List.mem_map_of_mem hq), Ring.moved]
  split
  case isTrue => exact hab
  case isFalse h => exact fun heq => h (beq_iff_eq.2 heq)

theorem fns_ringsMoved (a b : RingSt) (s : State) (l : List (Nat × Nat)) : (ringsMoved a b s l).hif.fns = s.hif.fns := by
  refine foldl_same (fun t : State => t.hif.fns) (fun t q => ?_) l s
  split
  · exact fns_setRingSt ..
  · rfl

theorem busMasterEnableChange_of_off (fn : Fin 9) (s : State) :
    Gives (.busMasterEnableChange fn false) s fun u => (fnOf u fn).bme = false ∧
      ∀ q ∈ fnRings s fn, (ringOf u q.1 q.2).st ≠ .active := by
  refine ⟨ringsMoved .active .paused (modFn s fn fun x => { x with bme := false }) (fnRings s fn), rfl, ?_, fun q hq =>
    st_of_ringsMoved (by decide) hq _⟩
  rw [fnOf_of_fns_eq (fns_ringsMoved ..), fnOf_modFn_same]

theorem busMasterEnableChange_of_on {fn : Fin 9} (hp : (fnOf s fn).paused = false) :
    Gives (.busMasterEnableChange fn true) s fun u => (fnOf u fn).bme = true ∧
      ∀ q ∈ fnRings s fn, (ringOf u q.1 q.2).st ≠ .paused := by
  have hexec : exec (.busMasterEnableChange fn true) s =
      .next (ringsMoved .paused .active (modFn s fn fun x => { x with bme := true }) (fnRings s fn)) := by
    simp only [exec, execBusMasterEnableChange, hp, Bool.false_eq_true, if_false, if_true]
    rfl
  refine ⟨_, hexec, ?_, fun q hq => st_of_ringsMoved (by decide) hq _⟩
  rw [fnOf_of_fns_eq (fns_ringsMoved ..), fnOf_modFn_same]

/-- Settles O28: a run of function resets takes each ring once, by the owner it had (`Sheds`). -/
theorem hostLink : Obligations.HostLink := by
  unfold Obligations.HostLink
  intro s
  refine ⟨?trained, fun perst hon => hostLinkReset_of_on perst hon, fun k h0 hk => vfFlr_of_enabled h0 hk, pf0Flr_of s,
    vfEnableClear_of s, fun n hn hp hb => ⟨_, vfEnableSet_of_presented hn hp hb, rfl, rfl, rfl⟩,
    fun fn => busMasterEnableChange_of_off fn s, fun fn hp => busMasterEnableChange_of_on hp⟩
  case trained =>
    intro speed width flit hon hp hmode
    exact linkTrained_of_mode hon hp hmode

end Sys2Proof.Machine
end

section
/-! PROOFS. Register writes, the relay window, the ends of host reads (O31). -/

namespace Sys2Proof.Machine

variable {s t u : State}

/-! ### Rings under a violation (R402, R403) -/

theorem ringAt_fire (s : State) (f v : Nat) : ringAt (fire s f v) = ringAt s := by
  unfold fire
  split
  · rfl
  · rfl

theorem ringAt_pushErr (s : State) (c : RecCode) (a : ErrArgs) : ringAt (pushErr s c a) = ringAt s :=
  ringAt_of_rings_eq (pushErr_hif_field s c a Hif.rings fun _ _ => rfl)

theorem ringAt_modFn (s : State) (f : Nat) (g : Fn → Fn) : ringAt (modFn s f g) = ringAt s := ringAt_of_rings_eq rfl

theorem ringAt_ringTo (s : State) (p r : Nat) (st : RingSt) (i : Nat) :
    ringAt (ringTo s p r st) i = if i = ringPlace (p, r) then { ringAt s i with st := st } else ringAt s i := by
  rw [ringTo, ringAt_fire, ringAt_setRingSt]

/-- The pause of a function takes its ACTIVE rings alone. -/
theorem ringAt_pauseFn {i : Nat} (hi : (ringAt s i).st ≠ .active) (f : Nat) : ringAt (pauseFn s f) i = ringAt s i := by
  have hfold (l : List (Nat × Nat)) (t : State) (ht : ringAt t i = ringAt s i) : ringAt (l.foldl (fun s r =>
      if (ringOf s r.1 r.2).st == .active then ringTo s r.1 r.2 .paused else s) t) i = ringAt s i := by
    induction l generalizing t with
    | nil => exact ht
    | cons q l ih =>
      refine ih _ ?_
      dsimp only
      split
      case isTrue h =>
        rw [ringAt_ringTo, if_neg, ht]
        rintro rfl
        exact hi (ht ▸ beq_iff_eq.1 h)
      case isFalse => exact ht
  unfold pauseFn
  dsimp only
  rw [ringAt_pushErr, ringAt_modFn]
  exact hfold _ s rfl

/-- A violation changes no ring that is not ACTIVE. -/
theorem ringAt_violate {i : Nat} (hi : (ringAt s i).st ≠ .active) (f : Nat) {rec : State → State}
    (hrec : ∀ t, ringAt (rec t) = ringAt t) : ringAt (violate s f rec) i = ringAt s i := by
  have hcounted (g : Fn → Fn) : ringAt (modFn (rec s) f g) i = ringAt s i := by rw [ringAt_modFn, hrec]
  fun_cases violate s f rec
  · rw [ringAt_modFn]
  · rw [ringAt_pauseFn (by rw [hcounted]; exact hi), hcounted]
  · exact hcounted _

/-! ### Register writes (R389, R393) -/

theorem violOf_writeIgnored (s : State) (o : Origin) (x w v : Nat) : violOf 0 (writeIgnored s o x w v) = violOf 0 s := by
  unfold writeIgnored violOf
  split
  · rw [fnOf_ledger]
  · rfl

/-- A write of a bad size or alignment by PF0 is counted once. -/
theorem registerWrite_of_unsized {off w v : Nat} (hon : s.side.mainOn = true) (hsize : writeSized off w = false) :
    Gives (.registerWrite .pf0 0 off w v) s fun u => (fnOf u 0).viol = satAdd 32 (fnOf s 0).viol 1 := by
  have hwrite : regWrite .pf0 0 off w v s = violate (writeIgnored s .pf0 off w (v % 2 ^ (8 * w))) 0 id := by
    simp only [regWrite, hon, hsize, Bool.not_true, Bool.not_false, Bool.false_eq_true, if_false, if_true, writeViol,
      show (0 : Nat) ≠ 2 by decide]
  refine ⟨_, rfl, ?_⟩
  rw [hwrite]
  refine (violOf_violate (fun _ => rfl) _).trans ?_
  rw [violOf_writeIgnored]
  rfl

/-- A ring page's DB is the doorbell of its ring. -/
theorem regWrite_of_db (p : Fin 8) (r : Fin 5) (v : BitVec 32) (hon : s.side.mainOn = true) :
    regWrite .pf0 2 (p * 0x200000 + r * 0x1000) 4 v.toNat s = dbWrite s 0 p r v.toNat := by
  have hv : v.toNat % 2 ^ (8 * 4) = v.toNat := Nat.mod_eq_of_lt v.isLt
  have hpart : (p.val * 0x200000 + r.val * 0x1000) / 0x200000 % 8 = p := by omega
  have hoff : (p.val * 0x200000 + r.val * 0x1000) % 0x200000 = r.val * 0x1000 := by omega
  have h4 : r.val * 0x1000 % 4 = 0 := Nat.mod_eq_zero_of_dvd (Dvd.dvd.mul_left (by norm_num) _)
  have hreg : ∃ g, ringRegAt s p (r.val * 0x1000) = some g := by
    have hr : ¬ 5 ≤ r.val := by omega
    unfold ringRegAt
    dsimp only
    rw [Nat.mul_div_cancel _ (by decide), if_neg hr, if_pos (by omega)]
    exact ⟨_, rfl⟩
  have hsized : writeSized (r.val * 0x1000) 4 = true := by simp [writeSized, h4]
  obtain ⟨g, hg⟩ := hreg
  have hpage : pageWrite s 0 p (r.val * 0x1000) 4 v.toNat = dbWrite s 0 p r v.toNat := by
    simp [pageWrite, fnLive, vfAbsent, hsized, hg]
  simp only [regWrite, hon, hv, hpart, hoff, Bool.not_true, Bool.false_eq_true, if_false, if_true, hpage]

theorem exec_ledgerSelWrite_of {o : Origin} {sq : Nat} (hon : s.side.mainOn = true) (ho : regOrigin o = true)
    (hrec : s.boot.st = .recovery → o = .mgmt) :
    exec (.ledgerSelWrite o sq) s = .next { s with log := { s.log with ledgerSel := sq % 2 ^ 64 } } := by
  have hmay : (decide (s.boot.st = .recovery) && o != .mgmt) = false := by
    by_cases h : s.boot.st = .recovery
    · simp [hrec h]
    · simp [h]
  simp only [exec, execLedgerSelWrite, hon, ho, hmay, Bool.not_true, Bool.or_false, Bool.false_eq_true, if_false]

theorem exec_wideRegisterLowRead_of (hon : s.side.mainOn = true) (rd : Origin) (off : Nat) :
    exec (.wideRegisterLowRead rd off) s = .next (emit (readReg s rd off 8).1 (.reply rd off (.data (readReg s rd off 8).2))) := by
  simp only [exec, execWideRegisterLowRead, hon, Bool.not_true, Bool.false_eq_true, if_false]

/-! ### The relay window (R401) -/

/-- A queue with room takes a record and nothing goes out. -/
theorem out_pushErr_of_open (ho : QueueOpen s) (c : RecCode) (a : ErrArgs) : (pushErr s c a).out = s.out := by
  obtain ⟨e, he, -⟩ := pushErr_of_open ho c a
  rw [he]
  rfl

/-- What went out stays out while records are written. -/
theorem mem_out_pushErr {o : Out} (h : o ∈ s.out) (c : RecCode) (a : ErrArgs) : o ∈ (pushErr s c a).out := by
  have hfire (t : State) (ht : o ∈ t.out) : o ∈ (fire t 0 5).out := by
    unfold fire
    split
    · exact ht
    · exact List.mem_append_left _ ht
  have hwrite (t : State) (e : ErrRec) (ht : o ∈ t.out) : o ∈ (writeErr t e).out := by
    unfold writeErr
    dsimp only
    split
    · exact ht
    · split
      · exact List.mem_append_left _ (hfire _ ht)
      · exact hfire _ ht
  have hfold (l : List ErrRec) (t : State) (ht : o ∈ t.out) : o ∈ (l.foldl writeErr t).out := by
    induction l generalizing t with
    | nil => exact ht
    | cons e l ih => exact ih _ (hwrite t e ht)
  have hdrain (n : Nat) (e : ErrRec) : o ∈ (queueErr (drainErrs n s) e).out := hfold _ _ h
  unfold pushErr
  extract_lets r d0 d e
  split
  · exact h
  · exact hdrain ..

section Relay
variable {rd : Origin} {off w : Nat}

theorem relayAccess_of_unreachable (hrun : s.boot.st = .run)
    (hno : s.hif.front = false ∨ (routeOf s s.hif.relayMod).reachable = false) (ho : QueueOpen s) :
    Gives (.relayAccess rd off w none) s fun u =>
      u.out = s.out ++ [.reply rd off (.data (2 ^ (8 * w) - 1))] ∧ Recorded s u .hifRelayTimeout [s.hif.relayMod] := by
  have hgo : (!s.hif.front || !(routeOf s s.hif.relayMod).reachable) = true := by
    rcases hno with h | h
    · rw [h]; rfl
    · rw [h, Bool.not_false, Bool.or_true]
  have hexec : exec (.relayAccess rd off w none) s =
      .next (emit (relayRecord s s.hif.relayMod) (.reply rd off (.data (allOnes w)))) := by
    simp only [exec, execRelayAccess, hrun, hgo, ne_eq, not_true, if_false, if_true]
  refine ⟨_, hexec, ?_, recorded_pushErr ho rfl⟩
  exact congrArg (· ++ [_]) (out_pushErr_of_open ho _ _)

theorem relays_sendVc0 (s : State) (d kind : Nat) (body : List Nat) : (sendVc0 s d kind body).lnk.relays = s.lnk.relays := by
  unfold sendVc0
  split
  · rfl
  · rfl

theorem relayAccess_of_read (hrun : s.boot.st = .run) (hfront : s.hif.front = true)
    (hreach : (routeOf s s.hif.relayMod).reachable = true) :
    Gives (.relayAccess rd off w none) s fun u =>
      ∃ q ∈ u.lnk.relays, q.who = rd ∧ q.module = s.hif.relayMod ∧ q.off = off ∧ q.since = nowNs s := by
  simp only [Gives, exec, execRelayAccess, hrun, hfront, hreach, ne_eq, not_true, if_false]
  refine ⟨_, rfl, ⟨rd, s.hif.relayMod, off, w, nowNs s⟩, ?_, rfl, rfl, rfl, rfl⟩
  rw [relays_sendVc0]
  exact List.mem_append_right _ (List.mem_singleton_self _)

theorem exec_relayAccess_of_write (hrun : s.boot.st = .run) (hfront : s.hif.front = true)
    (hreach : (routeOf s s.hif.relayMod).reachable = true) (v : Nat) :
    exec (.relayAccess rd off w (some v)) s = .next (sendVc0 s s.hif.relayMod 2 [off, w, v]) := by
  simp only [exec, execRelayAccess, hrun, hfront, hreach, ne_eq, not_true, Bool.not_true, Bool.or_false, Bool.false_eq_true, if_false]

end Relay

/-- The relayed reads of a module that are 50 µs old. -/
def dueRelays (s : State) (m : Nat) : List RelayRead :=
  s.lnk.relays.filter fun r => r.module == m && decide (r.since + 50000 ≤ nowNs s)

/-- A relayed read that never came back is answered all ones. -/
def answerOnes (s : State) (r : RelayRead) : State := emit (relayRecord s r.module) (.reply r.who r.off (.data (allOnes r.width)))

theorem mem_dueRelays {m : Nat} {q : RelayRead} :
    q ∈ dueRelays s m ↔ q ∈ s.lnk.relays ∧ q.module = m ∧ q.since + 50000 ≤ nowNs s := by
  simp [dueRelays]

theorem relays_answerOnes (l : List RelayRead) (s : State) : (l.foldl answerOnes s).lnk = s.lnk := by
  have hemit (t : State) (o : Out) : (emit t o).lnk = t.lnk := rfl
  refine foldl_same State.lnk (fun t q => ?_) l s
  rw [answerOnes, hemit, relayRecord, pushErr_lnk]

theorem mem_out_answerOnes {q : RelayRead} {l : List RelayRead} (hq : q ∈ l) (s : State) :
    .reply q.who q.off (.data (2 ^ (8 * q.width) - 1)) ∈ (l.foldl answerOnes s).out := by
  have hstay (o : Out) (l : List RelayRead) (t : State) (ht : o ∈ t.out) : o ∈ (l.foldl answerOnes t).out := by
    induction l generalizing t with
    | nil => exact ht
    | cons j l ih => exact ih _ (List.mem_append_left _ (mem_out_pushErr ht _ _))
  induction l generalizing s with
  | nil => cases hq
  | cons j l ih =>
    rcases List.mem_cons.1 hq with rfl | h
    · exact hstay _ l _ (List.mem_append_right _ (List.mem_singleton_self _))
    · exact ih h _

theorem relayTimeout_of (m : Fin 64) (s : State) : Gives (.relayTimeout m) s fun u =>
    (∀ q ∈ u.lnk.relays, q ∈ s.lnk.relays ∧ (q.module = m.val → nowNs s < q.since + 50000)) ∧
    ∀ q ∈ s.lnk.relays, q.module = m.val → q.since + 50000 ≤ nowNs s →
      .reply q.who q.off (.data (2 ^ (8 * q.width) - 1)) ∈ u.out := by
  refine ⟨(dueRelays s m).foldl answerOnes
    { s with lnk := { s.lnk with relays := s.lnk.relays.filter fun r => !(dueRelays s m).contains r } }, rfl, fun q hq => ?_,
    fun q hq hm hdue => mem_out_answerOnes (mem_dueRelays.2 ⟨hq, hm, hdue⟩) _⟩
  rw [relays_answerOnes] at hq
  obtain ⟨hmem, hkept⟩ := List.mem_filter.1 hq
  refine ⟨hmem, fun hm => Nat.lt_of_not_le fun hdue => ?_⟩
  simp [mem_dueRelays, hmem, hm, hdue] at hkept

/-! ### The ends of host reads (R399) -/

theorem exec_dmaReadComplete_of_descriptors {d : DmaFail} {p : Fin 8} {r : Fin 5} (hr : r.val ≤ 2)
    (hst : (ringOf s p r).st ≠ .detached) :
    exec (.dmaReadComplete (.descriptors p r) (some d)) s =
      .next (dmaFailed (ringTo s p r .haltedDma) (ringOf s p r).owner p d) := by
  have hgo : (decide (2 < r.val) || (ringOf s p r).st == .detached) = false := by
    rw [decide_eq_false (Nat.not_lt.2 hr), beq_eq_false_iff_ne.2 hst]; rfl
  simp only [exec, execDmaReadComplete, hgo, Bool.false_eq_true, if_false]

theorem ringAt_dmaRecord (f p : Nat) (d : DmaFail) (s : State) : ringAt (dmaRecord f p d s) = ringAt s := ringAt_pushErr ..

/-- A ring halted for a failed read stays so, also where the violation pauses its function. -/
theorem st_dmaFailed_ringTo (s : State) (p r f q : Nat) (d : DmaFail) :
    (ringOf (dmaFailed (ringTo s p r .haltedDma) f q d) p r).st = .haltedDma := by
  have hst : (ringAt (ringTo s p r .haltedDma) (ringPlace (p, r))).st = .haltedDma := by
    rw [ringAt_ringTo, if_pos rfl]
  rw [ringOf_eq_ringAt, dmaFailed, ringAt_violate (by rw [hst]; decide) _ (ringAt_dmaRecord f q d), hst]

/-- Settles O31: a violation leaves a halted ring as it is (`ringAt_violate`), and a register write is by definition the one
transaction of its register. -/
theorem hostAccess : Obligations.HostAccess := by
  unfold Obligations.HostAccess
  intro s
  refine ⟨fun o bar off w v => ⟨_, rfl, rfl⟩, fun off w v hon hsize => registerWrite_of_unsized hon hsize, ?db,
    fun o sq hon ho hrec => ⟨_, exec_ledgerSelWrite_of hon ho hrec, rfl⟩,
    fun rd off hon => ⟨_, exec_wideRegisterLowRead_of hon rd off, rfl⟩,
    fun rd off w hrun hno ho => relayAccess_of_unreachable hrun hno ho,
    fun rd off w hrun hfront hreach => relayAccess_of_read hrun hfront hreach,
    fun rd off w v hrun hfront hreach => ⟨_, exec_relayAccess_of_write hrun hfront hreach v, rfl⟩,
    fun m => relayTimeout_of m s, fun why => ⟨_, rfl, rfl⟩,
    fun d p r hr hst => ⟨_, exec_dmaReadComplete_of_descriptors hr hst, rfl, st_dmaFailed_ringTo ..⟩⟩
  case db =>
    intro p r v hon
    exact ⟨_, rfl, congrArg Host.Outcome.next (regWrite_of_db p r v hon).symm⟩

end Sys2Proof.Machine
end

section
/-! PROOFS. Doorbells, fetches, output rings, the mailbox, a pause's end (O30). -/

namespace Sys2Proof.Machine

variable {s t u : State}

/-! ### A doorbell (R393, R403) -/

section Doorbell
variable {fn : Fin 9} {p r v : Nat}

/-- A doorbell in its function's pause is latched. -/
theorem dbWrite_of_paused (hrun : s.boot.st = .run) (hlive : fnLive s fn = true) (habs : vfAbsent s fn = false)
    (hdrv : driverOf s p = fn.val) (hp : (fnOf s fn).paused = true) :
    dbWrite s fn p r v = modRing s p r fun y => { y with latched := some v } := by
  simp [dbWrite, hrun, hlive, habs, hdrv, hp]

/-- A doorbell of a ring that takes it acts, and one that passes on a submit ring wakes. -/
theorem dbWrite_of_taken (hrun : s.boot.st = .run) (hlive : fnLive s fn = true) (habs : vfAbsent s fn = false)
    (hdrv : driverOf s p = fn.val) (hp : (fnOf s fn).paused = false)
    (hst : (ringOf s p r).st = .active ∨ (ringOf s p r).st = .paused) :
    dbWrite s fn p r v = if r < 3 && doorbellOk (ringOf s p r) r v then wakeUp (doorbell s fn p r v) (.doorbell fn)
      else doorbell s fn p r v := by
  have hmay : ((ringOf s p r).st ≠ .detached) ∧ ¬ ((ringOf s p r).st = .haltedViolation ∨ (ringOf s p r).st = .haltedDma) := by
    rcases hst with h | h <;> rw [h] <;> decide
  obtain ⟨hdet, hhalt⟩ := hmay
  have hhalt' : (decide ((ringOf s p r).st = .haltedViolation) || decide ((ringOf s p r).st = .haltedDma)) = false := by
    rw [← Bool.decide_or]
    exact decide_eq_false hhalt
  simp only [dbWrite, hrun, hlive, habs, hdrv, hp, hdet, hhalt', ne_eq, not_true, decide_false, Bool.not_true, Bool.or_false,
    Bool.false_eq_true, if_false]

end Doorbell

/-! ### The record of a violation (R403, R453) -/

theorem errQueue_modRing (s : State) (p r : Nat) (g : Ring → Ring) : (modRing s p r g).log.errQueue = s.log.errQueue := rfl

theorem errQueue_setRingSt (s : State) (p r : Nat) (st : RingSt) : (setRingSt s p r st).log.errQueue = s.log.errQueue := by
  unfold setRingSt
  dsimp only
  split
  · rfl
  · rw [ledger_errQueue, errQueue_modRing]

theorem errQueue_ringTo (s : State) (p r : Nat) (st : RingSt) : (ringTo s p r st).log.errQueue = s.log.errQueue := by
  rw [ringTo, fire_log, errQueue_setRingSt]

/-- A record joins the queue's end, where the oldest may leave it; or it is dropped. -/
theorem errQueue_pushErr (s : State) (c : RecCode) (a : ErrArgs) : (pushErr s c a).log.errQueue = s.log.errQueue ∨
    ∃ e, (pushErr s c a).log.errQueue = s.log.errQueue.drop (errExcess s) ++ [e] := by
  have hqueue (n : Nat) (e : ErrRec) : (queueErr (drainErrs n s) e).log.errQueue = s.log.errQueue.drop n ++ [e] :=
    congrArg (· ++ [e]) (drainErrs_queue n s).1
  unfold pushErr
  extract_lets r d0 d e
  split
  · exact .inl rfl
  · exact .inr ⟨e, hqueue ..⟩

/-- The newest record stays in the queue when one more is written. -/
theorem newest_mem_pushErr {q : List ErrRec} {e : ErrRec} (hq : s.log.errQueue = q ++ [e]) (hlen : q.length < 4096) (c : RecCode)
    (a : ErrArgs) : e ∈ (pushErr s c a).log.errQueue := by
  rcases errQueue_pushErr s c a with h | ⟨j, h⟩
  · rw [h, hq]
    exact List.mem_append_right _ (List.mem_singleton_self _)
  · have hroom : errExcess s ≤ q.length := by
      have hone : s.log.errQueue.length = q.length + 1 := by rw [hq, List.length_append]; rfl
      unfold errExcess
      omega
    rw [h, hq, List.drop_append_of_le_length hroom]
    exact List.mem_append_left _ (List.mem_append_right _ (List.mem_singleton_self _))

/-- A violation outside a pause leaves its record in the queue, though it may bring a pause with a record of its own. -/
theorem exists_mem_violate {f : Nat} {rec : State → State} {P : ErrRec → Prop} (ho : QueueOpen s) (hp : (fnOf s f).paused = false)
    (hrec : ∃ e, (rec s).log.errQueue = s.log.errQueue ++ [e] ∧ P e) : ∃ e ∈ (violate s f rec).log.errQueue, P e := by
  obtain ⟨e, he, hP⟩ := hrec
  have hcounted (g : Fn → Fn) : (modFn (rec s) f g).log.errQueue = s.log.errQueue ++ [e] := he
  have hpause {t : State} (ht : t.log.errQueue = s.log.errQueue ++ [e]) : e ∈ (pauseFn t f).log.errQueue := by
    have hmod (u : State) (g : Fn → Fn) : (modFn u f g).log.errQueue = u.log.errQueue := rfl
    refine newest_mem_pushErr (q := s.log.errQueue) ?_ ho _ _
    rw [hmod, foldl_same (fun u : State => u.log.errQueue) fun u q => ?_, ht]
    split
    · exact errQueue_ringTo ..
    · rfl
  refine ⟨e, ?_, hP⟩
  fun_cases violate s f rec
  case case1 h => exact absurd h (by rw [hp]; decide)
  · exact hpause (hcounted _)
  · rw [hcounted]
    exact List.mem_append_right _ (List.mem_singleton_self _)

/-- A doorbell that fails its check halts its ring, its indices standing, and is one violation with its record. -/
theorem doorbell_of_bad {fn : Fin 9} {p r v : Nat} (hbad : doorbellOk (ringOf s p r) r v = false) (hp : (fnOf s fn).paused = false)
    (ho : QueueOpen s) :
    (ringOf (doorbell s fn p r v) p r).st = .haltedViolation ∧
    (ringOf (doorbell s fn p r v) p r).pidx = (ringOf s p r).pidx ∧ (ringOf (doorbell s fn p r v) p r).cidx = (ringOf s p r).cidx ∧
    (fnOf (doorbell s fn p r v) fn).viol = satAdd 32 (fnOf s fn).viol 1 ∧
    ∃ e ∈ (doorbell s fn p r v).log.errQueue, e.code = .hifDoorbell ∧
      e.detail = [fn.val, r, v, (ringOf s p r).pidx, (ringOf s p r).cidx] := by
  have hring : ringAt (ringTo s p r .haltedViolation) (ringPlace (p, r)) =
      { ringAt s (ringPlace (p, r)) with st := .haltedViolation } := by rw [ringAt_ringTo, if_pos rfl]
  have hpaused : (fnOf (ringTo s p r .haltedViolation) fn).paused = false := by
    have hfire (u : State) (k w : Nat) : (fnOf (fire u k w) fn).paused = (fnOf u fn).paused := by
      unfold fire
      split
      · by_cases hk : fn.val = k
        · rw [hk, fnOf_modFn_same]
        · rw [fnOf_modFn_other _ _ hk]
      · rw [fnOf_emit]
    rw [ringTo, hfire, fnOf_of_fns_eq (fns_setRingSt ..), hp]
  have hopen : QueueOpen (ringTo s p r .haltedViolation) := by rwa [QueueOpen, errQueue_ringTo]
  have hdb : doorbell s fn p r v = violate (ringTo s p r .haltedViolation) fn fun s' => pushErr s' .hifDoorbell
      { status := .violation, part := p, detail := [fn.val, r, v, (ringOf s p r).pidx, (ringOf s p r).cidx] } := by
    simp only [doorbell, hbad, Bool.false_eq_true, if_false]
  have hstays : ringOf (doorbell s fn p r v) p r = { ringAt s (ringPlace (p, r)) with st := .haltedViolation } := by
    rw [hdb, ringOf_eq_ringAt, ringAt_violate (by rw [hring]; exact RingSt.noConfusion) _ fun t => ringAt_pushErr .., hring]
  rw [hstays, hdb]
  refine ⟨rfl, rfl, rfl, ?_, exists_mem_violate hopen hpaused (pushErr_recorded hopen _ _)⟩
  refine (violOf_violate (fun t => violOf_pushErr ..) _).trans ?_
  rw [violOf_ringTo]
  rfl

theorem doorbellWrite_eq (fn : Fin 9) (p : Fin 8) (r : Fin 5) (v : BitVec 32) (s : State) :
    exec (.doorbellWrite fn p r v) s = .next (dbWrite s fn p r v.toNat) := rfl

theorem doorbell_of_submit {fn p r v : Nat} (hr : r < 3) (hok : doorbellOk (ringOf s p r) r v = true) :
    doorbell s fn p r v = modRing s p r fun y => { y with db := v, pidx := v } := by
  simp only [doorbell, hok, if_true, hr]

theorem doorbell_of_output {fn p r v : Nat} (hr : 3 ≤ r) (hok : doorbellOk (ringOf s p r) r v = true) :
    doorbell s fn p r v = ringAck s p r v := by
  simp only [doorbell, hok, if_true, Nat.not_lt.2 hr, if_false]

/-! ### A fetch (R395, R417) -/

section Fetch
variable {p r f : Nat} {d : Fetched}

theorem ringOf_of_rings_eq (h : u.hif.rings = s.hif.rings) (p r : Nat) : ringOf u p r = ringOf s p r := by rw [ringOf, h, ringOf]

/-- A command that is known joins those taken, and the consumer index goes on by one. -/
theorem takeOne_of_known (hd : cmdKnown d.cmd = true) (s : State) :
    (ringOf (takeOne p r f s d) p r).cidx = ((ringOf s p r).cidx + 1) % 2 ^ 32 ∧
      (takeOne p r f s d).hif.taken.map Taken.tag = s.hif.taken.map Taken.tag ++ [d.tag] := by
  have htaken (u : State) (g : Ring → Ring) : (modRing u p r g).hif.taken = u.hif.taken := rfl
  simp only [takeOne, hd, Bool.not_true, Bool.false_eq_true, if_false, ringOf_modRing_same, htaken, journal_hif, List.map_append,
    List.map_cons, List.map_nil, and_true]
  refine congrArg (fun x : Ring => (x.cidx + 1) % 2 ^ 32) ?_
  exact ringOf_of_rings_eq (by rfl) ..

theorem foldl_takeOne {ds : List Fetched} (hknown : ∀ d ∈ ds, cmdKnown d.cmd = true) (s : State) :
    (ringOf (ds.foldl (takeOne p r f) s) p r).cidx % 2 ^ 32 = ((ringOf s p r).cidx + ds.length) % 2 ^ 32 ∧
      (ds ≠ [] → (ringOf (ds.foldl (takeOne p r f) s) p r).cidx < 2 ^ 32) ∧
      (ds.foldl (takeOne p r f) s).hif.taken.map Taken.tag = s.hif.taken.map Taken.tag ++ ds.map Fetched.tag := by
  induction ds generalizing s with
  | nil => exact ⟨rfl, fun h => absurd rfl h, (List.append_nil _).symm⟩
  | cons d ds ih =>
    obtain ⟨hc, ht⟩ := takeOne_of_known (p := p) (r := r) (f := f) (hknown d List.mem_cons_self) s
    obtain ⟨hcs, hlt, hts⟩ := ih (fun e he => hknown e (List.mem_cons_of_mem _ he)) (takeOne p r f s d)
    refine ⟨?_, fun _ => ?_, ?_⟩
    · rw [List.foldl_cons, hcs, hc, List.length_cons]
      omega
    · rw [List.foldl_cons]
      by_cases hds : ds = []
      · rw [hds, List.foldl_nil, hc]
        exact Nat.mod_lt _ (by decide)
      · exact hlt hds
    · rw [List.foldl_cons, hts, ht, List.append_assoc]
      rfl

end Fetch



/-- A fetch has read its descriptors from the host: in two pieces where they wrap. -/
def fetchAsked (s : State) (p r n : Nat) : State :=
  let x := ringOf s p r
  let at' := x.cidx % 2 ^ x.log2
  let k := min n (2 ^ x.log2 - at')
  let s0 := emit s (.hostRead x.owner (x.base + at' * 64) (k * 64))
  if k < n then emit s0 (.hostRead x.owner x.base ((n - k) * 64)) else s0

theorem fetchAsked_of_local {p r n : Nat} (h : relayTo s p = none) :
    (fetchAsked s p r n).hif = s.hif ∧ relayTo (fetchAsked s p r n) p = none := by
  unfold fetchAsked
  dsimp only
  split
  · exact ⟨rfl, h⟩
  · exact ⟨rfl, h⟩

theorem ringFetch_of_good {p : Fin 8} {r : Fin 5} {ds : List Fetched} (hrun : s.boot.st = .run) (hawake : s.pwr.sleep = .awake)
    (hup : s.hif.hostUp = true) (hr : r.val ≤ 2) (hne : ds ≠ []) (hlen : ds.length ≤ min 64 (ringWaiting s p r))
    (hknown : ∀ d ∈ ds, cmdKnown d.cmd = true) (hahead : ∀ q < r.val, ringWaiting s p q = 0)
    (hhold : (partOf s p).hold.length < 4096) (hjour : (journalOf s p).queue.length ≤ 32768) (hrelay : relayTo s p = none) :
    Gives (.ringFetch p r ds) s fun u =>
      (ringOf u p r).cidx = ((ringOf s p r).cidx + ds.length) % 2 ^ 32 ∧
      u.hif.taken.map Taken.tag = s.hif.taken.map Taken.tag ++ ds.map Fetched.tag := by
  have hahead' : ((List.range r.val).any fun q => decide (0 < ringWaiting s p q)) = false :=
    List.any_eq_false.2 fun q hq => by simp [hahead q (List.mem_range.1 hq)]
  have hempty : ds.isEmpty = false := by cases ds with
    | nil => exact absurd rfl hne
    | cons => rfl
  have hgo : (decide (s.boot.st ≠ .run) || s.pwr.sleep != .awake || !s.hif.hostUp || decide (2 < r.val) || ds.isEmpty ||
      decide (min 64 (ringWaiting s p r) < ds.length) || (List.range r.val).any (fun q => decide (0 < ringWaiting s p q)) ||
      decide (4096 ≤ (partOf s p).hold.length) || decide (32768 < (journalOf s p).queue.length)) = false := by
    rw [hrun, hawake, hup, hempty, hahead', decide_eq_false (Nat.not_lt.2 hr), decide_eq_false (Nat.not_lt.2 hlen),
      decide_eq_false (Nat.not_le.2 hhold), decide_eq_false (Nat.not_lt.2 hjour)]
    rfl
  obtain ⟨hhif, hrel⟩ := fetchAsked_of_local (n := ds.length) (r := r.val) hrelay
  have hexec : exec (.ringFetch p r ds) s =
      .next (writeback (ds.foldl (takeOne p r (ringOf s p r).owner) (fetchAsked s p r ds.length)) p r) := by
    simp only [exec, execRingFetch]
    rw [if_neg (by rw [hgo]; exact Bool.false_ne_true)]
    unfold fetchAsked at hrel ⊢
    dsimp only at hrel ⊢
    rw [hrel]
  have hwriteback (u : State) : ringOf (writeback u p r) p r = ringOf u p r ∧ (writeback u p r).hif = u.hif := ⟨rfl, rfl⟩
  obtain ⟨hring, htaken⟩ := hwriteback (ds.foldl (takeOne p r (ringOf s p r).owner) (fetchAsked s p r ds.length))
  obtain ⟨hc, hlt, ht⟩ := foldl_takeOne (p := p) (r := r) (f := (ringOf s p r).owner) hknown (fetchAsked s p r ds.length)
  refine ⟨_, hexec, ?_, ?_⟩
  · rw [hring, ← Nat.mod_eq_of_lt (hlt hne), hc, ringOf_of_rings_eq (congrArg Hif.rings hhif)]
  · rw [htaken, ht, hhif]

/-! ### The output rings (R392, R398) -/

theorem exec_outputBatchWrite_of_writable {p : Fin 8} {r : Fin 5} (hr : 3 ≤ r.val) (hw : ringWritable s p r = true) :
    exec (.outputBatchWrite p r) s =
      .next (if 0 < (ringOf (writeback (drainRing s p r) p r) p r).unsig ∧
        (ringOf (writeback (drainRing s p r) p r) p r).modCount ≤ (ringOf (writeback (drainRing s p r) p r) p r).unsig then
          fireRing (writeback (drainRing s p r) p r) p r else writeback (drainRing s p r) p r) := by
  simp only [exec, execOutputBatchWrite, Nat.not_lt.2 hr, hw, decide_false, Bool.not_true, Bool.or_self, Bool.false_eq_true, if_false,
    Bool.and_eq_true, decide_eq_true_eq]

theorem unsig_fireRing (s : State) (p r : Nat) : (ringOf (fireRing s p r) p r).unsig = 0 := by
  rw [fireRing, ringOf_eq_ringAt, ringAt_fire, ringAt_modRing, if_pos rfl]

theorem exec_msixModerationTimer_of_due {p : Fin 8} {r : Fin 5} (hr : 3 ≤ r.val) (hun : 0 < (ringOf s p r).unsig)
    (hdue : (ringOf s p r).unsigFrom + (ringOf s p r).modTime * 1000 ≤ nowNs s) :
    exec (.msixModerationTimer p r) s = .next (fireRing s p r) := by
  simp only [exec, execMsixModerationTimer, hr, hun, hdue, decide_true, Bool.and_self, if_true]

/-! ### The mailbox's doorbell (R389, R396) -/

theorem exec_mbxDbWrite_of_good {fn : Fin 9} {v : BitVec 32} (hon : s.side.mainOn = true) (hrun : s.boot.st = .run)
    (hgo : v.getLsbD 0 = true) (hlive : fnLive s fn = true) (habs : vfAbsent s fn = false)
    (hlocal : fn.val = 0 ∨ (vfBind s fn).remote = false) (hidle : (fnOf s fn).mbxBusy = false) (hawake : s.pwr.sleep = .awake)
    (hroom : ∀ q, fnPart s fn = some q → (partOf s q).hold.length < 4096) (hknown : cmdKnown (mbxFetched (fnOf s fn)).cmd = true) :
    exec (.mbxDbWrite fn v 4) s = .next (modFn s fn fun x => { x with mbxBusy := true, mbxDone := false }) := by
  have hbit : v.toNat.testBit 0 = true := hgo
  have hfull : (match fnPart s fn with
      | some p => decide (4096 ≤ (partOf s p).hold.length)
      | none => false) = false := by
    cases hp : fnPart s fn with
    | none => rfl
    | some q => exact decide_eq_false (Nat.not_le.2 (hroom q hp))
  have hhere : ¬ (fn.val ≠ 0 ∧ (vfBind s fn).remote = true ∧
      ((mbxFetched (fnOf s fn)).cmd < 0x10 ∨ 0x13 < (mbxFetched (fnOf s fn)).cmd)) := by
    rintro ⟨h0, hrem, -⟩
    rcases hlocal with h | h
    · exact h0 h
    · exact Bool.false_ne_true (h.symm.trans hrem)
  simp only [exec, execMbxDbWrite, mbxDb, mbxGo, if_true, hon, hrun, hbit, hlive, habs, hidle, hawake, hknown, hhere, reduceCtorEq,
    decide_false, Bool.not_true, Bool.or_self, Bool.false_eq_true, Bool.false_and, if_false, ne_eq, not_true, bne_self_eq_false]
  rw [if_neg]
  exact fun h => Bool.false_ne_true (hfull.symm.trans h)

/-- A function but for what violations, pauses and vectors move. -/
def Fn.unviolated (x : Fn) : Fn :=
  { x with viol := 0, recent := [], suppressed := 0, paused := false, pauses := 0, pauseEnd := 0, pba := [] }

theorem unviolated_pushErr (s : State) (c : RecCode) (a : ErrArgs) (k : Nat) :
    (fnOf (pushErr s c a) k).unviolated = (fnOf s k).unviolated := pushErr_fn_field s c a Fn.unviolated (fun _ _ => rfl) k

theorem unviolated_modFn {f : Nat} {g : Fn → Fn} (hg : ∀ x, (g x).unviolated = x.unviolated) (s : State) (k : Nat) :
    (fnOf (modFn s f g) k).unviolated = (fnOf s k).unviolated := by
  by_cases hk : k = f
  · rw [hk, fnOf_modFn_same, hg]
  · rw [fnOf_modFn_other _ _ hk]

theorem unviolated_ringTo (s : State) (p r : Nat) (st : RingSt) (k : Nat) :
    (fnOf (ringTo s p r st) k).unviolated = (fnOf s k).unviolated := by
  have hfire (u : State) (f v : Nat) : (fnOf (fire u f v) k).unviolated = (fnOf u k).unviolated := by
    unfold fire
    split
    · exact unviolated_modFn (by exact fun _ => rfl) ..
    · rw [fnOf_emit]
  rw [ringTo, hfire, fnOf_of_fns_eq (fns_setRingSt ..)]

theorem unviolated_pauseFn (s : State) (f k : Nat) : (fnOf (pauseFn s f) k).unviolated = (fnOf s k).unviolated := by
  unfold pauseFn
  rw [unviolated_pushErr, unviolated_modFn (by exact fun _ => rfl)]
  refine foldl_same (fun u : State => (fnOf u k).unviolated) (fun u q => ?_) _ s
  split
  · exact unviolated_ringTo ..
  · rfl

theorem unviolated_violate {rec : State → State} {k : Nat} (hrec : ∀ t, (fnOf (rec t) k).unviolated = (fnOf t k).unviolated)
    (s : State) (f : Nat) : (fnOf (violate s f rec) k).unviolated = (fnOf s k).unviolated := by
  have hcounted (g : Fn → Fn) (hg : ∀ x, (g x).unviolated = x.unviolated) :
      (fnOf (modFn (rec s) f g) k).unviolated = (fnOf s k).unviolated := (unviolated_modFn hg ..).trans (hrec s)
  fun_cases violate s f rec
  · exact unviolated_modFn (by exact fun _ => rfl) ..
  · exact (unviolated_pauseFn ..).trans (hcounted _ fun _ => rfl)
  · exact hcounted _ fun _ => rfl

theorem mbxViolate_of (s : State) (f : Nat) :
    (fnOf (mbxViolate s f id) f).mbxBusy = (fnOf s f).mbxBusy ∧ (fnOf (mbxViolate s f id) f).mbxWord = (fnOf s f).mbxWord ∧
      (fnOf (mbxViolate s f id) f).viol = satAdd 32 (fnOf s f).viol 1 := by
  have hsame : (fnOf (mbxViolate s f id) f).unviolated = (fnOf s f).unviolated := by
    rw [mbxViolate, unviolated_modFn, unviolated_violate (rec := id) fun _ => rfl]
    intro x
    split
    · rfl
    · rfl
  have hviol : (fnOf (mbxViolate s f id) f).viol = (fnOf (violate s f id) f).viol := by
    rw [mbxViolate, fnOf_modFn_same]
    split
    · rfl
    · rfl
  exact ⟨(congrArg Fn.mbxBusy hsame :), (congrArg Fn.mbxWord hsame :),
    hviol.trans (violOf_violate (rec := id) (fun _ => rfl) s)⟩

theorem exec_mbxDbWrite_of_width {fn : Fin 9} {v : BitVec 32} {w : Nat} (hon : s.side.mainOn = true) (hb : s.boot.st ≠ .recovery)
    (hlive : fnLive s fn = true) (habs : vfAbsent s fn = false) (hw : w ≠ 4) :
    exec (.mbxDbWrite fn v w) s = .next (mbxViolate s fn id) := by
  simp only [exec, execMbxDbWrite, mbxDb, hw, hon, hb, hlive, habs, if_false, decide_false, Bool.not_true, Bool.or_self,
    Bool.false_eq_true]

/-! ### A pause's end (R403) -/

/-- The rings of a function return, where it masters the bus. -/
def ringsBack (bme : Bool) (s : State) (l : List (Nat × Nat)) : State :=
  l.foldl (fun s r => if (ringOf s r.1 r.2).st == .paused && bme then setRingSt s r.1 r.2 .active else s) s

theorem ringsBack_true (s : State) (l : List (Nat × Nat)) : ringsBack true s l = ringsMoved .paused .active s l := by
  simp only [ringsBack, ringsMoved, Bool.and_true]

theorem ringsBack_false (s : State) (l : List (Nat × Nat)) : ringsBack false s l = s := by
  simp [ringsBack]

/-- A host interface but for its rings. -/
def Hif.ringless (x : Hif) : Hif := { x with rings := [] }

theorem ringless_setRingSt (s : State) (p r : Nat) (st : RingSt) : (setRingSt s p r st).hif.ringless = s.hif.ringless := by
  have hmod (g : Ring → Ring) : (modRing s p r g).hif.ringless = s.hif.ringless := rfl
  unfold setRingSt
  dsimp only
  split
  · exact hmod _
  · exact (congrArg Hif.ringless (ledger_hif ..)).trans (hmod _)

/-- What the return of rings leaves: the function registers, the queue of records, each ring's latched doorbell, the drivers. -/
structure RingsReturned (s u : State) : Prop where
  hif : u.hif.ringless = s.hif.ringless
  queue : u.log.errQueue = s.log.errQueue
  parts : u.parts = s.parts
  latched (i : Nat) : (ringAt u i).latched = (ringAt s i).latched

theorem ringsReturned_ringsBack (bme : Bool) (s : State) (l : List (Nat × Nat)) : RingsReturned s (ringsBack bme s l) := by
  cases bme with
  | false =>
    rw [ringsBack_false]
    exact ⟨rfl, rfl, rfl, fun _ => rfl⟩
  | true =>
    rw [ringsBack_true]
    refine ⟨?_, ?_, ?_, fun i => ?_⟩
    · refine foldl_same (fun u : State => u.hif.ringless) (fun u q => ?_) l s
      split
      · exact ringless_setRingSt ..
      · rfl
    · refine foldl_same (fun u : State => u.log.errQueue) (fun u q => ?_) l s
      split
      · exact errQueue_setRingSt ..
      · rfl
    · refine foldl_same (fun u : State => u.parts) (fun u q => ?_) l s
      split
      · exact (setRingSt_keeps ..).parts_eq (by decide)
      · rfl
    · rw [ringAt_ringsMoved (by decide)]
      split
      · unfold Ring.moved
        split
        · rfl
        · rfl
      · rfl

theorem driverOf_of_eq (hb : u.hif.binds = s.hif.binds) (hn : u.hif.numVfs = s.hif.numVfs) (hp : u.parts = s.parts) (p : Nat) :
    driverOf u p = driverOf s p := by
  simp only [driverOf, vfBind, partOf, hb, hn, hp]

theorem drivenRings_of_eq (hb : u.hif.binds = s.hif.binds) (hn : u.hif.numVfs = s.hif.numVfs) (hp : u.parts = s.parts) (f : Nat) :
    drivenRings u f = drivenRings s f := by
  simp only [drivenRings, driverOf_of_eq hb hn hp]

/-- No doorbell was latched: none is checked. -/
theorem foldl_latchedBell {l : List (Nat × Nat)} {f : Fin 9} (h : ∀ q ∈ l, (ringOf s q.1 q.2).latched = none) :
    l.foldl (latchedBell f) s = s := by
  induction l with
  | nil => rfl
  | cons q l ih =>
    have hq : latchedBell f s q = s := by rw [latchedBell, h q List.mem_cons_self]
    rw [List.foldl_cons, hq, ih fun j hj => h j (List.mem_cons_of_mem _ hj)]

/-- A function out of its pause. -/
def unpaused (s : State) (f : Nat) : State := modFn s f fun x => { x with paused := false, suppressed := 0 }

/-- A function out of its pause, with the closing record. -/
def pauseClosed (s : State) (f : Nat) : State :=
  pushErr (unpaused s f) .hifPause { status := .violation, detail := [f, (fnOf s f).suppressed] }

theorem pauseEnd_of_due {fn : Fin 9} (hp : (fnOf s fn).paused = true) (hend : (fnOf s fn).pauseEnd ≤ nowNs s) (ho : QueueOpen s)
    (hlatched : ∀ q ∈ drivenRings s fn, (ringOf s q.1 q.2).latched = none) :
    Gives (.pauseEnd fn) s fun u => (fnOf u fn).paused = false ∧ Recorded s u .hifPause [fn.val, (fnOf s fn).suppressed] ∧
      ((fnOf s fn).bme = true → ∀ q ∈ fnRings s fn, (ringOf u q.1 q.2).st ≠ .paused) := by
  obtain ⟨s2, hs2⟩ : ∃ s2, s2 = pauseClosed s fn := ⟨_, rfl⟩
  have hrings : ringAt s2 = ringAt s := by rw [hs2, pauseClosed, ringAt_pushErr, unpaused, ringAt_modFn]
  have hhif {β : Type} (v : Hif → β) (hv : ∀ x b, v { x with fns := b } = v x) : v s2.hif = v s.hif := by
    rw [hs2, pauseClosed, pushErr_hif_field _ _ _ v hv]
    exact hv s.hif _
  have hparts : s2.parts = s.parts := by
    rw [hs2, pauseClosed, pushErr_parts]
    rfl
  have hfr : fnRings s2 fn = fnRings s fn := fnRings_of_rings_eq (hhif Hif.rings fun _ _ => rfl) fn
  have hret := ringsReturned_ringsBack (fnOf s fn).bme s2 (fnRings s2 fn)
  obtain ⟨s3, hs3⟩ : ∃ s3, s3 = ringsBack (fnOf s fn).bme s2 (fnRings s2 fn) := ⟨_, rfl⟩
  rw [← hs3] at hret
  have hdriven : drivenRings s3 fn = drivenRings s fn :=
    drivenRings_of_eq ((congrArg Hif.binds hret.hif :).trans (hhif Hif.binds fun _ _ => rfl))
      ((congrArg Hif.numVfs hret.hif :).trans (hhif Hif.numVfs fun _ _ => rfl)) (hret.parts.trans hparts) fn
  have hbells : (drivenRings s3 fn).foldl (latchedBell fn) s3 = s3 := by
    refine foldl_latchedBell fun q hq => ?_
    rw [ringOf_eq_ringAt, hret.latched, hrings]
    exact hlatched q (hdriven ▸ hq)
  have hexec : exec (.pauseEnd fn) s = .next ((drivenRings s3 fn).foldl (latchedBell fn) s3) := by
    rw [hs3, hs2]
    simp only [exec, execPauseEnd, hp, Nat.not_lt.2 hend, Bool.not_true, decide_false, Bool.or_self, Bool.false_eq_true, if_false]
    rfl
  refine .of_eq hexec hbells ⟨?_, ?_, fun hbme q hq => ?_⟩
  · rw [fnOf_of_fns_eq (congrArg Hif.fns hret.hif :), hs2, pauseClosed, pushErr_fn_field _ _ _ Fn.paused (fun _ _ => rfl), unpaused,
      fnOf_modFn_same]
  · rw [hs2] at hret
    exact Recorded.of_queue_eq (recorded_pushErr (t := unpaused s fn) ho rfl) hret.queue
  · rw [hs3, hbme, ringsBack_true]
    exact st_of_ringsMoved (by decide) (hfr ▸ hq) s2

/-- Settles O30: what a violation and its pause leave of a function is `Fn.unviolated`, of a ring that is not ACTIVE everything
(`ringAt_violate`). That GO also clears DONE is notes/assumptions/57.md. -/
theorem doorbells : Obligations.Doorbells := by
  unfold Obligations.Doorbells
  intro fn p r s
  refine ⟨?bell, fun ds hrun hawake hup hr hne hlen hknown hahead hhold hjour hrelay =>
      ringFetch_of_good hrun hawake hup hr hne hlen hknown hahead hhold hjour hrelay,
    fun hr hw => ⟨_, exec_outputBatchWrite_of_writable hr hw, rfl⟩,
    fun hr hun hdue => ⟨_, exec_msixModerationTimer_of_due hr hun hdue, rfl, unsig_fireRing ..⟩,
    fun v hon hrun hgo hlive habs hlocal hidle hawake hroom hknown =>
      ⟨_, exec_mbxDbWrite_of_good hon hrun hgo hlive habs hlocal hidle hawake hroom hknown, rfl⟩,
    fun v w hon hb hlive habs hw => ⟨_, exec_mbxDbWrite_of_width hon hb hlive habs hw, mbxViolate_of s fn⟩,
    fun hp hend ho hlatched => pauseEnd_of_due hp hend ho hlatched⟩
  case bell =>
    intro v hrun hlive habs hdrv x
    refine ⟨fun hp => ⟨_, rfl, dbWrite_of_paused hrun hlive habs hdrv hp⟩, fun hp hst => ⟨fun hr hok => ?_, fun hr hok => ?_,
      fun hbad ho => ?_⟩⟩
    · refine ⟨_, rfl, ?_⟩
      rw [dbWrite_of_taken hrun hlive habs hdrv hp hst, hok, decide_eq_true hr, Bool.and_self, if_pos rfl, doorbell_of_submit hr hok]
    · refine ⟨_, rfl, ?_⟩
      rw [dbWrite_of_taken hrun hlive habs hdrv hp hst, decide_eq_false (Nat.not_lt.2 hr), Bool.false_and,
        if_neg Bool.false_ne_true, doorbell_of_output hr hok]
    · refine .of_eq rfl ?_ (doorbell_of_bad hbad hp ho)
      rw [dbWrite_of_taken hrun hlive habs hdrv hp hst, hbad, Bool.and_false, if_neg Bool.false_ne_true]

end Sys2Proof.Machine
end

section
/-! PROOFS. What an answered command leaves of the logs and the partitions (R396, R409, R416). -/

namespace Sys2Proof.Machine

variable {s u : State}

/-! ### The logs and the partitions outside the answers -/

/-- A partition but for the completions it holds. -/
def Part.unheld (q : Part) : Part := { q with hold := [] }

/-- What an answer leaves: the logs but the record writer's part, the partitions but the completions they hold, and the blocks
that no answer touches. -/
structure Replied (s u : State) : Prop where
  log : u.log.unwritten = s.log.unwritten
  parts (p : Nat) : (partOf u p).unheld = (partOf s p).unheld
  keeps : Keeps [.parts, .hif, .log, .lnk, .ras] s u

theorem unwritten_flushErrs (s : State) : (flushErrs s).log.unwritten = s.log.unwritten := unwritten_drainErrs ..

theorem replied_of_parts_eq (hl : u.log.unwritten = s.log.unwritten) (hp : u.parts = s.parts)
    (hk : Keeps [.parts, .hif, .log, .lnk, .ras] s u) : Replied s u :=
  ⟨hl, fun p => by rw [partOf, hp, partOf], hk⟩

theorem replied_relayOut (s : State) (m vc ring : Nat) (bytes : List Byte) : Replied s (relayOut s m vc ring bytes) := by
  have hkeeps : Keeps [.hif, .log, .lnk, .ras] s (relayOut s m vc ring bytes) := relayOut_keeps ..
  refine replied_of_parts_eq ?_ (hkeeps.parts_eq (by decide)) (hkeeps.mono' (by decide))
  unfold relayOut
  dsimp only
  split
  · exact unwritten_flushErrs s
  · exact unwritten_flushErrs s

theorem replied_mbxAnswer (s : State) (f : Nat) (c : Cpl) : Replied s (mbxAnswer s f c) := by
  have hkeeps : Keeps [.hif, .log, .ras] s (mbxAnswer s f c) := mbxAnswer_keeps ..
  refine replied_of_parts_eq ?_ (hkeeps.parts_eq (by decide)) (hkeeps.mono' (by decide))
  have hmod (t : State) (g : Fn → Fn) : (modFn t f g).log = t.log := rfl
  unfold mbxAnswer
  dsimp only
  split
  · rfl
  · rw [fire_log, hmod, unwritten_flushErrs]

theorem unwritten_cplPut (s : State) (p : Nat) (c : Cpl) : (cplPut s p c).log.unwritten = s.log.unwritten := by
  have hput (t : State) (r : Nat) (bs : List Byte) (g : Ring → Ring) : (ringPut t p r bs g).log = t.log := rfl
  rw [cplPut, hput, unwritten_flushErrs]

theorem replied_postCmdCpl (s : State) (p : Nat) (c : Cpl) : Replied s (postCmdCpl s p c) := by
  have hkeeps : Keeps [.parts, .hif, .log, .lnk, .ras] s (postCmdCpl s p c) := (postCmdCpl_keeps ..).mono' (by decide)
  refine ⟨?_, fun i => ?_, hkeeps⟩
  · unfold postCmdCpl
    split
    · exact unwritten_cplPut ..
    · rfl
  · unfold postCmdCpl
    split
    · rw [partOf, (cplPut_keeps ..).parts_eq (by decide), partOf]
    · by_cases hi : i = p
      · rw [hi, partOf_modPart_same]
        rfl
      · rw [partOf_modPart_other _ _ _ _ hi]

theorem replied_postFor (s : State) (x : Src) (c : Cpl) : Replied s (postFor s x c) := by
  unfold postFor
  split
  · exact replied_relayOut ..
  · exact replied_postCmdCpl ..

theorem replied_answer (s : State) (x : Src) (c : Cpl) : Replied s (answer s x c) := by
  unfold answer
  split
  · split
    · exact replied_relayOut ..
    · exact replied_mbxAnswer ..
  · exact replied_postFor ..

theorem Replied.log_field {β : Type} (v : Log → β) (hv : ∀ l, v l.unwritten = v l) (h : Replied s u) : v u.log = v s.log := by
  rw [← hv u.log, h.log, hv]

theorem Replied.part_field {β : Type} (v : Part → β) (hv : ∀ q, v q.unheld = v q) (h : Replied s u) (p : Nat) :
    v (partOf u p) = v (partOf s p) := by
  rw [← hv (partOf u p), h.parts, hv]

theorem Replied.journalOf_eq (h : Replied s u) (p : Nat) : journalOf u p = journalOf s p :=
  h.log_field (fun l => tabGet l.journals p Journal.init) fun _ => rfl

/-! ### The entry that ends a command (R416) -/

theorem journalOf_set (t : State) (p : Nat) (k : Journal) :
    journalOf { t with log := { t.log with journals := tabSet t.log.journals p k Journal.init } } p = k := tabGet_set_same ..

/-- The newest entry of a journal is the one just queued. -/
theorem getLast?_journal (s : State) (j : JSrc) (k : Nat) (st : Status) (d : Nat) :
    ∃ e, (journalOf (journal s j k st d) j.part).queue.getLast? = some e ∧ e.kind = k ∧ e.status = st ∧
      e.tag = j.tag ∧ e.cmd = j.cmd := by
  unfold journal
  extract_lets t x e js
  refine ⟨e, ?_, rfl, rfl, rfl, rfl⟩
  have hget : journalOf { t with log := { t.log with journals := js } } j.part = { x with queue := x.queue ++ [e] } := journalOf_set ..
  rw [hget]
  exact List.getLast?_concat ..

/-- The COMPLETED entry of a command joins its partition's journal. -/
def completedEntry (s : State) (x : Src) (cmd d : Nat) : State := journal s (jsrcOf s x cmd) 2 .ok d

theorem endCmd_ok (s : State) (x : Src) (cmd result : Nat) : ∃ c, endCmd s x cmd .ok result =
    answer (completedEntry s x cmd (finalDetail cmd 0 result)) x c := ⟨_, rfl⟩

theorem finishLater_ok (s : State) (x : Src) (cmd result : Nat) : ∃ c, finishLater s x cmd .ok result =
    postFor (completedEntry s x cmd (finalDetail cmd 0 result)) x c := ⟨_, rfl⟩

theorem completed_of_replied {x : Src} {cmd d : Nat} (h : Replied (completedEntry s x cmd d) u) : Completed x cmd u := by
  obtain ⟨e, he, hfields⟩ := getLast?_journal s (jsrcOf s x cmd) 2 .ok d
  exact ⟨e, (congrArg (fun j : Journal => j.queue.getLast?) (h.journalOf_eq _)).trans he, hfields⟩

theorem completed_endCmd (s : State) (x : Src) (cmd result : Nat) : Completed x cmd (endCmd s x cmd .ok result) := by
  obtain ⟨c, hc⟩ := endCmd_ok s x cmd result
  rw [hc]
  exact completed_of_replied (replied_answer ..)

theorem completed_finishCmd (s : State) (x : Src) (cmd result : Nat) : Completed x cmd (finishCmd s x cmd .ok result) :=
  completed_endCmd ..

theorem completed_finishLater (s : State) (x : Src) (cmd result : Nat) : Completed x cmd (finishLater s x cmd .ok result) := by
  obtain ⟨c, hc⟩ := finishLater_ok s x cmd result
  rw [hc]
  exact completed_of_replied (replied_postFor ..)

/-- What adds no journal entry leaves the command completed. -/
theorem completed_of_journals_eq {x : Src} {cmd : Nat} (h : Completed x cmd s) (hj : journalOf u x.part = journalOf s x.part) :
    Completed x cmd u := by
  obtain ⟨e, he, hfields⟩ := h
  exact ⟨e, hj ▸ he, hfields⟩

theorem parts_journal (s : State) (j : JSrc) (k : Nat) (st : Status) (d p : Nat) : partOf (journal s j k st d) p = partOf s p := by
  rw [partOf, (journal_keeps ..).parts_eq (by decide), partOf]

/-- The end of a command leaves the partitions but the completions they hold. -/
theorem part_field_endCmd {β : Type} (v : Part → β) (hv : ∀ q, v q.unheld = v q) (s : State) (x : Src) (cmd : Nat) (st : Status)
    (result p : Nat) : v (partOf (endCmd s x cmd st result) p) = v (partOf s p) := by
  unfold endCmd
  extract_lets d s1
  rw [(replied_answer ..).part_field v hv, parts_journal]

theorem part_field_finishCmd {β : Type} (v : Part → β) (hv : ∀ q, v q.unheld = v q) (s : State) (x : Src) (cmd : Nat) (st : Status)
    (result p : Nat) : v (partOf (finishCmd s x cmd st result) p) = v (partOf s p) := by
  unfold finishCmd
  rw [part_field_endCmd v hv]
  split
  · rw [startCmd, parts_journal]
  · rfl

theorem part_field_acceptCmd {β : Type} (v : Part → β) (hv : ∀ q, v q.unheld = v q) (s : State) (x : Src) (cmd jseq p : Nat) :
    v (partOf (acceptCmd s x cmd jseq) p) = v (partOf s p) := by
  unfold acceptCmd
  rw [(replied_answer ..).part_field v hv, startCmd, parts_journal]

/-- A command whose checks pass is taken and does what it means. -/
theorem withCmd_of_passed {x : Src} {cmd : Nat} {checks : State → Option No} {f : State → Nat → State}
    (h : checks (takeCmd s (takerOf s x) cmd).s = none) :
    withCmd s x cmd checks f = f (takeCmd s (takerOf s x) cmd).s (takeCmd s (takerOf s x) cmd).jseq := by
  simp only [withCmd, h]

theorem firstNo_none_iff {l : List (Option No)} : firstNo l = none ↔ ∀ n ∈ l, n = none := by
  induction l with
  | nil => simp [firstNo]
  | cons n l ih => cases n with
    | none => simp [firstNo, ih]
    | some => simp [firstNo]

theorem need_of_ok {ok : Bool} (h : ok = true) (st : Status) (c : RecCode) (d : List Nat) : need ok st c d = none := if_pos h

end Sys2Proof.Machine
end

section
/-! PROOFS. Commands of the host about requests (O25). -/

namespace Sys2Proof.Machine

variable {s : State} {x : Src}

/-! ### SUBMIT (R408, R411) -/

theorem submitFmtNo_readNamed (s : State) (x y : Src) (a : SubmitArgs) (addr len : Nat) :
    submitFmtNo (readNamed s y addr len) x a = submitFmtNo s x a := by
  unfold readNamed
  split
  · rfl
  · rfl

theorem exec_submit_of_passed {a : SubmitArgs} {bs : List Byte} {t : State}
    (ht : t = readNamed (takeCmd s (takerOf s x) 1).s x a.block (reqBytes a)) (h : submitNo t x a (some (reqBlockOf a bs)) = none) :
    exec (.submit x a (.inr bs)) s = .next (admitNew t x a (reqBlockOf a bs) (takeCmd s (takerOf s x) 1).time) := by
  have hfmt : submitFmtNo (takeCmd s (takerOf s x) 1).s x a = none := by
    rw [← submitFmtNo_readNamed (takeCmd s (takerOf s x) 1).s x x a a.block (reqBytes a), ← ht]
    exact firstNo_none_iff.1 h _ List.mem_cons_self
  simp only [exec, execSubmit, hfmt, Option.isNone_none, if_true, Sum.getRight?_inr, Option.map_some, ← ht, h]

/-! ### SPECULATE (R320) -/

theorem speculate_of_passed {base n addr : Nat} {bs : List Byte}
    (h : specNo (takeCmd s (takerOf s x) 2).s x n addr (some ⟨base, nodesOf bs n⟩) = none) :
    Gives (.speculate x ⟨base, n, addr, .inr bs⟩) s fun u => (slotOf u x.slot).tree = some ⟨⟨base, nodesOf bs n⟩, some x⟩ := by
  refine ⟨_, congrArg Host.Outcome.next (withCmd_of_passed h), ?_⟩
  exact congrArg Slot.tree (slotOf_modSlot_same ..)

/-! ### CANCEL (R329) -/

theorem slotOf_startCmd (s : State) (x : Src) (cmd n : Nat) : slotOf (startCmd s x cmd) n = slotOf s n := slotOf_journal ..

theorem inRunning_of_eq {u : State} {n : Nat} (hs : slotOf u n = slotOf s n) (hp : ∀ p, (partOf u p).exec = (partOf s p).exec) :
    inRunning u n = inRunning s n := by
  rw [inRunning, hs, hp, inRunning]

theorem inRunning_startCmd (s : State) (x : Src) (cmd n : Nat) : inRunning (startCmd s x cmd) n = inRunning s n :=
  inRunning_of_eq (slotOf_startCmd ..) fun _ => congrArg Part.exec (parts_journal ..)

/-- A request in no step is closed at once. -/
theorem cancelSlot_of_idle {n : Nat} (hc : (slotOf s n).st ≠ .closing) (hf : (slotOf s n).st ≠ .free) (hrun : inRunning s n = false)
    (c : Option Src) : cancelSlot c s n = closeSlot (stopSlot s n) n 4 .cancelled := by
  have hlive : ((slotOf s n).st == .closing || (slotOf s n).st == .free) = false := by
    rw [beq_eq_false_iff_ne.2 hc, beq_eq_false_iff_ne.2 hf]; rfl
  simp only [cancelSlot, hlive, hrun, Bool.false_eq_true, if_false]

/-- A request in a step is marked for its boundary. -/
theorem cancel_of_cancelSlot {n : Nat} (hc : (slotOf s n).st ≠ .closing) (hf : (slotOf s n).st ≠ .free) (hrun : inRunning s n = true)
    (c : Option Src) : (slotOf (cancelSlot c s n) n).cancel = some c := by
  have hlive : ((slotOf s n).st == .closing || (slotOf s n).st == .free) = false := by
    rw [beq_eq_false_iff_ne.2 hc, beq_eq_false_iff_ne.2 hf]; rfl
  simp only [cancelSlot, hlive, hrun, Bool.false_eq_true, if_false, if_true, slotOf_modSlot_same]

/-- A waiting CANCEL is answered, or not, without a change of any slot or step. -/
theorem waitCancel_leaves (s : State) (x : Src) (jseq n : Nat) :
    slotOf (waitCancel s x jseq) n = slotOf s n ∧ inRunning (waitCancel s x jseq) n = inRunning s n := by
  have hslots (m : Nat) : slotOf (acceptCmd s x 3 jseq) m = slotOf s m := by
    rw [slotOf, (acceptCmd_keeps ..).slots_eq (by decide), slotOf]
  unfold waitCancel
  split
  · exact ⟨hslots n, inRunning_of_eq (hslots n) fun p => part_field_acceptCmd Part.exec (fun _ => rfl) ..⟩
  · exact ⟨slotOf_startCmd .., inRunning_startCmd ..⟩

/-- A slot that the TAG names is not FREE. -/
theorem not_free_of_slotNo (h : slotNo s x = none) : (slotOf s x.slot).st ≠ .free := by
  intro hf
  simp [slotNo, hf, need] at h

section Cancel
variable {t : State}

/-- What a CANCEL does once its checks pass. -/
def cancelDo (t : State) (x : Src) (jseq : Nat) : State :=
  if (slotOf t x.slot).st != .closing && inRunning t x.slot && (slotOf t x.slot).cancel.isNone then
    cancelSlot (some x) (waitCancel t x jseq) x.slot
  else if inRunning t x.slot then finishCmd t x 3 .ok 0
  else endCmd (cancelSlot none (startCmd t x 3) x.slot) x 3 .ok 0

theorem exec_cancel_of_passed (ht : t = (takeCmd s (takerOf s x) 3).s) (hno : cmdNo t x .any false = none) (hslot : slotNo t x = none) :
    exec (.cancel x) s = .next (cancelDo t x (takeCmd s (takerOf s x) 3).jseq) := by
  subst ht
  refine congrArg Host.Outcome.next (withCmd_of_passed ?_)
  rw [hno, hslot]
  rfl

theorem cancelDo_of_idle (hrun : inRunning t x.slot = false) (j : Nat) :
    cancelDo t x j = endCmd (cancelSlot none (startCmd t x 3) x.slot) x 3 .ok 0 := by
  simp only [cancelDo, hrun, Bool.and_false, Bool.false_and, Bool.false_eq_true, if_false]

theorem cancelDo_of_live (hrun : inRunning t x.slot = false) (hc : (slotOf t x.slot).st ≠ .closing) (hf : (slotOf t x.slot).st ≠ .free)
    (j : Nat) : cancelDo t x j = endCmd (closeSlot (stopSlot (startCmd t x 3) x.slot) x.slot 4 .cancelled) x 3 .ok 0 := by
  rw [cancelDo_of_idle hrun, cancelSlot_of_idle (by rwa [slotOf_startCmd]) (by rwa [slotOf_startCmd]) (by rwa [inRunning_startCmd])]

theorem cancel_of_cancelDo (hrun : inRunning t x.slot = true) (hc : (slotOf t x.slot).st ≠ .closing)
    (hf : (slotOf t x.slot).st ≠ .free) (hn : (slotOf t x.slot).cancel = none) (j : Nat) : (slotOf (cancelDo t x j) x.slot).cancel = some (some x) := by
  have hgo : ((slotOf t x.slot).st != .closing && inRunning t x.slot && (slotOf t x.slot).cancel.isNone) = true := by
    rw [bne_iff_ne.2 hc, hrun, hn]; rfl
  obtain ⟨hslot, hrunning⟩ := waitCancel_leaves t x j x.slot
  rw [cancelDo, if_pos hgo, cancel_of_cancelSlot (by rwa [hslot]) (by rwa [hslot]) (by rwa [hrunning])]

theorem cancelDo_of_marked (hrun : inRunning t x.slot = true) (h : (slotOf t x.slot).st = .closing ∨ (slotOf t x.slot).cancel ≠ none)
    (j : Nat) : cancelDo t x j = finishCmd t x 3 .ok 0 := by
  have hgo : ((slotOf t x.slot).st != .closing && inRunning t x.slot && (slotOf t x.slot).cancel.isNone) = false := by
    rcases h with h | h
    · rw [h]; rfl
    · rw [Option.isNone_eq_false_iff.2 (Option.isSome_iff_ne_none.2 h), Bool.and_false]
  rw [cancelDo, if_neg (by rw [hgo]; exact Bool.false_ne_true), if_pos hrun]

/-! ### CANCEL ALL (R407) -/

/-- The requests of a command's context that are not CLOSING. -/
def ctxSlots (t : State) (x : Src) : List Nat :=
  (slotsOf t x.part).filter fun n => (slotOf t n).ctx == x.ctx.val && (slotOf t n).st != .closing

theorem exec_cancelAll_of_idle (ht : t = (takeCmd s (takerOf s x) 3).s) (hno : cmdNo t x .any false = none)
    (hctx : ctxPresent t x = true) (hidle : ∀ n ∈ slotsOf t x.part, (slotOf t n).ctx = x.ctx.val → inRunning t n = false) :
    exec (.cancelAll x) s = .next (endCmd ((ctxSlots t x).foldl (fun s n => if inRunning s n then s else cancelSlot none s n)
      (startCmd t x 3)) x 3 .ok 0) := by
  subst ht
  have hwait : (ctxSlots (takeCmd s (takerOf s x) 3).s x).filter (fun n => inRunning (takeCmd s (takerOf s x) 3).s n &&
      (slotOf (takeCmd s (takerOf s x) 3).s n).cancel.isNone) = [] := by
    refine List.filter_eq_nil_iff.2 fun n hn => ?_
    obtain ⟨hmem, hof⟩ := List.mem_filter.1 hn
    rw [hidle n hmem (beq_iff_eq.1 (Bool.and_eq_true_iff.1 hof).1)]
    exact Bool.false_ne_true
  refine congrArg Host.Outcome.next ((withCmd_of_passed ?_).trans ?_)
  · rw [hno, need_of_ok hctx]
    rfl
  · unfold ctxSlots at hwait ⊢
    dsimp only
    rw [hwait]
    rfl

end Cancel

/-- Settles O25: a command whose checks pass is taken and does what it means (`withCmd_of_passed`); its end is the newest entry of
its partition's journal (`completed_endCmd`). -/
theorem requestCommands : Obligations.RequestCommands := by
  unfold Obligations.RequestCommands
  intro x s
  refine ⟨?submit, ?speculate, ?cancel, ?all⟩
  case submit =>
    intro a bs t h
    exact ⟨_, exec_submit_of_passed rfl h, rfl⟩
  case speculate =>
    intro base n addr bs tr h
    exact speculate_of_passed h
  case cancel =>
    intro t hno hslot
    have hexec := exec_cancel_of_passed (s := s) rfl hno hslot
    have hfree := not_free_of_slotNo hslot
    refine ⟨fun hrun _ => .of_eq hexec (cancelDo_of_idle hrun _) (completed_endCmd ..),
      fun hrun hc => .of_eq hexec (cancelDo_of_live hrun hc hfree _) ⟨completed_endCmd .., rfl⟩,
      fun hrun hc hn => ⟨_, hexec, cancel_of_cancelDo hrun hc hfree hn _⟩,
      fun hrun hmark => .of_eq hexec (cancelDo_of_marked hrun hmark _) (completed_finishCmd ..)⟩
  case all =>
    intro t hno hctx hidle
    exact ⟨_, exec_cancelAll_of_idle rfl hno hctx hidle, completed_endCmd .., rfl⟩

end Sys2Proof.Machine
end

section
/-! PROOFS. The other control commands of the host (O27). -/

namespace Sys2Proof.Machine

variable {s t u : State} {x : Src}

/-! ### A command that is taken (R416) -/

theorem parts_takeCmd (s : State) (x : Src) (cmd p : Nat) : partOf (takeCmd s x cmd).s p = partOf s p := by
  rw [partOf, (takeCmd_keeps ..).parts_eq (by decide), partOf]

theorem slots_takeCmd (s : State) (x : Src) (cmd : Nat) : (takeCmd s x cmd).s.slots = s.slots :=
  (takeCmd_keeps ..).slots_eq (by decide)

theorem quiescent_of_eq (hs : u.slots = s.slots) (hp : u.parts = s.parts) (p : Nat) : quiescent u p = quiescent s p := by
  simp only [quiescent, slotsOf, partOf, hs, hp]

/-! ### CONFIG (R550) -/

/-- The ledger entry of a CONFIG that is carried out. -/
def configEntry (t : State) (f : Fld) (off width value mask : Nat) : LedgerArgs :=
  { obj := 0, part := configPart t f, width := width, target := off, new := value,
    old := fldGet t f * 2 ^ (fldPos f).lo / 2 ^ (8 * (off - (fldPos f).off)) &&& mask }

theorem exec_config_of_passed {off width value mask : Nat} {f : Fld} (ht : t = (takeCmd s (takerOf s x) 0x30).s)
    (hno : configNo t x off width value mask = none) (hf : fldFor off width mask = some f) (hex : configExists t f = true)
    (hrange : fldRange t f (fldNew t f off value mask) = none) :
    exec (.config x off width value mask) s = .next (configDo t x f off width value mask (configEntry t f off width value mask)) := by
  subst ht
  refine congrArg Host.Outcome.next ((withCmd_of_passed hno).trans ?_)
  simp only [hf, hex, hrange, Bool.not_true, Bool.false_eq_true, if_false]
  rfl

/-! ### Contexts (R361, R369) -/

/-- Context `c` joins a partition: the first runs, any other is ready. -/
def withCtx (c : Nat) (n : Nat) (first : Bool) (q : Part) : Part :=
  let q1 := modCtx q c fun k => { k with st := if first then .running else .ready }
  { q1 with nctx := n, running := if first then c else q.running }

theorem ctxOf_modCtx_same (q : Part) (c : Nat) (f : Ctx → Ctx) : ctxOf (modCtx q c f) c = f (ctxOf q c) := tabGet_tabMod_same ..

theorem ctxOf_modCtx_other (q : Part) {c d : Nat} (f : Ctx → Ctx) (h : d ≠ c) : ctxOf (modCtx q c f) d = ctxOf q d :=
  tabGet_set_other _ _ _ _ _ h

theorem st_withCtx (c n : Nat) (first : Bool) (q : Part) : (ctxOf (withCtx c n first q) c).st ≠ .empty := by
  have h : (ctxOf (withCtx c n first q) c).st = if first then .running else .ready :=
    congrArg Ctx.st (ctxOf_modCtx_same q c fun k => { k with st := if first then .running else .ready })
  rw [h]
  cases first
  · exact CtxSt.noConfusion
  · exact CtxSt.noConfusion

theorem exec_contextCreate_of_quiescent (ht : t = (takeCmd s (takerOf s x) 0x31).s) (hno : cmdNo t x .control false = none)
    (hvalid : (partOf s x.part).valid = true) (hempty : (ctxOf (partOf s x.part) x.ctx).st = .empty)
    (hq : quiescent s x.part = true) :
    exec (.contextCreate x) s = .next (finishCmd (nctxLedger (modPart t x.part
      (withCtx x.ctx ((partOf s x.part).nctx + 1) (ctxCount (partOf s x.part) == 0))) x (partOf s x.part).nctx
      ((partOf s x.part).nctx + 1) 0 .ok) x 0x31 .ok 0) := by
  subst ht
  have hquiet : quiescent (takeCmd s (takerOf s x) 0x31).s x.part = true :=
    (quiescent_of_eq (slots_takeCmd ..) ((takeCmd_keeps ..).parts_eq (by decide)) _).trans hq
  refine congrArg Host.Outcome.next ((withCmd_of_passed ?_).trans ?_)
  · rw [hno, hvalid, hempty]
    rfl
  · rw [hquiet]
    rfl

theorem part_nctxLedger (s : State) (x : Src) (old new act : Nat) (st : Status) (p : Nat) :
    partOf (nctxLedger s x old new act st) p = partOf s p := by
  rw [partOf, (nctxLedger_keeps ..).parts_eq (by decide), partOf]

theorem contextCreate_of_quiescent (ht : t = (takeCmd s (takerOf s x) 0x31).s) (hno : cmdNo t x .control false = none)
    (hvalid : (partOf s x.part).valid = true) (hempty : (ctxOf (partOf s x.part) x.ctx).st = .empty)
    (hq : quiescent s x.part = true) :
    Gives (.contextCreate x) s fun u => Completed x 0x31 u ∧ (partOf u x.part).nctx = (partOf s x.part).nctx + 1 ∧
      (ctxOf (partOf u x.part) x.ctx).st ≠ .empty := by
  refine ⟨_, exec_contextCreate_of_quiescent ht hno hvalid hempty hq, completed_finishCmd .., ?_, ?_⟩
  · rw [part_field_finishCmd Part.nctx fun _ => rfl, part_nctxLedger, partOf_modPart_same]
    rfl
  · rw [part_field_finishCmd (fun q => ctxOf q x.ctx) fun _ => rfl, part_nctxLedger, partOf_modPart_same]
    exact st_withCtx _ _ _ _

/-- A context that is gone stays so when the next one is restored. -/
theorem ctxOf_afterDelete {q : Part} {c : Nat} (h : ctxOf q c = Ctx.init) : ctxOf (afterDelete q c) c = Ctx.init := by
  unfold afterDelete
  split
  · exact h
  · split
    case h_1 d hd =>
      have hne : c ≠ d := by
        rintro rfl
        have hlive := List.find?_some hd
        rw [h] at hlive
        exact absurd hlive (by decide)
      rw [ctxOf_modCtx_other _ _ hne]
      exact h
    · exact h

/-- What goes with a context leaves nothing of it in its partition. -/
theorem ctxOf_dropCtx (s : State) (p c : Nat) : ctxOf (partOf (dropCtx s p c) p) c = Ctx.init := by
  have hfree (t : State) : partOf (freeVersions t p) p = partOf t p := by
    rw [partOf, (freeVersions_keeps ..).parts_eq (by decide), partOf]
  unfold dropCtx
  extract_lets ns s1 bs gs ads s2 s3
  rw [hfree, partOf_modPart_same, ctxOf_modCtx_same]

/-- A partition with one context fewer. -/
def oneCtxFewer (c : Nat) (q : Part) : Part := afterDelete { q with nctx := q.nctx - 1 } c

theorem ctxOf_oneCtxFewer {q : Part} {c : Nat} (h : ctxOf q c = Ctx.init) : ctxOf (oneCtxFewer c q) c = Ctx.init :=
  ctxOf_afterDelete h

/-- A context is deleted: what went with it, one context fewer, the next one restored where it ran. -/
def ctxDeleted (t : State) (x : Src) : State :=
  modPart (dropCtx (startCmd t x 0x31) x.part x.ctx) x.part (oneCtxFewer x.ctx)

theorem ctxOf_ctxDeleted (t : State) (x : Src) : ctxOf (partOf (ctxDeleted t x) x.part) x.ctx = Ctx.init := by
  rw [ctxDeleted, partOf_modPart_same]
  exact ctxOf_oneCtxFewer (ctxOf_dropCtx ..)

theorem exec_contextDelete_of_passed (ht : t = (takeCmd s (takerOf s x) 0x31).s) (hno : cmdNo t x .control false = none)
    (hctx : ctxPresent t x = true) (hidle : ctxActive (partOf s x.part) x.ctx = false) :
    exec (.contextDelete x) s = .next (endCmd (nctxLedger (ctxDeleted t x) x (partOf s x.part).nctx
      ((partOf s x.part).nctx - 1) 0 .ok) x 0x31 .ok 0) := by
  subst ht
  refine congrArg Host.Outcome.next ((withCmd_of_passed ?_).trans ?_)
  · rw [hno, need_of_ok hctx, hidle]
    rfl
  · rfl

theorem contextDelete_of_passed (ht : t = (takeCmd s (takerOf s x) 0x31).s) (hno : cmdNo t x .control false = none)
    (hctx : ctxPresent t x = true) (hidle : ctxActive (partOf s x.part) x.ctx = false) :
    Gives (.contextDelete x) s fun u => Completed x 0x31 u ∧ ctxOf (partOf u x.part) x.ctx = Ctx.init := by
  refine ⟨_, exec_contextDelete_of_passed ht hno hctx hidle, completed_endCmd .., ?_⟩
  rw [part_field_endCmd (fun q => ctxOf q x.ctx) fun _ => rfl, part_nctxLedger]
  exact ctxOf_ctxDeleted ..

/-! ### The swap area and the dead-letter queue (R352, R413) -/

/-- A command whose one effect is on its partition completes, and the effect stands. -/
theorem gives_finishCmd_modPart {c : Instr} {cmd : Nat} {f : Part → Part} (P : Part → Prop) (hP : ∀ q, P q.unheld ↔ P q)
    (h : exec c s = .next (finishCmd (modPart t x.part f) x cmd .ok 0)) (hf : P (f (partOf t x.part))) :
    Gives c s fun u => Completed x cmd u ∧ P (partOf u x.part) := by
  refine ⟨_, h, completed_finishCmd .., ?_⟩
  have hfield := part_field_finishCmd P (fun q => propext (hP q)) (modPart t x.part f) x cmd .ok 0 x.part
  rw [hfield, partOf_modPart_same]
  exact hf

theorem swapArea_of_passed {addr size : Nat} (hno : swapNo (takeCmd s (takerOf s x) 0x32).s x addr size = none) :
    Gives (.swapArea x addr size) s fun u => Completed x 0x32 u ∧
      (partOf u x.part).swapArea = if size = 0 then none else some (addr, size) :=
  gives_finishCmd_modPart (f := fun q => { q with swapArea := if size = 0 then none else some (addr, size) })
    (fun q => q.swapArea = if size = 0 then none else some (addr, size)) (fun _ => Iff.rfl)
    (congrArg Host.Outcome.next (withCmd_of_passed hno)) rfl

theorem swapAreaUnregister_of_passed (hno : swapNo (takeCmd s (takerOf s x) 0x32).s x 0 0 = none) :
    Gives (.swapAreaUnregister x) s fun u => Completed x 0x32 u ∧ (partOf u x.part).swapArea = none :=
  gives_finishCmd_modPart (f := fun q => { q with swapArea := none }) (fun q => q.swapArea = none) (fun _ => Iff.rfl)
    (congrArg Host.Outcome.next (withCmd_of_passed hno)) rfl

theorem dlqAck_of_passed {n : Nat} (ht : t = (takeCmd s (takerOf s x) 0x41).s) (hno : cmdNo t x .control false = none)
    (hn : n ≤ (partOf t x.part).dlq.length) :
    Gives (.dlqAck x n) s fun u => Completed x 0x41 u ∧ (partOf u x.part).dlq = (partOf t x.part).dlq.drop n ∧
      (partOf u x.part).dlqBase = (partOf t x.part).dlqBase + n := by
  refine gives_finishCmd_modPart (t := t)
    (f := fun q => { q with dlq := q.dlq.drop n, dlqBase := q.dlqBase + n, dlqFull := q.dlqFull && n == 0 })
    (fun q => q.dlq = (partOf t x.part).dlq.drop n ∧ q.dlqBase = (partOf t x.part).dlqBase + n) (fun _ => Iff.rfl) ?_ ⟨rfl, rfl⟩
  subst ht
  refine congrArg Host.Outcome.next (withCmd_of_passed ?_)
  rw [hno, need_of_ok (decide_eq_true hn)]
  rfl

/-! ### READ (R418, R422) -/

theorem runRead_of_passed {count addr : Nat} {sel : State → Nat → Nat → Option (List (List Byte))} {es : List (List Byte)}
    (hno : readNo (takeCmd s (takerOf s x) 0x40).s x count addr = none)
    (hsel : sel (takeCmd s (takerOf s x) 0x40).s (takeCmd s (takerOf s x) 0x40).jseq (takeCmd s (takerOf s x) 0x40).time = some es) :
    runRead s x count addr sel =
      readDone (takeCmd s (takerOf s x) 0x40).s x (takeCmd s (takerOf s x) 0x40).jseq addr (es.take (readLimit x count)) := by
  simp only [runRead, hno, hsel]

/-- A READ completes, by the mailbox at once or from a ring after its ACCEPTED. -/
theorem completed_readDone (s : State) (x : Src) (jseq addr : Nat) (es : List (List Byte)) :
    Completed x 0x40 (readDone s x jseq addr es) := by
  unfold readDone
  extract_lets s1
  split
  · exact completed_finishCmd ..
  · exact completed_finishLater ..

/-- Each form of READ copies what its source selects. -/
theorem gives_readDone {c : Instr} {count addr : Nat} {sel : State → Nat → Nat → Option (List (List Byte))} {es : List (List Byte)}
    (hc : exec c s = .next (runRead s x count addr sel)) (hno : readNo (takeCmd s (takerOf s x) 0x40).s x count addr = none)
    (hsel : sel (takeCmd s (takerOf s x) 0x40).s (takeCmd s (takerOf s x) 0x40).jseq (takeCmd s (takerOf s x) 0x40).time = some es) :
    Gives c s fun u => u = readDone (takeCmd s (takerOf s x) 0x40).s x (takeCmd s (takerOf s x) 0x40).jseq addr
      (es.take (readLimit x count)) ∧ Completed x 0x40 u :=
  .of_eq hc (runRead_of_passed hno hsel) ⟨rfl, completed_readDone ..⟩

/-! ### The journal writer (R417) -/

/-- The oldest entries of a journal's queue go into its ring. -/
theorem journalOf_journalDrain (s : State) (p n : Nat) : journalOf (journalDrain s p n) p =
    { head := (journalOf s p).head + ((journalOf s p).queue.take n).length,
      entries := ((journalOf s p).entries ++ (journalOf s p).queue.take n).drop
        (((journalOf s p).entries ++ (journalOf s p).queue.take n).length - 2 ^ 20),
      queue := (journalOf s p).queue.drop n } := by
  unfold journalDrain
  extract_lets j es all k s1
  exact journalOf_set ..

theorem journalWrite_of (p : Fin 8) (n : Nat) (s : State) :
    Gives (.journalWrite p n) s fun u => (journalOf u p).queue = (journalOf s p).queue.drop n ∧
      (journalOf u p).head = (journalOf s p).head + min n (journalOf s p).queue.length ∧
      ((journalOf s p).entries.length + n ≤ 2 ^ 20 →
        (journalOf u p).entries = (journalOf s p).entries ++ (journalOf s p).queue.take n) := by
  refine ⟨_, rfl, ?_⟩
  beta_reduce
  rw [journalOf_journalDrain]
  refine ⟨rfl, congrArg _ List.length_take, fun hroom => ?_⟩
  have hlen : ((journalOf s p).entries ++ (journalOf s p).queue.take n).length ≤ 2 ^ 20 := by
    rw [List.length_append, List.length_take]
    omega
  simp only [Nat.sub_eq_zero_of_le hlen, List.drop_zero]

/-- Settles O27: a command whose checks pass is taken and does what it means (`withCmd_of_passed`), and its answer leaves the
partition but the completions it holds (`part_field_finishCmd`). -/
theorem controlCommands : Obligations.ControlCommands := by
  unfold Obligations.ControlCommands
  intro x s
  refine ⟨?config, ?create, ?delete, fun addr size hno => swapArea_of_passed hno, swapAreaUnregister_of_passed, ?read, ?ack,
    fun p n => journalWrite_of p n s⟩
  case config =>
    intro off width value mask f t hno hf hex hrange
    exact ⟨_, exec_config_of_passed rfl hno hf hex hrange, rfl⟩
  case create =>
    intro t hno hvalid hempty hq
    exact contextCreate_of_quiescent rfl hno hvalid hempty hq
  case delete =>
    intro t hno hctx hidle
    exact contextDelete_of_passed rfl hno hctx hidle
  case read =>
    intro count start addr es t hno
    exact ⟨gives_readDone rfl hno, gives_readDone rfl hno, gives_readDone rfl hno, gives_readDone rfl hno, gives_readDone rfl hno⟩
  case ack =>
    intro n t hno hn
    exact dlqAck_of_passed rfl hno hn

end Sys2Proof.Machine
end

section
/-! PROOFS. A slot's life: release, hand-off, swap, return (O20). -/

namespace Sys2Proof.Machine

variable {s u : State} {k : Fin 65536}

theorem slotOf_of_keeps {l : List Block} (h : Keeps l s u) (hl : Block.slots ∉ l) (n : Nat) : slotOf u n = slotOf s n := by
  rw [slotOf, h.slots_eq hl, slotOf]

/-- The area in use counted again changes nothing else of a partition. -/
theorem part_field_refreshSwap {β : Type} (v : Part → β) (hv : ∀ q b, v { q with swapUsed := b } = v q) (s : State) (p i : Nat) :
    v (partOf (refreshSwap s p) i) = v (partOf s i) := by
  unfold refreshSwap
  dsimp only
  by_cases hi : i = p
  · rw [hi, partOf_modPart_same, hv]
  · rw [partOf_modPart_other _ _ _ _ hi]

theorem swaps_dropRef (q : Part) (page : Nat) : (dropRef q page).swaps = q.swaps := by
  unfold dropRef
  dsimp only
  split
  · split
    · rfl
    · rfl
  · rfl

/-! ### Release and hand-off (R308, R332, R348) -/

theorem slotRelease_of_done (hst : (slotOf s k).st = .closing) (hfin : (slotOf s k).finDone = true) (hf : (slotOf s k).heldFin = none)
    (ha : (slotOf s k).heldAdm = none) (hn : (slotOf s k).heldNote = none) (hh : (slotOf s k).hold = []) :
    Gives (.slotRelease k) s fun u => slotOf u k = { Slot.init with admits := (slotOf s k).admits } := by
  have hgo : ((slotOf s k).st != .closing || !(slotOf s k).finDone || (slotOf s k).heldFin.isSome || (slotOf s k).heldAdm.isSome ||
      (slotOf s k).heldNote.isSome || !(slotOf s k).hold.isEmpty) = false := by rw [hst, hfin, hf, ha, hn, hh]; rfl
  have hexec : exec (.slotRelease k) s = .next (refreshAdm (refreshSwap (freeVersions (setSlot s k
      { Slot.init with admits := (slotOf s k).admits }) (slotOf s k).part) (slotOf s k).part) (slotOf s k).part) := by
    simp only [exec, execSlotRelease, hgo, Bool.false_eq_true, if_false]
  refine ⟨_, hexec, ?_⟩
  beta_reduce
  rw [slotOf_of_keeps (refreshAdm_keeps ..) (by decide), slotOf_of_keeps (refreshSwap_keeps ..) (by decide),
    slotOf_of_keeps (freeVersions_keeps ..) (by decide), slotOf_setSlot_same]

theorem exec_handoffRetryTimer_of_due {t : Nat} (ht : (slotOf s k).retryAt = some t) (hst : (slotOf s k).st = .handoff)
    (hdue : t ≤ nowNs s) : exec (.handoffRetryTimer k) s =
      .next (handoffTry (modSlot s k fun x => { x with retryAt := none, tried := [] }) k) := by
  have hgo : ((slotOf s k).st == .handoff && decide (t ≤ nowNs s)) = true := by rw [hst, decide_eq_true hdue]; rfl
  simp only [exec, execHandoffRetryTimer, ht, hgo, if_true]

/-! ### A page's record goes to the swap area (R352) -/

section Swap
variable {p : Fin 8} {page n : Nat} {at' area : Nat × Nat}

/-- The record of a page has gone out to the swap area, at a place the model leaves free. -/
def swapSent (s : State) (p page n : Nat) (area : Nat × Nat) : State :=
  let (k, s0) := drawFree s 1
  let bs := swapRecBytes s p (slotHeads s n) page
  let off := Sys2Proof.Config.freePick k % (area.2 - bs.length + 1)
  emit s0 (.hostWrite (driverOf s p) (area.1 + off) bs)

/-- The page is no longer the slot's. -/
def unpaged (page : Nat) (x : Slot) : Slot :=
  { x with swapped := x.swapped.erase page, sets := x.sets.map fun ps => ps.map fun k => if k = page then noPage else k }

theorem exec_swapRecordWritten_of_private (hn : (slotsOf s p).find? (fun n => (slotOf s n).swapped.contains page) = some n)
    (hat : placeIn (slotOf s n) page = some at') (harea : (partOf s p).swapArea = some area)
    (hseal : (pageOf (partOf s p) page).st ≠ .sealing) (hshared : isShared (pageOf (partOf s p) page) = false)
    (hbme : (fnOf s (driverOf s p)).bme = true) : exec (.swapRecordWritten p page) s =
      .next (refreshSwap (modSlot (modPart (swapSent s p page n area) p fun q =>
        dropRef { q with swaps := q.swaps ++ [swapRecOf s p n page at'] } page) n (unpaged page)) p) := by
  have hgo : ((pageOf (partOf s p) page).st == .sealing || !(fnOf s (driverOf s p)).bme) = false := by
    rw [beq_eq_false_iff_ne.2 hseal, hbme]; rfl
  simp only [exec, execSwapRecordWritten, hn, hat, harea, hshared, hgo, Bool.false_eq_true, if_false]
  rfl

theorem swapRecordWritten_of_private (hn : (slotsOf s p).find? (fun n => (slotOf s n).swapped.contains page) = some n)
    (hat : placeIn (slotOf s n) page = some at') (harea : (partOf s p).swapArea = some area)
    (hseal : (pageOf (partOf s p) page).st ≠ .sealing) (hshared : isShared (pageOf (partOf s p) page) = false)
    (hbme : (fnOf s (driverOf s p)).bme = true) :
    Gives (.swapRecordWritten p page) s fun u => (slotOf u n).swapped = (slotOf s n).swapped.erase page ∧
      (partOf u p).swaps = (partOf s p).swaps ++ [swapRecOf s p n page at'] := by
  have hsent : (swapSent s p page n area).slots = s.slots ∧ (swapSent s p page n area).parts = s.parts := ⟨rfl, rfl⟩
  obtain ⟨hslots, hparts⟩ := hsent
  refine ⟨_, exec_swapRecordWritten_of_private hn hat harea hseal hshared hbme, ?_, ?_⟩
  · have hslot : slotOf (modPart (swapSent s p page n area) p fun q =>
        dropRef { q with swaps := q.swaps ++ [swapRecOf s p n page at'] } page) n = slotOf s n := by
      rw [slotOf_modPart, slotOf, hslots, slotOf]
    rw [slotOf_of_keeps (refreshSwap_keeps ..) (by decide), slotOf_modSlot_same, hslot, unpaged]
  · rw [part_field_refreshSwap Part.swaps fun _ _ => rfl, partOf_modSlot, partOf_modPart_same, swaps_dropRef, partOf, hparts]
    rfl

end Swap

/-! ### A pre-empted slot returns (R354, R355) -/

/-- The state in which a slot's readmission finds its pages: an LC slot has displaced what it needs. -/
def readmitIn (s : State) (n : Nat) : State := if isLc (slotOf s n) then readmitRoom s n else s

section Readmit
variable {p : Nat}

/-- A readmission that stands: first in its order, none of its pages on their way, its pools with room. -/
structure Readmits (s : State) (n p : Nat) : Prop where
  part : (slotOf s n).part = p
  st : (slotOf s n).st = .preempted
  first : (readmitQueue s p).head? = some n
  swapped : (slotOf s n).swapped = []
  lc : isLc (slotOf s n) = true → readmitLc s n = true
  room : ∀ q ∈ poolsOf (readmitIn s n) p, readmitNeed (readmitIn s n) n q +
    (if isLc (slotOf s n) then 0 else poolReserved (readmitIn s n) p q) ≤ poolFree (readmitIn s n) p q

/-- What a readmission that stands does: the slot computes again, returns, or asks for its records. -/
theorem exec_readmit_of_readmits (h : Readmits s k p) : exec (.readmit k) s =
    if (slotOf s k).recompute then .next (returnRecompute (readmitIn s k) k)
    else match swapsOf (readmitIn s k) k with
      | [] => .next (postState (modSlot (readmitIn s k) k fun x => { x with st := x.back }) k)
      | rs => if !(fnOf (readmitIn s k) (driverOf (readmitIn s k) p)).bme then .next (readmitIn s k)
        else .next (modSlot (rs.foldl (fun u r => emit u (.hostRead (driverOf u p) (((partOf u p).swapArea.map Prod.fst).getD 0) r.bytes))
          (readmitIn s k)) k fun x => { x with toRestore := rs.map fun r => r.idx }) := by
  obtain ⟨rfl, hst, hfirst, hsw, hlc, hroom⟩ := h
  have hlcOk : (!isLc (slotOf s k) || readmitLc s k) = true := by
    cases hc : isLc (slotOf s k) with
    | false => rfl
    | true => rw [hlc hc]; rfl
  have hgo : ((slotOf s k).st != .preempted || !((readmitQueue s (slotOf s k).part).head? == some k.val) ||
      !(!isLc (slotOf s k) || readmitLc s k) || !(slotOf s k).swapped.isEmpty) = false := by
    rw [hst, hfirst, hlcOk, hsw, beq_self_eq_true]; rfl
  have hall : ((poolsOf (readmitIn s k) (slotOf s k).part).all fun q => decide (readmitNeed (readmitIn s k) k q +
      (if isLc (slotOf s k) then 0 else poolReserved (readmitIn s k) (slotOf s k).part q) ≤
      poolFree (readmitIn s k) (slotOf s k).part q)) = true :=
    List.all_eq_true.2 fun q hq => decide_eq_true (hroom q hq)
  unfold readmitIn at hall ⊢
  simp only [exec, execReadmit]
  exact (if_neg (Bool.eq_false_iff.1 hgo)).trans (if_neg (Bool.eq_false_iff.1 (congrArg not hall)))

theorem exec_readmit_of_recompute (h : Readmits s k p) (hr : (slotOf s k).recompute = true) :
    exec (.readmit k) s = .next (returnRecompute (readmitIn s k) k) := by
  rw [exec_readmit_of_readmits h, if_pos hr]

theorem readmit_of_records (h : Readmits s k p) (hr : (slotOf s k).recompute = false) (hsw : swapsOf (readmitIn s k) k ≠ [])
    (hbme : (fnOf (readmitIn s k) (driverOf (readmitIn s k) p)).bme = true) :
    Gives (.readmit k) s fun u => (slotOf u k).toRestore = (swapsOf (readmitIn s k) k).map fun r => r.idx := by
  have hexec := exec_readmit_of_readmits h
  rw [hr, if_neg Bool.false_ne_true] at hexec
  split at hexec
  case h_1 hnil => exact absurd hnil hsw
  case h_2 =>
    rw [hbme, Bool.not_true, if_neg Bool.false_ne_true] at hexec
    exact ⟨_, hexec, congrArg Slot.toRestore (slotOf_modSlot_same ..)⟩

theorem exec_readmit_of_whole (h : Readmits s k p) (hr : (slotOf s k).recompute = false) (hsw : swapsOf (readmitIn s k) k = []) :
    exec (.readmit k) s = .next (postState (modSlot (readmitIn s k) k fun x => { x with st := x.back }) k) := by
  rw [exec_readmit_of_readmits h, hr, if_neg Bool.false_ne_true, hsw]

end Readmit

section Restore
variable {i : Nat} {rest : List Nat} {r : SwapRec} {rs : List SwapRec}

theorem exec_restorePage_of_torn (hto : (slotOf s k).toRestore = i :: rest) (hsw : swapsOf s k = r :: rs)
    (hst : (slotOf s k).st = .preempted) {bs : List Byte} (hbad : swapStands bs = false) :
    exec (.restorePage k (.inr bs)) s = .next (restoreFails s k) := by
  have hgo : ((slotOf s k).st != .preempted) = false := by rw [hst]; rfl
  simp only [exec, execRestorePage, hto, hsw, hgo, hbad, Bool.not_false, Bool.false_eq_true, if_false, if_true]

theorem exec_restorePage_of_unread (hto : (slotOf s k).toRestore = i :: rest) (hsw : swapsOf s k = r :: rs)
    (hst : (slotOf s k).st = .preempted) (d : DmaFail) : exec (.restorePage k (.inl d)) s =
      .next (restoreFails (dmaFailed s (driverOf s (slotOf s k).part) (slotOf s k).part d) k) := by
  have hgo : ((slotOf s k).st != .preempted) = false := by rw [hst]; rfl
  simp only [exec, execRestorePage, hto, hsw, hgo, Bool.false_eq_true, if_false]

/-- A partition whose page `a` takes a record read back. -/
def pageBack (r : SwapRec) (a n : Nat) (g : Page) (q : Part) : Part :=
  modPage { q with swaps := q.swaps.erase r } a fun _ =>
    { g with refs := 1, raw := r.page.raw, sealAfter := r.page.sealAfter, writer := if g.st == .open_ then some n else none }

/-- The slot's set with the page that took a record. -/
def setBack (r : SwapRec) (a : Nat) (rest : List Nat) (x : Slot) : Slot :=
  let ps := x.sets.getD r.idx []
  { x with toRestore := rest, sets := x.sets.take r.idx ++ (ps.take r.place ++ a :: ps.drop (r.place + 1)) :: x.sets.drop (r.idx + 1) }

theorem refs_pageBack (r : SwapRec) (a n : Nat) (g : Page) (q : Part) :
    (pageOf (pageBack r a n g q) a).refs = 1 ∧ (pageBack r a n g q).swaps = q.swaps.erase r := by
  refine ⟨?_, rfl⟩
  exact congrArg Page.refs (pageOf_modPage_same { q with swaps := q.swaps.erase r } a fun _ =>
    { g with refs := 1, raw := r.page.raw, sealAfter := r.page.sealAfter, writer := if g.st == .open_ then some n else none })

/-- The place of a slot's swap record. -/
def recPlace (s : State) (n : Nat) (r : SwapRec) : Place := (placesOf s (slotOf s n).part (slotOf s n).pver).getD r.place ⟨0, 0, []⟩

theorem exec_restorePage_of_good {j d : Nat} {a : State × Nat} {bs : List Byte} (hto : (slotOf s k).toRestore = i :: j :: rest)
    (hsw : swapsOf s k = r :: rs) (hst : (slotOf s k).st = .preempted) (hgood : swapStands bs = true)
    (hd : poolFor s (slotOf s k).part (placeDie (recPlace s k r) r.idx) = some d)
    (ha : allocPage s (slotOf s k).part d (recPlace s k r).layer (recPlace s k r).kvHead k = some a) :
    exec (.restorePage k (.inr bs)) s = .next (refreshSwap (modSlot (modPart (putSwap a.1 (slotOf s k).part (slotHeads s k) a.2 bs)
      (slotOf s k).part (pageBack r a.2 k (pageFrom (bs.take 16)))) k (setBack r a.2 (j :: rest))) (slotOf s k).part) := by
  have hgo : ((slotOf s k).st != .preempted) = false := by rw [hst]; rfl
  unfold recPlace at hd ha
  simp only [exec, execRestorePage, hto, hsw, hgo, hgood, hd, ha, Option.bind_some, Bool.not_true, Bool.false_eq_true, if_false,
    List.isEmpty_cons]
  rfl

theorem restorePage_of_good {j d : Nat} {a : State × Nat} {bs : List Byte} (hto : (slotOf s k).toRestore = i :: j :: rest)
    (hsw : swapsOf s k = r :: rs) (hst : (slotOf s k).st = .preempted) (hgood : swapStands bs = true)
    (hd : poolFor s (slotOf s k).part (placeDie (recPlace s k r) r.idx) = some d)
    (ha : allocPage s (slotOf s k).part d (recPlace s k r).layer (recPlace s k r).kvHead k = some a) :
    Gives (.restorePage k (.inr bs)) s fun u => (slotOf u k).toRestore = j :: rest ∧
      (pageOf (partOf u (slotOf s k).part) a.2).refs = 1 ∧
      (partOf u (slotOf s k).part).swaps = (partOf a.1 (slotOf s k).part).swaps.erase r := by
  have hput : partOf (putSwap a.1 (slotOf s k).part (slotHeads s k) a.2 bs) (slotOf s k).part = partOf a.1 (slotOf s k).part := by
    rw [partOf, (putSwap_keeps ..).parts_eq (by decide), partOf]
  obtain ⟨hrefs, hswaps⟩ := refs_pageBack r a.2 k (pageFrom (bs.take 16)) (partOf a.1 (slotOf s k).part)
  refine ⟨_, exec_restorePage_of_good hto hsw hst hgood hd ha, ?_, ?_, ?_⟩
  · rw [slotOf_of_keeps (refreshSwap_keeps ..) (by decide), slotOf_modSlot_same]
    rfl
  · rw [part_field_refreshSwap (fun q => (pageOf q a.2).refs) fun _ _ => rfl, partOf_modSlot, partOf_modPart_same, hput, hrefs]
  · rw [part_field_refreshSwap Part.swaps fun _ _ => rfl, partOf_modSlot, partOf_modPart_same, hput, hswaps]

end Restore

/-- Settles O20: a readmission that stands has three ways to go on (`exec_readmit_of_readmits`); the rest follow their guards. -/
theorem slotLife : Obligations.SlotLife := by
  unfold Obligations.SlotLife
  intro k s
  refine ⟨fun hst hfin hf ha hn hh => slotRelease_of_done hst hfin hf ha hn hh,
    fun t ht hst hdue => ⟨_, exec_handoffRetryTimer_of_due ht hst hdue, rfl⟩,
    fun p page n at' area hn hat harea hseal hshared hbme => swapRecordWritten_of_private hn hat harea hseal hshared hbme, ?readmit,
    fun i rest r rs hto hsw hst => ⟨fun bs hbad => ⟨_, exec_restorePage_of_torn hto hsw hst hbad, rfl⟩,
      fun d => ⟨_, exec_restorePage_of_unread hto hsw hst d, rfl⟩⟩, ?restore⟩
  case readmit =>
    intro p hpart hst hfirst hsw hlc v hroom
    have h : Readmits s k p := ⟨hpart, hst, hfirst, hsw, hlc, hroom⟩
    exact ⟨fun hr => ⟨_, exec_readmit_of_recompute h hr, rfl⟩, fun hr hrec hbme => readmit_of_records h hr hrec hbme,
      fun hr hrec => ⟨_, exec_readmit_of_whole h hr hrec, rfl⟩⟩
  case restore =>
    intro i j rest r rs d a bs hto hsw hst hgood pl hd ha
    exact restorePage_of_good hto hsw hst hgood hd ha

end Sys2Proof.Machine
end

section
/-! PROOFS. A context switch from slice end to restore (O21). -/

namespace Sys2Proof.Machine

variable {s : State} {p : Fin 8}

/-! ### The switch begins (R364, R365) -/

theorem exec_sliceExpiry_of_shared (hv : (partOf s p).valid = true) (hidle : (partOf s p).switchSt = .idle)
    (hmany : 1 < (ctxsOf (partOf s p)).length) :
    exec (.sliceExpiry p) s = .next (modPart s p fun q => { q with switchDue := true }) := by
  have hgo : (!(partOf s p).valid || (partOf s p).switchSt != .idle || decide ((ctxsOf (partOf s p)).length ≤ 1)) = false := by
    rw [hv, hidle, decide_eq_false (Nat.not_le.2 hmany)]; rfl
  simp only [exec, execSliceExpiry, hgo, Bool.false_eq_true, if_false]

/-- A partition whose tiles are told to stop for context `c`. -/
def toldToStop (c : Nat) (q : Part) : Part :=
  { modCtx q q.running (fun k => { k with st := .saving }) with
    switchSt := .quiesce, switchDue := false, barPoint := none, incoming := c, composed := none }

theorem ctxOf_toldToStop (c : Nat) (q : Part) : (ctxOf (toldToStop c q) q.running).st = .saving := by
  have h : ctxOf (toldToStop c q) q.running = ctxOf (modCtx q q.running fun k => { k with st := .saving }) q.running := rfl
  rw [h, ctxOf_modCtx_same]

theorem contextSwitch_of_point {c : Nat} (hc : nextCtx s p = some c) (hv : (partOf s p).valid = true)
    (hidle : (partOf s p).switchSt = .idle) (hdue : (partOf s p).switchDue = true ∨ ctxYields s p = true)
    (hpoint : (partOf s p).exec = none ∨ (partOf s p).barPoint = some (issuedIn s p)) (hawake : s.pwr.sleep = .awake) :
    Gives (.contextSwitch p) s fun u => (partOf u p).switchSt = .quiesce ∧ (partOf u p).incoming = c ∧
      (partOf u p).composed = none ∧ (ctxOf (partOf u p) (partOf s p).running).st = .saving := by
  have hdue' : ((partOf s p).switchDue || ctxYields s p) = true := Bool.or_eq_true_iff.2 hdue
  have hpoint' : ((partOf s p).exec.isNone || (partOf s p).barPoint == some (issuedIn s p)) = true := by
    rcases hpoint with h | h
    · rw [h]; rfl
    · rw [h, beq_self_eq_true, Bool.or_true]
  have hgo : (!(partOf s p).valid || (partOf s p).switchSt != .idle || !((partOf s p).switchDue || ctxYields s p) ||
      !((partOf s p).exec.isNone || (partOf s p).barPoint == some (issuedIn s p)) || s.pwr.sleep != .awake) = false := by
    rw [hv, hidle, hdue', hpoint', hawake]; rfl
  have hexec : exec (.contextSwitch p) s = .next (modPart s p (toldToStop c)) := by
    simp only [exec, execContextSwitch, hc, hgo, Bool.false_eq_true, if_false]
    rfl
  refine ⟨_, hexec, ?_⟩
  beta_reduce
  rw [partOf_modPart_same]
  exact ⟨rfl, rfl, rfl, ctxOf_toldToStop ..⟩

/-! ### The tiles stop (R366, R367) -/

theorem switchQuiesceDone_of_between (hst : (partOf s p).switchSt = .quiesce) (hexec : (partOf s p).exec = none) :
    exec (.switchQuiesceDone p) s = .next (modPart s p fun q => { q with switchSt := .save }) := by
  have hgo : ((partOf s p).switchSt != .quiesce) = false := by rw [hst]; rfl
  simp only [exec, execSwitchQuiesceDone, hexec, hgo, Bool.not_true, Bool.or_self, Bool.false_eq_true, if_false]

theorem switchQuiesceDone_of_stopped {e : Step} (hst : (partOf s p).switchSt = .quiesce) (hexec : (partOf s p).exec = some e)
    (hwhy : e.why = none)
    (hstop : ∀ n ∈ tilesOf s p, ((tileOf s n).stopped = true ∨ (tileOf s n).ended = true) ∧ tileQuiet (tileOf s n) = true) :
    exec (.switchQuiesceDone p) s = .next (modPart s p fun q => { q with switchSt := .save }) := by
  have hgo : ((partOf s p).switchSt != .quiesce) = false := by rw [hst]; rfl
  have hall : ((tilesOf s p).all fun t => ((tileOf s t).stopped || (tileOf s t).ended) && tileQuiet (tileOf s t)) = true := by
    refine List.all_eq_true.2 fun n hn => ?_
    obtain ⟨hs, hq⟩ := hstop n hn
    rw [Bool.or_eq_true_iff.2 hs, hq]
    rfl
  simp only [exec, execSwitchQuiesceDone, hexec, hgo, hwhy, hall, Option.isNone_none, Bool.and_self, Bool.not_true, Bool.or_self,
    Bool.false_eq_true, if_false]

theorem quiesceTimeout_of_running {e : Step} (hst : (partOf s p).switchSt = .quiesce) (hexec : (partOf s p).exec = some e)
    (hwhy : e.why = none) (ho : QueueOpen s) :
    Gives (.quiesceTimeout p) s fun u => Recorded s u .switchAbandon [(partOf s p).running, (partOf s p).incoming] ∧
      Abandons p e { toRerun none with always := true } u := by
  have hgo : ((partOf s p).switchSt != .quiesce || e.why.isSome) = false := by rw [hst, hwhy]; rfl
  have hexec' : exec (.quiesceTimeout p) s = .next (abandonStep (pushErr s .switchAbandon
      { part := p, step := e.num, detail := [(partOf s p).running, (partOf s p).incoming] }) p
        { toRerun none with always := true }) := by
    simp only [exec, execQuiesceTimeout, hexec, hgo, Bool.false_eq_true, if_false]
    rfl
  refine ⟨_, hexec', ?_, abandonStep_abandons ((congrArg Part.exec (partOf_pushErr ..)).trans hexec) _⟩
  exact Recorded.of_queue_eq (recorded_pushErr ho rfl) (congrArg Log.errQueue ((abandonStep_keeps ..).log_eq (by decide)))

/-! ### The save (R366, R242) -/

/-- The outgoing context as its save area holds it. -/
def savedCtx (s : State) (p : Nat) (k : Ctx) : Ctx :=
  let q := partOf s p
  let held := match q.exec with
    | some e => some e
    | none => q.rerunStep
  let left (k r : Nat) : Nat := unconsumed (tileOf s (k / 128 * 64 + r)) k
  { k with st := .saved, held := held, betweenSteps := q.exec.isNone,
           image := (tilesOf s p).map fun t => (t, saveTile (tileOf s t)),
           lanes := (s.exps.lanes.filter fun e => partLane q e.1).map fun e => (e.1, restartLane (left e.1) e.2),
           lists := s.exps.lists.filter fun l => q.dies.testBit l.die }

/-- A partition whose outgoing context is saved, `out` saying how. -/
def switchedOver (out : Ctx → Ctx) (q : Part) : Part :=
  modCtx (modCtx { q with switchSt := .restore, exec := none, rerunStep := none } q.running out) q.incoming fun k =>
    { k with st := .restoring }

/-- The partition's tiles, saved. -/
def tilesSaved (s : State) (p : Nat) : State := (tilesOf s p).foldl (fun s t => modTile s t savedTile) (clearLanes s p)

theorem exec_switchSaveDone_of_save (hst : (partOf s p).switchSt = .save) :
    exec (.switchSaveDone p) s = .next (modPart (tilesSaved s p) p (switchedOver (savedCtx s p))) := by
  have hgo : ((partOf s p).switchSt != .save) = false := by rw [hst]; rfl
  simp only [exec, execSwitchSaveDone, hgo, Bool.false_eq_true, if_false]
  rfl

theorem partOf_tilesSaved (s : State) (p i : Nat) : partOf (tilesSaved s p) i = partOf s i := by
  have hlanes : partOf (clearLanes s p) i = partOf s i := rfl
  rw [tilesSaved, foldl_same (fun t : State => partOf t i) fun t n => partOf_modTile .., hlanes]

theorem st_tilesSaved {n : Nat} (p : Nat) (hn : n ∈ tilesOf s p) : (tileOf (tilesSaved s p) n).st = .saved := by
  refine foldl_attains (P := fun t => (tileOf t n).st = .saved) hn (fun t => ?_) (fun t m ht => ?_) _
  · rw [tileOf_modTile_same]
    rfl
  · by_cases hm : n = m
    · rw [hm, tileOf_modTile_same]
      rfl
    · rw [tileOf_modTile_other _ _ _ _ hm]
      exact ht

theorem ctxOf_switchedOver (out : Ctx → Ctx) {q : Part} (hne : q.incoming ≠ q.running) :
    ctxOf (switchedOver out q) q.running = out (ctxOf q q.running) ∧ (ctxOf (switchedOver out q) q.incoming).st = .restoring := by
  unfold switchedOver
  constructor
  · rw [ctxOf_modCtx_other _ _ hne.symm, ctxOf_modCtx_same]
    rfl
  · rw [ctxOf_modCtx_same]

theorem switchSaveDone_of_save (hst : (partOf s p).switchSt = .save) (hne : (partOf s p).incoming ≠ (partOf s p).running) :
    Gives (.switchSaveDone p) s fun u => (partOf u p).switchSt = .restore ∧ (partOf u p).exec = none ∧
      ctxOf (partOf u p) (partOf s p).running = savedCtx s p (ctxOf (partOf s p) (partOf s p).running) ∧
      (ctxOf (partOf u p) (partOf s p).incoming).st = .restoring ∧ ∀ n ∈ tilesOf s p, (tileOf u n).st = .saved := by
  obtain ⟨hout, hin⟩ := ctxOf_switchedOver (savedCtx s p) hne
  refine ⟨_, exec_switchSaveDone_of_save hst, ?_⟩
  beta_reduce
  rw [partOf_modPart_same, partOf_tilesSaved]
  refine ⟨rfl, rfl, hout, hin, fun n hn => ?_⟩
  rw [tileOf_modPart]
  exact st_tilesSaved p hn

/-! ### The restore (R366, R369) -/

/-- A partition whose incoming context runs, with the step that executes and the step that runs again. -/
def entered (exec again : Option Step) (q : Part) : Part :=
  modCtx { q with switchSt := .idle, running := q.incoming, exec := exec, rerunStep := again } q.incoming fun k =>
    { k with st := .running, switches := satAdd 32 k.switches 1, held := none, image := [], lanes := [], lists := [],
             betweenSteps := false }

theorem partOf_restoreCtx (s : State) (p : Nat) : partOf (restoreCtx s p) p =
    entered (if restoresWhole s (ctxOf (partOf s p) (partOf s p).incoming) then (ctxOf (partOf s p) (partOf s p).incoming).held else none)
      (if restoresWhole s (ctxOf (partOf s p) (partOf s p).incoming) then none
        else (ctxOf (partOf s p) (partOf s p).incoming).held.map runAgain) (partOf s p) := by
  have htiles {α : Type} (xs : List α) (n : α → Nat) (f : α → Tile → Tile) (t : State) :
      partOf (xs.foldl (fun u e => modTile u (n e) (f e)) t) p = partOf t p :=
    foldl_same (fun u : State => partOf u p) (fun u e => partOf_modTile ..) _ _
  have hexps (t : State) (x : Exps) : partOf { t with exps := x } p = partOf t p := rfl
  unfold restoreCtx
  extract_lets q c whole idle s0 s1 lanes s2 exec again enter
  have hs2 : partOf s2 p = partOf s p :=
    (hexps s1 _).trans ((htiles _ Prod.fst (fun e => restoredTile whole e.2) s0).trans (htiles _ id (fun _ => idle) s))
  rw [partOf_modPart_same, hs2]
  rfl

theorem ctxOf_entered (exec again : Option Step) (q : Part) : (ctxOf (entered exec again q) q.incoming).st = .running := by
  unfold entered
  rw [ctxOf_modCtx_same]

theorem exec_switchRestoreDone_of_whole (hst : (partOf s p).switchSt = .restore)
    (hw : restoresWhole s (ctxOf (partOf s p) (partOf s p).incoming) = true) : exec (.switchRestoreDone p) s =
      .next (startNext ((ctxOf (partOf s p) (partOf s p).incoming).image.foldl (fun s e => settle s e.1) (restoreCtx s p)) p) := by
  have hgo : ((partOf s p).switchSt != .restore) = false := by rw [hst]; rfl
  simp only [exec, execSwitchRestoreDone, hgo, hw, Bool.false_eq_true, if_false, if_true]

theorem exec_switchRestoreDone_of_again (hst : (partOf s p).switchSt = .restore)
    (hw : restoresWhole s (ctxOf (partOf s p) (partOf s p).incoming) = false) :
    exec (.switchRestoreDone p) s = .next (startNext (restoreCtx s p) p) := by
  have hgo : ((partOf s p).switchSt != .restore) = false := by rw [hst]; rfl
  simp only [exec, execSwitchRestoreDone, hgo, hw, Bool.false_eq_true, if_false]

theorem exec_readmission_of_closed {d : Declared} (hd : (partOf s p).declared = some d) (he : eventsOpen s p = false) :
    exec (.readmission p) s = .next (runReadmission s p d) := by
  simp only [exec, execReadmission, hd, he, Bool.false_eq_true, if_false]

/-- Settles O21: what the save leaves of the outgoing context is `savedCtx`, what the restore leaves of the partition `entered`. -/
theorem contextSwitch : Obligations.ContextSwitch := by
  unfold Obligations.ContextSwitch
  intro p s
  refine ⟨fun hv hidle hmany => ⟨_, exec_sliceExpiry_of_shared hv hidle hmany, congrArg Part.switchDue (partOf_modPart_same ..)⟩,
    fun c hc hv hidle hdue hpoint hawake => contextSwitch_of_point hc hv hidle hdue hpoint hawake,
    fun hst hexec => ⟨_, switchQuiesceDone_of_between hst hexec, congrArg Part.switchSt (partOf_modPart_same ..)⟩, ?stopped, ?save,
    ?restore, fun e hst hexec hwhy ho => quiesceTimeout_of_running hst hexec hwhy ho,
    fun d hd he => ⟨_, exec_readmission_of_closed hd he, rfl⟩⟩
  case stopped =>
    intro e hst hexec hwhy hstop
    refine ⟨_, switchQuiesceDone_of_stopped hst hexec hwhy hstop, ?_⟩
    beta_reduce
    rw [partOf_modPart_same]
    exact ⟨rfl, hexec⟩
  case save =>
    intro hst hne
    obtain ⟨u, hu, hsw, hexec, hout, hin, htiles⟩ := switchSaveDone_of_save hst hne
    exact ⟨u, hu, hsw, hexec, congrArg Ctx.st hout, hin, congrArg Ctx.image hout, htiles, congrArg Ctx.held hout⟩
  case restore =>
    intro hst
    rw [partOf_restoreCtx]
    refine ⟨rfl, rfl, ctxOf_entered .., fun hw => ⟨if_pos hw, ⟨_, exec_switchRestoreDone_of_whole hst hw, rfl⟩⟩, fun hw => ⟨?_,
      ⟨_, exec_switchRestoreDone_of_again hst hw, rfl⟩⟩⟩
    exact if_neg (by rw [hw]; exact Bool.false_ne_true)

end Sys2Proof.Machine
end

section
/-! PROOFS. The commands that load (O24). -/

namespace Sys2Proof.Machine

variable {s : State}

/-- A commit whose blocks stand ends the command that loaded, whatever it was. -/
theorem exec_bundleCommit_of_clean {p : Fin 8} {l : Load} (hl : loadOf s p = some l) (ha : l.adapter = none)
    (hents : bundleEnts s = []) : ∃ v result, exec (.bundleCommit p) s = .next (finishLater v l.src l.cmd .ok result) := by
  simp only [exec, execBundleCommit, hl, ha, hents, Option.isSome_none, Bool.false_eq_true, if_false, List.filter_nil,
    List.flatMap_nil, List.any_nil]
  exact ⟨_, _, rfl⟩

/-- The newest entry of a journal ends one command only. -/
theorem cmd_of_completed {x : Src} {a b : Nat} (ha : Completed x a s) (hb : Completed x b s) : a = b := by
  obtain ⟨e, he, -, -, -, hea⟩ := ha
  obtain ⟨f, hf, -, -, -, hfb⟩ := hb
  obtain rfl := Option.some.inj (he.symm.trans hf)
  exact hea.symm.trans hfb

/-- A LOAD of a bundle whose header gives version 0. -/
def versionZero : Load :=
  { src := ⟨0, 0, 0, some 0, 0, 1, 0, none, none, none⟩, cmd := 0x20, bundle := 1, version := 0, pver := 1, adapter := none }

/-- That load runs in partition 0. -/
def loadingZero : State := setLoad { State.reset with parts := [(0, { Part.init with dies := 1, valid := true })] } 0 (some versionZero)

/-- Refutes O24: the commit of a bundle ends the command that loaded it, LOAD_BUNDLE (0x20); the statement has it end LOAD_PROGRAM
(0x21) where the version is 0, a version that a bundle's header may give. -/
theorem not_loadCommands : ¬ Obligations.LoadCommands := by
  unfold Obligations.LoadCommands
  intro h
  obtain ⟨-, -, hcommit, -⟩ := h versionZero.src loadingZero
  have hl : loadOf loadingZero (0 : Fin 8) = some versionZero := by decide
  have hents : bundleEnts loadingZero = [] := by decide
  obtain ⟨u, hu, -, hdone, -⟩ := hcommit 0 versionZero hl rfl rfl fun e he => absurd (hents ▸ he) List.not_mem_nil
  obtain ⟨v, result, hv⟩ := exec_bundleCommit_of_clean hl rfl hents
  have huv := Host.Outcome.next.inj (hu.symm.trans hv)
  rw [huv] at hdone
  exact absurd (cmd_of_completed hdone (completed_finishLater v versionZero.src 0x20 result)) (by decide)

end Sys2Proof.Machine
end
